-- ==== Sys2Proof/Word.lean ====
section
/-! DEFINITION. The word types of the LS-4812 model: bytes, 32-bit register words, 48-bit device
addresses (R199), 128-bit instruction words (R148), 64-byte lines (R193), coordinates (R278). -/

namespace Sys2Proof

/-- A byte of memory, a packet or a record. -/
abbrev Byte := BitVec 8

/-- A setup register or an s register (R146, R498). -/
abbrev Word := BitVec 32

/-- A device address: 48 bits (R199). -/
abbrev Addr := BitVec 48

/-- An instruction word: 128 bits (R148). -/
abbrev IWord := BitVec 128

/-- A device coordinate as packets and registers carry it: 20 bits, bit 19 zero (R278). -/
abbrev Coord := BitVec 20

/-- One of the twelve compute dies CD0 to CD11, or a unit of a die (R10, R66, R114). -/
abbrev Cd := Fin 12

/-- One of the four base dies BD0 to BD3, equally a quadrant (R11) or an axis engine (R14). -/
abbrev Bd := Fin 4

/-- One of the eight torus ports A+ to D− (R267). -/
abbrev Port := Fin 8

/-- What reads of host windows return: device addresses and the bytes there. A read of an address that is not among
them completed with an error or was not accepted (R343). -/
abbrev HostData := List (Nat × List Byte)

/-- A helper instruction as its engine takes it: its identity on its die, and what the host returned for what its descriptor
and its lists hold in host windows (R163, R342). -/
structure HelperTake where
  id : Nat
  host : HostData
  deriving DecidableEq, Repr

/-- A movement engine of a die as it takes its next instruction, and what the host returned for the rows of a put that lie in
host windows (R162, R342). -/
structure EngineTake where
  engine : Fin 4
  host : HostData
  deriving DecidableEq, Repr

/-- The host's write of an entry of the MSI-X table: vector, message address and data, and its mask bit (R339, R360). -/
structure MsixWrite where
  vector : Nat
  addr : Nat
  data : Nat
  mask : Bool
  deriving DecidableEq, Repr

/-- What CXL training negotiated for CXL.mem: nothing, or the protocol, with the base that the host commits in the HDM
decoder, if it does (R223, R341). -/
inductive CxlMem where
  | off
  | on (hdm : Option Nat)
  deriving DecidableEq, Repr

/-- Readings of temperature sensors: die class (Table 11-2), die index, °C (R434). -/
abbrev Readings := List (Nat × Nat × Nat)

/-- A fault inside a Tun at a row (Table 3-7): none; a bit of a partial sum of a column (128: the checksum column); a bit
of a charge register (k, n), which stays in it; a bit of the checksum weight of array row k; a disagreement of the
duplicated adders of a column's tile addition. -/
inductive TunFault where
  | none
  | column (n bit : Nat)
  | cell (k n bit : Nat)
  | weight (k bit : Nat)
  | adder (n : Nat)
  deriving DecidableEq, Repr

end Sys2Proof
end

