-- ==== Sys2Proof/Syntax.lean ====
section
/-! DEFINITION. The commands of the block: one constructor per row of spec/opcode_table.json, with the
row's operands. A sequencer's instruction carries its die and its 128-bit word; a packet event names the
ejection queue that delivers it; what the physics or the environment gives (a reading, an error pattern,
data a host read returns) is an operand. -/

namespace Sys2Proof

inductive Instr where
  /-- NOP (R152): Scalar nop takes one issue clock and changes nothing. -/
  | nop (cd : Cd) (w : IWord)
  /-- ADD (R152): Scalar add writes s[rs1] + t modulo 2^32 to s[rd]. -/
  | add (cd : Cd) (w : IWord)
  /-- SUB (R152): Scalar sub writes s[rs1] − t modulo 2^32 to s[rd]. -/
  | sub (cd : Cd) (w : IWord)
  /-- MUL (R152): Scalar mul writes the low 32 bits of s[rs1] × t to s[rd]. -/
  | mul (cd : Cd) (w : IWord)
  /-- AND (R152): Scalar and writes the bitwise AND of s[rs1] and t. -/
  | and (cd : Cd) (w : IWord)
  /-- OR (R152): Scalar or writes the bitwise OR of s[rs1] and t. -/
  | or (cd : Cd) (w : IWord)
  /-- XOR (R152): Scalar xor writes the bitwise XOR of s[rs1] and t. -/
  | xor (cd : Cd) (w : IWord)
  /-- SHL (R152): Scalar shl shifts s[rs1] left by t mod 32. -/
  | shl (cd : Cd) (w : IWord)
  /-- SHR (R152): Scalar shr shifts s[rs1] right by t mod 32, filling with zeros. -/
  | shr (cd : Cd) (w : IWord)
  /-- SRA (R152): Scalar sra shifts s[rs1] right by t mod 32, filling with the sign. -/
  | sra (cd : Cd) (w : IWord)
  /-- LI (R152): Scalar li loads imm32 into s[rd]. -/
  | li (cd : Cd) (w : IWord)
  /-- FADD (R152): Scalar fadd adds s[rs1] and t as F32 under strict rules with nearest-even. -/
  | fadd (cd : Cd) (w : IWord)
  /-- FMUL (R152): Scalar fmul multiplies s[rs1] and t as F32 under strict rules with nearest-even. -/
  | fmul (cd : Cd) (w : IWord)
  /-- ITOF (R152): Scalar itof converts s[rs1] from I32 to F32 with nearest-even. -/
  | itof (cd : Cd) (w : IWord)
  /-- FTOI (R152): Scalar ftoi converts s[rs1] from F32 to I32 under Table 2-10. -/
  | ftoi (cd : Cd) (w : IWord)
  /-- CMP_EQ (R152): Scalar cmp_eq sets p[rd] when s[rs1] equals t. -/
  | cmpEq (cd : Cd) (w : IWord)
  /-- CMP_NE (R152): Scalar cmp_ne sets p[rd] when s[rs1] differs from t. -/
  | cmpNe (cd : Cd) (w : IWord)
  /-- CMP_LT (R152): Scalar cmp_lt sets p[rd] on a signed less-than. -/
  | cmpLt (cd : Cd) (w : IWord)
  /-- CMP_GE (R152): Scalar cmp_ge sets p[rd] on a signed greater-or-equal. -/
  | cmpGe (cd : Cd) (w : IWord)
  /-- CMP_LTU (R152): Scalar cmp_ltu sets p[rd] on an unsigned less-than. -/
  | cmpLtu (cd : Cd) (w : IWord)
  /-- FCMP_LT (R152): Scalar fcmp_lt sets p[rd] on an F32 less-than, false for a NaN. -/
  | fcmpLt (cd : Cd) (w : IWord)
  /-- FCMP_GE (R152): Scalar fcmp_ge sets p[rd] on an F32 greater-or-equal, false for a NaN. -/
  | fcmpGe (cd : Cd) (w : IWord)
  /-- PAND (R152): Predicate pand writes p[rs1] AND p[rs2] to p[rd]. -/
  | pand (cd : Cd) (w : IWord)
  /-- POR (R152): Predicate por writes p[rs1] OR p[rs2] to p[rd]. -/
  | por (cd : Cd) (w : IWord)
  /-- PNOT (R152): Predicate pnot writes NOT p[rs1] to p[rd]. -/
  | pnot (cd : Cd) (w : IWord)
  /-- ALI (R152): Scalar ali loads imm48 into a[rd]. -/
  | ali (cd : Cd) (w : IWord)
  /-- AADD (R152): Scalar aadd adds the sign-extended t to a[rs1] modulo 2^48. -/
  | aadd (cd : Cd) (w : IWord)
  /-- ALD (R153): Scalar ald issues an 8-byte load into a[rd] and stalls issue until it completes. -/
  | ald (cd : Cd) (w : IWord)
  /-- AST (R153): Scalar ast issues an 8-byte store of a[rd] and stalls issue until it completes. -/
  | ast (cd : Cd) (w : IWord)
  /-- LD (R153): Scalar ld issues a 4-byte load into s[rd] and stalls issue until it completes. -/
  | ld (cd : Cd) (w : IWord)
  /-- ST (R153): Scalar st issues a 4-byte store of s[rd] and stalls issue until it completes. -/
  | st (cd : Cd) (w : IWord)
  /-- SCALAR_ACCESS_COMPLETE (R153): A scalar memory access returns; the register is written, or fault code 8 follows an address or poison failure. -/
  | scalarAccessComplete (cd : Cd) (host : HostData) (hostOk : Bool)
  /-- SUMRD (R174): sumrd waits under R141 for the slot and then reads one word of the summary record into s[rd]. -/
  | sumrd (cd : Cd) (w : IWord)
  /-- SUMPRED (R174): sumpred waits under R141 for the slot and then sets p[rd] from a Table 5-17 selector. -/
  | sumpred (cd : Cd) (w : IWord)
  /-- CNTRD (R152): cntrd reads the count of a completion counter into s[rd]. -/
  | cntrd (cd : Cd) (w : IWord)
  /-- CNTERR (R152): cnterr reads the error record of a completion counter into s[rd]. -/
  | cnterr (cd : Cd) (w : IWord)
  /-- CNTSET (R167): cntset waits for every instruction naming the counter, then sets the count to t and clears its error record. -/
  | cntset (cd : Cd) (w : IWord)
  /-- WHOAMI (R152): whoami writes the device coordinate and die number to s[rd]. -/
  | whoami (cd : Cd) (w : IWord)
  /-- CLOCK (R152): clock writes the low 32 bits of the die's core clock count to s[rd]. -/
  | clock (cd : Cd) (w : IWord)
  /-- BR (R154): br sets pc to the branch target. -/
  | br (cd : Cd) (w : IWord)
  /-- CALL (R154): call saves the return address in a15 and jumps to the target. -/
  | call (cd : Cd) (w : IWord)
  /-- JR (R154): jr jumps to a[reg], or faults with code 2 if it is not a multiple of 16. -/
  | jr (cd : Cd) (w : IWord)
  /-- LOOP (R154): loop decrements s[reg] and branches while the new value is not zero. -/
  | loop (cd : Cd) (w : IWord)
  /-- HALT (R183): halt stops issue and waits for every issued instruction to complete. -/
  | halt (cd : Cd) (w : IWord)
  /-- HALT_COMPLETE (R183): Once everything a halted program issued has completed, the sequencer enters idle and writes the start command's completion. -/
  | haltComplete (cd : Cd)
  /-- LOAD_CHARGE (R76): A load-charge tile instruction is queued for a Tun to fill the second charge through the expander. -/
  | loadCharge (cd : Cd) (w : IWord)
  /-- PASS (R70): A pass tile instruction is queued to stream M moving rows through a charge into one accumulator tile. -/
  | pass (cd : Cd) (w : IWord)
  /-- ELEMENT_WISE_PASS (R109): An element-wise pass reads its stationary record at issue and is queued to multiply two row sets element by element into a tile. -/
  | elementWisePass (cd : Cd) (w : IWord)
  /-- TILE_ADD (R95): A tile add is queued to add an X128 tile image from a device address into an accumulator tile. -/
  | tileAdd (cd : Cd) (w : IWord)
  /-- TILE_ZERO (R69): A tile zero is queued to set every element of a tile to tag-0 zero. -/
  | tileZero (cd : Cd) (w : IWord)
  /-- SCOREBOARD_GRANT (R93): A waiting operation on a tile proceeds, in arrival order, once the holders allow its class under Table 3-6. -/
  | scoreboardGrant (cd : Cd) (tile : Nat)
  /-- TUN_OP_START (R175): A Tun operation leaves its queue and the Tun presents its first row or delivers its first charge row. -/
  | tunOpStart (cd : Cd) (j : Fin 12)
  /-- LOAD_CHARGE_COMPLETE (R77): A charge load delivers its last array row, so a pending swap-marked row may be presented. -/
  | loadChargeComplete (cd : Cd) (j : Fin 12)
  /-- TUN_IDLE_EXPIRE (R86): A Tun counts 1,024 clocks without a valid row, so its next valid row must follow the start offset and ramp. -/
  | tunIdleExpire (cd : Cd) (j : Fin 12)
  /-- TUN_START_OFFSET_EXPIRE (R86): A cold Tun's start offset runs out and it begins the 4-clock, 2-clock, 1-clock ramp of valid rows. -/
  | tunStartOffsetExpire (cd : Cd) (j : Fin 12)
  /-- TUN_ROW_VERDICT (R97): A valid output row reaches the bottom edge, is compared with its checksum column and is written into the tile. -/
  | tunRowVerdict (cd : Cd) (j : Fin 12) (fault : TunFault)
  /-- TUN_OP_COMPLETE (R111): A Tun operation ends with a Table 3-9 status, releases its tile and raises its counter. -/
  | tunOpComplete (cd : Cd) (j : Fin 12)
  /-- SEQ_REMAP_TUN (R178): On a Tun's status 4 the sequencer remaps its logical Tuns to a substitute and reissues the stopped work. -/
  | seqRemapTun (cd : Cd) (j : Fin 12)
  /-- SPARGE_CONV (R126): Vector conv converts its input directly to the output format. -/
  | spargeConv (cd : Cd) (w : IWord)
  /-- SPARGE_ADD (R126): Vector add computes a + b, in X128 when an input is X128. -/
  | spargeAdd (cd : Cd) (w : IWord)
  /-- SPARGE_SUB (R126): Vector sub computes a − b, in X128 when an input is X128. -/
  | spargeSub (cd : Cd) (w : IWord)
  /-- SPARGE_MUL (R130): Vector mul computes a × b. -/
  | spargeMul (cd : Cd) (w : IWord)
  /-- SPARGE_FMA (R130): Vector fma computes a × b + c with one rounding. -/
  | spargeFma (cd : Cd) (w : IWord)
  /-- SPARGE_MIN (R128): Vector min returns the smaller input under the NaN and zero rules. -/
  | spargeMin (cd : Cd) (w : IWord)
  /-- SPARGE_MAX (R128): Vector max returns the larger input under the NaN and zero rules. -/
  | spargeMax (cd : Cd) (w : IWord)
  /-- SPARGE_ABS (R130): Vector abs returns |a|. -/
  | spargeAbs (cd : Cd) (w : IWord)
  /-- SPARGE_NEG (R130): Vector neg returns −a. -/
  | spargeNeg (cd : Cd) (w : IWord)
  /-- SPARGE_CLAMP (R130): Vector clamp returns min(max(a, b), c). -/
  | spargeClamp (cd : Cd) (w : IWord)
  /-- SPARGE_SELECT (R128): Vector select returns a where c is non-zero, else b. -/
  | spargeSelect (cd : Cd) (w : IWord)
  /-- SPARGE_CMP_GT (R130): Vector cmp_gt writes 1 where a > b, else 0. -/
  | spargeCmpGt (cd : Cd) (w : IWord)
  /-- SPARGE_CMP_GE (R130): Vector cmp_ge writes 1 where a ≥ b, else 0. -/
  | spargeCmpGe (cd : Cd) (w : IWord)
  /-- SPARGE_CMP_EQ (R130): Vector cmp_eq writes 1 where a = b, else 0. -/
  | spargeCmpEq (cd : Cd) (w : IWord)
  /-- IADD (R128): Vector iadd adds in I32 with saturation. -/
  | iadd (cd : Cd) (w : IWord)
  /-- ISUB (R128): Vector isub subtracts in I32 with saturation. -/
  | isub (cd : Cd) (w : IWord)
  /-- IMUL (R128): Vector imul multiplies in I32 with saturation. -/
  | imul (cd : Cd) (w : IWord)
  /-- IAND (R130): Vector iand takes the bitwise AND of the I32 patterns. -/
  | iand (cd : Cd) (w : IWord)
  /-- IOR (R130): Vector ior takes the bitwise OR of the I32 patterns. -/
  | ior (cd : Cd) (w : IWord)
  /-- IXOR (R130): Vector ixor takes the bitwise XOR of the I32 patterns. -/
  | ixor (cd : Cd) (w : IWord)
  /-- ISHL (R128): Vector ishl shifts a left by b mod 32. -/
  | ishl (cd : Cd) (w : IWord)
  /-- ISHR (R128): Vector ishr shifts a right arithmetically by b mod 32. -/
  | ishr (cd : Cd) (w : IWord)
  /-- RECIP (R131): Vector recip returns the correctly rounded 1 / a. -/
  | recip (cd : Cd) (w : IWord)
  /-- DIV (R131): Vector div returns the correctly rounded a / b. -/
  | div (cd : Cd) (w : IWord)
  /-- SQRT (R131): Vector sqrt returns the correctly rounded square root. -/
  | sqrt (cd : Cd) (w : IWord)
  /-- RSQRT (R131): Vector rsqrt returns the correctly rounded reciprocal square root. -/
  | rsqrt (cd : Cd) (w : IWord)
  /-- EXP (R131): Vector exp returns the correctly rounded e^a. -/
  | exp (cd : Cd) (w : IWord)
  /-- EXP2 (R131): Vector exp2 returns the correctly rounded 2^a. -/
  | exp2 (cd : Cd) (w : IWord)
  /-- LOG (R131): Vector log returns the correctly rounded ln a. -/
  | log (cd : Cd) (w : IWord)
  /-- LOG2 (R131): Vector log2 returns the correctly rounded log2 a. -/
  | log2 (cd : Cd) (w : IWord)
  /-- TANH (R131): Vector tanh returns the correctly rounded tanh a. -/
  | tanh (cd : Cd) (w : IWord)
  /-- SIGMOID (R131): Vector sigmoid returns the correctly rounded 1 / (1 + e^−a). -/
  | sigmoid (cd : Cd) (w : IWord)
  /-- ERF (R131): Vector erf returns the correctly rounded erf a. -/
  | erf (cd : Cd) (w : IWord)
  /-- SIN (R131): Vector sin returns the correctly rounded sine with exact range reduction. -/
  | sin (cd : Cd) (w : IWord)
  /-- COS (R131): Vector cos returns the correctly rounded cosine with exact range reduction. -/
  | cos (cd : Cd) (w : IWord)
  /-- ROW_SUM (R133): Vector row_sum reduces each logical row by the fixed pairwise tree to one sum. -/
  | rowSum (cd : Cd) (w : IWord)
  /-- ROW_MAX (R133): Vector row_max reduces each logical row to its maximum. -/
  | rowMax (cd : Cd) (w : IWord)
  /-- ROW_MIN (R133): Vector row_min reduces each logical row to its minimum. -/
  | rowMin (cd : Cd) (w : IWord)
  /-- COL_SUM (R134): Vector col_sum sums each lane down all rows in ascending order. -/
  | colSum (cd : Cd) (w : IWord)
  /-- COL_MAX (R134): Vector col_max takes each lane's maximum down all rows. -/
  | colMax (cd : Cd) (w : IWord)
  /-- S64_ADD (R50): Vector s64_add adds S64 blocks with summed counts. -/
  | s64Add (cd : Cd) (w : IWord)
  /-- SPARGE_START (R136): A queued Sparge instruction reads its first lane-row once the previous one has read its last and R122 to R124 allow. -/
  | spargeStart (cd : Cd) (u : Fin 12)
  /-- SPARGE_CHECK_FAIL (R142): A lane residue or parity check fails, writing stops and the instruction re-executes from the failing lane-row. -/
  | spargeCheckFail (cd : Cd) (u : Fin 12) (row : Nat)
  /-- SPARGE_COMPLETE (R143): A Sparge instruction writes its last output lane-row and ends with a Table 4-8 status. -/
  | spargeComplete (cd : Cd) (u : Fin 12)
  /-- SUMMARY_SLOT_UPDATE (R141): Eight clocks after the last output lane-row the summary record is published into its slot and the counter rises. -/
  | summarySlotUpdate (cd : Cd) (u : Fin 12)
  /-- SEQ_REMAP_SPARGE (R180): On a Sparge unit's status 4 the sequencer remaps it and reissues the failed and queued instructions. -/
  | seqRemapSparge (cd : Cd) (u : Fin 12)
  /-- COPY (R161): A copy movement instruction is queued to move rows between two device addresses. -/
  | copy (cd : Cd) (w : IWord)
  /-- PUT (R161): A put movement instruction is queued to write bytes to a remote device. -/
  | put (cd : Cd) (w : IWord)
  /-- GET (R161): A get movement instruction is queued to read bytes from a remote device. -/
  | get (cd : Cd) (w : IWord)
  /-- MOVEMENT_START (R162): A free movement engine takes the next movement instruction and, for a get, sends it once the reply slot is reserved. -/
  | movementStart (cd : Cd) (e : EngineTake)
  /-- MOVEMENT_COMPLETE (R162): A movement operation completes on its last write or acknowledgement and raises its counter. -/
  | movementComplete (cd : Cd) (id : Nat) (remote : Bool) (host : HostData) (hostOk : Bool)
  /-- HELPER_DMA (R163): A helper instruction with op 0x00 hands a DMA descriptor to a mover of the named base die. -/
  | helperDma (cd : Cd) (w : IWord)
  /-- HELPER_COLLECTIVE (R163): A helper instruction with op 0x01 hands a collective descriptor to the axis collective engine. -/
  | helperCollective (cd : Cd) (w : IWord)
  /-- HELPER_GRIST (R163): A helper instruction with op 0x02 hands a grist descriptor to the grist engine. -/
  | helperGrist (cd : Cd) (w : IWord)
  /-- HELPER_COMPLETE (R164): A helper operation ends with a Table 5-14 status and raises its counter. -/
  | helperComplete (cd : Cd) (id : Nat)
  /-- WAIT_CNT (R168): wait_cnt stalls issue until the counter reaches a value. -/
  | waitCnt (cd : Cd) (w : IWord)
  /-- FLAG_ADD (R168): flag_add atomically adds s[rs] to a local or remote flag word. -/
  | flagAdd (cd : Cd) (w : IWord)
  /-- FLAG_WAIT (R170): flag_wait stalls issue until a local flag word meets the condition. -/
  | flagWait (cd : Cd) (w : IWord)
  /-- FLAG_WAIT_RECHECK (R170): A flag_wait re-reads its word after 16 µs without a write to its line. -/
  | flagWaitRecheck (cd : Cd)
  /-- SEM_ACQ (R171): sem_acq sends an acquire of s[rs] credits to the semaphore's home. -/
  | semAcq (cd : Cd) (w : IWord)
  /-- SEM_ACQ_REPLY (R171): An acquire reply of granted, wait_for_wake or retry reaches the sequencer. -/
  | semAcqReply (cd : Cd)
  /-- SEM_WAKE_TIMEOUT (R171): A sem_acq awaiting a wake re-sends its request after 64 µs. -/
  | semWakeTimeout (cd : Cd)
  /-- SEM_RETRY_TIMER (R171): A sem_acq told to retry re-sends its request after 2 µs. -/
  | semRetryTimer (cd : Cd)
  /-- SEM_REL (R172): sem_rel returns s[rs] credits to the semaphore at its home. -/
  | semRel (cd : Cd) (w : IWord)
  /-- FENCE (R168): fence stalls issue until every instruction the die has issued has completed. -/
  | fence (cd : Cd) (w : IWord)
  /-- POST (R168): post hands s[rs] to the ring engine as an event on a named event ring. -/
  | post (cd : Cd) (w : IWord)
  /-- ORDERED_RELEASE (R169): An ordered flag_add, sem_rel or post takes effect once every earlier instruction on its counter has completed. -/
  | orderedRelease (cd : Cd) (id : Nat)
  /-- SEQ_STALL_END (R175): A stalled issue resumes when its queue entry, counter, flag, summary slot or fence condition is met. -/
  | seqStallEnd (cd : Cd)
  /-- WAIT_LIMIT_EXPIRE (R177): A stall or scoreboard wait exceeds SEQ_WAIT_LIMIT and faults with code 6. -/
  | waitLimitExpire (cd : Cd) (id : Option Nat)
  /-- FAULT_SETTLE (R185): After a fault every issued instruction has completed, so the sequencer enters faulted and sends the fault event. -/
  | faultSettle (cd : Cd)
  /-- ICACHE_FILL (R176): A missed 64-byte instruction line arrives and issue resumes. -/
  | icacheFill (cd : Cd)
  /-- START_PROGRAM (R182): A start command clears the sequencer's state and runs the program from its entry, if the die is idle or faulted. -/
  | startProgram (r : Nat)
  /-- STOP_DRAIN (R184): A stop with drain halts issue and lets every issued instruction complete. -/
  | stopDrain (r : Nat)
  /-- STOP_ABORT (R184): A stop with abort halts issue and drops every queued instruction that has not started. -/
  | stopAbort (r : Nat)
  /-- STOP_COMPLETE (R184): A stopping sequencer has nothing in flight, enters idle and writes the start and stop completions. -/
  | stopComplete (cd : Cd)
  /-- HOME_READ (R194): A line read at its home is decoded, corrected if possible and delivered in arrival order. -/
  | homeRead (addr : Nat) (err : List Byte)
  /-- HOME_WRITE (R212): A write at its home is performed, merging a partial line and clearing poison only for a whole-line write. -/
  | homeWrite (addr : Nat) (data : List Byte) (mark : Bool)
  /-- LANE_TEST_END (R197): The channel lane test after an uncorrectable read ends, spares replace failing lanes and the line is reread or poisoned. -/
  | laneTestEnd (stack channel : Nat) (lanes : List Nat) (err : List Byte)
  /-- ADD64 (R213): Atomic add64 adds an operand to a word modulo 2^64 at its home. -/
  | add64 (i : Nat)
  /-- FETCH_ADD64 (R213): Atomic fetch_add64 adds an operand and returns the prior word. -/
  | fetchAdd64 (i : Nat)
  /-- ADD64_SAT (R213): Atomic add64_sat adds with I64 saturation and counts saturations. -/
  | add64Sat (i : Nat)
  /-- SWAP64 (R213): Atomic swap64 replaces a word and returns the prior word. -/
  | swap64 (i : Nat)
  /-- CAS64 (R213): Atomic cas64 replaces a word if it equals the first operand. -/
  | cas64 (i : Nat)
  /-- SEM_ACQUIRE (R171): The home performs the acquire procedure and replies granted, wait_for_wake or retry. -/
  | semAcquire (i : Nat)
  /-- SEM_RELEASE (R172): The home adds credits and sends a wake when the recorded waiter can be satisfied. -/
  | semRelease (i : Nat)
  /-- ATOMIC_BUFFER_WRITEBACK (R214): A buffered atomic line is written back after 1 µs without an atomic. -/
  | atomicBufferWriteback (addr : Nat)
  /-- MEMORY_INIT_DONE (R215): A tier of a quadrant finishes initialisation, sets its ready bit and releases waiting requests. -/
  | memoryInitDone (tier : Fin 3) (quad : Bd)
  /-- SCRUB_READ (R217): The scrub engine reads and decodes the next line of a stack or SRAM at its paced time. -/
  | scrubRead (u : Nat) (err : List Byte)
  /-- CXL_MEM_REQUEST (R225): A host CXL.mem access through the window is performed at the home in arrival order. -/
  | cxlMemRequest (isWrite : Bool) (hpa : Nat) (data : List Byte)
  /-- MEM_LAYOUT_WRITE (R227): A layout register write takes effect only while the device is quiet, else it sets layout_rejected. -/
  | memLayoutWrite (off v : Nat)
  /-- MEM_SCRUB_WRITE (R217): A write that changes a scrub period starts a new period at offset 0. -/
  | memScrubWrite (v : Nat)
  /-- LOOK_UP (R239): A grist look-up resolves each bag's ids and sends look-up requests to owners as reply room allows. -/
  | lookUp (cd : Cd) (id : Nat) (host : HostData) (hostOk : Bool)
  /-- UPDATE (R244): A grist update sends each owner its ids and gradient chunks for delta accumulation. -/
  | update (cd : Cd) (id : Nat) (host : HostData) (hostOk : Bool)
  /-- FOLD (R252): A fold of step s applies the delta region to its rows or is refused or made to wait by the region state. -/
  | fold (cd : Cd) (h : HelperTake)
  /-- FOLD_END (R253): Every entry of a folding region is folded and cleared, and the region becomes clean. -/
  | foldEnd (job : Nat)
  /-- VERSION_SWITCH (R254): A version switch records the switch step and sets switch pending. -/
  | versionSwitch (cd : Cd) (h : HelperTake)
  /-- VERSION_RELEASE (R255): A version release makes the inactive version active when its three conditions hold. -/
  | versionRelease (cd : Cd) (h : HelperTake)
  /-- SKEW_REPORT (R258): A skew report writes the engine's top list and optionally resets its counters. -/
  | skewReport (cd : Cd) (h : HelperTake)
  /-- MIGRATE_OUT (R261): Migrate out sends every plan row the engine serves, with its accumulator, to its new slot. -/
  | migrateOut (cd : Cd) (id : Nat) (host : HostData) (hostOk : Bool)
  /-- INSTALL_OVERRIDES (R261): Install overrides writes or clears override entries and increments dir_epoch. -/
  | installOverrides (cd : Cd) (id : Nat) (host : HostData) (hostOk : Bool)
  /-- GRIST_LOOKUP_REQUEST (R240): An owner's serving engine pools the requested rows into one F32 partial or refuses with a flag. -/
  | gristLookupRequest (q : Fin 9)
  /-- GRIST_UPDATE_IDS (R246): An owner takes an update group's ids and places their contributions in delta entries. -/
  | gristUpdateIds (q : Fin 9)
  /-- GRIST_GRADIENT_CHUNK (R247): An owner takes a gradient chunk and adds its quantised contributions to the delta entries. -/
  | gristGradientChunk (q : Fin 9)
  /-- GRIST_MIGRATED_ROW (R261): A receiving engine writes a migrated row and its accumulator, forwarding to its partner if mirrored. -/
  | gristMigratedRow (q : Fin 9) (row : Nat) (hot : Option Nat)
  /-- GRIST_REPLY (R241): A requester takes a reply chunk or acknowledgement and combines it into its bag or contribution count. -/
  | gristReply (q : Fin 9)
  /-- GRIST_BUSY_RETRY (R241): A request refused as busy is sent again after 2 µs. -/
  | gristBusyRetry (tag : Nat)
  /-- GRIST_COMPLETE (R238): A grist descriptor ends once all its replies are in, with its summary record written. -/
  | gristComplete (job : Nat)
  /-- GRIST_CTRL_WRITE (R265): A write of GRIST_BASE or GRIST_CTRL takes effect only while no grist work is in flight. -/
  | gristCtrlWrite (off v : Nat)
  /-- PORT_ENABLE (R274): Writing enable 1 powers a port's lanes and starts bring-up in state 1. -/
  | portEnable (p : Port)
  /-- PORT_DISABLE (R276): Writing enable 0 puts the port in state 0. -/
  | portDisable (p : Port)
  /-- PORT_SIGNAL_DETECT (R274): Signal on at least three lanes moves the port to training. -/
  | portSignalDetect (p : Port) (lanes : Fin 16)
  /-- PORT_TRAINING_DONE (R274): Equalisation, FEC lock and deskew finish and the port enters identity exchange. -/
  | portTrainingDone (p : Port) (lanes : Fin 16)
  /-- IDENTITY_SLOT (R275): A received identity slot is checked against the table, moving to test or to state 7. -/
  | identitySlot (p : Port) (coord nport lanes : Nat)
  /-- IDENTITY_SEND_TIMER (R275): A bringing-up port sends its identity slot once per µs. -/
  | identitySendTimer (p : Port)
  /-- PORT_TEST_END (R274): The 65,536 test slots are exchanged and the port sends its go slot if every one passed. -/
  | portTestEnd (p : Port) (ok : Bool)
  /-- GO_SLOT (R274): The neighbour's go slot arrives and the port enters state 5 or 6. -/
  | goSlot (p : Port)
  /-- BRINGUP_STEP_TIMEOUT (R274): A bring-up step exceeds its limit and the port returns to state 1. -/
  | bringupStepTimeout (p : Port)
  /-- ROUTER_ROUND (R284): In each slot round every arrival is ejected, placed on a port or discarded, and injection candidates fill free productive ports. -/
  | routerRound
  /-- SLOT_RECEIVE (R280): A link die receives a slot, checks its CRC and FEC and places it in the elastic queue or discards it. -/
  | slotReceive (p : Port) (lanes : List (List Byte)) (crc : Nat) (badLanes : Fin 16)
  /-- LANE_LOCK_LOSS (R303): A lane loses lock or exceeds 8 uncorrectable codewords in 1 ms, degrading the port or marking it down. -/
  | laneLockLoss (p : Port) (lane : Fin 4)
  /-- LANE_DROP_SLOT (R303): A lane drop slot from the neighbour moves the port to state 6. -/
  | laneDropSlot (p : Port) (lanes : Nat)
  /-- FAULT_DETECT_EXPIRE (R304): No valid slot arrives for fd_us and the port enters state 8. -/
  | faultDetectExpire (p : Port)
  /-- TIMING_PORT_LOST (R271): The selected timing port goes down and the slot clock follows the next listed source or holds over. -/
  | timingPortLost
  /-- VALIDATE (R288): A validate command copies a routing table block into a slot with an epoch, unless refused. -/
  | validate (v : Nat)
  /-- INVALIDATE (R288): An invalidate command empties a routing table slot, unless refused. -/
  | invalidate (v : Nat)
  /-- INJECT_EPOCH_WRITE (R290): A write of inject_epoch changes the epoch of injected packets and starts the hold, or is refused. -/
  | injectEpochWrite (v : Nat)
  /-- RT_HOLD_EXPIRE (R291): The hold time after an epoch change ends and the old slot may be changed. -/
  | rtHoldExpire
  /-- PUT_PACKET (R296): A reliable-delivery layer accepts a put packet and writes its data at the home. -/
  | putPacket (q : Fin 9)
  /-- GET_REQUEST (R298): A responder accepts a get request and sends its data as get replies when it can. -/
  | getRequest (q : Fin 9) (host : HostData) (hostOk : Bool)
  /-- GET_REPLY (R296): A requester accepts a get reply and writes its data locally. -/
  | getReply (q : Fin 9)
  /-- ATOMIC_REQUEST (R279): A responder accepts an atomic request and performs it at the home. -/
  | atomicRequest (q : Fin 9)
  /-- ATOMIC_REPLY (R279): A requester accepts an atomic reply carrying its outcome and prior word. -/
  | atomicReply (q : Fin 9)
  /-- WAKE (R172): A wake reaches a die and resumes its waiting sem_acq, or is discarded. -/
  | wake (q : Fin 9)
  /-- ACK_PACKET (R295): A sender takes ack records, releasing acknowledged packets or failing a flow on reset. -/
  | ackPacket (q : Fin 9)
  /-- ACK_DELAY_EXPIRE (R295): ack_delay passes since the oldest unacknowledged accepted packet and an ack record is sent. -/
  | ackDelayExpire (src flow : Nat)
  /-- RETRANSMIT_TIMEOUT (R297): An unacknowledged packet is retransmitted, or the flow fails after the retry limit. -/
  | retransmitTimeout (dst flow seq : Nat)
  /-- SENDER_FLOW_IDLE (R294): A sender releases a fully acknowledged flow after idle_ms. -/
  | senderFlowIdle (dst flow : Nat)
  /-- RECEIVER_FLOW_IDLE (R294): A receiver releases a flow state 2 × idle_ms after its last accepted packet. -/
  | receiverFlowIdle (src flow : Nat)
  /-- CONGESTION_MAP_PERIOD (R302): A map period ends, the congestion map is written and optionally posted. -/
  | congestionMapPeriod
  /-- FAB_RD_CTRL_WRITE (R203): A change of reorder_mib is taken only while the device is quiet with no flow state. -/
  | fabRdCtrlWrite (v : Nat)
  /-- ALL_REDUCE (R312): An all-reduce gives every member the reduction of all contributions. -/
  | allReduce (cd : Cd) (h : HelperTake)
  /-- REDUCE_SCATTER (R312): A reduce-scatter gives each member the reduction of the chunks it holds. -/
  | reduceScatter (cd : Cd) (h : HelperTake)
  /-- ALL_GATHER (R312): An all-gather gives every member all chunks. -/
  | allGather (cd : Cd) (h : HelperTake)
  /-- BROADCAST (R312): A broadcast writes the root's source to every member. -/
  | broadcast (cd : Cd) (h : HelperTake)
  /-- REDUCE (R312): A reduce writes the reduction of all contributions at the root. -/
  | reduce (cd : Cd) (h : HelperTake)
  /-- SHIFT (R312): A shift sends source s places along the live ring. -/
  | shift (cd : Cd) (h : HelperTake)
  /-- PERMUTATION (R334): A permutation sends its entry list as puts and ends when expected bytes have arrived. -/
  | permutation (cd : Cd) (h : HelperTake)
  /-- PITCH (R327): A pitch sends this member's arrival toward its ring's root. -/
  | pitch (cd : Cd) (h : HelperTake)
  /-- PACE_GROUP (R330): A pace group descriptor records the device's pace group and completes at once. -/
  | paceGroup (cd : Cd) (h : HelperTake)
  /-- COLL_START (R321): An accepted collective starts once fewer than four run and no same-tag collective is in progress. -/
  | collStart (eng : Fin 4) (host : HostData) (hostOk : Bool)
  /-- COLL_CHECK (R324): A check packet is compared with the member's descriptor, giving outcome 2 on a difference. -/
  | collCheck (q : Fin 9)
  /-- COLL_STREAM_PACKET (R323): An engine takes a collective stream packet and combines or writes it. -/
  | collStreamPacket (q : Fin 9) (base : Nat)
  /-- ABORT_PACKET (R326): An abort packet ends the member's collective with outcome 1 and is passed on. -/
  | abortPacket (q : Fin 9)
  /-- PERMUTATION_DATA (R334): A permutation data packet is written as a put and counted toward expected bytes. -/
  | permutationData (q : Fin 9)
  /-- PITCH_ARRIVAL (R328): A root combines an arrival and sends the next stage once its ring has arrived. -/
  | pitchArrival (q : Fin 9)
  /-- PITCH_RELEASE (R328): A release is passed down and completes the member's pitch, handing the group pace to the ledger. -/
  | pitchRelease (q : Fin 9)
  /-- PACE_REQUEST (R331): A global root takes a pace request and relays a notice if the pace is new. -/
  | paceRequest (q : Fin 9)
  /-- PACE_NOTICE (R331): A member takes a pace notice and hands its pace to the energy ledger. -/
  | paceNotice (q : Fin 9)
  /-- COLL_CMD_ABORT (R326): Writing COLL_CMD.abort ends every collective in progress with outcome 1. -/
  | collCmdAbort
  /-- DOORBELL_SNOOP (R346): A snoop invalidation of a held doorbell line makes the device read it again. -/
  | doorbellSnoop (line : Nat)
  /-- DOORBELL_POLL (R346): The poll interval expires and the device reads a doorbell line again. -/
  | doorbellPoll (line : Nat)
  /-- DOORBELL_LINE_RETURN (R348): A doorbell line arrives and each word is compared, possibly putting a ring into error. -/
  | doorbellLineReturn (line : Nat) (data : List Byte) (ok : Bool)
  /-- RING_FETCH (R354): The ring engine reserves a completion entry and fetches the next command descriptor in rotation. -/
  | ringFetch
  /-- DESCRIPTOR_RETURN (R349): A fetched descriptor returns, is checked and is sent to its unit or completed with status 2. -/
  | descriptorReturn (r : Nat) (data : List Byte) (ok : Bool)
  /-- RING_NOP (R349): A nop command completes at once and serves as a fence when flagged. -/
  | ringNop (r : Nat)
  /-- DMA (R351): A DMA descriptor is queued to a mover and moves its rows line by line. -/
  | dma (r : Nat)
  /-- DMA_TRANSFER_END (R351): A DMA's writes are all performed, its flag is added and it completes. -/
  | dmaTransferEnd (m : Fin 16) (host : HostData) (hostOk : Bool)
  /-- WRITE (R353): A write command writes up to 32 bytes at the home and completes once visible. -/
  | write (r : Nat)
  /-- COMPLETION_ACCEPT (R357): The collector accepts a completion or event into staging, or the source holds it. -/
  | completionAccept (src : Nat)
  /-- COMPLETION_WRITE (R355): A staged completion is written in two posted writes with its phase bit. -/
  | completionWrite (r : Nat)
  /-- EVENT_WRITE (R359): A staged event is written to its ring, or dropped and counted if the ring is full. -/
  | eventWrite (r : Nat)
  /-- INTERRUPT_TIMER (R360): RING_MOD.time passes since the first unsignalled entry and the vector is sent. -/
  | interruptTimer (r : Nat)
  /-- MSIX_UNMASK (R360): Unmasking a vector sends its pending message. -/
  | msixUnmask (v : MsixWrite)
  /-- RING_ENABLE (R362): RING_CMD enable clears a disabled ring's indices and enables it. -/
  | ringEnable
  /-- RING_DISABLE_DRAIN (R361): Disable with drain stops fetch and lets fetched descriptors run. -/
  | ringDisableDrain
  /-- RING_DISABLE_ABORT (R361): Disable with abort completes unstarted fetched descriptors with status 9. -/
  | ringDisableAbort
  /-- RING_DISABLE_COMPLETE (R361): A disabling ring has nothing uncompleted and enters the disabled state. -/
  | ringDisableComplete (r : Nat)
  /-- RING_CONFIG_WRITE (R366): A ring configuration or doorbell base write is refused with cfg_rejected unless its ring or all rings are disabled. -/
  | ringConfigWrite (off v : Nat)
  /-- BME_CLEAR (R363): Clearing Bus Master Enable holds all host requests while device work continues. -/
  | bmeClear
  /-- BME_SET (R363): Setting Bus Master Enable resumes held writes and rereads every doorbell line. -/
  | bmeSet
  /-- FUNCTION_LEVEL_RESET (R364): A function-level reset aborts every program, discards staged entries and waits for started commands. -/
  | functionLevelReset
  /-- CXL_RESET (R364): A CXL Reset acts as a function-level reset and also resets CXL.cache and CXL.mem state. -/
  | cxlReset
  /-- HOST_RESET_COMPLETE (R364): Every started command has ended, host registers return to reset values and doorbell lines are released. -/
  | hostResetComplete
  /-- HOST_LINK_LOSS (R365): Loss of the host link stops fetch and holds completions and events. -/
  | hostLinkLoss
  /-- HOST_LINK_RESTORE (R365): The host link returns, held entries are written, doorbells reread and an event sent. -/
  | hostLinkRestore
  /-- PERST_ASSERT (R438): Asserting PERST_N acts as a host-link loss. -/
  | perstAssert
  /-- PERST_RELEASE (R438): Releasing PERST_N applies a CXL Reset and starts link training. -/
  | perstRelease
  /-- LOST_ADD (R390): DEP_LOST add appends a coordinate to the lost list and aborts collectives in progress. -/
  | lostAdd (coord : Nat)
  /-- LOST_REMOVE (R390): DEP_LOST remove deletes a coordinate from the lost list. -/
  | lostRemove (coord : Nat)
  /-- LOST_CLEAR (R390): DEP_LOST clear empties the lost list. -/
  | lostClear
  /-- UNLOAD (R393): DEP_CMD unload sends every mirror region to DEP_TARGET's primary regions, then a done packet. -/
  | unload
  /-- RESEED (R393): DEP_CMD reseed sends every primary region to the partner's mirror regions, then a done packet. -/
  | reseed
  /-- CANCEL (R393): DEP_CMD cancel stops a transfer in progress without a done packet. -/
  | cancel
  /-- DEP_CONFIG_WRITE (R401): A write of partner, ward, cellar or digest base during a digest or transfer is ignored with cfg_rejected. -/
  | depConfigWrite (off v : Nat)
  /-- DIGEST_DEFERRED_START (R378): A queued digest trigger starts once the running digest ends. -/
  | digestDeferredStart
  /-- PRIMARY_DIGEST_DONE (R380): The primary digest is computed, poisoned lines restored and the digest sent to the partner. -/
  | primaryDigestDone
  /-- MIRROR_DIGEST_DONE (R380): The mirror digest is computed after the ward's reconciliation and compared if the ward's digest is held. -/
  | mirrorDigestDone
  /-- DIGEST_PACKET (R382): A ward's digest arrives and is compared, held or given verdict 4. -/
  | digestPacket (q : Fin 9)
  /-- VERDICT_PACKET (R381): A verdict packet arrives and is recorded as the primary verdict. -/
  | verdictPacket (q : Fin 9)
  /-- DIGEST_TIMEOUT (R383): timeout_ms passes since the trigger and the digest completes without an answer. -/
  | digestTimeout
  /-- LINE_REQUEST (R386): A cellar line request is answered with the line from the corresponding region. -/
  | lineRequest (q : Fin 9)
  /-- LINES_PACKET (R389): A cellar lines packet is written to the named side if its sender and offsets pass, else refused. -/
  | linesPacket (q : Fin 9)
  /-- DIRECT_LIST_PACKET (R376): A direct list from the ward is taken and its ranges are sent back from the primary regions. -/
  | directListPacket (q : Fin 9)
  /-- DONE_RECONCILIATION (R376): A done packet of kind 0 lets the mirror digest proceed. -/
  | doneReconciliation (q : Fin 9)
  /-- DONE_UNLOAD (R394): A done packet of kind 1 starts a receive digest of the primary regions. -/
  | doneUnload (q : Fin 9)
  /-- DONE_RESEED (R394): A done packet of kind 2 starts a receive digest of the mirror regions. -/
  | doneReseed (q : Fin 9)
  /-- RECEIVE_DIGEST_DONE (R394): A receive digest is compared with the carried digest, recorded and returned as a verdict. -/
  | receiveDigestDone
  /-- UNLOAD_TIMEOUT (R394): No verdict arrives within timeout_ms of the acknowledged done packet and unload_done is set with verdict 3. -/
  | unloadTimeout
  /-- CLOCK_LOSS (R20): A dual-clock queue counts 256 reading clocks without a writing-clock toggle and raises clock loss. -/
  | clockLoss (die : Nat)
  /-- LOG_WRITE (R369): The maltster takes an entry from the log queue and writes it as a record while logging is enabled. -/
  | logWrite
  /-- WATCHDOG_RESTART (R398): Ralsar restarts the watchdog by writing its control register. -/
  | watchdogRestart
  /-- WATCHDOG_EXPIRE (R398): The watchdog expires and resets the maltster, or holds it after a third expiry in 10 s. -/
  | watchdogExpire (exchange : Bool)
  /-- STEWARD_RESTART_DONE (R398): Ralsar has reapplied its supplements and resumes from the log queue. -/
  | stewardRestartDone
  /-- POWER_STAGE_FRAME (R405): A power stage's bus frame arrives with its readings and fault bits. -/
  | powerStageFrame (j : Cd) (readings : List Nat) (fault : Bool)
  /-- POWER_STAGE_TIMEOUT (R405): A power stage misses three consecutive frames and is lost. -/
  | powerStageTimeout (j : Cd) (rail : Bool)
  /-- LEDGER_TICK (R415): Each 1 µs tick the ledger credits admission counters, reads sensors and rail averages and applies limits. -/
  | ledgerTick (temps : Readings)
  /-- GYLE_END (R418): Each 1 ms gyle the ledger updates baselines, corrections, paces and clock setpoints. -/
  | gyleEnd
  /-- THROTTLE_EPISODE_END (R421): 16 ticks pass without a reason acting and its episode ends with a throttle event. -/
  | throttleEpisodeEnd (r : Nat)
  /-- ADMISSION_GRANT (R416): A held instruction is admitted once its die's counter is not negative, and its estimate is debited. -/
  | admissionGrant (cd : Cd)
  /-- RAIL_HARD_LIMIT (R409): A rail passes its hard limit, stages limit it and the quadrant's core clocks are halved. -/
  | railHardLimit (k : Bd) (rail : Fin 4)
  /-- DROOP_DETECT (R426): A supply droop of 4 % stretches the die's core clock within 2 ns. -/
  | droopDetect (cd : Cd)
  /-- DROOP_RECOVER (R426): 32 clocks after the supply recovers the clock stretch ends. -/
  | droopRecover (cd : Cd)
  /-- SPREAD_HOLD_EXPIRE (R428): A die's spread delay after a pitch release ends and tile and vector work is admitted. -/
  | spreadHoldExpire (cd : Cd)
  /-- AGEING_CHECK (R429): Every 10 minutes the maltster reads path slack and raises a die's trim or ageing cap. -/
  | ageingCheck (cd : Cd) (slack : Nat)
  /-- BRAKE_ASSERT (R432): Input below 42 V or PWR_BRAKE_N caps every die at code 16 and holds helper and DMA work. -/
  | brakeAssert (land : Bool)
  /-- BRAKE_RELEASE (R432): 100 µs with input above 42 V and the brake released removes the cap. -/
  | brakeRelease
  /-- THERMAL_CAP_STEP (R434): The thermal cap falls by one code every 100 µs above threshold or rises every 1 ms below it. -/
  | thermalCapStep (k : Bd)
  /-- THERMAL_TRIP (R435): A sensor passes its critical temperature, THERMTRIP_N is asserted and every rail turns off. -/
  | thermalTrip (cls celsius : Nat)
  /-- REFCLK_LOSS (R433): A reference clock stops, its PLLs hold frequency and refclk_lost is set. -/
  | refclkLoss (clk : Fin 3)
  /-- INPUT_OUT_OF_RANGE (R404): The 48 V input stays below 40 V for 20 µs or exceeds 60 V, and the stages stop. -/
  | inputOutOfRange
  /-- LOAD_EST (R413): ENG_CMD load_est copies the estimate table into the ledger or sets load_failed. -/
  | loadEst
  /-- POWER_ON (R440): The 48 V input rises through 40 V and start-up runs from step 1. -/
  | powerOn (board : HostData)
  /-- COLD_RESET (R443): SYS_RESET_N held low for 10 µs restarts the device from step 7. -/
  | coldReset
  /-- SYS_RESET_RELEASE (R440): SYS_RESET_N is released and start-up proceeds past step 6. -/
  | sysResetRelease (board : HostData)
  /-- WEAR_RECORD_WRITE (R452): Within 1 s of a change a signed wear block is written, compacting a full half. -/
  | wearRecordWrite
  /-- SERVICE_HOURS (R452): Every 24 hours powered a service-hours entry is written. -/
  | serviceHours
  /-- GET_CERTIFICATES (R458): Attestation code 0x01 returns the identity certificate, signer certificate and root key. -/
  | getCertificates (req : List Byte)
  /-- MEASURE (R460): Attestation code 0x02 returns a signed report of the named measurement slots. -/
  | measure (req : List Byte)
  /-- EXTEND (R461): Attestation code 0x03 extends slot 6 with a 64-byte value. -/
  | extend (req : List Byte)
  /-- DOE_ABORT (R462): A host DOE Abort clears an abandoned attestation exchange. -/
  | doeAbort
  /-- FLIT_READ_REQUEST (R470): A read request flit is checked and handed to the line's home. -/
  | flitReadRequest (die dir bundle : Nat) (flit : List Byte)
  /-- FLIT_WRITE_REQUEST (R470): A write request flit and its following line flit are checked and handed to the home. -/
  | flitWriteRequest (die dir bundle : Nat) (flit line : List Byte)
  /-- FLIT_ATOMIC_REQUEST (R470): An atomic request flit is checked and handed to the home. -/
  | flitAtomicRequest (die dir bundle : Nat) (flit : List Byte)
  /-- FLIT_LINE (R470): A line flit carrying an RS codeword is checked and delivered. -/
  | flitLine (die dir bundle : Nat) (flit : List Byte)
  /-- FLIT_COMPLETION (R470): A completion flit returns a request's status and any prior word or following line. -/
  | flitCompletion (die dir bundle : Nat) (flit : List Byte)
  /-- FLIT_SLOT_PART (R472): A slot part flit is gathered with its group to rebuild a 272-byte slot. -/
  | flitSlotPart (die dir bundle : Nat) (flit : List Byte)
  /-- FLIT_ACK (R473): An ack flit returns credits and releases replay entries, or a nak triggers replay. -/
  | flitAck (die dir bundle : Nat) (n : Fin 17) (flit : List Byte)
  /-- SPARE_BUNDLE_TEST_END (R474): A spare bundle's test ends and it takes the stream, or the boundary fails. -/
  | spareBundleTestEnd (die dir bundle : Nat) (ok : Bool)
  /-- MGMT_FRAME (R476): A management channel frame is checked and acknowledged. -/
  | mgmtFrame (die kind : Nat) (body : List Byte) (crc : Nat)
  /-- SELECTION_ECHO_TIMEOUT (R478): A die does not echo its selection within 1 ms and is below the minimum. -/
  | selectionEchoTimeout (die : Nat)
  /-- TAP_INSTRUCTION (R483): A test access instruction is accepted only while SYS_RESET_N is asserted, else acts as BYPASS. -/
  | tapInstruction (code : Nat)
  /-- BM_READ_BOOT_STATUS (R496): Board-management command 0x00 returns BOOT_STATUS. -/
  | bmReadBootStatus
  /-- BM_READ_ENG_STATUS (R496): Command 0x01 returns ENG_STATUS. -/
  | bmReadEngStatus
  /-- BM_READ_ENG_GRANT (R496): Command 0x02 read returns ENG_GRANT. -/
  | bmReadEngGrant
  /-- BM_WRITE_ENG_GRANT (R496): Command 0x02 write sets the board grant from the next tick, or sets grant_rejected. -/
  | bmWriteEngGrant (v : Nat)
  /-- BM_READ_ENG_TEMP_MAX (R496): Command 0x03 returns ENG_TEMP_MAX. -/
  | bmReadEngTempMax
  /-- BM_READ_ENG_QPOWER (R496): Commands 0x04 to 0x07 return a quadrant's ENG_QPOWER. -/
  | bmReadEngQpower (k : Bd)
  /-- BM_READ_ENG_ENERGY_LO (R502): Command 0x08 returns ENG_ENERGY_LO and latches the HI half for this path. -/
  | bmReadEngEnergyLo
  /-- BM_READ_ENG_ENERGY_HI (R502): Command 0x09 returns the latched ENG_ENERGY_HI. -/
  | bmReadEngEnergyHi
  /-- BM_READ_DEP_STATUS (R496): Command 0x0A returns DEP_STATUS. -/
  | bmReadDepStatus
  /-- BM_READ_DEV_ID (R496): Command 0x0B returns DEV_ID. -/
  | bmReadDevId
  /-- BM_READ_BM_STATUS (R496): Command 0x0C read returns BM_STATUS. -/
  | bmReadBmStatus
  /-- BM_CLEAR_STATUS (R497): Command 0x0C write clears BM_STATUS bits and updates BM_ALERT_N. -/
  | bmClearStatus (v : Nat)
  /-- BM_READ_BM_ALERT_EN (R496): Command 0x0D read returns BM_ALERT_EN. -/
  | bmReadBmAlertEn
  /-- BM_WRITE_BM_ALERT_EN (R497): Command 0x0D write sets the alert enables and updates BM_ALERT_N. -/
  | bmWriteBmAlertEn (v : Nat)
  /-- BM_ALERT_RESPONSE (R497): The device answers the Alert Response Address with its own address while holding BM_ALERT_N low. -/
  | bmAlertResponse
  /-- COUNTER_LO_READ (R502): A BAR0 read of DEV_TIME_LO or ENG_ENERGY_LO latches the HI half for that path. -/
  | counterLoRead (energy : Bool)
  /-- REGISTER_WRITE (R500): A setup register write without behaviour of its own is performed in arrival order under its access code. -/
  | registerWrite (off v : Nat)
  /-- RESERVED_CODE_INSTRUCTION (R150): The sequencer decodes an instruction whose class, op or sequencer-checked field holds a reserved code, executes nothing and faults with code 1 whatever the guard. -/
  | reservedCodeInstruction (cd : Cd) (w : IWord)
  /-- COMPUTE_DIE_RESET (R21): A compute die is reset while the others run, so its base die fences it with cause 1 and ends its work in flight with status 6. -/
  | computeDieReset (cd : Cd)
  /-- REFERENCE_CLOCK_VALID (R433): A reference clock becomes valid and the PLLs it feeds lock within 50 µs, as step 6 of start-up requires. -/
  | referenceClockValid (clk : Fin 3)
  /-- SLOT_CLOCK_LOCKED (R270): The slot PLL locks to its selected timing port and FAB_TIMING.locked is set, which lets port bring-up pass step 5. -/
  | slotClockLocked
  /-- CXL_LINK_TRAINING_DONE (R341): The CXL link finishes training, sets its width, rate and CXL.cache and CXL.mem negotiation, and the device reads MEM_CXL_SETS. -/
  | cxlLinkTrainingDone (width rate : Nat) (cache : Bool) (mem : CxlMem)
  /-- DOE_DISCOVERY (R339): A DOE discovery request in the mailbox is answered with the data object types the device supports. -/
  | doeDiscovery (index : Nat)
  /-- CDAT_READ (R339): A CDAT table-access request in the DOE mailbox is answered with the device's CDAT entries. -/
  | cdatRead
  /-- RESERVED_ATTESTATION_CODE (R458): An attestation request with code 0x00 or 0x04 to 0x7F is answered with status 1 and the header alone. -/
  | reservedAttestationCode (code : Nat)
  /-- BM_NACK (R495): A board-management transaction with a failed PEC, a byte count other than 4, or a reserved command is NACKed and has no effect, and a PEC failure increments BM_STATUS.pec_errors. -/
  | bmNack (pec : Bool)
  /-- FLIT_CRC_FAILURE (R473): A flit arrives with a failed CRC, a reserved kind or out of sequence, so a nak is sent, later flits are discarded until the expected seq, and the failure counts toward bundle retirement. -/
  | flitCrcFailure (die dir bundle : Nat) (flit : List Byte)
  /-- INPUT_BELOW_30_V (R435): The 48 V input falls below 30 V, which releases the THERMTRIP_N latch and allows a later rise through 40 V to power the device on again. -/
  | inputBelow30V
  /-- PWR_BRAKE_N_RELEASE (R432): PWR_BRAKE_N is released, or the input rises back above 42 V, and the 100 µs count that ends the brake begins. -/
  | pwrBrakeNRelease (land : Bool)
  deriving DecidableEq, Repr

end Sys2Proof
end

