-- ==== Sys2Proof/Decode.lean ====
section
/-! DEFINITION. The table of commands gives no row any bits, so a word spells none of them. -/

namespace Sys2Proof

/-- The command a word spells by the bits of spec/opcode_table.json: every row's field list is empty,
so no word spells a command. -/
def decodeTableWord (_nbits _w : Nat) : Option Instr := none

end Sys2Proof
end

