-- ==== Sys2Proof/Machine/Bits.lean ====
section
/-! DEFINITION. Bit fields (R2), byte order (R3), sign extension, saturating counts, and tables
with a default: the helpers every later file uses. -/

namespace Sys2Proof.Machine

/-- Field [lo + n − 1 : lo] of a number read as bits; bit 0 is least significant (R2). -/
def fld (x lo n : Nat) : Nat := (x >>> lo) % 2 ^ n

/-- Bit i of a number (R2). -/
def bitAt (x i : Nat) : Bool := (x >>> i) % 2 == 1

/-- x with field [lo + n − 1 : lo] replaced by v. -/
def setFld (x lo n v : Nat) : Nat :=
  x - (fld x lo n) * 2 ^ lo + (v % 2 ^ n) * 2 ^ lo

/-- The two's-complement value of an n-bit pattern. -/
def toSigned (n x : Nat) : Int :=
  let y := x % 2 ^ n
  if 2 * y < 2 ^ n then (y : Int) else (y : Int) - (2 ^ n : Nat)

/-- The n-bit pattern of an integer, modulo 2^n. -/
def ofSigned (n : Nat) (v : Int) : Nat := (v % ((2 ^ n : Nat) : Int)).toNat

/-- The number that bytes spell, lowest address first (R3). -/
def leNat : List Byte → Nat
  | [] => 0
  | b :: bs => b.toNat + 256 * leNat bs

/-- The n bytes of a number, lowest address first (R3). -/
def natLE : Nat → Nat → List Byte
  | 0, _ => []
  | n + 1, x => BitVec.ofNat 8 x :: natLE n (x / 256)

/-- Bytes off to off + n − 1 of a message; a byte beyond its end reads zero. -/
def sliceB (bs : List Byte) (off n : Nat) : List Byte :=
  (List.range n).map (fun i => bs.getD (off + i) 0)

/-- The little-endian field of n bytes at offset off of a message. -/
def fieldB (bs : List Byte) (off n : Nat) : Nat := leNat (sliceB bs off n)

/-- A message with n bytes at off replaced by the little-endian bytes of v. -/
def putB (bs : List Byte) (off n v : Nat) : List Byte :=
  bs.take off ++ natLE n v ++ bs.drop (off + n)

/-- n zero bytes. -/
def zeroB (n : Nat) : List Byte := List.replicate n 0

/-- A count that stops at 2^32 − 1 (R105, R144, R221 and the register maps). -/
def satAdd32 (c n : Nat) : Nat := min (c + n) (2 ^ 32 - 1)

/-- ceil(a / b). -/
def cdiv (a b : Nat) : Nat := (a + b - 1) / b

/-- The entry of a table at a key, d where the table lists none. -/
def tabGet {α : Type} (d : α) : List (Nat × α) → Nat → α
  | [], _ => d
  | (k, v) :: t, i => if k = i then v else tabGet d t i

/-- The table with the entry at a key replaced, or added in key order. -/
def tabSet {α : Type} : List (Nat × α) → Nat → α → List (Nat × α)
  | [], i, v => [(i, v)]
  | (k, w) :: t, i, v =>
    if i < k then (i, v) :: (k, w) :: t
    else if k = i then (i, v) :: t
    else (k, w) :: tabSet t i v

/-- The table without the entry at a key. -/
def tabDel {α : Type} (l : List (Nat × α)) (i : Nat) : List (Nat × α) := l.filter (fun e => e.1 != i)

/-- A sorted set of numbers with one added. -/
def setIns : List Nat → Nat → List Nat
  | [], i => [i]
  | k :: t, i => if i < k then i :: k :: t else if k = i then k :: t else k :: setIns t i

/-- A sorted set of numbers without one. -/
def setDel (l : List Nat) (i : Nat) : List Nat := l.filter (· ≠ i)

/-- A list with position i replaced; unchanged where there is no such position. -/
def listPut {α : Type} (l : List α) (i : Nat) (v : α) : List α := l.set i v

/-- Signed difference of two counts modulo 2^n (R249, R292). -/
def modDiff (n a b : Nat) : Int := toSigned n (a + 2 ^ n - b % 2 ^ n)

/-- Bytes striped over n lanes: byte i on lane i mod n (R268). -/
def stripe (n : Nat) (bs : List Byte) : List (List Byte) :=
  (List.range n).map (fun i => (List.range (cdiv (bs.length - i) n)).map (fun k => bs.getD (n * k + i) 0))

/-- The bytes that lanes carry together. -/
def unstripe (ls : List (List Byte)) : List Byte :=
  (List.range (ls.foldl (fun t l => t + l.length) 0)).map (fun i => (ls.getD (i % ls.length) []).getD (i / ls.length) 0)

end Sys2Proof.Machine
end

