-- ==== Sys2Proof/Machine/Num.lean ====
section
/-! DEFINITION. The eleven number formats and their conversions (R25 to R65): exact values,
rounding, the X128 addition, S64 blocks, the row codes Q8 and Q4, and the counted events. -/

namespace Sys2Proof.Machine

/-- The formats of Table 2-1, with the codes of Table 5-4 in order. -/
inductive Fmt where
  | f32 | f16 | b16 | e5m2 | i32 | i8 | i4 | q8 | q4 | x128 | s64
  deriving DecidableEq, Repr

/-- Table 5-4 (R151); codes 0xB to 0xF are reserved. -/
def fmtOfCode : Nat → Option Fmt
  | 0 => some .f32 | 1 => some .f16 | 2 => some .b16 | 3 => some .e5m2 | 4 => some .i32
  | 5 => some .i8 | 6 => some .i4 | 7 => some .q8 | 8 => some .q4 | 9 => some .x128
  | 10 => some .s64 | _ => none

/-- The rounding directions of Table 2-6 (R54). -/
inductive Dir where
  | nearest | zero | up | down
  deriving DecidableEq, Repr

/-- Table 2-6. -/
def dirOfCode : Nat → Dir
  | 0 => .nearest | 1 => .zero | 2 => .up | _ => .down

/-- An exact value: a signed magnitude num / den with den > 0, an infinity, or a NaN whose fraction
field is aligned to the 23 bits of F32. Exact terms of R33, R43, R125 and R131 are such values. -/
inductive Val where
  | fin (neg : Bool) (num den : Nat)
  | inf (neg : Bool)
  | nan (neg : Bool) (frac : Nat)
  deriving DecidableEq, Repr

/-- The events of Table 2-12 that one element can raise (R64). -/
structure Ev where
  nan : Bool
  inf : Bool
  sat : Bool
  lost : Bool
  deriving DecidableEq, Repr

def Ev.none : Ev := ⟨false, false, false, false⟩

/-- Each element counts at most once per row of Table 2-12 (R64). -/
def evOr (a b : Ev) : Ev := ⟨a.nan || b.nan, a.inf || b.inf, a.sat || b.sat, a.lost || b.lost⟩

/-- Canonical quiet NaN with sign 0 (Table 2-2, Table 2-7). -/
def Val.qnan : Val := .nan false (2 ^ 22)

/-- Plus zero. -/
def Val.zero : Val := .fin false 0 1

def valIsNan : Val → Bool
  | .nan _ _ => true
  | _ => false

def valIsInf : Val → Bool
  | .inf _ => true
  | _ => false

def valIsFin : Val → Bool
  | .fin _ _ _ => true
  | _ => false

def valNeg : Val → Bool
  | .fin n _ _ => n
  | .inf n => n
  | .nan n _ => n

def valIsZero : Val → Bool
  | .fin _ num _ => num == 0
  | _ => false

/-- The value of an integer; zero is +0. -/
def valOfInt (i : Int) : Val := .fin (decide (i < 0)) i.natAbs 1

/-- i × 2^e. -/
def valOfDyadic (i : Int) (e : Int) : Val :=
  if 0 ≤ e then .fin (decide (i < 0)) (i.natAbs * 2 ^ e.toNat) 1
  else .fin (decide (i < 0)) i.natAbs (2 ^ (-e).toNat)

/-- floor(log2(num / den)) for num > 0. -/
def flog2 (num den : Nat) : Int :=
  let k : Int := (Nat.log2 num : Int) - (Nat.log2 den : Int)
  let below := if 0 ≤ k then decide (num < den * 2 ^ k.toNat) else decide (num * 2 ^ (-k).toNat < den)
  if below then k - 1 else k

/-- A magnitude num / den rounded to an integer in a direction; neg is the sign (R54). -/
def roundMag (dir : Dir) (neg : Bool) (num den : Nat) : Nat :=
  let q := num / den
  let r := num % den
  let inc := match dir with
    | .nearest => decide (den < 2 * r) || (decide (2 * r = den) && decide (q % 2 = 1))
    | .zero => false
    | .up => decide (0 < r) && !neg
    | .down => decide (0 < r) && neg
  if inc then q + 1 else q

/-- The fraction num / den divided by 2^e. -/
def scaleDown (num den : Nat) (e : Int) : Nat × Nat :=
  if 0 ≤ e then (num, den * 2 ^ e.toNat) else (num * 2 ^ (-e).toNat, den)

/-- num / den rounded to a multiple of 2^e, in units of 2^e. -/
def roundAt (dir : Dir) (neg : Bool) (num den : Nat) (e : Int) : Nat :=
  let p := scaleDown num den e
  roundMag dir neg p.1 p.2

/-- Whether num / den is a multiple of 2^e. -/
def exactAt (num den : Nat) (e : Int) : Bool :=
  let p := scaleDown num den e
  p.1 % p.2 == 0

/-- Field widths and bias of a floating-point format (Table 2-2, R27). -/
structure FFmt where
  ebits : Nat
  fbits : Nat
  bias : Nat
  deriving DecidableEq, Repr

def ffF32 : FFmt := ⟨8, 23, 127⟩
def ffF16 : FFmt := ⟨5, 10, 15⟩
def ffB16 : FFmt := ⟨8, 7, 127⟩
def ffE5M2 : FFmt := ⟨5, 2, 15⟩

/-- Bits of the positive infinity of a float format; one less is the largest finite (R27). -/
def ffInf (f : FFmt) : Nat := (2 ^ f.ebits - 1) * 2 ^ f.fbits

/-- The sign bit of a float format. -/
def ffSign (f : FFmt) (neg : Bool) : Nat := if neg then 2 ^ (f.ebits + f.fbits) else 0

/-- The value a float pattern denotes, subnormals included (R27, R28). -/
def ffDecode (f : FFmt) (bits : Nat) : Val :=
  let frac := bits % 2 ^ f.fbits
  let ex := (bits / 2 ^ f.fbits) % 2 ^ f.ebits
  let neg := (bits / 2 ^ (f.fbits + f.ebits)) % 2 == 1
  if ex = 2 ^ f.ebits - 1 then
    if frac = 0 then .inf neg else .nan neg (frac * 2 ^ (23 - f.fbits))
  else
    let m := if ex = 0 then frac else frac + 2 ^ f.fbits
    let e : Int := (if ex = 0 then (1 : Int) else (ex : Int)) - f.bias - f.fbits
    if 0 ≤ e then .fin neg (m * 2 ^ e.toNat) 1 else .fin neg m (2 ^ (-e).toNat)

/-- Rounding of a finite magnitude into a float format with no bound on the exponent field: the
pattern without its sign, which passes ffInf exactly when the result is beyond the range. -/
def ffRoundMag (f : FFmt) (dir : Dir) (neg : Bool) (num den : Nat) : Nat :=
  if num = 0 then 0 else
  let emin : Int := 1 - (f.bias : Int)
  let e : Int := max (flog2 num den) emin - f.fbits
  let m := roundAt dir neg num den e
  ((e - (emin - f.fbits)).toNat) * 2 ^ f.fbits + m

/-- Table 2-7, first row: what a finite result beyond the range becomes. True means infinity. -/
def overflowsToInf (strict : Bool) (dir : Dir) (neg : Bool) : Bool :=
  strict && match dir with
    | .nearest => true
    | .zero => false
    | .up => !neg
    | .down => neg

/-- A value converted to a float format, with its events (R56, Table 2-7, R64, R65). -/
def ffEncode (f : FFmt) (strict : Bool) (dir : Dir) (v : Val) : Nat × Ev :=
  match v with
  | .nan neg frac =>
    let canon := ffInf f + 2 ^ (f.fbits - 1)
    if strict then
      let kept := (frac / 2 ^ (23 - f.fbits)) % 2 ^ (f.fbits - 1)
      (ffSign f neg + canon + kept, { Ev.none with nan := true })
    else (canon, { Ev.none with nan := true })
  | .inf neg => (ffSign f neg + ffInf f, { Ev.none with inf := true })
  | .fin neg num den =>
    let b := ffRoundMag f dir neg num den
    if b < ffInf f then (ffSign f neg + b, Ev.none)
    else if overflowsToInf strict dir neg then
      (ffSign f neg + ffInf f, { Ev.none with inf := true })
    else (ffSign f neg + (ffInf f - 1), { Ev.none with sat := true })

/-- A value converted to an n-bit two's-complement integer: saturates, NaN gives 0 (Table 2-7). -/
def intEncode (n : Nat) (dir : Dir) (v : Val) : Nat × Ev :=
  let hi : Nat := 2 ^ (n - 1) - 1
  let lo : Nat := 2 ^ (n - 1)
  match v with
  | .nan _ _ => (0, { Ev.none with nan := true })
  | .inf neg => (if neg then lo else hi, { Ev.none with inf := true })
  | .fin neg num den =>
    let m := roundMag dir neg num den
    if neg then
      if m ≤ lo then (ofSigned n (-(m : Int)), Ev.none) else (lo, { Ev.none with sat := true })
    else
      if m ≤ hi then (m, Ev.none) else (hi, { Ev.none with sat := true })

/-! ### X128 (R34 to R43) -/

/-- An X128 element by its form (R34, R35). -/
inductive X128 where
  | exact (v : Int)
  | win (e : Nat) (s : Int)
  | inf (neg : Bool)
  | nan
  deriving DecidableEq, Repr

/-- R34, R35: the element a 128-bit pattern denotes. -/
def xDecode (b : Nat) : X128 :=
  if bitAt b 127 then
    let e := fld b 119 8
    if e = 255 then
      (if fld b 0 119 = 1 then .inf false else if fld b 0 119 = 2 then .inf true else .nan)
    else .win e (toSigned 119 b)
  else .exact (toSigned 127 b)

/-- R34, R35: the pattern of an element. -/
def xEncode : X128 → Nat
  | .exact v => ofSigned 127 v
  | .win e s => 2 ^ 127 + e * 2 ^ 119 + ofSigned 119 s
  | .inf neg => 2 ^ 127 + 255 * 2 ^ 119 + (if neg then 2 else 1)
  | .nan => 2 ^ 127 + 255 * 2 ^ 119 + 3

/-- The exact value of an element; both zeros denote +0 (R36). -/
def xVal : X128 → Val
  | .exact v => valOfDyadic v (-48)
  | .win e s => valOfDyadic s (2 * (e : Int) - 300)
  | .inf neg => .inf neg
  | .nan => .qnan

def xSpecial : X128 → Bool
  | .inf _ => true
  | .nan => true
  | _ => false

def xWindow : X128 → Nat
  | .win e _ => e
  | _ => 0

def xIsExact : X128 → Bool
  | .exact _ => true
  | _ => false

/-- The signed value of a finite magnitude rounded at window e (R40). -/
def xRoundWin (dir : Dir) (neg : Bool) (num den e : Nat) : Int :=
  let m := roundAt dir neg num den (2 * (e : Int) - 300)
  if neg then -(m : Int) else (m : Int)

/-- The significand range of the windowed form (R34). -/
def xFits (s : Int) : Bool := decide (-(2 ^ 118 : Int) ≤ s) && decide (s ≤ 2 ^ 118 - 1)

/-- The loop of R40 over windows: `fuel` windows are tried from e upward. -/
def xWinLoop (strict : Bool) (dir : Dir) (neg : Bool) (num den : Nat) : Nat → Nat → X128 × Ev
  | 0, e => (.win e 0, Ev.none)
  | fuel + 1, e =>
    let s := xRoundWin dir neg num den e
    if xFits s then (.win e s, Ev.none)
    else if 254 ≤ e then
      if strict then (.inf neg, { Ev.none with inf := true })
      else (.win 254 (if neg then -(2 ^ 118 - 1) else 2 ^ 118 - 1), { Ev.none with sat := true })
    else xWinLoop strict dir neg num den fuel (e + 1)

/-- The windowed form of a finite value from window e upward (R40, R41, R42). -/
def xWinFrom (strict : Bool) (dir : Dir) (neg : Bool) (num den e : Nat) : X128 × Ev :=
  xWinLoop strict dir neg num den 256 e

/-- Addition (sub false) or subtraction (sub true) of X128 elements (R38, R39, R40, R126), with the events of
Table 2-12. A subtraction takes the exact difference of the two values under the same rules. -/
def xSum (strict sub : Bool) (a b : X128) : X128 × Ev :=
  match a, b with
  | .nan, _ => (.nan, { Ev.none with nan := true })
  | _, .nan => (.nan, { Ev.none with nan := true })
  | .inf x, .inf y =>
    if x == (y != sub) then (.inf x, { Ev.none with inf := true })
    else (.nan, { Ev.none with nan := true, inf := true })
  | .inf x, _ => (.inf x, { Ev.none with inf := true })
  | _, .inf y => (.inf (y != sub), { Ev.none with inf := true })
  | .exact u, .exact v =>
    let w := if sub then u - v else u + v
    if -(2 ^ 126 : Int) ≤ w ∧ w ≤ 2 ^ 126 - 1 then (.exact w, Ev.none)
    else if strict then (.inf (decide (w < 0)), { Ev.none with inf := true })
    else (.exact (if w < 0 then -(2 ^ 126 - 1) else 2 ^ 126 - 1), { Ev.none with sat := true })
  | a, b =>
    let e := max (xWindow a) (xWindow b)
    let sum : Int × Int := match xVal a, xVal b with
      | .fin n1 p1 d1, .fin n2 p2 d2 =>
        ((if n1 then -(p1 : Int) else p1) * d2 + (if n2 != sub then -(p2 : Int) else p2) * d1, (d1 * d2 : Nat))
      | _, _ => (0, 1)
    xWinFrom strict .nearest (decide (sum.1 < 0)) sum.1.natAbs sum.2.natAbs e

/-- Addition of X128 elements (R38, R39, R40). -/
def xAdd (strict : Bool) (a b : X128) : X128 × Ev := xSum strict false a b

/-- Subtraction of X128 elements (R126). -/
def xSub (strict : Bool) (a b : X128) : X128 × Ev := xSum strict true a b

/-- Conversion into X128 (R41). -/
def xOfVal (strict : Bool) (dir : Dir) (v : Val) : X128 × Ev :=
  match v with
  | .nan _ _ => (.nan, { Ev.none with nan := true })
  | .inf n => (.inf n, { Ev.none with inf := true })
  | .fin neg num den =>
    let m := roundAt .zero neg num den (-48)
    let s : Int := if neg then -(m : Int) else m
    if exactAt num den (-48) && decide (-(2 ^ 126 : Int) ≤ s) && decide (s ≤ 2 ^ 126 - 1) then
      (.exact s, Ev.none)
    else xWinFrom strict dir neg num den 0

/-- The tag-1 form of a value, zero included, at the smallest window that holds it (R42). -/
def xWindowed (v : Val) : X128 :=
  match v with
  | .nan _ _ => .nan
  | .inf n => .inf n
  | .fin neg num den => (xWinFrom true .nearest neg num den 0).1

/-! ### Arithmetic on exact values -/

/-- Signed numerator over a common denominator. -/
def sgn (neg : Bool) (n : Nat) : Int := if neg then -(n : Int) else (n : Int)

/-- The sign of an exact zero sum: minus only for two minus zeros, or under rounding toward −infinity
(IEEE 754-2019, R125, R133). -/
def zeroSumNeg (dir : Dir) (n1 n2 : Bool) : Bool :=
  if n1 == n2 then n1 else decide (dir = .down)

/-- First NaN of the inputs, quiet; strict mode keeps its sign and payload (R127). -/
def firstNan : List Val → Option Val
  | [] => none
  | .nan n f :: _ => some (.nan n (f % 2 ^ 22 + 2 ^ 22))
  | _ :: t => firstNan t

def vNeg : Val → Val
  | .fin n a b => .fin (!n) a b
  | .inf n => .inf (!n)
  | .nan n f => .nan (!n) f

def vAbs : Val → Val
  | .fin _ a b => .fin false a b
  | .inf _ => .inf false
  | .nan _ f => .nan false f

/-- Exact sum; dir only chooses the sign of an exact zero. -/
def vAdd (dir : Dir) (a b : Val) : Val :=
  match firstNan [a, b] with
  | some n => n
  | none =>
    match a, b with
    | .inf x, .inf y => if x == y then .inf x else .qnan
    | .inf x, _ => .inf x
    | _, .inf y => .inf y
    | .fin n1 p1 d1, .fin n2 p2 d2 =>
      let s := sgn n1 p1 * d2 + sgn n2 p2 * d1
      if s = 0 then .fin (if p1 = 0 ∧ p2 = 0 then zeroSumNeg dir n1 n2 else decide (dir = .down)) 0 1
      else .fin (decide (s < 0)) s.natAbs (d1 * d2)
    | _, _ => .qnan

/-- Exact product. -/
def vMul (a b : Val) : Val :=
  match firstNan [a, b] with
  | some n => n
  | none =>
    match a, b with
    | .fin n1 p1 d1, .fin n2 p2 d2 => .fin (n1 != n2) (p1 * p2) (d1 * d2)
    | x, y => if valIsZero x || valIsZero y then .qnan else .inf (valNeg x != valNeg y)

/-- Exact a × b + c. -/
def vFma (dir : Dir) (a b c : Val) : Val :=
  match firstNan [a, b, c] with
  | some n => n
  | none => vAdd dir (vMul a b) c

/-- Exact quotient; x / 0 is an infinity for non-zero x, 0 / 0 and ∞ / ∞ are NaN (IEEE 754-2019). -/
def vDiv (a b : Val) : Val :=
  match firstNan [a, b] with
  | some n => n
  | none =>
    match a, b with
    | .inf _, .inf _ => .qnan
    | .inf x, y => .inf (x != valNeg y)
    | .fin n1 _ _, .inf y => .fin (n1 != y) 0 1
    | .fin n1 p1 d1, .fin n2 p2 d2 =>
      if p2 = 0 then (if p1 = 0 then .qnan else .inf (n1 != n2)) else .fin (n1 != n2) (p1 * d2) (d1 * p2)
    | _, _ => .qnan

/-- The integer key whose order is the order of two finite values over a common denominator. -/
def vLtFin (n1 : Bool) (p1 d1 : Nat) (n2 : Bool) (p2 d2 : Nat) : Bool :=
  decide (sgn n1 p1 * d2 < sgn n2 p2 * d1)

/-- a < b; false when either is a NaN (R128). -/
def vLt (a b : Val) : Bool :=
  match a, b with
  | .nan _ _, _ => false
  | _, .nan _ _ => false
  | .inf x, .inf y => x && !y
  | .inf x, _ => x
  | _, .inf y => !y
  | .fin n1 p1 d1, .fin n2 p2 d2 => vLtFin n1 p1 d1 n2 p2 d2

/-- a = b as values; −0 equals +0, a NaN equals nothing. -/
def vEq (a b : Val) : Bool :=
  !valIsNan a && !valIsNan b && !vLt a b && !vLt b a

/-- Whether a comes before b in the order of minimum and maximum, which puts −0 below +0 (R128). -/
def vBelow (a b : Val) : Bool :=
  vLt a b || (vEq a b && valIsZero a && valNeg a && !valNeg b)

/-- R128: NaN if either input is a NaN. -/
def vMin (a b : Val) : Val :=
  match firstNan [a, b] with
  | some n => n
  | none => if vBelow b a then b else a

def vMax (a b : Val) : Val :=
  match firstNan [a, b] with
  | some n => n
  | none => if vBelow a b then b else a

/-! ### Elements -/

/-- Bits per element; row codes count their code only, S64 its narrow element (Table 2-1). -/
def fmtBits : Fmt → Nat
  | .f32 => 32 | .f16 => 16 | .b16 => 16 | .e5m2 => 8 | .i32 => 32 | .i8 => 8 | .i4 => 4
  | .q8 => 8 | .q4 => 4 | .x128 => 128 | .s64 => 64

/-- The value of an element pattern of a format that holds one element per pattern. -/
def elemVal (f : Fmt) (bits : Nat) : Val :=
  match f with
  | .f32 => ffDecode ffF32 bits
  | .f16 => ffDecode ffF16 bits
  | .b16 => ffDecode ffB16 bits
  | .e5m2 => ffDecode ffE5M2 bits
  | .i32 => valOfInt (toSigned 32 bits)
  | .i8 => valOfInt (toSigned 8 bits)
  | .i4 => valOfInt (toSigned 4 bits)
  | .q8 => valOfInt (bits % 256)
  | .q4 => valOfInt (bits % 16)
  | .x128 => xVal (xDecode bits)
  | .s64 => valOfInt (toSigned 64 bits)

/-- A value converted into a format that holds one element per pattern (Table 2-8, R43, R57). The
row codes and S64 convert by rows and blocks and not here. -/
def elemEncode (f : Fmt) (strict : Bool) (dir : Dir) (v : Val) : Nat × Ev :=
  match f with
  | .f32 => ffEncode ffF32 strict dir v
  | .f16 => ffEncode ffF16 strict dir v
  | .b16 => ffEncode ffB16 strict dir v
  | .e5m2 => ffEncode ffE5M2 strict dir v
  | .i32 => intEncode 32 dir v
  | .i8 => intEncode 8 dir v
  | .i4 => intEncode 4 dir v
  | .x128 => let r := xOfVal strict dir v; (xEncode r.1, r.2)
  | .q8 => intEncode 9 dir v
  | .q4 => intEncode 5 dir v
  | .s64 => intEncode 64 dir v

/-- Conversion of one element pattern (R57): the same format copies its bits unchanged. -/
def elemConv (src dst : Fmt) (strict : Bool) (dir : Dir) (bits : Nat) : Nat × Ev :=
  if src = dst then
    (bits, ⟨valIsNan (elemVal src bits), valIsInf (elemVal src bits), false, false⟩)
  else elemEncode dst strict dir (elemVal src bits)

/-! ### Row codes (R32, R33, R58 to R60) -/

/-- Bytes of a row of n row codes (R32). -/
def rowBytes (f : Fmt) (n : Nat) : Nat :=
  match f with
  | .q8 => cdiv (4 + n) 32 * 32
  | .q4 => cdiv (4 + cdiv n 2) 32 * 32
  | .i4 => cdiv n 2
  | .s64 => cdiv n 64 * 520
  | f => n * (fmtBits f / 8)

/-- The largest code (c_max). -/
def codeMax : Fmt → Nat
  | .q4 => 15
  | _ => 255

/-- R33: scale × code + offset, exact; NaN and infinite headers follow IEEE 754 on the exact terms. Two points that R33
leaves open are the model's choice (log entry 46): every element of a row with a NaN header is the canonical NaN, and
an exact zero takes the sign that nearest-even addition gives, whatever direction the conversion names. -/
def dequant (scale offset code : Nat) : Val :=
  let s := ffDecode ffF16 scale
  let o := ffDecode ffF16 offset
  if valIsNan s || valIsNan o then .qnan
  else vAdd .nearest (vMul s (valOfInt code)) o

/-- Code j of a row: Q8 one byte each, Q4 two per byte (R31, R32). -/
def codeAt (f : Fmt) (bytes : List Byte) (j : Nat) : Nat :=
  match f with
  | .q4 => fld (bytes.getD (4 + j / 2) 0).toNat (4 * (j % 2)) 4
  | _ => (bytes.getD (4 + j) 0).toNat

/-- The n values of a row code (R33). -/
def rowVals (f : Fmt) (n : Nat) (bytes : List Byte) : List Val :=
  let scale := fieldB bytes 0 2
  let offset := fieldB bytes 2 2
  (List.range n).map (fun j => dequant scale offset (codeAt f bytes j))

/-- R58: the code of one element under an explicit header, with its one event. -/
def quantCode (cmax : Nat) (dir : Dir) (scale offset : Nat) (x : Val) : Nat × Ev :=
  match x with
  | .nan _ _ => (0, { Ev.none with nan := true })
  | .inf neg => (if neg then 0 else cmax, { Ev.none with inf := true })
  | .fin _ _ _ =>
    let s := ffDecode ffF16 scale
    if valIsZero s then (0, Ev.none)
    else
      match vDiv (vAdd .nearest x (vNeg (ffDecode ffF16 offset))) s with
      | .nan _ _ => (0, { Ev.none with nan := true })
      | .inf neg => (if neg then 0 else cmax, { Ev.none with sat := true })
      | .fin neg num den =>
        let m := roundMag dir neg num den
        if neg ∧ 0 < m then (0, { Ev.none with sat := true })
        else if neg then (0, Ev.none)
        else if cmax < m then (cmax, { Ev.none with sat := true })
        else (m, Ev.none)

/-- The smallest (lt) or largest finite value of a row, if it has one. Of equal values the first counts: where −0 and +0
are both the smallest, its sign is that of the first of them, the model's choice (log entry 46). -/
def finExtreme (lt : Val → Val → Bool) : List Val → Option Val
  | [] => none
  | v :: t =>
    match finExtreme lt t with
    | none => if valIsFin v then some v else none
    | some w => if valIsFin v && !lt w v then some v else some w

/-- Clamp of a rounded F16 pattern to [−65,504, 65,504] (R59). -/
def clampF16 (bits : Nat) : Nat :=
  if bits % 2 ^ 15 ≥ 0x7C00 then (bits / 2 ^ 15) * 2 ^ 15 + 0x7BFF else bits

/-- R59: scale and offset derived from the row's finite elements. -/
def derivedHeader (cmax : Nat) (vs : List Val) : Nat × Nat :=
  match finExtreme vLt vs, finExtreme (fun a b => vLt b a) vs with
  | some lo, some hi =>
    let offset := clampF16 (ffEncode ffF16 true .down lo).1
    let scale := clampF16
      (ffEncode ffF16 true .up (vDiv (vAdd .nearest hi (vNeg (ffDecode ffF16 offset))) (valOfInt cmax))).1
    (scale, offset)
  | _, _ => (0, 0)

/-- R60: the rows that strict mode gives a NaN header. -/
def strictBadRow (vs : List Val) : Bool :=
  vs.any (fun v => !valIsFin v || vLt (valOfInt 65504) (vAbs v))

/-- Bytes of a row code from its header and codes, padding zero (R32). -/
def rowCodeBytes (f : Fmt) (scale offset : Nat) (codes : List Nat) : List Byte :=
  let body := match f with
    | .q4 => (List.range (cdiv codes.length 2)).map (fun i =>
        BitVec.ofNat 8 (codes.getD (2 * i) 0 % 16 + 16 * (codes.getD (2 * i + 1) 0 % 16)))
    | _ => codes.map (fun c => BitVec.ofNat 8 c)
  let raw := natLE 2 scale ++ natLE 2 offset ++ body
  raw ++ zeroB (rowBytes f codes.length - raw.length)

/-- A row quantised with an explicit header (R58). -/
def quantExplicit (f : Fmt) (dir : Dir) (scale offset : Nat) (vs : List Val) : List Byte × List Ev :=
  let cs := vs.map (quantCode (codeMax f) dir scale offset)
  (rowCodeBytes f scale offset (cs.map Prod.fst), cs.map Prod.snd)

/-- A row quantised with a derived header (R59, R60): nearest-even codes. A row that strict mode gives a NaN header counts
the events that fast mode counts for the same data (R65). -/
def quantDerived (f : Fmt) (strict : Bool) (vs : List Val) : List Byte × List Ev :=
  let h := derivedHeader (codeMax f) vs
  let cs := vs.map (quantCode (codeMax f) .nearest h.1 h.2)
  if strict && strictBadRow vs then (rowCodeBytes f 0x7E00 0x7E00 (vs.map (fun _ => 0)), cs.map Prod.snd)
  else
    let none_fin := (finExtreme vLt vs).isNone
    (rowCodeBytes f h.1 h.2 (cs.map (fun c => if none_fin then 0 else c.1)), cs.map Prod.snd)

/-! ### S64 blocks (R44 to R53) -/

/-- An S64 block: exponent code, form, count and 64 elements (R44, R45). -/
structure Blk where
  exp : Nat
  wide : Bool
  count : Nat
  elems : List Int
  deriving DecidableEq, Repr

/-- Bytes of a block (R44). -/
def blkSize (wide : Bool) : Nat := if wide then 1032 else 520

/-- A block from its bytes (Table 2-5). -/
def blkDecode (bytes : List Byte) : Blk :=
  let h := fieldB bytes 0 8
  let wide := bitAt h 16
  { exp := fld h 0 16, wide := wide, count := fld h 32 32,
    elems := (List.range 64).map (fun i =>
      if wide then toSigned 128 (fieldB bytes (8 + 16 * i) 16) else toSigned 64 (fieldB bytes (8 + 8 * i) 8)) }

/-- The bytes of a block (Table 2-5). -/
def blkEncode (b : Blk) : List Byte :=
  natLE 8 (b.exp % 2 ^ 16 + (if b.wide then 2 ^ 16 else 0) + (b.count % 2 ^ 32) * 2 ^ 32) ++
    (b.elems.take 64).flatMap (fun e => if b.wide then natLE 16 (ofSigned 128 e) else natLE 8 (ofSigned 64 e))

/-- A zero block (R46, R49). -/
def blkZero (wide : Bool) (count : Nat) : Blk := ⟨0xFFFF, wide, count, List.replicate 64 0⟩

/-- The unit exponent of an element of a form (R45). -/
def blkUnit (exp : Nat) (wide : Bool) : Int := (exp : Int) - 32768 - (if wide then 64 else 0)

/-- The values of a block; every element of a zero block is zero (R45, R46). -/
def blkVals (b : Blk) : List Val :=
  if b.exp = 0xFFFF then List.replicate 64 .zero
  else b.elems.map (fun e => valOfDyadic e (blkUnit b.exp b.wide))

/-- The symmetric range of R48. -/
def blkMax (wide : Bool) : Int := if wide then 2 ^ 127 - 1 else 2 ^ 63 - 1

/-- An element limited to the range of R48, with whether it was saturated. -/
def blkClamp (wide : Bool) (s : Int) : Int × Bool :=
  if blkMax wide < s then (blkMax wide, true)
  else if s < -(blkMax wide) then (-(blkMax wide), true)
  else (s, false)

/-- The smallest code at which one finite element rounds below 2^(63 − h) (R47). -/
def elemCode (dir : Dir) (h : Nat) (v : Val) : Nat :=
  match v with
  | .fin neg num den =>
    if num = 0 then 0 else
    let u : Int := flog2 num den - (63 - (h : Int)) + 1
    let u' := if roundAt dir neg num den u < 2 ^ (63 - h) then u else u + 1
    (u' + 32768).toNat
  | _ => 0

/-- R47: the derived code of 64 values; no code above 0xFFFE is taken. -/
def blkDerive (dir : Dir) (h : Nat) (vs : List Val) : Nat :=
  min 0xFFFE (vs.foldl (fun m v => max m (elemCode dir h v)) 0)

/-- One element at a unit (R48, R53). -/
def blkElem (wide : Bool) (dir : Dir) (unit : Int) (v : Val) : Int × Ev :=
  match v with
  | .nan _ _ => (0, { Ev.none with nan := true })
  | .inf neg => (if neg then -(blkMax wide) else blkMax wide, { Ev.none with inf := true })
  | .fin neg num den =>
    let m := roundAt dir neg num den unit
    let c := blkClamp wide (sgn neg m)
    (c.1, { Ev.none with sat := c.2, lost := !exactAt num den unit })

/-- Conversion of 64 values at a code (R47 to R49); an all-zero result is a zero block. -/
def blkOfVals (wide : Bool) (dir : Dir) (code count : Nat) (vs : List Val) : Blk × List Ev :=
  let es := (vs.take 64).map (blkElem wide dir (blkUnit code wide))
  let ints := es.map Prod.fst ++ List.replicate (64 - es.length) 0
  (if ints.all (· == 0) then blkZero wide count else ⟨code, wide, count, ints⟩, es.map Prod.snd)

/-- R52: an element moved to a larger code, and whether the move discarded a non-zero bit. -/
def blkShift (fromExp toExp : Nat) (e : Int) : Int × Bool :=
  let d := 2 ^ (toExp - fromExp)
  (sgn (decide (e < 0)) (roundMag .nearest (decide (e < 0)) e.natAbs d), decide (e.natAbs % d ≠ 0))

/-- R51: narrow elements extended exactly by 64 zero bits below. -/
def blkWiden (b : Blk) : Blk :=
  if b.wide then b else { b with wide := true, elems := b.elems.map (· * 2 ^ 64) }

/-- A block whose elements are brought into the range of R48, which every block written keeps, with the events. -/
def blkKeep (b : Blk) (count : Nat) : Blk × List Ev :=
  ({ b with count := count, elems := b.elems.map (fun e => (blkClamp b.wide e).1) },
   b.elems.map (fun e => { Ev.none with sat := (blkClamp b.wide e).2 }))

/-- Sum of two blocks (R50, R51, R52) with the events of each element. The sum of two zero blocks is wide where either is,
the model's choice (log entry 46). -/
def blkAdd (a b : Blk) : Blk × List Ev :=
  let cnt := min (a.count + b.count) (2 ^ 32 - 1)
  if a.exp = 0xFFFF ∧ b.exp = 0xFFFF then (blkZero (a.wide || b.wide) cnt, List.replicate 64 Ev.none)
  else if a.exp = 0xFFFF then blkKeep b cnt
  else if b.exp = 0xFFFF then blkKeep a cnt
  else
    let w := a.wide || b.wide
    let x := if w then blkWiden a else a
    let y := if w then blkWiden b else b
    let e := max x.exp y.exp
    let rs := (List.zip x.elems y.elems).map (fun (p : Int × Int) =>
      let l := blkShift x.exp e p.1
      let r := blkShift y.exp e p.2
      let c := blkClamp w (l.1 + r.1)
      (c.1, ({ Ev.none with sat := c.2, lost := l.2 || r.2 } : Ev)))
    (⟨e, w, cnt, rs.map Prod.fst⟩, rs.map Prod.snd)

end Sys2Proof.Machine
end

