-- ==== Sys2Proof/Machine/RegMap.lean ====
section
/-! DEFINITION. The setup register map of BAR0 (R498, Table 15-8 and the register tables of every
chapter): offset, count, reset value, writable bits, write-1-to-clear bits, reserved codes (R6). -/

namespace Sys2Proof.Machine

/-- One register, or an array of registers, of the setup register map. -/
structure RegRow where
  off : Nat
  stride : Nat
  count : Nat
  reset : Nat
  rw : Nat
  w1c : Nat
  deriving DecidableEq, Repr

/-- Identification, boot and host control (chapters 15, 13, 10). -/
def regRowsA : List RegRow := [
  ⟨0x0, 4, 1, 0x00B14812, 0, 0⟩, ⟨0x20, 4, 2, 0, 0, 0⟩,
  ⟨0x28, 4, 1, 0, 0xFFFFFFFF, 0⟩, ⟨0x30, 4, 1, 0, 0, 0⟩, ⟨0x34, 4, 1, 0x3F, 0x3F, 0⟩,
  ⟨0x1000, 4, 5, 0, 0, 0⟩,
  ⟨0x2000, 4, 1, 0, 0, 0⟩, ⟨0x2004, 4, 1, 0xC8, 0x1FFFF, 0⟩,
  ⟨0x2008, 4, 1, 0, 0xFFFF8000, 0⟩, ⟨0x200C, 4, 1, 0, 0xFFFFFFFF, 0⟩,
  ⟨0x2010, 4, 1, 0, 0x1FFF, 0⟩, ⟨0x2014, 4, 1, 0, 0, 0xF⟩, ⟨0x2018, 4, 2, 0, 0, 0⟩,
  ⟨0x2020, 4, 1, 0, 0x1FFF, 0⟩,
  ⟨0x2100, 16, 16, 0, 0x1FFFFFFF, 0⟩, ⟨0x2104, 16, 16, 0xC, 0x3F, 0⟩,
  ⟨0x2108, 16, 16, 0, 0xFFFFF000, 0⟩, ⟨0x210C, 16, 16, 0, 0xFFFFFFFF, 0⟩]

/-- Memory and fabric control (chapters 6, 8). -/
def regRowsB : List RegRow := [
  ⟨0x3000, 4, 1, 0, 0, 0⟩, ⟨0x3004, 4, 1, 0x000A0008, 0x00FF00FF, 0⟩, ⟨0x3008, 4, 1, 0, 0, 0x3⟩,
  ⟨0x3010, 4, 2, 0, 0xFFFFFFFF, 0⟩, ⟨0x3020, 4, 12, 0, 0xFFFFFFFF, 0⟩,
  ⟨0x3054, 4, 2, 0, 0, 0⟩,
  ⟨0x3100, 4, 64, 0, 0, 0⟩, ⟨0x3200, 4, 64, 0, 0, 0⟩, ⟨0x3300, 4, 64, 0, 0, 0⟩,
  ⟨0x3400, 4, 8, 0, 0, 0⟩,
  ⟨0x4000, 4, 1, 0xFF, 0x3FF, 0⟩, ⟨0x4004, 4, 2, 0, 0, 0⟩, ⟨0x400C, 4, 1, 0, 0xFFFFF000, 0⟩,
  ⟨0x4010, 4, 1, 0, 0xFFFF, 0⟩, ⟨0x4014, 4, 1, 0, 0, 0x1F⟩,
  ⟨0x4018, 4, 1, 0x000600C8, 0xFFFFF, 0⟩, ⟨0x401C, 4, 1, 0x080A0A40, 0x3FFFFF7F, 0⟩,
  ⟨0x4020, 4, 1, 2, 0xFF, 0⟩, ⟨0x4024, 4, 1, 0x3E8, 0xFFFF, 0⟩,
  ⟨0x4028, 4, 1, 0x00070000, 0x1FFF, 0⟩, ⟨0x402C, 4, 1, 0, 0x3FFFFFFF, 0⟩,
  ⟨0x4030, 4, 1, 0, 0xFFFFFE00, 0⟩, ⟨0x4034, 4, 1, 0, 0xFFFF, 0⟩,
  ⟨0x4040, 8, 8, 0, 0x1, 0⟩, ⟨0x4080, 4, 6, 0, 0, 0⟩]

/-- Collective, grist, dependability, energy and Hafel control (chapters 9, 7, 11, 12, 14). -/
def regRowsC : List RegRow := [
  ⟨0x5000, 4, 1, 0x00010064, 0x1FFFF, 0⟩, ⟨0x5004, 4, 1, 0, 0, 0⟩, ⟨0x5008, 4, 1, 0, 0, 0⟩,
  ⟨0x500C, 4, 1, 0x400, 0, 0⟩, ⟨0x5010, 4, 4, 0, 0, 0⟩,
  ⟨0x6000, 8, 3, 0, 0xFFFFF000, 0⟩, ⟨0x6004, 8, 3, 0, 0xFFFF, 0⟩,
  ⟨0x6018, 4, 1, 0x1010, 0xFF3F, 0⟩, ⟨0x601C, 4, 5, 0, 0, 0⟩,
  ⟨0x7000, 4, 1, 0, 0, 0⟩, ⟨0x7004, 4, 1, 0x00016404, 0x3FF1F, 0⟩,
  ⟨0x7008, 4, 2, 0, 0x800FFFFF, 0⟩,
  ⟨0x7010, 4, 1, 0, 0xFFFFF000, 0⟩, ⟨0x7014, 8, 4, 0, 0xFFFF, 0⟩,
  ⟨0x7018, 4, 1, 0, 0xFFFFFE00, 0⟩, ⟨0x7020, 4, 1, 0, 0xFFFFFFF8, 0⟩,
  ⟨0x7028, 4, 1, 0, 0xFFFFF000, 0⟩,
  ⟨0x7030, 4, 1, 0, 0xFFFFFF00, 0⟩, ⟨0x7034, 4, 1, 0, 0xFFFF, 0⟩,
  ⟨0x7038, 4, 1, 0, 0, 0⟩, ⟨0x703C, 4, 1, 0, 0, 0⟩, ⟨0x7040, 4, 1, 0, 0, 0⟩,
  ⟨0x7044, 4, 1, 0, 0xFFFFF, 0⟩, ⟨0x7048, 4, 1, 0x64, 0xFFFF, 0⟩,
  ⟨0x704C, 4, 1, 0, 0, 0x1F⟩, ⟨0x7050, 4, 6, 0, 0, 0⟩,
  ⟨0x8000, 4, 1, 0x04000FFF, 0, 0⟩, ⟨0x8004, 4, 1, 0xE10, 0xFFF, 0⟩,
  ⟨0x800C, 4, 1, 0x00100020, 0x1FFFFF, 0⟩,
  ⟨0x8010, 4, 1, 0x4000, 0xFFFF, 0⟩, ⟨0x8014, 4, 1, 0x01010101, 0xFFFFFFFF, 0⟩,
  ⟨0x8018, 4, 1, 0, 0xFFFFFF80, 0⟩, ⟨0x801C, 4, 1, 0, 0xFFFF, 0⟩, ⟨0x8020, 4, 1, 0, 0, 0⟩,
  ⟨0x8024, 4, 1, 0x5F, 0xFF, 0⟩, ⟨0x8028, 4, 1, 0, 0, 0⟩, ⟨0x8030, 4, 4, 0x00500000, 0, 0⟩,
  ⟨0x8040, 4, 12, 0x40, 0, 0⟩, ⟨0x8084, 4, 10, 0, 0, 0⟩, ⟨0x80B0, 4, 2, 0, 0, 0⟩,
  ⟨0x9000, 4, 1, 0, 0x7F, 0⟩]

/-- Registers whose reset value is the part record's (R445, R498): start-up loads it at step 10, and before that they
read zero (log entry 3). -/
def regRowsPart : List RegRow := [⟨0x10, 4, 4, 0, 0, 0⟩, ⟨0x3050, 4, 1, 0, 0x7F, 0⟩, ⟨0x8008, 4, 1, 0, 0, 0⟩]

/-- The sequencers' wait limits, units and predicates (R187); all but the limits are views of the die once it is ready. -/
def regRowsSeq : List RegRow := [⟨0x10004, 0x1000, 12, 0x0FFF0FFF, 0, 0⟩, ⟨0x10008, 0x1000, 12, 0x00989680, 0xFFFFFFFF, 0⟩,
  ⟨0x10200, 0x1000, 12, 1, 0, 0⟩]

def regRows : List RegRow := regRowsA ++ regRowsB ++ regRowsC ++ regRowsSeq ++ regRowsPart

/-- An offset lies in a row. -/
def rowHas (r : RegRow) (o : Nat) : Bool :=
  decide (r.off ≤ o) && decide ((o - r.off) % r.stride = 0) && decide ((o - r.off) / r.stride < r.count)

/-- The row of the map that holds an offset, none where the offset is unmapped (R498). -/
def regRow? (o : Nat) : Option RegRow := regRows.find? (fun r => rowHas r o)

/-- A register's reset value; an unmapped offset reads zero. -/
def regReset (o : Nat) : Nat := match regRow? o with
  | some r => r.reset
  | none => 0

/-- Fields with reserved codes: offset, low bit, width, smallest and largest code accepted (R6). -/
def fieldLimits : List (Nat × Nat × Nat × Nat × Nat) := [
  (0x2004, 0, 16, 1, 65535),
  (0x3004, 0, 8, 0, 168), (0x3004, 16, 8, 0, 240), (0x3050, 0, 7, 0, 64),
  (0x4000, 0, 8, 1, 255), (0x4018, 0, 16, 1, 65535),
  (0x401C, 0, 7, 1, 64), (0x401C, 8, 8, 1, 255), (0x401C, 16, 8, 1, 255), (0x401C, 24, 6, 1, 63),
  (0x4020, 0, 8, 1, 255), (0x4024, 0, 16, 1, 65535),
  (0x4028, 0, 4, 0, 8), (0x4028, 4, 4, 0, 8), (0x4028, 8, 4, 0, 8),
  (0x5000, 0, 16, 1, 65535), (0x6018, 0, 6, 1, 63),
  (0x7004, 0, 5, 1, 16), (0x7004, 8, 8, 1, 255), (0x7048, 0, 16, 10, 10000),
  (0x8004, 0, 12, 400, 3600), (0x800C, 0, 8, 1, 255), (0x800C, 8, 12, 0, 372),
  (0x8014, 0, 8, 1, 255), (0x8014, 8, 8, 1, 255), (0x8014, 16, 8, 1, 255), (0x8014, 24, 8, 1, 255),
  (0x8024, 0, 8, 60, 105), (0x9000, 0, 7, 0, 99)]
  ++ (List.range 16).map (fun w => (0x2104 + 16 * w, 0, 6, 12, 40))

/-- A field whose written code is reserved keeps its previous value (R6). -/
def keepReserved (o old new : Nat) : Nat :=
  fieldLimits.foldl (fun v l =>
    if l.1 = o then
      let c := fld v l.2.1 l.2.2.1
      if l.2.2.2.1 ≤ c ∧ c ≤ l.2.2.2.2 then v else setFld v l.2.1 l.2.2.1 (fld old l.2.1 l.2.2.1)
    else v) new

/-- The value a register takes when v is written to it: RW bits take v, W1C bits written 1 clear,
every other bit keeps its value; reserved codes leave their fields (R5, R6). -/
def regMerge (r : RegRow) (o old v : Nat) : Nat :=
  let bits := (old &&& (0xFFFFFFFF ^^^ r.rw)) ||| (v &&& r.rw)
  keepReserved o old (bits ^^^ (bits &&& v &&& r.w1c))

end Sys2Proof.Machine
end

