-- ==== Sys2Proof/Config.lean ====
section
/-! DEFINITION. What one part, its board and the named standards fix, and the free values: constants
with no body, so that nothing can be proved of a value they take (log entries 1, 3 and 30). -/

namespace Sys2Proof.Config

/-- A byte the spec leaves undefined, drawn by the state's counter (R21, R111, R143, R326, R379). -/
opaque freeByte : Nat → BitVec 8

/-- The outcome of a choice the spec leaves open (R21, R492), drawn by the state's counter. -/
opaque freeBool : Nat → Bool

/-- SHA3-512 (FIPS 202), named by R457 and not given by the spec. -/
opaque sha3_512 : List Byte → List Byte

/-- ML-DSA-87 verification of a signature under a public key over a digest, named by R447 and not given by the spec. -/
opaque verify : List Byte → List Byte → List Byte → Bool

/-- A signature with the device's identity key over a digest (R449, R452, R460), drawn by the state's counter. -/
opaque sign : Nat → List Byte → List Byte

/-- The public key that this silicon's PUF and a record's helper data give (R449). -/
opaque pufKey : List Byte → List Byte

/-- The root hash in the ROM, and the digest of the ROM (R447, Table 13-8). -/
opaque romRoot : List Byte
opaque romDigest : List Byte

/-- Whether a supplement's entry returns 0, to stay loaded (R464). -/
opaque supplementStays : List Byte → Bool

/-- What the wire test of a start-up finds on a die's boundary: failing wires as direction (0 from the die, 1 to it),
bundle and wire (0 to 47 data, 48 valid, 49 clock, 50 and 51 spare) (R479; log entry 30). -/
opaque wireTest : Nat → Nat → List (Nat × Nat × Nat)

/-- What the lane test of a start-up finds on a stack: failing channel groups and lanes (R196; log entry 30). -/
opaque laneTest : Nat → Nat → List (Nat × Nat)

/-- Whether a Tun (false) or Sparge unit (true) of a die passes a start-up's test (R189; log entry 30). -/
opaque unitTest : Nat → Nat → Bool → Nat → Bool

/-- The board's BM_ADDR1 and BM_ADDR0 straps as a number (R492, R495). -/
opaque bmStraps : Nat

end Sys2Proof.Config
end

