-- ==== Sys2Proof/Machine/State.lean ====
section
/-! DEFINITION. The state of the LS-4812 as plain data: setup registers, memory, compute dies with their
sequencers, Tuns and Sparge units, the host rings, the fabric, collectives, grist engines, dependability,
the energy ledger, start-up, the Hafel boundaries, the board-management interface, and the queue of
commands. State.reset is the package before its 48 V input rises (log entry 4). -/

namespace Sys2Proof.Machine

/-! ### Compute dies (chapters 3, 4, 5) -/

/-- States of a sequencer, SEQ_STATE.state (R187). -/
inductive SeqMode where
  | idle | running | stopping | faulted | fenced
  deriving DecidableEq, Repr

/-- A completion counter: count and error record (R146, R166). -/
structure Counter where
  count : Word
  err : Word
  deriving DecidableEq, Repr

/-- Where a sem_acq stands (R171): request sent, waiting for a wake, waiting 2 µs to retry. -/
inductive SemPhase where
  | sent | wake | retry
  deriving DecidableEq, Repr

/-- What stops a sequencer's issue (R175, Table 5-18). -/
inductive Stall where
  | none
  /-- ld, st, ald, ast: op code, register index, address (R153), and the host bus address that the windows in force at
  its start give it (R342) -/
  | access (op rd addr : Nat) (host : Option Nat)
  | waitCnt (c v : Nat)
  | cntset (c t : Nat)
  | flagWait (cond addr value : Nat)
  /-- the semaphore's device (none: local), address, credits, phase, and number of the request sent (R171) -/
  | semAcq (dev : Option Nat) (addr n : Nat) (ph : SemPhase) (tag : Nat)
  | fence
  | halt (pc : Nat)
  | sumrd (rd unit slot sel : Nat)
  | sumpred (rd unit slot sel : Nat)
  /-- a full target queue; the instruction is issued again (R175) -/
  | queueFull
  /-- held at admission by the energy ledger (R416, R428, R432) -/
  | admission
  deriving DecidableEq, Repr

/-- Progress of an issued instruction (R175). -/
inductive OpSt where
  | queued | running | ended | stopped | flight
  deriving DecidableEq, Repr

/-- An issued, uncompleted instruction of a die with the register values captured at issue (R147). -/
structure Op where
  /-- issue order; reloads of R179 share the numbering -/
  id : Nat
  /-- class of Table 5-3 -/
  cls : Nat
  /-- operation within the class -/
  code : Nat
  /-- the counter it names; none for a reload (R179) -/
  ctr : Option Nat
  /-- logical unit, or base die -/
  unit : Nat
  pc : Nat
  w : Nat
  /-- record captured at issue (R160) -/
  rcd : List Byte
  /-- a registers captured at issue -/
  av : List Nat
  /-- s registers captured at issue -/
  sv : List Nat
  st : OpSt
  /-- physical unit it was sent to -/
  phys : Nat
  /-- first row to perform (after a reissue) and next row -/
  row : Nat
  /-- where the executions on its present unit failed a check, oldest first (R103, R104, R142) -/
  fails : List Nat
  reexec : Bool
  poison : Bool
  status : Nat
  /-- whether the charge a pass meets has been settled (R179) -/
  decided : Bool
  /-- the load identity a pass meets, or that a load or reload gives its charge (R179) -/
  load : Nat
  /-- outstanding packets of a put, get or remote atomic -/
  packets : Nat
  /-- the host windows in force when a movement started (R342) -/
  wins : List Nat
  /-- get requests sent, and reply packets reserved and not yet arrived (R162, R298) -/
  asked : Nat
  room : Nat
  deriving DecidableEq, Repr

/-- The checksum-weight register of cell (k, 128): the sum of a row in units of 2^-24, 48 bits (R97), its sixteen bit
counts (R101) and its residue (R100); the feeder forms what the pass that meets the charge may need (log entry 47). -/
structure CkWeight where
  sum : BitVec 48
  cnt : List Nat
  rho : Nat
  deriving DecidableEq, Repr

/-- The weight of a row of zeros (R113). -/
def CkWeight.zero : CkWeight := ⟨0, [], 0⟩

/-- A charge of a Tun: its width (none: either, R504), the values the expander delivered, the checksum weights beside
them (R67, R78), the poison mark (R76) and the identity of the load that filled it (R179; 0: start-up or a zero load). -/
structure Charge where
  wide : Option Bool
  k : Nat
  n : Nat
  rows : List (List Nat)
  weights : List CkWeight
  poison : Bool
  src : Nat
  deriving DecidableEq, Repr

/-- The +0 charge of start-up and of a zero load (R113, R179). The spec gives it no K and no N: the model takes 128 of
each, and 64 where a wide pass meets it (log entry 47). -/
def Charge.zero : Charge := ⟨none, 128, 128, [], [], false, 0⟩

/-- Cold-start state of a Tun (R86): warm, idle for 1,024 clocks, ramping. -/
inductive Cold where
  | warm | idle | ramp
  deriving DecidableEq, Repr

/-- A physical Tun (R67, R81, R86, R104, R105). -/
structure Tun where
  charge : Charge
  second : Charge
  /-- a load since the last swap mark: none, pending, completed (R81) -/
  pend : Nat
  cold : Cold
  /-- rows presented since the ramp began -/
  ramp : Nat
  checks : Nat
  mismatch : Nat
  reexec : Nat
  unchecked : Nat
  /-- core clock of each failing pass within 2^30 clocks (R104) -/
  failAt : List Nat
  deriving DecidableEq, Repr

def Tun.reset : Tun := ⟨.zero, .zero, 0, .warm, 0, 0, 0, 0, 0, []⟩

/-- A physical Sparge unit's counters (R142, R144). -/
structure Sparge where
  failures : Nat
  reexec : Nat
  poisonRows : Nat
  failAt : List Nat
  deriving DecidableEq, Repr

def Sparge.reset : Sparge := ⟨0, 0, 0, []⟩

/-- A summary record (Table 4-7). -/
structure Summary where
  nan : Nat
  inf : Nat
  sat : Nat
  lost : Nat
  maxMag : Nat
  elems : Nat
  emax : Nat
  any : Bool
  all : Bool
  poisonRows : Nat
  deriving DecidableEq, Repr

/-- A slot after start-up or a program start (R145). -/
def Summary.reset : Summary := ⟨0, 0, 0, 0, 0, 0, 0xFFFF, false, true, 0⟩

/-- Scoreboard classes (Table 3-5). -/
inductive SbClass where
  | exact | writer | reader
  deriving DecidableEq, Repr

/-- An operation at a tile's scoreboard entry, in arrival order (R92, R93); who is the Op's id, or an
identity above 2^32 for a movement or a DMA (whoMove, whoMover). -/
structure SbEnt where
  tile : Nat
  who : Nat
  cls : SbClass
  held : Bool
  deriving DecidableEq, Repr

/-- A loading or loaded charge of a logical Tun (R179): the load's identity and its Op. -/
structure LoadRec where
  id : Nat
  w : Nat
  av : List Nat
  deriving DecidableEq, Repr

/-- What a logical Tun's charges are (R179); identity 0 is the zero charge of start-up. -/
structure Logical where
  cur : Nat
  pend : Option Nat
  deriving DecidableEq, Repr

/-- A fetched command descriptor of a ring (R349, R354): its ring, its index, whether it has returned
and started, its bytes and the completion ring reserved for it. -/
inductive CmdSt where
  | fetching | ready | started
  deriving DecidableEq, Repr

structure Cmd where
  ring : Nat
  idx : Nat
  st : CmdSt
  bytes : List Byte
  cring : Nat
  deriving DecidableEq, Repr

/-- A compute die: sequencer, Tuns, Sparge units, movement and synchronisation state. -/
structure Die where
  mode : SeqMode
  fault : Nat
  faultInfo : Word
  faultPc : Addr
  s : Vector Word 32
  p : Vector Bool 8
  a : Vector Addr 16
  pc : Addr
  cnt : Vector Counter 16
  stall : Stall
  /-- core clocks since program start (clock, R152) and since start-up (R104) -/
  clk : Nat
  clkUp : Nat
  /-- lines of the instruction cache: line number and bytes, oldest first (R176) -/
  icache : List (Nat × List Byte)
  tunMap : Vector (Fin 12) 12
  sparMap : Vector (Fin 12) 12
  tunUp : Vector Bool 12
  sparUp : Vector Bool 12
  logical : Vector Logical 12
  /-- recorded load parameters by identity (R179) -/
  loads : List (Nat × LoadRec)
  tuns : Vector Tun 12
  spar : Vector Sparge 12
  /-- summary slots: logical unit × 8 + slot (R137), unlisted at the value of R145 -/
  slots : List (Nat × Summary)
  /-- records of completed instructions not yet published (R141) -/
  slotQ : List (Nat × Summary)
  /-- issued, uncompleted instructions in issue order -/
  ops : List Op
  nextId : Nat
  sb : List SbEnt
  /-- ordered operations of which effect is due: see Op.st -/
  dropped : Nat
  startCmd : Option Cmd
  /-- stops that wait for the sequencer to be idle, in order (R353) -/
  stopCmds : List Cmd
  /-- abandoned sem_acq requests whose grant goes back (R184): number, device, address, credits -/
  semBack : List (Nat × Option Nat × Nat × Nat)
  /-- held until its spread delay ends (R428) -/
  spreadHold : Bool
  /-- the next instruction's estimate has been debited (R416) -/
  admitted : Bool
  deriving DecidableEq, Repr

def Die.reset : Die :=
  { mode := .idle, fault := 0, faultInfo := 0, faultPc := 0,
    s := Vector.replicate 32 0, p := (Vector.replicate 8 false).set 0 true,
    a := Vector.replicate 16 0, pc := 0, cnt := Vector.replicate 16 ⟨0, 0⟩, stall := .none,
    clk := 0, clkUp := 0, icache := [], tunMap := Vector.ofFn id, sparMap := Vector.ofFn id,
    tunUp := Vector.replicate 12 true, sparUp := Vector.replicate 12 true,
    logical := Vector.replicate 12 ⟨0, none⟩, loads := [],
    tuns := Vector.replicate 12 .reset, spar := Vector.replicate 12 .reset,
    slots := [], slotQ := [], ops := [], nextId := 1, sb := [], dropped := 0,
    startCmd := none, stopCmds := [], semBack := [], spreadHold := false, admitted := false }

/-! ### Host (chapter 10) -/

/-- A ring (R344, R345, R360, R361). state: 0 disabled, 1 enabled, 2 disabling, 3 error. -/
structure Ring where
  base : Nat
  cfg : Nat
  mod : Nat
  state : Nat
  err : Nat
  /-- the device's index and the host's index last seen, modulo 2^32 -/
  dev : Nat
  host : Nat
  /-- completion ring: entries reserved for fetched descriptors (R354) -/
  reserved : Nat
  lost : Nat
  /-- events lost since the previous entry written (R359) -/
  lostNow : Nat
  /-- entries written since the last interrupt, and whether interrupt-now is among them (R360) -/
  unsig : Nat
  irqNow : Bool
  /-- disabling with abort (R361) -/
  abort : Bool
  deriving DecidableEq, Repr

/-- A disabled ring after start-up (R367, R366). -/
def Ring.reset : Ring := ⟨0, 0, 1, 0, 0, 0, 0, 0, 0, 0, 0, false, false⟩

/-- A completion or event on its way through the collector (R357, R358). -/
structure Entry where
  src : Nat
  /-- none: an event for HOST_EVT_DEFAULT.ring -/
  ring : Option Nat
  isEvt : Bool
  bytes : List Byte
  irqNow : Bool
  /-- completion: command ring and index of the command -/
  cmdRing : Nat
  /-- a post's die and instruction, completed when the event is written or dropped (R358) -/
  post : Option (Nat × Nat)
  deriving DecidableEq, Repr

/-- Work of a DMA mover (R350, R351, R163): the ring's command, or the helper instruction's die and id. -/
structure MoverJob where
  cmd : Option Cmd
  help : Option (Nat × Nat)
  desc : List Byte
  /-- the host windows in force when the mover began it (R342); empty before -/
  wins : List Nat
  deriving DecidableEq, Repr

/-- Host link, rings, collector, movers, MSI-X and mailbox. -/
structure HostSt where
  linkUp : Bool
  width : Nat
  rate : Nat
  cache : Bool
  mem : Bool
  bme : Bool
  /-- deep sets in the window as last read: the size of DVSEC range 1 in units of 4 GiB (R223) -/
  cxlSets : Nat
  /-- the CXL link is leaving reset, so training reads MEM_CXL_SETS (R223) -/
  cxlRst : Bool
  /-- the HDM decoder: its base where the host has committed it; interleave ways 1 (R223, R341) -/
  hdm : Option Nat
  rings : List (Nat × Ring)
  /-- doorbell lines held under RdShared (R346) -/
  lines : List Nat
  /-- doorbell lines of which a read is outstanding, deferred, or due again -/
  reads : List Nat
  /-- lines that must be read before fetch resumes (R363) -/
  resume : List Nat
  rotation : Nat
  cmds : List Cmd
  /-- entries held at their sources, in order (R357) -/
  heldQ : List Entry
  staging : List Entry
  highWater : Nat
  movers : Vector (List MoverJob) 16
  /-- the MSI-X table: message address and data by vector, as the host wrote them (R339, Table 10-1) -/
  msixTab : List (Nat × Nat × Nat)
  /-- vectors the host has unmasked; every vector is masked at reset (log entry 2); and the pending-bit array -/
  msixOpen : List Nat
  msixPend : List Nat
  /-- reset in progress: 0 none, 1 function level, 2 CXL (R364) -/
  resetting : Nat
  /-- device time at which the link was lost (R365) -/
  lostAt : Nat
  /-- PERST_N asserted (R438) -/
  perst : Bool
  /-- the DOE mailbox's error bit: an abandoned exchange (R462) -/
  doeErr : Bool
  deriving DecidableEq, Repr

def HostSt.reset : HostSt :=
  { linkUp := false, width := 0, rate := 0, cache := false, mem := false, bme := false, cxlSets := 0,
    cxlRst := true, hdm := none, msixTab := [],
    rings := [], lines := [], reads := [], resume := [], rotation := 0, cmds := [], heldQ := [], staging := [],
    highWater := 0, movers := Vector.replicate 16 [], msixOpen := [], msixPend := [], resetting := 0,
    lostAt := 0, perst := true, doeErr := false }

/-! ### Memory controllers (chapter 6) -/

/-- A lane test in progress on a channel: the line's home location and who waits (R197). -/
structure LaneTest where
  stack : Nat
  channel : Nat
  loc : Nat
  addr : Nat
  /-- whether a requester waits for the line (a scrub read delivers nothing) -/
  deliver : Bool
  deriving DecidableEq, Repr

/-- Repair, test and scrub state of the memory controllers. -/
structure MemSt where
  /-- lanes replaced by spares: stack 0 to 63 numbered as MEM_CE, group, lane (R195) -/
  spares : List (Nat × Nat × Nat)
  tests : List LaneTest
  /-- stacks beyond repair (R198) -/
  failed : List Nat
  /-- requests that have waited at a home, which numbers their scoreboard entries (R206) -/
  next : Nat
  /-- atomic line buffers: lines buffered, least recently used first (R214) -/
  atomBuf : List Nat
  /-- next line of the scrub of stack j (0 to 63) or SRAM 64 + k (R217) -/
  scrub : List (Nat × Nat)
  /-- per channel or bank: key, device time of its last corrected-line record, lines corrected since
  (Table 11-1, Table 11-3) -/
  ceLog : List (Nat × Nat × Nat)
  /-- spare replacements not yet in the wear record (R196, R197) -/
  newSpares : List (Nat × Nat × Nat)
  deriving DecidableEq, Repr

def MemSt.reset : MemSt := ⟨[], [], [], 0, [], [], [], []⟩

/-- Who asked for an atomic (R213). -/
inductive Origin where
  /-- flag_add or sem_rel of a die: die and instruction -/
  | instr (cd id : Nat)
  /-- a sem_acq of a die, by the number of its request -/
  | acq (cd tag : Nat)
  /-- an effect of the device that reports to no one -/
  | nobody
  /-- an atomic request packet: source, flow, operation tag -/
  | remote (src flow tag : Nat)
  /-- an atomic request flit: key of its bundle, request tag -/
  | flit (key tag : Nat)
  /-- an ordinary read: the error pattern the line shows when it is decoded -/
  | read (err : List Byte)
  /-- an ordinary write: its bytes and poison mark -/
  | write (bytes : List Byte) (mark : Bool)
  /-- a CXL.mem read, or write of bytes -/
  | cxl (bytes : Option (List Byte))
  /-- a read or write request flit, and the line a write carries with its poison mark -/
  | hafel (key : Nat) (flit : List Byte) (line : Option (List Byte × Bool))
  deriving DecidableEq, Repr

/-- A request waiting at its home, in order of arrival (R210, R213). Codes 0 to 6 are the atomics of Table 6-5; code 8
is a read or write, which the home performs as soon as nothing holds it (R197, R206, R216). -/
structure HomeReq where
  code : Nat
  addr : Nat
  op1 : Nat
  op2 : Nat
  /-- requester coordinate [19:0] and die [23:20] for codes 5 and 6; the scoreboard identity of a read or write -/
  who : Nat
  origin : Origin
  deriving DecidableEq, Repr

/-! ### Error log (chapter 11) -/

/-- A log entry before it is written (Table 11-2). -/
structure LogRec where
  time : Nat
  cls : Nat
  dieCls : Nat
  die : Nat
  unit : Nat
  detail : Nat
  addr : Nat
  deriving DecidableEq, Repr

/-- What left the package, newest first (log entry 5). -/
inductive Emit where
  /-- a posted write to host bus addresses (R343, R355) -/
  | hostWrite (addr : Nat) (bytes : List Byte)
  /-- a read of host memory: RdShared 0, RdCurr 1 or CXL.io 2 (Table 10-1), address and length (R343, R346, R354) -/
  | hostRead (kind addr len : Nat)
  /-- an MSI-X message: its vector and the address and data of its table entry (R360) -/
  | msix (vector addr data : Nat)
  /-- an event to the maltster: type of Table 10-12 and its 64 bytes (R185, R297, R303) -/
  | maltster (ty : Nat) (bytes : List Byte)
  /-- a reply on CXL.mem: data and poison indication (R219, R225) -/
  | cxlMem (bytes : List Byte) (poison : Bool)
  /-- a response placed in the DOE mailbox (R339, R458) -/
  | doe (bytes : List Byte)
  /-- a fabric slot leaving a torus port: the bytes that each lane in use carries, and the CRC trailer (R268, R280, R284) -/
  | slot (port : Nat) (lanes : List (Nat × List Byte)) (crc : Nat)
  /-- an identity, test, go or lane drop slot of a port (R274, R275, R303): kind and contents -/
  | portSlot (port kind val : Nat)
  /-- a Hafel flit sent on a bundle: bundle key and its 72 bytes (R470) -/
  | flit (key : Nat) (bytes : List Byte)
  /-- a completion delivered to its requester: tag, status, prior word (Table 14-4) -/
  | done (tag status prior : Nat)
  /-- a management frame to a die: 0 acknowledgement, 1 the selection written to it (R476, R478) -/
  | mgmt (die kind : Nat) (bytes : List Byte)
  /-- a reply of the board-management interface, and a NACK (R495) -/
  | bm (val : Nat)
  | bmNack
  /-- a BAR0 read's value (R502) -/
  | bar0 (val : Nat)
  /-- a write to the board flash, and an erase of a half of the wear record (R452) -/
  | flash (addr : Nat) (bytes : List Byte)
  | erase (addr : Nat)
  /-- data a read request or home read delivers: bytes and poison mark (R194, R218) -/
  | line (bytes : List Byte) (poison : Bool)
  deriving DecidableEq, Repr

/-! ### Fabric (chapter 8) -/

/-- A packet: the slot header of Table 8-3 and the payload of 256 bytes. -/
structure Packet where
  dst : Nat
  src : Nat
  cls : Nat
  epoch : Nat
  age : Nat
  hop : Nat
  type : Nat
  flow : Nat
  seq : Nat
  len : Nat
  ordered : Bool
  poison : Nat
  deflected : Bool
  opened : Bool
  payload : List Byte
  deriving DecidableEq, Repr

/-- Whose completion waits for a packet's acknowledgement (R162, R297, R334, R393). -/
inductive Owner where
  | none
  /-- an instruction of a die -/
  | op (cd id : Nat)
  /-- a collective, and the entry of a permutation -/
  | coll (id entry : Nat)
  /-- a grist group, by its tag -/
  | grist (tag : Nat)
  /-- cellar packets: 0 lines of a reconciliation or an answer, 1 lines of a transfer, 2 its done packet (R388, R394) -/
  | cellar (kind : Nat)
  deriving DecidableEq, Repr

/-- An unacknowledged packet in the retransmission store (R292, R297). -/
structure TxPkt where
  pkt : Packet
  owner : Owner
  tries : Nat
  deriving DecidableEq, Repr

/-- A sender flow: destination and flow field identify it (R292, R294). -/
structure TxFlow where
  dst : Nat
  flow : Nat
  next : Nat
  unacked : List TxPkt
  /-- packets beyond the window, waiting (R292) -/
  backlog : List TxPkt
  /-- an acknowledgement has arrived (R294) -/
  opened : Bool
  deriving DecidableEq, Repr

/-- A receiver flow (R294, R295, R296). -/
structure RxFlow where
  src : Nat
  flow : Nat
  next : Nat
  /-- accepted sequence numbers beyond next -/
  marks : List Nat
  /-- packets of an ordered flow held in the reorder store -/
  held : List Packet
  /-- accepted and unacknowledged packets -/
  unacked : Nat
  deriving DecidableEq, Repr

/-- A routing table slot (R287, R288). -/
structure RTable where
  valid : Bool
  epoch : Nat
  self : Nat
  ext : Vector Nat 4
  /-- value, mask, ports, replace -/
  excs : List (Nat × Nat × Nat × Bool)
  deriving DecidableEq, Repr

def RTable.empty : RTable := ⟨false, 0, 0, Vector.replicate 4 1, []⟩

/-- A torus port (R273–R276, R302). -/
structure PortSt where
  state : Nat
  lanes : Nat
  neighbour : Nat
  testOk : Bool
  goSent : Bool
  goRecv : Bool
  elastic : List Packet
  /-- the six counts of Table 8-11 -/
  sent : Nat
  deflOn : Nat
  arrived : Nat
  arrDefl : Nat
  notUp : Nat
  discarded : Nat
  /-- lane drops, entries to state 8 and mismatches counted (R303) -/
  laneDrops : Nat
  downs : Nat
  mismatches : Nat
  /-- uncorrectable codewords within 1 ms: lane and device time (R303) -/
  badWords : List (Nat × Nat)
  deriving DecidableEq, Repr

def PortSt.reset : PortSt := ⟨0, 0, 0, false, false, false, [], 0, 0, 0, 0, 0, 0, 0, 0, 0, []⟩

/-- Router, ports, reliable-delivery layers. -/
structure FabSt where
  ports : Vector PortSt 8
  tables : Vector RTable 2
  /-- the slot under hold, 2 for none of the two, while the hold time runs (R291) -/
  hold : Option Nat
  round : Nat
  /-- ejection queues 0 to 7 (R283); 8: packets of the device to itself, and packets released
  from the reorder store -/
  eject : Vector (List (Packet × Bool)) 9
  /-- get requests accepted by a layer that its memory cannot answer yet (R298) -/
  gets : List Packet
  /-- injection candidates of the four layers, oldest first (R286) -/
  inj : Vector (List Packet) 4
  tx : Vector (List TxFlow) 4
  rx : Vector (List RxFlow) 4
  mapSeq : Nat
  mapNoEject : Nat
  mapNoPort : Nat
  mapHop : Nat
  mapEpoch : Nat
  mapFormat : Nat
  mapRetr : Nat
  mapFail : Nat
  mapRounds : Nat
  deriving DecidableEq, Repr

def FabSt.reset : FabSt :=
  { ports := Vector.replicate 8 .reset, tables := Vector.replicate 2 .empty, hold := none, round := 0,
    eject := Vector.replicate 9 [], gets := [], inj := Vector.replicate 4 [], tx := Vector.replicate 4 [],
    rx := Vector.replicate 4 [], mapSeq := 0, mapNoEject := 0, mapNoPort := 0, mapHop := 0,
    mapEpoch := 0, mapFormat := 0, mapRetr := 0, mapFail := 0, mapRounds := 0 }

/-! ### Collectives (chapter 9) -/

/-- A unit of a collective's data: its bytes in transport form, each with whether it derives from a poisoned
line (R314, R320). -/
abbrev CUnit := List (Byte × Bool)

/-- A step of a collective: units sent to a ring neighbour, units received from one and combined or stored,
or the conversion at the agreed exponents (R317, R323). -/
inductive CMove where
  | send (dst axis dir phase : Nat) (units : List Nat) (exps : Bool)
  | recv (src axis dir phase : Nat) (units : List Nat) (exps add : Bool)
  | convert
  deriving DecidableEq, Repr

/-- What pitch arrivals and releases carry (Table 9-8). -/
structure PitchData where
  step : Nat
  contrib : Nat
  flags : Nat
  pace : Nat
  reason : Nat
  mismatch : Bool
  dur : Nat
  deriving DecidableEq, Repr

/-- A collective that an engine has accepted (R321). -/
structure Coll where
  id : Nat
  /-- the helper instruction: die and identity -/
  cd : Nat
  op : Nat
  bd : Nat
  /-- the 64-byte descriptor and its exclusion list -/
  b : List Byte
  excl : List Nat
  /-- what the host returned for the regions it reads (R343) -/
  host : HostData
  running : Bool
  moves : List CMove
  data : List CUnit
  exps : List CUnit
  /-- checks of neighbours not yet taken: axis and sender (R324) -/
  checks : List (Nat × Nat)
  lost : Nat
  sat : Nat
  nan : Nat
  inf : Nat
  /-- shift: the sender's position base and coordinate -/
  base : Nat
  sender : Nat
  /-- pitch: the combination, stages gathered as their root, arrivals of the stage -/
  pitch : PitchData
  level : Nat
  /-- senders of the arrivals taken at this stage -/
  got : List Nat
  waiting : Bool
  /-- engines that run a stage of it (R321) -/
  slots : List Nat
  /-- permutation: entries not yet begun, entries in progress with their packets outstanding -/
  entries : List (List Byte)
  active : List (Nat × Nat)
  deriving DecidableEq, Repr

/-- The axis collective engines (R321, R330, R338). -/
structure CollSt where
  /-- in order of acceptance -/
  jobs : List Coll
  next : Nat
  /-- packets of collectives and pitches taken and not yet used, in order of arrival; after the 256 payload bytes of a
  stream packet stands the position base that came with it (R336) -/
  arr : List Packet
  /-- bytes arrived by permutation puts of a tag modulo 64, and whether any was poisoned (R334) -/
  permArr : List (Nat × Nat × Bool)
  /-- the pace group: descriptor and exclusions (R330) -/
  group : Option (List Byte × List Nat)
  /-- the pace last relayed since the last pitch release (R331) -/
  relayed : Nat
  /-- step of the last pitch -/
  lastStep : Nat
  deriving DecidableEq, Repr

def CollSt.reset : CollSt := ⟨[], 1, [], [], none, 1024, 0⟩

/-! ### Grist engines (chapter 7) -/

/-- A delta region's state: 0 clean, 1 open, 2 folding, and the step it last held (R249). -/
structure Region where
  st : Nat
  step : Option Nat
  deriving DecidableEq, Repr

/-- A group of ids that a requester sends to one owner (R239, R244, R261). -/
structure GGroup where
  tag : Nat
  /-- the engine that sends it: that of its descriptor, or the one that serves a migrated row (R232, R261) -/
  bd : Nat
  /-- 0 look-up, 1 update, 3 migrated row -/
  kind : Nat
  table : Nat
  owner : Nat
  bag : Nat
  ids : List Nat
  weights : List Nat
  /-- valid ids of its bag -/
  count : Nat
  /-- gradient elements, or a row slot and its accumulator, to send -/
  data : CUnit
  /-- 0 waiting for reply room, 1 sent, 2 refused as busy, 3 ended -/
  st : Nat
  chunks : List (Nat × List Byte)
  pooled : Nat
  /-- flags of its reply (Table 7-8) -/
  flags : Nat
  unreachable : Bool
  deriving DecidableEq, Repr

/-- A grist descriptor in progress (R238). -/
structure GJob where
  id : Nat
  cd : Nat
  op : Nat
  bd : Nat
  b : List Byte
  /-- its table's record as accepted (R230) -/
  r : List Byte
  groups : List GGroup
  valid : Nat
  pads : Nat
  invalid : Nat
  poisoned : Nat
  rows : Nat
  nanRows : Nat
  outcome : Nat
  /-- a fold: 1 folding its region, 2 waiting for the fold in progress; 0 otherwise -/
  fold : Nat
  deriving DecidableEq, Repr

/-- An update or migration group at its owner (R246, R247, R251, R261). -/
structure GServe where
  src : Nat
  flow : Nat
  tag : Nat
  /-- 1 update, 3 migrated row -/
  kind : Nat
  table : Nat
  mirror : Bool
  step : Nat
  refused : Bool
  /-- id, weight, entry address or none where it is applied directly; of a migrated row: the row, its hot slot plus 1
  or 0 for home, none -/
  ids : List (Nat × Nat × Option Nat)
  /-- pooling and gradient format as the request carries them -/
  pooling : Nat
  count : Nat
  /-- chunks received, in order -/
  chunks : CUnit
  chunkNo : Nat
  direct : Nat
  /-- flags of its reply (Table 7-8) -/
  flags : Nat
  /-- tag of the copy forwarded to the partner, once the group is performed, and whether the partner was busy -/
  fwd : Option Nat
  fwdBusy : Bool
  deriving DecidableEq, Repr

/-- The grist engines (R249, R256, R257, R266). -/
structure GristSt where
  jobs : List GJob
  next : Nat
  nextTag : Nat
  serving : List GServe
  /-- delta regions by (table × 2 + mirror) × 2 + region; unlisted ones are clean with no step -/
  regions : List (Nat × Region)
  /-- sketch counters by engine × 16,384 + row × 4,096 + column -/
  sketch : List (Nat × Nat)
  /-- top lists: table, row, estimate -/
  top : Vector (List (Nat × Nat × Nat)) 4
  /-- steps counted since the last reset of an engine's report -/
  counted : Vector Nat 4
  /-- newest step of which a fold has completed -/
  newest : Option Nat
  deriving DecidableEq, Repr

def GristSt.reset : GristSt :=
  ⟨[], 1, 1, [], [], [], Vector.replicate 4 [], Vector.replicate 4 0, none⟩

/-! ### Dependability (chapter 11) -/

/-- A digest in progress (R378–R383, R394). -/
structure Digest where
  step : Nat
  /-- 0 a step digest, 1 or 2 a receive digest of that kind -/
  kind : Nat
  sender : Nat
  carried : List Byte
  start : Nat
  prim : Option (List Byte)
  mirr : Option (List Byte)
  /-- primary digest sent -/
  sent : Bool
  pv : Option Nat
  mv : Option Nat
  pPoison : Bool
  mPoison : Bool
  pRestored : Nat
  mRestored : Nat
  lost : Nat
  /-- lines requested and not yet answered: region and offset -/
  wantP : List (Nat × Nat)
  wantM : List (Nat × Nat)
  ward : List Byte
  /-- the model's own: lanes of each side when its digest may begin, to tell a write under it (R379) -/
  snapP : List Nat
  snapM : List Nat
  deriving DecidableEq, Repr

/-- An unload (1) or reseed (2) being sent (R393). -/
structure Transfer where
  kind : Nat
  dst : Nat
  /-- next region and offset to send -/
  region : Nat
  off : Nat
  out : Nat
  step : Nat
  doneSent : Bool
  doneAcked : Bool
  deriving DecidableEq, Repr

/-- An entry of a direct list (R375): side (0 primary, 1 mirror), step, engine, region, offset, bytes. -/
structure DirEnt where
  side : Nat
  step : Nat
  eng : Nat
  region : Nat
  off : Nat
  len : Nat
  deriving DecidableEq, Repr

/-- Cellar copy, transfers and watchdog. -/
structure DepSt where
  digest : Option Digest
  /-- a trigger that waits: kind, step, sender, carried digest, and its device time (R378, R383) -/
  queued : Option (Nat × Nat × Nat × List Byte × Nat)
  /-- the ward's digest held: step and digest (R382) -/
  held : Option (Nat × List Byte)
  /-- done packets of kind 0 of the current step: sent to the partner, received from the ward, and the end
  of the partner's list -/
  sentDone : Bool
  recvDone : Bool
  listDone : Bool
  /-- ranges named by the partner's list: region, offset, bytes -/
  ranges : List (Nat × Nat × Nat)
  /-- line requests held: requester, region, side, offset (R386) -/
  heldReqs : List (Nat × Nat × Nat × Nat)
  /-- lines packets unacknowledged, and the done packets that wait for them: destination, payload and kind, 3 for the end
  of a direct list (R388) -/
  lines : Nat
  dues : List (Nat × List Byte × Nat)
  transfer : Option Transfer
  /-- lines of a transfer being received -/
  rxBusy : Bool
  direct : List DirEnt
  /-- steps for which a list would have exceeded its 4,096 entries (R375) -/
  overflow : List Nat
  /-- the last primary and mirror digest with their steps (R393) -/
  lastP : Nat × List Byte
  lastM : Nat × List Byte
  /-- times of watchdog expiries within 10 s, and the maltster in reset (R398, R400) -/
  expiries : List Nat
  stewardDown : Bool
  /-- device time of the watchdog's last restart -/
  wdogAt : Nat
  deriving DecidableEq, Repr

def DepSt.reset : DepSt :=
  { digest := none, queued := none, held := none, sentDone := false, recvDone := false, listDone := false,
    ranges := [], heldReqs := [], lines := 0, dues := [], transfer := none, rxBusy := false,
    direct := [], overflow := [], lastP := (0, List.replicate 64 0), lastM := (0, List.replicate 64 0),
    expiries := [], stewardDown := false, wdogAt := 0 }

/-! ### Energy ledger (chapter 12) -/

/-- An open throttle episode (R421): reason, first and last acting tick. -/
structure Episode where
  reason : Nat
  first : Nat
  last : Nat
  deriving DecidableEq, Repr

/-- Default estimates in fJ (Table 12-2). -/
def defaultEst : List Nat :=
  [550, 2200, 9000, 35, 1500, 200, 300, 1200, 3000, 150, 7300, 11000, 400, 900, 62000, 2000, 20000, 30000,
   0, 0, 0, 0, 0, 0, 0, 0, 0, 0, 0, 0, 0, 0]

/-- The energy ledger (R405–R434). Energies are in fJ. -/
structure LedSt where
  est : List Nat
  /-- admission counters of the compute dies and of the base dies (R415) -/
  credit : Vector Int 12
  bdCredit : Vector Int 4
  /-- baseline per tick B_k and correction corr_k (R418) -/
  base : Vector Nat 4
  corr : Vector Nat 4
  /-- of the gyle: raw estimates admitted, corrected estimates debited, energy measured, idle ticks and their
  energy -/
  admitted : Vector Nat 4
  spent : Vector Nat 4
  measured : Vector Nat 4
  idleTicks : Vector Nat 4
  idleEnergy : Vector Nat 4
  /-- gyles in which the correction was replaced (R419) -/
  history : Vector Nat 4
  /-- ticks of the gyle, and ticks since start-up -/
  tick : Nat
  now : Nat
  /-- ns of the gyle in which a die's sequencer held an instruction at admission, and ns of the gyle (R422) -/
  waits : Vector Nat 12
  span : Nat
  /-- an instruction has waited for credit in the present tick -/
  waited : Bool
  /-- credit given in the gyle to the quadrants' counters -/
  credited : Vector Int 4
  own : Nat
  ownReason : Nat
  /-- the group pace last received; 1,024: none (R423) -/
  group : Nat
  /-- acting ticks of the gyle by reason (R422) -/
  acted : Vector Nat 11
  episodes : List Episode
  /-- ticks in a row above a rail's continuous limit, by quadrant and rail (R409) -/
  above : Vector Nat 16
  /-- a quadrant admits nothing in this tick; its clocks are halved for a rail (R409) -/
  held : Vector Bool 4
  halved : Vector Bool 16
  /-- stages limited to 250 W by their temperature (R434) -/
  limited : List Nat
  stretched : Vector Bool 12
  /-- thermal cap of a quadrant, ageing cap of a die, in codes; 64 none -/
  thermal : Vector Nat 4
  /-- a sensor of the quadrant above its threshold; every one at least 3 °C below it (R434) -/
  hot : Vector Bool 4
  cool : Vector Bool 4
  ageing : Vector Nat 12
  /-- the brake: in force, its two causes, and when the last of them ended (R432) -/
  brake : Bool
  brakeIn : Bool
  brakePin : Bool
  brakeAt : Nat
  /-- the last frame of each stage: input mV and mA, four rail voltages in mV, four rail currents in mA, two
  temperatures in °C (R405) -/
  frames : Vector (List Nat) 12
  /-- rail energy since start-up (ENG_ENERGY) -/
  energy : Nat
  /-- device time of the last pitch release (R428) -/
  releasedAt : Nat
  deriving DecidableEq, Repr

def LedSt.reset : LedSt :=
  { est := defaultEst, credit := Vector.replicate 12 0, bdCredit := Vector.replicate 4 0,
    base := Vector.replicate 4 200000000000, corr := Vector.replicate 4 1280,
    admitted := Vector.replicate 4 0, spent := Vector.replicate 4 0, measured := Vector.replicate 4 0, idleTicks := Vector.replicate 4 0,
    idleEnergy := Vector.replicate 4 0, history := Vector.replicate 4 0, tick := 0, now := 0,
    waits := Vector.replicate 12 0, span := 0, waited := false, credited := Vector.replicate 4 0, own := 1024, ownReason := 0,
    group := 1024, acted := Vector.replicate 11 0, episodes := [], above := Vector.replicate 16 0,
    held := Vector.replicate 4 false, halved := Vector.replicate 16 false, limited := [],
    stretched := Vector.replicate 12 false, thermal := Vector.replicate 4 64, hot := Vector.replicate 4 false,
    cool := Vector.replicate 4 true,
    ageing := Vector.replicate 12 64, brake := false, brakeIn := false, brakePin := false,
    brakeAt := 0, frames := Vector.replicate 12 [], energy := 0, releasedAt := 0 }

/-! ### Start-up, identity and attestation (chapter 13) -/

/-- Start-up, the board flash, the wear record and the measurement slots. -/
structure BootSt where
  /-- the 48 V side of the power stages runs (R404) -/
  powered : Bool
  /-- the step of Table 13-3 that start-up waits in: 5 for the stages, 6 for clock and reset, 14 for the
  dies, 20 for memory; 21 ready, 22 halted, 0 off -/
  step : Nat
  /-- SYS_RESET_N asserted; the reference clocks MAIN, CXL, LINK valid (R433, R438) -/
  sysReset : Bool
  refs : Vector Bool 3
  /-- stages that have reported (step 5) -/
  reported : Vector Bool 12
  /-- THERMTRIP_N latch (R435) -/
  trip : Bool
  /-- the part record is loaded: step 10 has ended -/
  loaded : Bool
  /-- a die whose loss is the device's (Table 1-7) -/
  failed : Bool
  /-- watchdog expiries before ready (R443) -/
  expiries : Nat
  /-- start-ups begun: what the silicon's tests find is drawn with it (log entry 30) -/
  boots : Nat
  /-- ns since 48 V rose through 40 V or, in a cold reset, step 7 began (BOOT_TIME) -/
  cold : Bool
  elapsed : Nat
  /-- the board flash, newest first; an unlisted byte is erased, 0xFF (R444) -/
  flash : List (Nat × List Byte)
  /-- measurement slots 0 to 7, and security versions of the supplements (R457, R460) -/
  slots : Vector (List Byte) 8
  secVer : Vector Nat 2
  /-- lane substitutions of the wear record: stack, group, spare, lane (Table 13-7) -/
  wear : List (Nat × Nat × Nat × Nat)
  /-- dies whose trim has changed, and whether the hours have, since the last block (R452) -/
  dueTrims : List Nat
  dueHours : Bool
  /-- hours powered; last block sequence number; active half and its next block (R451, R452) -/
  hours : Nat
  seq : Nat
  half : Nat
  block : Nat
  /-- the test access instruction: 0 BYPASS, 1 IDCODE, others test instructions (R482, R483) -/
  tap : Nat
  deriving DecidableEq, Repr

def BootSt.reset : BootSt :=
  { powered := false, step := 0, sysReset := false, refs := Vector.replicate 3 false,
    reported := Vector.replicate 12 false, trip := false, loaded := false, failed := false, expiries := 0, boots := 0, cold := false, elapsed := 0, flash := [],
    slots := Vector.replicate 8 (List.replicate 64 0), secVer := Vector.replicate 2 0, wear := [],
    dueTrims := [], dueHours := false, hours := 0, seq := 0, half := 0, block := 0, tap := 1 }

/-! ### Hafel (chapter 14) -/

/-- One die's side of a boundary (R477–R480, R484). -/
structure HafDie where
  state : Nat
  cap : List Byte
  /-- selected bundles out and in, spare bundles, rate, features (R478); written to the die, echoed -/
  sel : Nat × Nat × Nat × Nat × Nat
  asked : Bool
  echoed : Bool
  /-- spare bundles in use and spare bundles that failed, by direction (0 from the die, 1 to it) -/
  used : Nat × Nat
  bad : Nat × Nat
  wires : Nat
  crc : Nat
  retired : Nat
  deriving DecidableEq, Repr

def HafDie.reset : HafDie := ⟨0, [], (0, 0, 0, 0, 0), false, false, (0, 0), (0, 0), 0, 0, 0⟩

/-- One direction of a bundle: its sender and its receiver (R469–R474). -/
structure Bundle where
  /-- sender: next seq, credits, unacknowledged flits oldest first, flits waiting to be sent -/
  next : Nat
  credits : Nat
  replay : List (List Byte)
  outQ : List (List Byte)
  /-- receiver: expected seq, discarding after a nak, naks of one flit in a row, times of CRC failures in 1 ms -/
  expect : Nat
  discard : Bool
  naks : Nat
  fails : List Nat
  /-- an accepted write request or completion whose line is the next flit -/
  want : Option (List Byte)
  /-- retired, its spare under test -/
  testing : Bool
  deriving DecidableEq, Repr

def Bundle.reset : Bundle := ⟨0, 16, [], [], 0, false, 0, [], none, false⟩

/-- The Hafel boundaries: dies by linear number, bundles by (die × 2 + direction) × 4,096 + bundle, slot parts
by (die × 2 + direction) × 6 + group and part. -/
structure HafSt where
  dies : List (Nat × HafDie)
  bundles : List (Nat × Bundle)
  parts : List (Nat × List (Nat × List Byte))
  deriving DecidableEq, Repr

def HafSt.reset : HafSt := ⟨[], [], []⟩

/-! ### The machine -/

structure State where
  /-- commands waiting, first in first out -/
  pending : List Instr
  /-- setup registers that differ from their reset value's default: BAR0 offset and value (R498) -/
  regs : List (Nat × Nat)
  /-- memory by home location, sorted, no byte equal to zero (R215; log entry 9) -/
  mem : List Host.Cell
  /-- home locations of poisoned lines, sorted (R218) -/
  poison : List Nat
  memc : MemSt
  /-- requests waiting at their homes, in order of arrival (R210, R216) -/
  homeQ : List HomeReq
  /-- replies on their way to a sem_acq: die, number of its request, and 1 granted, 2 wait_for_wake, 3 retry, 4 or 5
  failed (R171), 8 unreachable (R297) -/
  replies : List (Nat × Nat × Nat)
  dies : Vector Die 12
  host : HostSt
  fab : FabSt
  coll : CollSt
  grist : GristSt
  dep : DepSt
  led : LedSt
  boot : BootSt
  haf : HafSt
  /-- entries of the log queue, oldest first (R370) -/
  logQ : List LogRec
  /-- device time in ns (R503) -/
  time : Nat
  /-- the latched HI halves: DEV_TIME and ENG_ENERGY over BAR0, ENG_ENERGY on the board interface (R502) -/
  latch : Nat × Nat × Nat
  /-- what left the package, newest first: the model's own field (log entry 5) -/
  out : List Emit
  /-- position in the free values: the model's own field (log entry 1) -/
  freeCtr : Nat
  deriving DecidableEq, Repr

/-- No command faults: every failure the spec describes is a register, a status or an event.
The one member says so by name and nothing raises it. -/
inductive Fault where
  /-- raised by nothing -/
  | none
  deriving DecidableEq, Repr

/-- Why a command has no meaning. -/
inductive Refusal where
  /-- a command of the table whose meaning is not written; raised by exec's arms alone; safe -/
  | notModelled (mnemonic : String)
  deriving DecidableEq, Repr

abbrev Out := Host.Outcome State Fault Refusal

/-- The package before its 48 V input rises: every register at its reset value, nothing ready
(log entry 4). -/
def State.reset : State :=
  { pending := [], regs := [], mem := [], poison := [], memc := .reset, homeQ := [], replies := [],
    dies := Vector.replicate 12 .reset, host := .reset, fab := .reset, coll := .reset, grist := .reset,
    dep := .reset, led := .reset, boot := .reset, haf := .reset, logQ := [], time := 0,
    latch := (0, 0, 0), out := [], freeCtr := 0 }

end Sys2Proof.Machine
end

