-- ==== Sys2Proof/Machine/Ops.lean ====
section
/-! DEFINITION. The named operations over the state: setup registers, memory and its homes, the log,
events and completions, completion counters and faults of a sequencer. -/

namespace Sys2Proof.Machine

/-! ### Setup registers -/

/-- The stored value of a setup register (R500). -/
def State.reg (s : State) (o : Nat) : Nat := tabGet (regReset o) s.regs o

/-- A setup register stored by the hardware. -/
def State.setReg (s : State) (o v : Nat) : State := { s with regs := tabSet s.regs o (v % 2 ^ 32) }

/-- Bits of a register set to 1 by the hardware (W1C and status bits, R501). -/
def State.orReg (s : State) (o m : Nat) : State := s.setReg o (s.reg o ||| m)

/-- Bits of a register cleared by the hardware. -/
def State.andNotReg (s : State) (o m : Nat) : State := s.setReg o (s.reg o ^^^ (s.reg o &&& m))

/-- A counter register, saturating at 2^32 − 1 (R221 and the register maps). -/
def State.countReg (s : State) (o n : Nat) : State := s.setReg o (satAdd32 (s.reg o) n)

/-- Replace a field of a register. -/
def State.fieldReg (s : State) (o lo n v : Nat) : State := s.setReg o (setFld (s.reg o) lo n v)

/-- A LO and HI pair as one address: bits [47:0] (R502). -/
def State.regPair (s : State) (o : Nat) : Nat := s.reg o + 2 ^ 32 * s.reg (o + 4)

/-- BOOT_STATUS.ready (R440, R465). -/
def State.ready (s : State) : Bool := bitAt (s.reg 0x1000) 4

/-! ### Dies -/

def State.die (s : State) (cd : Cd) : Die := s.dies[cd]

def State.setDie (s : State) (cd : Cd) (d : Die) : State := { s with dies := s.dies.set cd d }

/-- A die by number; numbers above 11 leave the state unchanged. -/
def State.updDie (s : State) (cd : Cd) (f : Die → Die) : State := s.setDie cd (f (s.die cd))

def cdOf (n : Nat) : Cd := ⟨n % 12, Nat.mod_lt _ (by decide)⟩

def State.fenced (s : State) (cd : Nat) : Bool := (s.die (cdOf cd)).mode == .fenced

/-- A sequencer that works no more: what it had issued is gone. -/
def Die.off (d : Die) : Die :=
  { d with
    mode := .fenced, fault := 0, stall := .none, ops := [], sb := [], slotQ := [], startCmd := none, stopCmds := [],
    semBack := [], spreadHold := false, admitted := false }

/-- The device has failed (Table 1-7: no capacity remains): no die, engine or port of it works on, its memory is gone, and
what they held is dropped, until the next start-up (R22, R198, R406; log entry 49). -/
def State.deviceFail (s : State) : State :=
  { s with
    boot := { s.boot with failed := true }
    dies := s.dies.map Die.off
    homeQ := []
    replies := []
    memc := { s.memc with tests := [] }
    host := { s.host with cmds := [], movers := Vector.replicate 16 [] }
    fab := { FabSt.reset with
      ports := Vector.replicate 8 { PortSt.reset with state := 8 }, tables := s.fab.tables, hold := s.fab.hold }
    coll := { s.coll with jobs := [], arr := [], permArr := [], group := none }
    grist := { s.grist with jobs := [], serving := [] }
    dep := { s.dep with digest := none, queued := none, transfer := none, heldReqs := [], lines := 0, dues := [] } }

/-! ### Memory (R199–R204, R209) -/

def gib : Nat := 2 ^ 30

/-- Whether near set i is local (MEM_NEAR_LAYOUT). -/
def State.nearLocal (s : State) (i : Nat) : Bool := bitAt (s.reg (0x3010 + 4 * (i / 32))) (i % 32)

/-- Whether deep set i is local (MEM_DEEP_LAYOUT). -/
def State.deepLocal (s : State) (i : Nat) : Bool := bitAt (s.reg (0x3020 + 4 * (i / 32))) (i % 32)

/-- The decode of R201: stack and stack offset of an offset in a tier. -/
def tierDecode (isLocal : Nat → Bool) (setSize nStacks perQuad x : Nat) : Nat × Nat :=
  let i := x / setSize
  let off := x % setSize
  let quarter := setSize / 4
  let stack := if isLocal i then off / quarter * perQuad + (off % quarter) / 4096 % perQuad
    else off / 4096 % nStacks
  let row := if isLocal i then (off % quarter) / 4096 / perQuad else off / 4096 / nStacks
  (stack, i * 2 ^ 28 + row * 4096 + off % 4096)

/-- Bytes of a mash buffer mapped to requesters: 192 MiB less the three stores (R203). -/
def State.mashLimit (s : State) : Nat :=
  (192 - 5 - fld (s.reg 0x401C) 24 6 - fld (s.reg 0x6018) 0 6) * 2 ^ 20

/-- Offsets of a compute-die window that are mapped (Table 6-4). -/
def winMapped (o : Nat) : Bool :=
  decide (o < 0x1800000) || (decide (0x40000000 ≤ o) && decide (o < 0x43000000))
    || (decide (0x80000000 ≤ o) && decide (o < 0x800C0000))

/-- The home location of a device address, none where it is unmapped or in a host window
(Table 6-2). A near stack j is at j × 2^34, a deep stack j at 2^40 + j × 2^37, SRAM at its address. A failed device has no
memory left (Table 1-7). -/
def State.loc (s : State) (a : Nat) : Option Nat :=
  if s.boot.failed then none
  else if a < 768 * gib then
    let d := tierDecode s.nearLocal (12 * gib) 48 12 a
    some (d.1 * 2 ^ 34 + d.2)
  else if 0x010000000000 ≤ a ∧ a < 0x028000000000 then
    let d := tierDecode s.deepLocal (4 * gib) 16 4 (a - 0x010000000000)
    some (2 ^ 40 + d.1 * 2 ^ 37 + d.2)
  else if 0x040000000000 ≤ a ∧ a < 0x040040000000 then
    if (a - 0x040000000000) % 2 ^ 28 < s.mashLimit then some a else none
  else if 0x050000000000 ≤ a ∧ a < 0x050C00000000 then
    if winMapped ((a - 0x050000000000) % 2 ^ 32) then some a else none
  else none

def State.mapped (s : State) (a : Nat) : Bool := (s.loc a).isSome

/-- The die whose window holds an address (R204). -/
def winDie (a : Nat) : Option Nat :=
  if 0x050000000000 ≤ a ∧ a < 0x050C00000000 then some ((a - 0x050000000000) / 2 ^ 32) else none

/-- Near memory, deep memory or a mash buffer: where flags, semaphores and atomics may lie (R170, R213). -/
def State.atomicHome (s : State) (a : Nat) : Bool := s.mapped a && (winDie a).isNone

/-- The host bus address that windows give a device address: the lowest-numbered enabled window that covers it; reg is
the value of a window register (R342). -/
def hostAddrBy (reg : Nat → Nat) (a : Nat) : Option Nat :=
  if 0x0F0000000000 ≤ a ∧ a < 0x100000000000 then
    let x := a - 0x0F0000000000
    ((List.range 16).find? (fun w =>
      let sz := fld (reg (0x2104 + 16 * w)) 0 6
      bitAt (reg (0x2100 + 16 * w)) 28 && decide (fld (reg (0x2100 + 16 * w)) 0 28 * 4096 / 2 ^ sz = x / 2 ^ sz))).map
      (fun w => reg (0x2108 + 16 * w) + 2 ^ 32 * reg (0x210C + 16 * w) + x % 2 ^ fld (reg (0x2104 + 16 * w)) 0 6)
  else none

/-- The host bus address of a device address under the windows in force. -/
def State.hostAddr (s : State) (a : Nat) : Option Nat := hostAddrBy s.reg a

/-- The sixty-four window registers as they stand (R342). -/
def State.windows (s : State) : List Nat := (List.range 64).map (fun i => s.reg (0x2100 + 4 * i))

/-- The host bus address of a device address under captured windows (R342). -/
def hostAddrIn (wins : List Nat) (a : Nat) : Option Nat := hostAddrBy (fun o => wins.getD ((o - 0x2100) / 4) 0) a

/-- Whether host-window requests are accepted: link up and Bus Master Enable set (R343). -/
def State.hostOpen (s : State) : Bool := s.host.linkUp && s.host.bme && decide (s.host.resetting = 0)

/-- The byte at a location; an unlisted location reads 0 (R215; log entry 9). -/
def memGet : List Host.Cell → Nat → Byte
  | [], _ => 0
  | (k, v) :: t, i => if k = i then v else memGet t i

/-- A byte listed before the first higher address. -/
def memIns : List Host.Cell → Nat → Byte → List Host.Cell
  | [], i, b => [(i, b)]
  | (k, v) :: t, i, b => if i < k then (i, b) :: (k, v) :: t else (k, v) :: memIns t i b

/-- One byte stored, in canonical form: sorted, no zero byte listed. -/
def memSet (m : List Host.Cell) (i : Nat) (b : Byte) : List Host.Cell :=
  let rest := m.filter (fun c => c.1 != i)
  if b = 0 then rest else memIns rest i b

/-- Bytes stored at ascending locations. -/
def memPut : List Host.Cell → Nat → List Byte → List Host.Cell
  | m, _, [] => m
  | m, i, b :: bs => memPut (memSet m i b) (i + 1) bs

/-- The canonical form of memory: addresses strictly rising, no byte equal to what an unlisted
address reads as. -/
def Memory.wf : List Host.Cell → Bool
  | [] => true
  | [(_, b)] => decide (b ≠ 0)
  | (k, b) :: (k', b') :: t => decide (b ≠ 0) && decide (k < k') && Memory.wf ((k', b') :: t)

/-- The byte a requester reads at a device address (poison apart). -/
def State.byte (s : State) (a : Nat) : Byte := match s.loc a with
  | some l => memGet s.mem l
  | none => 0

/-- What the host returned, where its reads completed without error: of reads that failed, nothing (R343; log entry 12). -/
def hostGot (hostOk : Bool) (host : HostData) : HostData := if hostOk then host else []

/-- A byte that the host returned; none where its read failed (R343). -/
def hostByte (host : HostData) (a : Nat) : Option Byte :=
  match host.find? (fun h => decide (h.1 ≤ a) && decide (a < h.1 + h.2.length)) with
  | some h => h.2[a - h.1]?
  | none => none

/-- The byte an engine reads: of device memory, or the one the host returned for a host window. -/
def State.hByte (s : State) (host : HostData) (a : Nat) : Byte := if s.mapped a then s.byte a else (hostByte host a).getD 0

/-- n bytes that an engine reads. -/
def State.hRead (s : State) (host : HostData) (a n : Nat) : List Byte := (List.range n).map (fun i => s.hByte host (a + i))

/-- A little-endian number that an engine reads. -/
def State.hNum (s : State) (host : HostData) (a n : Nat) : Nat := leNat (s.hRead host a n)

/-- Whether the host answered the read of every host-window byte of a range (R343). -/
def State.hOk (s : State) (host : HostData) (a n : Nat) : Bool :=
  (List.range n).all (fun i => s.mapped (a + i) || (hostByte host (a + i)).isSome)

/-- n bytes at a device address. -/
def State.bytes (s : State) (a n : Nat) : List Byte := (List.range n).map (fun i => s.byte (a + i))

/-- A little-endian number of n bytes at a device address. -/
def State.num (s : State) (a n : Nat) : Nat := leNat (s.bytes a n)

/-- Whether the line holding an address is poisoned (R218). -/
def State.poisoned (s : State) (a : Nat) : Bool := match s.loc a with
  | some l => s.poison.contains (l / 64)
  | none => false

/-- Whether any line of a range is poisoned. -/
def State.rangePoisoned (s : State) (a n : Nat) : Bool :=
  (List.range ((a % 64 + n + 63) / 64)).any (fun i => s.poisoned (a / 64 * 64 + 64 * i))

/-- Whether every byte of a range is mapped. Mapping is uniform over a line (R201–R204). -/
def State.rangeMapped (s : State) (a n : Nat) : Bool :=
  (List.range ((a % 64 + n + 63) / 64)).all (fun i => s.mapped (a / 64 * 64 + 64 * i))

/-- Part of one line written at its home: a whole line clears poison, a partial write of a poisoned
line has no effect (R212, R220). -/
def State.writeLine (s : State) (a : Nat) (bs : List Byte) : State := match s.loc a with
  | none => s
  | some l =>
    if s.poison.contains (l / 64) then
      if bs.length = 64 ∧ l % 64 = 0 then
        { s with mem := memPut s.mem l bs, poison := setDel s.poison (l / 64) }
      else s
    else { s with mem := memPut s.mem l bs }

/-- Bytes written at a device address, line by line; fuel bounds the lines. -/
def State.writeN (s : State) (a : Nat) (bs : List Byte) : Nat → State
  | 0 => s
  | n + 1 =>
    if bs.isEmpty then s else
    let c := 64 - a % 64
    (s.writeLine a (bs.take c)).writeN (a + c) (bs.drop c) n

/-- Bytes written at a device address (R211, R212). -/
def State.write (s : State) (a : Nat) (bs : List Byte) : State := s.writeN a bs (bs.length / 64 + 2)

/-- A line written in the poisoned form (R218). -/
def State.poisonLine (s : State) (a : Nat) : State := match s.loc a with
  | none => s
  | some l => { s with poison := setIns s.poison (l / 64) }

/-- Every line of a range written in the poisoned form. -/
def State.poisonRange (s : State) (a n : Nat) : State :=
  (List.range ((a % 64 + n + 63) / 64)).foldl (fun t i => t.poisonLine (a / 64 * 64 + 64 * i)) s

/-- Operand SRAM offset o of a die (Table 6-4). -/
def sramAddr (cd : Cd) (o : Nat) : Nat := 0x050000000000 + cd.val * 2 ^ 32 + o

/-- Element (row, col) of tile t of a die (R89). -/
def tileAddr (cd : Cd) (t row col : Nat) : Nat :=
  0x050000000000 + cd.val * 2 ^ 32 + 0x40000000 + t * 0x40000 + (row * 128 + col) * 16

/-- Row summary entry of a tile (R89). -/
def rowSumAddr (cd : Cd) (t row : Nat) : Nat :=
  0x050000000000 + cd.val * 2 ^ 32 + 0x80000000 + t * 0x1000 + row * 32

/-! ### Outputs and free values -/

def State.emit (s : State) (e : Emit) : State := { s with out := e :: s.out }

/-- A byte the spec leaves undefined (log entry 1). -/
def State.free (s : State) : Byte × State := (Config.freeByte s.freeCtr, { s with freeCtr := s.freeCtr + 1 })

/-- n undefined bytes (log entry 1). -/
def State.freeBytes (s : State) (n : Nat) : List Byte × State :=
  ((List.range n).map (fun i => Config.freeByte (s.freeCtr + i)), { s with freeCtr := s.freeCtr + n })

/-- The device's own coordinate: self of the inject epoch's table, zero with none valid (R287, R290). -/
def State.selfCoord (s : State) : Nat :=
  let e := fld (s.reg 0x4000) 8 2
  let t0 := s.fab.tables[0]
  let t1 := s.fab.tables[1]
  if t0.valid && t0.epoch == e then t0.self else if t1.valid && t1.epoch == e then t1.self else 0

/-! ### Error log, events and completions -/

/-- A hardware source queues a log entry; a full queue loses it (R370). -/
def State.log (s : State) (cls dieCls die unit detail addr : Nat) : State :=
  if s.logQ.length < 256 then
    { s with logQ := s.logQ ++ [⟨s.time, cls, dieCls, die, unit, detail, addr⟩] }
  else (s.orReg 0x704C 4).countReg 0x7054 1

/-- An entry held at its source; during a reset entries are discarded as they arise (R357, R364). -/
def State.hold (s : State) (e : Entry) : State :=
  if s.host.resetting = 0 then { s with host := { s.host with heldQ := s.host.heldQ ++ [e] } } else s

/-- The 64 bytes of an event (Table 10-11); payload pieces are offset, length and value. -/
def eventBytes (ty src time : Nat) (payload : List (Nat × Nat × Nat)) : List Byte :=
  payload.foldl (fun b p => putB b p.1 p.2.1 p.2.2)
    (putB (putB (putB (zeroB 64) 0 2 ty) 2 1 src) 8 8 time)

/-- An event to HOST_EVT_DEFAULT.ring (R358). -/
def State.event (s : State) (ty src : Nat) (payload : List (Nat × Nat × Nat)) : State :=
  s.hold ⟨src, none, true, eventBytes ty src s.time payload, false, 0, none⟩

/-- An event to a named ring: a post or a congestion map (R358). -/
def State.eventTo (s : State) (ring ty src : Nat) (payload : List (Nat × Nat × Nat))
    (post : Option (Nat × Nat)) : State :=
  s.hold ⟨src, some ring, true, eventBytes ty src s.time payload, false, 0, post⟩

/-- The completion of a command (Table 10-8): x1 is bytes 20–27, x2 bytes 28–35. Bytes 12–15 and the
phase are set by the collector. -/
def State.complete (s : State) (src : Nat) (c : Cmd) (status x1 x2 : Nat) : State :=
  let b := zeroB 64
  let b := putB b 0 4 (fieldB c.bytes 4 4)
  let b := putB b 4 2 c.ring
  let b := putB b 6 1 (fieldB c.bytes 0 1)
  let b := putB b 7 1 status
  let b := putB b 8 4 c.idx
  let b := putB b 16 1 src
  let b := putB b 20 8 x1
  let b := putB b 28 8 x2
  let s := { s with host := { s.host with
    cmds := s.host.cmds.filter (fun d => !(d.ring == c.ring && d.idx == c.idx)) } }
  s.hold ⟨src, some c.cring, false, b, bitAt (fieldB c.bytes 1 1) 1, c.ring, none⟩

/-- An event that goes to the maltster as well as to the driver (R185, R297, R303). -/
def State.eventBoth (s : State) (ty src : Nat) (payload : List (Nat × Nat × Nat)) : State :=
  (s.emit (.maltster ty (eventBytes ty src s.time payload))).event ty src payload

/-- FAB_EVENTS bits newly set, with the fabric event of Table 10-12 (R303). -/
def State.fabEvent (s : State) (bits port : Nat) : State :=
  (s.orReg 0x4014 bits).eventBoth 0x0004 29 [(16, 4, bits), (20, 1, port)]

/-- DEP_STATUS.degraded and the other named bits of DEP_STATUS; a change from 0 to 1 of degraded,
diverged, cellar_lost or steward_failed sets BM_STATUS.dependability (Table 11-1, chapter 15). -/
def State.depStatus (s : State) (bits : Nat) : State :=
  let old := s.reg 0x7000
  let s := s.orReg 0x7000 bits
  if (bits &&& 15) ≠ (old &&& bits &&& 15) then s.orReg 0x30 16 else s

/-! ### Completion counters and faults of a sequencer -/

/-- The error record of a counter after one more completion (R166). -/
def errRecord (old : Word) (status cls unit : Nat) : Word :=
  let n := min (fld old.toNat 0 16 + 1) 0xFFFF
  let first := fld old.toNat 16 4
  if fld old.toNat 0 16 = 0 then BitVec.ofNat 32 (n + status * 2 ^ 16 + cls * 2 ^ 20 + unit * 2 ^ 24)
  else BitVec.ofNat 32 (n + first * 2 ^ 16 + fld old.toNat 20 4 * 2 ^ 20 + fld old.toNat 24 4 * 2 ^ 24)

/-- One completion on a counter (R165, R166). -/
def countOne (c : Counter) (status cls unit : Nat) : Counter :=
  ⟨c.count + 1, if status = 0 ∨ status = 1 then c.err else errRecord c.err status cls unit⟩

/-- A wait in progress ends: the grant of an acquire sent and not answered goes back. A scalar access goes on to its end,
the instruction boundary (R184). -/
def Die.endWait (d : Die) : Die :=
  match d.stall with
  | .access .. => d
  | .semAcq dev a n .sent tag => { d with stall := .none, semBack := d.semBack ++ [(tag, dev, a, n)] }
  | _ => { d with stall := .none }

/-- A fault stops issue, ends a wait in progress, and records its address and code; the first fault stands. One that
comes while the sequencer is stopping is recorded as well (R185, R187; log entry 38). -/
def Die.fail (d : Die) (code pc cls op unit status : Nat) : Die :=
  if (d.mode = .running ∨ d.mode = .stopping) ∧ d.fault = 0 then
    { d.endWait with
      fault := code
      faultPc := BitVec.ofNat 48 pc
      faultInfo := BitVec.ofNat 32 (cls + op * 16 + unit * 2 ^ 12 + status * 2 ^ 16) }
  else d

/-- The fault code of a status a unit reports (Table 5-19). -/
def faultOfStatus (cls status : Nat) : Option Nat :=
  if status = 2 then some 3
  else if status = 3 ∧ cls = 2 then some 4
  else if status = 7 then (if cls = 5 then some 8 else some 5)
  else none

/-- An instruction has completed: its counter rises, a status that faults faults, and it leaves the
list of issued instructions (R165, R166, R150). -/
def Die.finish (d : Die) (o : Op) (status : Nat) : Die :=
  let d := { d with ops := d.ops.filter (fun x => x.id != o.id), sb := d.sb.filter (fun e => e.who != o.id) }
  let d := match o.ctr with
    | some c => { d with cnt := d.cnt.set (c % 16) (countOne (d.cnt[c % 16]'(Nat.mod_lt _ (by decide))) status o.cls o.unit)
                                  (Nat.mod_lt _ (by decide)) }
    | none => d
  match faultOfStatus o.cls status with
  | some f => d.fail f o.pc o.cls o.code o.unit status
  | none => d

/-- The issued instruction with an identity. -/
def Die.op? (d : Die) (id : Nat) : Option Op := d.ops.find? (fun o => o.id == id)

/-- An issued instruction replaced. -/
def Die.putOp (d : Die) (o : Op) : Die := { d with ops := d.ops.map (fun x => if x.id == o.id then o else x) }

end Sys2Proof.Machine
end

