-- ==== Sys2Proof/Machine/Operands.lean ====
section
/-! DEFINITION. Operand forms of sequencer instructions: the fields of Tables 5-2, 5-5, 5-8, 5-9, 5-11,
5-13 and 5-15, the reserved codes the sequencer finds (R150), and the registers of Table 5-1. -/

namespace Sys2Proof.Machine

/-! ### Registers (R146) -/

def Die.getS (d : Die) (i : Nat) : Word := d.s[i % 32]'(Nat.mod_lt _ (by decide))
def Die.getP (d : Die) (i : Nat) : Bool := d.p[i % 8]'(Nat.mod_lt _ (by decide))
def Die.getA (d : Die) (i : Nat) : Addr := d.a[i % 16]'(Nat.mod_lt _ (by decide))
def Die.getC (d : Die) (i : Nat) : Counter := d.cnt[i % 16]'(Nat.mod_lt _ (by decide))

def Die.setS (d : Die) (i : Nat) (v : Word) : Die := { d with s := d.s.set (i % 32) v (Nat.mod_lt _ (by decide)) }

/-- A predicate written; writes to p0 are ignored (R146). -/
def Die.setP (d : Die) (i : Nat) (v : Bool) : Die :=
  if i % 8 = 0 then d else { d with p := d.p.set (i % 8) v (Nat.mod_lt _ (by decide)) }

def Die.setA (d : Die) (i : Nat) (v : Addr) : Die := { d with a := d.a.set (i % 16) v (Nat.mod_lt _ (by decide)) }
def Die.setC (d : Die) (i : Nat) (v : Counter) : Die := { d with cnt := d.cnt.set (i % 16) v (Nat.mod_lt _ (by decide)) }

/-- The next instruction's address (R148). -/
def Die.advance (d : Die) : Die := { d with pc := d.pc + 16 }

/-! ### Common fields (Table 5-2) -/

def iCls (w : Nat) : Nat := fld w 0 4
def iOp (w : Nat) : Nat := fld w 8 8

/-- Whether the guard lets an instruction execute: p[guard] XOR invert (R149). -/
def Die.guardOn (d : Die) (w : Nat) : Bool := d.getP (fld w 4 3) != bitAt w 7

/-- Common operand positions of scalar instructions (Table 5-5). -/
def iRd (w : Nat) : Nat := fld w 16 5
def iRs1 (w : Nat) : Nat := fld w 21 5
def iRs2 (w : Nat) : Nat := fld w 26 5
def iImm32 (w : Nat) : Nat := fld w 32 32

/-- The second operand t (Table 5-5). -/
def Die.opT (d : Die) (w : Nat) : Word := if bitAt w 31 then BitVec.ofNat 32 (iImm32 w) else d.getS (iRs2 w)

/-- A sign-extended 32-bit value as an address offset (R153). -/
def sext48 (v : Nat) : Addr := ofSigned 48 (toSigned 32 v) |> BitVec.ofNat 48

/-- The address a[rs1] + imm32 of a scalar access, modulo 2^48 (R146, R153). -/
def Die.accessAddr (d : Die) (w : Nat) : Nat := (d.getA (iRs1 w) + sext48 (iImm32 w)).toNat

/-! ### Reserved codes the sequencer finds (R150, R152) -/

/-- Bits [lo + n − 1 : lo] of a mask. -/
def fmask (lo n : Nat) : Nat := (2 ^ n - 1) * 2 ^ lo

/-- Bits of t that an operation uses: imm, and imm32 or rs2 as imm selects. -/
def tMask (w : Nat) : Nat := fmask 31 1 + if bitAt w 31 then fmask 32 32 else fmask 26 5

/-- Fields of a scalar operation and whether a register index is outside its file; none: a reserved
op (R152, Table 5-6). -/
def scalarUse (w : Nat) : Option (Nat × Bool) :=
  let op := iOp w
  let rd := fmask 16 5
  let rs1 := fmask 21 5
  let rs2 := fmask 26 5
  let imm := fmask 32 32
  if op = 0 then some (0, false)
  else if op ≤ 9 ∨ op = 0x0B ∨ op = 0x0C then some (rd + rs1 + tMask w, false)
  else if op = 0x0A then some (rd + imm, false)
  else if op = 0x0D ∨ op = 0x0E then some (rd + rs1, false)
  else if 0x10 ≤ op ∧ op ≤ 0x16 then some (rd + rs1 + tMask w, decide (8 ≤ iRd w))
  else if op = 0x18 ∨ op = 0x19 then
    some (rd + rs1 + rs2, decide (8 ≤ iRd w) || decide (8 ≤ iRs1 w) || decide (8 ≤ iRs2 w))
  else if op = 0x1A then some (rd + rs1, decide (8 ≤ iRd w) || decide (8 ≤ iRs1 w))
  else if op = 0x20 then some (rd + fmask 32 48, decide (16 ≤ iRd w))
  else if op = 0x21 then some (rd + rs1 + tMask w, decide (16 ≤ iRd w) || decide (16 ≤ iRs1 w))
  else if op = 0x22 ∨ op = 0x23 then some (rd + rs1 + imm, decide (16 ≤ iRd w) || decide (16 ≤ iRs1 w))
  else if op = 0x24 ∨ op = 0x25 then some (rd + rs1 + imm, decide (16 ≤ iRs1 w))
  else if op = 0x28 then some (rd + fmask 32 10, decide (12 ≤ fld w 32 4))
  else if op = 0x29 then some (rd + fmask 32 10, decide (12 ≤ fld w 32 4) || decide (8 ≤ iRd w))
  else if op = 0x2A ∨ op = 0x2B then some (rd + fmask 32 4, false)
  else if op = 0x2C then some (rd + tMask w, decide (16 ≤ iRd w))
  else if op = 0x2D ∨ op = 0x2E then some (rd, false)
  else none

/-- Fields of a branch (R154, Table 5-7). -/
def branchUse (w : Nat) : Option (Nat × Bool) :=
  let op := iOp w
  if op ≤ 1 then some (fmask 16 32, false)
  else if op = 2 then some (fmask 48 5, decide (16 ≤ fld w 48 5))
  else if op = 3 then some (fmask 16 32 + fmask 48 5, false)
  else if op = 4 then some (0, false)
  else none

/-- Fields of a synchronisation instruction (R168, Table 5-15). -/
def syncUse (w : Nat) : Option (Nat × Bool) :=
  let op := iOp w
  let ctr := fmask 16 4
  let ra := fmask 20 4
  let rs := fmask 24 5
  if op = 0 then some (ctr + fmask 31 1 + (if bitAt w 31 then fmask 32 32 else fmask 21 5), false)
  else if op = 1 ∨ op = 4 then some (ctr + ra + rs + fmask 29 5 + fmask 34 2, false)
  else if op = 2 then some (ra + rs + fmask 29 3, decide (3 ≤ fld w 29 3))
  else if op = 3 then some (ra + rs + fmask 29 5 + fmask 34 1, false)
  else if op = 5 then some (0, false)
  else if op = 6 then some (ctr + rs + fmask 35 1 + fmask 36 13, false)
  else none

/-- Sparge operation codes that are not reserved (Table 4-2). -/
def vecOpValid (op : Nat) : Bool :=
  decide (op ≤ 0x0D) || (decide (0x10 ≤ op) && decide (op ≤ 0x17))
    || (decide (0x20 ≤ op) && decide (op ≤ 0x2C)) || (decide (0x30 ≤ op) && decide (op ≤ 0x35))

/-- A word in which the sequencer finds a reserved code: class, op, every field of scalar, branch and
synchronisation instructions, the unit fields of the others (R150). -/
def seqReserved (w : Nat) : Bool :=
  let whole (u : Option (Nat × Bool)) : Bool := match u with
    | none => true
    | some (m, bad) => bad || decide ((w >>> 16) &&& ((2 ^ 112 - 1) ^^^ (m >>> 16)) ≠ 0)
  match iCls w with
  | 0 => whole (scalarUse w)
  | 1 => whole (branchUse w)
  | 2 => decide (4 < iOp w) || decide (12 ≤ fld w 20 4)
  | 3 => !vecOpValid (iOp w) || decide (12 ≤ fld w 20 4)
  | 4 => decide (2 < iOp w)
  | 5 => whole (syncUse w)
  | 6 => decide (2 < iOp w)
  | _ => true

/-! ### Fetch and issue (R149, R175, R176) -/

/-- The instruction word at the program counter, where its line is in the instruction cache (R148, R176). -/
def Die.instrAt (d : Die) : Option Nat :=
  (d.icache.find? (fun l => l.1 == d.pc.toNat / 64)).map (fun l => fieldB l.2 (d.pc.toNat % 64) 16)

/-- The sequencer is issuing, and the word is the next instruction. -/
def Die.canIssue (d : Die) (w : IWord) : Bool :=
  d.mode == .running && d.fault == 0 && d.stall == .none && d.instrAt == some w.toNat

/-- The word is an unreserved instruction of the class and op, next in its die. -/
def Die.issues (d : Die) (w : IWord) (cls op : Nat) : Bool :=
  d.canIssue w && !seqReserved w.toNat && iCls w.toNat == cls && iOp w.toNat == op

/-- A die's own instruction: guarded off, it takes one clock and changes nothing (R149). Where the die's
next instruction is another, the state stays as it is (log entry 7). -/
def issueDie (cd : Cd) (w : IWord) (cls op : Nat) (f : Nat → Die → Die) (s : State) : State :=
  let d := s.die cd
  if d.issues w cls op then
    s.setDie cd (if d.guardOn w.toNat then f w.toNat d else d.advance)
  else s

/-- An instruction whose effect reaches beyond its die. -/
def issueAll (cd : Cd) (w : IWord) (cls op : Nat) (f : Nat → State → State) (s : State) : State :=
  let d := s.die cd
  if d.issues w cls op then
    (if d.guardOn w.toNat then f w.toNat s else s.setDie cd d.advance)
  else s

/-- A scalar instruction that writes its die and goes on (R152). -/
def scalarOp (cd : Cd) (w : IWord) (op : Nat) (f : Nat → Die → Die) (s : State) : State :=
  issueDie cd w 0 op (fun x d => (f x d).advance) s

end Sys2Proof.Machine
end

