-- ==== Sys2Proof/Machine/Packets.lean ====
section
/-! DEFINITION. Slots and packets (R277–R281), sending on a flow (R292–R294), acceptance by a
reliable-delivery layer (R295, R296), acknowledgement records (Table 8-8). -/

namespace Sys2Proof.Machine

/-- CRC-32C over bytes: reflected, initial and final XOR 0xFFFF_FFFF (R280). -/
def crcByte (crc : Nat) (b : Byte) : Nat :=
  (List.range 8).foldl (fun c _ => if c % 2 = 1 then (c / 2) ^^^ 0x82F63B78 else c / 2) (crc ^^^ b.toNat)

def crc32c (bs : List Byte) : Nat := (bs.foldl crcByte 0xFFFFFFFF) ^^^ 0xFFFFFFFF

/-- A slot's 272 bytes read as a packet (Table 8-3). -/
def packetOf (bs : List Byte) : Packet :=
  let h := fieldB bs 0 16
  { dst := fld h 0 20, src := fld h 20 20, cls := fld h 40 2, epoch := fld h 42 2, age := fld h 44 8,
    hop := fld h 52 8, type := fld h 60 6, flow := fld h 66 16, seq := fld h 82 24, len := fld h 106 9,
    ordered := bitAt h 115, poison := fld h 116 4, deflected := bitAt h 120, opened := bitAt h 121,
    payload := sliceB bs 16 256 }

/-- The 272 bytes of a packet (Table 8-3); reserved header bits are zero. -/
def packetBytes (p : Packet) : List Byte :=
  let b (x : Bool) : Nat := if x then 1 else 0
  natLE 16 (p.dst % 2 ^ 20 + p.src % 2 ^ 20 * 2 ^ 20 + p.cls % 4 * 2 ^ 40 + p.epoch % 4 * 2 ^ 42
    + p.age % 256 * 2 ^ 44 + p.hop % 256 * 2 ^ 52 + p.type % 64 * 2 ^ 60 + p.flow % 2 ^ 16 * 2 ^ 66
    + p.seq % 2 ^ 24 * 2 ^ 82 + p.len % 512 * 2 ^ 106 + b p.ordered * 2 ^ 115 + p.poison % 16 * 2 ^ 116
    + b p.deflected * 2 ^ 120 + b p.opened * 2 ^ 121) ++ sliceB p.payload 0 256

/-- Lanes of a mask, in ascending order. -/
def lanesOf (mask : Nat) : List Nat := (List.range 4).filter (bitAt mask)

/-- The class of a packet type (Table 8-5). -/
def typeClass (ty : Nat) : Nat :=
  if ty = 0x02 ∨ ty = 0x08 ∨ ty = 0x0A ∨ ty = 0x0B then 0 else if ty = 0x09 then 1 else 2

/-- Whether a type travels on a flow (Table 8-5). -/
def typeOnFlow (ty : Nat) : Bool := decide (3 ≤ ty) && decide (ty ≤ 0x0E) && decide (ty ≠ 0x08)

/-- A packet as its sender forms it: age 0, the hop limit and epoch of FAB_CTRL (R281, R290). -/
def State.mkPacket (s : State) (dst type flow len : Nat) (ordered : Bool) (poison : Nat)
    (payload : List Byte) : Packet :=
  { dst := dst % 2 ^ 20, src := s.selfCoord, cls := typeClass type, epoch := fld (s.reg 0x4000) 8 2, age := 0,
    hop := fld (s.reg 0x4000) 0 8, type := type, flow := flow, seq := 0, len := len, ordered := ordered,
    poison := poison, deflected := false, opened := false, payload := sliceB payload 0 256 }

def fabBd (n : Nat) : Fin 4 := ⟨n % 4, Nat.mod_lt _ (by decide)⟩

/-- The base die of the layer a flow field names (Table 8-3). -/
def flowBd (flow : Nat) : Fin 4 := fabBd (fld flow 14 2)

/-- A packet offered for injection; one for the device itself goes over the mesh (R286). -/
def State.inject (s : State) (bd : Fin 4) (p : Packet) : State :=
  if p.dst = s.selfCoord then
    { s with fab := { s.fab with eject := s.fab.eject.set 8 (s.fab.eject[8] ++ [(p, false)]) } }
  else { s with fab := { s.fab with inj := s.fab.inj.set bd (s.fab.inj[bd] ++ [p]) } }

/-- A flow's packets at its layer, none where the flow is not held. -/
def txFind (l : List TxFlow) (dst flow : Nat) : Option TxFlow := l.find? (fun f => f.dst == dst && f.flow == flow)

def txPut (l : List TxFlow) (f : TxFlow) : List TxFlow :=
  match l with
  | [] => [f]
  | g :: t => if g.dst = f.dst ∧ g.flow = f.flow then f :: t else g :: txPut t f

def txDrop (l : List TxFlow) (dst flow : Nat) : List TxFlow := l.filter (fun f => !(f.dst == dst && f.flow == flow))

/-- Packets of all flows of a layer that are unacknowledged (R292). -/
def txStored (l : List TxFlow) : Nat := l.foldl (fun n f => n + f.unacked.length) 0

/-- A packet sent on its flow: the next sequence number, open until the first acknowledgement, within
the window, or behind it (R292, R294). -/
def State.sendFlow (s : State) (p : Packet) (ow : Owner) : State :=
  let bd := flowBd p.flow
  let fl := (txFind s.fab.tx[bd] p.dst p.flow).getD ⟨p.dst, p.flow, 0, [], [], false⟩
  let q := { p with seq := fl.next % 2 ^ 24, opened := !fl.opened }
  let room := decide (fl.unacked.length < fld (s.reg 0x401C) 0 7) && fl.backlog.isEmpty
    && decide (txStored s.fab.tx[bd] < 16384)
  let fl := { fl with next := (fl.next + 1) % 2 ^ 24 }
  let fl := if room then { fl with unacked := fl.unacked ++ [⟨q, ow, 0⟩] }
    else { fl with backlog := fl.backlog ++ [⟨q, ow, 0⟩] }
  let s := { s with fab := { s.fab with tx := s.fab.tx.set bd (txPut s.fab.tx[bd] fl) } }
  if room then s.inject bd q else s

/-- Packets sent in order on one flow. -/
def State.sendAll (s : State) (ps : List Packet) (ow : Owner) : State := ps.foldl (fun t p => t.sendFlow p ow) s

/-- The packets of a put or get reply: 240 data bytes each; the last of an operation is marked (Table 8-6).
poison says whether bytes of the data, from an offset on, derive from a poisoned line. -/
def State.dataPackets (s : State) (dst type flow addr tag : Nat) (data : List Byte) (poison : Nat → Nat → Bool)
    (final : Bool) : Nat → Nat → List Packet
  | 0, _ => []
  | n + 1, off =>
    let c := min 240 (data.length - off)
    let last := decide (off + c = data.length)
    let q (i : Nat) : Nat := if decide (64 * i < c + 16) && poison (off + (64 * i - 16)) (min (if i = 0 then 48 else 64) (c - (64 * i - 16)))
      then 2 ^ i else 0
    s.mkPacket dst type flow (16 + c) false (q 0 + q 1 + q 2 + q 3)
      (natLE 8 (addr + off) ++ natLE 4 tag ++ [if last && final then 1 else 0, 0, 0, 0] ++ sliceB data off c)
      :: (if last then [] else s.dataPackets dst type flow addr tag data poison final n (off + c))

/-- The flow of a memory request of a die: kind 0 puts, 1 gets and atomics, 2 replies (R293). -/
def memFlow (cd kind eng : Nat) : Nat := (cd / 3) * 2 ^ 14 + cd * 2 ^ 8 + 64 + kind * 16 + eng

/-- The reply flow of a request's flow: kind 2 (R293). -/
def replyFlow (flow : Nat) : Nat := setFld flow 4 2 2

/-- The indices a receiving layer accepts (R293): collective ones (Table 9-7), memory ones of a compute die, a kind and a
movement engine, grist ones of a kind, and those of the cellar (R388). -/
def flowValid (flow : Nat) : Bool :=
  let k := fld flow 6 2
  if k = 1 then decide (fld flow 8 6 < 12) && decide (fld flow 4 2 < 3) && decide (fld flow 0 4 < 4)
  else if k = 2 then decide (fld flow 8 6 < 4)
  else if k = 3 then fld flow 8 6 == 0x3F && (fld flow 0 6 == 0x30 || decide (0x38 ≤ fld flow 0 6))
  else true

/-- The bytes that the payload tables list for a packet's type and subtype (Tables 8-6, 8-8, 9-8, 7-8, 11-7): the least
length that its type permits (log entry 50). -/
def lenLeast (p : Packet) : Nat :=
  let b (i : Nat) : Nat := fieldB p.payload i 1
  match p.type with
  | 0x02 => 16
  | 0x03 | 0x05 => 17
  | 0x04 => 24
  | 0x06 => if b 8 = 5 ∨ b 8 = 6 then 36 else 32
  | 0x07 => 5
  | 0x08 => 16
  | 0x09 => if fld p.flow 4 2 = 3 ∧ b 0 = 0 then 29 else if fld p.flow 4 2 = 3 ∧ b 0 = 2 then 17 else 1
  | 0x0A => 24
  | 0x0B => 20
  | 0x0C => 32
  | 0x0D => 12
  | 0x0E => match b 0 with
    | 0 => 80
    | 1 => 9
    | 2 => 16
    | 3 => 64 + 64 * b 1
    | 4 => if b 1 = 1 ∨ b 1 = 2 then 80 else 8
    | 5 => 16 + 16 * b 1
    | _ => 1
  | _ => 0

/-- Whether a packet's length is one that its type permits (R281). -/
def lenValid (p : Packet) : Bool := decide (lenLeast p ≤ p.len) && decide (p.len ≤ 256)

def formatValid (p : Packet) : Bool :=
  decide (2 ≤ p.type) && decide (p.type ≤ 0x0E) && lenValid p && (!typeOnFlow p.type || flowValid p.flow)

/-- A flow of lines packets, which are acknowledged only once their writes are performed (R388). -/
def linesFlow (flow : Nat) : Bool := fld flow 6 2 == 3 && decide (0x38 ≤ fld flow 0 6)

/-- An ack record (Table 8-8). -/
def ackRecord (f : RxFlow) (reset : Bool) : List Byte :=
  natLE 2 f.flow ++ [if reset then 1 else 0, 0] ++ natLE 4 f.src ++ natLE 3 f.next ++ [0]
    ++ natLE 4 ((if linesFlow f.flow then [] else f.marks).foldl (fun m q =>
        let d := modDiff 24 q f.next
        if 1 ≤ d ∧ d ≤ 32 then m ||| 2 ^ (d - 1).toNat else m) 0)

/-- An ack packet with one record, sent at once (R295). -/
def State.sendAck (s : State) (bd : Fin 4) (f : RxFlow) (reset : Bool) : State :=
  s.inject bd (s.mkPacket f.src 0x02 0 16 false 0 (ackRecord f reset))

def rxFind (l : List RxFlow) (src flow : Nat) : Option RxFlow := l.find? (fun f => f.src == src && f.flow == flow)

def rxPut (l : List RxFlow) (f : RxFlow) : List RxFlow :=
  match l with
  | [] => [f]
  | g :: t => if g.src = f.src ∧ g.flow = f.flow then f :: t else g :: rxPut t f

def State.putRx (s : State) (bd : Fin 4) (f : RxFlow) : State :=
  { s with fab := { s.fab with rx := s.fab.rx.set bd (rxPut s.fab.rx[bd] f) } }

/-- A discard counted with those of R281. -/
def State.formatDiscard (s : State) : State :=
  ({ s with fab := { s.fab with mapFormat := s.fab.mapFormat + 1 } }).countReg 0x4088 1

/-- An accepted packet counted toward its flow's acknowledgement: a record goes at 16, or at once for
one with the last bit (R295). -/
def State.ackOne (s : State) (p : Packet) : State :=
  let bd := flowBd p.flow
  match rxFind s.fab.rx[bd] p.src p.flow with
  | none => s
  | some f =>
    let n := f.unacked + 1
    let last := (p.type == 0x03 || p.type == 0x05) && bitAt (fieldB p.payload 12 1) 0
    if 16 ≤ n ∨ last = true then (s.putRx bd { f with unacked := 0 }).sendAck bd { f with unacked := 0 } false
    else s.putRx bd { f with unacked := n }

/-- Bytes the reorder store of a base die may hold, as packets of 272 bytes (R296). -/
def State.reorderRoom (s : State) (bd : Fin 4) : Bool :=
  decide ((s.fab.rx[bd].foldl (fun n f => n + f.held.length) 0 + 1) * 272 ≤ fld (s.reg 0x401C) 24 6 * 2 ^ 20)

/-- next moved over every sequence number marked as performed. -/
def rxAdvance (next : Nat) (done : List Nat) : Nat → Nat
  | 0 => next
  | n + 1 => if done.contains next then rxAdvance ((next + 1) % 2 ^ 24) done n else next

/-- What a layer does with a packet of a flow (R281, R294, R296): the state after, and whether the packet is performed now.
A packet beyond next of an ordered flow is held in the reorder store, and counts as accepted (R295). -/
def State.rxAccept (s : State) (p : Packet) : State × Bool :=
  let bd := flowBd p.flow
  if !formatValid p then (s.formatDiscard, false)
  else match rxFind s.fab.rx[bd] p.src p.flow with
  | none =>
    let fresh : RxFlow := ⟨p.src, p.flow, 0, [], [], 0⟩
    if p.opened then
      if s.fab.rx[bd].length < 65536 then rxHeld s bd fresh p
      else (s.countReg 0x4094 1, false)
    else (s.sendAck bd fresh true, false)
  | some f => rxHeld s bd f p
where
  rxHeld (s : State) (bd : Fin 4) (f : RxFlow) (p : Packet) : State × Bool :=
    let d := modDiff 24 p.seq f.next
    if d < 0 ∨ f.marks.contains p.seq = true then
      ((s.putRx bd { f with unacked := 0 }).sendAck bd f false, false)
    else if 32 ≤ d then (s.putRx bd f, false)
    else if d = 0 then
      let nx := rxAdvance ((f.next + 1) % 2 ^ 24) (f.marks.filter (fun m => !f.held.any (fun q => q.seq == m))) 33
      (s.putRx bd { f with next := nx, marks := f.marks.filter (fun m => !decide (modDiff 24 m nx < 0)) }, true)
    else if p.ordered then
      if s.reorderRoom bd then
        let t := s.putRx bd { f with marks := p.seq :: f.marks, held := f.held ++ [p] }
        (if linesFlow p.flow then t else t.ackOne p, false)
      else (s.putRx bd f, false)
    else (s.putRx bd { f with marks := p.seq :: f.marks }, true)

/-- A packet of an ordered flow has been performed: the packet at next leaves the reorder store, ahead of the packets that
wait in queue 8, and next passes it once it is performed as well (R296). -/
def State.rxRelease (s : State) (p : Packet) : State :=
  let bd := flowBd p.flow
  match rxFind s.fab.rx[bd] p.src p.flow with
  | none => s
  | some f => match f.held.find? (fun q => q.seq == f.next) with
    | none => s
    | some q =>
      let s := s.putRx bd { f with held := f.held.filter (fun x => x.seq != q.seq) }
      { s with fab := { s.fab with eject := s.fab.eject.set 8 ((q, true) :: s.fab.eject[8]) } }

/-- next passes a packet of the reorder store that has been performed (R296). -/
def State.rxPass (s : State) (p : Packet) : State :=
  let bd := flowBd p.flow
  match rxFind s.fab.rx[bd] p.src p.flow with
  | none => s
  | some f => if f.next = p.seq then
      s.putRx bd { f with next := (f.next + 1) % 2 ^ 24, marks := f.marks.filter (· != p.seq) }
    else s

/-- The packet at the head of an ejection queue. -/
def State.head (s : State) (q : Fin 9) : Option (Packet × Bool) := s.fab.eject[q].head?

/-- An ejection queue without its head. -/
def State.popEject (s : State) (q : Fin 9) : State :=
  { s with fab := { s.fab with eject := s.fab.eject.set q s.fab.eject[q].tail } }

/-- The head of a queue taken by its layer where sel holds of it: performed where the layer accepts it, then counted toward
an acknowledgement, and the packet behind it leaves the reorder store (R283, R295, R296). Otherwise the state stays. -/
def takePacket (q : Fin 9) (sel : Packet → Bool) (perform : Packet → State → State) (s : State) : State :=
  match s.head q with
  | none => s
  | some (p, accepted) =>
    if !sel p then s
    else
      let s := s.popEject q
      if accepted then
        let t := (perform p s).rxPass p
        (if linesFlow p.flow then t.ackOne p else t).rxRelease p
      else if !typeOnFlow p.type then (if formatValid p then perform p s else s.formatDiscard)
      else
        let r := s.rxAccept p
        if r.2 then ((perform p r.1).ackOne p).rxRelease p else r.1

end Sys2Proof.Machine
end

