-- ==== Sys2Proof/Machine/Branch.lean ====
section
/-! DEFINITION. Branches, program control and the life of a sequencer (R154, R176, R182–R185). -/

namespace Sys2Proof.Machine

/-- The taken target: the branch's own address + 16 × the signed offset (R154). -/
def Die.target (d : Die) (w : Nat) : Addr := d.pc + BitVec.ofNat 48 (ofSigned 48 (16 * toSigned 32 (fld w 16 32)))

def execBr (cd : Cd) (w : IWord) (s : State) : Out :=
  .next (issueDie cd w 1 0 (fun x d => { d with pc := d.target x }) s)

/-- call: a15 takes the address after the call (Table 5-7). -/
def execCall (cd : Cd) (w : IWord) (s : State) : Out :=
  .next (issueDie cd w 1 1 (fun x d => { d.setA 15 (d.pc + 16) with pc := d.target x }) s)

/-- jr: a target that is no multiple of 16 faults with code 2 (Table 5-7). -/
def execJr (cd : Cd) (w : IWord) (s : State) : Out :=
  .next (issueDie cd w 1 2 (fun x d =>
    let t := d.getA (fld x 48 5)
    if t.toNat % 16 = 0 then { d with pc := t } else d.fail 2 d.pc.toNat 1 2 0 0) s)

/-- loop: decrements, and branches while the new value is not zero (Table 5-7). -/
def execLoop (cd : Cd) (w : IWord) (s : State) : Out :=
  .next (issueDie cd w 1 3 (fun x d =>
    let v := d.getS (fld x 48 5) - 1
    let e := d.setS (fld x 48 5) v
    if v = 0 then e.advance else { e with pc := d.target x }) s)

/-- halt: issue ends; the program ends when everything issued has completed (R183). -/
def execHalt (cd : Cd) (w : IWord) (s : State) : Out :=
  .next (issueDie cd w 1 4 (fun _ d => { d with stall := .halt d.pc.toNat }) s)

/-- The start command's completion: end, fault code and address of Table 10-8 (R353). -/
def State.endStart (s : State) (cd : Cd) (status endCode fault addr : Nat) : State :=
  match (s.die cd).startCmd with
  | none => s
  | some c => (s.complete (1 + cd.val) c status (endCode + 256 * fault) addr).updDie cd
      (fun d => { d with startCmd := none })

/-- Everything a halted program issued has completed: idle, and the completion is written (R183). -/
def haltComplete (cd : Cd) (s : State) : State :=
  let d := s.die cd
  match d.stall with
  | .halt pc =>
    if d.mode == .running && d.fault == 0 && d.ops.isEmpty then
      (s.setDie cd { d with mode := .idle, stall := .none }).endStart cd 0 0 0 pc
    else s
  | _ => s

def execHaltComplete (cd : Cd) (s : State) : Out := .next (haltComplete cd s)

/-- The sequencer state event, to the maltster and to the driver (R185, Table 10-12). -/
def State.seqEvent (s : State) (cd : Cd) (st code pc : Nat) : State :=
  s.eventBoth 0x0002 (1 + cd.val) [(16, 1, cd.val), (17, 1, st), (18, 1, code), (24, 8, pc)]

/-- After a fault every issued instruction has completed (R185, R353). -/
def faultSettle (cd : Cd) (s : State) : State :=
  let d := s.die cd
  if d.mode == .running && d.fault != 0 && d.ops.isEmpty && d.stall == .none then
    ((s.setDie cd { d with mode := .faulted }).seqEvent cd 3 d.fault d.faultPc.toNat).endStart cd
      0 1 d.fault d.faultPc.toNat
  else s

def execFaultSettle (cd : Cd) (s : State) : Out := .next (faultSettle cd s)

/-- The completions of the stop commands with the dropped count (R353). -/
def State.endStop (s : State) (cd : Cd) : State :=
  ((s.die cd).stopCmds.foldl (fun t c => t.complete (1 + cd.val) c 0 (s.die cd).dropped 0) s).updDie cd
    (fun d => { d with stopCmds := [] })

/-- A stopping sequencer has nothing in flight: idle, the start's completion, then the stop's (R184, R353). One that
has faulted enters state faulted instead, with the fault's event and end code (R185; log entry 38). -/
def stopComplete (cd : Cd) (s : State) : State :=
  let d := s.die cd
  if d.mode == .stopping && d.ops.isEmpty && d.stall == .none then
    if d.fault = 0 then ((s.setDie cd { d with mode := .idle }).endStart cd 0 2 0 0).endStop cd
    else (((s.setDie cd { d with mode := .faulted }).seqEvent cd 3 d.fault d.faultPc.toNat).endStart cd 0 1 d.fault
      d.faultPc.toNat).endStop cd
  else s

def execStopComplete (cd : Cd) (s : State) : Out := .next (stopComplete cd s)

/-- A missed line arrives (R176); a line outside mapped memory or uncorrectable faults with code 2
(Table 5-19). The cache holds 1,024 lines; the oldest leaves first (log entry 10). -/
def icacheFill (cd : Cd) (s : State) : State :=
  let d := s.die cd
  let a := d.pc.toNat / 64 * 64
  if d.mode == .running && d.fault == 0 && d.stall == .none && d.instrAt == none then
    if s.mapped a && !s.poisoned a then
      s.setDie cd { d with icache := (d.icache.drop (d.icache.length - 1023)) ++ [(a / 64, s.bytes a 64)] }
    else s.setDie cd (d.fail 2 d.pc.toNat 0 0 0 0)
  else s

def execIcacheFill (cd : Cd) (s : State) : Out := .next (icacheFill cd s)

/-- A reserved code found by the sequencer: nothing is executed and fault code 1 follows, whatever the
guard (R149, R150). -/
def execReservedCodeInstruction (cd : Cd) (w : IWord) (s : State) : Out :=
  let d := s.die cd
  .next (if d.canIssue w && seqReserved w.toNat then
    s.setDie cd (d.fail 1 d.pc.toNat (iCls w.toNat) (iOp w.toNat) 0 0) else s)

/-- What a start command does to an idle or faulted sequencer (R182). -/
def Die.start (d : Die) (entry arg : Nat) (c : Cmd) : Die :=
  { d with
    s := Vector.replicate 32 0
    p := (Vector.replicate 8 false).set 0 true
    a := (Vector.replicate 16 0).set 0 (BitVec.ofNat 48 arg)
    cnt := Vector.replicate 16 ⟨0, 0⟩
    slots := []
    slotQ := []
    icache := []
    pc := BitVec.ofNat 48 entry
    mode := .running
    fault := 0
    faultInfo := 0
    faultPc := 0
    stall := .none
    clk := 0
    dropped := 0
    admitted := false
    startCmd := some c }

/-- Queued operations dropped without a counter update, and counted (R184). -/
def Die.dropQueued (d : Die) : Die :=
  let gone := d.ops.filter (fun o => o.st == .queued)
  { d with
    dropped := d.dropped + gone.length
    ops := d.ops.filter (fun o => o.st != .queued)
    sb := d.sb.filter (fun e => !gone.any (fun o => o.id == e.who)) }

/-- A stop: issue ends, any wait ends, and under abort what is queued is dropped (R184). A further one joins it (R353). -/
def Die.stop (d : Die) (abort : Bool) (cs : List Cmd) : Die :=
  let n := if d.mode = .stopping then d.dropped else 0
  let d := { d.endWait with mode := .stopping, dropped := n, stopCmds := d.stopCmds ++ cs }
  if abort then d.dropQueued else d

end Sys2Proof.Machine
end

