-- ==== Sys2Proof/Machine/Link.lean ====
section
/-! DEFINITION. Hafel flits: the line code, CRC-16, bundles, credits and replay on the sending side (R193, R467, R469, R470,
R473). -/

namespace Sys2Proof.Machine

/-! ### The line code RS(68,64) (R193) -/

/-- Multiplication by α in GF(2^8) with x^8 + x^4 + x^3 + x^2 + 1. -/
def gfX (a : Nat) : Nat := if 128 ≤ a then ((2 * a) ^^^ 0x11D) % 256 else 2 * a

/-- Multiplication in GF(2^8). -/
def gfMul (a b : Nat) : Nat :=
  ((List.range 8).foldl (fun r i => (if bitAt b i then r.1 ^^^ r.2 else r.1, gfX r.2)) (0, a)).1

/-- Coefficients of g(x) below x^4, from x^3 to x^0: (x − 1)(x − α)(x − α²)(x − α³). -/
def gfGen : List Nat := [15, 54, 120, 64]

/-- The check bytes of a line: the remainder of its polynomial times x^4 by g(x). -/
def rsCheck (line : List Byte) : List Byte :=
  (line.foldl (fun r b =>
    let f := b.toNat ^^^ r.getD 0 0
    (List.range 4).map (fun i => r.getD (i + 1) 0 ^^^ gfMul f (gfGen.getD i 0))) [0, 0, 0, 0]).map (BitVec.ofNat 8)

/-- The syndrome of a 68-byte codeword at α^i; a codeword has all four zero. -/
def rsSyndrome (cw : List Byte) (i : Nat) : Nat :=
  let a := (List.range i).foldl (fun x _ => gfX x) 1
  cw.foldl (fun r b => gfMul r a ^^^ b.toNat) 0

/-- α^n. -/
def gfPow (n : Nat) : Nat := (List.range n).foldl (fun x _ => gfX x) 1

/-- The inverse of a nonzero element: its 254th power. -/
def gfInv (a : Nat) : Nat := (List.range 253).foldl (fun x _ => gfMul x a) a

/-- The error values at positions j and k of 68 that explain four syndromes, where there are any; an error value may be
zero. -/
def rsPair (syn : List Nat) (j k : Nat) : Option (Nat × Nat) :=
  let a := gfPow (67 - j)
  let b := gfPow (67 - k)
  let e := gfMul (syn.getD 1 0 ^^^ gfMul (syn.getD 0 0) b) (gfInv (a ^^^ b))
  let f := syn.getD 0 0 ^^^ e
  let sq (x : Nat) : Nat := gfMul x x
  if (gfMul e (sq a) ^^^ gfMul f (sq b)) = syn.getD 2 0
      ∧ (gfMul e (gfMul a (sq a)) ^^^ gfMul f (gfMul b (sq b))) = syn.getD 3 0 then some (e, f) else none

/-- The 64 data bytes of a codeword with at most two wrong symbols; none beyond (R194). -/
def rsDecode (cw : List Byte) : Option (List Byte) :=
  let syn := (List.range 4).map (rsSyndrome cw)
  if syn = [0, 0, 0, 0] then some (cw.take 64)
  else
    ((List.range 68).findSome? (fun j => (List.range j).findSome? (fun k =>
      (rsPair syn j k).map (fun e => (j, e.1, k, e.2))))).map (fun x =>
      let cw := cw.set x.1 (cw.getD x.1 0 ^^^ BitVec.ofNat 8 x.2.1)
      (cw.set x.2.2.1 (cw.getD x.2.2.1 0 ^^^ BitVec.ofNat 8 x.2.2.2)).take 64)

/-! ### Flits (R470) -/

/-- CRC-16 over bytes: polynomial 0x1021, initial value 0xFFFF, no reflection (Table 14-2). -/
def crc16 (bs : List Byte) : Nat :=
  bs.foldl (fun c b => (List.range 8).foldl (fun c _ =>
    if 32768 ≤ c then (2 * c % 65536) ^^^ 0x1021 else 2 * c) (c ^^^ (b.toNat * 256))) 0xFFFF

/-- A flit without its sequence number and CRC: kind, class, poison, payload. -/
def flitBody (kind cls : Nat) (poison : Bool) (payload : List Byte) : List Byte :=
  natLE 4 (kind + (if poison then 16 else 0) + cls * 32) ++ sliceB payload 0 68

/-- A flit with its sequence number and CRC. -/
def flitSeal (body : List Byte) (seq : Nat) : List Byte :=
  let b := putB body 1 1 seq
  putB b 2 2 (crc16 (b.take 2 ++ b.drop 4))

def flitKind (f : List Byte) : Nat := fld (fieldB f 0 1) 0 4
def flitPoison (f : List Byte) : Bool := bitAt (fieldB f 0 1) 4
def flitSeq (f : List Byte) : Nat := fieldB f 1 1
def flitPayload (f : List Byte) : List Byte := sliceB f 4 68

/-- The CRC of a 72-byte flit holds and its kind is not reserved (R470, R473). -/
def flitGood (f : List Byte) : Bool :=
  let f := sliceB f 0 72
  crc16 (f.take 2 ++ f.drop 4) == fieldB f 2 2 && decide (flitKind f < 8)

/-! ### Bundles (R467, R469, R473) -/

/-- Data bundles of a die's boundary in a direction: 0 from the die, 1 to it (Table 14-1). -/
def dataBundles (die dir : Nat) : Nat :=
  if die < 12 then (if dir = 0 then 3456 else 2304) else if die < 16 then 125
  else if 80 ≤ die ∧ die < 88 then 24 else 0

/-- Spare bundles of each direction: one per 64 data bundles, rounded up. -/
def spareBundles (die dir : Nat) : Nat := cdiv (dataBundles die dir) 64

/-- The key of a bundle of a die's boundary. -/
def bundleKey (die dir bundle : Nat) : Nat := (die * 2 + dir) * 4096 + bundle

def State.bundle (s : State) (key : Nat) : Bundle := tabGet .reset s.haf.bundles key

def State.setBundle (s : State) (key : Nat) (b : Bundle) : State :=
  { s with haf := { s.haf with bundles := tabSet s.haf.bundles key b } }

def State.hafDie (s : State) (die : Nat) : HafDie := tabGet .reset s.haf.dies die

def State.setHafDie (s : State) (die : Nat) (d : HafDie) : State :=
  { s with haf := { s.haf with dies := tabSet s.haf.dies die d } }

/-- Waiting flits sent while there is a credit and fewer than 128 flits are unacknowledged (R469, R473). -/
def State.pump (s : State) (key : Nat) : Nat → State
  | 0 => s
  | f + 1 =>
    let b := s.bundle key
    match b.outQ with
    | [] => s
    | x :: rest =>
      if b.credits = 0 ∨ 128 ≤ b.replay.length ∨ b.testing = true then s
      else
        let x := flitSeal x b.next
        ((s.setBundle key { b with
          next := (b.next + 1) % 256
          credits := b.credits - 1
          replay := b.replay ++ [x]
          outQ := rest }).emit (.flit key x)).pump key f

/-- A flit handed to a bundle. -/
def State.sendFlit (s : State) (key : Nat) (body : List Byte) : State :=
  let b := s.bundle key
  (s.setBundle key { b with outQ := b.outQ ++ [body] }).pump key (b.outQ.length + 1)

/-- The bundle of the reverse direction that answers a bundle (log entry 31). -/
def reverseKey (key : Nat) : Nat :=
  let die := key / 8192
  let dir := 1 - key / 4096 % 2
  bundleKey die dir (key % 4096 % max 1 (dataBundles die dir))

/-- A completion: tag, status, a prior word or reply code, and the line that follows it with its poison mark
(Table 14-4). key is the request's bundle. -/
def State.sendCompletion (s : State) (key tag status word : Nat) (line : Option (List Byte × Bool)) : State :=
  let k := reverseKey key
  let p := natLE 4 tag ++ natLE 1 status ++ natLE 3 (if line.isSome then 1 else 0) ++ natLE 8 word
  let poison := match line with | some x => x.2 | none => false
  let s := s.sendFlit k (flitBody 5 1 poison p)
  match line with
  | some x => s.sendFlit k (flitBody 4 1 x.2 (sliceB x.1 0 64 ++ rsCheck (sliceB x.1 0 64)))
  | none => s

end Sys2Proof.Machine
end

