-- ==== Sys2Proof/Machine/Memory.lean ====
section
/-! DEFINITION. Memory homes: reads and writes of lines, lane tests, poison, atomics, the scrub, and the
CXL.mem window (chapter 6). -/

namespace Sys2Proof.Machine

/-! ### Where a line lives (R190, R192, R200) -/

/-- The stack of a home location, numbered as MEM_CE: near 0 to 47, deep 48 to 63; none for SRAM. -/
def stackOf (l : Nat) : Option Nat :=
  if l < 2 ^ 40 then some (l / 2 ^ 34) else if l < 2 ^ 42 then some (48 + (l - 2 ^ 40) / 2 ^ 37) else none

/-- Offset of a location in its stack. -/
def stackOff (l : Nat) : Nat := if l < 2 ^ 40 then l % 2 ^ 34 else (l - 2 ^ 40) % 2 ^ 37

/-- The channel that holds a line of a stack (R192). -/
def channelOf (j l : Nat) : Nat := stackOff l / 64 % (if j < 48 then 96 else 48)

/-- The quadrant of a stack or an SRAM location (R11, R204). -/
def quadOf (l : Nat) : Nat := match stackOf l with
  | some j => if j < 48 then j / 12 else (j - 48) / 4
  | none => match winDie l with
    | some i => i / 3
    | none => (l - 0x040000000000) / 2 ^ 28 % 4

/-- Bit of MEM_STATUS that readies a location's tier (R215). -/
def tierBit (l : Nat) : Nat := match stackOf l with
  | some j => if j < 48 then quadOf l else 4 + quadOf l
  | none => 8 + quadOf l

def State.tierReady (s : State) (l : Nat) : Bool := bitAt (s.reg 0x3000) (tierBit l)

/-- Die class, die index and unit of a line in the error log (R369). -/
def lineName (l : Nat) : Nat × Nat × Nat := match stackOf l with
  | some j => if j < 48 then (2, j, channelOf j l / 8) else (3, j - 48, channelOf j l / 8)
  | none => match winDie l with
    | some i => (0, i, 0xFF)
    | none => (1, quadOf l, 0xFF)

/-- The device address of an offset of a stack: R201 the other way. -/
def State.stackAddr (s : State) (j off : Nat) : Nat :=
  let i := off / 2 ^ 28
  let row := off % 2 ^ 28 / 4096
  let near := decide (j < 48)
  let base := if near then i * (12 * gib) else 0x010000000000 + i * (4 * gib)
  let k := if near then j else j - 48
  let n := if near then 48 else 16
  let q := if near then 12 else 4
  let quarter := if near then 3 * gib else gib
  let isLocal := if near then s.nearLocal i else s.deepLocal i
  base + (if isLocal then k / q * quarter + (row * q + k % q) * 4096 else (row * n + k) * 4096) + off % 4096

/-- The device address of a home location. -/
def State.addrOf (s : State) (l : Nat) : Nat := match stackOf l with
  | some j => s.stackAddr j (stackOff l)
  | none => l

/-! ### Line reads (R194, R197, R218, R221) -/

/-- Symbols of a 68-byte codeword in error. -/
def symErrors (err : List Byte) : Nat := ((err.take 68).filter (fun b => b ≠ 0)).length

/-- A line found uncorrectable is poisoned, counted and logged, and the memory event sent (R218). -/
def State.newPoison (s : State) (l : Nat) : State :=
  let n := lineName l
  let a := s.addrOf l / 64 * 64
  let s := { s with poison := setIns s.poison (l / 64) }
  ((s.countReg 0x3058 1).log 2 n.1 n.2.1 n.2.2 0 a).event 0x0005 30
    [(16, 1, 0), (17, 1, (stackOf l).getD 0xFF), (24, 8, a)]

/-- Counter of corrected lines: of the stack, or of the quadrant's SRAM (R221). -/
def ceReg (l : Nat) : Nat := match stackOf l with
  | some j => 0x3100 + 4 * j
  | none => 0x3400 + 4 * quadOf l

/-- Counter of uncorrectable reads (R221). -/
def ueReg (l : Nat) : Nat := match stackOf l with
  | some j => 0x3200 + 4 * j
  | none => 0x3410 + 4 * quadOf l

/-- Key of a stack channel or an SRAM bank (Table 11-1). -/
def bankKey (l : Nat) : Nat := match stackOf l with
  | some j => j * 96 + channelOf j l
  | none => match winDie l with
    | some i => 10000 + i * 64 + (if l % 2 ^ 32 < 0x1800000 then l % 2 ^ 32 / 256 % 48 else 48)
    | none => 20000 + quadOf l

/-- A corrected line counted, and logged at most once per channel or bank per second (Table 11-1). -/
def State.corrected (s : State) (l : Nat) : State :=
  let s := s.countReg (ceReg l) 1
  let k := bankKey l
  let old := s.memc.ceLog.find? (fun e => e.1 == k)
  let due := match old with
    | none => true
    | some e => decide (e.2.1 + 1000000000 ≤ s.time)
  let n := (match old with | none => 0 | some e => e.2.2) + 1
  let others := s.memc.ceLog.filter (fun e => e.1 != k)
  let m := lineName l
  if due then
    { s with memc := { s.memc with ceLog := (k, s.time, 0) :: others } }.log 1 m.1 m.2.1 m.2.2 n (s.addrOf l / 64 * 64)
  else { s with memc := { s.memc with ceLog := (k, (old.map (fun e => e.2.1)).getD 0, n) :: others } }

/-- The line's data and poison mark delivered to its requester. -/
def State.deliver (s : State) (l : Nat) : State :=
  s.emit (.line ((List.range 64).map (fun i => memGet s.mem (l / 64 * 64 + i))) (s.poison.contains (l / 64)))

/-- Whether a lane test holds the channel of a location (R197). -/
def State.underTest (s : State) (l : Nat) : Bool := match stackOf l with
  | some j => s.memc.tests.any (fun t => t.stack == j && t.channel == channelOf j l)
  | none => false

/-- Whether a line waits at its home: its channel is under test, or an earlier request for it is waiting (R197, R210). -/
def State.lineHeld (s : State) (a : Nat) : Bool :=
  (match s.loc a with | some l => s.underTest l | none => false) || s.homeQ.any (fun r => r.addr / 64 == a / 64)

/-- Whether any line of a range waits. -/
def State.rangeHeld (s : State) (a n : Nat) : Bool :=
  (List.range ((a % 64 + n + 63) / 64)).any (fun i => s.lineHeld (a / 64 * 64 + 64 * i))

/-- A read decoded at its home with an error pattern (R194): a line in the atomic line buffer is served from there, and no
array is read (R214); a poisoned line is not decoded (R218); two
symbols are corrected; more start a lane test of the channel, or poison an SRAM line. -/
def State.readHome (s : State) (l : Nat) (err : List Byte) (deliver : Bool) : State :=
  let give (t : State) : State := if deliver then t.deliver l else t
  if s.poison.contains (l / 64) || s.memc.atomBuf.contains (l / 64) then give s
  else if symErrors err = 0 then give s
  else if symErrors err ≤ 2 then give (s.corrected l)
  else
    let s := s.countReg (ueReg l) 1
    match stackOf l with
    | some j => { s with memc := { s.memc with
        tests := s.memc.tests ++ [⟨j, channelOf j l, l, s.addrOf l, deliver⟩] } }
    | none => give (s.newPoison l)

/-- Spares in use in a channel group (R195). -/
def State.sparesUsed (s : State) (j g : Nat) : Nat := (s.memc.spares.filter (fun x => x.1 == j && x.2.1 == g)).length

/-- Failing lanes replaced in ascending order by the group's free spares, recorded, logged and shown in
MEM_SPARE (R195–R197); the lanes left without a spare are answered. -/
def State.substitute (s : State) (j g : Nat) : List Nat → State × List Nat
  | [] => (s, [])
  | ln :: rest =>
    if s.sparesUsed j g < 2 then
      let u := s.sparesUsed j g + 1
      let s := { s with memc := { s.memc with
        spares := s.memc.spares ++ [(j, g, ln)], newSpares := s.memc.newSpares ++ [(j, g, ln)] } }
      let s := (s.fieldReg (0x3300 + 4 * j) (2 * g) 2 u).log 3 (if j < 48 then 2 else 3)
        (if j < 48 then j else j - 48) g ln 0
      s.substitute j g rest
    else (s, ln :: rest)

/-- A lane without a spare: the stack is beyond repair, and reported so (R198). -/
def State.beyondRepair (s : State) (j addr : Nat) : State :=
  let s := { s with memc := { s.memc with failed := setIns s.memc.failed j } }
  (((s.orReg 0x3008 2).log 4 (if j < 48 then 2 else 3) (if j < 48 then j else j - 48) 0xFF 0 0).event 0x0005 30
    [(16, 1, 1), (17, 1, j), (24, 8, addr)]).event 0x0005 30 [(16, 1, 2), (17, 1, j), (24, 8, addr)]

/-- The lane test of a channel ends (R197): lanes are the failing lanes of its group, err the error
pattern of the second read. A stack beyond repair fails the device, once its line is poisoned and delivered (R198). -/
def laneTestEnd (stack channel : Nat) (lanes : List Nat) (err : List Byte) (s : State) : State :=
  match s.memc.tests.find? (fun t => t.stack == stack && t.channel == channel) with
  | none => s
  | some t =>
    let s := { s with memc := { s.memc with
      tests := s.memc.tests.filter (fun u => !(u.stack == stack && u.channel == channel)) } }
    let fails := (List.range 136).filter (fun ln => lanes.contains ln
      && !s.memc.spares.contains (stack, channel / 8, ln))
    let r := s.substitute stack (channel / 8) fails
    let give (x : State) : State := if t.deliver then x.deliver t.loc else x
    if !r.2.isEmpty then (give ((r.1.beyondRepair stack (t.addr / 64 * 64)).newPoison t.loc)).deviceFail
    else if fails.isEmpty then give (r.1.newPoison t.loc)
    else if symErrors err = 0 then give r.1
    else if symErrors err ≤ 2 then give (r.1.corrected t.loc)
    else give ((r.1.countReg (ueReg t.loc) 1).newPoison t.loc)

def execLaneTestEnd (stack channel : Nat) (lanes : List Nat) (err : List Byte) (s : State) : Out :=
  .next (laneTestEnd stack channel lanes err s)

/-! ### Atomics (R171, R172, R213, R214) -/

/-- The outcome of an atomic: reply code of Table 8-6 and the prior word. -/
abbrev AtomRes := Nat × Nat

/-- The wake of a semaphore's recorded waiter (R172, Table 8-6). -/
def State.sendWake (s : State) (who addr : Nat) : State :=
  s.inject (fabBd (fld who 20 4 / 3)) (s.mkPacket (fld who 0 20) 0x08 0 16 false 0
    (natLE 8 (fld who 20 4) ++ natLE 8 addr))

/-- sem_acquire (R171). -/
def State.semAcquire (s : State) (r : HomeReq) : State × AtomRes :=
  let count := toSigned 64 (s.num r.addr 8)
  let waiter := s.num (r.addr + 8) 4
  let n := toSigned 64 r.op1
  if n ≤ count then (s.write r.addr (natLE 8 (ofSigned 64 (count - n))), (1, 0))
  else if !bitAt waiter 31 || fld waiter 0 24 == fld r.who 0 24 then
    (s.write (r.addr + 8) (natLE 4 (fld r.who 0 24 + 2 ^ 31) ++ natLE 4 r.op1), (2, 0))
  else (s, (3, 0))

/-- sem_release: the addition, and the wake where the recorded waiter can be satisfied (R172). -/
def State.semRelease (s : State) (r : HomeReq) : State × AtomRes :=
  let count := s.num r.addr 8 + r.op1
  let s := s.write r.addr (natLE 8 count)
  let waiter := s.num (r.addr + 8) 4
  if bitAt waiter 31 && decide (toSigned 32 (s.num (r.addr + 12) 4) ≤ toSigned 64 count) then
    ((s.write (r.addr + 8) (natLE 4 (waiter % 2 ^ 31))).sendWake waiter r.addr, (0, 0))
  else (s, (0, 0))

/-- An atomic on a clean line of its home (Table 6-5). -/
def State.atomicEffect (s : State) (r : HomeReq) : State × AtomRes :=
  let w := s.num r.addr 8
  match r.code with
  | 0 => (s.write r.addr (natLE 8 (w + r.op1)), (0, 0))
  | 1 => (s.write r.addr (natLE 8 (w + r.op1)), (0, w))
  | 2 =>
    let x := toSigned 64 w + toSigned 64 r.op1
    let hi : Int := 2 ^ 63 - 1
    let lo : Int := -(2 ^ 63)
    if hi < x then ((s.write r.addr (natLE 8 (ofSigned 64 hi))).countReg 0x3054 1, (0, 0))
    else if x < lo then ((s.write r.addr (natLE 8 (ofSigned 64 lo))).countReg 0x3054 1, (0, 0))
    else (s.write r.addr (natLE 8 (ofSigned 64 x)), (0, 0))
  | 3 => (s.write r.addr (natLE 8 r.op1), (0, w))
  | 4 => ((if w = r.op1 then s.write r.addr (natLE 8 r.op2) else s), (0, w))
  | 5 => s.semAcquire r
  | _ => s.semRelease r

/-- Alignment of an atomic (Table 6-5). -/
def atomAlign (code : Nat) : Nat := if code = 5 ∨ code = 6 then 16 else 8

/-- An atomic performed at its home: not performed at a bad address (5) or on a poisoned line (4) (R213, R220). -/
def State.atomic (s : State) (r : HomeReq) : State × AtomRes :=
  if r.addr % atomAlign r.code ≠ 0 ∨ s.atomicHome r.addr = false then (s, (5, 0))
  else if s.poisoned r.addr then (s, (4, 0))
  else s.atomicEffect r

/-- Status of Table 5-14 of an atomic's reply code. -/
def atomStatus (code : Nat) : Nat := if code = 4 then 5 else if code = 5 then 7 else 0

/-- An instruction of a die that has completed (R165). -/
def State.finishOp (s : State) (cd id status : Nat) : State :=
  s.updDie (cdOf cd) (fun d => match d.op? id with
    | some o =>
      let d := d.finish o status
      if o.cls = 5 ∧ status = 5 then d.fail 8 o.pc 5 o.code 0 5 else d
    | none => d)

/-- The outcome of an atomic reported to who asked (R171, R213, Table 8-6, R470). -/
def State.atomReply (s : State) (o : Origin) (res : AtomRes) : State :=
  match o with
  | .instr cd id => s.finishOp cd id (atomStatus res.1)
  | .acq cd tag => { s with replies := s.replies ++ [(cd, tag, res.1)] }
  | .remote src flow tag =>
    s.sendFlow (s.mkPacket src 0x07 (replyFlow flow) 16 false 0 (natLE 4 tag ++ natLE 4 res.1 ++ natLE 8 res.2)) .none
  | .flit key tag => s.sendCompletion key tag (atomStatus res.1) (if res.1 = 0 then res.2 else res.1) none
  | _ => s

/-- The atomic line buffer after an atomic: least recently used leaves first; 64 lines per stack
channel, 256 per mash controller (R214). -/
def State.bufferLine (s : State) (addr : Nat) : State := match s.loc addr with
  | none => s
  | some l =>
    let k := l / 64
    let rest := s.memc.atomBuf.filter (· ≠ k)
    let same := rest.filter (fun x => bankKey (x * 64) == bankKey l)
    let cap := if (stackOf l).isSome then 64 else 256
    let rest := if cap ≤ same.length then rest.filter (fun x => some x != same.head?) else rest
    { s with memc := { s.memc with atomBuf := rest ++ [k] } }

/-- Whether a request earlier in the queue names the same line (R210). -/
def earlierSame (q : List HomeReq) (i addr : Nat) : Bool := (q.take i).any (fun r => r.addr / 64 == addr / 64)

/-- The atomic at position i of the homes' queue performed, where it has the code, its line's earlier
requests are done and its tier is ready (R210, R213, R216). -/
def atomicAt (i code : Nat) (s : State) : State :=
  match s.homeQ[i]? with
  | none => s
  | some r =>
    let ready := match s.loc r.addr with
      | some l => s.tierReady l && !s.underTest l
      | none => true
    if r.code = code ∧ earlierSame s.homeQ i r.addr = false ∧ ready = true then
      let s := { s with homeQ := s.homeQ.eraseIdx i }
      let x := s.atomic r
      let y := if x.2.1 = 4 ∨ x.2.1 = 5 then x.1 else x.1.bufferLine r.addr
      y.atomReply r.origin x.2
    else s

def execAdd64 (i : Nat) (s : State) : Out := .next (atomicAt i 0 s)
def execFetchAdd64 (i : Nat) (s : State) : Out := .next (atomicAt i 1 s)
def execAdd64Sat (i : Nat) (s : State) : Out := .next (atomicAt i 2 s)
def execSwap64 (i : Nat) (s : State) : Out := .next (atomicAt i 3 s)
def execCas64 (i : Nat) (s : State) : Out := .next (atomicAt i 4 s)
def execSemAcquire (i : Nat) (s : State) : Out := .next (atomicAt i 5 s)
def execSemRelease (i : Nat) (s : State) : Out := .next (atomicAt i 6 s)

/-- A buffered line goes back to its stack after 1 µs without an atomic; its contents do not change (R214). -/
def execAtomicBufferWriteback (addr : Nat) (s : State) : Out :=
  .next (match s.loc addr with
    | some l => { s with memc := { s.memc with atomBuf := s.memc.atomBuf.filter (· ≠ l / 64) } }
    | none => s)

/-! ### Scrub (R217) -/

/-- Lines of a scrubbed unit: stacks 0 to 63; mash buffers 64 to 67; of die i, operand SRAM 68 + i,
accumulator store 80 + i, row summaries 92 + i. -/
def scrubLines (u : Nat) : Nat :=
  if u < 48 then 2 ^ 28 else if u < 64 then 3 * 2 ^ 29 else if u < 68 then 3 * 2 ^ 20
  else if u < 80 then 3 * 2 ^ 17 else if u < 92 then 3 * 2 ^ 18 else 12288

/-- Home location of line i of a scrubbed unit. -/
def scrubLoc (u i : Nat) : Nat :=
  if u < 48 then u * 2 ^ 34 + i * 64 else if u < 64 then 2 ^ 40 + (u - 48) * 2 ^ 37 + i * 64
  else if u < 68 then 0x040000000000 + (u - 64) * 2 ^ 28 + i * 64
  else if u < 80 then 0x050000000000 + (u - 68) * 2 ^ 32 + i * 64
  else if u < 92 then 0x050000000000 + (u - 80) * 2 ^ 32 + 0x40000000 + i * 64
  else 0x050000000000 + (u - 92) * 2 ^ 32 + 0x80000000 + i * 64

/-- The quadrant of a scrubbed unit. -/
def scrubQuad (u : Nat) : Nat :=
  if u < 48 then u / 12 else if u < 64 then (u - 48) / 4 else if u < 68 then u - 64 else (u - 68) % 12 / 3

/-- The scrub's period of a unit; 0 disables it (R217). -/
def State.scrubPeriod (s : State) (u : Nat) : Nat := if u < 64 then fld (s.reg 0x3004) 0 8 else fld (s.reg 0x3004) 16 8

/-- Every tier of a quadrant is ready. -/
def State.quadReady (s : State) (k : Nat) : Bool :=
  bitAt (s.reg 0x3000) k && bitAt (s.reg 0x3000) (4 + k) && bitAt (s.reg 0x3000) (8 + k)

/-- The next line of a unit read and decoded in its turn (R194, R217). -/
def scrubRead (u : Nat) (err : List Byte) (s : State) : State :=
  if u < 104 ∧ s.quadReady (scrubQuad u) = true ∧ s.scrubPeriod u ≠ 0 then
    let i := tabGet 0 s.memc.scrub u
    let l := scrubLoc u i
    if s.underTest l then s
    else
      let t := s.readHome l err false
      { t with memc := { t.memc with scrub := tabSet t.memc.scrub u ((i + 1) % scrubLines u) } }
  else s

def execScrubRead (u : Nat) (err : List Byte) (s : State) : Out := .next (scrubRead u err s)

/-- A write of MEM_SCRUB: a part whose period changes starts again at offset 0 (R217). -/
def execMemScrubWrite (v : Nat) (s : State) : Out :=
  let old := s.reg 0x3004
  let t := match regRow? 0x3004 with
    | some r => s.setReg 0x3004 (regMerge r 0x3004 old (v % 2 ^ 32))
    | none => s
  let keep (u : Nat) : Bool := if u < 64 then fld (t.reg 0x3004) 0 8 == fld old 0 8
    else fld (t.reg 0x3004) 16 8 == fld old 16 8
  .next (if s.ready then { t with memc := { t.memc with scrub := t.memc.scrub.filter (fun e => keep e.1) } } else s)

end Sys2Proof.Machine
end

