-- ==== Sys2Proof/Machine/Scoreboard.lean ====
section
/-! DEFINITION. The tile scoreboard (R91–R93), and transfers row by row (R208, R218–R220). -/

namespace Sys2Proof.Machine

/-- Whether a new operation of a class proceeds beside the holders of its tile (Table 3-6). -/
def sbCompatible (held : List SbClass) (new : SbClass) : Bool :=
  held.all (fun h => (h == .exact && new == .exact) || (h == .reader && new == .reader))

/-- The classes holding a tile. -/
def sbHolders (sb : List SbEnt) (tile : Nat) : List SbClass :=
  (sb.filter (fun e => e.tile == tile && e.held)).map (·.cls)

/-- An operation arrives at a tile's entry: it proceeds where the holders allow its class and none waits
before it, and waits otherwise (R92, R93). -/
def sbArrive (sb : List SbEnt) (tile who : Nat) (cls : SbClass) : List SbEnt :=
  sb ++ [⟨tile, who, cls, !sb.any (fun e => e.tile == tile && !e.held) && sbCompatible (sbHolders sb tile) cls⟩]

/-- The first waiting entry of a tile granted. -/
def sbGrantFirst : List SbEnt → Nat → List SbEnt
  | [], _ => []
  | e :: t, tile => if e.tile = tile ∧ e.held = false then { e with held := true } :: t else e :: sbGrantFirst t tile

/-- The first waiting operation on a tile proceeds once the holders allow its class (R93). -/
def sbGrant (sb : List SbEnt) (tile : Nat) : List SbEnt :=
  match sb.find? (fun e => e.tile == tile && !e.held) with
  | some e => if sbCompatible (sbHolders sb tile) e.cls then sbGrantFirst sb tile else sb
  | none => sb

/-- Every entry of an operation is held. -/
def sbAllHeld (sb : List SbEnt) (who : Nat) : Bool := sb.all (fun e => e.who != who || e.held)

def sbRelease (sb : List SbEnt) (who : Nat) : List SbEnt := sb.filter (fun e => e.who != who)

def execScoreboardGrant (cd : Cd) (tile : Nat) (s : State) : Out :=
  .next (s.updDie cd (fun d => { d with sb := sbGrant d.sb tile }))

/-- Identities at the scoreboard of a movement or helper instruction, a DMA mover, a scalar access, a ring's write command
and a request at a home (R206). -/
def whoMove (cd id : Nat) : Nat := 2 ^ 64 * (cd + 1) + id
def whoMover (m : Nat) : Nat := 2 ^ 64 * (20 + m)
def whoAccess (cd : Nat) : Nat := 2 ^ 64 * (40 + cd)
def whoRing : Nat := 2 ^ 64 * 60
def whoHome (n : Nat) : Nat := 2 ^ 64 * 64 + n

/-- The tile of a die that an address of its window lies in; a row summary vector is part of its tile (R206). -/
def tileOf (a : Nat) : Option (Nat × Nat) :=
  match winDie a with
  | none => none
  | some i =>
    let o := a % 2 ^ 32
    if 0x40000000 ≤ o ∧ o < 0x43000000 then some (i, (o - 0x40000000) / 0x40000)
    else if 0x80000000 ≤ o ∧ o < 0x800C0000 then some (i, (o - 0x80000000) / 0x1000)
    else none

/-- The tiles of rows of a range: first and last line of each row and the 4 KiB steps between. -/
def tilesOfRows (a len stride rows : Nat) : List (Nat × Nat) :=
  ((List.range rows).flatMap (fun r =>
    (List.range (len / 4096 + 2)).filterMap (fun i =>
      tileOf (min (a + r * stride + i * 4096) (a + r * stride + (len - 1)))))).eraseDups

/-- A movement or DMA arrives at the entries of the tiles it reads and writes (R91, R206). -/
def State.sbMove (s : State) (who : Nat) (src dst : List (Nat × Nat)) : State :=
  let s := dst.foldl (fun t x => t.updDie (cdOf x.1) (fun d => { d with sb := sbArrive d.sb x.2 who .writer })) s
  src.foldl (fun t x => if dst.contains x then t else
    t.updDie (cdOf x.1) (fun d => { d with sb := sbArrive d.sb x.2 who .reader })) s

/-- An operation has arrived at an entry of a tile. -/
def State.sbHas (s : State) (who : Nat) : Bool :=
  (List.range 12).any (fun i => (s.die (cdOf i)).sb.any (fun e => e.who == who))

/-- Every tile entry of an operation, on every die, is held. -/
def State.sbHeld (s : State) (who : Nat) : Bool := (List.range 12).all (fun i => sbAllHeld (s.die (cdOf i)).sb who)

def State.sbDrop (s : State) (who : Nat) : State :=
  { s with dies := s.dies.map (fun d => { d with sb := sbRelease d.sb who }) }

/-- An operation that is not at the entries of its tiles yet arrives there (R92, R206). -/
def State.sbEnter (s : State) (who : Nat) (src dst : List (Nat × Nat)) : State :=
  if s.sbHas who then s else s.sbMove who src dst

/-! ### Transfers (R208) -/

/-- What a transfer's host windows are: the window registers in force when it started, and what the host returned (R342,
R343). -/
structure HostView where
  wins : List Nat
  data : HostData
  deriving DecidableEq, Repr

/-- The windows in force now. -/
def State.view (s : State) (data : HostData) : HostView := ⟨s.windows, data⟩

/-- Status of the bytes of a row at an address under windows: 7 where a byte is unmapped or a host window takes no
request, 6 in the window of a fenced die (R199, R204, R208, R343). -/
def State.rowStatusIn (s : State) (wins : List Nat) (a n : Nat) : Nat :=
  (List.range ((a % 64 + n + 63) / 64)).foldl (fun st i =>
    if st ≠ 0 then st else
    let x := a / 64 * 64 + 64 * i
    if s.mapped x then (match winDie x with | some d => if s.fenced d then 6 else 0 | none => 0)
    else if s.hostOpen && (hostAddrIn wins x).isSome then 0 else 7) 0

/-- Status of the bytes of a row under the windows in force. -/
def State.rowStatus (s : State) (a n : Nat) : Nat := s.rowStatusIn s.windows a n

/-- Status of a row that is read: a host read that fails is 7 (R343). -/
def State.srcStatus (s : State) (v : HostView) (a n : Nat) : Nat :=
  if s.rowStatusIn v.wins a n ≠ 0 then s.rowStatusIn v.wins a n else if s.hOk v.data a n then 0 else 7

/-- A host-window read raises a CXL.io request (R343). -/
def State.askHost (s : State) (wins : List Nat) (a n : Nat) : State :=
  if s.mapped a then s
  else match hostAddrIn wins a with
    | some h => if s.hostOpen then s.emit (.hostRead 2 h n) else s
    | none => s

/-- n bytes written at a destination with a poison mark: a host window takes the bytes as they are; a
device line is written poisoned, or in part (R218, R220). The flag says a poisoned line was met. -/
def State.putChunk (s : State) (wins : List Nat) (a : Nat) (bs : List Byte) (mark : Bool) : State × Bool :=
  if s.mapped a then
    if mark then (s.poisonLine a, true)
    else (s.writeLine a bs, s.poisoned a && decide (bs.length < 64))
  else match hostAddrIn wins a with
    | some h => (s.emit (.hostWrite h bs), mark)
    | none => (s, mark)

/-- Bytes written line by line; a line that holds a byte derived from a poisoned line is written poisoned
(R143, R218, R320). The flag says that a poisoned line was met: one written so, or one that a part was written to (R220). -/
def State.putBytesAt (s : State) (wins : List Nat) (a : Nat) (bs : List Byte) (bads : List Bool) : Nat → State × Bool
  | 0 => (s, false)
  | f + 1 =>
    if bs.isEmpty then (s, false) else
    let c := 64 - a % 64
    let x := s.putChunk wins a (bs.take c) ((bads.take c).any id)
    let y := x.1.putBytesAt wins (a + c) (bs.drop c) (bads.drop c) f
    (y.1, x.2 || y.2)

/-- Bytes written line by line under the windows in force. -/
def State.putBytes (s : State) (a : Nat) (bs : List Byte) (bads : List Bool) (f : Nat) : State :=
  (s.putBytesAt s.windows a bs bads f).1

/-- The bytes of one row moved line by line; answers whether poison was met. -/
def State.moveBytes (s : State) (v : HostView) (src dst n : Nat) (poison : Bool) : Nat → State × Bool
  | 0 => (s, poison)
  | f + 1 =>
    if n = 0 then (s, poison) else
    let c := min n (64 - dst % 64)
    let s := s.askHost v.wins src c
    let r := s.putChunk v.wins dst (s.hRead v.data src c) (s.rangePoisoned src c)
    r.1.moveBytes v (src + c) (dst + c) (n - c) (poison || r.2) f

/-- Rows in ascending order: a row that touches a bad address, or whose host read fails, is not written and the transfer
stops there (R208, R343). Answers the status and the rows that stand. -/
def State.moveRows (s : State) (v : HostView) (src dst len ss ds : Nat) (poison : Bool) (done : Nat) :
    Nat → State × Nat × Nat
  | 0 => (s, if poison then 5 else 0, done)
  | r + 1 =>
    let bad := if s.srcStatus v src len = 0 then s.rowStatusIn v.wins dst len else s.srcStatus v src len
    if bad ≠ 0 then (s, bad, done)
    else
      let x := s.moveBytes v src dst len poison (len / 64 + 2)
      x.1.moveRows v ((src + ss) % 2 ^ 48) ((dst + ds) % 2 ^ 48) len ss ds x.2 (done + 1) r

/-- Whether a line of the rows of a transfer waits at its home (R197, R210). -/
def State.rowsHeld (s : State) (a len stride rows : Nat) : Bool :=
  (List.range rows).any (fun r => s.rangeHeld ((a + r * stride) % 2 ^ 48) len)

end Sys2Proof.Machine
end

