-- ==== Sys2Proof/Machine/Cellar.lean ====
section
/-! DEFINITION. The cellar copy: regions, the step digest, reconciliation, restoration, unload, reseed and
receive digests (R371–R394). -/

namespace Sys2Proof.Machine

/-! ### Regions (R372, R373) -/

/-- DEP_PARTNER and DEP_WARD: the coordinate where configured (R371). -/
def State.partner (s : State) : Option Nat := if bitAt (s.reg 0x7008) 31 then some (fld (s.reg 0x7008) 0 20) else none
def State.ward (s : State) : Option Nat := if bitAt (s.reg 0x700C) 31 then some (fld (s.reg 0x700C) 0 20) else none

/-- Address of entry i of the cellar table (R372). -/
def State.cellarEntry (s : State) (i : Nat) : Nat := s.regPair 0x7010 % 2 ^ 48 + 16 * i

/-- A valid entry: base and length (Table 11-4). -/
def State.region (s : State) (i : Nat) : Option (Nat × Nat) :=
  let a := s.cellarEntry i
  if bitAt (s.num (a + 8) 8) 63 then some (s.num a 6, fld (s.num (a + 8) 8) 0 41) else none

/-- A range lies in near or in deep memory. -/
def inStacks (a n : Nat) : Bool :=
  decide (a + n ≤ 768 * gib) || (decide (0x010000000000 ≤ a) && decide (a + n ≤ 0x028000000000))

/-- Valid regions of a kind (0 primary, 1 mirror): number, base, length. -/
def State.regions (s : State) (kind : Nat) : List (Nat × Nat × Nat) :=
  (List.range 128).filterMap (fun i => (s.region (128 * kind + i)).map (fun r => (i, r.1, r.2)))

/-- An entry that makes the table faulty by itself (R373); a poisoned table line does too (log entry 14). -/
def State.entryBad (s : State) (i : Nat) : Bool :=
  let a := s.cellarEntry i
  match s.region i with
  | none => false
  | some (base, len) =>
    decide (base % 4096 ≠ 0) || decide (len % 4096 ≠ 0) || decide (len < 4096) || decide (2 ^ 40 < len)
      || decide (s.num (a + 6) 2 ≠ 0) || decide (fld (s.num (a + 8) 8) 41 22 ≠ 0) || !inStacks base len

/-- Two regions overlap. -/
def overlap (x y : Nat × Nat × Nat) : Bool := decide (x.2.1 < y.2.1 + y.2.2) && decide (y.2.1 < x.2.1 + x.2.2)

/-- A faulty cellar table (R373). -/
def State.cellarFaulty (s : State) : Bool :=
  let pair (l : List (Nat × Nat × Nat)) : Bool := l.any (fun x => l.any (fun y => decide (x.1 < y.1) && overlap x y))
  (List.range 256).any s.entryBad || pair (s.regions 0) || pair (s.regions 1)
    || s.rangePoisoned (s.cellarEntry 0) 4096 || !s.rangeMapped (s.cellarEntry 0) 4096

/-! ### The digest (R377) -/

/-- One word's contribution to its lane (R377). -/
def digestWord (x j w : Nat) : Nat :=
  let y := w ^^^ ((x * 0x9E3779B97F4A7C15 + j) % 2 ^ 64)
  let y := y * 0xD6E8FEB86659FD93 % 2 ^ 64
  let y := y ^^^ (y >>> 32)
  let y := y * 0xD6E8FEB86659FD93 % 2 ^ 64
  y ^^^ (y >>> 29)

/-- A line of region i at offset o added to the eight lanes. -/
def digestLine (d : List Nat) (i o : Nat) (line : List Byte) : List Nat :=
  (List.range 8).map (fun j => (d.getD j 0 + digestWord (i * 2 ^ 34 + o / 64) j (fieldB line (8 * j) 8)) % 2 ^ 64)

def digestZero : List Nat := List.replicate 8 0
def digestBytes (d : List Nat) : List Byte := d.flatMap (natLE 8)
def digestLanes (b : List Byte) : List Nat := (List.range 8).map (fun j => fieldB b (8 * j) 8)

/-- The lanes and the poisoned lines of the regions of a kind. -/
def State.digestOf (s : State) (kind : Nat) : List Nat × List (Nat × Nat) :=
  (s.regions kind).foldl (fun acc r =>
    (List.range (r.2.2 / 64)).foldl (fun acc l =>
      if s.poisoned (r.2.1 + 64 * l) then (acc.1, acc.2 ++ [(r.1, 64 * l)])
      else (digestLine acc.1 r.1 (64 * l) (s.bytes (r.2.1 + 64 * l) 64), acc.2)) acc) (digestZero, [])

/-- The digest of a kind as the engines read it, its poisoned lines, and the state: a digest read under a write, which
leaves other lanes than it began with, is undefined (R379; log entries 1, 51). -/
def State.digestRead (s : State) (kind : Nat) (snap : List Nat) : List Byte × List (Nat × Nat) × State :=
  let r := s.digestOf kind
  if r.1 = snap then (digestBytes r.1, r.2, s)
  else
    let f := s.freeBytes 64
    (f.1, r.2, f.2)

/-! ### Packets (R388, Table 11-7) -/

/-- A cellar packet of the control flow (R388). -/
def State.cellarPacket (s : State) (dst : Nat) (payload : List Byte) (len : Nat) : Packet :=
  s.mkPacket dst 0x0E 0x3FF0 len true 0 payload

def digestPayload (step : Nat) (d : List Byte) : List Byte := [0, 0, 0, 0] ++ natLE 4 step ++ zeroB 8 ++ sliceB d 0 64
def verdictPayload (step v : Nat) : List Byte := [1, 0, 0, 0] ++ natLE 4 step ++ natLE 1 v
def requestPayload (region side off : Nat) : List Byte := [2, 0, 0, 0] ++ natLE 2 region ++ natLE 2 side ++ natLE 8 off
def donePayload (kind step : Nat) (d : List Byte) : List Byte :=
  [4] ++ natLE 1 kind ++ [0, 0] ++ natLE 4 step ++ zeroB 8 ++ sliceB d 0 64

/-- Lines of a region sent to a side of another device: at most three a packet, on the flow of its offset (R388). -/
def State.linesPacket (s : State) (dst side region base off n : Nat) : Packet :=
  let t := off / 192 % 8
  let q (i : Nat) : Nat := if decide (i < n) && s.poisoned (base + off + 64 * i) then 2 ^ (i + 1) else 0
  s.mkPacket dst 0x0E (t / 2 * 2 ^ 14 + 0x3FF8 + t) (64 + 64 * n) true (q 0 + q 1 + q 2)
    ([3] ++ natLE 1 n ++ natLE 2 side ++ natLE 4 region ++ natLE 8 off ++ zeroB 48 ++ s.bytes (base + off) (64 * n))

def State.updDep (s : State) (f : DepSt → DepSt) : State := { s with dep := f s.dep }

/-- The packets of a range of a region: whole lines, three at a time. -/
def State.rangePackets (s : State) (dst side region base : Nat) (off len : Nat) : Nat → List Packet
  | 0 => []
  | f + 1 =>
    if len = 0 then [] else
    let n := min 3 (cdiv len 64)
    s.linesPacket dst side region base off n :: s.rangePackets dst side region base (off + 64 * n) (len - min len (64 * n)) f

/-- Lines of a reconciliation or an answer sent, counted until they are acknowledged (R388). -/
def State.sendLines (s : State) (ps : List Packet) : State :=
  (s.updDep (fun d => { d with lines := d.lines + ps.length })).sendAll ps (.cellar 0)

/-! ### Reconciliation (R375, R376) -/

/-- A direct list's packets: at most fifteen entries each (Table 11-7). -/
def listPayloads (es : List DirEnt) : Nat → List (List Byte)
  | 0 => []
  | f + 1 =>
    if es.isEmpty then [] else
    let c := es.take 15
    ([5] ++ natLE 1 c.length ++ natLE 1 (if es.length ≤ 15 then 1 else 0) ++ zeroB 13 ++
      c.flatMap (fun e => natLE 5 e.off ++ natLE 1 e.region ++ zeroB 2 ++ natLE 4 e.len ++ zeroB 4))
      :: listPayloads (es.drop 15) f

/-- Done packets go once every lines packet sent before is acknowledged (R388). -/
def State.flushDone (s : State) : State :=
  if s.dep.lines ≠ 0 then s
  else s.dep.dues.foldl (fun t x =>
    (t.updDep (fun d => { d with
      sentDone := d.sentDone || (decide (x.2.2 = 0) && d.digest.isSome)
      transfer := if x.2.2 = 1 ∨ x.2.2 = 2 then d.transfer.map (fun r => { r with doneSent := true }) else d.transfer })).sendFlow
      (t.cellarPacket x.1 x.2.1 80) (if x.2.2 = 1 ∨ x.2.2 = 2 then .cellar 2 else .none))
    (s.updDep (fun d => { d with dues := [] }))

/-- A done packet to a device: kind 3 stands for the kind 0 that ends a direct list (R376). -/
def State.sendDone (s : State) (dst kind step : Nat) (digest : List Byte) : State :=
  (s.updDep (fun d => { d with dues := d.dues ++ [(dst, donePayload (if kind = 3 then 0 else kind) step digest, kind)] })).flushDone

/-- The mirror-side list of a step goes to the ward, with a done packet of kind 0 (R376). -/
def State.sendList (s : State) (step : Nat) : State :=
  match s.ward with
  | none => s
  | some w =>
    let es := s.dep.direct.filter (fun e => e.side == 1 && e.step == step)
    let s := (listPayloads es (es.length / 15 + 1)).foldl (fun t p => t.sendFlow (t.cellarPacket w p 256) .none) s
    s.sendDone w 3 s.dep.lastM.1 []

/-- The ranges of the partner's list and of the own primary-side list go to the partner's mirror regions,
then a done packet of kind 0 (R376). -/
def State.sendRanges (s : State) (step : Nat) : State :=
  match s.partner with
  | none => s
  | some p =>
    let own := (s.dep.direct.filter (fun e => e.side == 0 && e.step == step)).map (fun e => (e.region, e.off, e.len))
    let s := (s.dep.ranges ++ own).foldl (fun t r =>
      match t.region r.1 with
      | some (base, size) =>
        let o := r.2.1 / 64 * 64
        let n := min (cdiv (r.2.1 + r.2.2) 64 * 64) size - o
        t.sendLines (t.rangePackets p 1 r.1 base o n (n / 64 + 1))
      | none => t) s
    (s.updDep (fun d => { d with ranges := [] })).sendDone p 0 s.dep.lastP.1 []

/-! ### Records and completion (R381, R383, Table 11-5) -/

/-- A verdict other than 0: its event bit, its log record, diverged for a mismatch (R383, R384). -/
def State.noteVerdict (s : State) (v other : Nat) : State :=
  if v = 0 then s
  else
    let s := (s.orReg 0x704C 1).log 13 6 0 0xFF v other
    if v = 1 then s.depStatus 2 else s

/-- DEP_FLAG rises by 1 with add64 (R383). -/
def State.depFlag (s : State) : State := (s.atomic ⟨0, s.regPair 0x7020 % 2 ^ 48, 1, 0, 0, .nobody⟩).1

/-- Address of the record of a step. -/
def State.recordOf (s : State) (step : Nat) : Nat := s.regPair 0x7018 % 2 ^ 48 + 256 * (step % 2)

/-- The 256 bytes of a step digest's record (Table 11-5). -/
def digestRecord (d : Digest) (ovf : Bool) (now : Nat) : List Byte :=
  natLE 4 d.step ++ natLE 1 (d.pv.getD 3) ++ natLE 1 (d.mv.getD 3)
    ++ natLE 2 ((if d.pPoison then 1 else 0) + (if d.mPoison then 2 else 0) + (if ovf then 4 else 0))
    ++ natLE 4 (min d.pRestored (2 ^ 32 - 1)) ++ natLE 4 (min d.mRestored (2 ^ 32 - 1)) ++ natLE 4 (min d.lost (2 ^ 32 - 1))
    ++ natLE 4 (min ((now - d.start) / 1000) (2 ^ 32 - 1)) ++ zeroB 8
    ++ sliceB (d.prim.getD []) 0 64 ++ sliceB (d.mirr.getD []) 0 64 ++ sliceB d.ward 0 64 ++ zeroB 32

/-- reconcile_overflow recorded for a step (R375). -/
def State.overflowed (s : State) (step : Nat) : Bool := s.dep.overflow.contains step

/-- A step digest completes: its record, its flag, its verdicts, and what it leaves: the digests it computed, and no done
packet of a later step (R383, R386, R393). -/
def State.endDigest (s : State) (d : Digest) : State :=
  let s := (s.write (s.recordOf d.step) (digestRecord d (s.overflowed d.step) s.time)).depFlag
  let s := (s.noteVerdict (d.pv.getD 3) (s.partner.getD 0)).noteVerdict (d.mv.getD 3) (s.ward.getD 0)
  (s.updDep (fun x => { x with
    digest := none
    direct := x.direct.filter (fun e => e.step != d.step)
    overflow := x.overflow.filter (· ≠ d.step)
    sentDone := false
    recvDone := false
    lastP := (match d.prim with | some p => (d.step, p) | none => x.lastP)
    lastM := (match d.mirr with | some m => (d.step, m) | none => x.lastM) })).andNotReg 0x7000 16

def State.putDigest (s : State) (d : Digest) : State := s.updDep (fun x => { x with digest := some d })

/-- A digest that has both its verdicts and both its sums completes (R383; log entry 15). -/
def State.tryEnd (s : State) : State :=
  match s.dep.digest with
  | some d => if d.kind == 0 && d.pv.isSome && d.mv.isSome && d.prim.isSome && d.mirr.isSome
      && d.wantP.isEmpty && d.wantM.isEmpty then s.endDigest d else s
  | none => s

/-- The primary digest goes to the partner once its poisoned lines are restored (R380). -/
def State.sendPrimary (s : State) : State :=
  match s.dep.digest with
  | some d =>
    if d.kind == 0 && d.prim.isSome && d.wantP.isEmpty && !d.sent then
      let s := s.putDigest { d with sent := true }
      match s.partner with
      | some p => s.sendFlow (s.cellarPacket p (digestPayload d.step (d.prim.getD [])) 80) .none
      | none => s
    else s
  | none => s

/-- The verdict of a comparison with the ward's digest (Table 11-6). -/
def State.compareVerdict (s : State) (d : Digest) (ward : List Byte) : Nat :=
  if d.lost ≠ 0 ∨ s.overflowed d.step = true then 5
  else if sliceB ward 0 64 = sliceB (d.mirr.getD []) 0 64 then 0 else 1

/-- A verdict returned to the ward (R381). -/
def State.sendVerdict (s : State) (dst step v : Nat) : State :=
  s.sendFlow (s.cellarPacket dst (verdictPayload step v) 9) .none

/-- A step comes after another, as 32-bit numbers that wrap. -/
def stepAfter (x y : Nat) : Bool := decide (0 < modDiff 32 x y)

/-- The ward's held digest compared once the mirror digest is ready; one of an earlier step gets verdict 4, and one of a
later step stays held until its own (R380, R382). -/
def State.compareWard (s : State) : State :=
  match s.dep.digest, s.dep.held, s.ward with
  | some d, some (step, b), some w =>
    if d.kind == 0 && d.mirr.isSome && d.wantM.isEmpty && d.mv.isNone && !stepAfter step d.step then
      let s := s.updDep (fun x => { x with held := none })
      if step = d.step then
        let v := s.compareVerdict d b
        (s.putDigest { d with mv := some v, ward := b }).sendVerdict w step v
      else s.sendVerdict w step 4
    else s
  | _, _, _ => s

/-! ### Triggers (R378, R380, R394) -/

/-- A digest of a trigger, before anything is computed. -/
def newDigest (kind step sender : Nat) (carried : List Byte) (start : Nat) : Digest :=
  { step := step, kind := kind, sender := sender, carried := carried, start := start, prim := none, mirr := none,
    sent := false, pv := none, mv := none, pPoison := false, mPoison := false, pRestored := 0, mRestored := 0, lost := 0,
    wantP := [], wantM := [], ward := [], snapP := [], snapM := [] }

/-- A digest begins, start being the time of its trigger. A step digest with a faulty table ends with verdict 6 on both
sides (R373); a side with no partner or no ward has verdict 2 at once (R383). -/
def State.beginDigest (s : State) (kind step sender : Nat) (carried : List Byte) (start : Nat) : State :=
  let d := { newDigest kind step sender carried start with
    pv := if s.partner.isNone then some 2 else none, mv := if s.ward.isNone then some 2 else none }
  let s := s.orReg 0x7000 16
  if kind = 0 ∧ s.cellarFaulty = true then (s.putDigest d).endDigest { d with pv := some 6, mv := some 6 }
  else
    let s := s.putDigest { d with
      snapP := if kind = 2 then [] else (s.digestOf 0).1
      snapM := if kind = 1 then [] else (s.digestOf 1).1 }
    if kind ≠ 0 then s
    else
      let listed := s.dep.listDone
      let s := (s.updDep (fun x => { x with sentDone := false, recvDone := false, listDone := false })).sendList step
      if listed then s.sendRanges step else s

/-- The record at the place of a step, which a receive digest writes to: afresh where it holds another step or none, with
both verdicts 7 and everything else zero (R394). -/
def State.recordBase (s : State) (step : Nat) : List Byte :=
  let a := s.recordOf step
  let old := s.bytes a 256
  if fieldB old 0 4 = step ∧ s.rangePoisoned a 256 = false ∧ old.all (· == 0) = false then old
  else natLE 4 step ++ [7, 7] ++ zeroB 250

/-- Bytes of a record replaced. -/
def recordPut (b : List Byte) (off : Nat) (x : List Byte) : List Byte := b.take off ++ x ++ b.drop (off + x.length)

/-- A receive digest's side of its record: verdict, digests, and poisoned lines counted as lost (R394). -/
def State.receiveRecord (s : State) (d : Digest) (v : Nat) (sum : List Byte) : State :=
  let b := s.recordBase d.step
  let b := recordPut b (if d.kind = 1 then 4 else 5) (natLE 1 v)
  let b := recordPut b 16 (natLE 4 (min (fieldB b 16 4 + d.lost) (2 ^ 32 - 1)))
  let b := if d.kind = 1 then recordPut b 32 (sliceB sum 0 64)
    else recordPut b 96 (sliceB sum 0 64 ++ sliceB d.carried 0 64)
  s.write (s.recordOf d.step) b

/-- A receive digest's verdict counted and returned to the sender (R394). -/
def State.reportReceive (s : State) (d : Digest) (v : Nat) : State :=
  (s.depFlag.noteVerdict v d.sender).sendVerdict d.sender d.step v

/-- A receive digest ends with a verdict: recorded, counted, returned to the sender (R394). -/
def State.endReceive (s : State) (d : Digest) (v : Nat) (sum : List Byte) : State :=
  let s := (s.receiveRecord d v sum).reportReceive d v
  (s.updDep (fun x => { x with digest := none, rxBusy := false })).andNotReg 0x7000
    (if s.dep.transfer.isSome then 16 else 48)

/-- A trigger for which no digest is computed: verdict 3 on both sides of its step's record (R378). -/
def State.notComputed (s : State) (d : Digest) : State :=
  if d.kind = 0 then
    let s := (s.write (s.recordOf d.step) (digestRecord { d with pv := some 3, mv := some 3 } (s.overflowed d.step) s.time)).depFlag
    (s.noteVerdict 3 (s.partner.getD 0)).noteVerdict 3 (s.ward.getD 0)
  else (s.write (s.recordOf d.step) (recordPut (s.recordBase d.step) 4 [3, 3])).reportReceive d 3

/-- A digest trigger (R378): it starts, waits for the running digest, or is recorded with verdict 3. -/
def State.trigger (s : State) (kind step sender : Nat) (carried : List Byte) : State :=
  match s.dep.digest, s.dep.queued with
  | none, none => s.beginDigest kind step sender carried s.time
  | _, none => s.updDep (fun x => { x with queued := some (kind, step, sender, carried, s.time) })
  | _, some _ => s.notComputed (newDigest kind step sender carried s.time)

/-- A queued trigger starts once no digest runs (R378). -/
def digestDeferred (s : State) : State :=
  match s.dep.digest, s.dep.queued with
  | none, some (k, st, sd, c, at0) => (s.updDep (fun x => { x with queued := none })).beginDigest k st sd c at0
  | _, _ => s

def execDigestDeferredStart (s : State) : Out := .next (digestDeferred s)

/-! ### The two sides of a step digest (R380, R386) -/

/-- Line requests for poisoned lines: side 0 asks the partner's mirror, 1 the ward's primary (R386). -/
def State.requestLines (s : State) (dst side : Nat) (l : List (Nat × Nat)) : State :=
  l.foldl (fun t x => t.sendFlow (t.cellarPacket dst (requestPayload x.1 side x.2) 16) .none) s

/-- The partner's list for the running digest has been received to its end, so that its ranges go back (R376, R380). -/
def State.listTaken (s : State) : Bool :=
  s.partner.isNone || s.dep.sentDone || s.dep.dues.any (fun x => x.2.2 == 0)

/-- The primary digest is computed once the direct lists are exchanged; with auto_restore its poisoned lines are requested
from the partner, and it is sent once they have come (R380). -/
def primaryDone (s : State) : State :=
  match s.dep.digest with
  | some d =>
    if d.kind ≠ 0 ∨ d.prim.isSome = true ∨ s.listTaken = false then s
    else
      let r := s.digestRead 0 d.snapP
      let want := if bitAt (s.reg 0x7004) 16 && s.partner.isSome then r.2.1 else []
      let s := r.2.2.putDigest { d with prim := some r.1, pPoison := !r.2.1.isEmpty, wantP := want }
      let s := match s.partner with | some p => s.requestLines p 0 want | none => s
      s.sendPrimary.tryEnd
  | none => s

def execPrimaryDigestDone (s : State) : Out := .next (primaryDone s)

/-- The mirror digest is computed after the ward's done packet; its poisoned lines are requested from the
ward; the ward's digest is compared where it is held (R380, R382). -/
def mirrorDone (s : State) : State :=
  match s.dep.digest with
  | some d =>
    if d.kind ≠ 0 ∨ d.mirr.isSome = true ∨ (s.ward.isSome = true ∧ s.dep.recvDone = false) then s
    else
      let r := s.digestRead 1 d.snapM
      let want := if bitAt (s.reg 0x7004) 16 && s.ward.isSome then r.2.1 else []
      let s := r.2.2.putDigest { d with mirr := some r.1, mPoison := !r.2.1.isEmpty, wantM := want }
      let s := match s.ward with | some w => s.requestLines w 1 want | none => s
      s.compareWard.tryEnd
  | none => s

def execMirrorDigestDone (s : State) : Out := .next (mirrorDone s)

/-- timeout_ms has passed since the trigger of a step digest: what is missing has verdict 3 (R383). A receive digest has no
such limit (R394). -/
def digestTimeout (s : State) : State :=
  match s.dep.digest with
  | some d => if d.kind = 0 then s.endDigest { d with pv := some (d.pv.getD 3), mv := some (d.mv.getD 3), wantP := [], wantM := [] }
      else s
  | none => s

def execDigestTimeout (s : State) : Out := .next (digestTimeout s)

/-- A ward's digest (R382): held until the mirror digest of its step is ready, in place of one held before, which gets
verdict 4; of a step before that of the current digest, verdict 4. -/
def takeWardDigest (src : Nat) (b : List Byte) (s : State) : State :=
  if s.ward ≠ some src then s
  else
    let step := fieldB b 4 4
    let dig := sliceB b 16 64
    match s.dep.digest with
    | some d =>
      if d.kind = 0 ∧ stepAfter d.step step = true then s.sendVerdict src step 4
      else
        let s := match s.dep.held with | some (old, _) => s.sendVerdict src old 4 | none => s
        (s.updDep (fun x => { x with held := some (step, dig) })).compareWard.tryEnd
    | none =>
      let s := match s.dep.held with | some (old, _) => s.sendVerdict src old 4 | none => s
      s.updDep (fun x => { x with held := some (step, dig) })

/-- A cellar packet of a subtype (Table 11-7). -/
def cellarIs (sub : Nat) (p : Packet) : Bool := p.type == 0x0E && fieldB p.payload 0 1 == sub

def execDigestPacket (q : Fin 9) (s : State) : Out :=
  .next (takePacket q (cellarIs 0) (fun p s => takeWardDigest p.src p.payload s) s)

/-- A transfer of this device has ended (R394). -/
def State.endTransfer (s : State) : State :=
  ((s.updDep (fun d => { d with transfer := none, dues := d.dues.filter (fun x => decide (x.2.2 = 0 ∨ x.2.2 = 3)) })).orReg 0x704C 2).andNotReg 0x7000 (if s.dep.rxBusy then 0 else 32)

/-- A verdict arrives: of this device's transfer, or the primary verdict of its digest (R381, R394). -/
def takeVerdict (src : Nat) (b : List Byte) (s : State) : State :=
  let step := fieldB b 4 4
  let v := fieldB b 8 1
  let mine := match s.dep.transfer with
    | some t => t.doneSent && t.dst == src && t.step == step
    | none => false
  if mine then s.endTransfer
  else match s.dep.digest with
  | some d => if d.kind = 0 ∧ d.step = step ∧ s.partner = some src ∧ d.sent = true ∧ d.pv = none then
      (s.putDigest { d with pv := some v }).tryEnd else s
  | none => s

def execVerdictPacket (q : Fin 9) (s : State) : Out :=
  .next (takePacket q (cellarIs 1) (fun p s => takeVerdict p.src p.payload s) s)

/-! ### Line requests and lines (R386, R389) -/

/-- A line request answered from the corresponding region, to the requester's side (R386). -/
def State.answerLine (s : State) (r : Nat × Nat × Nat × Nat) : State :=
  match s.region (if r.2.2.1 = 0 then 128 + r.2.1 else r.2.1) with
  | some (base, len) =>
    if r.2.2.2 + 64 ≤ len then s.sendLines [s.linesPacket r.1 (if r.2.2.1 = 0 then 0 else 1) r.2.1 base r.2.2.2 1] else s
  | none => s

/-- The done packet a request waits for has been received (mirror lines) or sent (primary lines) (R386). -/
def State.lineReady (s : State) (side : Nat) : Bool := if side = 0 then s.dep.recvDone else s.dep.sentDone

def takeLineRequest (src : Nat) (b : List Byte) (s : State) : State :=
  let r := (src, fieldB b 4 2 % 128, fld (fieldB b 6 1) 0 1, fieldB b 8 8 / 64 * 64)
  if s.lineReady r.2.2.1 then s.answerLine r else s.updDep (fun d => { d with heldReqs := d.heldReqs ++ [r] })

def execLineRequest (q : Fin 9) (s : State) : Out :=
  .next (takePacket q (cellarIs 2) (fun p s => takeLineRequest p.src p.payload s) s)

/-- Held requests whose done packet has come are answered. -/
def State.answerHeld (s : State) : State :=
  let go := s.dep.heldReqs.filter (fun r => s.lineReady r.2.2.1)
  go.foldl (fun t r => t.answerLine r) (s.updDep (fun d => { d with heldReqs := d.heldReqs.filter (fun r => !s.lineReady r.2.2.1) }))

/-- A wanted line has come (R386): written whole and logged, or lost where it comes poisoned; a restored line
joins its digest (R380). -/
def State.restoreLine (s : State) (d : Digest) (side region off a : Nat) (line : List Byte) (mark : Bool) : State :=
  let d := if side = 0 then { d with wantP := d.wantP.erase (region, off) } else { d with wantM := d.wantM.erase (region, off) }
  if mark then ((s.putDigest { d with lost := d.lost + 1 }).log 15 (lineClass a).1 (lineClass a).2.1 (lineClass a).2.2 0 a).depStatus 4
  else
    let add (x : Option (List Byte)) : Option (List Byte) :=
      x.map (fun b => digestBytes (digestLine (digestLanes b) region off line))
    let d := if side = 0 then { d with prim := add d.prim, pRestored := d.pRestored + 1 }
      else { d with mirr := add d.mirr, mRestored := d.mRestored + 1 }
    (((s.writeLine a line).putDigest d).log 14 (lineClass a).1 (lineClass a).2.1 (lineClass a).2.2 0 a).countReg 0x705C 1
where
  /-- the die that holds a line (R369) -/
  lineClass (a : Nat) : Nat × Nat × Nat := match s.loc a with | some l => lineName l | none => (6, 0, 0xFF)

/-- One line of a lines packet at its address: a wanted line restores; any other is written, poisoned where it
is marked (R389, R218). -/
def State.takeLine (s : State) (side region off a : Nat) (line : List Byte) (mark : Bool) : State :=
  match s.dep.digest with
  | some d =>
    if (if side = 0 then d.wantP else d.wantM).contains (region, off) then s.restoreLine d side region off a line mark
    else (s.putChunk s.windows a line mark).1
  | none => (s.putChunk s.windows a line mark).1

/-- A lines packet (R389): to the primary side from the partner, to the mirror side from the ward, within a valid
region; any other is counted and not written. -/
def takeLines (p : Packet) (s : State) : State :=
  let b := p.payload
  let n := fieldB b 1 1
  let side := fieldB b 2 1
  let region := fieldB b 4 2
  let off := fieldB b 8 8
  let sender := if side = 0 then s.partner else s.ward
  match (if region < 128 ∧ side < 2 then s.region (128 * side + region) else none) with
  | none => s.countReg 0x7060 1
  | some (base, len) =>
    if sender ≠ some p.src ∨ n < 1 ∨ 3 < n ∨ off % 64 ≠ 0 ∨ len < off + 64 * n then s.countReg 0x7060 1
    else
      let moved := s.dep.digest.all (fun d => decide (d.kind ≠ 0))
      let s := if moved then (s.updDep (fun d => { d with rxBusy := true })).orReg 0x7000 32 else s
      ((List.range n).foldl (fun t i => t.takeLine side region (off + 64 * i) (base + off + 64 * i)
        (sliceB b (64 + 64 * i) 64) (bitAt p.poison (i + 1))) s).sendPrimary.compareWard.tryEnd

def execLinesPacket (q : Fin 9) (s : State) : Out := .next (takePacket q (cellarIs 3) takeLines s)

/-- A direct list from the device that keeps this device's copy (R376). -/
def takeDirectList (src : Nat) (b : List Byte) (s : State) : State :=
  if s.partner ≠ some src then s
  else
    let e (i : Nat) : Nat × Nat × Nat := (fieldB b (16 + 16 * i + 5) 1, fieldB b (16 + 16 * i) 5, fieldB b (16 + 16 * i + 8) 4)
    s.updDep (fun d => { d with ranges := d.ranges ++ (List.range (min 15 (fieldB b 1 1))).map e })

/-- A direct list; reserved subtypes have no effect (Table 11-7). -/
def execDirectListPacket (q : Fin 9) (s : State) : Out :=
  .next (takePacket q (fun p => p.type == 0x0E && decide (5 ≤ fieldB p.payload 0 1))
    (fun p s => if fieldB p.payload 0 1 = 5 then takeDirectList p.src p.payload s else s) s)

/-! ### Done packets (R376, R394) -/

def doneIs (kind : Nat) (p : Packet) : Bool := cellarIs 4 p && fieldB p.payload 1 1 == kind

/-- A done packet of kind 0: from the partner it ends the partner's list, and the ranges go back once the own
digest has begun; from the ward it lets the mirror digest proceed (R376, R386). -/
def takeDone0 (src : Nat) (s : State) : State :=
  let step := s.dep.digest.bind (fun d => if d.kind = 0 then some d.step else none)
  if s.partner = some src ∧ (step = none ∨ s.listTaken = false) then
    match step with
    | some n => s.sendRanges n
    | none => s.updDep (fun x => { x with listDone := true })
  else if s.ward = some src then
    (s.updDep (fun x => { x with
      recvDone := true
      digest := x.digest.map (fun d => if d.kind = 0 ∧ d.mirr = none then { d with snapM := (s.digestOf 1).1 } else d) })).answerHeld
  else s

def execDoneReconciliation (q : Fin 9) (s : State) : Out :=
  .next (takePacket q (fun p => cellarIs 4 p && !doneIs 1 p && !doneIs 2 p)
    (fun p s => if doneIs 0 p then takeDone0 p.src s else s) s)

/-- A done packet of kind 1 or 2 triggers a receive digest of the side the transfer wrote (R393, R394). -/
def takeDone (kind : Nat) (p : Packet) (s : State) : State :=
  s.trigger kind (fieldB p.payload 4 4) p.src (sliceB p.payload 16 64)

def execDoneUnload (q : Fin 9) (s : State) : Out := .next (takePacket q (doneIs 1) (takeDone 1) s)
def execDoneReseed (q : Fin 9) (s : State) : Out := .next (takePacket q (doneIs 2) (takeDone 2) s)

/-- A receive digest is computed over the side that the transfer wrote: a poisoned line gives verdict 5 (R394). -/
def receiveDone (s : State) : State :=
  match s.dep.digest with
  | some d =>
    if d.kind = 0 then s
    else if s.cellarFaulty then s.endReceive d 6 []
    else
      let r := s.digestRead (d.kind - 1) (if d.kind = 1 then d.snapP else d.snapM)
      r.2.2.endReceive { d with lost := r.2.1.length }
        (if !r.2.1.isEmpty then 5 else if r.1 = sliceB d.carried 0 64 then 0 else 1) r.1
  | none => s

def execReceiveDigestDone (s : State) : Out := .next (receiveDone s)

/-! ### Transfers (R393, R394) -/

/-- The next lines of a transfer: the region at its cursor, and how many lines (up to three). -/
def State.nextLines (s : State) (kind region off : Nat) : Nat → Option (Nat × Nat × Nat × Nat)
  | 0 => none
  | f + 1 =>
    if 128 ≤ region then none
    else match s.region ((if kind = 1 then 128 else 0) + region) with
    | none => s.nextLines kind (region + 1) 0 f
    | some (base, len) =>
      if off < len then some (region, off, base, min 3 ((len - off) / 64)) else s.nextLines kind (region + 1) 0 f

/-- A transfer sends lines while fewer than 512 packets, eight flows' windows, are outstanding, and its done packet, with the
last digest and its step, once all are acknowledged (R388, R393). -/
def State.transferGo (s : State) : Nat → State
  | 0 => s
  | f + 1 =>
    match s.dep.transfer with
    | none => s
    | some t =>
      if t.doneSent ∨ 512 ≤ t.out ∨ s.dep.dues.any (fun x => decide (x.2.2 = 1 ∨ x.2.2 = 2)) = true then s
      else match s.nextLines t.kind t.region t.off 129 with
      | some (region, off, base, n) =>
        let p := s.linesPacket t.dst (t.kind - 1) region base off n
        ((s.updDep (fun d => { d with
            lines := d.lines + 1
            transfer := some { t with region := region, off := off + 64 * n, out := t.out + 1 } })).sendFlow p (.cellar 1)).transferGo f
      | none =>
        let d := if t.kind = 1 then s.dep.lastM else s.dep.lastP
        (s.updDep (fun x => { x with transfer := some { t with step := d.1 } })).sendDone t.dst t.kind d.1 d.2

/-- DEP_CMD unload or reseed: a write while a transfer is in progress is ignored (R393). -/
def startTransfer (kind : Nat) (s : State) : State :=
  if s.ready = false ∨ s.boot.failed = true ∨ s.dep.transfer.isSome = true then s
  else
    let dst := if kind = 1 then some (fld (s.reg 0x7044) 0 20) else s.partner
    match dst with
    | none => s
    | some c =>
      let step := if kind = 1 then s.dep.lastM.1 else s.dep.lastP.1
      ((s.updDep (fun d => { d with transfer := some ⟨kind, c, 0, 0, 0, step, false, false⟩ })).orReg 0x7000 32).transferGo 513

def execUnload (s : State) : Out := .next (startTransfer 1 s)
def execReseed (s : State) : Out := .next (startTransfer 2 s)

/-- DEP_CMD cancel: a transfer in progress stops and sends no done packet (R393). -/
def cancel (s : State) : State :=
  match s.dep.transfer with
  | some t => if t.doneSent ∨ s.ready = false then s else s.endTransfer
  | none => s

def execCancel (s : State) : Out := .next (cancel s)

/-- timeout_ms after the acknowledged done packet with no verdict: unload_done, and verdict 3 logged (R394). -/
def unloadTimeout (s : State) : State :=
  match s.dep.transfer with
  | some t => if t.doneAcked then s.endTransfer.log 13 6 0 0xFF 3 t.dst else s
  | none => s

def execUnloadTimeout (s : State) : Out := .next (unloadTimeout s)

/-- One lines packet is no longer outstanding: done packets that waited for it may go (R388). -/
def State.lineGone (s : State) : State := (s.updDep (fun d => { d with lines := d.lines - 1 })).flushDone.answerHeld

/-- An acknowledged cellar packet (R388, R394). -/
def State.cellarAck (s : State) (kind : Nat) : State :=
  match kind with
  | 0 => s.lineGone
  | 1 => match s.dep.transfer with
    | some t => (s.updDep (fun d => { d with transfer := some { t with out := t.out - 1 } })).lineGone.transferGo 2
    | none => s.lineGone
  | _ => match s.dep.transfer with
    | some t => s.updDep (fun d => { d with transfer := some { t with doneAcked := true } })
    | none => s

/-- A cellar packet's flow has failed: its lines are no longer awaited, and a transfer ends. -/
def State.cellarFail (s : State) (kind : Nat) : State :=
  match kind with
  | 0 => s.lineGone
  | 1 => if s.dep.transfer.isSome then s.endTransfer.lineGone else s.lineGone
  | _ => if s.dep.transfer.isSome then s.endTransfer else s

/-! ### Configuration (R401) -/

/-- A write of DEP_PARTNER, DEP_WARD, DEP_CELLAR_BASE or DEP_DIGEST_BASE: ignored during a digest or a transfer (R401). -/
def depConfigWrite (off v : Nat) (s : State) : State :=
  if s.ready = false ∨ (off ∉ [0x7008, 0x700C, 0x7010, 0x7014, 0x7018, 0x701C]) then s
  else if s.dep.digest.isSome = true ∨ s.dep.transfer.isSome = true ∨ s.dep.rxBusy = true then s.orReg 0x704C 16
  else match regRow? off with
  | some r => s.setReg off (regMerge r off (s.reg off) (v % 2 ^ 32))
  | none => s

def execDepConfigWrite (off v : Nat) (s : State) : Out := .next (depConfigWrite off v s)

end Sys2Proof.Machine
end

