-- ==== Sys2Proof/Machine/Fabric.lean ====
section
/-! DEFINITION. Torus ports and their bring-up, the slot clock, the router, routing tables and epochs,
link events and congestion maps (R267–R276, R280–R291, R302–R304). -/

namespace Sys2Proof.Machine

/-! ### Ports (R273–R276) -/

def State.port (s : State) (p : Port) : PortSt := s.fab.ports[p]

def State.setPort (s : State) (p : Port) (x : PortSt) : State :=
  { s with fab := { s.fab with ports := s.fab.ports.set p x } }

def portOf (n : Nat) : Port := ⟨n % 8, Nat.mod_lt _ (by decide)⟩

/-- A port carries packets: states 5 and 6 (Table 8-1). -/
def PortSt.up (x : PortSt) : Bool := x.state == 5 || x.state == 6

/-- Lanes in a mask of four. -/
def laneCount (m : Nat) : Nat := ((List.range 4).filter (fun i => bitAt m i)).length

/-- A port with its bring-up progress and queue cleared, in a state. -/
def PortSt.enter (x : PortSt) (state : Nat) : PortSt :=
  { x with state := state, testOk := false, goSent := false, goRecv := false, elastic := [] }

/-- FAB_PORT_CTRL's offset. -/
def portCtrl (p : Port) : Nat := 0x4040 + 8 * p.val

/-- A port whose link die is fenced, or whose device has failed, stays in its state (R22, R465, R474). -/
def State.portFenced (s : State) (p : Port) : Bool :=
  s.boot.failed || (s.hafDie (80 + p.val)).state == 4 || (s.hafDie (80 + p.val)).state == 5

/-- enable written 1: a port not enabled begins bring-up in state 1 (R274). -/
def portEnable (p : Port) (s : State) : State :=
  if s.ready = true ∧ s.reg (portCtrl p) = 0 then
    let t := s.setReg (portCtrl p) 1
    if s.portFenced p then t else t.setPort p { (s.port p).enter 1 with lanes := 0 }
  else s

def execPortEnable (p : Port) (s : State) : Out := .next (portEnable p s)

/-- enable written 0: the port is in state 0 (R276). -/
def portDisable (p : Port) (s : State) : State :=
  if s.ready = false then s
  else
    let t := s.setReg (portCtrl p) 0
    if s.portFenced p then t else t.setPort p { (s.port p).enter 0 with lanes := 0 }

def execPortDisable (p : Port) (s : State) : Out := .next (portDisable p s)

/-- Signal on at least three lanes: state 1 to state 2 (Table 8-2). -/
def portSignal (p : Port) (lanes : Fin 16) (s : State) : State :=
  let x := s.port p
  if x.state = 1 ∧ 3 ≤ laneCount lanes.val then s.setPort p { x.enter 2 with lanes := lanes.val } else s

def execPortSignalDetect (p : Port) (lanes : Fin 16) (s : State) : Out := .next (portSignal p lanes s)

/-- Equalisation, FEC lock and deskew end on the lanes named: state 2 to state 3 (Table 8-2). -/
def portTrained (p : Port) (lanes : Fin 16) (s : State) : State :=
  let x := s.port p
  if x.state = 2 ∧ 3 ≤ laneCount lanes.val then s.setPort p { x with state := 3, lanes := lanes.val } else s

def execPortTrainingDone (p : Port) (lanes : Fin 16) (s : State) : Out := .next (portTrained p lanes s)

/-! ### Tables and coordinates (R278, R284, R287–R291) -/

/-- Component of an axis of a coordinate (R278). -/
def coordAxis (c axis : Nat) : Nat := fld c (5 * axis) (if axis = 3 then 4 else 5)

/-- A coordinate with the component of an axis replaced. -/
def setAxis (c axis v : Nat) : Nat := setFld c (5 * axis) (if axis = 3 then 4 else 5) v

def RTable.extent (t : RTable) (axis : Nat) : Nat := t.ext[axis % 4]'(Nat.mod_lt _ (by decide))

/-- The valid table of an epoch (R289). -/
def State.table (s : State) (epoch : Nat) : Option RTable :=
  if s.fab.tables[0].valid && s.fab.tables[0].epoch == epoch then some s.fab.tables[0]
  else if s.fab.tables[1].valid && s.fab.tables[1].epoch == epoch then some s.fab.tables[1] else none

/-- FAB_CTRL.inject_epoch -/
def State.injectEpoch (s : State) : Nat := fld (s.reg 0x4000) 8 2

/-- The coordinate and port that a port expects of its neighbour (R275); none on an axis of extent 1. -/
def expectNeighbour (t : RTable) (p : Port) : Option (Nat × Nat) :=
  let axis := p.val / 2
  let x := t.extent axis
  let me := coordAxis t.self axis
  if x = 1 then none
  else some (setAxis t.self axis (if p.val % 2 = 0 then (me + 1) % x else (me + x - 1) % x),
    if p.val % 2 = 0 then p.val + 1 else p.val - 1)

/-- A port enters state 7, counted, with its event (R303, Table 8-12). -/
def State.portMismatch (s : State) (p : Port) : State :=
  (s.setPort p { (s.port p).enter 7 with mismatches := (s.port p).mismatches + 1 }).fabEvent 2 p.val

/-- A port enters state 8: its count, event, log record and DEP_STATUS.degraded (R304, Tables 8-12, 11-1, 11-3). -/
def State.portDown (s : State) (p : Port) (cause : Nat) : State :=
  (((s.setPort p { (s.port p).enter 8 with downs := (s.port p).downs + 1 }).fabEvent 4 p.val).log 10 4 p.val p.val cause 0).depStatus 1

/-- A port enters state 6 on three lanes: its count, event, log record and DEP_STATUS.degraded. -/
def State.portDegrade (s : State) (p : Port) (lanes lost : Nat) : State :=
  (((s.setPort p { (s.port p) with state := 6, lanes := lanes, laneDrops := (s.port p).laneDrops + 1 }).fabEvent 8 p.val).log 9 4 p.val lost 6 0).depStatus 1

/-- A received identity slot (R275): a port in identity exchange or test compares it with its table; on
an up port it is a mismatch; a port with no table for the inject epoch waits. -/
def identitySlot (p : Port) (coord nport lanes : Nat) (s : State) : State :=
  let x := s.port p
  let s := if 3 ≤ x.state ∧ x.state ≤ 6 then s.setPort p { x with neighbour := coord % 2 ^ 20 } else s
  let x := s.port p
  if x.up then s.portMismatch p
  else if x.state = 3 ∨ x.state = 4 then
    match s.table s.injectEpoch with
    | none => s
    | some t =>
      if expectNeighbour t p = some (coord, nport) then
        let both := x.lanes &&& lanes
        if 3 ≤ laneCount both then s.setPort p { x with state := 4, lanes := both } else s
      else s.portMismatch p
  else s

def execIdentitySlot (p : Port) (coord nport lanes : Nat) (s : State) : Out := .next (identitySlot p coord nport lanes s)

/-- A bringing-up port sends its identity slot: coordinate, port index and lane mask (R275). -/
def identitySend (p : Port) (s : State) : State :=
  let x := s.port p
  if x.state = 3 ∨ x.state = 4 then
    s.emit (.portSlot p.val 0 (s.selfCoord + p.val * 2 ^ 32 + x.lanes * 2 ^ 40))
  else s

def execIdentitySendTimer (p : Port) (s : State) : Out := .next (identitySend p s)

/-- A port whose test has passed and whose neighbour's go slot has arrived is up (Table 8-2). -/
def State.portGo (s : State) (p : Port) : State :=
  let x := s.port p
  if x.goSent && x.goRecv then
    if laneCount x.lanes = 4 then s.setPort p { x.enter 5 with lanes := x.lanes }
    else (s.setPort p (x.enter 6)).portDegrade p x.lanes
      (((List.range 4).find? (fun i => !bitAt x.lanes i)).getD 0xFF)
  else s

/-- The device is the root of the timing tree: its timing selection names REFCLK_LINK (R270). A selection that has not
been set makes no root, and no port comes up without one (R306). -/
def State.timingRoot (s : State) : Bool :=
  let t := s.reg 0x4028
  let c := if fld t 16 3 < 3 then fld t 16 3 else 0
  bitAt t 12 && fld t (4 * c) 4 == 8

/-- The test of a port ends, which runs once the slot clock is locked or the device is the root: its 65,536 test slots have
been sent, and a go slot follows if every one received passed (Table 8-2). -/
def portTestEnd (p : Port) (ok : Bool) (s : State) : State :=
  let x := s.port p
  if x.state = 4 ∧ (bitAt (s.reg 0x4028) 19 || s.timingRoot) = true then
    let s := s.emit (.portSlot p.val 1 65536)
    if ok then ((s.setPort p { x with testOk := true, goSent := true }).emit (.portSlot p.val 2 0)).portGo p else s
  else s

def execPortTestEnd (p : Port) (ok : Bool) (s : State) : Out := .next (portTestEnd p ok s)

/-- The neighbour's go slot arrives (Table 8-2). -/
def goSlot (p : Port) (s : State) : State :=
  let x := s.port p
  if x.state = 4 then (s.setPort p { x with goRecv := true }).portGo p else s

def execGoSlot (p : Port) (s : State) : Out := .next (goSlot p s)

/-- A bring-up step exceeds its limit: state 1 again (R274). -/
def stepTimeout (p : Port) (s : State) : State :=
  let x := s.port p
  if 1 ≤ x.state ∧ x.state ≤ 4 then s.setPort p { x.enter 1 with lanes := 0 } else s

def execBringupStepTimeout (p : Port) (s : State) : Out := .next (stepTimeout p s)

/-! ### Link events (R303, R304) -/

/-- A lane loses lock: four lanes become three, with a lane drop slot to the neighbour; a second lane takes
the port down; during bring-up fewer than three lanes return it to state 1 (R303, R274). -/
def laneLoss (p : Port) (lane : Fin 4) (s : State) : State :=
  let x := s.port p
  if !bitAt x.lanes lane.val then s
  else
    let m := x.lanes - 2 ^ lane.val
    if x.state = 5 then (s.emit (.portSlot p.val 3 m)).portDegrade p m lane.val
    else if x.state = 6 then s.portDown p 0
    else if 2 ≤ x.state ∧ x.state ≤ 4 then
      if 3 ≤ laneCount m then s.setPort p { x with lanes := m } else s.setPort p { x.enter 1 with lanes := 0 }
    else s

def execLaneLockLoss (p : Port) (lane : Fin 4) (s : State) : Out := .next (laneLoss p lane s)

/-- A lane drop slot from the neighbour names the lanes it keeps (R303). -/
def laneDrop (p : Port) (lanes : Nat) (s : State) : State :=
  let x := s.port p
  let m := x.lanes &&& lanes
  if !x.up || m == x.lanes then s
  else if laneCount m < 3 then s.portDown p 0
  else (s.emit (.portSlot p.val 3 m)).portDegrade p m
    (((List.range 4).find? (fun i => bitAt x.lanes i && !bitAt m i)).getD 0xFF)

def execLaneDropSlot (p : Port) (lanes : Nat) (s : State) : Out := .next (laneDrop p lanes s)

/-- No valid slot for FAB_LINK.fd_us: state 8 (R303, R304). -/
def faultDetect (p : Port) (s : State) : State := if (s.port p).up then s.portDown p 1 else s

def execFaultDetectExpire (p : Port) (s : State) : Out := .next (faultDetect p s)

/-! ### The slot clock (R270, R271) -/

/-- Whether a timing source gives a clock: REFCLK_LINK, or a port whose lanes are locked. -/
def State.timingSource (s : State) (code : Nat) : Bool :=
  code == 8 || (decide (code < 8) && (let x := s.port (portOf code); decide (3 ≤ x.state) && decide (x.state ≤ 6)))

/-- The list entries from one on whose source gives a clock. -/
def State.timingFrom (s : State) (i : Nat) : Option Nat :=
  (List.range 3).find? (fun k => decide (i ≤ k) && s.timingSource (fld (s.reg 0x4028) (4 * k) 4))

/-- FAB_TIMING.current and locked as the slot PLL leaves them. -/
def State.setTiming (s : State) (i : Option Nat) : State :=
  s.setReg 0x4028 (setFld (setFld (s.reg 0x4028) 16 3 (i.getD 7)) 19 1 (if i.isSome then 1 else 0))

/-- The slot PLL locks to the first source of its list that gives a clock (R270). -/
def slotClockLocked (s : State) : State :=
  if bitAt (s.reg 0x4028) 12 then (match s.timingFrom 0 with | some i => s.setTiming (some i) | none => s) else s

def execSlotClockLocked (s : State) : Out := .next (slotClockLocked s)

/-- The selected timing port has gone down: the next listed source, or holdover (R271). -/
def timingLost (s : State) : State :=
  let t := s.reg 0x4028
  let c := fld t 16 3
  if bitAt t 12 && decide (c < 3) && !s.timingSource (fld t (4 * c) 4) then s.setTiming (s.timingFrom (c + 1)) else s

def execTimingPortLost (s : State) : Out := .next (timingLost s)

/-! ### Receiving slots (R272, R280) -/

/-- A packet arrives at a port's elastic store, of eight slots (R272). -/
def State.elasticIn (s : State) (p : Port) (k : Packet) : State :=
  let x := s.port p
  if 8 ≤ x.elastic.length then s.setPort p { x with discarded := x.discarded + 1 }
  else s.setPort p { x with elastic := x.elastic ++ [k] }

/-- Uncorrectable codewords of the lanes of a mask: a lane with more than eight of them within 1 ms is dropped (R303). -/
def State.badCodewords (s : State) (p : Port) (mask : Nat) : State :=
  let x := s.port p
  let l := x.badWords.filter (fun w => decide (s.time < w.2 + 1000000)) ++ (lanesOf mask).map (fun i => (i, s.time))
  let s := s.setPort p { x with badWords := l }
  match (List.finRange 4).find? (fun i => decide (8 < (l.filter (fun w => w.1 == i.val)).length)) with
  | some i => laneLoss p i (s.setPort p { x with badWords := l.filter (fun w => w.1 != i.val) })
  | none => s

/-- A slot arrives at an up port, striped over its lanes (R268, R272, R279, R280): one that fails its CRC or FEC, that does
not come on the lanes in use, or that finds eight waiting, is discarded and counted; idle and link-management slots are
consumed here. badLanes are the lanes whose FEC codeword was uncorrectable (log entry 53). -/
def slotReceive (p : Port) (lanes : List (List Byte)) (crc : Nat) (badLanes : Fin 16) (s : State) : State :=
  let x := s.port p
  let bs := sliceB (unstripe lanes) 0 272
  if !x.up then s
  else if badLanes.val ≠ 0 ∨ lanes.length ≠ laneCount x.lanes ∨ crc32c bs ≠ crc then
    (s.setPort p { x with discarded := x.discarded + 1 }).badCodewords p badLanes.val
  else
    let k := packetOf bs
    if k.type = 0 then s
    else if k.type = 1 then
      match fieldB k.payload 6 1 with
      | 0 => identitySlot p (fieldB k.payload 0 4) (fieldB k.payload 4 1) (fieldB k.payload 5 1) s
      | 3 => laneDrop p (fieldB k.payload 5 1) s
      | _ => s
    else s.elasticIn p k

def execSlotReceive (p : Port) (lanes : List (List Byte)) (crc : Nat) (badLanes : Fin 16) (s : State) : Out :=
  .next (slotReceive p lanes crc badLanes s)

/-! ### A slot round (R269, R282–R286) -/

/-- Insert by an order that is a Bool, after equals. -/
def insertBy {α : Type} (before : α → α → Bool) (x : α) : List α → List α
  | [] => [x]
  | y :: t => if before x y then x :: y :: t else y :: insertBy before x t

/-- Stable sort of a short list. -/
def sortBy {α : Type} (before : α → α → Bool) (l : List α) : List α := l.foldl (fun acc x => insertBy before x acc) []

/-- A port's output transmits in the round (R269). -/
def State.transmits (s : State) (p : Nat) : Bool :=
  let x := s.port (portOf p)
  x.state == 5 || (x.state == 6 && decide (s.fab.round % 4 ≠ 3))

/-- Distance from the device along an axis, positive direction (R284). -/
def axisDist (t : RTable) (dst axis : Nat) : Nat :=
  (coordAxis dst axis + t.extent axis - coordAxis t.self axis % t.extent axis) % t.extent axis

/-- Remaining distance along an axis. -/
def remaining (t : RTable) (dst axis : Nat) : Nat :=
  min (axisDist t dst axis) (t.extent axis - axisDist t dst axis)

/-- Ports that bring a packet closer along an axis (R284). -/
def axisPorts (t : RTable) (dst axis : Nat) : List Nat :=
  let x := t.extent axis
  let dist := axisDist t dst axis
  if x = 1 ∨ dist = 0 then []
  else if 2 * dist < x then [2 * axis]
  else if x < 2 * dist then [2 * axis + 1]
  else [2 * axis, 2 * axis + 1]

/-- The productive set of a packet, in ascending port order (R284). -/
def productive (t : RTable) (dst : Nat) : List Nat :=
  let e := t.excs.find? (fun e => (dst &&& e.2.1) == (e.1 &&& e.2.1))
  let dirs := (List.range 4).flatMap (axisPorts t dst)
  match e with
  | some (_, _, ports, replace) =>
    (List.range 8).filter (fun p => bitAt ports p || (!replace && dirs.contains p))
  | none => dirs

/-- prefer_productive (R285): the arrival axis, the axis of largest remaining distance, the lowest index. -/
def preferProductive (t : RTable) (dst : Nat) (arr : Option Nat) (prod : List Nat) : Nat :=
  match prod.find? (fun p => arr.any (fun a => p / 2 == a / 2)) with
  | some p => p
  | none => prod.foldl (fun best p => if remaining t dst (best / 2) < remaining t dst (p / 2) then p else best)
      (prod.headD 0)

/-- prefer_deflect (R285): a free port on the base die of arrival, else the lowest free one. -/
def preferDeflect (arr : Nat) (free : List Nat) : Option Nat :=
  match free.find? (fun p => p / 2 == arr / 2) with
  | some p => some p
  | none => free.head?

/-- A free ejection path: of the base die of arrival, else any (R283). -/
def State.ejectPath (s : State) (arr : Nat) : Option (Fin 9) :=
  let room (q : Nat) : Bool := decide ((s.fab.eject[q % 8]'(Nat.lt_trans (Nat.mod_lt _ (by decide)) (by decide))).length < 64)
  let l := [arr / 2 * 2, arr / 2 * 2 + 1] ++ List.range 8
  (l.find? room).map (fun q => ⟨q % 8, Nat.lt_trans (Nat.mod_lt _ (by decide)) (by decide)⟩)

/-- The 272 bytes of a slot leave a port, striped over its lanes in use, with their CRC trailer (R268, R280). -/
def State.sendSlot (s : State) (p : Nat) (bs : List Byte) : State :=
  let ls := lanesOf (s.port (portOf p)).lanes
  s.emit (.slot p (ls.zip (stripe ls.length bs)) (crc32c bs))

/-- A packet leaves a port. -/
def State.transmit (s : State) (p : Nat) (k : Packet) : State :=
  let x := s.port (portOf p)
  (s.setPort (portOf p) { x with sent := x.sent + 1 }).sendSlot p (packetBytes k)

def State.deflectOn (s : State) (p : Nat) : State :=
  let x := s.port (portOf p)
  s.setPort (portOf p) { x with deflOn := x.deflOn + 1 }

/-- One arrival of a round: ejected, placed on a port or discarded (R284). The flag says a packet for this
device found no free ejection path. -/
def routeArrival (r : State × List Nat × Bool) (a : Nat × Packet) : State × List Nat × Bool :=
  let s := r.1
  let free := r.2.1
  let k := a.2
  let deflect (full : Bool) : State × List Nat × Bool :=
    match preferDeflect a.1 free with
    | some p => ((s.deflectOn p).transmit p { k with deflected := true }, free.erase p, r.2.2 || full)
    | none => (s, free, r.2.2 || full)
  if k.cls = 3 then (s.formatDiscard, free, r.2.2)
  else if k.dst = s.selfCoord then
    match s.ejectPath a.1 with
    | some q => ({ s with fab := { s.fab with eject := s.fab.eject.set q (s.fab.eject[q] ++ [(k, false)]) } }, free, r.2.2)
    | none => deflect true
  else if k.hop ≤ k.age then
    (({ s with fab := { s.fab with mapHop := s.fab.mapHop + 1 } }).countReg 0x4080 1, free, r.2.2)
  else match s.table k.epoch with
  | none => (({ s with fab := { s.fab with mapEpoch := s.fab.mapEpoch + 1 } }).countReg 0x4084 1, free, r.2.2)
  | some t =>
    let prod := (productive t k.dst).filter (fun p => free.contains p)
    if prod.isEmpty then deflect false
    else
      let p := preferProductive t k.dst (some a.1) prod
      (s.transmit p k, free.erase p, r.2.2)

/-- The injection candidates of a layer: at most two, control first, then scheduled, oldest first (R286). -/
def candidates (l : List Packet) : List Packet := (sortBy (fun x y => decide (x.cls < y.cls)) l).take 2

/-- One injection candidate: placed on a free productive port, or it waits (R284, R286). It carries the
inject epoch (R290). The flag says one found no such port. -/
def routeInject (bd : Fin 4) (r : State × List Nat × Bool) (k : Packet) : State × List Nat × Bool :=
  let s := r.1
  match s.table s.injectEpoch with
  | none => (s, r.2.1, true)
  | some t =>
    let prod := (productive t k.dst).filter (fun p => r.2.1.contains p)
    if prod.isEmpty then (s, r.2.1, true)
    else
      let p := preferProductive t k.dst none prod
      let s := { s with fab := { s.fab with inj := s.fab.inj.set bd (s.fab.inj[bd].erase k) } }
      (s.transmit p { k with epoch := s.injectEpoch }, r.2.1.erase p, r.2.2)

/-- The arrivals of a round: one slot of each port that transmits, taken off its elastic queue, its age
raised (R272, R284). -/
def takeArrival (r : State × List (Nat × Packet)) (p : Nat) : State × List (Nat × Packet) :=
  let s := r.1
  let x := s.port (portOf p)
  if !s.transmits p then r
  else match x.elastic with
  | [] => r
  | k :: rest =>
    (s.setPort (portOf p) { x with
        elastic := rest
        arrived := x.arrived + 1
        arrDefl := x.arrDefl + (if k.deflected then 1 else 0) },
      r.2 ++ [(p, { k with age := min (k.age + 1) 255 })])

/-- Age descending, then class rank, then arrival port (R284). -/
def arrivalBefore (x y : Nat × Packet) : Bool :=
  decide (y.2.age < x.2.age) || (x.2.age == y.2.age && decide (x.2.cls < y.2.cls))

/-- The rounds a port is not up, counted (Table 8-11). -/
def State.countNotUp (s : State) (p : Nat) : State :=
  let x := s.port (portOf p)
  if x.up then s else s.setPort (portOf p) { x with notUp := x.notUp + 1 }

/-- The candidates of the layer that comes i-th in the round's rotation (R286). -/
def routeLayer (r : State × List Nat × Bool) (i : Nat) : State × List Nat × Bool :=
  let bd := fabBd (r.1.fab.round + i)
  (candidates r.1.fab.inj[bd]).foldl (routeInject bd) r

/-- The round is counted (Table 8-11). -/
def FabSt.endRound (f : FabSt) (noEject noPort : Bool) : FabSt :=
  { f with
    round := f.round + 1
    mapRounds := f.mapRounds + 1
    mapNoEject := f.mapNoEject + (if noEject then 1 else 0)
    mapNoPort := f.mapNoPort + (if noPort then 1 else 0) }

/-- Every port still free sends an idle slot, and the round is counted. -/
def State.endRound (r : State × List Nat × Bool) (noEject : Bool) : State :=
  let s := r.2.1.foldl (fun t p => t.sendSlot p (zeroB 272)) r.1
  { s with fab := s.fab.endRound noEject r.2.2 }

/-- One slot round (R284). -/
def routerRound (s : State) : State :=
  let free := (List.range 8).filter s.transmits
  let a := (List.range 8).foldl takeArrival ((List.range 8).foldl State.countNotUp s, [])
  let r := (sortBy arrivalBefore a.2).foldl routeArrival (a.1, free, false)
  State.endRound ((List.range 4).foldl routeLayer (r.1, r.2.1, false)) r.2.2

def execRouterRound (s : State) : Out := .next (if s.ready then routerRound s else s)

/-! ### Table commands (R288–R291) -/

/-- Slot 0 or 1 of the routing tables. -/
def State.tableSlot (s : State) (i : Nat) : RTable := if i % 2 = 0 then s.fab.tables[0] else s.fab.tables[1]

/-- Exception i of a block (Table 8-7). -/
def excOf (b : List Byte) (i : Nat) : Nat × Nat × Nat × Bool :=
  let o := 64 + 16 * i
  (fieldB b o 4, fieldB b (o + 4) 4, fieldB b (o + 8) 1, bitAt (fieldB b (o + 9) 1) 0)

/-- Whether one of n exceptions holds a reserved value (Table 8-7). -/
def excsBad : Nat → List Byte → Bool
  | 0, _ => false
  | n + 1, b => decide (2 ^ 20 ≤ fieldB b 0 4) || decide (2 ^ 20 ≤ fieldB b 4 4) || decide (2 ≤ fieldB b 9 1)
      || decide (fieldB b 10 6 ≠ 0) || excsBad n (b.drop 16)

/-- Whether a routing table block holds a reserved value or one out of range (R288). -/
def blockBad (b : List Byte) : Bool :=
  let ext (a : Nat) : Nat := fieldB b (4 + a) 1
  let self := fieldB b 0 4
  decide (2 ^ 19 ≤ self) || decide (64 < fieldB b 8 1)
    || (List.range 4).any (fun a => decide (ext a < 1) || decide ((if a = 3 then 16 else 32) < ext a)
      || decide (ext a ≤ coordAxis self a))
    || decide (fieldB b 9 55 ≠ 0) || (b.drop 1088).any (· ≠ 0) || excsBad 64 (b.drop 64)

/-- The table a block holds (Table 8-7). -/
def tableOf (b : List Byte) (epoch : Nat) : RTable :=
  { valid := true, epoch := epoch, self := fieldB b 0 4 % 2 ^ 20,
    ext := Vector.ofFn (fun a : Fin 4 => fieldB b (4 + a.val) 1),
    excs := (List.range (fieldB b 8 1)).map (excOf b) }

/-- A refused table command or epoch write (R288, R290). -/
def State.rtRejected (s : State) : State := s.fabEvent 1 0xFF

/-- A slot may not be changed: it holds the inject epoch's table, or is within its hold time (R288, R291). -/
def State.slotLocked (s : State) (i : Nat) : Bool :=
  ((s.tableSlot i).valid && (s.tableSlot i).epoch == s.injectEpoch) || s.fab.hold == some i

def State.setTable (s : State) (i : Nat) (t : RTable) : State :=
  { s with fab := { s.fab with tables := s.fab.tables.set (i % 2) t (Nat.mod_lt _ (by decide)) } }

/-- A write of FAB_RT_CMD with validate set (R288). A block that is unmapped or poisoned is refused (log
entry 13). -/
def validate (v : Nat) (s : State) : State :=
  let i := fld v 0 1
  let e := fld v 1 2
  let a := s.regPair 0x400C % 2 ^ 48 + 4096 * i
  if s.ready = false ∨ bitAt v 3 = false then s
  else if bitAt v 4 ∨ s.slotLocked i = true ∨ ((s.tableSlot (1 - i)).valid && (s.tableSlot (1 - i)).epoch == e) = true
      ∨ s.rangeMapped a 4096 = false ∨ s.rangePoisoned a 4096 = true ∨ blockBad (s.bytes a 4096) = true then
    s.rtRejected
  else s.setTable i (tableOf (s.bytes a 4096) e)

def execValidate (v : Nat) (s : State) : Out := .next (validate v s)

/-- A write of FAB_RT_CMD with invalidate set (R288). -/
def invalidate (v : Nat) (s : State) : State :=
  let i := fld v 0 1
  if s.ready = false ∨ bitAt v 4 = false then s
  else if bitAt v 3 ∨ s.slotLocked i = true then s.rtRejected
  else s.setTable i .empty

def execInvalidate (v : Nat) (s : State) : Out := .next (invalidate v s)

/-- A write of FAB_CTRL (R290, R291): hop_limit is taken; the epoch only where a valid slot holds it, and a
change starts the hold of the slot that held the previous one. -/
def injectEpochWrite (v : Nat) (s : State) : State :=
  let old := s.injectEpoch
  let e := fld v 8 2
  let hop := if fld v 0 8 = 0 then fld (s.reg 0x4000) 0 8 else fld v 0 8
  if s.ready = false then s
  else if (s.table e).isNone then (s.fieldReg 0x4000 0 8 hop).rtRejected
  else
    let slot := if s.fab.tables[0].valid && s.fab.tables[0].epoch == old then 0
      else if s.fab.tables[1].valid && s.fab.tables[1].epoch == old then 1 else 2
    let t := s.setReg 0x4000 (hop + e * 2 ^ 8)
    if e = old then t else { t with fab := { t.fab with hold := some slot } }

def execInjectEpochWrite (v : Nat) (s : State) : Out := .next (injectEpochWrite v s)

/-- FAB_RT_HOLD.hold_us has passed (R291). -/
def execRtHoldExpire (s : State) : Out := .next { s with fab := { s.fab with hold := none } }

/-! ### Congestion maps (R302) -/

/-- The six counts of a port in a map (Table 8-11). -/
def portCounts (x : PortSt) : List Byte :=
  [x.sent, x.deflOn, x.arrived, x.arrDefl, x.notUp, x.discarded].flatMap (fun c => natLE 4 (min c (2 ^ 32 - 1)))

/-- The 256 bytes of a congestion map (Table 8-11). -/
def State.mapBytes (s : State) : List Byte :=
  let f := s.fab
  let c (n : Nat) : List Byte := natLE 4 (min n (2 ^ 32 - 1))
  natLE 4 f.mapSeq ++ c f.mapRounds ++ natLE 1 (s.injectEpoch + (if f.hold.isSome then 4 else 0)) ++ zeroB 7
    ++ f.ports.toList.flatMap portCounts
    ++ c f.mapNoEject ++ c f.mapNoPort ++ c f.mapHop ++ c f.mapEpoch ++ c f.mapFormat ++ c f.mapRetr ++ c f.mapFail
    ++ zeroB 20

/-- The counts of a period start again (R302). -/
def FabSt.clearMap (f : FabSt) : FabSt :=
  { f with
    ports := f.ports.map (fun x => { x with sent := 0, deflOn := 0, arrived := 0, arrDefl := 0, notUp := 0, discarded := 0 })
    mapNoEject := 0
    mapNoPort := 0
    mapHop := 0
    mapEpoch := 0
    mapFormat := 0
    mapRetr := 0
    mapFail := 0
    mapRounds := 0 }

/-- A map period ends: the map is written, its counts start again, and its address is posted (R302). -/
def congestionMap (s : State) : State :=
  let ctl := s.reg 0x402C
  if s.ready = false ∨ fld ctl 0 16 = 0 then s
  else
    let a := s.regPair 0x4030 % 2 ^ 48 + 256 * (s.fab.mapSeq % 2)
    let s := s.write a s.mapBytes
    let s := if bitAt ctl 29 then s.eventTo (fld ctl 16 13) 0x0003 29 [(16, 8, a)] none else s
    { s with fab := { s.fab.clearMap with mapSeq := (s.fab.mapSeq + 1) % 2 ^ 32 } }

def execCongestionMapPeriod (s : State) : Out := .next (congestionMap s)

end Sys2Proof.Machine
end

