-- ==== Sys2Proof/Machine/Flags.lean ====
section
/-! DEFINITION. Conditions: predicates of comparisons (Table 5-6), sumpred selectors (Table 5-17),
flag_wait conditions (Table 5-15) and summary predicates (Table 4-6). -/

namespace Sys2Proof.Machine

/-- cmp_eq, cmp_ne, cmp_lt, cmp_ge, cmp_ltu: signed but the last (Table 5-6). -/
def cmpEq (a b : Word) : Bool := a == b
def cmpNe (a b : Word) : Bool := a != b
def cmpLt (a b : Word) : Bool := a.slt b
def cmpGe (a b : Word) : Bool := !a.slt b
def cmpLtu (a b : Word) : Bool := a.ult b

/-- fcmp_lt and fcmp_ge: false when either is a NaN (Table 5-6). -/
def fcmpLt (a b : Word) : Bool := vLt (ffDecode ffF32 a.toNat) (ffDecode ffF32 b.toNat)
def fcmpGe (a b : Word) : Bool :=
  let x := ffDecode ffF32 a.toNat
  let y := ffDecode ffF32 b.toNat
  !valIsNan x && !valIsNan y && !vLt x y

/-- A sumpred selector (Table 5-17). -/
def sumSelect (r : Summary) (sel : Nat) : Bool :=
  match sel with
  | 0 => r.any
  | 1 => r.all
  | 2 => r.nan != 0
  | 3 => r.inf != 0
  | 4 => r.sat != 0
  | 5 => r.lost != 0
  | 6 => r.poisonRows != 0
  | _ => r.nan != 0 || r.inf != 0

/-- Word sel of a summary record (Table 4-7). -/
def sumWord (r : Summary) (sel : Nat) : Word :=
  BitVec.ofNat 32 (match sel with
  | 0 => r.nan
  | 1 => r.inf
  | 2 => r.sat
  | 3 => r.lost
  | 4 => r.maxMag
  | 5 => r.elems
  | 6 => r.emax + 2 ^ 16 * ((if r.any then 1 else 0) + (if r.all then 2 else 0))
  | _ => r.poisonRows)

/-- A flag_wait condition on the word and the sign-extended value (Table 5-15). -/
def flagCond (cond word value : Nat) : Bool :=
  match cond with
  | 0 => decide (toSigned 64 value ≤ toSigned 64 word)
  | 1 => word % 2 ^ 64 == value % 2 ^ 64
  | _ => word % 2 ^ 64 != value % 2 ^ 64

end Sys2Proof.Machine
end

