-- ==== Sys2Proof/Machine/Charge.lean ====
section
/-! DEFINITION. Tun arithmetic: the expander (R61, R62), charges, column sums in every mode (R87, R106–R109),
the checksum column (R97–R102), the row maximum and sum (R96). -/

namespace Sys2Proof.Machine

/-- Bytes of operand SRAM of a die. -/
def sramSize : Nat := 24 * 2 ^ 20

/-- n bytes of a die's operand SRAM. -/
def State.sram (s : State) (cd : Cd) (off n : Nat) : List Byte := s.bytes (sramAddr cd off) n

/-- Element j of a stored row of a format that holds one pattern per element (R31). -/
def patternAt (f : Fmt) (b : List Byte) (j : Nat) : Nat :=
  match f with
  | .i4 => fld (b.getD (j / 2) 0).toNat (4 * (j % 2)) 4
  | f => fieldB b (j * (fmtBits f / 8)) (fmtBits f / 8)

/-- An expanded value rounded once into F16 under the fast rules (R61). -/
def expF16 (v : Val) : Nat := (ffEncode ffF16 false .nearest v).1

/-- Stored formats each expander mode takes (Table 2-11); a wide load takes F32 in mode 0 only. -/
def expanderOk (wide : Bool) (mode fmt : Nat) : Bool :=
  if wide then decide (mode = 0) && decide (fmt = 0)
  else match mode with
  | 0 => decide (fmt = 1)
  | 1 | 2 => decide (fmt = 5) || decide (fmt = 6)
  | 3 => decide (fmt = 7) || decide (fmt = 8)
  | 4 => decide (fmt = 6)
  | _ => false

/-- One F16 result of the expander in modes 0, 1, 2 and 4 from a stored pattern (R61, R156). -/
def expandOne (mode : Nat) (f : Fmt) (params : List Byte) (n pat : Nat) : Nat :=
  match mode with
  | 0 => pat
  | 1 => expF16 (elemVal f pat)
  | 2 =>
    let scale := elemVal .f16 (fieldB params (4 * n) 2)
    let z := elemVal .i8 (fieldB params (4 * n + 2) 1)
    expF16 (vMul scale (vAdd .nearest (elemVal f pat) (vNeg z)))
  | _ => fieldB params (2 * (pat % 16)) 2

/-- Bytes of the parameter area of a mode (R156). -/
def paramBytes (mode : Nat) : Nat := if mode = 2 then 512 else if mode = 4 then 32 else 0

/-- One stored row through the expander: n values. In mode 3 the row is a row code (R33, R62). -/
def expandRow (wide : Bool) (mode : Nat) (f : Fmt) (params : List Byte) (n : Nat) (row : List Byte) : List Nat :=
  if wide then (List.range n).map (patternAt .f32 row)
  else if mode = 3 then (rowVals f n row).map expF16
  else (List.range n).map (fun j => expandOne mode f params j (patternAt f row j))

/-- Fields of a load (Table 5-8). -/
def ldWide (w : Nat) : Bool := bitAt w 24
def ldMode (w : Nat) : Nat := fld w 25 3
def ldFmt (w : Nat) : Nat := fld w 28 4
def ldK (w : Nat) : Nat := fld w 32 7 + 1
def ldN (w : Nat) : Nat := fld w 39 7 + 1
/-- source offset: the field × 32, plus the low 25 bits of a[base] modulo 2^25 when enabled (R157) -/
def baseOff (field : Nat) (en : Bool) (a : Nat) : Nat := if en then (field * 32 + a) % 2 ^ 25 else field * 32
def ldSrc (w a : Nat) : Nat := baseOff (fld w 51 20) (bitAt w 46) a
def ldStride (w : Nat) : Nat := fld w 71 16 * 32
def ldParams (w : Nat) : Nat := fld w 87 20 * 32

/-- Rows a load reads and the bytes of each: K rows of N, or N row codes of K in mode 3 (R156). -/
def ldRows (w : Nat) : Nat := if ldMode w = 3 ∧ ldWide w = false then ldN w else ldK w
def ldRowBytes (w : Nat) : Nat :=
  match fmtOfCode (ldFmt w) with
  | some f => rowBytes f (if ldMode w = 3 ∧ ldWide w = false then ldK w else ldN w)
  | none => 0

/-- The status a load ends with before it reads anything: reserved codes 2, addresses 7 (Table 3-9). -/
def loadCheck (w a : Nat) : Nat :=
  if w / 2 ^ 107 % 2 ^ 21 ≠ 0 ∨ expanderOk (ldWide w) (ldMode w) (ldFmt w) = false
      ∨ (ldWide w = true ∧ (64 < ldK w ∨ 64 < ldN w)) then 2
  else if sramSize < ldSrc w a + (ldRows w - 1) * ldStride w + ldRowBytes w
      ∨ (paramBytes (ldMode w) ≠ 0 ∧ sramSize < ldParams w + paramBytes (ldMode w)) then 7
  else 0

/-- An F16 value in units of 2^-24. -/
def f16Units (x : Nat) : Int :=
  match elemVal .f16 x with
  | .fin neg num den => if neg then -((num * 2 ^ 24 / den : Nat) : Int) else ((num * 2 ^ 24 / den : Nat) : Int)
  | _ => 0

/-- p = 2^61 − 1 of the residue check (R100). -/
def resP : Nat := 2 ^ 61 - 1

/-- ρ(v) of a finite F32 pattern (R100). -/
def rho (x : Nat) : Nat :=
  match elemVal .f32 x with
  | .fin neg num den =>
    let m := num * 2 ^ 149 / den % resP
    if neg then (resP - m) % resP else m
  | _ => 0

/-- A 48-bit two's-complement number (R97). -/
def weightSum (w : CkWeight) : Int := w.sum.toInt

/-- The checksum weight of a delivered row: c_k of a narrow charge with its bit counts, ρ(c_k) of a wide one (R78, R97,
R100, R101). -/
def ckWeight (wide : Bool) (row : List Nat) : CkWeight :=
  if wide then ⟨0, [], row.foldl (fun u x => (u + rho x) % resP) 0⟩
  else ⟨BitVec.ofInt 48 (row.foldl (fun u x => u + f16Units x) 0),
    (List.range 16).map (fun b => (row.filter (fun x => bitAt x b)).length), 0⟩

/-- The charge a load delivers, with its checksum weights (R76, R78, R156, R504). -/
def State.loadCharge (s : State) (cd : Cd) (w a src : Nat) : Charge :=
  let f := (fmtOfCode (ldFmt w)).getD .f16
  let pb := paramBytes (ldMode w)
  let params := if ldWide w then [] else s.sram cd (ldParams w) pb
  let row (i : Nat) : List Byte := s.sram cd (ldSrc w a + i * ldStride w) (ldRowBytes w)
  let bad := (List.range (ldRows w)).any (fun i => s.rangePoisoned (sramAddr cd (ldSrc w a + i * ldStride w)) (ldRowBytes w))
    || (decide (pb ≠ 0) && s.rangePoisoned (sramAddr cd (ldParams w)) pb)
  let rows := if ldMode w = 3 ∧ ldWide w = false then
      let cols := (List.range (ldN w)).map (fun n => expandRow false 3 f [] (ldK w) (row n))
      (List.range (ldK w)).map (fun k => cols.map (fun c => c.getD k 0))
    else (List.range (ldK w)).map (fun k => expandRow (ldWide w) (ldMode w) f params (ldN w) (row k))
  ⟨some (ldWide w), ldK w, ldN w, rows, rows.map (ckWeight (ldWide w)), bad, src⟩

/-- Cell (k, n) of a charge; outside its K × N region +0 (R76). -/
def Charge.cell (c : Charge) (k n : Nat) : Nat := (c.rows.getD k []).getD n 0

/-- The checksum weight of array row k. -/
def Charge.weight (c : Charge) (k : Nat) : CkWeight := c.weights.getD k .zero

/-- Entry i of a list changed; a list too short is first filled up. -/
def padPut {α : Type} (d : α) (l : List α) (i : Nat) (f : α → α) : List α :=
  (l ++ List.replicate (i + 1 - l.length) d).mapIdx (fun j x => if j = i then f x else x)

/-- A charge register or a checksum weight with a bit flipped, where it stays until a load replaces it (Table 3-7). -/
def Charge.flip (c : Charge) (mode : Nat) : TunFault → Charge
  | .cell k n b =>
    { c with rows := padPut [] c.rows (k % 128) (fun r => padPut 0 r (n % 128)
        (fun x => x ^^^ 2 ^ (b % (if c.wide = some true then 32 else 16)))) }
  | .weight k b =>
    { c with weights := padPut .zero c.weights (k % 128) (fun w =>
        if mode = 3 ∨ mode = 4 then { w with cnt := padPut 0 w.cnt (b / 8 % 16) (fun x => x ^^^ 2 ^ (b % 8)) }
        else { w with sum := w.sum ^^^ BitVec.ofNat 48 (2 ^ (b % 48)), rho := w.rho ^^^ 2 ^ (b % 61) }) }
  | _ => c

/-! ### Products and column sums -/

/-- A product as it enters a sum: tag 0 in F16, tag 1 with e = 0 in F32, special under R38. -/
def prodX (f : Fmt) (a b : Nat) : X128 :=
  match vMul (elemVal f a) (elemVal f b) with
  | .nan _ _ => .nan
  | .inf n => .inf n
  | .fin neg num den =>
    if f = .f16 then .exact (if neg then -((num * 2 ^ 48 / den : Nat) : Int) else ((num * 2 ^ 48 / den : Nat) : Int))
    else .win 0 (if neg then -((num * 2 ^ 300 / den : Nat) : Int) else ((num * 2 ^ 300 / den : Nat) : Int))

/-- Number of set bits of a 16-bit word. -/
def popcount16 (x : Nat) : Nat := ((List.range 16).filter (fun i => bitAt x i)).length

/-- Modes of a pass (Table 5-9): 0 F16, 1 F32, 2 strict, 3 AND, 4 XOR, 5 and 6 element-wise. -/
def modeFmt (mode : Nat) : Fmt := if mode = 1 ∨ mode = 2 ∨ mode = 6 then .f32 else .f16

/-- Moving elements of a row: the K of the charge it meets, at most 64 in F32 and strict modes (R71, R106). -/
def passK (mode : Nat) (k : Nat) : Nat := if modeFmt mode = .f32 then min k 64 else k

/-- One column of a pass row before any tile addition (R87, R106, R108). -/
def columnSum (mode : Nat) (as : List Nat) (c : Charge) (n : Nat) : X128 :=
  let ks := List.range (if mode = 3 ∨ mode = 4 then 128 else passK mode c.k)
  if mode = 3 then .exact ((ks.foldl (fun t k => t + popcount16 (as.getD k 0 &&& c.cell k n)) 0 : Nat) * 2 ^ 48)
  else if mode = 4 then .exact ((ks.foldl (fun t k => t + popcount16 (as.getD k 0 ^^^ c.cell k n)) 0 : Nat) * 2 ^ 48)
  else ks.foldl (fun t k => (xAdd false t (prodX (modeFmt mode) (as.getD k 0) (c.cell k n))).1)
    (if mode = 0 then .exact 0 else .win 0 0)

/-- The strict-mode loop of R107 from a starting F32 pattern. -/
def strictLoop (as : List Nat) (c : Charge) (n acc : Nat) : Nat :=
  (List.range (passK 2 c.k)).foldl (fun t k =>
    (ffEncode ffF32 true .nearest (vFma .nearest (elemVal .f32 (as.getD k 0)) (elemVal .f32 (c.cell k n))
      (elemVal .f32 t))).1) acc

/-- A tile element as the strict loop starts from it (R42, R107). -/
def strictStart (x : X128) : Nat := (ffEncode ffF32 true .nearest (xVal x)).1

/-- The element written for column n: the sum, or the tile element plus the sum; in strict mode the loop
from +0 or from the element (R87, R106, R107). -/
def outElem (mode : Nat) (acc : Bool) (as : List Nat) (c : Charge) (n : Nat) (sum old : X128) : X128 :=
  if mode = 2 then xWindowed (elemVal .f32 (strictLoop as c n (if acc then strictStart old else 0)))
  else if acc then (xAdd false old sum).1
  else if mode = 1 then (match sum with
    | .exact v => xWindowed (valOfDyadic v (-48))
    | x => x)
  else sum

/-! ### The check of a row (R97, R98, R100–R102) -/

/-- A pattern is a NaN or an infinity. -/
def specialPat (f : Fmt) (x : Nat) : Bool := !valIsFin (elemVal f x)

/-- A row is unchecked where any of its 129 column sums is special: one of the 128, or the checksum column, which a special
moving element or a special cell of its row reaches (R98). In strict mode a column sum is the loop's result. -/
def rowUnchecked (mode : Nat) (as : List Nat) (c : Charge) (cols : List X128) : Bool :=
  if mode = 3 ∨ mode = 4 then false
  else cols.any xSpecial || (List.range (passK mode c.k)).any (fun k => specialPat (modeFmt mode) (as.getD k 0)
    || (List.range c.n).any (fun n => specialPat (modeFmt mode) (c.cell k n)))

/-- A column sum as the bottom edge receives it: a fault of the column flips a bit of its pattern. -/
def flipped (fault : TunFault) (n : Nat) (x : X128) : X128 := match fault with
  | .column c b => if c = n then xDecode (xEncode x ^^^ 2 ^ (b % 127)) else x
  | _ => x

def xUnits : X128 → Int
  | .exact v => v
  | _ => 0

/-- The two sides of the equality of R97 and R101: the running sum, and the checksum column from its weights. -/
def checkSides (mode : Nat) (as : List Nat) (c : Charge) (cols : List X128) (fault : TunFault) : Int × Int :=
  let lhs := (List.range 128).foldl (fun t n => t + xUnits (flipped fault n (cols.getD n (.exact 0)))) 0
  let ks := List.range (if mode = 3 ∨ mode = 4 then 128 else c.k)
  let rhs : Int :=
    if mode = 0 then ks.foldl (fun t k => t + f16Units (as.getD k 0) * weightSum (c.weight k)) 0
    else
      ks.foldl (fun t k => t + (List.range 16).foldl (fun u b =>
        let cnt : Int := (c.weight k).cnt.getD b 0
        let a : Int := if bitAt (as.getD k 0) b then 1 else 0
        u + (if mode = 3 then a * cnt else cnt + a * (128 - 2 * cnt))) 0) 0 * 2 ^ 48
  (lhs, match flipped fault 128 (.exact rhs) with
    | .exact v => v
    | _ => rhs)

/-- A fault that the duplicated adders of a column show (R100). -/
def columnFault : TunFault → Bool
  | .column _ _ => true
  | _ => false

/-- A disagreement of the duplicated tile adders (Table 3-7). -/
def adderFault : TunFault → Bool
  | .adder _ => true
  | _ => false

/-- The residue equality of R100, with the duplicated adders of the columns. -/
def residueOk (mode : Nat) (as : List Nat) (c : Charge) (fault : TunFault) : Bool :=
  let ks := List.range (passK mode c.k)
  let ns := List.range c.n
  let lhs := ns.foldl (fun t n => (t + ks.foldl (fun u k => (u + rho (as.getD k 0) * rho (c.cell k n)) % resP) 0) % resP) 0
  let rhs := ks.foldl (fun t k => (t + rho (as.getD k 0) * (c.weight k).rho) % resP) 0
  lhs == rhs && !columnFault fault

/-- Verdict of a row: unchecked, passed, failed. -/
inductive Verdict where
  | unchecked | passed | failed
  deriving DecidableEq, Repr

/-- The verdict of a pass row (R97, R98, R100, R101); acc: the row is added to the tile, in an addition whose adder is
duplicated (Table 3-7). -/
def passVerdict (mode : Nat) (acc : Bool) (as : List Nat) (c : Charge) (cols : List X128) (fault : TunFault) : Verdict :=
  if rowUnchecked mode as c cols then .unchecked
  else if acc && decide (mode ≠ 2) && adderFault fault then .failed
  else if mode = 1 ∨ mode = 2 then (if residueOk mode as c fault then .passed else .failed)
  else
    let x := checkSides mode as c cols fault
    if x.1 = x.2 then .passed else .failed

/-! ### Row maximum and row sum (R96) -/

/-- The largest element in the form of the lowest column that holds it; a NaN gives NaN. -/
def rowMax : List X128 → X128
  | [] => .nan
  | x :: t => t.foldl (fun m y =>
      if m = .nan ∨ y = .nan then .nan else if vLt (xVal m) (xVal y) then y else m) x

/-- The sum in ascending column order. -/
def rowSum (strict : Bool) : List X128 → X128
  | [] => .exact 0
  | x :: t => t.foldl (fun m y => (xAdd strict m y).1) x

end Sys2Proof.Machine
end

