-- ==== Sys2Proof/Machine/NumFn.lean ====
section
/-! DEFINITION. The functions of Table 4-3 (R127, R131, R132): each is defined from the exact
mathematical value at its F32 input. The value is enclosed in an interval of integers scaled by 2^P,
P rising until the interval falls between two neighbouring multiples of 2^-152. Every boundary at
which rounding into F32 changes is a multiple of 2^-150, so any value strictly between the same two
multiples rounds as the exact one does, in every direction. -/

namespace Sys2Proof.Machine

/-- An interval [lo, hi] of numbers scaled by 2^P. -/
structure Iv where
  lo : Int
  hi : Int
  deriving DecidableEq, Repr

/-- Floor and ceiling of a / 2^p. -/
def shrF (p : Nat) (a : Int) : Int := a / ((2 ^ p : Nat) : Int)
def shrC (p : Nat) (a : Int) : Int := -((-a) / ((2 ^ p : Nat) : Int))

def ivAdd (a b : Iv) : Iv := ⟨a.lo + b.lo, a.hi + b.hi⟩
def ivSub (a b : Iv) : Iv := ⟨a.lo - b.hi, a.hi - b.lo⟩
def ivNeg (a : Iv) : Iv := ⟨-a.hi, -a.lo⟩

/-- Product at scale 2^p. -/
def ivMul (p : Nat) (a b : Iv) : Iv :=
  let x1 := a.lo * b.lo
  let x2 := a.lo * b.hi
  let x3 := a.hi * b.lo
  let x4 := a.hi * b.hi
  ⟨shrF p (min (min x1 x2) (min x3 x4)), shrC p (max (max x1 x2) (max x3 x4))⟩

/-- Product with, and quotient by, a positive integer. -/
def ivMulN (a : Iv) (n : Nat) : Iv := ⟨a.lo * n, a.hi * n⟩
def ivDivN (a : Iv) (n : Nat) : Iv := ⟨a.lo / (n : Int), -((-a.hi) / (n : Int))⟩

/-- Quotient of intervals of non-negative numbers, the divisor's positive, at scale 2^p. -/
def ivDivPos (p : Nat) (a b : Iv) : Iv :=
  ⟨(a.lo * (2 ^ p : Nat)) / b.hi, -((-(a.hi * (2 ^ p : Nat))) / b.lo)⟩

/-- num / den at scale 2^p. -/
def ivRat (p : Nat) (num : Int) (den : Nat) : Iv :=
  ⟨(num * (2 ^ p : Nat)) / (den : Int), -((-(num * (2 ^ p : Nat))) / (den : Int))⟩

/-- Widened by w on both sides. -/
def ivWiden (a : Iv) (w : Int) : Iv := ⟨a.lo - w, a.hi + w⟩

/-- Sum of y^i / i! from term t = y^(i−1)/(i−1)! on, for |y| ≤ 1/2: the terms left out sum to at most
twice the first of them. -/
def expSeries (p : Nat) (y : Iv) : Nat → Nat → Iv → Iv → Iv
  | 0, _, t, acc => ivWiden acc (2 * max (t.hi.natAbs : Int) (t.lo.natAbs) + 2)
  | fuel + 1, i, t, acc =>
    let t' := ivDivN (ivMul p t y) i
    if t'.lo.natAbs ≤ 1 ∧ t'.hi.natAbs ≤ 1 then ivWiden acc 4
    else expSeries p y fuel (i + 1) t' (ivAdd acc t')

/-- Repeated squaring. -/
def ivSquares (p : Nat) : Nat → Iv → Iv
  | 0, a => a
  | n + 1, a => ivSquares p n (ivMul p a a)

/-- e^x at scale 2^p for |x| < 2^8: 2^9 equal factors. -/
def ivExp (p : Nat) (x : Iv) : Iv :=
  let w := p + 64
  let y : Iv := ⟨x.lo * 2 ^ 55, x.hi * 2 ^ 55⟩
  let one : Iv := ⟨2 ^ w, 2 ^ w⟩
  let e := ivSquares w 9 (expSeries w y 400 1 one one)
  ⟨shrF 64 e.lo, shrC 64 e.hi⟩

/-- t + t^3/3 + t^5/5 + … for 0 ≤ t ≤ 1/2: the terms left out sum to at most twice the first. -/
def atanhSeries (p : Nat) (t2 : Iv) : Nat → Nat → Iv → Iv → Iv
  | 0, _, pw, acc => ivWiden acc (2 * (pw.hi.natAbs : Int) + 2)
  | fuel + 1, k, pw, acc =>
    let pw' := ivMul p pw t2
    if pw'.hi.natAbs ≤ 1 then ivWiden acc 4
    else atanhSeries p t2 fuel (k + 2) pw' (ivAdd acc (ivDivN pw' (k + 2)))

def ivAtanh (p : Nat) (t : Iv) : Iv := atanhSeries p (ivMul p t t) 1200 1 t t

/-- ln 2 = 2 artanh(1/3). -/
def ivLn2 (p : Nat) : Iv := ivMulN (ivAtanh p (ivRat p 1 3)) 2

/-- ln(num / den) for num > 0: m × 2^k with 1 ≤ m < 2, ln m = 2 artanh((m − 1)/(m + 1)). -/
def ivLog (p : Nat) (num den : Nat) : Iv :=
  let k := flog2 num den
  let m := scaleDown num den k
  let l := ivMulN (ivAtanh p (ivRat p ((m.1 : Int) - m.2) (m.1 + m.2))) 2
  let c := ivLn2 p
  let kc : Iv := if 0 ≤ k then ivMulN c k.toNat else ivNeg (ivMulN c (-k).toNat)
  ivAdd l kc

/-- artan of 1 / n for n ≥ 2, an alternating series. -/
def atanInvSeries (n2 : Nat) : Nat → Nat → Bool → Iv → Iv → Iv
  | 0, _, _, pw, acc => ivWiden acc ((pw.hi.natAbs : Int) + 2)
  | fuel + 1, k, plus, pw, acc =>
    let pw' := ivDivN pw n2
    if pw'.hi.natAbs ≤ 1 then ivWiden acc 4
    else
      let t := ivDivN pw' (k + 2)
      atanInvSeries n2 fuel (k + 2) (!plus) pw' (if plus then ivAdd acc t else ivSub acc t)

def ivAtanInv (p n : Nat) : Iv :=
  let t := ivRat p 1 n
  atanInvSeries (n * n) 1200 1 false t t

/-- π by Machin's formula. -/
def ivPi (p : Nat) : Iv :=
  ivMulN (ivSub (ivMulN (ivAtanInv p 5) 4) (ivAtanInv p 239)) 4

/-- Sums of r^(2i+s)/(2i+s)! with alternating signs for |r| ≤ 1. -/
def sinSeries (p : Nat) (r2 : Iv) : Nat → Nat → Bool → Iv → Iv → Iv
  | 0, _, _, t, acc => ivWiden acc (max (t.hi.natAbs : Int) t.lo.natAbs + 2)
  | fuel + 1, i, plus, t, acc =>
    let t' := ivDivN (ivMul p t r2) ((i + 1) * (i + 2))
    if t'.lo.natAbs ≤ 1 ∧ t'.hi.natAbs ≤ 1 then ivWiden acc 4
    else sinSeries p r2 fuel (i + 2) (!plus) t' (if plus then ivAdd acc t' else ivSub acc t')

def ivSinSmall (p : Nat) (r : Iv) : Iv := sinSeries p (ivMul p r r) 400 1 false r r

def ivCosSmall (p : Nat) (r : Iv) : Iv :=
  let one : Iv := ⟨2 ^ p, 2 ^ p⟩
  sinSeries p (ivMul p r r) 400 0 false one one

/-- sin (shift 0) or cos (shift 1) of an exact magnitude: exact reduction by multiples of π/2 (R132). -/
def ivTrig (p : Nat) (num den shift : Nat) : Iv :=
  let g := p + 200
  let halfPi := ivDivN (ivPi g) 2
  let x := ivRat g num den
  let n : Nat := ((x.lo + halfPi.lo / 2) / halfPi.lo).toNat
  let r := ivSub x (ivMulN halfPi n)
  let q := (n + shift) % 4
  let v := if q % 2 = 0 then ivSinSmall g r else ivCosSmall g r
  let w := if q / 2 = 0 then v else ivNeg v
  ⟨shrF 200 w.lo, shrC 200 w.hi⟩

/-- The sum of 2^n x^(2n+1) / (1·3·…·(2n+1)); every term is positive. -/
def erfSeries (p : Nat) (x2 : Iv) : Nat → Nat → Iv → Iv → Iv
  | 0, _, t, acc => ivWiden acc (2 * (t.hi.natAbs : Int) + 2)
  | fuel + 1, k, t, acc =>
    let t' := ivDivN (ivMulN (ivMul p t x2) 2) (k + 2)
    if t'.hi.natAbs ≤ 1 then ivWiden acc 4
    else erfSeries p x2 fuel (k + 2) t' (ivAdd acc t')

/-- Square root of a non-negative interval at scale 2^p. -/
def ivSqrt (p : Nat) (a : Iv) : Iv :=
  ⟨(Nat.sqrt (a.lo.toNat * 2 ^ p) : Int), (Nat.sqrt (a.hi.toNat * 2 ^ p) : Int) + 1⟩

/-- erf of an exact magnitude below 12: 2/√π e^(−x²) Σ. -/
def ivErf (p : Nat) (num den : Nat) : Iv :=
  let g := p + 256
  let x := ivRat g num den
  let x2 := ivMul g x x
  let s := erfSeries g x2 2400 1 x x
  let e := ivExp g (ivNeg x2)
  let r := ivDivPos g (ivMulN (ivMul g e s) 2) (ivSqrt g (ivPi g))
  ⟨shrF 256 r.lo, shrC 256 r.hi⟩

/-- The cell of the grid 2^-152 that holds every number of an interval at scale 2^p strictly inside. -/
def ivCell (p : Nat) (a : Iv) : Option Int :=
  let c := shrF (p - 152) a.lo
  if c * ((2 ^ (p - 152) : Nat) : Int) < a.lo ∧ a.hi < (c + 1) * ((2 ^ (p - 152) : Nat) : Int) then some c else none

/-- The middle of a cell: rounds into F32 as every other number of the cell does. -/
def cellVal (c : Int) : Val := valOfDyadic (2 * c + 1) (-153)

/-- Precision is raised until the enclosure lies inside one cell. The last precision stands when
none does, which no F32 input of a function here reaches. -/
def refine (f : Nat → Iv) : List Nat → Val
  | [] => cellVal (shrF 1000 (f 1152).lo)
  | p :: ps =>
    match ivCell p (f p) with
    | some c => cellVal c
    | none => refine f ps

def precisions : List Nat := [256, 512, 1152]

/-- A value below every positive boundary of F32, and one above every finite F32. -/
def tinyVal (neg : Bool) : Val := .fin neg 1 (2 ^ 200)
def hugeVal (neg : Bool) : Val := .fin neg (2 ^ 200) 1

/-- e^x. -/
def fnExp (v : Val) : Val :=
  match v with
  | .nan n f => .nan n (f % 2 ^ 22 + 2 ^ 22)
  | .inf neg => if neg then .zero else .inf false
  | .fin neg num den =>
    if num = 0 then valOfInt 1
    else if 100 * den < num then (if neg then (if 120 * den < num then tinyVal false else
      refine (fun p => ivExp p (ivRat p (sgn neg num) den)) precisions) else hugeVal false)
    else refine (fun p => ivExp p (ivRat p (sgn neg num) den)) precisions

/-- 2^x; an integer x is exact. -/
def fnExp2 (v : Val) : Val :=
  match v with
  | .nan n f => .nan n (f % 2 ^ 22 + 2 ^ 22)
  | .inf neg => if neg then .zero else .inf false
  | .fin neg num den =>
    if 170 * den < num then (if neg then tinyVal false else hugeVal false)
    else if num % den = 0 then valOfDyadic 1 (sgn neg (num / den))
    else refine (fun p => ivExp p (ivMul p (ivRat p (sgn neg num) den) (ivLn2 p))) precisions

/-- ln x. -/
def fnLog (v : Val) : Val :=
  match v with
  | .nan n f => .nan n (f % 2 ^ 22 + 2 ^ 22)
  | .inf neg => if neg then .qnan else .inf false
  | .fin neg num den =>
    if num = 0 then .inf true else if neg then .qnan else if num = den then .zero
    else refine (fun p => ivLog p num den) precisions

/-- log₂ x; a power of two is exact. -/
def fnLog2 (v : Val) : Val :=
  match v with
  | .nan n f => .nan n (f % 2 ^ 22 + 2 ^ 22)
  | .inf neg => if neg then .qnan else .inf false
  | .fin neg num den =>
    if num = 0 then .inf true else if neg then .qnan
    else
      let k := flog2 num den
      let m := scaleDown num den k
      if m.1 = m.2 then valOfInt k
      else refine (fun p =>
        let l := ivMulN (ivAtanh (p + 32) (ivRat (p + 32) ((m.1 : Int) - m.2) (m.1 + m.2))) 2
        let q := ivDivPos (p + 32) l (ivLn2 (p + 32))
        ⟨shrF 32 q.lo + k * (2 ^ p : Nat), shrC 32 q.hi + k * (2 ^ p : Nat)⟩) precisions

/-- tanh x = (E − 1) / (E + 1) with E = e^(2|x|). -/
def fnTanh (v : Val) : Val :=
  match v with
  | .nan n f => .nan n (f % 2 ^ 22 + 2 ^ 22)
  | .inf neg => valOfInt (if neg then -1 else 1)
  | .fin neg num den =>
    if num = 0 then v
    else if 60 * den < num then .fin neg (2 ^ 153 - 1) (2 ^ 153)
    else
      let m := refine (fun p =>
        let g := p + 256
        let e := ivExp g (ivRat g (2 * num) den)
        let one : Iv := ⟨2 ^ g, 2 ^ g⟩
        let q := ivDivPos g (ivSub e one) (ivAdd e one)
        ⟨shrF 256 q.lo, shrC 256 q.hi⟩) precisions
      if neg then vNeg m else m

/-- 1 / (1 + e^−x). -/
def fnSigmoid (v : Val) : Val :=
  match v with
  | .nan n f => .nan n (f % 2 ^ 22 + 2 ^ 22)
  | .inf neg => if neg then .zero else valOfInt 1
  | .fin neg num den =>
    if num = 0 then .fin false 1 2
    else if 120 * den < num then (if neg then tinyVal false else .fin false (2 ^ 153 - 1) (2 ^ 153))
    else refine (fun p =>
      let g := p + 256
      let e := ivExp g (ivRat g (sgn (!neg) num) den)
      let one : Iv := ⟨2 ^ g, 2 ^ g⟩
      let q := ivDivPos g one (ivAdd one e)
      ⟨shrF 256 q.lo, shrC 256 q.hi⟩) precisions

/-- erf x. -/
def fnErf (v : Val) : Val :=
  match v with
  | .nan n f => .nan n (f % 2 ^ 22 + 2 ^ 22)
  | .inf neg => valOfInt (if neg then -1 else 1)
  | .fin neg num den =>
    if num = 0 then v
    else if 12 * den < num then .fin neg (2 ^ 153 - 1) (2 ^ 153)
    else
      let m := refine (fun p => ivErf p num den) precisions
      if neg then vNeg m else m

/-- sin x, x in radians. -/
def fnSin (v : Val) : Val :=
  match v with
  | .nan n f => .nan n (f % 2 ^ 22 + 2 ^ 22)
  | .inf _ => .qnan
  | .fin neg num den =>
    if num = 0 then v
    else
      let m := refine (fun p => ivTrig p num den 0) precisions
      if neg then vNeg m else m

/-- cos x. -/
def fnCos (v : Val) : Val :=
  match v with
  | .nan n f => .nan n (f % 2 ^ 22 + 2 ^ 22)
  | .inf _ => .qnan
  | .fin _ num den =>
    if num = 0 then valOfInt 1 else refine (fun p => ivTrig p num den 1) precisions

/-- √x: exact where the root is a multiple of 2^-152, else the middle of its cell. -/
def fnSqrt (v : Val) : Val :=
  match v with
  | .nan n f => .nan n (f % 2 ^ 22 + 2 ^ 22)
  | .inf neg => if neg then .qnan else .inf false
  | .fin neg num den =>
    if num = 0 then v else if neg then .qnan
    else
      let q := num * 2 ^ 304 / den
      let r := Nat.sqrt q
      if r * r = q ∧ num * 2 ^ 304 % den = 0 then .fin false r (2 ^ 152) else cellVal r

/-- 1 / √x. -/
def fnRsqrt (v : Val) : Val :=
  match v with
  | .nan n f => .nan n (f % 2 ^ 22 + 2 ^ 22)
  | .inf neg => if neg then .qnan else .zero
  | .fin neg num den =>
    if num = 0 then .inf neg else if neg then .qnan
    else
      let q := den * 2 ^ 304 / num
      let r := Nat.sqrt q
      if r * r = q ∧ den * 2 ^ 304 % num = 0 then .fin false r (2 ^ 152) else cellVal r

end Sys2Proof.Machine
end

