-- ==== Sys2Proof/Machine/Lanes.lean ====
section
/-! DEFINITION. What the lanes of a Sparge unit compute (R125–R134): operations on elements, reductions, the
conversion of results into an output row, and summary records (R137–R140). -/

namespace Sys2Proof.Machine

/-! ### Fields of a vector instruction (Table 5-11) -/

def vStrict (w : Nat) : Bool := bitAt w 24
def vDir (w : Nat) : Dir := dirOfCode (fld w 25 2)
def vRows (w : Nat) : Nat := fld w 27 16 + 1
def vN (w : Nat) : Nat := fld w 43 10 + 1
def vSummary (w : Nat) : Bool := bitAt w 53
def vSlot (w : Nat) : Nat := fld w 54 3
def vCombine (w : Nat) : Bool := bitAt w 57
def vPred (w : Nat) : Nat := fld w 58 4
def vThreshold (w : Nat) : Nat := fld w 62 5
def vNamedExp (w : Nat) : Bool := bitAt w 67
def vHeadroom (w : Nat) : Nat := fld w 68 6
def vExpReg (w : Nat) : Nat := fld w 74 5
def vOffReg (w : Nat) : Nat := fld w 79 5
def vWide (w : Nat) : Bool := bitAt w 84
def vHeader (w : Nat) : Bool := bitAt w 85
def vRecord (w : Nat) : Nat := fld w 86 20 * 32

/-- Inputs of an operation (Table 4-2). -/
def vArity (op : Nat) : Nat :=
  if op = 0x04 ∨ op = 0x09 ∨ op = 0x0A then 3
  else if op = 0x00 ∨ op = 0x07 ∨ op = 0x08 then 1
  else if op ≤ 0x17 then 2
  else if op = 0x21 ∨ op = 0x35 then 2
  else 1

def isRowRed (op : Nat) : Bool := decide (0x30 ≤ op) && decide (op ≤ 0x32)
def isColRed (op : Nat) : Bool := op == 0x33 || op == 0x34
def isRowCode (f : Fmt) : Bool := decide (f = .q8) || decide (f = .q4)

/-! ### Elements and single operations -/

/-- An element: its exact value, its pattern, and whether a poisoned line takes part in it. -/
structure Elem where
  v : Val
  raw : Nat
  bad : Bool
  deriving DecidableEq, Repr

/-- A result on its way to the output row: its exact value, its pattern where it is already in the output
format, its events, its poison. -/
structure Res where
  v : Val
  raw : Option Nat
  ev : Ev
  bad : Bool
  deriving DecidableEq, Repr

def valEv (v : Val) : Ev := ⟨valIsNan v, valIsInf v, false, false⟩

/-- An input converted to F32 (R125, Table 2-10). -/
def toF32 (strict : Bool) (dir : Dir) (f : Fmt) (v : Val) : Val × Ev :=
  if f = .f32 then (v, valEv v)
  else let r := ffEncode ffF32 strict dir v; (ffDecode ffF32 r.1, r.2)

/-- A result rounded once into F32, with the special results of R127. -/
def roundF32 (strict : Bool) (dir : Dir) (r : Val) (ins : List Val) : Val × Ev :=
  match r with
  | .nan n f => (if strict then .nan n f else .qnan, { Ev.none with nan := true })
  | .inf n =>
    if ins.any valIsInf then (r, Ev.none)
    else if strict then (r, { Ev.none with inf := true })
    else (ffDecode ffF32 (ffSign ffF32 n + (ffInf ffF32 - 1)), { Ev.none with sat := true })
  | _ => let e := ffEncode ffF32 strict dir r; (ffDecode ffF32 e.1, e.2)

/-- The exact value of a function at an F32 value (Table 4-3). -/
def fnVal (op : Nat) (a b : Val) : Val :=
  match op with
  | 0x20 => vDiv (valOfInt 1) a
  | 0x21 => vDiv a b
  | 0x22 => fnSqrt a
  | 0x23 => fnRsqrt a
  | 0x24 => fnExp a
  | 0x25 => fnExp2 a
  | 0x26 => fnLog a
  | 0x27 => fnLog2 a
  | 0x28 => fnTanh a
  | 0x29 => fnSigmoid a
  | 0x2A => fnErf a
  | 0x2B => fnSin a
  | _ => fnCos a

/-- A float operation on F32 values (Table 4-2, R127, R128, R131). -/
def floatOp (op : Nat) (strict : Bool) (dir : Dir) (a b c : Val) : Val × Ev :=
  let bool (t : Bool) : Val × Ev := (valOfInt (if t then 1 else 0), Ev.none)
  match op with
  | 0x01 => roundF32 strict dir (vAdd dir a b) [a, b]
  | 0x02 => roundF32 strict dir (vAdd dir a (match b with | .nan _ _ => b | y => vNeg y)) [a, b]
  | 0x03 => roundF32 strict dir (vMul a b) [a, b]
  | 0x04 => roundF32 strict dir (vFma dir a b c) [a, b, c]
  | 0x05 => (vMin a b, Ev.none)
  | 0x06 => (vMax a b, Ev.none)
  | 0x07 => (vAbs a, Ev.none)
  | 0x08 => (vNeg a, Ev.none)
  | 0x09 => (vMin (vMax a b) c, Ev.none)
  | 0x0A => (if valIsZero c then b else a, Ev.none)
  | 0x0B => bool (vLt b a)
  | 0x0C => bool (!valIsNan a && !valIsNan b && !vLt a b)
  | 0x0D => bool (vEq a b)
  | op => roundF32 strict (if strict then dir else .nearest) (fnVal op a b) (if op = 0x21 then [a, b] else [a])

/-- An integer operation on I32 patterns (R128). -/
def intOp (op a b : Nat) : Int × Bool :=
  let x := toSigned 32 a
  let y := toSigned 32 b
  let sat (v : Int) : Int × Bool :=
    if v < -(2 ^ 31 : Int) then (-(2 ^ 31), true) else if (2 ^ 31 - 1 : Int) < v then (2 ^ 31 - 1, true) else (v, false)
  match op with
  | 0x10 => sat (x + y)
  | 0x11 => sat (x - y)
  | 0x12 => sat (x * y)
  | 0x13 => (toSigned 32 (a &&& b), false)
  | 0x14 => (toSigned 32 (a ||| b), false)
  | 0x15 => (toSigned 32 (a ^^^ b), false)
  | 0x16 => (toSigned 32 (a * 2 ^ (b % 32)), false)
  | _ => (x / ((2 ^ (b % 32) : Nat) : Int), false)

/-- An element converted to X128 for an addition (R41, R126). -/
def toX (strict : Bool) (f : Fmt) (e : Elem) : X128 × Ev :=
  if f = .x128 then (xDecode e.raw, valEv e.v) else xOfVal strict .nearest e.v

/-- An element converted to an I32 pattern (R125). -/
def toI32 (dir : Dir) (f : Fmt) (e : Elem) : Nat × Ev := if f = .i32 then (e.raw % 2 ^ 32, Ev.none) else intEncode 32 dir e.v

/-- One element of an element-wise operation (R125–R128); fs are the input formats, fo the output's. -/
def laneOp (op : Nat) (strict : Bool) (dir : Dir) (fs : List Fmt) (fo : Fmt) (es : List Elem) : Res :=
  let z : Elem := ⟨.zero, 0, false⟩
  let a := es.getD 0 z
  let b := es.getD 1 z
  let c := es.getD 2 z
  let fa := fs.getD 0 .f32
  let fb := fs.getD 1 .f32
  let fc := fs.getD 2 .f32
  let bad := es.any (·.bad)
  if op = 0 then
    ⟨a.v, if fa = fo then some a.raw else none, valEv a.v, bad⟩
  else if (op = 1 ∨ op = 2) ∧ (fa = .x128 ∨ fb = .x128) then
    let x := toX strict fa a
    let y := toX strict fb b
    let r := if op = 1 then xAdd strict x.1 y.1 else xSub strict x.1 y.1
    ⟨xVal r.1, if fo = .x128 then some (xEncode r.1) else none, evOr (evOr x.2 y.2) r.2, bad⟩
  else if 0x10 ≤ op ∧ op ≤ 0x17 then
    let x := toI32 dir fa a
    let y := toI32 dir fb b
    let r := intOp op x.1 y.1
    ⟨valOfInt r.1, none, evOr (evOr x.2 y.2) { Ev.none with sat := r.2 }, bad⟩
  else if (op = 7 ∨ op = 8) ∧ strict = true ∧ fa = .f32 then
    let raw := if op = 7 then a.raw % 2 ^ 31 else a.raw ^^^ 2 ^ 31
    ⟨ffDecode ffF32 raw, if fo = .f32 then some raw else none, valEv a.v, bad⟩
  else
    let x := toF32 strict dir fa a.v
    let y := toF32 strict dir fb b.v
    let t := toF32 strict dir fc c.v
    let n := vArity op
    let r := floatOp op strict dir x.1 y.1 t.1
    let ev := evOr x.2 (evOr (if 2 ≤ n then y.2 else Ev.none) (evOr (if 3 ≤ n then t.2 else Ev.none) r.2))
    ⟨r.1, none, ev, bad⟩

/-! ### Reductions (R133, R134) -/

/-- Combination of two values with their events. -/
def redStep (op : Nat) (strict : Bool) (dir : Dir) (a b : Val × Ev) : Val × Ev :=
  let r := if op = 0x30 ∨ op = 0x33 then roundF32 strict dir (vAdd dir a.1 b.1) [a.1, b.1]
    else if op = 0x32 then (vMin a.1 b.1, Ev.none) else (vMax a.1 b.1, Ev.none)
  (r.1, evOr (evOr a.2 b.2) r.2)

/-- One level of the pairwise tree. -/
def pairUp {α : Type} (f : α → α → α) : List α → List α
  | a :: b :: t => f a b :: pairUp f t
  | l => l

/-- Seven levels over 128 lanes (R133). -/
def tree128 {α : Type} (f : α → α → α) (l : List α) : List α :=
  pairUp f (pairUp f (pairUp f (pairUp f (pairUp f (pairUp f (pairUp f l))))))

/-- A row combined lane-row by lane-row, then in ascending order (R133). -/
def treeRow {α : Type} (f : α → α → α) (idle : α) (l : List α) : Option α :=
  let parts := (List.range (cdiv l.length 128)).filterMap (fun c =>
    let lane := sliceL l (128 * c) 128
    (tree128 f (lane ++ List.replicate (128 - lane.length) idle)).head?)
  match parts with
  | [] => none
  | p :: t => some (t.foldl f p)
where
  sliceL (l : List α) (o n : Nat) : List α := (l.drop o).take n

/-- What an idle lane contributes (R133). -/
def redIdle (op : Nat) : Val := if op = 0x30 then .zero else .inf (decide (op = 0x31))

/-- A row reduction of one logical row (R133). -/
def rowReduce (op : Nat) (strict : Bool) (dir : Dir) (fa fo : Fmt) (es : List Elem) : Res :=
  let bad := es.any (·.bad)
  if op = 0x30 ∧ fa = .x128 ∧ fo = .x128 then
    let f (a b : X128 × Ev) : X128 × Ev := let r := xAdd strict a.1 b.1; (r.1, evOr (evOr a.2 b.2) r.2)
    let r := (treeRow f (.exact 0, Ev.none) (es.map (toX strict fa))).getD (.exact 0, Ev.none)
    ⟨xVal r.1, some (xEncode r.1), r.2, bad⟩
  else
    let r := (treeRow (redStep op strict dir) (redIdle op, Ev.none) (es.map (fun e => toF32 strict dir fa e.v))).getD
      (.zero, Ev.none)
    ⟨r.1, none, r.2, bad⟩

/-- One lane of a column reduction over its elements in row order (R134). The reduction's poison is that of the whole
result (R143), which the caller marks. -/
def colReduce (op : Nat) (strict : Bool) (dir : Dir) (fa fo : Fmt) (es : List Elem) : Res :=
  let bad := es.any (·.bad)
  if op = 0x33 ∧ fo = .x128 then
    let r := es.foldl (fun (t : X128 × Ev) e =>
      let x := toX strict fa e
      let y := xAdd strict t.1 x.1
      (y.1, evOr (evOr t.2 x.2) y.2)) (.exact 0, Ev.none)
    ⟨xVal r.1, some (xEncode r.1), r.2, bad⟩
  else
    let r := es.foldl (fun t e => redStep op strict dir t (toF32 strict dir fa e.v))
      (if op = 0x33 then .zero else .inf true, Ev.none)
    ⟨r.1, none, r.2, bad⟩

/-! ### Output rows (R58–R60, R47–R49, Table 2-10) -/

/-- An output element as the summary sees it: its exact value, its events, its poison. -/
structure OutEl where
  v : Val
  ev : Ev
  bad : Bool
  deriving DecidableEq, Repr

/-- A piece of an output row: offset in the row, bytes, which bytes derive from a poisoned line, its
elements and the exponent codes of its non-zero S64 blocks. -/
structure Piece where
  off : Nat
  bytes : List Byte
  bads : List Bool
  els : List OutEl
  exps : List Nat
  deriving DecidableEq, Repr

/-- Byte lists of patterns of a width below a byte or of whole bytes (R31); the upper half of an odd last byte keeps its
old bits, the model's choice (log entry 46). -/
def packBits (bits : Nat) (keep : Nat) (ps : List Nat) : List Byte :=
  if bits = 4 then
    (List.range (cdiv ps.length 2)).map (fun i =>
      BitVec.ofNat 8 (ps.getD (2 * i) 0 % 16 + 16 * ((ps.getD (2 * i + 1) keep) % 16)))
  else ps.flatMap (natLE (bits / 8))

/-- A lane-row in a format of one pattern per element. -/
def plainPiece (fo : Fmt) (strict : Bool) (dir : Dir) (keep c : Nat) (rs : List Res) : Piece :=
  let xs := rs.map (fun r => match r.raw with
    | some p => (p, Ev.none)
    | none => elemEncode fo strict dir r.v)
  let bits := fmtBits fo
  { off := 128 * c * bits / 8
    bytes := packBits bits keep (xs.map Prod.fst)
    bads := (List.range (cdiv (rs.length * bits) 8)).map (fun i =>
      (List.range rs.length).any (fun j => decide (8 * i < (j + 1) * bits ∧ j * bits < 8 * i + 8)
        && ((rs.map (·.bad)).getD j false)))
    els := (List.zip rs xs).map (fun p => ⟨elemVal fo p.2.1, evOr p.1.ev p.2.2, p.1.bad⟩)
    exps := [] }

/-- Blocks with the events and poison of their elements, as a piece. Only the first n elements count in a
summary. A block's header derives from all its elements (R49), and so does every element where the
exponent does. -/
def blkPiece (off n : Nat) (bs : List (Blk × List Ev × List Bool)) : Piece :=
  { off := off
    bytes := bs.flatMap (fun b => blkEncode b.1)
    bads := bs.flatMap (fun b => List.replicate 8 (b.2.2.any id) ++
      (List.range 64).flatMap (fun i => List.replicate (if b.1.wide then 16 else 8) (b.2.2.getD i false)))
    els := ((bs.flatMap (fun b => (List.range 64).map (fun i =>
      (⟨(blkVals b.1).getD i .zero, b.2.1.getD i Ev.none, b.2.2.getD i false⟩ : OutEl)))).take n)
    exps := (bs.map (fun b => b.1.exp)).filter (fun e => decide (e ≠ 0xFFFF)) }

/-- 64 results converted into a block at a named or derived exponent (R47–R49). -/
def resBlock (w expv : Nat) (rs : List Res) : Blk × List Ev × List Bool :=
  let vs := rs.map (·.v)
  let code := if vNamedExp w then expv % 2 ^ 16 else blkDerive (vDir w) (vHeadroom w) vs
  let r := blkOfVals (vWide w) (vDir w) code 1 vs
  let any := !vNamedExp w && rs.any (·.bad)
  (r.1, List.zipWith evOr (rs.map (·.ev)) r.2, rs.map (fun x => x.bad || any))

/-- A row of a row code with the header the instruction names (R58–R60), one piece per lane-row. -/
def rowPiece (fo : Fmt) (w scale offset : Nat) (rs : List Res) : List Piece :=
  let vs := rs.map (·.v)
  let q := if vHeader w then quantExplicit fo (vDir w) (scale % 2 ^ 16) (offset % 2 ^ 16) vs
    else quantDerived fo (vStrict w) vs
  codePieces fo q.1 (List.zipWith evOr (rs.map (·.ev)) q.2)
    (rs.map (fun r => r.bad || (!vHeader w && rs.any (·.bad)))) (!vHeader w && rs.any (·.bad))
where
  /-- the lane-rows of a row code, its header poisoned or not: the header goes with the first, the padding with the last -/
  codePieces (fo : Fmt) (bytes : List Byte) (evs : List Ev) (bads : List Bool) (head : Bool) : List Piece :=
    let n := bads.length
    let vals := rowVals fo n bytes
    let marks := (List.range bytes.length).map (fun i =>
        if i < 4 then head
        else if fo = .q4 then bads.getD (2 * (i - 4)) head || bads.getD (2 * (i - 4) + 1) head
        else bads.getD (i - 4) head)
    let els : List OutEl := (List.range n).map (fun i => ⟨vals.getD i .zero, evs.getD i Ev.none, bads.getD i false⟩)
    let per := if fo = .q4 then 64 else 128
    let m := cdiv n 128
    (List.range m).map (fun c =>
      let lo := if c = 0 then 0 else 4 + per * c
      let hi := if c + 1 = m then bytes.length else 4 + per * (c + 1)
      { off := lo, bytes := (bytes.drop lo).take (hi - lo), bads := (marks.drop lo).take (hi - lo)
        els := (els.drop (128 * c)).take 128, exps := [] })

/-- A list cut into pieces of n. -/
def chunks {α : Type} (n : Nat) (l : List α) : List (List α) :=
  (List.range (cdiv l.length n)).map (fun i => (l.drop (n * i)).take n)

/-- The pieces of an output row, one per lane-row. expv and offv are the
exponent or scale register and the offset register; rs are the results from lane-row c0 on (all of them for a row code). -/
def layRow (fo : Fmt) (w expv offv keep c0 : Nat) (rs : List Res) : List Piece :=
  if isRowCode fo then rowPiece fo w expv offv rs
  else if fo = .s64 then
    (List.zip (List.range (cdiv rs.length 128)) (chunks 128 rs)).map (fun p =>
      blkPiece (2 * (c0 + p.1) * blkSize (vWide w)) p.2.length ((chunks 64 p.2).map (resBlock w expv)))
  else (List.zip (List.range (cdiv rs.length 128)) (chunks 128 rs)).map (fun p =>
      plainPiece fo (vStrict w) (vDir w) keep (c0 + p.1) p.2)

/-- A row code copied into its own format, or Q4 widened to Q8 (Table 2-10): header and codes as they are, padding and
the unused half of the last byte zero (R32). -/
def copyCode (fi fo : Fmt) (n : Nat) (bytes : List Byte) (bads : List Bool) (head : Bool) : List Piece :=
  let out := rowCodeBytes fo (fieldB bytes 0 2) (fieldB bytes 2 2) ((List.range n).map (codeAt fi bytes))
  rowPiece.codePieces fo out ((rowVals fi n bytes).map valEv) (bads.take n) head

/-! ### Summaries (R137–R140) -/

/-- A summary predicate on the exact value of an output element (Table 4-6, R138). -/
def sumPred (code : Nat) (thr v : Val) : Bool :=
  match code with
  | 1 => valIsNan v
  | 2 => valIsInf v
  | 3 => valIsNan v || valIsInf v
  | 4 => vLt thr (vAbs v)
  | 5 => vLt thr v
  | 6 => vLt v thr
  | 7 => vEq v thr
  | 8 => !valIsZero v
  | _ => false

/-- Magnitude in F32 rounded toward +infinity (Table 4-7). -/
def magUp (v : Val) : Nat := if valIsFin v then (ffEncode ffF32 true .up (vAbs v)).1 else 0

/-- s64_emax of two records, 0xFFFF the smallest (R140). -/
def emaxOf (a b : Nat) : Nat := if a = 0xFFFF then b else if b = 0xFFFF then a else max a b

/-- One output element counted; a poisoned one is left out (R64, R137, R138). -/
def sumElem (pred : Nat) (thr : Val) (r : Summary) (e : OutEl) : Summary :=
  let one (b : Bool) : Nat := if b then 1 else 0
  if e.bad then r else
    let t := sumPred pred thr e.v
    { r with
      nan := satAdd32 r.nan (one e.ev.nan), inf := satAdd32 r.inf (one e.ev.inf)
      sat := satAdd32 r.sat (one e.ev.sat), lost := satAdd32 r.lost (one e.ev.lost)
      maxMag := max r.maxMag (magUp e.v), elems := satAdd32 r.elems 1
      any := r.any || t, all := r.all && t }

/-- Poisoned lane-rows of a piece. -/
def piecePoison (p : Piece) : Nat := ((chunks 128 p.els).filter (fun l => l.any (·.bad))).length

/-- A piece counted in the record being built (R139). -/
def sumPiece (pred : Nat) (thr : Val) (r : Summary) (p : Piece) : Summary :=
  let r := p.els.foldl (sumElem pred thr) r
  { r with emax := p.exps.foldl emaxOf r.emax, poisonRows := satAdd32 r.poisonRows (piecePoison p) }

/-- A record as published: predicate 0 makes any and all 0 (Table 4-6). -/
def sumFinal (pred : Nat) (r : Summary) : Summary := if pred = 0 then { r with any := false, all := false } else r

/-- A record merged into a slot (R140). -/
def sumMerge (old new : Summary) : Summary :=
  { nan := satAdd32 old.nan new.nan, inf := satAdd32 old.inf new.inf, sat := satAdd32 old.sat new.sat
    lost := satAdd32 old.lost new.lost, maxMag := max old.maxMag new.maxMag, elems := satAdd32 old.elems new.elems
    emax := emaxOf old.emax new.emax, any := old.any || new.any, all := old.all && new.all
    poisonRows := satAdd32 old.poisonRows new.poisonRows }

end Sys2Proof.Machine
end

