-- ==== Sys2Proof/Machine/CollPlan.lean ====
section
/-! DEFINITION. Collective descriptors, groups, rings, stand-ins, chunks, and the plan of ring steps of
each operation (R307–R317, R321–R324). -/

namespace Sys2Proof.Machine

/-! ### The descriptor (Table 9-1) -/

def cOp (b : List Byte) : Nat := fieldB b 0 1 % 16
def cAxes (b : List Byte) : Nat := fieldB b 1 1
def cFunc (b : List Byte) : Nat := fld (fieldB b 2 1) 0 2
def cExact (b : List Byte) : Bool := bitAt (fieldB b 2 1) 2
def cWide (b : List Byte) : Bool := bitAt (fieldB b 2 1) 3
def cMean (b : List Byte) : Bool := bitAt (fieldB b 2 1) 4
def cStrict (b : List Byte) : Bool := bitAt (fieldB b 2 1) 5
def cDrop (b : List Byte) : Bool := bitAt (fieldB b 2 1) 6
def cSrcFmt (b : List Byte) : Fmt := (fmtOfCode (fld (fieldB b 3 1) 0 4)).getD .f32
def cOutFmt (b : List Byte) : Fmt := (fmtOfCode (fld (fieldB b 3 1) 4 4)).getD .f32
def cHead (b : List Byte) : Nat := fld (fieldB b 4 1) 0 6
def cOffset (b : List Byte) : Int := toSigned 8 (fieldB b 5 1)
def cTag (b : List Byte) : Nat := fieldB b 6 2 % 64
def cRoot (b : List Byte) : Nat := fieldB b 8 4 % 2 ^ 20
def cContrib (b : List Byte) : Nat := fieldB b 12 4
def cSrc (b : List Byte) : Nat := fieldB b 16 6
def cDst (b : List Byte) : Nat := fieldB b 24 6
def cCount (b : List Byte) : Nat := fieldB b 32 5
def cStep (b : List Byte) : Nat := fieldB b 36 4
def cFlags (b : List Byte) : Nat := fieldB b 32 4
def cSummary (b : List Byte) : Nat := fieldB b 56 6
/-- all-reduce, reduce-scatter, reduce -/
def cReduces (b : List Byte) : Bool := cOp b == 0 || cOp b == 1 || cOp b == 4
/-- transport in S64 blocks -/
def cBlocks (b : List Byte) : Bool := cReduces b && (cExact b || cSrcFmt b == .s64)

/-- The axes of the set in ascending order. -/
def cAxisList (b : List Byte) : List Nat := (List.range 4).filter (fun k => bitAt (cAxes b) k)

/-- Function, options and formats a reduction may combine (Table 9-3, R315). -/
def comboOk (b : List Byte) : Bool :=
  let src := cSrcFmt b
  let out := cOutFmt b
  if cFunc b = 0 ∧ cExact b = true then
    (src == .f32 || src == .f16 || src == .b16 || src == .x128 || src == .s64)
      && (out == .s64 || out == .x128 || out == .f32 || out == .f16 || out == .b16)
      && !(cMean b && out == .s64)
  else if cExact b ∨ cMean b ∨ cWide b then false
  else if cFunc b = 0 then src == out && (src == .s64 || src == .f32 || src == .i32)
  else src == out && (src == .f32 || src == .f16 || src == .b16 || src == .i32)

/-- A descriptor that ends with status 2 (R7, R311, R312, R315): bd is the engine that was given it. -/
def collBad (bd : Nat) (b : List Byte) : Bool :=
  let op := cOp b
  let n := (cAxisList b).length
  decide (8 < op) || decide (16 ≤ fieldB b 0 1) || decide (16 ≤ cAxes b)
    || (decide (op ≠ 6) && decide (n = 0)) || ((op == 1 || op == 2 || op == 5) && decide (n ≠ 1))
    || (decide (op ≠ 6 ∧ op ≠ 8) && decide ((cAxisList b).head? ≠ some bd))
    || bitAt (fieldB b 2 1) 7 || decide (cFunc b = 3)
    || (fmtOfCode (fld (fieldB b 3 1) 0 4)).isNone || (fmtOfCode (fld (fieldB b 3 1) 4 4)).isNone
    || decide (63 ≤ fieldB b 4 1) || (if op = 5 then decide (fieldB b 5 1 = 0) else decide (fieldB b 5 1 ≠ 0))
    || decide (2 ^ 20 ≤ fieldB b 8 4) || decide (fieldB b 22 2 ≠ 0) || decide (fieldB b 30 2 ≠ 0)
    || decide (fieldB b 46 2 ≠ 0) || decide (16 < fieldB b 48 1) || decide (fieldB b 49 7 ≠ 0) || decide (fieldB b 62 2 ≠ 0)
    || (decide (op ≠ 7 ∧ op ≠ 8) && (decide (fieldB b 37 3 ≠ 0) || decide (cCount b = 0)))
    || ((cReduces b || op == 7) && decide (cContrib b = 0)) || (cReduces b && !comboOk b)

/-! ### Groups, rings and stand-ins (R307–R310) -/

/-- Who takes part: the routing table of the inject epoch, the excluded coordinates, the axes. -/
structure Group where
  t : RTable
  excl : List Nat
  axes : List Nat
  deriving DecidableEq, Repr

def State.cTable (s : State) : RTable := (s.table s.injectEpoch).getD .empty

def State.groupOf (s : State) (b : List Byte) (excl : List Nat) : Group := ⟨s.cTable, excl, cAxisList b⟩

/-- The lowest axis of the set. -/
def Group.low (g : Group) : Nat := g.axes.headD 0

def Group.live (g : Group) (c : Nat) : Bool := !g.excl.contains c

/-- The coordinates of the axis ring of a coordinate, by position. -/
def Group.ring (g : Group) (c axis : Nat) : List Nat := (List.range (g.t.extent axis)).map (setAxis c axis)

/-- The stand-in of an excluded device: the next live one in the + direction of the lowest axis (R309). -/
def Group.player (g : Group) (c : Nat) : Nat :=
  if g.live c then c
  else
    let x := g.t.extent g.low
    match (List.range x).find? (fun j => g.live (setAxis c g.low ((coordAxis c g.low + 1 + j) % x))) with
    | some j => setAxis c g.low ((coordAxis c g.low + 1 + j) % x)
    | none => c

/-- The live ring of the device on the lowest axis, in ascending position (R309). -/
def Group.liveRing (g : Group) : List Nat := (g.ring g.t.self g.low).filter g.live

/-- An excluded coordinate lies in the device's group (R307). -/
def Group.has (g : Group) (c : Nat) : Bool :=
  (List.range 4).all (fun k => g.axes.contains k || coordAxis c k == coordAxis g.t.self k)

/-- Some ring of the lowest axis has no live member (R310). -/
def Group.empty (g : Group) : Bool :=
  g.excl.any (fun e => g.has e && (g.ring e g.low).all (fun c => !g.live c))

/-- The coordinates whose roles the device plays in later stages, itself among them (R309). -/
def Group.roles (g : Group) : List Nat :=
  sortBy (fun x y => decide (x < y)) (g.t.self :: (g.excl.filter (fun e => g.has e && e != g.t.self && g.player e == g.t.self)).eraseDups)

/-! ### Chunks (R314) -/

/-- Chunk j of a list of units on an axis of extent x. -/
def chunkOf (l : List Nat) (x j : Nat) : List Nat := (l.drop (j * cdiv l.length x)).take (cdiv l.length x)

/-- The units the role of a coordinate holds after the stages on the axes given. -/
def Group.held (g : Group) (c : Nat) : List Nat → List Nat → List Nat
  | [], l => l
  | k :: ks, l => g.held c ks (chunkOf l (g.t.extent k) (coordAxis c k))

/-- The share of live member m on the lowest axis: its chunk and those it holds as a stand-in, in order. -/
def Group.share (g : Group) (l : List Nat) (m : Nat) : List Nat :=
  (g.ring g.t.self g.low).flatMap (fun c =>
    if g.player c = m then chunkOf l (g.t.extent g.low) (coordAxis c g.low) else [])

/-! ### Ring steps (R323, R325; the division between directions is log entry 16) -/

/-- One ring as its player sees it: players by position, own place, the share of each place. -/
structure Ring1 where
  ps : List Nat
  me : Nat
  shares : List (List Nat)
  deriving DecidableEq, Repr

def Ring1.p (r : Ring1) (i : Nat) : Nat := r.ps.getD (i % r.ps.length) 0
def Ring1.sh (r : Ring1) (i : Nat) : List Nat := r.shares.getD (i % r.ps.length) []
/-- the half of a share that travels toward the successor (0) or the predecessor (1) -/
def halfOf (dir : Nat) (l : List Nat) : List Nat := if dir = 0 then l.take (cdiv l.length 2) else l.drop (cdiv l.length 2)
/-- the place n places along in a direction -/
def Ring1.at (r : Ring1) (dir n : Nat) : Nat := if dir = 0 then r.me + n else r.me + n * (r.ps.length - 1)

/-- The rings of a stage that the device plays in, one per role; the live ring on the lowest axis. -/
def Group.rings (g : Group) (i : Nat) (l : List Nat) : List Ring1 :=
  let axis := g.axes.getD i 0
  if i = 0 then
    let ps := g.liveRing
    [⟨ps, ps.idxOf g.t.self, ps.map (g.share l)⟩]
  else g.roles.map (fun c =>
    let h := g.held c (g.axes.take i) l
    let x := g.t.extent axis
    ⟨(g.ring c axis).map g.player, coordAxis c axis, (List.range x).map (chunkOf h x)⟩)

/-- Step t of a reduction on the rings of a stage: a share travels from the place after its holder round to it. -/
def reduceStep (rs : List Ring1) (axis phase : Nat) (exps : Bool) (t : Nat) : List CMove :=
  let n (r : Ring1) : Nat := r.ps.length
  rs.flatMap (fun r => [0, 1].map (fun d =>
      CMove.send (r.p (r.at d 1)) axis d phase (halfOf d (r.sh (r.at d (2 * n r - 1 - t)))) exps))
    ++ rs.flatMap (fun r => [0, 1].map (fun d =>
      CMove.recv (r.p (r.at d (n r - 1))) axis d phase (halfOf d (r.sh (r.at d (2 * n r - 2 - t)))) exps true))

/-- Step t of a gathering: a share travels from its holder round the ring. -/
def gatherStep (rs : List Ring1) (axis phase : Nat) (exps : Bool) (t : Nat) : List CMove :=
  let n (r : Ring1) : Nat := r.ps.length
  rs.flatMap (fun r => [0, 1].map (fun d =>
      CMove.send (r.p (r.at d 1)) axis d phase (halfOf d (r.sh (r.at d (2 * n r - t)))) exps))
    ++ rs.flatMap (fun r => [0, 1].map (fun d =>
      CMove.recv (r.p (r.at d (n r - 1))) axis d phase (halfOf d (r.sh (r.at d (2 * n r - 1 - t)))) exps false))

/-- The steps of a stage: one fewer than the ring's players. -/
def stageSteps (rs : List Ring1) (f : Nat → List CMove) : List CMove :=
  (List.range ((rs.headD ⟨[], 0, []⟩).ps.length - 1)).flatMap f

/-- Reducing stages in ascending axis order (R321). -/
def Group.reduceAll (g : Group) (l : List Nat) (phase : Nat) (exps : Bool) : List CMove :=
  (List.range g.axes.length).flatMap (fun i =>
    stageSteps (g.rings i l) (reduceStep (g.rings i l) (g.axes.getD i 0) phase exps))

/-- Gathering stages in descending axis order (R321). -/
def Group.gatherAll (g : Group) (l : List Nat) (phase : Nat) (exps : Bool) : List CMove :=
  (List.range g.axes.length).reverse.flatMap (fun i =>
    stageSteps (g.rings i l) (gatherStep (g.rings i l) (g.axes.getD i 0) phase exps))

/-- The roles of a coordinate tree rooted at root take part in stage i: their lower components are the root's. -/
def Group.onTree (g : Group) (root c i : Nat) : Bool :=
  (g.axes.take i).all (fun k => coordAxis c k == coordAxis root k)

/-- One broadcast stage for a role's ring: each half passes from the root's place round to the place before it. -/
def castSteps (r : Ring1) (rootPos axis : Nat) (l : List Nat) : List CMove :=
  let n := r.ps.length
  [0, 1].flatMap (fun d =>
    let last := if d = 0 then (rootPos + n - 1) % n else (rootPos + 1) % n
    (if r.me ≠ rootPos then [CMove.recv (r.p (r.at d (n - 1))) axis d 2 (halfOf d l) false false] else [])
      ++ (if r.me ≠ last then [CMove.send (r.p (r.at d 1)) axis d 2 (halfOf d l) false] else []))

/-- The root's place on the lowest axis's live ring: the root or its stand-in (R309). -/
def Group.rootPlace (g : Group) (root : Nat) : Nat :=
  g.liveRing.idxOf (g.player (setAxis g.t.self g.low (coordAxis root g.low)))

/-- Broadcast stages in descending axis order (R321). -/
def Group.castAll (g : Group) (root : Nat) (l : List Nat) : List CMove :=
  (List.range g.axes.length).reverse.flatMap (fun i =>
    let axis := g.axes.getD i 0
    if i = 0 then
      match g.rings 0 l with
      | r :: _ => if 1 < r.ps.length then castSteps r (g.rootPlace root) axis l else []
      | [] => []
    else (g.roles.filter (fun c => g.onTree root c i)).flatMap (fun c =>
      if 1 < g.t.extent axis then
        castSteps ⟨(g.ring c axis).map g.player, coordAxis c axis, []⟩ (coordAxis root axis) axis l
      else []))

/-- The device plays the global root (R309, R327). -/
def Group.isRoot (g : Group) (root : Nat) : Bool :=
  g.roles.any (fun c => g.axes.all (fun k => coordAxis c k == coordAxis root k)
    && (g.live c || g.player c == g.t.self))

/-- A shift: the whole source to the live member s places along (Table 9-2). -/
def Group.shiftMoves (g : Group) (off : Int) (l : List Nat) : List CMove :=
  let ps := g.liveRing
  let n := ps.length
  let me := ps.idxOf g.t.self
  let dst := ps.getD (((me : Int) + off) % (n : Int)).toNat 0
  let src := ps.getD (((me : Int) - off) % (n : Int)).toNat 0
  let d := if off < 0 then 1 else 0
  if dst = g.t.self then [] else [.send dst g.low d 2 l false, .recv src g.low d 2 l false false]

/-- The neighbours of a coordinate ring's player: successor with direction 0, predecessor with direction 1. -/
def Ring1.neighbours (r : Ring1) (axis : Nat) : List (Nat × Nat × Nat) :=
  if r.ps.length < 2 then [] else [(axis, r.p (r.at 0 1), 0), (axis, r.p (r.at 1 1), 1)]

/-- Successor and predecessor on every ring in which the device takes part (R324, R326). -/
def Group.neighbours (g : Group) (b : List Byte) : List (Nat × Nat × Nat) :=
  if cOp b = 6 ∨ cOp b = 8 then []
  else (List.range g.axes.length).flatMap (fun i =>
    let axis := g.axes.getD i 0
    if i = 0 then (g.rings 0 []).flatMap (fun r => r.neighbours axis)
    else (g.roles.filter (fun c => !(cOp b == 3 || cOp b == 7) || g.onTree (cRoot b) c i)).flatMap (fun c =>
      (Ring1.mk ((g.ring c axis).map g.player) (coordAxis c axis) []).neighbours axis))

/-! ### The pitch tree (R327) -/

/-- The role of the device at stage i of a tree, the components below it the root's. -/
def Group.stageRole (g : Group) (root i : Nat) : Nat := (g.axes.take i).foldl (fun c k => setAxis c k (coordAxis root k)) g.t.self

/-- The device that plays the root of the device's ring at stage i. -/
def Group.stageRoot (g : Group) (root i : Nat) : Nat :=
  let axis := g.axes.getD i 0
  g.player (setAxis (g.stageRole root i) axis (coordAxis root axis))

/-- The other players of the ring whose root the device is at stage i. -/
def Group.children (g : Group) (root i : Nat) : List Nat :=
  let axis := g.axes.getD i 0
  let ps := if i = 0 then g.liveRing else (g.ring (g.stageRole root i) axis).map g.player
  ps.filter (· ≠ g.t.self)

/-- Stages, from the first, of whose ring the device is the root. -/
def Group.rootLevels (g : Group) (root : Nat) : Nat :=
  ((List.range g.axes.length).takeWhile (fun i => g.stageRoot root i == g.t.self)).length

/-- Where the device passes a release or notice: axis and coordinate, later stages first (R321, R328). -/
def Group.down (g : Group) (root levels : Nat) : List (Nat × Nat) :=
  (List.range levels).reverse.flatMap (fun i => (g.children root i).map (fun c => (g.axes.getD i 0, c)))

end Sys2Proof.Machine
end

