-- ==== Sys2Proof/Machine/Estimate.lean ====
section
/-! DEFINITION. Raw estimates of instructions, and admission (R413–R416, Table 12-3). -/

namespace Sys2Proof.Machine

/-- Entry i of the estimate table in force (R413). -/
def State.e (s : State) (i : Nat) : Nat := s.led.est.getD i 0

/-- The quadrant an address lies in, none for a host window or an unmapped address. -/
def State.quadAt (s : State) (a : Nat) : Option Nat := (s.loc a).map quadOf

/-- c(a): cost per byte of the memory an address names, with a mesh crossing for another quadrant's stacks (R414). -/
def State.cost (s : State) (quad a : Nat) : Nat :=
  match s.loc a with
  | none => if (s.hostAddr a).isSome then s.e 17 else 0
  | some l =>
    let base := match stackOf l with
      | some j => if j < 48 then s.e 10 else s.e 11
      | none => if (winDie l).isSome then s.e 9 else s.e 12
    base + (if (stackOf l).isSome ∧ quadOf l ≠ quad then s.e 13 else 0)

/-- K and N of the charge a pass meets: of the load its logical Tun holds or has pending. -/
def Die.passKN (d : Die) (unit : Nat) (swap : Bool) : Nat × Nat :=
  let l := d.logical[unit % 12]'(Nat.mod_lt _ (by decide))
  let id := if swap then l.pend.getD l.cur else l.cur
  match d.loads.find? (fun x => x.1 == id) with
  | some (_, r) => (ldK r.w, ldN r.w)
  | none => (128, 128)

/-- Bytes of an accumulator image of a tile (Table 12-3). -/
def tileImage : Nat := 262144

/-- Raw estimate of a tile instruction (Table 12-3). -/
def State.estTile (s : State) (cd : Cd) (w : Nat) : Nat :=
  let d := s.die cd
  let m := fld w 32 7 + 1
  let mode := fld w 24 3
  let bytes := if modeFmt mode = .f32 then 4 else 2
  match iOp w with
  | 0 => ldK w * ldN w * s.e 5
  | 1 =>
    let kn := d.passKN (fld w 20 4) (bitAt w 28)
    let c := if mode = 0 then s.e 0 else if mode = 1 then s.e 1 else if mode = 2 then s.e 2 else 16 * s.e 3
    m * kn.1 * kn.2 * c + m * kn.1 * bytes * s.e 9
  | 2 => m * (if bytes = 2 then 128 else 64) * (s.e 4 + 2 * bytes * s.e 9)
  | 3 => tileImage * (s.e 9 + s.cost (cd.val / 3) (d.getA (fld w 62 4)).toNat)
  | _ => tileImage * s.e 9

/-- Bytes of operand SRAM that entry i of a stream record names, over all rows. -/
def streamBytes (e rows n : Nat) (wideOut : Bool) : Nat :=
  if fld e 0 3 ≠ 1 then 0
  else rows * (match fmtOfCode (fld e 3 4) with
    | some .s64 => cdiv n 64 * blkSize wideOut
    | some f => if f = .q8 ∨ f = .q4 then rowBytes f n else cdiv ((if bitAt e 7 then n else 1) * fmtBits f) 8
    | none => 0)

/-- Inputs of a Sparge operation (Table 4-2). -/
def opInputs (op : Nat) : Nat :=
  if op = 0x04 ∨ op = 0x09 ∨ op = 0x0A then 3
  else if op = 0x00 ∨ op = 0x07 ∨ op = 0x08 ∨ (0x20 ≤ op ∧ op ≠ 0x21 ∧ op ≤ 0x34) then 1 else 2

/-- Raw estimate of a vector instruction: its class and mode, and the operand SRAM bytes it reads and writes. -/
def State.estVec (s : State) (cd : Cd) (w : Nat) : Nat :=
  let op := iOp w
  let rows := fld w 27 16 + 1
  let n := fld w 43 10 + 1
  let r := s.sram cd (fld w 86 20 * 32) 64
  let e := if 0x20 ≤ op ∧ op ≤ 0x2C then (if bitAt w 24 then s.e 8 else s.e 7) else s.e 6
  let ins := (List.range (opInputs op)).foldl (fun t i => t + streamBytes (fieldB r (16 * i) 16) rows n false) 0
  let out := streamBytes (fieldB r 48 16) (if 0x30 ≤ op ∧ op ≤ 0x34 then 1 else rows)
    (if 0x30 ≤ op ∧ op ≤ 0x32 then rows else n) (bitAt w 84)
  rows * n * e + (ins + out) * s.e 9

/-- Raw estimate of a movement instruction (Table 12-3): copy of both sides, put and get with the link. -/
def State.estMove (s : State) (cd : Cd) (w : Nat) : Nat :=
  let d := s.die cd
  let q := cd.val / 3
  let bytes := fld w 34 24 * (fld w 58 16 + 1)
  let cd0 := s.cost q (d.getA (fld w 20 4)).toNat
  let cs := s.cost q (d.getA (fld w 24 4)).toNat
  bytes * (cd0 + cs + (if iOp w = 0 then 0 else s.e 14))

/-- Raw estimate of a DMA descriptor issued in a quadrant. -/
def State.estDma (s : State) (q : Nat) (b : List Byte) : Nat :=
  fieldB b 24 3 * (fieldB b 28 2 + 1) * (s.cost q (fieldB b 8 6) + s.cost q (fieldB b 16 6))

/-- Bytes of a collective's source in transport form (Table 12-3, R315). -/
def collSrcBytes (b : List Byte) : Nat :=
  let op := fieldB b 0 1 % 16
  let count := fieldB b 32 5
  let red := fieldB b 2 1
  if op = 7 ∨ op = 8 then 0
  else if op = 0 ∨ op = 1 ∨ op = 4 then
    if bitAt red 2 ∨ fieldB b 3 1 % 16 = 10 then cdiv count 64 * blkSize (bitAt red 3)
    else count * (if fieldB b 3 1 % 16 = 1 ∨ fieldB b 3 1 % 16 = 2 then 2 else 4)
  else count

/-- Raw estimate of a collective descriptor (Table 12-3). -/
def State.estColl (s : State) (q : Nat) (b : List Byte) : Nat :=
  let axes := ((List.range 4).filter (fun k => bitAt (fieldB b 1 1) k)).length
  collSrcBytes b * axes * (2 * s.cost q (fieldB b 16 6) + s.e 14)

/-- Whether an id of a list is valid for a table (R236). -/
def idValid (rowCount id : Nat) : Bool := decide (id < 2 ^ 40) && decide (id < rowCount)

/-- The address of a table's record (R228). -/
def State.recordAddr (s : State) (table : Nat) (mirror : Bool) : Nat :=
  s.regPair (if mirror then 0x6008 else 0x6000) % 2 ^ 48 + 128 * (table % 4096)

/-- Raw estimate of a grist descriptor (Table 12-3). -/
def State.estGrist (s : State) (b : List Byte) : Nat :=
  let cmd := fieldB b 0 1 % 16
  let r := s.bytes (s.recordAddr (fieldB b 2 2 % 4096) (bitAt (fieldB b 1 1) 4)) 128
  let n := 16 * (fld (fieldB r 2 1) 0 6 + 1)
  let count := fieldB b 8 4
  let total := if fld (fieldB b 1 1) 1 3 = 3 ∧ cmd = 1 then count
    else (s.num (fieldB b 24 6 + 4 * count) 4) - (s.num (fieldB b 24 6) 4)
  let ids := ((List.range total).filter (fun i => idValid (fieldB r 8 8) (s.num (fieldB b 16 6 + 8 * i) 8))).length
  if cmd = 0 then ids * n * s.e 15
  else if cmd = 1 then ids * n * s.e 16
  else if cmd = 2 then 2 ^ (min (fieldB r 80 1) 24) * n * s.e 15
  else 0

/-- Raw estimate of a helper instruction, from its descriptor. -/
def State.estHelper (s : State) (cd : Cd) (w : Nat) : Nat :=
  let b := s.bytes ((s.die cd).getA (fld w 22 4)).toNat 64
  match iOp w with
  | 0 => s.estDma (cd.val / 3) b
  | 1 => s.estColl (cd.val / 3) b
  | _ => s.estGrist b

/-- The raw estimate of an instruction (R414). -/
def State.estOf (s : State) (cd : Cd) (w : Nat) : Nat :=
  match iCls w with
  | 2 => s.estTile cd w
  | 3 => s.estVec cd w
  | 4 => s.estMove cd w
  | 6 => s.estHelper cd w
  | _ => 0

/-- corr_k × estimate / 1,024 (R416). -/
def State.corrected12 (s : State) (q est : Nat) : Int := ((est * s.led.corr[q % 4]'(Nat.mod_lt _ (by decide)) / 1024 : Nat) : Int)

/-- A number added to an element of a vector. -/
def vecAdd {n : Nat} (v : Vector Nat n) (i : Fin n) (x : Nat) : Vector Nat n := v.set i (v[i] + x)

/-- Raw estimates admitted, and corrected estimates debited, in the gyle (R418, R422). -/
def LedSt.addAdmitted (l : LedSt) (q : Fin 4) (est : Nat) : LedSt :=
  { l with admitted := vecAdd l.admitted q est, spent := vecAdd l.spent q (est * l.corr[q] / 1024) }

/-- An estimate debited from a die's counter (R416). -/
def State.debit (s : State) (cd : Cd) (est : Nat) : State :=
  { s with led := { (s.led.addAdmitted (fabBd (cd.val / 3)) est) with
    credit := s.led.credit.set cd (s.led.credit[cd] - s.corrected12 (cd.val / 3) est) } }

/-- The caps on a die's clock setpoint with the reason each acts as: the own pace, the group pace, the thermal cap of its
quadrant, its ageing cap, the brake (R423, R431, R432, R434). -/
def State.caps (s : State) (i : Fin 12) : List (Nat × Nat) :=
  [(s.led.ownReason, s.led.own / 16), (9, s.led.group / 16), (7, s.led.thermal[fabBd (i.val / 3)]), (10, s.led.ageing[i])]
    ++ (if s.led.brake then [(8, 16)] else [])

/-- A die's clock setpoint: the lowest cap, and at least code 16 (R423). -/
def State.setpoint (s : State) (i : Fin 12) : Nat := max 16 ((s.caps i).foldl (fun m c => min m c.2) 64)

/-- ENG_DIE of every die shows its setpoint. -/
def State.setpoints (s : State) : State :=
  (List.finRange 12).foldl (fun t i => t.fieldReg (0x8040 + 4 * i.val) 0 7 (t.setpoint i)) s

/-- Whether an instruction of a class with an estimate is admitted now (R409, R416, R428, R432). -/
def State.admits (s : State) (cd : Cd) (cls est : Nat) : Bool :=
  est == 0 || (decide (0 ≤ s.led.credit[cd]) && !s.led.held[fabBd (cd.val / 3)] && !((cls == 2 || cls == 3) && (s.die cd).spreadHold)
    && !(cls == 6 && s.led.brake))

/-- A tile, vector, movement or helper instruction issued under admission: held where its die's counter is
negative, else its estimate is debited once and it goes on (R416). -/
def issueAdm (cd : Cd) (w : IWord) (cls op : Nat) (f : Nat → State → State) (s : State) : State :=
  issueAll cd w cls op (fun x s =>
    let d := s.die cd
    let est := s.estOf cd x
    if d.admitted then
      (f x s).updDie cd (fun d => { d with admitted := decide (d.stall = .queueFull) })
    else if s.admits cd cls est then
      (f x (s.debit cd est)).updDie cd (fun d => { d with admitted := decide (d.stall = .queueFull) })
    else s.setDie cd { d with stall := .admission }) s

/-- A die-local one. -/
def issueAdmDie (cd : Cd) (w : IWord) (cls op : Nat) (f : Nat → Die → Die) (s : State) : State :=
  issueAdm cd w cls op (fun x s => s.updDie cd (f x)) s

end Sys2Proof.Machine
end

