-- ==== Sys2Proof/Machine/Home.lean ====
section
/-! DEFINITION. Reads and writes at their homes: those of the device, of the CXL.mem window and of Hafel requesters, and how
they wait there (R197, R204, R206, R210–R216, R222–R225, R470). -/

namespace Sys2Proof.Machine

/-! ### What a request does (R211, R212, R219, R220, Table 14-4) -/

/-- A Hafel request's address and tag (Table 14-4). -/
def reqAddr (flit : List Byte) : Nat := fieldB (flitPayload flit) 0 6
def reqTag (flit : List Byte) : Nat := fieldB (flitPayload flit) 16 4

/-- Status of an access at an address: 6 in the window of a fenced die or where the device has failed, 7 unmapped (R20,
Table 14-4). -/
def State.homeStatus (s : State) (a : Nat) : Nat :=
  if s.boot.failed || (winDie a).any s.fenced then 6 else if s.mapped a then 0 else 7

/-- A read request: a completion, with the line where the address can be read. -/
def State.flitRead (s : State) (key : Nat) (flit : List Byte) : State :=
  let a := reqAddr flit
  let st := s.homeStatus a
  if st ≠ 0 then s.sendCompletion key (reqTag flit) st 0 none
  else
    let p := s.poisoned a
    s.sendCompletion key (reqTag flit) (if p then 5 else 0) 0 (some (s.bytes (a / 64 * 64) 64, p))

/-- A line merged with a write's bytes by their enables. -/
def mergeLine (old new : List Byte) (enables : Nat) : List Byte :=
  (List.range 64).map (fun i => if bitAt enables i then new.getD i 0 else old.getD i 0)

/-- A write performed at its home: a whole line replaces it, poisoned with a poison mark; a part is merged, and does nothing
on a poisoned line (R212, R218, R220). -/
def State.flitWrite (s : State) (key : Nat) (req : List Byte) (line : List Byte) (poison : Bool) : State :=
  let a := reqAddr req / 64 * 64
  let en := fieldB (flitPayload req) 8 8
  let st := s.homeStatus a
  if st ≠ 0 then s.sendCompletion key (reqTag req) st 0 none
  else if poison then (s.poisonLine a).sendCompletion key (reqTag req) 5 0 none
  else if en = 2 ^ 64 - 1 then (s.writeLine a (sliceB line 0 64)).sendCompletion key (reqTag req) 0 0 none
  else if s.poisoned a then s.sendCompletion key (reqTag req) 5 0 none
  else (s.writeLine a (mergeLine (s.bytes a 64) line en)).sendCompletion key (reqTag req) 0 0 none

/-- A read or write performed at its home. An address that is unmapped or in the window of a fenced die is not accessed
(R199, R204). -/
def State.homeServe (s : State) (r : HomeReq) : State :=
  match r.origin with
  | .read err => if s.homeStatus r.addr ≠ 0 then s else match s.loc r.addr with
    | some l => s.readHome l err true
    | none => s
  | .write bs mark =>
    if s.homeStatus r.addr ≠ 0 then s
    else if mark then s.poisonLine r.addr else s.writeLine r.addr (bs.take (64 - r.addr % 64))
  | .cxl none => s.emit (.cxlMem (s.bytes (r.addr / 64 * 64) 64) (s.poisoned r.addr))
  | .cxl (some bs) => s.writeLine r.addr (bs.take (64 - r.addr % 64))
  | .hafel key flit none => s.flitRead key flit
  | .hafel key flit (some x) => s.flitWrite key flit x.1 x.2
  | _ => s

/-- Whether a request writes. -/
def Origin.writes : Origin → Bool
  | .write .. | .cxl (some _) | .hafel _ _ (some _) => true
  | _ => false

/-! ### How a request waits (R197, R206, R210, R216) -/

/-- Whether the home of an address may perform a request: its tier is ready and its channel is not under test. -/
def State.homeOpen (s : State) (a : Nat) : Bool := match s.loc a with
  | some l => s.tierReady l && !s.underTest l
  | none => true

/-- A read or write arrives at its home, and at the scoreboard where its line lies in a tile. It is performed at once where
nothing holds it, and waits otherwise. -/
def State.homeArrive (s : State) (a : Nat) (org : Origin) : State :=
  let who := whoHome s.memc.next
  let r : HomeReq := ⟨8, a, 0, 0, who, org⟩
  let ts := (tileOf a).toList
  let t := if ts = [] then s else s.sbMove who (if org.writes then [] else ts) (if org.writes then ts else [])
  if s.homeOpen a && !s.lineHeld a && t.sbHeld who then (if ts = [] then s else t.sbDrop who).homeServe r
  else { t with homeQ := t.homeQ ++ [r], memc := { t.memc with next := t.memc.next + 1 } }

/-- The first waiting read or write that nothing holds: its place in the queue. -/
def State.homeNext (s : State) : Option (Nat × HomeReq) :=
  ((List.range s.homeQ.length).zip s.homeQ).find? (fun x =>
    x.2.code == 8 && !earlierSame s.homeQ x.1 x.2.addr && s.homeOpen x.2.addr && s.sbHeld x.2.who)

/-- Waiting reads and writes performed, in order of arrival, until each one left is held (R210, R216). -/
def State.homeDrain (s : State) : Nat → State
  | 0 => s
  | n + 1 => match s.homeNext with
    | none => s
    | some (i, r) => ((({ s with homeQ := s.homeQ.eraseIdx i }).sbDrop r.who).homeServe r).homeDrain n

/-! ### Requests -/

/-- A line read at its home. -/
def homeRead (addr : Nat) (err : List Byte) (s : State) : State := s.homeArrive addr (.read err)

def execHomeRead (addr : Nat) (err : List Byte) (s : State) : Out := .next (homeRead addr err s)

/-- A write at its home: at most to the end of its line; data that carries a poison mark poisons the line (R211, R212, R218,
R220). -/
def homeWrite (addr : Nat) (data : List Byte) (mark : Bool) (s : State) : State := s.homeArrive addr (.write data mark)

def execHomeWrite (addr : Nat) (data : List Byte) (mark : Bool) (s : State) : Out := .next (homeWrite addr data mark s)

/-! ### The CXL.mem window (R222–R225) -/

/-- The device address of an offset in the CXL.mem window (R222). -/
def State.windowAddr (s : State) (off : Nat) : Nat := 0x028000000000 - s.host.cxlSets * (4 * gib) + off

/-- A host access at a host physical address that the committed decoder decodes, in order of arrival at the home (R222,
R225). A read returns the line and its poison indication (R219). -/
def cxlMemRequest (isWrite : Bool) (hpa : Nat) (data : List Byte) (s : State) : State :=
  match s.host.hdm with
  | none => s
  | some base =>
    if s.boot.failed = false ∧ s.host.linkUp ∧ s.host.mem = true ∧ base ≤ hpa ∧ hpa - base < s.host.cxlSets * (4 * gib) then
      s.homeArrive (s.windowAddr (hpa - base)) (.cxl (if isWrite then some data else none))
    else s

def execCxlMemRequest (isWrite : Bool) (hpa : Nat) (data : List Byte) (s : State) : Out :=
  .next (cxlMemRequest isWrite hpa data s)

end Sys2Proof.Machine
end

