-- ==== Sys2Proof/Machine/Scalar.lean ====
section
/-! DEFINITION. Scalar instructions (R152, R153, R174). -/

namespace Sys2Proof.Machine

/-- s[rd] = f (s[rs1]) (t). -/
def aluOp (f : Word → Word → Word) (w : Nat) (d : Die) : Die :=
  d.setS (iRd w) (f (d.getS (iRs1 w)) (d.opT w))

/-- p[rd] = f (s[rs1]) (t). -/
def cmpOp (f : Word → Word → Bool) (w : Nat) (d : Die) : Die :=
  d.setP (iRd w) (f (d.getS (iRs1 w)) (d.opT w))

/-- An F32 operation under strict rules with nearest-even (Table 5-6). -/
def f32Op (f : Val → Val → Val) (a b : Word) : Word :=
  BitVec.ofNat 32 (ffEncode ffF32 true .nearest (f (ffDecode ffF32 a.toNat) (ffDecode ffF32 b.toNat))).1

def execNop (cd : Cd) (w : IWord) (s : State) : Out := .next (scalarOp cd w 0x00 (fun _ d => d) s)
def execAdd (cd : Cd) (w : IWord) (s : State) : Out := .next (scalarOp cd w 0x01 (aluOp fun a b => a + b) s)
def execSub (cd : Cd) (w : IWord) (s : State) : Out := .next (scalarOp cd w 0x02 (aluOp fun a b => a - b) s)
def execMul (cd : Cd) (w : IWord) (s : State) : Out := .next (scalarOp cd w 0x03 (aluOp fun a b => a * b) s)
def execAnd (cd : Cd) (w : IWord) (s : State) : Out := .next (scalarOp cd w 0x04 (aluOp fun a b => a &&& b) s)
def execOr (cd : Cd) (w : IWord) (s : State) : Out := .next (scalarOp cd w 0x05 (aluOp fun a b => a ||| b) s)
def execXor (cd : Cd) (w : IWord) (s : State) : Out := .next (scalarOp cd w 0x06 (aluOp fun a b => a ^^^ b) s)
def execShl (cd : Cd) (w : IWord) (s : State) : Out := .next (scalarOp cd w 0x07 (aluOp fun a b => a <<< (b.toNat % 32)) s)
def execShr (cd : Cd) (w : IWord) (s : State) : Out := .next (scalarOp cd w 0x08 (aluOp fun a b => a >>> (b.toNat % 32)) s)
def execSra (cd : Cd) (w : IWord) (s : State) : Out := .next (scalarOp cd w 0x09 (aluOp fun a b => a.sshiftRight (b.toNat % 32)) s)

/-- li (Table 5-6). -/
def execLi (cd : Cd) (w : IWord) (s : State) : Out :=
  .next (scalarOp cd w 0x0A (fun x d => d.setS (iRd x) (BitVec.ofNat 32 (iImm32 x))) s)

def execFadd (cd : Cd) (w : IWord) (s : State) : Out := .next (scalarOp cd w 0x0B (aluOp (f32Op (vAdd .nearest))) s)
def execFmul (cd : Cd) (w : IWord) (s : State) : Out := .next (scalarOp cd w 0x0C (aluOp (f32Op vMul)) s)

/-- itof: I32 to F32, nearest-even (Table 5-6). -/
def itofW (a : Word) : Word := BitVec.ofNat 32 (ffEncode ffF32 true .nearest (valOfInt a.toInt)).1

/-- ftoi: F32 to I32 under Table 2-10, nearest-even. -/
def ftoiW (a : Word) : Word := BitVec.ofNat 32 (intEncode 32 .nearest (ffDecode ffF32 a.toNat)).1

def execItof (cd : Cd) (w : IWord) (s : State) : Out :=
  .next (scalarOp cd w 0x0D (fun x d => d.setS (iRd x) (itofW (d.getS (iRs1 x)))) s)
def execFtoi (cd : Cd) (w : IWord) (s : State) : Out :=
  .next (scalarOp cd w 0x0E (fun x d => d.setS (iRd x) (ftoiW (d.getS (iRs1 x)))) s)

def execCmpEq (cd : Cd) (w : IWord) (s : State) : Out := .next (scalarOp cd w 0x10 (cmpOp cmpEq) s)
def execCmpNe (cd : Cd) (w : IWord) (s : State) : Out := .next (scalarOp cd w 0x11 (cmpOp cmpNe) s)
def execCmpLt (cd : Cd) (w : IWord) (s : State) : Out := .next (scalarOp cd w 0x12 (cmpOp cmpLt) s)
def execCmpGe (cd : Cd) (w : IWord) (s : State) : Out := .next (scalarOp cd w 0x13 (cmpOp cmpGe) s)
def execCmpLtu (cd : Cd) (w : IWord) (s : State) : Out := .next (scalarOp cd w 0x14 (cmpOp cmpLtu) s)
def execFcmpLt (cd : Cd) (w : IWord) (s : State) : Out := .next (scalarOp cd w 0x15 (cmpOp fcmpLt) s)
def execFcmpGe (cd : Cd) (w : IWord) (s : State) : Out := .next (scalarOp cd w 0x16 (cmpOp fcmpGe) s)

def execPand (cd : Cd) (w : IWord) (s : State) : Out :=
  .next (scalarOp cd w 0x18 (fun x d => d.setP (iRd x) (d.getP (iRs1 x) && d.getP (iRs2 x))) s)
def execPor (cd : Cd) (w : IWord) (s : State) : Out :=
  .next (scalarOp cd w 0x19 (fun x d => d.setP (iRd x) (d.getP (iRs1 x) || d.getP (iRs2 x))) s)
def execPnot (cd : Cd) (w : IWord) (s : State) : Out :=
  .next (scalarOp cd w 0x1A (fun x d => d.setP (iRd x) (!d.getP (iRs1 x))) s)

/-- ali: a[rd] = imm48. -/
def execAli (cd : Cd) (w : IWord) (s : State) : Out :=
  .next (scalarOp cd w 0x20 (fun x d => d.setA (iRd x) (BitVec.ofNat 48 (fld x 32 48))) s)
/-- aadd: a[rd] = a[rs1] + t sign-extended, modulo 2^48. -/
def execAadd (cd : Cd) (w : IWord) (s : State) : Out :=
  .next (scalarOp cd w 0x21 (fun x d => d.setA (iRd x) (d.getA (iRs1 x) + sext48 (d.opT x).toNat)) s)

/-- Width of a scalar access (R153). -/
def accessWidth (op : Nat) : Nat := if op = 0x22 ∨ op = 0x23 then 8 else 4

def accessLoads (op : Nat) : Bool := op == 0x22 || op == 0x24

/-- ald, ast, ld, st: issue stalls on the access until it completes (R153, Table 5-18). It starts here: the windows in
force translate an address of the host (R342), of which a load raises a read (R343), and an address in a tile arrives
at the tile's scoreboard (R91, R206). -/
def accessOp (cd : Cd) (w : IWord) (op : Nat) (s : State) : State :=
  issueAll cd w 0 op (fun x s =>
    let d := s.die cd
    let a := d.accessAddr x
    let h := if s.mapped a then none else s.hostAddr a
    let ts := (tileOf a).toList
    let s := s.setDie cd { d with stall := .access op (iRd x) a h }
    let s := if ts = [] then s else s.sbMove (whoAccess cd.val) (if accessLoads op then ts else []) (if accessLoads op then [] else ts)
    match h with
    | some b => if accessLoads op && s.hostOpen then s.emit (.hostRead 2 b (accessWidth op)) else s
    | none => s) s

def execAld (cd : Cd) (w : IWord) (s : State) : Out := .next (accessOp cd w 0x22 s)
def execAst (cd : Cd) (w : IWord) (s : State) : Out := .next (accessOp cd w 0x23 s)
def execLd (cd : Cd) (w : IWord) (s : State) : Out := .next (accessOp cd w 0x24 s)
def execSt (cd : Cd) (w : IWord) (s : State) : Out := .next (accessOp cd w 0x25 s)

/-- The value a scalar store writes. -/
def Die.storeBytes (d : Die) (op rd : Nat) : List Byte :=
  if op = 0x23 then natLE 8 (d.getA rd).toNat else natLE 4 (d.getS rd).toNat

/-- The register a scalar load writes. -/
def Die.loadBytes (d : Die) (op rd : Nat) (bs : List Byte) : Die :=
  if op = 0x22 then d.setA rd (BitVec.ofNat 48 (leNat bs))
  else if op = 0x24 then d.setS rd (BitVec.ofNat 32 (leNat bs)) else d

/-- The address a scalar access faults on: misaligned, unmapped, in a host window that takes no request,
in the window of a fenced die, or, for any access of the line, poisoned (R153, R199, R204, R219, R220, R343). h is the
host bus address that the access started with. -/
def State.accessFails (s : State) (a n : Nat) (h : Option Nat) : Bool :=
  decide (a % n ≠ 0)
    || (if s.mapped a then s.poisoned a || (match winDie a with | some i => s.fenced i | none => false)
        else !(s.hostOpen && h.isSome))

/-- A scalar access returns: the register is written or the word stored, and issue goes on; a failing access faults with
code 8 (R153). It waits while its line is held at its home or its tile at the scoreboard (R197, R206, R210). Data of a
host window is what the host returned; a read that the host failed faults (R343). -/
def scalarAccess (cd : Cd) (host : HostData) (s : State) : State :=
  let d := s.die cd
  match d.stall with
  | .access op rd a h =>
    let n := accessWidth op
    if s.lineHeld a || !s.sbHeld (whoAccess cd.val) then s
    else
      let s := s.sbDrop (whoAccess cd.val)
      let d := s.die cd
      if s.accessFails a n h || (accessLoads op && !s.hOk host a n) then
        s.setDie cd ({ d with stall := .none }.fail 8 d.pc.toNat 0 op 0 0)
      else if accessLoads op then
        s.setDie cd { (d.loadBytes op rd (s.hRead host a n)).advance with stall := .none }
      else
        let bs := d.storeBytes op rd
        let t := s.setDie cd { d.advance with stall := .none }
        if s.mapped a then t.write a bs
        else match h with
          | some b => t.emit (.hostWrite b bs)
          | none => t
  | _ => s

def execScalarAccessComplete (cd : Cd) (host : HostData) (hostOk : Bool) (s : State) : Out :=
  .next (scalarAccess cd (hostGot hostOk host) s)

/-! ### Summaries and counters -/

/-- The record of a slot (R145 where nothing has been published). -/
def Die.slot (d : Die) (unit slot : Nat) : Summary := tabGet .reset d.slots (unit * 8 + slot)

/-- Whether an issued instruction names a slot and has not completed (R141). -/
def Die.slotBusy (d : Die) (unit slot : Nat) : Bool :=
  d.ops.any (fun o => o.cls == 3 && o.unit == unit && bitAt o.w 53 && fld o.w 54 3 == slot)

/-- sumrd performed (R174). -/
def Die.sumrd (d : Die) (rd unit slot sel : Nat) : Die := d.setS rd (sumWord (d.slot unit slot) sel)

/-- sumpred performed (R174). -/
def Die.sumpred (d : Die) (rd unit slot sel : Nat) : Die := d.setP rd (sumSelect (d.slot unit slot) sel)

/-- sumrd: reads at once where no issued instruction names the slot, and stalls otherwise (R141). -/
def execSumrd (cd : Cd) (w : IWord) (s : State) : Out :=
  .next (issueDie cd w 0 0x28 (fun x d =>
    let u := fld x 32 4
    let sl := fld x 36 3
    if d.slotBusy u sl then { d with stall := .sumrd (iRd x) u sl (fld x 39 3) }
    else (d.sumrd (iRd x) u sl (fld x 39 3)).advance) s)

/-- sumpred, as sumrd. -/
def execSumpred (cd : Cd) (w : IWord) (s : State) : Out :=
  .next (issueDie cd w 0 0x29 (fun x d =>
    let u := fld x 32 4
    let sl := fld x 36 3
    if d.slotBusy u sl then { d with stall := .sumpred (iRd x) u sl (fld x 39 3) }
    else (d.sumpred (iRd x) u sl (fld x 39 3)).advance) s)

def execCntrd (cd : Cd) (w : IWord) (s : State) : Out :=
  .next (scalarOp cd w 0x2A (fun x d => d.setS (iRd x) (d.getC (fld x 32 4)).count) s)
def execCnterr (cd : Cd) (w : IWord) (s : State) : Out :=
  .next (scalarOp cd w 0x2B (fun x d => d.setS (iRd x) (d.getC (fld x 32 4)).err) s)

/-- Whether an issued, uncompleted instruction names a counter (R167, R169). -/
def Die.ctrBusy (d : Die) (c : Nat) : Bool := d.ops.any (fun o => o.ctr == some c)

/-- cntset: waits for every issued instruction naming the counter, then sets the count and clears the
error record (R167). -/
def execCntset (cd : Cd) (w : IWord) (s : State) : Out :=
  .next (issueDie cd w 0 0x2C (fun x d =>
    let c := iRd x
    if d.ctrBusy c then { d with stall := .cntset c (d.opT x).toNat }
    else (d.setC c ⟨d.opT x, 0⟩).advance) s)

/-- whoami: coordinate in [19:0], die in [23:20] (Table 5-6). -/
def execWhoami (cd : Cd) (w : IWord) (s : State) : Out :=
  .next (scalarOp cd w 0x2D (fun x d => d.setS (iRd x) (BitVec.ofNat 32 (s.selfCoord + cd.val * 2 ^ 20))) s)

/-- clock: core clocks since program start (Table 5-6). -/
def execClock (cd : Cd) (w : IWord) (s : State) : Out :=
  .next (scalarOp cd w 0x2E (fun x d => d.setS (iRd x) (BitVec.ofNat 32 d.clk)) s)

end Sys2Proof.Machine
end

