-- ==== Sys2Proof/Machine/Sync.lean ====
section
/-! DEFINITION. Synchronisation instructions: counters, flags, credit semaphores, fence, post (R167–R173). -/

namespace Sys2Proof.Machine

/-- A new instruction of a die in the list of issued ones (R165). -/
def Die.push (d : Die) (o : Op) : Die := { d with ops := d.ops ++ [{ o with id := d.nextId }], nextId := d.nextId + 1 }

/-- A synchronisation instruction as issued: address, credits or value, coordinate (R147). -/
def Die.syncOp (d : Die) (w : Nat) : Op :=
  { id := 0, cls := 5, code := iOp w, ctr := some (fld w 16 4), unit := 0, pc := d.pc.toNat, w := w, rcd := [],
    av := [(d.getA (fld w 20 4)).toNat],
    sv := [(d.getS (fld w 24 5)).toNat, (d.getS (fld w 29 5)).toNat % 2 ^ 20],
    st := .queued, phys := 0, row := 0, fails := [], reexec := false, poison := false, status := 0,
    decided := false, load := 0, packets := 0, wins := [], asked := 0, room := 0 }

def Op.addr (o : Op) : Nat := o.av.getD 0 0
def Op.val (o : Op) : Nat := o.sv.getD 0 0
def Op.coord (o : Op) : Nat := o.sv.getD 1 0
/-- remote and ordered bits (Table 5-15) -/
def Op.remote (o : Op) : Bool := bitAt o.w 34
def Op.isOrdered (o : Op) : Bool := bitAt o.w 35

/-- A signed 32-bit value as a 64-bit operand. -/
def sext64 (v : Nat) : Nat := ofSigned 64 (toSigned 32 v)

/-- An atomic of a die sent to its home: here, or as an atomic request packet (R168, Table 8-6). -/
def State.sendAtomic (s : State) (cd : Cd) (dev : Option Nat) (code addr v tag : Nat) (org : Origin)
    (ow : Owner) : State :=
  let who := s.selfCoord + cd.val * 2 ^ 20
  match dev with
  | none => { s with homeQ := s.homeQ ++ [⟨code, addr, v, 0, who, org⟩] }
  | some c =>
    s.sendFlow (s.mkPacket c 0x06 (memFlow cd.val 1 0) 36 false 0
      (natLE 8 addr ++ natLE 4 code ++ natLE 4 tag ++ natLE 8 v ++ natLE 8 0 ++ natLE 4 who)) ow

/-- Whether an address may hold a flag (8) or a semaphore (16) of this device (R170). -/
def State.syncAddrOk (s : State) (a align : Nat) : Bool := decide (a % align = 0) && s.atomicHome a

/-- The effect of flag_add, sem_rel or post once it may take effect (R168, R169, R172); a post whose event a host reset
discards is complete (R358, R364). -/
def State.syncEffect (s : State) (cd : Cd) (o : Op) : State :=
  if o.code = 6 then
    let t := s.eventTo (fld o.w 36 13) 0x0001 (1 + cd.val) [(16, 4, o.val), (20, 1, cd.val)] (some (cd.val, o.id))
    if s.host.resetting = 0 then t else t.finishOp cd.val o.id 0
  else
    s.sendAtomic cd (if o.remote then some o.coord else none) (if o.code = 1 then 0 else 6) o.addr
      (sext64 o.val) (o.id % 2 ^ 32) (.instr cd.val o.id) (.op cd.val o.id)

/-- Whether an earlier instruction naming an operation's counter is uncompleted (R169). -/
def Die.earlierBusy (d : Die) (o : Op) : Bool := d.ops.any (fun x => decide (x.id < o.id) && x.ctr == o.ctr)

/-- Whether the flow window of a remote operation's reply is reserved: fewer than the window of the die's atomics to that
device await their replies (R298). -/
def State.replyRoom (s : State) (cd : Cd) (o : Op) : Bool :=
  !o.remote || o.code == 6 || decide (((s.die cd).ops.filter (fun x =>
    x.cls == 5 && x.st == .flight && x.remote && x.coord == o.coord)).length < fld (s.reg 0x401C) 0 7)

/-- Whether flag_add, sem_rel or post may take effect: an ordered one waits for earlier instructions on its counter, a
remote one for the room of its reply (R169, R298). -/
def State.syncReady (s : State) (cd : Cd) (o : Op) : Bool :=
  !(o.isOrdered && (s.die cd).earlierBusy o) && s.replyRoom cd o

/-- flag_add, sem_rel, post: at most 64 outstanding; a bad local address faults with code 8; an ordered
one waits behind earlier instructions on its counter (R169, R170, R175). -/
def issueSync (cd : Cd) (w : IWord) (op align : Nat) (s : State) : State :=
  issueAll cd w 5 op (fun x s =>
    let d := s.die cd
    let o := d.syncOp x
    if 64 ≤ (d.ops.filter (fun y => y.cls == 5)).length then s.setDie cd { d with stall := .queueFull }
    else if op ≠ 6 ∧ (o.addr % align ≠ 0 ∨ (o.remote = false ∧ s.syncAddrOk o.addr align = false)) then
      s.setDie cd (d.fail 8 d.pc.toNat 5 op 0 0)
    else
      let o := { o with id := d.nextId }
      if s.syncReady cd o = false then s.setDie cd (d.advance.push o)
      else (s.setDie cd (d.advance.push { o with st := .flight })).syncEffect cd o) s

def execFlagAdd (cd : Cd) (w : IWord) (s : State) : Out := .next (issueSync cd w 1 8 s)
def execSemRel (cd : Cd) (w : IWord) (s : State) : Out := .next (issueSync cd w 4 16 s)
def execPost (cd : Cd) (w : IWord) (s : State) : Out := .next (issueSync cd w 6 1 s)

/-- A waiting operation takes effect once every earlier instruction on its counter has completed, where it is ordered, and
its reply has room (R169, R298). -/
def orderedRelease (cd : Cd) (id : Nat) (s : State) : State :=
  match (s.die cd).op? id with
  | some o =>
    if o.cls == 5 && o.st == .queued && s.syncReady cd o then
      (s.updDie cd (fun d => d.putOp { o with st := .flight })).syncEffect cd o
    else s
  | none => s

def execOrderedRelease (cd : Cd) (id : Nat) (s : State) : Out := .next (orderedRelease cd id s)

/-- wait_cnt: the count, unsigned, at least the value (Table 5-15). -/
def execWaitCnt (cd : Cd) (w : IWord) (s : State) : Out :=
  .next (issueDie cd w 5 0 (fun x d =>
    let v := if bitAt x 31 then iImm32 x else (d.getS (fld x 21 5)).toNat
    if v ≤ (d.getC (fld x 16 4)).count.toNat then d.advance
    else { d with stall := .waitCnt (fld x 16 4) v }) s)

/-- A flag_wait's word: it waits while its line is held; fault where it is poisoned, go on where the condition holds
(R170, R197, R210, R219). -/
def flagTry (s : State) (cd : Cd) (cond addr v : Nat) : State :=
  let d := s.die cd
  if s.lineHeld addr then s.setDie cd { d with stall := .flagWait cond addr v }
  else if s.poisoned addr then s.setDie cd (d.fail 8 d.pc.toNat 5 2 0 0)
  else if flagCond cond (s.num addr 8) v then s.setDie cd { d.advance with stall := .none }
  else s.setDie cd { d with stall := .flagWait cond addr v }

/-- flag_wait (R170). -/
def execFlagWait (cd : Cd) (w : IWord) (s : State) : Out :=
  .next (issueAll cd w 5 2 (fun x s =>
    let d := s.die cd
    let a := (d.getA (fld x 20 4)).toNat
    if s.syncAddrOk a 8 then flagTry s cd (fld x 29 3) a (sext64 (d.getS (fld x 24 5)).toNat)
    else s.setDie cd (d.fail 8 d.pc.toNat 5 2 0 0)) s)

/-- A waiting flag_wait reads its word again (R170). -/
def flagRecheck (cd : Cd) (s : State) : State :=
  match (s.die cd).stall with
  | .flagWait cond addr v => flagTry s cd cond addr v
  | _ => s

def execFlagWaitRecheck (cd : Cd) (s : State) : Out := .next (flagRecheck cd s)

/-- The acquire request of a waiting sem_acq sent, under a number of its own (R171). -/
def State.sendAcquire (s : State) (cd : Cd) (dev : Option Nat) (addr n : Nat) : State :=
  let tag := (s.die cd).nextId % 2 ^ 32
  (s.updDie cd (fun d => { d with stall := .semAcq dev addr n .sent tag, nextId := d.nextId + 1 })).sendAtomic cd dev 5 addr
    (sext64 n) tag (.acq cd.val tag) (.op cd.val tag)

/-- sem_acq: fewer than one credit faults with code 1, a bad address with code 8 (R170, R171). -/
def execSemAcq (cd : Cd) (w : IWord) (s : State) : Out :=
  .next (issueAll cd w 5 3 (fun x s =>
    let d := s.die cd
    let a := (d.getA (fld x 20 4)).toNat
    let n := (d.getS (fld x 24 5)).toNat
    let remote := bitAt x 34
    if toSigned 32 n < 1 then s.setDie cd (d.fail 1 d.pc.toNat 5 3 0 0)
    else if a % 16 ≠ 0 ∨ (remote = false ∧ s.syncAddrOk a 16 = false) then
      s.setDie cd (d.fail 8 d.pc.toNat 5 3 0 0)
    else s.sendAcquire cd (if remote then some ((d.getS (fld x 29 5)).toNat % 2 ^ 20) else none) a n) s)

/-- The first reply waiting for a die, with its request's number, and the others. -/
def takeReply : List (Nat × Nat × Nat) → Nat → Option ((Nat × Nat) × List (Nat × Nat × Nat))
  | [], _ => none
  | (c, r) :: t, cd => if c = cd then some (r, t) else (takeReply t cd).map (fun x => (x.1, (c, r) :: x.2))

/-- An acquire reply reaches the sequencer (R171); the grant of an abandoned acquire goes back as a sem_rel of the same
count (R184). A waiting sem_acq whose semaphore is poisoned, at a bad address, or on a device given up on faults with
code 8 (R213, R219, R297; log entry 38). -/
def semAcqReply (cd : Cd) (s : State) : State :=
  match takeReply s.replies cd.val with
  | none => s
  | some ((tag, r), rest) =>
    let s := { s with replies := rest }
    let d := s.die cd
    match d.semBack.find? (fun x => x.1 == tag) with
    | some (_, dev, a, n) =>
      let s := s.setDie cd { d with semBack := d.semBack.filter (fun x => x.1 != tag) }
      if r = 1 then s.sendAtomic cd dev 6 a (sext64 n) (2 ^ 32 - 1) .nobody .none else s
    | none =>
      match d.stall with
      | .semAcq dev a n .sent k =>
        if k ≠ tag then s
        else if r = 1 then s.setDie cd { d.advance with stall := .none }
        else if r = 2 then s.setDie cd { d with stall := .semAcq dev a n .wake k }
        else if r = 3 then s.setDie cd { d with stall := .semAcq dev a n .retry k }
        else s.setDie cd ({ d with stall := .none }.fail 8 d.pc.toNat 5 3 0 (if r = 8 then 8 else 0))
      | _ => s

def execSemAcqReply (cd : Cd) (s : State) : Out := .next (semAcqReply cd s)

/-- A waiting sem_acq in a phase sends its request again (R171). -/
def semResend (cd : Cd) (ph : SemPhase) (s : State) : State :=
  match (s.die cd).stall with
  | .semAcq dev a n p _ => if p = ph then s.sendAcquire cd dev a n else s
  | _ => s

def execSemWakeTimeout (cd : Cd) (s : State) : Out := .next (semResend cd .wake s)
def execSemRetryTimer (cd : Cd) (s : State) : Out := .next (semResend cd .retry s)

/-- A wake packet reaches its die: a waiting sem_acq sends again, and with none the wake is discarded (R172). -/
def execWake (q : Fin 9) (s : State) : Out :=
  .next (takePacket q (fun p => p.type == 0x08) (fun p s =>
    let n := fld (fieldB p.payload 0 1) 0 4
    if n < 12 then semResend (cdOf n) .wake s else s) s)

/-- fence: waits until every issued instruction has completed (Table 5-15). -/
def execFence (cd : Cd) (w : IWord) (s : State) : Out :=
  .next (issueDie cd w 5 5 (fun _ d => if d.ops.isEmpty then d.advance else { d with stall := .fence }) s)

/-- Whether a target queue that stalled issue has a free entry is found by issuing again (R175). -/
def stallEnd (cd : Cd) (s : State) : State :=
  let d := s.die cd
  match d.stall with
  | .waitCnt c v => if v ≤ (d.getC c).count.toNat then s.setDie cd { d.advance with stall := .none } else s
  | .cntset c t =>
    if d.ctrBusy c then s
    else s.setDie cd { (d.setC c ⟨BitVec.ofNat 32 t, 0⟩).advance with stall := .none }
  | .flagWait cond addr v => flagTry s cd cond addr v
  | .fence => if d.ops.isEmpty then s.setDie cd { d.advance with stall := .none } else s
  | .sumrd rd u sl sel =>
    if d.slotBusy u sl then s else s.setDie cd { (d.sumrd rd u sl sel).advance with stall := .none }
  | .sumpred rd u sl sel =>
    if d.slotBusy u sl then s else s.setDie cd { (d.sumpred rd u sl sel).advance with stall := .none }
  | .queueFull => s.setDie cd { d with stall := .none }
  | _ => s

def execSeqStallEnd (cd : Cd) (s : State) : Out := .next (stallEnd cd s)

/-- Stalls timed against SEQ_WAIT_LIMIT: wait instructions, full queues, summary reads (R177). -/
def stallTimed : Stall → Bool
  | .waitCnt .. | .cntset .. | .flagWait .. | .semAcq .. | .fence | .sumrd .. | .sumpred .. | .queueFull => true
  | _ => false

/-- The unit that a stalled instruction is concerned with: the target of a full queue, or the slot's unit at a summary
read (R187). -/
def Die.stallUnit (d : Die) : Nat :=
  match d.stall with
  | .sumrd _ u _ _ | .sumpred _ u _ _ => u
  | .queueFull =>
    let w := d.instrAt.getD 0
    if iCls w = 2 ∨ iCls w = 3 then fld w 20 4 else if iCls w = 6 then fld w 20 2 else 0
  | _ => 0

/-- A stall, or the scoreboard wait of an operation, exceeds SEQ_WAIT_LIMIT: fault code 6; a limit of 0
disables the check (R112, R177). -/
def waitLimit (cd : Cd) (id : Option Nat) (s : State) : State :=
  let d := s.die cd
  if s.reg (0x10008 + 0x1000 * cd.val) = 0 ∨ d.mode ≠ .running then s
  else match id with
  | none =>
    let w := d.instrAt.getD 0
    if stallTimed d.stall then s.setDie cd (d.fail 6 d.pc.toNat (iCls w) (iOp w) d.stallUnit 0) else s
  | some i =>
    match d.op? i with
    | some o => if d.sb.any (fun e => e.who == i && !e.held) then
        s.setDie cd (d.fail 6 o.pc o.cls o.code o.unit 0) else s
    | none => s

def execWaitLimitExpire (cd : Cd) (id : Option Nat) (s : State) : Out := .next (waitLimit cd id s)

end Sys2Proof.Machine
end

