-- ==== Sys2Proof/Machine/Rings.lean ====
section
/-! DEFINITION. Descriptor rings, doorbells, DMA movers, the completion collector, MSI-X and the host
link (chapter 10). -/

namespace Sys2Proof.Machine

/-! ### Rings (R344, R345) -/

def State.ring (s : State) (r : Nat) : Ring := tabGet .reset s.host.rings r

def State.setRing (s : State) (r : Nat) (x : Ring) : State :=
  { s with host := { s.host with rings := tabSet s.host.rings r x } }

def Ring.kind (x : Ring) : Nat := fld x.cfg 0 2
/-- entries, a power of two from 16 to 65,536 (R344) -/
def Ring.size (x : Ring) : Nat := 2 ^ (fld x.cfg 2 4 + 4)
def Ring.bound (x : Ring) : Nat := fld x.cfg 6 13
def Ring.vector (x : Ring) : Nat := fld x.cfg 19 11
def Ring.irq (x : Ring) : Bool := bitAt x.cfg 30
/-- producer − consumer of a ring the device produces into, modulo 2^32 (R345) -/
def Ring.fill (x : Ring) : Nat := (x.dev + 2 ^ 32 - x.host % 2 ^ 32) % 2 ^ 32
/-- host bus address of entry i (R344) -/
def Ring.entry (x : Ring) (i : Nat) : Nat := x.base + 64 * (i % x.size)
/-- phase bit of entry i (R355) -/
def Ring.phase (x : Ring) (i : Nat) : Nat := (i / x.size + 1) % 2

/-- Rings that are not disabled, in ascending order. -/
def State.activeRings (s : State) : List (Nat × Ring) := s.host.rings.filter (fun e => e.2.state != 0)

/-- Whether the device may raise CXL.io requests and read doorbells (R363–R365). -/
def State.hostReads (s : State) : Bool := s.host.linkUp && s.host.bme && decide (s.host.resetting = 0)

/-- A ring enters the error state with a ring-error event (R348). -/
def State.ringError (s : State) (r code : Nat) : State :=
  ((s.setRing r { s.ring r with state := 3, err := code }).orReg 0x2014 2).event 0x0009 0
    [(16, 2, r), (18, 1, code)]

/-! ### Doorbells (R346, R348, R363) -/

/-- Doorbell lines that hold a word of an enabled ring. -/
def State.doorbellLines (s : State) : List Nat :=
  ((s.host.rings.filter (fun e => e.2.state == 1)).map (fun e => e.1 / 16)).eraseDups

/-- How the host's memory is read: by CXL.cache where it is negotiated, else by CXL.io (R341, Tables 10-1, 10-2). -/
def State.readKind (s : State) (k : Nat) : Nat := if s.host.cache then k else 2

/-- A read of a doorbell line raised, or deferred while the device raises none (R346, R363, R365). -/
def State.readDoorbell (s : State) (line : Nat) : State :=
  let s := { s with host := { s.host with reads := setIns s.host.reads line } }
  if s.hostReads then s.emit (.hostRead (s.readKind 0) (s.regPair 0x2008 + 64 * line) 64) else s

/-- The host writes a held line: with CXL.cache and no forced polling the snoop makes the device read it
again (R346). -/
def doorbellSnoop (line : Nat) (s : State) : State :=
  if s.host.cache = true ∧ bitAt (s.reg 0x2004) 16 = false ∧ s.host.lines.contains line = true then
    { s with host := { s.host with lines := setDel s.host.lines line } }.readDoorbell line
  else s

def execDoorbellSnoop (line : Nat) (s : State) : Out := .next (doorbellSnoop line s)

/-- The poll interval ends: without snooping every line is read, and a line whose read failed is read
again either way (R346). -/
def doorbellPoll (line : Nat) (s : State) : State :=
  if s.doorbellLines.contains line ∧
      (s.host.cache = false ∨ bitAt (s.reg 0x2004) 16 = true ∨ s.host.lines.contains line = false) then
    s.readDoorbell line
  else s

def execDoorbellPoll (line : Nat) (s : State) : Out := .next (doorbellPoll line s)

/-- A doorbell word compared with the value last seen (R345, R348). -/
def State.seeWord (s : State) (r v : Nat) : State :=
  let x := s.ring r
  if x.state ≠ 1 then s
  else if x.kind = 0 then
    if x.size < (v + 2 ^ 32 - x.dev) % 2 ^ 32 then (s.setRing r { x with host := v }).ringError r 1
    else s.setRing r { x with host := v }
  else
    if x.fill < (v + 2 ^ 32 - x.host) % 2 ^ 32 then (s.setRing r { x with host := v }).ringError r 2
    else s.setRing r { x with host := v }

/-- A doorbell line arrives and each word is compared; a failed read keeps the values last seen and is
repeated (R346, R348). -/
def doorbellReturn (line : Nat) (data : List Byte) (ok : Bool) (s : State) : State :=
  if s.host.reads.contains line ∧ s.hostReads = true then
    let s := { s with host := { s.host with
      reads := setDel s.host.reads line, resume := setDel s.host.resume line } }
    if ok then
      (List.range 16).foldl (fun t i => t.seeWord (16 * line + i) (fieldB data (4 * i) 4))
        { s with host := { s.host with lines := setIns s.host.lines line } }
    else { s with host := { s.host with lines := setDel s.host.lines line } }
  else s

def execDoorbellLineReturn (line : Nat) (data : List Byte) (ok : Bool) (s : State) : Out :=
  .next (doorbellReturn line data ok s)

/-! ### Fetch and start of commands (R349, R352–R354) -/

/-- Fetched, uncompleted descriptors of a ring (R354). -/
def State.inFlight (s : State) (r : Nat) : List Cmd := s.host.cmds.filter (fun c => c.ring == r)

/-- Whether the engine may fetch from a command ring (R354). -/
def State.canFetch (s : State) (r : Nat) : Bool :=
  let x := s.ring r
  let b := s.ring x.bound
  x.state == 1 && x.kind == 0 && x.host != x.dev
    && b.state == 1 && b.kind == 1 && decide (b.fill + b.reserved < b.size)
    && decide ((s.inFlight r).length < 64)

/-- The ring visited next: the first that can fetch, from the rotation position upward, wrapping (R354). -/
def State.nextRing (s : State) : Option Nat :=
  let l := (s.activeRings.map (·.1)).filter s.canFetch
  match l.find? (fun r => decide (s.host.rotation ≤ r)) with
  | some r => some r
  | none => l.head?

/-- One visit: an entry of the bound completion ring is reserved and the descriptor read (R354). It waits for the doorbell
reads of R363; a failed device fetches nothing (R22). -/
def ringFetch (s : State) : State :=
  if s.hostReads = false ∨ s.host.resume ≠ [] ∨ s.boot.failed = true then s
  else match s.nextRing with
  | none => s
  | some r =>
    let x := s.ring r
    let b := s.ring x.bound
    let c : Cmd := ⟨r, x.dev, .fetching, [], x.bound⟩
    let s := (s.setRing x.bound { b with reserved := b.reserved + 1 }).setRing r { x with dev := (x.dev + 1) % 2 ^ 32 }
    ({ s with host := { s.host with rotation := (r + 1) % 8192, cmds := s.host.cmds ++ [c] } }).emit
      (.hostRead (s.readKind 1) (x.entry x.dev) 64)

def execRingFetch (s : State) : Out := .next (ringFetch s)

/-- Bytes of a descriptor all zero. -/
def zeroRange (bs : List Byte) (off n : Nat) : Bool := fieldB bs off n == 0

/-- A descriptor with a reserved op, or a reserved code or value in any field (R349, R350, R352). -/
def descReserved (b : List Byte) : Bool :=
  let op := fieldB b 0 1
  let target := fieldB b 2 1
  let hdr := fieldB b 1 1 / 4 ≠ 0 ∨ zeroRange b 3 1 = false
  if hdr then true else
  match op with
  | 0 => decide (target ≠ 0) || !zeroRange b 8 56
  | 1 => decide (4 < target) || !zeroRange b 14 2 || !zeroRange b 22 2 || zeroRange b 24 3 || !zeroRange b 27 1
      || !zeroRange b 30 2 || !zeroRange b 35 1 || !zeroRange b 39 1 || !zeroRange b 46 2 || !zeroRange b 56 8
  | 2 => decide (11 < target) || !zeroRange b 14 2 || !zeroRange b 22 2
      || !zeroRange b 24 40
  | 3 => decide (11 < target) || decide (1 < fieldB b 8 1) || !zeroRange b 9 55
  | 4 => decide (target ≠ 0) || !zeroRange b 14 2 || decide (fieldB b 16 1 < 1) || decide (32 < fieldB b 16 1)
      || !zeroRange b 17 15
  | _ => true

/-- A fetched descriptor returns: a failed read puts the ring into error 3 and the descriptor gets no
completion; one whose ring has been disabled with abort completes with status 9 (R361); a reserved one completes with
status 2; another waits to start (R348, R349). -/
def descriptorReturn (r : Nat) (data : List Byte) (ok : Bool) (s : State) : State :=
  match s.host.cmds.find? (fun c => c.ring == r && c.st == .fetching) with
  | none => s
  | some c =>
    let b := sliceB data 0 64
    if !ok then
      let x := s.ring c.cring
      let s := s.setRing c.cring { x with reserved := x.reserved - 1 }
      ({ s with host := { s.host with cmds := s.host.cmds.filter (fun d => d != c) } }).ringError r 3
    else if (s.ring r).state = 2 ∧ (s.ring r).abort = true then s.complete 0 { c with bytes := b } 9 0 0
    else if descReserved b then s.complete 0 { c with bytes := b } 2 0 0
    else { s with host := { s.host with
      cmds := s.host.cmds.map (fun d => if d == c then { c with bytes := b, st := .ready } else d) } }

def execDescriptorReturn (r : Nat) (data : List Byte) (ok : Bool) (s : State) : Out :=
  .next (descriptorReturn r data ok s)

/-- The descriptor of a ring that starts next: the first not started, once returned, and once every
earlier one has completed where it has the fence flag (R349, R354). -/
def State.startable (s : State) (r : Nat) : Option Cmd :=
  match (s.inFlight r).filter (fun c => c.st != .started) with
  | [] => none
  | c :: _ =>
    if c.st != .ready then none
    else if bitAt (fieldB c.bytes 1 1) 0 && (s.inFlight r).any (fun d => d.st == .started) then none
    else some c

/-- The startable descriptor of a ring where its op is the given one, marked started. -/
def State.startCmd (s : State) (r op : Nat) : Option (Cmd × State) :=
  match s.startable r with
  | none => none
  | some c => if fieldB c.bytes 0 1 = op then
      let c' := { c with st := .started }
      some (c', { s with host := { s.host with cmds := s.host.cmds.map (fun d => if d == c then c' else d) } })
    else none

/-- A nop completes at once (R349). -/
def execRingNop (r : Nat) (s : State) : Out :=
  .next (match s.startCmd r 0 with
    | some (c, t) => t.complete 0 c 0 0 0
    | none => s)

/-- The mover queue of a base die holding the fewest descriptors, the lowest on ties (R351). -/
def State.moverOf (s : State) (bds : List Nat) : Fin 16 :=
  let l := bds.flatMap (fun k => (List.range 4).map (fun j => 4 * k + j))
  let n (m : Nat) : Nat := (s.host.movers[m % 16]'(Nat.mod_lt _ (by decide))).length
  let m := l.foldl (fun best m => if n m < n best then m else best) (l.headD 0)
  ⟨m % 16, Nat.mod_lt _ (by decide)⟩

/-- The descriptor of a ring at the head of a mover's queue begins: the windows in force are its own (R342). -/
def State.beginMover (s : State) (m : Fin 16) : State :=
  match s.host.movers[m] with
  | [] => s
  | j :: rest =>
    if j.cmd.isSome ∧ j.wins = [] then
      { s with host := { s.host with movers := s.host.movers.set m ({ j with wins := s.windows } :: rest) } }
    else s

/-- Work put into a mover's queue (R351). -/
def State.queueMover (s : State) (m : Fin 16) (j : MoverJob) : State :=
  { s with host := { s.host with movers := s.host.movers.set m (s.host.movers[m] ++ [j]) } }.beginMover m

/-- A DMA descriptor goes to the mover queue of its target holding the fewest descriptors, once the counter of
that mover's base die admits it and no brake holds DMA work (R351, R416, R432). -/
def startDma (r : Nat) (s : State) : State :=
  match s.startCmd r 1 with
  | none => s
  | some (c, t) =>
    let tg := fieldB c.bytes 2 1
    let m := t.moverOf (if tg = 4 then [0, 1, 2, 3] else [tg])
    let q := fabBd (m.val / 4)
    let est := t.estDma q.val c.bytes
    if est ≠ 0 ∧ (t.led.bdCredit[q] < 0 ∨ t.led.held[q] = true ∨ t.led.brake = true) then s
    else
      ({ t with led := { (t.led.addAdmitted q est) with
        bdCredit := t.led.bdCredit.set q (t.led.bdCredit[q] - t.corrected12 q.val est) } }).queueMover m ⟨some c, none, c.bytes, []⟩

def execDma (r : Nat) (s : State) : Out := .next (startDma r s)

/-- Fields of a DMA descriptor (Table 10-6): source, destination, row length, rows, strides. -/
def dmaSrc (b : List Byte) : Nat := fieldB b 8 6
def dmaDst (b : List Byte) : Nat := fieldB b 16 6
def dmaLen (b : List Byte) : Nat := fieldB b 24 3
def dmaRows (b : List Byte) : Nat := fieldB b 28 2 + 1
def dmaSs (b : List Byte) : Nat := fieldB b 32 3
def dmaDs (b : List Byte) : Nat := fieldB b 36 3

/-- The transfer and flag of a DMA: status and bytes written (R208, R351, Table 10-8). The flag is added
only after status 0 or 5, and a flag address that fails R213 ends with status 7. -/
def State.dmaRun (s : State) (b : List Byte) (v : HostView) : State × Nat × Nat :=
  let x := s.moveRows v (dmaSrc b) (dmaDst b) (dmaLen b) (dmaSs b) (dmaDs b) false 0 (dmaRows b)
  let bytes := x.2.2 * dmaLen b
  let flag := fieldB b 40 6
  if (x.2.1 = 0 ∨ x.2.1 = 5) ∧ flag ≠ 0 then
    let y := x.1.atomic ⟨0, flag, fieldB b 48 8, 0, 0, .nobody⟩
    (y.1, if y.2.1 = 5 then 7 else if y.2.1 = 4 then 5 else x.2.1, bytes)
  else (x.1, x.2.1, bytes)

/-- Whether a line that a DMA reads or writes waits at its home (R197, R210). -/
def State.dmaHeld (s : State) (b : List Byte) : Bool :=
  s.rowsHeld (dmaSrc b) (dmaLen b) (dmaSs b) (dmaRows b) || s.rowsHeld (dmaDst b) (dmaLen b) (dmaDs b) (dmaRows b)
    || (decide (fieldB b 40 6 ≠ 0) && s.lineHeld (fieldB b 40 6))

/-- A mover takes the tiles of its next DMA at their scoreboards (R206). -/
def State.moverTiles (s : State) (m : Nat) (b : List Byte) : State :=
  s.sbEnter (whoMover m) (tilesOfRows (dmaSrc b) (dmaLen b) (dmaSs b) (dmaRows b))
    (tilesOfRows (dmaDst b) (dmaLen b) (dmaDs b) (dmaRows b))

/-- A helper instruction marked ended with a status; its completion is a command (R163). -/
def State.endHelper (s : State) (cd id status : Nat) : State :=
  s.updDie (cdOf cd) (fun d => match d.op? id with
    | some o => d.putOp { o with st := .ended, status := status }
    | none => d)

/-- Why a helper does not execute the descriptor of an instruction: reserved bits 2, its address 7, a fenced
window 6, a poisoned line 5; 0 where it reads it. In an open host window it is what the host returned (R163, R164, R342). -/
def State.helperCheck (s : State) (host : HostData) (o : Op) : Nat :=
  let a := o.av.getD 0 0
  if o.w / 2 ^ 26 % 2 ^ 102 ≠ 0 then 2
  else if a % 64 ≠ 0 then 7
  else if s.srcStatus (s.view host) a 64 ≠ 0 then s.srcStatus (s.view host) a 64
  else if s.poisoned a then 5 else 0

/-- The descriptor of a helper instruction. -/
def State.helperDesc (s : State) (host : HostData) (o : Op) : List Byte := s.hRead host (o.av.getD 0 0) 64

/-- A mover accepts the helper instruction at the head of its queue: it reads its descriptor, whose op must be
that of a DMA, and the instruction runs; one that may not run ends (R163, R350). -/
def acceptHelperDma (m : Fin 16) (host : HostData) (s : State) : State :=
  match s.host.movers[m] with
  | [] => s
  | j :: rest =>
    match j.help with
    | none => s
    | some (cd, id) =>
      if j.desc ≠ [] then s
      else
        let drop := { s with host := { s.host with movers := s.host.movers.set m rest } }
        match (s.die (cdOf cd)).op? id with
        | none => drop
        | some o =>
          let b := s.helperDesc host o
          let st := s.helperCheck host o
          let st := if st = 0 ∧ (fieldB b 0 1 ≠ 1 ∨ descReserved (putB b 1 2 0) = true) then 2 else st
          if st ≠ 0 then drop.endHelper cd id st
          else
            ({ s with host := { s.host with
              movers := s.host.movers.set m ({ j with desc := b, wins := s.windows } :: rest) } }).updDie
              (cdOf cd) (fun d => d.putOp { o with st := .running, rcd := b })

/-- The DMA at the head of a mover's queue ends (R351): its rows are moved, its flag is added, its completion or its
instruction's status is written, and the next one begins. It waits where a tile it names is held at the scoreboard or a
line at its home. -/
def dmaTransferEnd (m : Fin 16) (host : HostData) (s : State) : State :=
  let s := acceptHelperDma m host s
  match s.host.movers[m] with
  | [] => s
  | j :: rest =>
    if j.desc = [] then s else
    let s := s.moverTiles m j.desc
    if s.sbHeld (whoMover m) = false ∨ s.dmaHeld j.desc = true then s
    else
      let x := s.dmaRun j.desc ⟨j.wins, host⟩
      let t := x.1.sbDrop (whoMover m)
      let t := { t with host := { t.host with movers := t.host.movers.set m rest } }.beginMover m
      match j.cmd, j.help with
      | some c, _ => t.complete (13 + m.val) c x.2.1 x.2.2 0
      | none, some (cd, id) => t.endHelper cd id x.2.1
      | none, none => t

def execDmaTransferEnd (m : Fin 16) (host : HostData) (hostOk : Bool) (s : State) : Out :=
  .next (dmaTransferEnd m (hostGot hostOk host) s)

/-- Status of a write command (R353, Table 10-9). -/
def State.writeStatus (s : State) (a n : Nat) : Nat :=
  if a % 64 + n ≤ 64 ∧ s.mapped a = true then
    (if (winDie a).any s.fenced then 6 else if s.poisoned a then 5 else 0)
  else 7

/-- A write command: up to 32 bytes within one line of mapped device memory (R352, R353). It waits while its tile is held
at the scoreboard or its line at its home (R206, R210). -/
def writeCmd (r : Nat) (s : State) : State :=
  match s.startCmd r 4 with
  | none => s
  | some (c, t) =>
    let a := fieldB c.bytes 8 6
    let n := fieldB c.bytes 16 1
    let held := (s.sbEnter whoRing [] (tileOf a).toList)
    if held.sbHeld whoRing = false ∨ s.lineHeld a = true then held
    else
      let st := t.writeStatus a n
      let t := t.sbDrop whoRing
      (if st = 0 then t.write a (sliceB c.bytes 32 n) else t).complete 0 c st 0 0

def execWrite (r : Nat) (s : State) : Out := .next (writeCmd r s)

/-- A start: fenced 6, not idle or faulted 3, an entry that is no multiple of 16 7 (Tables 10-7, 10-9), else the program
runs (R182, R353). -/
def execStartProgram (r : Nat) (s : State) : Out :=
  .next (match s.startCmd r 2 with
    | some (c, t) =>
      let cd := cdOf (fieldB c.bytes 2 1)
      let m := (t.die cd).mode
      if m = .fenced then t.complete (1 + cd.val) c 6 0 0
      else if m ≠ .idle ∧ m ≠ .faulted then t.complete (1 + cd.val) c 3 0 0
      else if fieldB c.bytes 8 6 % 16 ≠ 0 then t.complete (1 + cd.val) c 7 0 0
      else
        t.updDie cd (fun d => d.start (fieldB c.bytes 8 6) (fieldB c.bytes 16 6) c)
    | none => s)

/-- A stop with drain or abort: fenced 6, idle or faulted 3, else the sequencer stops (R184, R353). -/
def stopProgram (r : Nat) (abort : Bool) (s : State) : State :=
  match s.startable r with
  | none => s
  | some c0 =>
    if bitAt (fieldB c0.bytes 8 1) 0 ≠ abort then s
    else match s.startCmd r 3 with
    | some (c, t) =>
      let cd := cdOf (fieldB c.bytes 2 1)
      let m := (t.die cd).mode
      if m = .fenced then t.complete (1 + cd.val) c 6 0 0
      else if m = .idle ∨ m = .faulted then t.complete (1 + cd.val) c 3 0 0
      else t.updDie cd (fun d => d.stop abort [c])
    | none => s

def execStopDrain (r : Nat) (s : State) : Out := .next (stopProgram r false s)
def execStopAbort (r : Nat) (s : State) : Out := .next (stopProgram r true s)

/-! ### The collector (R355–R360) -/

/-- Staging in use, shown in HOST_STAGING with its high water mark. -/
def State.showStaging (s : State) : State :=
  let n := s.host.staging.length
  let s := { s with host := { s.host with highWater := max s.host.highWater n } }
  s.setReg 0x201C (n + 2 ^ 16 * s.host.highWater)

/-- A post whose event has been written or dropped completes with status 0 (R358). -/
def State.postDone (s : State) (e : Entry) : State := match e.post with
  | some (cd, id) => s.finishOp cd id 0
  | none => s

/-- The collector accepts the oldest entry of a source into staging, where one is free (R357). An event
for a ring that is no enabled event ring is dropped and counted (R358); a completion takes the index of
its command ring (Table 10-8). -/
def completionAccept (src : Nat) (s : State) : State :=
  match s.host.heldQ.find? (fun e => e.src == src) with
  | none => s
  | some e =>
    let rest := s.host.heldQ.erase e
    if e.isEvt then
      let r := e.ring.getD (fld (s.reg 0x2010) 0 13)
      let x := s.ring r
      if x.kind = 2 ∧ x.state = 1 then
        if s.host.staging.length < 512 then
          ({ s with host := { s.host with
            heldQ := rest, staging := s.host.staging ++ [{ e with ring := some r }] } }).showStaging
        else s
      else (({ s with host := { s.host with heldQ := rest } }).countReg 0x2018 1).postDone e
    else if s.host.staging.length < 512 then
      let b := putB e.bytes 12 4 (s.ring e.cmdRing).dev
      ({ s with host := { s.host with
        heldQ := rest, staging := s.host.staging ++ [{ e with bytes := b }] } }).showStaging
    else s

def execCompletionAccept (src : Nat) (s : State) : Out := .next (completionAccept src s)

/-- An MSI-X message: sent, or pending where its vector is masked (R360). -/
def State.sendMsix (s : State) (v : Nat) : State :=
  if s.host.msixOpen.contains v then
    let e := tabGet (0, 0) s.host.msixTab v
    s.emit (.msix v e.1 e.2)
  else { s with host := { s.host with msixPend := setIns s.host.msixPend v } }

/-- A ring's interrupt condition after an entry: count reached, or interrupt now (R360). -/
def State.ringIrq (s : State) (r : Nat) : State :=
  let x := s.ring r
  if x.irq && (decide (fld x.mod 0 8 ≤ x.unsig) || x.irqNow) then
    (s.setRing r { x with unsig := 0, irqNow := false }).sendMsix x.vector
  else s

/-- The two posted writes of an entry (R355). -/
def State.writeEntry (s : State) (r : Nat) (bs : List Byte) : State :=
  let x := s.ring r
  let b := putB bs 63 1 (x.phase x.dev)
  (s.emit (.hostWrite (x.entry x.dev) (sliceB b 0 60))).emit (.hostWrite (x.entry x.dev + 60) (sliceB b 60 4))

/-- The oldest staged entry of a ring, and staging without it. -/
def State.stagedFor (s : State) (r : Nat) : Option Entry := s.host.staging.find? (fun e => e.ring == some r)

def State.unstage (s : State) (e : Entry) : State :=
  ({ s with host := { s.host with staging := s.host.staging.erase e } }).showStaging

/-- The oldest staged completion of a ring is written with its phase, and the ring's interrupt sent (R355,
R357, R360); it waits while the device raises no request (R363, R365). -/
def completionWrite (r : Nat) (s : State) : State :=
  match s.stagedFor r with
  | none => s
  | some e =>
    if e.isEvt = true ∨ s.hostReads = false then s
    else
      let t := (s.unstage e).writeEntry r e.bytes
      let x := t.ring r
      (t.setRing r { x with
        dev := (x.dev + 1) % 2 ^ 32
        reserved := x.reserved - 1
        unsig := x.unsig + 1
        irqNow := x.irqNow || e.irqNow }).ringIrq r

def execCompletionWrite (r : Nat) (s : State) : Out := .next (completionWrite r s)

/-- The oldest staged event of a ring is written, with the overflow mark and count where events were lost
before it; a full ring drops it (R358, R359). -/
def eventWrite (r : Nat) (s : State) : State :=
  match s.stagedFor r with
  | none => s
  | some e =>
    if e.isEvt = false ∨ s.hostReads = false then s
    else
      let x := s.ring r
      let t := s.unstage e
      if x.size ≤ x.fill then
        (t.setRing r { x with lost := satAdd32 x.lost 1, lostNow := satAdd32 x.lostNow 1 }).postDone e
      else
        let b := if x.lostNow = 0 then e.bytes else putB (putB e.bytes 3 1 1) 4 4 x.lostNow
        let t := t.writeEntry r b
        ((t.setRing r { x with
          dev := (x.dev + 1) % 2 ^ 32
          lostNow := 0
          unsig := x.unsig + 1 }).ringIrq r).postDone e

def execEventWrite (r : Nat) (s : State) : Out := .next (eventWrite r s)

/-- RING_MOD.time passes since the first unsignalled entry (R360). -/
def interruptTimer (r : Nat) (s : State) : State :=
  let x := s.ring r
  if x.irq = true ∧ fld x.mod 8 16 ≠ 0 ∧ x.unsig ≠ 0 ∧ s.hostReads = true then
    (s.setRing r { x with unsig := 0, irqNow := false }).sendMsix x.vector
  else s

def execInterruptTimer (r : Nat) (s : State) : Out := .next (interruptTimer r s)

/-- Pending messages of unmasked vectors are sent, where the device may raise requests (R360, R363, R365). -/
def State.sendPending (s : State) : State :=
  if s.hostReads then
    (s.host.msixPend.filter (fun v => s.host.msixOpen.contains v)).foldl (fun t v =>
      { t with host := { t.host with msixPend := setDel t.host.msixPend v } }.sendMsix v) s
  else s

/-- The host writes a vector's entry of the MSI-X table: address, data and mask bit; a pending message goes on unmask, once
the device may raise requests (R360, R363, Table 10-1). -/
def msixUnmask (v addr data : Nat) (mask : Bool) (s : State) : State :=
  if 2048 ≤ v then s
  else
    State.sendPending { s with host := { s.host with
      msixTab := tabSet s.host.msixTab v (addr % 2 ^ 64, data % 2 ^ 32)
      msixOpen := if mask then setDel s.host.msixOpen v else setIns s.host.msixOpen v } }

def execMsixUnmask (v : MsixWrite) (s : State) : Out := .next (msixUnmask v.vector v.addr v.data v.mask s)

/-! ### Enable, disable, configuration (R361, R362, R366) -/

/-- RING_INDEX.ring -/
def State.ringIndex (s : State) : Nat := fld (s.reg 0x2020) 0 13

/-- RING_CMD enable: only from the disabled state; indices, error and lost count are cleared and the
doorbell line read (R346, R362). -/
def ringEnable (s : State) : State :=
  let r := s.ringIndex
  let x := s.ring r
  if x.state ≠ 0 ∨ s.ready = false then s
  else (s.setRing r { x with
    state := 1
    err := 0
    dev := 0
    host := 0
    reserved := 0
    lost := 0
    lostNow := 0
    unsig := 0
    irqNow := false
    abort := false }).readDoorbell (r / 16)

def execRingEnable (s : State) : Out := .next (ringEnable s)

/-- Whether a completion ring may not be disabled: an enabled command ring is bound to it, or a
descriptor bound to it is uncompleted (R362). -/
def State.ringBusy (s : State) (r : Nat) : Bool :=
  s.host.rings.any (fun e => e.2.kind == 0 && e.2.state == 1 && e.2.bound == r)
    || s.host.cmds.any (fun c => c.cring == r)

/-- Under abort, fetched descriptors that have not started complete with status 9 (R361); one still on its way does so when
it returns. -/
def State.abortRing (s : State) (r : Nat) : State :=
  ((s.inFlight r).filter (fun c => c.st == .ready)).foldl (fun t c => t.complete 0 c 9 0 0) s

/-- RING_CMD disable (R361, R362). -/
def ringDisable (abort : Bool) (s : State) : State :=
  let r := s.ringIndex
  let x := s.ring r
  if s.ready = false ∨ x.state = 0 then s
  else if x.kind = 1 ∧ s.ringBusy r = true then s.orReg 0x2014 1
  else if x.state = 2 then
    if abort && !x.abort then (s.setRing r { x with abort := true }).abortRing r else s
  else
    let t := s.setRing r { x with state := 2, abort := abort }
    if abort && x.kind == 0 then t.abortRing r else t

def execRingDisableDrain (s : State) : Out := .next (ringDisable false s)
def execRingDisableAbort (s : State) : Out := .next (ringDisable true s)

/-- A disabling ring has nothing uncompleted, or, for a ring the device writes, nothing staged (R361,
R362); the doorbell line of the last ring of a line is released. -/
def ringDisableComplete (r : Nat) (s : State) : State :=
  let x := s.ring r
  if x.state = 2 ∧ (s.inFlight r).isEmpty = true ∧ (s.stagedFor r).isNone = true
      ∧ s.host.heldQ.all (fun e => e.isEvt || e.ring != some r) = true then
    let t := s.setRing r { x with state := 0 }
    if t.activeRings.any (fun e => e.1 / 16 == r / 16) then t
    else { t with host := { t.host with
      lines := setDel t.host.lines (r / 16), reads := setDel t.host.reads (r / 16) } }
  else s

def execRingDisableComplete (r : Nat) (s : State) : Out := .next (ringDisableComplete r s)

/-- A write of RING_BASE, RING_CFG, RING_MOD of the indexed ring, or of HOST_DB_BASE (R6, R344, R366). -/
def ringConfigWrite (off v : Nat) (s : State) : State :=
  let r := s.ringIndex
  let x := s.ring r
  let v := v % 2 ^ 32
  if s.ready = false then s
  else if off = 0x2030 then
    let c := if fld v 0 8 = 0 then fld x.mod 0 8 else fld v 0 8
    s.setRing r { x with mod := c + fld v 8 16 * 2 ^ 8 }
  else if off = 0x2008 ∨ off = 0x200C then
    if s.activeRings.isEmpty then
      match regRow? off with
      | some row => s.setReg off (regMerge row off (s.reg off) v)
      | none => s
    else s.orReg 0x2014 1
  else if x.state ≠ 0 then s.orReg 0x2014 1
  else if off = 0x2024 then s.setRing r { x with base := setFld x.base 0 32 (v / 1024 * 1024) }
  else if off = 0x2028 then s.setRing r { x with base := setFld x.base 32 32 v }
  else if off = 0x202C then
    let k := if fld v 0 2 = 3 then setFld v 0 2 (fld x.cfg 0 2) else v
    let k := if 12 < fld v 2 4 then setFld k 2 4 (fld x.cfg 2 4) else k
    s.setRing r { x with cfg := k % 2 ^ 31 }
  else s

def execRingConfigWrite (off v : Nat) (s : State) : Out := .next (ringConfigWrite off v s)

/-! ### Bus Master Enable, resets, link (R363–R365, R438) -/

/-- Bus Master Enable cleared: host requests wait (R363). -/
def execBmeClear (s : State) : Out :=
  .next (if s.host.bme then
    (({ s with host := { s.host with bme := false } }).orReg 0x2014 8).andNotReg 0x2000 8 else s)

/-- Every doorbell line of an enabled ring is read once before fetch resumes, and waiting messages are sent (R363, R365). -/
def State.readAllDoorbells (s : State) : State :=
  s.doorbellLines.foldl (fun t l => t.readDoorbell l)
    { s with host := { s.host with resume := s.doorbellLines } }.sendPending

/-- Bus Master Enable set: waiting writes go on, and the doorbell lines are read before fetch resumes (R363). -/
def execBmeSet (s : State) : Out :=
  .next (if s.host.bme then s else
    (({ s with host := { s.host with bme := true } }).orReg 0x2000 8).readAllDoorbells)

/-- A sequencer stopped as by a stop with abort (R364). -/
def Die.resetStop (d : Die) : Die := if d.mode = .running ∨ d.mode = .stopping then d.stop true [] else d

/-- A function-level reset (1) or CXL Reset (2): every sequencer stops with abort, staging and what is
held are discarded, a post among them being complete, measurement slot 6 is zero (R457), and no request is raised until the
reset completes (R364). A CXL Reset takes CXL.cache, CXL.mem and the decoder with it, and the link leaves reset when it is
trained again (R223). -/
def hostReset (kind : Nat) (s : State) : State :=
  let lost := s.host.heldQ ++ s.host.staging
  let s := { s with
    dies := s.dies.map Die.resetStop
    boot := { s.boot with slots := s.boot.slots.set 6 (zeroB 64) }
    host := { s.host with resetting := max kind s.host.resetting, heldQ := [], staging := [] } }
  let s := lost.foldl (fun t e => t.postDone e) s.showStaging
  let s := { s with host := { s.host with cmds := s.host.cmds.filter (fun c => c.st == .started) } }
  if kind = 2 then { s with host := { s.host with cache := false, mem := false, hdm := none, cxlRst := true } }
    |>.andNotReg 0x2000 6 else s

def execFunctionLevelReset (s : State) : Out := .next (hostReset 1 s)
def execCxlReset (s : State) : Out := .next (hostReset 2 s)

/-- Whether every started command has ended (R364). -/
def State.startedEnded (s : State) : Bool :=
  s.host.cmds.isEmpty && s.host.movers.toList.all (fun q => q.all (fun j => j.cmd.isNone))
    && s.dies.toList.all (fun d => d.mode != .running && d.mode != .stopping)

/-- Setup registers of the host block at their reset values; HOST_STATUS keeps what the link gives. -/
def hostRegsReset (regs : List (Nat × Nat)) : List (Nat × Nat) :=
  regs.filter (fun e => decide (e.1 < 0x2001) || decide (0x3000 ≤ e.1))

/-- The reset completes: registers of the chapter return to their reset values, rings are disabled and
doorbell lines released (R354, R364). -/
def hostResetComplete (s : State) : State :=
  if s.host.resetting ≠ 0 ∧ s.startedEnded = true then
    { s with
      regs := hostRegsReset s.regs
      host := { s.host with
        rings := []
        lines := []
        reads := []
        resume := []
        rotation := 0
        cmds := []
        heldQ := []
        staging := []
        highWater := 0
        resetting := 0 } }
  else s

def execHostResetComplete (s : State) : Out := .next (hostResetComplete s)

/-- Loss of the host link: nothing is fetched, entries are held (R365). -/
def linkLoss (s : State) : State :=
  if s.host.linkUp then
    (({ s with host := { s.host with linkUp := false, lostAt := s.time } }).orReg 0x2014 4).setReg 0x2000
      (s.reg 0x2000 ^^^ (s.reg 0x2000 &&& 0x7F7))
  else s

def execHostLinkLoss (s : State) : Out := .next (linkLoss s)

/-- PERST_N asserted acts as a host-link loss (R438). -/
def execPerstAssert (s : State) : Out :=
  .next ({ linkLoss s with host := { (linkLoss s).host with perst := true } })

/-- PERST_N released applies a CXL Reset and starts link training (R223, R438). -/
def execPerstRelease (s : State) : Out :=
  .next (if s.host.perst then
    hostReset 2 { s with host := { s.host with perst := false } } else s)

/-- The host link is up again after a loss: entries are written, doorbells read, the event sent and the loss logged (R365,
Table 11-3 class 17). -/
def State.linkBack (s : State) : State :=
  let us := (s.time - s.host.lostAt) / 1000
  (s.readAllDoorbells.event 0x000B 0 [(16, 4, us)]).log 17 6 0 0xFF us 0

/-- The link returns with what it had negotiated (R365). -/
def execHostLinkRestore (s : State) : Out :=
  .next (if s.host.linkUp = true ∨ s.host.perst = true ∨ s.host.width = 0 then s else
    let h := s.host
    let st := 1 + (if h.cache then 2 else 0) + (if h.mem then 4 else 0) + (if h.bme then 8 else 0)
      + h.width * 16 + h.rate * 512
    ({ s with host := { h with linkUp := true } }.setReg 0x2000 st).linkBack)

/-- Link training ends with a width, a rate, the protocols negotiated, and the base at which the host has committed the HDM
decoder, which there is only with an HDM range (R223, R339, R341). The device reads MEM_CXL_SETS where the link leaves
reset. A link that was lost before is restored under R365. -/
def linkTrained (width rate : Nat) (cache mem : Bool) (hdm : Option Nat) (s : State) : State :=
  if s.host.perst = true ∨ s.boot.loaded = false ∨ (s.host.linkUp = true ∧ s.host.cxlRst = false)
      ∨ (width ≠ 4 ∧ width ≠ 8 ∧ width ≠ 16) ∨ rate = 0 ∨ 3 < rate then s
  else
    let sets := if s.host.cxlRst then fld (s.reg 0x3050) 0 7 else s.host.cxlSets
    let h := { s.host with
      linkUp := true
      width := width
      rate := rate
      cache := cache
      mem := mem
      hdm := if sets = 0 then none else hdm
      cxlRst := false
      cxlSets := sets }
    let st := 1 + (if cache then 2 else 0) + (if mem then 4 else 0) + (if h.bme then 8 else 0)
      + width * 16 + rate * 512
    let t := { s with host := h }.setReg 0x2000 st
    if s.host.linkUp = true ∨ s.host.width = 0 then t.readAllDoorbells else t.linkBack

def execCxlLinkTrainingDone (width rate : Nat) (cache : Bool) (mem : CxlMem) (s : State) : Out := match mem with
  | .off => .next (linkTrained width rate cache false none s)
  | .on hdm => .next (linkTrained width rate cache true hdm s)

/-- The data object types the device answers on DOE (R339): discovery, CDAT and attestation. The entry at
an index, with the next index; the layout is the DOE standard's (log entry 11). -/
def doeTypes : List Nat := [0, 2, 1]

/-- A DOE discovery request is answered with the type at its index (R339). -/
def execDoeDiscovery (index : Nat) (s : State) : Out :=
  .next (if s.host.linkUp = false ∨ s.host.doeErr = true then s else
    s.emit (.doe (natLE 4 (doeTypes.getD index 0 * 2 ^ 16) ++ natLE 4 ((index + 1) % 3))))

/-- A CDAT request is answered with the device's entries: the window's size in deep sets, and no window
with sets 0 (R223, R339; log entry 11). -/
def execCdatRead (s : State) : Out :=
  .next (if s.host.linkUp = false ∨ s.host.doeErr = true then s else
    s.emit (.doe (natLE 8 (s.host.cxlSets * (4 * gib)))))

end Sys2Proof.Machine
end

