-- ==== Sys2Proof/Machine/Collective.lean ====
section
/-! DEFINITION. The collective engines: acceptance and start of descriptors, streams, combination, checks and
aborts, the pitch, pace packets and the permutation (R311–R338). -/

namespace Sys2Proof.Machine

/-! ### Units of data (R314, R316, R317, R320) -/

def cuBytes (u : CUnit) : List Byte := u.map (·.1)
def cuBad (u : CUnit) : Bool := u.any (·.2)
/-- Bytes that all carry one poison mark. -/
def cuOf (bs : List Byte) (bad : Bool) : CUnit := bs.map (fun b => (b, bad))

/-- Units of a descriptor's data: S64 blocks of a reduction, 256-byte units otherwise. -/
def cUnits (b : List Byte) : Nat := if cReduces b then cdiv (cCount b) 64 else cdiv (cCount b) 256
/-- Elements of unit i of a reduction. -/
def cElems (b : List Byte) (i : Nat) : Nat := min 64 (cCount b - 64 * i)

/-- Bytes read at the source for data byte off to off + n − 1, with their poison; of a host window, those the host
returned. -/
def State.cRead (s : State) (b : List Byte) (host : HostData) (off n : Nat) : CUnit :=
  (List.range n).map (fun i => (s.hByte host (cSrc b + off + i), s.poisoned (cSrc b + off + i)))

/-- The form of a reduction's blocks: the wide bit, or for S64 sums that are not exact the form of the source's
first block (R315). -/
def State.cForm (s : State) (b : List Byte) (host : HostData) : Bool :=
  if cExact b then cWide b else bitAt (leNat (cuBytes (s.cRead b host 0 8))) 16

/-- The form of S64 source blocks: that of the first. -/
def State.cSrcWide (s : State) (b : List Byte) (host : HostData) : Bool := bitAt (leNat (cuBytes (s.cRead b host 0 8))) 16

/-- Bytes of source unit i. -/
def State.cSize (s : State) (b : List Byte) (host : HostData) (i : Nat) : Nat :=
  if cReduces b then
    (if cSrcFmt b = .s64 then blkSize (s.cSrcWide b host) else cElems b i * fmtBits (cSrcFmt b) / 8)
  else min 256 (cCount b - 256 * i)

/-- Offset of source unit i. -/
def State.cOff (s : State) (b : List Byte) (host : HostData) (i : Nat) : Nat :=
  if cReduces b then
    (if cSrcFmt b = .s64 then i * blkSize (s.cSrcWide b host) else 64 * i * fmtBits (cSrcFmt b) / 8)
  else 256 * i

/-- Bytes of the whole source. -/
def State.cSrcBytes (s : State) (b : List Byte) (host : HostData) : Nat :=
  s.cOff b host (cUnits b - 1) + s.cSize b host (cUnits b - 1)

/-- Bytes of an output unit of a reduction and its offset in the destination. -/
def cOutStep (b : List Byte) (wide : Bool) : Nat :=
  if cReduces b then (if cOutFmt b = .s64 then blkSize wide else 64 * fmtBits (cOutFmt b) / 8) else 256
def cOutSize (b : List Byte) (wide : Bool) (i : Nat) : Nat :=
  if cReduces b then (if cOutFmt b = .s64 then blkSize wide else cElems b i * fmtBits (cOutFmt b) / 8)
  else min 256 (cCount b - 256 * i)
def cDstBytes (b : List Byte) (wide : Bool) : Nat := (cUnits b - 1) * cOutStep b wide + cOutSize b wide (cUnits b - 1)

/-- The elements of a raw source unit: values and patterns. -/
def rawVals (f : Fmt) (u : CUnit) : List Val :=
  let n := fmtBits f / 8
  (List.range (u.length / n)).map (fun i => elemVal f (fieldB (cuBytes u) (n * i) n))

/-- The exponent code a member offers for a block (R317). -/
def expOf (b : List Byte) (u : CUnit) : Nat :=
  if cDrop b then 0xFFFF
  else if cSrcFmt b = .s64 then
    let k := blkDecode (cuBytes u)
    if k.elems.all (· == 0) then 0xFFFF else k.exp
  else
    let vs := rawVals (cSrcFmt b) u
    (blkOfVals (cWide b) .nearest (blkDerive .nearest (cHead b) vs) 1 vs).1.exp

/-- A raw unit as a block at the agreed code (R316, R317), with its lost and saturated elements. -/
def convertUnit (b : List Byte) (g : CUnit) (u : CUnit) : CUnit × Nat × Nat :=
  let code := leNat (cuBytes g)
  let count (f : Ev → Bool) (evs : List Ev) : Nat := (evs.filter f).length
  if cDrop b then (cuOf (blkEncode (blkZero (cWide b) 0)) (cuBad g), 0, 0)
  else
    let src := if cSrcFmt b = .s64 then some (blkDecode (cuBytes u)) else none
    let vs := match src with | some k => blkVals k | none => rawVals (cSrcFmt b) u
    let r := blkOfVals (cWide b) .nearest code (match src with | some k => k.count | none => cContrib b) vs
    (cuOf (blkEncode r.1) (cuBad g || cuBad u), count (·.lost) r.2, count (·.sat) r.2)

/-- Two elements combined by function and format (Table 9-3, R128). -/
def combineElem (b : List Byte) (x y : Nat) : Nat × Ev :=
  let f := cSrcFmt b
  let p := elemVal f x
  let q := elemVal f y
  if cFunc b = 0 then
    if f = .i32 then elemEncode .i32 (cStrict b) .nearest (vAdd .nearest p q)
    else
      let r := roundF32 (cStrict b) .nearest (vAdd .nearest p q) [p, q]
      ((elemEncode .f32 (cStrict b) .nearest r.1).1, r.2)
  else elemEncode f (cStrict b) .nearest (if cFunc b = 1 then vMax p q else vMin p q)

/-- What arrived combined with what the member holds: the unit, lost and saturated elements (R50–R53, R315). -/
def combineUnit (b : List Byte) (x y : CUnit) : CUnit × Nat × Nat :=
  if cBlocks b then
    let r := blkAdd (blkDecode (cuBytes x)) (blkDecode (cuBytes y))
    (cuOf (blkEncode r.1) (cuBad x || cuBad y), (r.2.filter (·.lost)).length, (r.2.filter (·.sat)).length)
  else
    let n := fmtBits (cSrcFmt b) / 8
    let el (i : Nat) : CUnit × Ev :=
      let p := (x.drop (n * i)).take n
      let q := (y.drop (n * i)).take n
      let r := combineElem b (leNat (cuBytes p)) (leNat (cuBytes q))
      (cuOf (natLE n r.1) (cuBad p || cuBad q), r.2)
    let es := (List.range (x.length / n)).map el
    (es.flatMap (·.1), 0, (es.filter (·.2.sat)).length)

/-- Exponents agreed by maximum with 0xFFFF lowest (R317). -/
def combineExp (x y : CUnit) : CUnit :=
  cuOf (natLE 2 (emaxOf (leNat (cuBytes x)) (leNat (cuBytes y)))) (cuBad x || cuBad y)

/-- A reduced unit in the output format (R317): blocks as they are, or converted once, divided by the block's count
for a mean; with its saturated elements. -/
def outUnit (b : List Byte) (i : Nat) (u : CUnit) : CUnit × Nat :=
  if !cBlocks b || cOutFmt b = .s64 then (u, 0)
  else
    let k := blkDecode (cuBytes u)
    let vs := (blkVals k).take (cElems b i)
    let vs := if cMean b then vs.map (fun v => if k.count = 0 then .zero else vDiv v (valOfInt k.count)) else vs
    let rs := vs.map (elemEncode (cOutFmt b) (cStrict b) .nearest)
    (cuOf (rs.flatMap (fun r => natLE (fmtBits (cOutFmt b) / 8) r.1)) (cuBad u), (rs.filter (·.2.sat)).length)

/-! ### Acceptance (R311–R313, R321) -/

/-- Status of a range that is written: 7 misaligned or unmapped, 6 of a fenced die's window. -/
def State.cRange (s : State) (a n align : Nat) : Nat := if a % align ≠ 0 then 7 else s.rowStatus a n

/-- Status of a range that is read. -/
def State.cReads (s : State) (host : HostData) (a n align : Nat) : Nat :=
  if a % align ≠ 0 then 7 else s.srcStatus (s.view host) a n

/-- The first status that is not 0. -/
def firstBad (l : List Nat) : Nat := (l.find? (· ≠ 0)).getD 0

/-- Coordinates of the exclusion list (Table 9-1). -/
def State.cExcl (s : State) (b : List Byte) (host : HostData) : List Nat :=
  (List.range (fieldB b 48 1)).map (fun i => fld (s.hNum host (fieldB b 40 6 + 8 * i) 4) 0 20)

/-- A permutation entry (Table 9-10). -/
def State.permEntry (s : State) (b : List Byte) (host : HostData) (i : Nat) : List Byte := s.hRead host (cSrc b + 32 * i) 32
def peDst (e : List Byte) : Nat := fieldB e 0 4 % 2 ^ 20
def peSrc (e : List Byte) : Nat := fieldB e 8 6
def peRemote (e : List Byte) : Nat := fieldB e 16 6
def peLen (e : List Byte) : Nat := fieldB e 24 5
def peBad (e : List Byte) : Bool :=
  decide (2 ^ 20 ≤ fieldB e 0 4) || decide (fieldB e 4 4 ≠ 0) || decide (fieldB e 14 2 ≠ 0) || decide (fieldB e 22 2 ≠ 0)
    || decide (peLen e = 0) || decide (fieldB e 29 3 ≠ 0)

/-- Source and destination overlap (R313). -/
def cOverlap (s : State) (b : List Byte) (host : HostData) : Bool :=
  let n := s.cSrcBytes b host
  let m := cDstBytes b (s.cForm b host)
  decide (cSrc b < cDst b + m) && decide (cDst b < cSrc b + n)

/-- Regions of a data collective: its source read, its destination, and their overlap (R313). -/
def State.collRegions (s : State) (b : List Byte) (host : HostData) : Nat :=
  firstBad [s.cReads host (cSrc b) (s.cSrcBytes b host) 64, s.cRange (cDst b) (cDstBytes b (s.cForm b host)) 64,
    if cOverlap s b host then 7 else 0]

/-- Why an allowed descriptor ends at acceptance: its regions (R313), a poisoned list (R164), a permutation's
entries (R7, Table 9-10); 0 where it is accepted. -/
def State.collStatus (s : State) (b : List Byte) (host : HostData) : Nat :=
  let n := fieldB b 48 1
  let list (a k : Nat) (align : Nat) : Nat :=
    firstBad [s.cReads host a k align, if s.rangePoisoned a k then 5 else 0]
  let lst := if n = 0 then 0 else list (fieldB b 40 6) (8 * n) 8
  let sum := s.cRange (cSummary b) 32 32
  let op := cOp b
  if op = 7 ∨ op = 8 then firstBad [lst, sum]
  else if op = 6 then
    let ents := (List.range (cCount b)).map (s.permEntry b host)
    firstBad ([sum, list (cSrc b) (32 * cCount b) 64]
      ++ (if ents.any peBad then [2] else []) ++ ents.map (fun e => s.rowStatus (peSrc e) (peLen e)))
  else firstBad [lst, sum, s.rowStatus (cSrc b) (s.cSrcBytes b host), s.cRange (cSrc b) 1 64,
    s.cRange (cDst b) (cDstBytes b (s.cForm b host)) 64, if cOverlap s b host then 7 else 0]

/-- The helper instruction of a kind that an engine accepts: queued, and the first of its die that names the base
die (R163, R321). -/
def State.helperOp (s : State) (cd : Cd) (id code : Nat) : Option Op :=
  match (s.die cd).op? id with
  | none => none
  | some o =>
    if o.cls = 6 ∧ o.code = code ∧ o.st = .queued
        ∧ ((s.die cd).ops.find? (fun x => x.cls == 6 && x.code == code && x.unit == o.unit && x.st == .queued)).map (·.id) = some id
    then some o else none

/-- An accepted collective before it starts. -/
def newColl (id cd op bd : Nat) (b : List Byte) (excl : List Nat) : Coll :=
  { id := id, cd := cd, op := op, bd := bd, b := b, excl := excl, host := [], running := false, moves := [], data := [], exps := [],
    checks := [], lost := 0, sat := 0, nan := 0, inf := 0, base := 0, sender := 0,
    pitch := ⟨0, 0, 0, 0, 0, false, 0⟩, level := 0, got := [], waiting := false, slots := [], entries := [], active := [] }

/-! ### The end of a collective (R319, R326) -/

def Coll.engines (c : Coll) : List Nat := if cOp c.b = 6 then [c.bd] else cAxisList c.b
def State.groupC (s : State) (c : Coll) : Group := s.groupOf c.b c.excl
/-- Collective flow of an axis, phase, direction and stripe (Table 9-7). -/
def cFlow (b : List Byte) (axis phase dir : Nat) : Nat := axis * 2 ^ 14 + cTag b * 2 ^ 8 + phase * 16 + dir * 8

def State.putColl (s : State) (c : Coll) : State :=
  { s with coll := { s.coll with jobs := s.coll.jobs.map (fun j => if j.id == c.id then c else j) } }

/-- The summary record (Table 9-5). -/
def Coll.summary (c : Coll) (g : Group) (outcome : Nat) : List Byte :=
  let n32 (x : Nat) : List Byte := natLE 4 (min x (2 ^ 32 - 1))
  let head := natLE 1 outcome ++ natLE 1 g.liveRing.length
  let op := cOp c.b
  if cReduces c.b then
    let first := ((if op = 1 then g.share (List.range (cUnits c.b)) g.t.self else List.range (cUnits c.b)).head?).getD 0
    let cnt := if cBlocks c.b ∧ outcome ≠ 3 ∧ (op ≠ 4 ∨ g.isRoot (cRoot c.b) = true)
      then (blkDecode (cuBytes (c.data.getD first []))).count else 0
    head ++ natLE 2 (c.exps.foldl (fun m u => emaxOf m (leNat (cuBytes u))) 0xFFFF) ++ n32 cnt
      ++ n32 c.lost ++ n32 c.sat ++ n32 c.nan ++ n32 c.inf ++ zeroB 8
  else if op = 7 then
    head ++ zeroB 2 ++ n32 c.pitch.contrib ++ natLE 4 c.pitch.flags ++ natLE 4 c.pitch.step
      ++ natLE 4 (c.pitch.pace + c.pitch.reason * 2 ^ 16) ++ n32 c.pitch.dur ++ zeroB 8
  else if op = 5 then head ++ zeroB 22 ++ natLE 4 c.base ++ natLE 4 c.sender
  else head ++ zeroB 30

/-- Packets of a collective's tag on its engines, no longer wanted. -/
def Coll.dropArr (c : Coll) (arr : List Packet) : List Packet :=
  arr.filter (fun p => !(fld p.flow 8 6 == cTag c.b && c.engines.contains (fld p.flow 14 2)))

/-- A collective ends (R319): its summary is written, its outcome counted, and its helper instruction ends with a
status. The destination of one that ends early holds undefined values (R326; log entry 17). -/
def State.collEnd (s : State) (c : Coll) (outcome : Nat) (poisoned : Bool) : State :=
  let early := c.running && (outcome == 1 || outcome == 2) && decide (cOp c.b ≤ 5)
  let s := if early then
      let n := cDstBytes c.b (s.cForm c.b c.host)
      let f := s.freeBytes n
      f.2.putBytes (cDst c.b) f.1 [] (n / 64 + 2)
    else s
  let s := s.putBytes (cSummary c.b) (c.summary (s.groupC c) outcome) [] 3
  let s := if outcome = 1 then s.countReg 0x5010 1 else if outcome = 2 then s.countReg 0x5014 1 else s
  let s := { s with coll := { s.coll with
    jobs := s.coll.jobs.filter (fun j => j.id != c.id)
    permArr := if cOp c.b = 6 then tabDel s.coll.permArr (cTag c.b) else s.coll.permArr
    arr := if outcome = 0 then s.coll.arr else c.dropArr s.coll.arr } }
  (s.sbDrop (whoMove c.cd c.op)).endHelper c.cd c.op (if outcome = 1 then 8 else if poisoned then 5 else 0)

/-- An engine takes the next collective descriptor in issue order (R163, R311–R313, R321): refused with a status, or
held for its start; a pace group is recorded and completes at once (R330). opc is the operation of the command. -/
def acceptColl (opc : Nat) (cd : Cd) (id : Nat) (host : HostData) (s : State) : State :=
  match s.helperOp cd id 1 with
  | none => s
  | some o =>
    let b := s.helperDesc host o
    let x := s.cExcl b host
    if s.helperCheck host o ≠ 0 then s.endHelper cd.val id (s.helperCheck host o)
    else if collBad o.unit b then s.endHelper cd.val id 2
    else if cOp b ≠ opc then s
    else if s.collStatus b host ≠ 0 then s.endHelper cd.val id (s.collStatus b host)
    else
      let c := newColl s.coll.next cd.val id o.unit b x
      if opc = 8 then { s with coll := { s.coll with group := some (b, x) } }.collEnd c 0 false
      else
        ({ s with coll := { s.coll with jobs := s.coll.jobs ++ [c], next := s.coll.next + 1 } }).updDie cd
          (fun d => d.putOp { o with st := .running, rcd := b })

def execAllReduce (cd : Cd) (h : HelperTake) (s : State) : Out := .next (acceptColl 0 cd h.id h.host s)
def execReduceScatter (cd : Cd) (h : HelperTake) (s : State) : Out := .next (acceptColl 1 cd h.id h.host s)
def execAllGather (cd : Cd) (h : HelperTake) (s : State) : Out := .next (acceptColl 2 cd h.id h.host s)
def execBroadcast (cd : Cd) (h : HelperTake) (s : State) : Out := .next (acceptColl 3 cd h.id h.host s)
def execReduce (cd : Cd) (h : HelperTake) (s : State) : Out := .next (acceptColl 4 cd h.id h.host s)
def execShift (cd : Cd) (h : HelperTake) (s : State) : Out := .next (acceptColl 5 cd h.id h.host s)
def execPermutation (cd : Cd) (h : HelperTake) (s : State) : Out := .next (acceptColl 6 cd h.id h.host s)
def execPitch (cd : Cd) (h : HelperTake) (s : State) : Out := .next (acceptColl 7 cd h.id h.host s)
def execPaceGroup (cd : Cd) (h : HelperTake) (s : State) : Out := .next (acceptColl 8 cd h.id h.host s)

/-! ### Aborts (R324, R326) -/

/-- Abort packets to the live successor and predecessor on each ring, and the end (R324, R326). -/
def State.collAbort (s : State) (c : Coll) (outcome : Nat) : State :=
  (((s.groupC c).neighbours c.b).foldl (fun t n =>
    t.sendFlow (t.mkPacket n.2.1 0x09 (cFlow c.b n.1 3 n.2.2) 1 true 0 [1]) .none) s).collEnd c outcome false

/-- A flow of a collective has failed (R297, R326). -/
def State.collFail (s : State) (id : Nat) : State :=
  match s.coll.jobs.find? (fun c => c.id == id) with
  | some c => s.collAbort c 1
  | none => s

/-! ### Streams (R323) -/

/-- The packets of a stream: 256 bytes each, packet i on stripe i mod 8. -/
def State.streamPackets (s : State) (dst flow : Nat) (u : CUnit) : List Packet :=
  (List.range (cdiv u.length 256)).map (fun i =>
    let c := (u.drop (256 * i)).take 256
    let q (k : Nat) : Nat := if cuBad ((c.drop (64 * k)).take 64) then 2 ^ k else 0
    s.mkPacket dst 0x09 (flow + i % 8) c.length true (q 0 + q 1 + q 2 + q 3) (cuBytes c))

/-- A packet's bytes with the poison of their quarters. -/
def packetUnit (p : Packet) : CUnit :=
  (List.range (min p.len 256)).map (fun i => (p.payload.getD i 0, bitAt p.poison (i / 64)))

/-- n packets of a stream taken, in order, from those that have arrived; none while one is missing. -/
def takeStream (src flow : Nat) : Nat → Nat → List Packet → Option (CUnit × List Packet)
  | 0, _, arr => some ([], arr)
  | n + 1, i, arr =>
    match arr.find? (fun p => p.type == 9 && p.src == src && p.flow == flow + i % 8) with
    | none => none
    | some p => (takeStream src flow n (i + 1) (arr.erase p)).map (fun r => (packetUnit p ++ r.1, r.2))

/-- A list of units with the named ones replaced, in order, from a stream. -/
def spread (f : Nat → CUnit → CUnit) : List Nat → CUnit → List CUnit → List CUnit
  | [], _, l => l
  | i :: is, u, l =>
    let old := l.getD i []
    spread f is (u.drop old.length) (l.set i (f i (u.take old.length)))

/-- Whether a stage of a collective may run on an engine: it runs there already, or fewer than four collectives do, none of
them with its tag, and every one accepted earlier for that engine runs there or has ended (R321). -/
def State.stageFree (s : State) (c : Coll) (k : Nat) : Bool :=
  c.slots.contains k
    || (decide ((s.coll.jobs.filter (fun j => j.slots.contains k)).length < 4)
      && s.coll.jobs.all (fun j => !(j.slots.contains k && cTag j.b == cTag c.b))
      && (s.coll.jobs.takeWhile (fun j => j.id != c.id)).all (fun j => j.slots.contains k || !j.engines.contains k))

/-- A stage takes its place on an engine. -/
def Coll.onEngine (c : Coll) (k : Nat) : Coll := if c.slots.contains k then c else { c with slots := k :: c.slots }

/-- The engine whose stage a step belongs to; none for the conversion. -/
def CMove.engine : CMove → Option Nat
  | .send _ axis .. => some axis
  | .recv _ axis .. => some axis
  | .convert => none

/-- One step of a collective's plan; none while a stream is incomplete. -/
def State.collMove (s : State) (c : Coll) (m : CMove) : Option (State × Coll) :=
  let units (exps : Bool) : List CUnit := if exps then c.exps else c.data
  match m with
  | .send dst axis dir phase us exps =>
    let u := us.flatMap (fun i => (units exps).getD i [])
    some (s.sendAll (s.streamPackets dst (cFlow c.b axis phase dir) u) (.coll c.id 0), c)
  | .recv src axis dir phase us exps add =>
    let n := us.foldl (fun t i => t + ((units exps).getD i []).length) 0
    match takeStream src (cFlow c.b axis phase dir) (cdiv n 256) 0 s.coll.arr with
    | none => none
    | some (u, arr) =>
      let old := units exps
      let base := match s.coll.arr.find? (fun p => p.type == 9 && p.src == src && p.flow == cFlow c.b axis phase dir) with
        | some p => fieldB p.payload 256 4
        | none => 0
      let c := if cOp c.b = 5 then { c with base := base } else c
      let s := { s with coll := { s.coll with arr := arr } }
      if exps then
        some (s, { c with exps := spread (fun i x => if add then combineExp x (old.getD i []) else x) us u old })
      else if add then
        let new := spread (fun _ x => x) us u old
        let rs := us.map (fun i => combineUnit c.b (new.getD i []) (old.getD i []))
        some (s, { c with
          data := spread (fun _ x => x) us (rs.flatMap (·.1)) old
          lost := c.lost + rs.foldl (fun t r => t + r.2.1) 0
          sat := c.sat + rs.foldl (fun t r => t + r.2.2) 0 })
      else some (s, { c with data := spread (fun _ x => x) us u old })
  | .convert =>
    let rs := List.zipWith (convertUnit c.b) c.exps c.data
    some (s, { c with
      data := rs.map (·.1)
      lost := c.lost + rs.foldl (fun t r => t + r.2.1) 0
      sat := c.sat + rs.foldl (fun t r => t + r.2.2) 0 })

/-- Steps performed until one waits, for a stream or for its engine (R321). -/
def State.collMoves (s : State) (c : Coll) : List CMove → State × Coll
  | [] => (s, { c with moves := [] })
  | m :: t =>
    let free := match m.engine with | some k => s.stageFree c k | none => true
    let c := match m.engine with | some k => if free then c.onEngine k else c | none => c
    if !free then (s, { c with moves := m :: t })
    else match (s.putColl c).collMove c m with
    | none => (s.putColl c, { c with moves := m :: t })
    | some r => r.1.collMoves r.2 t

/-- Runs of consecutive units joined: the first unit and the bytes. -/
def mergeRuns : List (Nat × CUnit) → List (Nat × CUnit)
  | [] => []
  | (i, u) :: t => match mergeRuns t with
    | (j, v) :: r => if j = i + 1 then (i, u ++ v) :: r else (i, u) :: (j, v) :: r
    | [] => [(i, u)]

/-- The units a member writes at its destination (Table 9-2). -/
def Coll.results (c : Coll) (g : Group) : List Nat :=
  let all := List.range (cUnits c.b)
  match cOp c.b with
  | 1 => g.share all g.t.self
  | 4 => if g.isRoot (cRoot c.b) then all else []
  | _ => all

/-- A collective whose plan is done writes its result (R312, R317) and ends with outcome 0; a poisoned line written, or
written in part, is reported (R220, R320). -/
def State.collDone (s : State) (c : Coll) : State :=
  let outs := (c.results (s.groupC c)).map (fun i => (i, outUnit c.b i (c.data.getD i [])))
  let wide := match c.data with | u :: _ => cBlocks c.b && bitAt (fieldB (cuBytes u) 0 8) 16 | [] => false
  let w := (mergeRuns (outs.map (fun x => (x.1, x.2.1)))).foldl (fun t r =>
    let y := t.1.putBytesAt t.1.windows (cDst c.b + r.1 * cOutStep c.b wide) (cuBytes r.2) (r.2.map (·.2)) (r.2.length / 64 + 2)
    (y.1, t.2 || y.2)) (s, false)
  w.1.collEnd { c with sat := c.sat + outs.foldl (fun t x => t + x.2.2) 0 } 0 w.2

/-! ### Checks (R324) -/

/-- What a check carries: descriptor bytes 0 to 15 with contrib, and a shift's position base, zero; bytes 32 to 39,
zero for a pitch; byte 48 (Table 9-8). -/
def checkBody (b : List Byte) : List Byte :=
  sliceB b 0 8 ++ (if cOp b = 5 then zeroB 4 else sliceB b 8 4) ++ zeroB 4
    ++ (if cOp b = 7 then zeroB 8 else sliceB b 32 8) ++ sliceB b 48 1

/-- Bodies agree; drop is a member's own choice (R316, Table 9-4; log entry 18). -/
def checkAgrees (x y : List Byte) : Bool :=
  let clear (l : List Byte) : List Byte := l.set 2 (l.getD 2 0 &&& 0xBF)
  clear x == clear y

/-- A check to every neighbour. -/
def State.sendChecks (s : State) (c : Coll) : State :=
  ((s.groupC c).neighbours c.b).foldl (fun t n =>
    t.sendFlow (t.mkPacket n.2.1 0x09 (cFlow c.b n.1 3 n.2.2) 29 true 0 ([0, 0, 0, 0] ++ checkBody c.b)) (.coll c.id 0)) s

/-- The checks that have arrived compared: the neighbours still awaited, the packets left, and whether one differs. -/
def takeChecks (b : List Byte) : List (Nat × Nat) → List Packet → List (Nat × Nat) × List Packet × Bool
  | [], arr => ([], arr, false)
  | n :: t, arr =>
    match arr.find? (fun p => p.type == 9 && p.src == n.2 && setFld p.flow 3 1 0 == cFlow b n.1 3 0) with
    | none => let r := takeChecks b t arr; (n :: r.1, r.2.1, r.2.2)
    | some p =>
      let r := takeChecks b t (arr.erase p)
      (r.1, r.2.1, r.2.2 || !checkAgrees (sliceB p.payload 4 25) (checkBody b))

/-- Checks of live members that are no neighbours of the device under its own descriptor, on the engines of a collective:
compared as well (R324), and not kept. -/
def Coll.otherChecks (c : Coll) (g : Group) (arr : List Packet) : List Packet :=
  arr.filter (fun p => p.type == 9 && fld p.flow 4 2 == 3 && fld p.flow 8 6 == cTag c.b
    && c.engines.contains (fld p.flow 14 2) && g.live p.src
    && !(g.neighbours c.b).any (fun n => n.1 == fld p.flow 14 2 && n.2.1 == p.src))

/-! ### The pitch (R327, R328) -/

/-- A pitch's own arrival: its weight, flags, step, and the pace its ledger expects to sustain (R328, R423). -/
def State.ownPitch (s : State) (b : List Byte) : PitchData :=
  ⟨cStep b, cContrib b, cFlags b, s.led.own, s.led.ownReason, false, if s.led.own < 1024 then 0xFFFFFFFF else 0⟩

/-- Two arrivals combined (R328). -/
def pitchJoin (x y : PitchData) : PitchData :=
  { step := x.step, contrib := min (x.contrib + y.contrib) (2 ^ 32 - 1), flags := x.flags ||| y.flags
    pace := min x.pace y.pace
    reason := if x.pace < y.pace then x.reason else if y.pace < x.pace then y.reason else min x.reason y.reason
    mismatch := x.mismatch || y.mismatch || decide (x.step ≠ y.step)
    dur := max x.dur y.dur }

/-- The 24 bytes of an arrival or release (Table 9-8). -/
def pitchBytes (release : Bool) (d : PitchData) : List Byte :=
  [if release then 1 else 0, 0, 0, 0] ++ natLE 4 d.step ++ natLE 4 d.contrib ++ natLE 4 d.flags
    ++ natLE 2 (d.pace % 2048) ++ natLE 1 d.reason ++ natLE 1 (if d.mismatch then 1 else 0) ++ natLE 4 d.dur

def pitchOf (p : List Byte) : PitchData :=
  ⟨fieldB p 4 4, fieldB p 8 4, fieldB p 12 4, fld (fieldB p 16 2) 0 11, fieldB p 18 1, bitAt (fieldB p 19 1) 0, fieldB p 20 4⟩

/-- The group pace handed to the ledger and recorded in COLL_PACE (R328, R331, R423). -/
def State.takePace (s : State) (pace reason : Nat) : State :=
  (({ s with led := { s.led with group := pace } }).setReg 0x500C (pace + reason * 2 ^ 16)).setpoints

/-- A member completes its pitch (R328): the release passes to the rings below, the group pace goes to the ledger,
the next relay starts afresh (R331), dies wait for their spread where it is set (R428), and outcome 0 triggers
the step digest where the member's own descriptor has flag 0 set (R378). -/
def State.pitchDone (s : State) (c : Coll) (d : PitchData) : State :=
  let g := s.groupC c
  let s := (g.down (cRoot c.b) c.level).foldl (fun t n =>
    t.sendFlow (t.mkPacket n.2 0x0A (cFlow c.b n.1 2 0) 24 true 0 (pitchBytes true d)) (.coll c.id 0)) s
  let s := s.takePace d.pace d.reason
  let s := { s with coll := { s.coll with relayed := 1024, lastStep := cStep c.b } }
  let s := { s with led := { s.led with releasedAt := s.time } }
  let s := if bitAt (s.reg 0x800C) 20 then { s with dies := s.dies.map (fun x => { x with spreadHold := true }) } else s
  let s := s.collEnd { c with pitch := d } (if d.mismatch then 2 else 0) false
  if bitAt (cFlags c.b) 0 && !d.mismatch then s.trigger 0 (cStep c.b) s.selfCoord [] else s

/-- The arrival of a live member of the stage's ring that has not been taken yet, and the release of the stage's root:
nothing of another sender is taken (R308, R327). -/
def Coll.pitchPacket (c : Coll) (g : Group) (arr : List Packet) : Option Packet :=
  let axis := g.axes.getD c.level 0
  let root := cRoot c.b
  arr.find? (fun p => p.type == 0x0A &&
    (if c.waiting then fieldB p.payload 0 1 == 1 && p.flow == cFlow c.b axis 2 0 && p.src == g.stageRoot root c.level
      else fieldB p.payload 0 1 == 0 && p.flow == cFlow c.b axis 1 0 && (g.children root c.level).contains p.src
        && !c.got.contains p.src))

/-- Arrivals taken at the stages of which the device is root, each on its engine; then its own arrival goes on, or at the
last root the release begins (R321, R327). Fuel bounds stages and arrivals. -/
def State.pitchGo (s : State) (c : Coll) : Nat → State
  | 0 => s.putColl c
  | f + 1 =>
    let g := s.groupC c
    let root := cRoot c.b
    let axis := g.axes.getD c.level 0
    let p? := c.pitchPacket g s.coll.arr
    let take (p : Packet) : State := { s with coll := { s.coll with arr := s.coll.arr.erase p } }
    if c.waiting then
      match p? with
      | some p => if c.checks.isEmpty then (take p).pitchDone c (pitchOf p.payload) else s.putColl c
      | none => s.putColl c
    else if g.axes.length ≤ c.level then
      if c.checks.isEmpty then s.pitchDone c c.pitch else s.putColl c
    else if s.stageFree c axis = false then s.putColl c
    else
      let c := c.onEngine axis
      if g.stageRoot root c.level ≠ g.t.self then
        (s.sendFlow (s.mkPacket (g.stageRoot root c.level) 0x0A (cFlow c.b axis 1 0) 24 true 0 (pitchBytes false c.pitch))
          (.coll c.id 0)).putColl { c with waiting := true }
      else if c.got.length < (g.children root c.level).length then
        match p? with
        | some p => (take p).pitchGo { c with got := p.src :: c.got, pitch := pitchJoin c.pitch (pitchOf p.payload) } f
        | none => s.putColl c
      else s.pitchGo { c with level := c.level + 1, got := [] } f

/-! ### The permutation (R334) -/

/-- The packets of an entry: puts of class scheduled on phase 3, each entry on one stripe. -/
def State.permPackets (s : State) (c : Coll) (i : Nat) (e : List Byte) : List Packet :=
  (s.dataPackets (peDst e) 0x09 (cFlow c.b c.bd 3 0 + i % 8) (peRemote e) i (s.hRead c.host (peSrc e) (peLen e))
    (fun off n => s.rangePoisoned (peSrc e + off) n) true (peLen e / 240 + 1) 0).map (fun p => { p with ordered := true })

/-- Bytes that permutation puts of a tag have brought, and whether any was poisoned. -/
def State.permGot (s : State) (tag : Nat) : Nat × Bool := tabGet (0, false) s.coll.permArr tag

/-- Entries begun in list order while fewer than eight are in progress; the end once every byte is acknowledged and
the expected bytes have arrived, with outcome 2 where more came. -/
def State.permGo (s : State) (c : Coll) : Nat → State
  | 0 => s.putColl c
  | f + 1 =>
    match c.entries with
    | e :: rest =>
      if c.active.length < 8 then
        let i := cCount c.b - c.entries.length
        let ps := s.permPackets c i e
        (s.sendAll ps (.coll c.id i)).permGo { c with entries := rest, active := c.active ++ [(i, ps.length)] } f
      else s.putColl c
    | [] =>
      let got := s.permGot (cTag c.b)
      let want := fieldB c.b 24 5
      if c.active.isEmpty && decide (want ≤ got.1) then
        s.collEnd c (if want < got.1 then 2 else 0) got.2
      else s.putColl c

/-- A packet of a permutation has been acknowledged. -/
def State.collAck (s : State) (id entry : Nat) : State :=
  match s.coll.jobs.find? (fun c => c.id == id) with
  | some c =>
    if cOp c.b = 6 then
      let act := (c.active.map (fun a => if a.1 = entry then (a.1, a.2 - 1) else a)).filter (fun a => a.2 ≠ 0)
      s.permGo { c with active := act } (c.entries.length + 1)
    else s
  | none => s

/-- Data of a put packet written at its address: none of it where an address is bad, and poisoned quarters poison (R161,
R208, R218). Answers the status: 5 where a poisoned line was written, or a part of one (R220). -/
def State.landPut (s : State) (p : Packet) : State × Nat :=
  let a := fieldB p.payload 0 6
  let n := p.len - 16
  let u := (packetUnit p).drop 16
  let st := s.rowStatus a n
  if st = 0 then
    let r := s.putBytesAt s.windows a (cuBytes u) (u.map (·.2)) 6
    (r.1, if r.2 then 5 else 0)
  else (s, st)

/-- The lines that a put or get reply writes wait for nothing at their homes (R197, R210). -/
def State.linesFree (s : State) (p : Packet) : Bool := !s.rangeHeld (fieldB p.payload 0 6) (p.len - 16)

/-- No tile that a put would write has an operation at its scoreboard, and no line waits (R91, R210). -/
def State.putFree (s : State) (p : Packet) : Bool :=
  s.linesFree p && (tilesOfRows (fieldB p.payload 0 6) (p.len - 16) 0 1).all (fun t =>
    (s.die (cdOf t.1)).sb.all (fun e => e.tile != t.2))

/-! ### Start and progress (R310, R316, R317, R321) -/

/-- The plan of a data collective (Table 9-2, R317, R321). -/
def planOf (g : Group) (b : List Byte) : List CMove :=
  let l := List.range (cUnits b)
  let red (phase : Nat) (exps : Bool) : List CMove := g.reduceAll l phase exps
  match cOp b with
  | 2 => g.gatherAll l 2 false
  | 3 => g.castAll (cRoot b) l
  | 5 => g.shiftMoves (cOffset b) l
  | _ => (if cExact b then red 0 true ++ g.gatherAll l 0 true ++ [.convert] else [])
    ++ red 1 false ++ (if cOp b = 1 then [] else g.gatherAll l 2 false)

/-- A data unit as the member begins with it: its source where it takes part with it, zeros of the same size where it
drops or holds nothing there (R312, R316; log entry 19). -/
def State.startUnit (s : State) (g : Group) (b : List Byte) (host : HostData) (mine : List Nat) (i : Nat) : CUnit :=
  let n := s.cSize b host i
  let op := cOp b
  let holds := if op = 2 then mine.contains i else if op = 3 then g.isRoot (cRoot b) else true
  if !holds then cuOf (zeroB n) false
  else if cReduces b && cDrop b then
    (if cSrcFmt b = .s64 then cuOf (blkEncode (blkZero (s.cSrcWide b host) 0)) false else cuOf (zeroB n) false)
  else s.cRead b host (s.cOff b host i) n

/-- Elements of the local source that a predicate holds of (Table 9-5). -/
def countVals (b : List Byte) (f : Val → Bool) (data : List CUnit) : Nat :=
  if cReduces b = false ∨ cDrop b = true ∨ cSrcFmt b = .s64 then 0
  else data.foldl (fun n u => n + ((rawVals (cSrcFmt b) u).filter f).length) 0

/-- A started data collective with its source read. -/
def State.loadColl (s : State) (c : Coll) (host : HostData) : Coll :=
  let g := s.groupC c
  let l := List.range (cUnits c.b)
  let data := l.map (s.startUnit g c.b host (g.share l g.t.self))
  let ps := g.liveRing
  let src := ps.getD ((((ps.idxOf g.t.self : Nat) : Int) - cOffset c.b) % (ps.length : Int)).toNat 0
  { c with
    running := true
    moves := planOf g c.b
    data := data
    exps := if cReduces c.b && cExact c.b then data.map (fun u => cuOf (natLE 2 (expOf c.b u)) (!cDrop c.b && cuBad u)) else []
    checks := (g.neighbours c.b).map (fun n => (n.1, n.2.1))
    nan := countVals c.b valIsNan data
    inf := countVals c.b valIsInf data
    base := if cOp c.b = 5 ∧ src = g.t.self then cRoot c.b else 0
    sender := if cOp c.b = 5 then src else 0 }

/-- A running collective takes what has arrived: checks first, then its plan (R323, R324). -/
def State.collRun (s : State) (c : Coll) : State :=
  let k := takeChecks c.b c.checks s.coll.arr
  let other := c.otherChecks (s.groupC c) k.2.1
  let bad := k.2.2 || other.any (fun p => !checkAgrees (sliceB p.payload 4 25) (checkBody c.b))
  let s := { s with coll := { s.coll with arr := k.2.1.filter (fun p => !other.contains p) } }
  let c := { c with checks := k.1 }
  if bad then s.collAbort c 2
  else match cOp c.b with
  | 6 => s.permGo c (c.entries.length + 1)
  | 7 => s.pitchGo c (s.coll.arr.length + 6)
  | _ =>
    let r := s.collMoves c c.moves
    if r.2.moves.isEmpty && r.2.checks.isEmpty then r.1.collDone r.2 else r.1.putColl r.2

/-- A collective that runs goes on, as it now stands. -/
def State.collOn (s : State) (id : Nat) : State :=
  match s.coll.jobs.find? (fun c => c.running && c.id == id) with
  | some c => s.collRun c
  | none => s

/-- The collectives of a tag that run take what has arrived. -/
def State.collWake (s : State) (tag : Nat) : State :=
  ((s.coll.jobs.filter (fun c => cTag c.b == tag)).map (·.id)).foldl State.collOn s

/-- Tiles that a collective reads, and those it writes (R206). -/
def State.collTiles (s : State) (c : Coll) (host : HostData) : List (Nat × Nat) × List (Nat × Nat) :=
  let sum := tilesOfRows (cSummary c.b) 32 0 1
  if cOp c.b = 7 then ([], sum)
  else if cOp c.b = 6 then
    (((List.range (cCount c.b)).map (s.permEntry c.b host)).flatMap (fun e => tilesOfRows (peSrc e) (peLen e) 0 1), sum)
  else (tilesOfRows (cSrc c.b) (s.cSrcBytes c.b host) 0 1,
    (tilesOfRows (cDst c.b) (cDstBytes c.b (s.cForm c.b host)) 0 1 ++ sum).eraseDups)

/-- What a collective reads as it starts: source, or permutation entries and their data. Its status (R313), and whether a
line of it waits at its home. -/
def State.collInput (s : State) (c : Coll) (host : HostData) : Nat × Bool :=
  if cOp c.b = 7 then (0, false)
  else if cOp c.b = 6 then
    let ents := (List.range (cCount c.b)).map (s.permEntry c.b host)
    (firstBad (s.cReads host (cSrc c.b) (32 * cCount c.b) 64 :: ents.map (fun e => s.srcStatus (s.view host) (peSrc e) (peLen e))),
      ents.any (fun e => s.rangeHeld (peSrc e) (peLen e)))
  else (s.collRegions c.b host, s.rangeHeld (cSrc c.b) (s.cSrcBytes c.b host))

/-- A collective that may start begins: it holds its tiles, reads what host returned for its host windows, and sends its
checks; a region that is not readable ends it with status 7 (R310, R313, R343). -/
def State.collBegin (s : State) (c : Coll) (host : HostData) : State :=
  let g := s.groupC c
  let op := cOp c.b
  if op ≠ 6 ∧ (g.empty || g.excl.contains g.t.self) = true then s.collEnd c 3 false
  else
    let x := s.collTiles c host
    let s := s.sbEnter (whoMove c.cd c.op) x.1 x.2
    let r := s.collInput c host
    if s.sbHeld (whoMove c.cd c.op) = false ∨ r.2 = true then s
    else if r.1 ≠ 0 then
      ({ s with coll := { s.coll with jobs := s.coll.jobs.filter (fun j => j.id != c.id) } }.sbDrop
        (whoMove c.cd c.op)).endHelper c.cd c.op r.1
    else
      let s := if op ≤ 5 then s.askHost s.windows (cSrc c.b) (s.cSrcBytes c.b host) else s
      let c := { c with host := host, slots := [c.bd] }
      let n := if op = 6 then { c with running := true, entries := (List.range (cCount c.b)).map (s.permEntry c.b host) }
        else if op = 7 then { c with
          running := true
          pitch := s.ownPitch c.b
          checks := (g.neighbours c.b).map (fun n => (n.1, n.2.1)) }
        else s.loadColl c host
      ((s.putColl n).sendChecks n).collRun n

/-- An engine goes on: the later stages that wait for it take their places, then the next collective accepted by it starts
(R321). host is what the host returned for what the collective reads in host windows. -/
def collStart (eng : Fin 4) (host : HostData) (s : State) : State :=
  let s := ((s.coll.jobs.filter (fun c => c.running && c.engines.contains eng.val && !c.slots.contains eng.val)).map (·.id)).foldl
    State.collOn s
  match s.coll.jobs.find? (fun c => !c.running && c.bd == eng.val) with
  | none => s
  | some c => if s.stageFree c c.bd then s.collBegin c host else s

def execCollStart (eng : Fin 4) (host : HostData) (hostOk : Bool) (s : State) : Out :=
  .next (collStart eng (hostGot hostOk host) s)

/-! ### Packets (R323, R324, R326, R334, Table 9-8) -/

/-- A packet of a collective or pitch kept for the collective of its tag. -/
def State.keepColl (s : State) (p : Packet) : State :=
  ({ s with coll := { s.coll with arr := s.coll.arr ++ [p] } }).collWake (fld p.flow 8 6)

def collPhase (phase : Nat) (p : Packet) : Bool := p.type == 0x09 && fld p.flow 4 2 == phase

/-- A check packet (R324); reserved subtypes have no effect. -/
def execCollCheck (q : Fin 9) (s : State) : Out :=
  .next (takePacket q (fun p => collPhase 3 p && fieldB p.payload 0 1 != 1)
    (fun p s => if fieldB p.payload 0 1 = 0 then s.keepColl p else s) s)

/-- A stream packet kept with the position base that comes with it (R336; log entry 20). -/
def withBase (p : Packet) (base : Nat) : Packet := { p with payload := sliceB p.payload 0 256 ++ natLE 4 (base % 2 ^ 20) }

def execCollStreamPacket (q : Fin 9) (base : Nat) (s : State) : Out :=
  .next (takePacket q (fun p => p.type == 0x09 && fld p.flow 4 2 != 3) (fun p s => s.keepColl (withBase p base)) s)

/-- An abort ends the oldest accepted collective of its tag and axis in which its sender takes part, and is passed on
(R308, R326). -/
def takeAbort (p : Packet) (s : State) : State :=
  match s.coll.jobs.find? (fun c => cTag c.b == fld p.flow 8 6 && c.engines.contains (fld p.flow 14 2) && !c.excl.contains p.src) with
  | some c => s.collAbort c 1
  | none => s

def execAbortPacket (q : Fin 9) (s : State) : Out :=
  .next (takePacket q (fun p => collPhase 3 p && fieldB p.payload 0 1 == 1) takeAbort s)

/-- A permutation put is written and counted for its tag (R334; log entry 21). -/
def takePermData (p : Packet) (s : State) : State :=
  let tag := fld p.flow 8 6
  let old := s.permGot tag
  let r := s.landPut p
  ({ r.1 with coll := { r.1.coll with
    permArr := tabSet r.1.coll.permArr tag (old.1 + (p.len - 16), old.2 || r.2 == 5) } }).collWake tag

def execPermutationData (q : Fin 9) (s : State) : Out :=
  .next (takePacket q (fun p => collPhase 3 p && s.putFree p) takePermData s)

/-- An arrival; reserved subtypes have no effect. -/
def execPitchArrival (q : Fin 9) (s : State) : Out :=
  .next (takePacket q (fun p => p.type == 0x0A && fieldB p.payload 0 1 != 1)
    (fun p s => if fieldB p.payload 0 1 = 0 then s.keepColl p else s) s)

def execPitchRelease (q : Fin 9) (s : State) : Out :=
  .next (takePacket q (fun p => p.type == 0x0A && fieldB p.payload 0 1 == 1) (fun p s => s.keepColl p) s)

/-! ### Pace packets (R330, R331) -/

/-- The 20 bytes of a pace request or notice (Table 9-8). -/
def paceBytes (sub step pace reason dur origin : Nat) : List Byte :=
  natLE 4 sub ++ natLE 4 step ++ natLE 2 pace ++ natLE 1 reason ++ [0] ++ natLE 4 dur ++ natLE 4 origin

/-- The global root of the pace group: the root's components on the axes, or its stand-in. -/
def Group.globalRoot (g : Group) (root : Nat) : Nat :=
  g.player (g.axes.foldl (fun c k => setAxis c k (coordAxis root k)) g.t.self)

/-- A pace request to the global root (R330). -/
def State.sendPace (s : State) (pace reason dur : Nat) : State :=
  match s.coll.group with
  | some (b, excl) =>
    let g := s.groupOf b excl
    (s.sendFlow (s.mkPacket (g.globalRoot (cRoot b)) 0x0B (cFlow b g.low 1 0) 20 true 0
      (paceBytes 0 s.coll.lastStep pace reason dur s.selfCoord)) .none).countReg 0x5018 1
  | none => s

/-- A notice down the pitch tree of the pace group (R331). -/
def State.relayPace (s : State) (body : List Byte) : State :=
  match s.coll.group with
  | some (b, excl) =>
    let g := s.groupOf b excl
    (g.down (cRoot b) (g.rootLevels (cRoot b))).foldl (fun t n =>
      t.sendFlow (t.mkPacket n.2 0x0B (cFlow b n.1 2 0) 20 true 0 ([1] ++ body.drop 1)) .none) s
  | none => s

/-- A global root takes a request: a pace below the last relayed goes down as a notice, and acts on it too (R331). -/
def takePaceRequest (p : Packet) (s : State) : State :=
  let pace := fld (fieldB p.payload 8 2) 0 11
  let isRoot := match s.coll.group with
    | some (b, excl) => (s.groupOf b excl).globalRoot (cRoot b) == s.selfCoord && !excl.contains p.src
    | none => false
  if isRoot && decide (pace < s.coll.relayed) then
    (({ s with coll := { s.coll with relayed := pace } }).relayPace (sliceB p.payload 0 20)).takePace pace (fieldB p.payload 10 1)
  else s

def execPaceRequest (q : Fin 9) (s : State) : Out :=
  .next (takePacket q (fun p => p.type == 0x0B && fieldB p.payload 0 1 != 1)
    (fun p s => if fieldB p.payload 0 1 = 0 then takePaceRequest p s else s) s)

/-- Whether the pace group excludes a device (R308). -/
def State.paceExcludes (s : State) (c : Nat) : Bool :=
  match s.coll.group with
  | some (_, excl) => excl.contains c
  | none => false

/-- A member takes a notice: counted, passed on, handed to the ledger (R331); none of an excluded device. -/
def takePaceNotice (p : Packet) (s : State) : State :=
  if s.paceExcludes p.src then s else ((s.countReg 0x501C 1).relayPace (sliceB p.payload 0 20)).takePace (fld (fieldB p.payload 8 2) 0 11) (fieldB p.payload 10 1)

def execPaceNotice (q : Fin 9) (s : State) : Out :=
  .next (takePacket q (fun p => p.type == 0x0B && fieldB p.payload 0 1 == 1) takePaceNotice s)

/-- COLL_CMD.abort ends every collective in progress with outcome 1 (R326). -/
def abortAll (s : State) : State :=
  (s.coll.jobs.filter (·.running)).foldl (fun t c => t.collAbort c 1) s

def execCollCmdAbort (s : State) : Out := .next (if s.ready then abortAll s else s)

end Sys2Proof.Machine
end

