-- ==== Sys2Proof/Machine/GristDir.lean ====
section
/-! DEFINITION. Table records, the directory, row slots, row values, look-up pooling and the folding of one row
(R228–R236, R240, R245–R254, R256). -/

namespace Sys2Proof.Machine

/-! ### Table records (Table 7-1) -/

def gAdagrad (r : List Byte) : Bool := bitAt (fieldB r 0 1) 1
def gFmt (r : List Byte) : Fmt := match fld (fieldB r 0 1) 2 2 with | 0 => .f32 | 1 => .f16 | 2 => .q8 | _ => .q4
def gStrict (r : List Byte) : Bool := bitAt (fieldB r 0 1) 4
def gMirrors (r : List Byte) : Bool := bitAt (fieldB r 0 1) 5
def gActive (r : List Byte) : Nat := fld (fieldB r 1 1) 0 1
def gPending (r : List Byte) : Bool := bitAt (fieldB r 1 1) 1
def gN (r : List Byte) : Nat := 16 * (fld (fieldB r 2 1) 0 6 + 1)
def gB (r : List Byte) : Nat := fieldB r 3 1
def gBeta (r : List Byte) : Nat := fieldB r 4 1
def gSigma (r : List Byte) : Int := toSigned 8 (fieldB r 5 1)
def gRows (r : List Byte) : Nat := fieldB r 8 8
def gSeed (r : List Byte) : Nat := fieldB r 16 8
def gMap (r : List Byte) : Nat := fieldB r 24 8
def gSlab (r : List Byte) (v : Nat) : Nat := fieldB r (32 + 8 * v) 8
def gHot (r : List Byte) (v : Nat) : Nat := fieldB r (48 + 8 * v) 8
def gDelta (r : List Byte) (k : Nat) : Nat := fieldB r (64 + 8 * k) 8
def gE (r : List Byte) : Nat := fieldB r 80 1
def gLr (r : List Byte) : Val := ffDecode ffF32 (fieldB r 88 4)
def gEps (r : List Byte) : Val := ffDecode ffF32 (fieldB r 92 4)
def gSwitch (r : List Byte) : Nat := fieldB r 96 4
def gSlabCount (r : List Byte) : Nat := fieldB r 100 4
def gAcc (r : List Byte) (v : Nat) : Nat := fieldB r (104 + 8 * v) 8
def gCounter (r : List Byte) : Nat := fieldB r 120 8

/-- A record that names no table: not valid, a reserved value, or a base off its 4 KiB boundary (R229). -/
def recordBad (r : List Byte) : Bool :=
  let f := fieldB r 0 1
  !bitAt f 0 || decide (fld f 6 2 ≠ 0) || decide (fieldB r 1 1 / 4 ≠ 0) || decide (fieldB r 2 1 / 64 ≠ 0)
    || decide (gB r < 1 ∨ 40 < gB r) || decide (20 < gBeta r ∨ gB r < gBeta r) || decide (fieldB r 6 2 ≠ 0)
    || decide (gRows r < 1 ∨ 2 ^ gB r < gRows r) || decide (gE r < 4 ∨ 24 < gE r) || decide (fieldB r 81 3 ≠ 0)
    || [gSlab r 0, gSlab r 1, gHot r 0, gHot r 1, gDelta r 0, gDelta r 1, gAcc r 0, gAcc r 1, gCounter r].any
        (fun a => decide (a % 4096 ≠ 0))

/-- The record of a table, none where it names no table; a poisoned record line names none (log entry 22). -/
def State.record (s : State) (table : Nat) (mirror : Bool) : Option (List Byte) :=
  let a := s.recordAddr table mirror
  let r := s.bytes a 128
  if recordBad r || s.rangePoisoned a 128 then none else some r

/-- Step a is older than step b: signed difference modulo 2^32 (R249). -/
def older (a b : Nat) : Bool := decide (modDiff 32 a b < 0)

/-- The version a step uses (R254). -/
def gVersion (r : List Byte) (step : Nat) : Nat :=
  if gPending r && !older step (gSwitch r) then 1 - gActive r else gActive r

/-- The smallest power of two that is at least x. -/
def pow2Up (x : Nat) : Nat := if x ≤ 1 then 1 else 2 ^ (Nat.log2 (x - 1) + 1)

/-- Bytes of a row slot (R231). -/
def gSlot (r : List Byte) : Nat := pow2Up (rowBytes (gFmt r) (gN r))

def gRowsPerSlab (r : List Byte) : Nat := 2 ^ (gB r - gBeta r)

/-! ### Finding a row (R233–R235) -/

/-- One round of the permutation (R233). -/
def permRound (b seed x : Nat) : Nat :=
  let x := (x + seed) % 2 ^ b
  let x := x * 0x9FB21C651E98DF25 % 2 ^ 64 % 2 ^ b
  x ^^^ (x >>> ((b + 1) / 2))

/-- The permuted index of a row (R233). -/
def permIndex (r : List Byte) (row : Nat) : Nat := permRound (gB r) (gSeed r) (permRound (gB r) (gSeed r) (row % 2 ^ gB r))

/-- Address of override entry i (R235). -/
def State.ovAddr (s : State) (i : Nat) : Nat := s.regPair 0x6010 % 2 ^ 48 + 16 * (i % 2 ^ 20)

/-- The eight probe entries of a row's window (R235). -/
def ovWindow (table h : Nat) : List Nat := (List.range 8).map (fun i => (h + 65537 * table + i) % 2 ^ 20)

/-- An override entry of a row: valid, with its table and row. -/
def ovMatches (e : List Byte) (table row : Nat) : Bool :=
  bitAt (fieldB e 0 8) 63 && fld (fieldB e 0 8) 0 40 == row && fld (fieldB e 0 8) 40 12 == table

/-- The matching entry of a row: its index, its owner and its hot index (R235). -/
def State.override (s : State) (table row h : Nat) : Option (Nat × Nat × Nat) :=
  ((ovWindow table h).find? (fun i => ovMatches (s.bytes (s.ovAddr i) 16) table row)).map (fun i =>
    let e := s.bytes (s.ovAddr i) 16
    (i, fld (fieldB e 8 4) 0 20, fieldB e 12 4))

/-- The bucket map's entry of a permuted index: owner and slab (R234). -/
def State.bucket (s : State) (r : List Byte) (h : Nat) : Nat × Nat :=
  let e := s.num (gMap r + 8 * (h % 2 ^ gBeta r)) 8
  (fld e 0 20, fld e 20 20)

/-- The owner of a row (R234, R235). -/
def State.ownerOf (s : State) (table : Nat) (r : List Byte) (row : Nat) : Nat :=
  let h := permIndex r row
  match s.override table row h with
  | some (_, owner, _) => owner
  | none => (s.bucket r h).1

/-- A row's place on this device: slot, accumulator, and its slab where it is a home slot. -/
structure RowPlace where
  slot : Nat
  acc : Nat
  slab : Option Nat
  deriving DecidableEq, Repr

/-- The home slot of a row in a version (R234). -/
def State.homePlace (s : State) (r : List Byte) (v row : Nat) : RowPlace :=
  let h := permIndex r row
  let b := s.bucket r h
  let k := b.2 * gRowsPerSlab r + h / 2 ^ gBeta r
  ⟨gSlab r v + k * gSlot r, gAcc r v + 4 * k, some b.2⟩

/-- A hot slot of a version (R235). -/
def hotPlace (r : List Byte) (v hot : Nat) : RowPlace :=
  ⟨gHot r v + hot * gSlot r, gAcc r v + 4 * (gSlabCount r * gRowsPerSlab r + hot), none⟩

/-- Where a row lies under the directory in force (R234, R235). -/
def State.placeOf (s : State) (table : Nat) (r : List Byte) (v row : Nat) : RowPlace :=
  match s.override table row (permIndex r row) with
  | some (_, _, hot) => hotPlace r v hot
  | none => s.homePlace r v row

/-- The base die of the engine that serves an address (R232). -/
def State.engineAt (s : State) (a : Nat) : Nat := (s.quadAt a).getD 0

/-! ### Row values (R231, R240, R252) -/

/-- The dequantised elements of a row's bytes, exact. -/
def rowElems (r : List Byte) (bytes : List Byte) : List Val :=
  match gFmt r with
  | .f32 => (List.range (gN r)).map (fun j => ffDecode ffF32 (fieldB bytes (4 * j) 4))
  | .f16 => (List.range (gN r)).map (fun j => ffDecode ffF16 (fieldB bytes (2 * j) 2))
  | f => rowVals f (gN r) bytes

/-- A row's bytes from its values: one requantisation (R252); with whether it took a NaN header. -/
def rowPack (r : List Byte) (vs : List Val) : List Byte × Bool :=
  match gFmt r with
  | .f32 => (vs.flatMap (fun v => natLE 4 (ffEncode ffF32 (gStrict r) .nearest v).1), false)
  | .f16 => (vs.flatMap (fun v => natLE 2 (ffEncode ffF16 (gStrict r) .nearest v).1), false)
  | f => ((quantDerived f (gStrict r) vs).1, gStrict r && strictBadRow vs)

def gRowBytes (r : List Byte) : Nat := rowBytes (gFmt r) (gN r)

/-- A binary32 result under Table 2-7 in the table's mode. -/
def g32 (r : List Byte) (v : Val) (ins : List Val) : Val := (roundF32 (gStrict r) .nearest v ins).1
def gFma (r : List Byte) (a b c : Val) : Val := g32 r (vFma .nearest a b c) [a, b, c]

/-- The new elements and accumulator of a row folded with its deltas (R252). -/
def foldRow (r : List Byte) (deltas : List Int) (ws : List Val) (acc : Val) : List Val × Val :=
  let g := deltas.map (fun d => g32 r (valOfDyadic d (gSigma r)) [])
  let w := ws.map (fun v => g32 r v [v])
  let neg (v : Val) : Val := vNeg v
  if gAdagrad r then
    let m := g.foldl (fun m x => gFma r x x m) .zero
    let m := g32 r (vDiv m (valOfInt (gN r))) [m]
    let acc := g32 r (vAdd .nearest acc m) [acc, m]
    let q := g32 r (fnSqrt acc) [acc]
    let t := g32 r (vAdd .nearest q (gEps r)) [q, gEps r]
    let k := g32 r (vDiv (gLr r) t) [gLr r, t]
    (List.zipWith (fun x y => gFma r (neg k) x y) g w, acc)
  else (List.zipWith (fun x y => gFma r (neg (gLr r)) x y) g w, acc)

/-- What folding a row did: poisoned, left or written so; quantised to a NaN header. -/
structure FoldRes where
  poisoned : Bool
  nanRow : Bool
  deriving DecidableEq, Repr

/-- Deltas folded into the row at a place (R252, R253): a poisoned row or accumulator line is left as it is; deltas that
derive from poison write the row poisoned (R218). -/
def State.foldInto (s : State) (r : List Byte) (p : RowPlace) (deltas : List Int) (bad : Bool) : State × FoldRes :=
  let n := gRowBytes r
  if s.rangePoisoned p.slot n || (gAdagrad r && s.poisoned p.acc) then (s, ⟨true, false⟩)
  else if bad then
    let t := s.poisonRange p.slot n
    (if gAdagrad r then t.poisonLine p.acc else t, ⟨true, false⟩)
  else
    let x := foldRow r deltas (rowElems r (s.bytes p.slot n)) (ffDecode ffF32 (s.num p.acc 4))
    let b := rowPack r x.1
    let t := s.write p.slot b.1
    (if gAdagrad r then t.write p.acc (natLE 4 (ffEncode ffF32 (gStrict r) .nearest x.2).1) else t, ⟨false, b.2⟩)

/-! ### Pooling (R240, R241) -/

/-- One value added to an X128 accumulation (R38–R41). -/
def xPool (strict : Bool) (acc : X128) (v : Val) : X128 := (xAdd strict acc (xOfVal strict .nearest v).1).1

/-- The partial of a request: each element accumulated over the rows in order, or its maximum, and rounded once to
F32. Rows are given by their values and weight pattern. -/
def poolRows (r : List Byte) (pooling : Nat) (rows : List (List Val × Nat)) : List Nat :=
  (List.range (gN r)).map (fun j =>
    let vs := rows.map (fun x =>
      let v := x.1.getD j .zero
      if pooling = 2 then vMul v (ffDecode ffF32 x.2) else v)
    let out := if pooling = 3 then (match vs with | [] => .zero | v :: t => t.foldl vMax v)
      else xVal (vs.foldl (xPool (gStrict r)) (.exact 0))
    (ffEncode ffF32 (gStrict r) .nearest out).1)

/-- An output element of a bag from the partials in their order and the ids pooled (R241). -/
def poolBag (r : List Byte) (pooling half total : Nat) (ps : List Nat) : Nat :=
  let vs := ps.map (ffDecode ffF32)
  let out := if total = 0 then .zero
    else if pooling = 3 then (match vs with | [] => .zero | v :: t => t.foldl vMax v)
    else
      let x := xVal (vs.foldl (xPool (gStrict r)) (.exact 0))
      if pooling = 1 then vDiv x (valOfInt total) else x
  (ffEncode (if half = 1 then ffF16 else ffF32) (gStrict r) .nearest out).1

/-! ### Skew (R256, R257) -/

def State.gWarmed (s : State) : Bool := bitAt (s.reg 0x601C) 16

/-- Columns of a row in the four rows of a sketch. -/
def sketchKeys (eng table h : Nat) : List Nat :=
  (List.range 4).map (fun d => eng * 16384 + d * 4096 + ((h ^^^ (table * 2 ^ 20)) >>> (10 * d)) % 4096)

/-- A top list with an id's estimate: refreshed where listed, else in place of the smallest it exceeds. -/
def topInsert (l : List (Nat × Nat × Nat)) (table row est : Nat) : List (Nat × Nat × Nat) :=
  if l.any (fun e => e.1 == table && e.2.1 == row) then
    l.map (fun e => if e.1 = table ∧ e.2.1 = row then (table, row, est) else e)
  else if l.length < 256 then l ++ [(table, row, est)]
  else
    let m := l.foldl (fun m e => min m e.2.2) (2 ^ 32)
    if m < est then
      match l.find? (fun e => e.2.2 == m) with
      | some e => l.erase e ++ [(table, row, est)]
      | none => l
    else l

/-- A pooled id counted: its slab's bucket counter and the engine's sketch, once counting has begun (R256, R257). -/
def State.countId (s : State) (table : Nat) (r : List Byte) (p : RowPlace) (row : Nat) : State :=
  if !s.gWarmed then s
  else
    let eng := s.engineAt p.slot
    let s := match p.slab with
      | some k =>
        let a := gCounter r + 4 * k
        s.write a (natLE 4 (satAdd32 (s.num a 4) 1))
      | none => s
    let keys := sketchKeys eng table (permIndex r row)
    let sk := keys.foldl (fun m k => tabSet m k (satAdd32 (tabGet 0 m k) 1)) s.grist.sketch
    let est := (keys.map (tabGet 0 sk)).foldl min (2 ^ 32)
    { s with grist := { s.grist with
      sketch := sk
      top := s.grist.top.set (fabBd eng) (topInsert s.grist.top[fabBd eng] table row est) } }

/-! ### Delta regions (R245–R250) -/

def regionKey (table : Nat) (mirror : Bool) (k : Nat) : Nat := (table * 2 + (if mirror then 1 else 0)) * 2 + k

def State.deltaRegion (s : State) (table : Nat) (mirror : Bool) (k : Nat) : Region :=
  tabGet ⟨0, none⟩ s.grist.regions (regionKey table mirror k)

def State.setRegion (s : State) (table : Nat) (mirror : Bool) (k : Nat) (x : Region) : State :=
  { s with grist := { s.grist with regions := tabSet s.grist.regions (regionKey table mirror k) x } }

/-- What a region does with an update (Table 7-9): performed, refused as late, refused as busy. -/
inductive UpdVerdict where
  | perform | late | busy
  deriving DecidableEq, Repr

def regionVerdict (x : Region) (step : Nat) : UpdVerdict :=
  match x.st, x.step with
  | 0, none => .perform
  | 0, some t => if older t step then .perform else .late
  | 1, some t => if t = step then .perform else if older t step then .busy else .late
  | _, some t => if older t step then .busy else .late
  | _, none => .perform

/-- Bytes of a delta entry (R245). -/
def entryBytes (r : List Byte) : Nat := 64 + 8 * gN r

def entryAddr (r : List Byte) (k i : Nat) : Nat := gDelta r k + (i % 2 ^ gE r) * entryBytes r

/-- The entry of a row: an entry of its key, else the first that cas64 from 0 claims; none where the sixteen examined hold
other rows (R246, R250). A poisoned key line holds no row it can be told by, and one that is not valid and not 0 cannot be
claimed: both are passed over (log entry 52). -/
def State.findEntry (s : State) (r : List Byte) (k row h : Nat) : Nat → State × Option Nat
  | 0 => (s, none)
  | n + 1 =>
    let a := entryAddr r k (h + (15 - n))
    let key := s.num a 8
    if s.poisoned a then s.findEntry r k row h n
    else if bitAt key 63 then (if fld key 0 40 = row then (s, some a) else s.findEntry r k row h n)
    else if key = 0 then ((s.atomic ⟨4, a, 0, row + 2 ^ 63, 0, .nobody⟩).1, some a)
    else s.findEntry r k row h n

/-- The cellar region and offset that hold an address on a side (R375). -/
def State.cellarAt (s : State) (kind a : Nat) : Option (Nat × Nat) :=
  ((s.regions kind).find? (fun x => decide (x.2.1 ≤ a) && decide (a < x.2.1 + x.2.2))).map (fun x => (x.1, a - x.2.1))

/-- An entry of the direct list of a serving engine, a side and a step; beyond 4,096 the overflow is recorded (R375). -/
def State.addDirect (s : State) (eng side step a len : Nat) : State :=
  match s.cellarAt side a with
  | none => s
  | some (region, off) =>
    let n := (s.dep.direct.filter (fun e => e.side == side && e.step == step && e.eng == eng)).length
    if n < 4096 then { s with dep := { s.dep with direct := s.dep.direct ++ [⟨side, step, eng, region, off, len⟩] } }
    else { s with dep := { s.dep with overflow := setIns s.dep.overflow step } }

/-- A contribution applied directly (R250): folded alone into its row at once, counted, and listed by the row's serving
engine where the table is mirrored (R375). Answers whether its row is left or written poisoned. -/
def State.applyDirect (s : State) (table : Nat) (mirror : Bool) (r : List Byte) (step row : Nat) (q : List Int)
    (bad : Bool) : State × Bool :=
  let p := s.placeOf table r (gVersion r step) row
  let x := s.foldInto r p q bad
  let s := x.1.countReg 0x6020 1
  let side := if mirror then 1 else 0
  let eng := s.engineAt p.slot
  (if gMirrors r || mirror then
    let s := s.addDirect eng side step p.slot (gSlot r)
    if gAdagrad r then s.addDirect eng side step (p.acc / 64 * 64) 64 else s
  else s, x.2.poisoned)

/-- q_j of a contribution: units of 2^σ, nearest-even, saturated (R244, R247). -/
def quantDelta (r : List Byte) (v : Val) : Int × Bool :=
  let q := intEncode 64 .nearest (vMul v (valOfDyadic 1 (-gSigma r)))
  (toSigned 64 q.1, q.2.sat || q.2.inf)

/-- The exact contribution of a gradient element (R244). -/
def contribution (pooling count weight : Nat) (g : Val) : Val :=
  if pooling = 2 then vMul g (ffDecode ffF32 weight) else if pooling = 1 then vDiv g (valOfInt count) else g

/-- Integers added to an entry's elements from element j on (R246); an element that derives from poison poisons its
line (R218). -/
def State.addDeltas (s : State) (a j : Nat) (qs : List (Int × Bool)) : State :=
  (List.zip (List.range qs.length) qs).foldl (fun t x =>
    let e := a + 64 + 8 * (j + x.1)
    if x.2.2 then t.poisonLine e else (t.atomic ⟨2, e, ofSigned 64 x.2.1, 0, 0, .nobody⟩).1) s

/-- An entry folded and cleared (R252, R253): rows folded, poisoned and NaN rows. -/
def State.foldEntry (s : State) (table : Nat) (r : List Byte) (v a : Nat) : State × Nat × Nat × Nat :=
  let key := s.num a 8
  let lines := cdiv (entryBytes r) 64
  let clear (t : State) : State := (List.range lines).foldl (fun t i =>
    t.write (a + 64 * i) (zeroB (min 64 (entryBytes r - 64 * i)))) t
  if s.poisoned a then (clear s, 0, 1, 0)
  else if !bitAt key 63 then (s, 0, 0, 0)
  else
    let row := fld key 0 40
    let deltas := (List.range (gN r)).map (fun j => toSigned 64 (s.num (a + 64 + 8 * j) 8))
    let x := s.foldInto r (s.placeOf table r v row) deltas (s.rangePoisoned (a + 64) (8 * gN r))
    (clear x.1, if x.2.poisoned then 0 else 1, if x.2.poisoned then 1 else 0, if x.2.nanRow then 1 else 0)

/-- Every entry of a region folded (R252). -/
def State.foldRegion (s : State) (table : Nat) (r : List Byte) (k step : Nat) : State × Nat × Nat × Nat :=
  (List.range (2 ^ gE r)).foldl (fun x i =>
    let y := x.1.foldEntry table r (gVersion r step) (entryAddr r k i)
    (y.1, x.2.1 + y.2.1, x.2.2.1 + y.2.2.1, x.2.2.2 + y.2.2.2)) (s, 0, 0, 0)

/-! ### Requests on this device -/

/-- A fold is in progress on a table (R240). -/
def State.tableFolding (s : State) (table : Nat) (mirror : Bool) : Bool :=
  (s.deltaRegion table mirror 0).st == 2 || (s.deltaRegion table mirror 1).st == 2

def State.dirEpoch (s : State) : Nat := fld (s.reg 0x601C) 0 8

/-- The flow of a grist packet: sending base die, kind, stripe (R293). -/
def gristFlow (bd kind stripe : Nat) : Nat := bd % 4 * 2 ^ 14 + kind * 2 ^ 8 + 2 ^ 7 + stripe % 64

end Sys2Proof.Machine
end

