-- ==== Sys2Proof/Machine/GristServe.lean ====
section
/-! DEFINITION. The grist engine as an owner: look-up requests, update groups, migrated rows, mirror forwarding and
replies (R240, R244–R251, R261). -/

namespace Sys2Proof.Machine

/-! ### Requests on the wire (Table 7-8) -/

/-- The 32 header bytes of a request. -/
def gHeader (table kind : Nat) (mirror : Bool) (pooling n step epoch tag count : Nat) : List Byte :=
  natLE 2 (table % 4096 + kind * 4096 + (if mirror then 2 ^ 15 else 0)) ++ natLE 1 pooling ++ natLE 1 n ++ natLE 4 step
    ++ natLE 1 epoch ++ zeroB 3 ++ natLE 4 tag ++ natLE 4 count ++ zeroB 12

/-- The ids of a request, with their weights in weighted mode. -/
def gIds (pooling : Nat) (ids weights : List Nat) : List Byte :=
  if fld pooling 0 3 = 2 then sliceB (ids.flatMap (natLE 8)) 0 144 ++ weights.flatMap (natLE 4) else ids.flatMap (natLE 8)

/-- The packet of a look-up or update request's ids. -/
def State.idsPacket (s : State) (dst bd fkind kind table : Nat) (mirror : Bool) (pooling step tag count : Nat)
    (ids weights : List Nat) : Packet :=
  let body := gIds pooling ids weights
  s.mkPacket dst 0x0C (gristFlow bd fkind (if fkind = 0 then tag else table)) (32 + body.length) (decide (fkind ≠ 0)) 0
    (gHeader table kind mirror pooling ids.length step s.dirEpoch tag count ++ body)

/-- The packets that carry a group's data in chunks of up to 224 bytes: gradient chunks or a migrated row. -/
def State.chunkPackets (s : State) (dst bd fkind kind table : Nat) (mirror : Bool) (pooling step tag count : Nat)
    (data : CUnit) : List Packet :=
  (List.range (cdiv data.length 224)).map (fun i =>
    let c := (data.drop (224 * i)).take 224
    let all := cuOf (zeroB 32) false ++ c
    let q (k : Nat) : Nat := if cuBad ((all.drop (64 * k)).take 64) then 2 ^ k else 0
    s.mkPacket dst 0x0C (gristFlow bd fkind table) (32 + c.length) true (q 0 + q 1 + q 2 + q 3)
      (gHeader table kind mirror pooling i step s.dirEpoch tag count ++ cuBytes c))

/-- A reply chunk or an acknowledgement. -/
def State.gristReply (s : State) (bd dst tag chunk : Nat) (elems : List Nat) (flags pooled : Nat) : State :=
  let len := 32 + 4 * elems.length
  s.sendFlow (s.mkPacket dst 0x0D (gristFlow bd 3 tag) len false (if bitAt flags 0 then 2 ^ cdiv len 64 - 1 else 0)
    (natLE 4 tag ++ natLE 1 chunk ++ natLE 1 elems.length ++ natLE 1 flags ++ [0] ++ natLE 4 pooled ++ zeroB 20
      ++ elems.flatMap (natLE 4))) .none

/-- Fields of a request. -/
def rqTable (b : List Byte) : Nat := fld (fieldB b 0 2) 0 12
def rqKind (b : List Byte) : Nat := fld (fieldB b 0 2) 12 3
def rqMirror (b : List Byte) : Bool := bitAt (fieldB b 0 2) 15
def rqPooling (b : List Byte) : Nat := fieldB b 2 1
def rqN (b : List Byte) : Nat := fieldB b 3 1
def rqStep (b : List Byte) : Nat := fieldB b 4 4
def rqEpoch (b : List Byte) : Nat := fieldB b 8 1
def rqTag (b : List Byte) : Nat := fieldB b 12 4
def rqCount (b : List Byte) : Nat := fieldB b 16 4
def rqIds (b : List Byte) : List (Nat × Nat) :=
  (List.range (min (rqN b) 28)).map (fun i => (fld (fieldB b (32 + 8 * i) 8) 0 40,
    if fld (rqPooling b) 0 3 = 2 then fieldB b (176 + 4 * i) 4 else 0))

/-- Flags of a reply (Table 7-8): poisoned 1, stale 2, late 4, busy 8, applied directly 16. -/
def gristIs (kind : Nat) (p : Packet) : Bool := p.type == 0x0C && rqKind p.payload == kind

/-! ### Look-up (R240, R256) -/

/-- An owner pools the rows of a request and returns its partial; another directory epoch or a fold in progress is
answered at once. A table that is not valid here pools nothing (log entry 22). -/
def takeLookup (p : Packet) (s : State) : State :=
  let b := p.payload
  let table := rqTable b
  let tag := rqTag b
  match s.record table (rqMirror b) with
  | none => s.gristReply 0 p.src tag 0 [] 0 0
  | some r =>
    let ids := rqIds b
    let place (row : Nat) : RowPlace := s.placeOf table r (gVersion r (rqStep b)) row
    let bd := match ids with | x :: _ => s.engineAt (place x.1).slot | [] => 0
    if rqEpoch b ≠ s.dirEpoch then (s.countReg 0x6028 1).gristReply bd p.src tag 0 [] 2 0
    else if s.tableFolding table (rqMirror b) then s.gristReply bd p.src tag 0 [] 8 0
    else
      let n := gRowBytes r
      let bad := ids.any (fun x => s.rangePoisoned (place x.1).slot n)
      let part := poolRows r (fld (rqPooling b) 0 3) (ids.map (fun x => (rowElems r (s.bytes (place x.1).slot n), x.2)))
      let s := ids.foldl (fun t x => t.countId table r (place x.1) x.1) s
      (List.range (cdiv (gN r) 56)).foldl (fun t c =>
        t.gristReply bd p.src tag c ((part.drop (56 * c)).take 56) (if bad then 1 else 0) ids.length) s

/-- A look-up request; reserved kinds have no effect (Table 7-8). -/
def execGristLookupRequest (q : Fin 9) (s : State) : Out :=
  .next (takePacket q (fun p => p.type == 0x0C && (rqKind p.payload == 0 || decide (4 ≤ rqKind p.payload)))
    (fun p s => if rqKind p.payload = 0 then takeLookup p s else s) s)

/-! ### Update groups (R244–R251) -/

def State.findServe (s : State) (src flow tag kind : Nat) : Option GServe :=
  s.grist.serving.find? (fun g => g.src == src && g.flow == flow && g.tag == tag && g.kind == kind)

def sameServe (g h : GServe) : Bool := g.src == h.src && g.flow == h.flow && g.tag == h.tag && g.kind == h.kind

def State.dropServe (s : State) (g : GServe) : State :=
  { s with grist := { s.grist with serving := s.grist.serving.filter (fun h => !sameServe g h) } }

def State.putServe (s : State) (g : GServe) : State :=
  let s := s.dropServe g
  { s with grist := { s.grist with serving := s.grist.serving ++ [g] } }

/-- A group as it begins at its owner. -/
def newServe (p : Packet) (kind : Nat) : GServe :=
  let b := p.payload
  { src := p.src, flow := p.flow, tag := rqTag b, kind := kind, table := rqTable b, mirror := rqMirror b, step := rqStep b,
    refused := false, ids := [], pooling := rqPooling b, count := rqCount b, chunks := [], chunkNo := 0, direct := 0,
    flags := 0, fwd := none, fwdBusy := false }

/-- Base die from which a group's owner answers. -/
def State.serveBd (s : State) (g : GServe) : Nat :=
  match s.record g.table g.mirror, g.ids with
  | some r, x :: _ => s.engineAt (s.placeOf g.table r (gActive r) x.1).slot
  | _, _ => 0

/-- A group acknowledged to its requester and forgotten. The count is of contributions accepted into entries
(log entry 23). -/
def State.ackServe (s : State) (g : GServe) : State :=
  (s.gristReply (s.serveBd g) g.src g.tag 0 [] g.flags (g.ids.length - g.direct)).dropServe g

/-- A group refused with a flag: answered at once; its data packets, still to come, are taken and dropped. -/
def State.refuseServe (s : State) (g : GServe) (flag : Nat) : State :=
  (s.gristReply (s.serveBd g) g.src g.tag 0 [] flag 0).putServe { g with refused := true }

/-- The packets of a group forwarded to the cellar partner (R251, R261). -/
def State.forwardPackets (s : State) (g : GServe) (partner tag : Nat) : List Packet :=
  let bd := s.serveBd g
  if g.kind = 1 then
    s.idsPacket partner bd 2 1 g.table true g.pooling g.step tag g.count (g.ids.map (·.1)) (g.ids.map (·.2.1))
      :: s.chunkPackets partner bd 2 2 g.table true g.pooling g.step tag g.count g.chunks
  else s.chunkPackets partner bd 2 3 g.table true g.pooling g.step tag g.count g.chunks

/-- A performed group: forwarded where its table mirrors and a partner is configured, and then acknowledged once the
partner has; otherwise acknowledged at once (R251, R261). -/
def State.closeServe (s : State) (r : List Byte) (g : GServe) : State :=
  match s.partner with
  | some p =>
    if gMirrors r && !g.mirror then
      let tag := s.grist.nextTag % 2 ^ 32
      let s := { s with grist := { s.grist with nextTag := s.grist.nextTag + 1 } }
      (s.sendAll (s.forwardPackets g p tag) (.grist tag)).putServe { g with fwd := some tag, fwdBusy := false }
    else s.ackServe g
  | none => s.ackServe g

/-- Entries found or claimed for a group's ids (R246). -/
def State.claimAll (s : State) (r : List Byte) (k : Nat) : List (Nat × Nat) → State × List (Nat × Nat × Option Nat)
  | [] => (s, [])
  | x :: t =>
    let e := s.findEntry r k x.1 (permIndex r x.1) 16
    let rest := e.1.claimAll r k t
    (rest.1, (x.1, x.2, e.2) :: rest.2)

/-- An engine serves 4,096 requests already (R264). -/
def State.serveFull (s : State) (g : GServe) : Bool :=
  decide (4096 ≤ (s.grist.serving.filter (fun h => !h.refused && s.serveBd h == s.serveBd g)).length)

/-- The ids of an update group (R240, R246, R249, Table 7-9); an engine that can serve no more is busy (R264; log entry
52). -/
def takeUpdateIds (p : Packet) (s : State) : State :=
  let b := p.payload
  let g := newServe p 1
  match s.record g.table g.mirror with
  | none => s.refuseServe g 0
  | some r =>
    let g := { g with ids := (rqIds b).map (fun x => (x.1, x.2, none)) }
    if s.serveFull g then s.refuseServe g 8
    else if rqEpoch b ≠ s.dirEpoch then (s.countReg 0x6028 1).refuseServe g 2
    else
      let k := g.step % 2
      let x := s.deltaRegion g.table g.mirror k
      match regionVerdict x g.step with
      | .late => (s.countReg 0x6024 g.ids.length).refuseServe g 4
      | .busy => s.refuseServe g 8
      | .perform =>
        let s := if x.st = 0 then s.setRegion g.table g.mirror k ⟨1, some g.step⟩ else s
        let c := s.claimAll r k (rqIds b)
        c.1.putServe { g with ids := c.2 }

def execGristUpdateIds (q : Fin 9) (s : State) : Out := .next (takePacket q (gristIs 1) takeUpdateIds s)

/-- The quantised contributions of gradient elements for one id, each with its poison (R244, R247). -/
def deltasOf (r : List Byte) (pooling count weight : Nat) (c : CUnit) : List (Int × Bool) :=
  (List.range (c.length / 4)).map (fun j =>
    let u := (c.drop (4 * j)).take 4
    ((quantDelta r (contribution pooling count weight (ffDecode ffF32 (leNat (cuBytes u))))).1, cuBad u))

/-- The last chunk of a group has come: counts rise by 1, ids without an entry are applied directly, and the group
closes, its reply saying whether that left a row poisoned (R238, R246, R250). -/
def State.finishUpdate (s : State) (r : List Byte) (g : GServe) : State :=
  let pool := fld g.pooling 0 3
  let y := g.ids.foldl (fun t x => match x.2.2 with
    | some a => ((t.1.atomic ⟨0, a + 8, 1, 0, 0, .nobody⟩).1, t.2)
    | none =>
      let qs := deltasOf r pool g.count x.2.1 g.chunks
      let z := t.1.applyDirect g.table g.mirror r g.step x.1 (qs.map (·.1)) (qs.any (·.2))
      (z.1, t.2 || z.2)) (s, false)
  let n := (g.ids.filter (fun x => x.2.2.isNone)).length
  y.1.closeServe r { g with direct := n, flags := (if n = 0 then 0 else 16) + (if y.2 then 1 else 0) }

/-- A gradient chunk (R246, R247): its contributions are added to the entries of the group's ids; after the last one
the group is performed. -/
def takeChunk (p : Packet) (s : State) : State :=
  match s.findServe p.src p.flow (rqTag p.payload) 1 with
  | none => s
  | some g =>
    let c := (packetUnit p).drop 32
    let r := s.bytes (s.recordAddr g.table g.mirror) 128
    let h := { g with chunks := g.chunks ++ c, chunkNo := g.chunkNo + 1 }
    let last := decide (4 * gN r ≤ h.chunks.length)
    if g.refused then (if last then s.dropServe g else s.putServe h)
    else
      let s := g.ids.foldl (fun t x => match x.2.2 with
        | some a => t.addDeltas a (g.chunks.length / 4) (deltasOf r (fld g.pooling 0 3) g.count x.2.1 c)
        | none => t) s
      if last then s.finishUpdate r h else s.putServe h

def execGristGradientChunk (q : Fin 9) (s : State) : Out := .next (takePacket q (gristIs 2) takeChunk s)

/-! ### Migrated rows (R261) -/

/-- A packet of a migrated row: the row's bytes and its accumulator are collected, then written to the slot that the
command names, the hot slot or home, in the active version, and the group closes, its reply saying whether the row was
written poisoned (R238; log entry 24). -/
def takeMigrated (row : Nat) (hot : Option Nat) (p : Packet) (s : State) : State :=
  let b := p.payload
  let g := (s.findServe p.src p.flow (rqTag b) 3).getD
    { newServe p 3 with ids := [(row, match hot with | some h => h + 1 | none => 0, none)] }
  match s.record g.table g.mirror with
  | none => s.ackServe g
  | some r =>
    let h := { g with chunks := g.chunks ++ (packetUnit p).drop 32, chunkNo := g.chunkNo + 1 }
    let last := decide (gSlot r + 4 ≤ h.chunks.length)
    if g.refused then (if last then s.dropServe g else s.putServe h)
    else if g.chunkNo = 0 ∧ s.serveFull g = true then
      if last then s.gristReply (s.serveBd g) g.src g.tag 0 [] 8 0 else s.refuseServe h 8
    else if g.chunkNo = 0 ∧ rqEpoch b ≠ s.dirEpoch then
      if last then (s.countReg 0x6028 1).gristReply (s.serveBd g) g.src g.tag 0 [] 2 0
      else (s.countReg 0x6028 1).refuseServe h 2
    else if last then
      let pl := if (g.ids.headD (0, 0, none)).2.1 = 0 then s.homePlace r (gActive r) row
        else hotPlace r (gActive r) ((g.ids.headD (0, 0, none)).2.1 - 1)
      let c := h.chunks.take (gSlot r)
      let x := s.putBytesAt s.windows pl.slot (cuBytes c) (c.map (·.2)) (gSlot r / 64 + 2)
      let a := (h.chunks.drop (gSlot r)).take 4
      let y := if gAdagrad r then x.1.putBytesAt x.1.windows pl.acc (cuBytes a) (a.map (·.2)) 3 else (x.1, false)
      y.1.closeServe r { h with flags := if x.2 || y.2 then 1 else 0 }
    else s.putServe h

def execGristMigratedRow (q : Fin 9) (row : Nat) (hot : Option Nat) (s : State) : Out :=
  .next (takePacket q (gristIs 3) (takeMigrated row hot) s)

/-! ### The partner's answer to a forwarded group (R251) -/

def State.forwarded (s : State) (tag : Nat) : Option GServe := s.grist.serving.find? (fun g => g.fwd == some tag)

/-- The partner has acknowledged, with its flags, or is busy and gets the copy again later. -/
def State.partnerReply (s : State) (g : GServe) (flags : Nat) : State :=
  if bitAt flags 3 then s.putServe { g with fwdBusy := true } else s.ackServe { g with flags := g.flags ||| (flags &&& 21) }

/-- A copy sent again to a busy partner, 2 µs later (R249). -/
def State.forwardAgain (s : State) (g : GServe) (tag : Nat) : State :=
  match s.partner with
  | some p => (s.sendAll (s.forwardPackets g p tag) (.grist tag)).putServe { g with fwdBusy := false }
  | none => s.ackServe g

end Sys2Proof.Machine
end

