-- ==== Sys2Proof/Machine/Grist.lean ====
section
/-! DEFINITION. The grist engine as a requester: descriptors and their commands, replies, folds, versions, skew reports,
migration and the control registers (R237–R263, R265). -/

namespace Sys2Proof.Machine

/-! ### The descriptor (Tables 7-4, 7-5) -/

def dCmd (b : List Byte) : Nat := fieldB b 0 1 % 16
def dHalf (b : List Byte) : Nat := fld (fieldB b 1 1) 0 1
def dPool (b : List Byte) : Nat := fld (fieldB b 1 1) 1 3
def dMirror (b : List Byte) : Bool := bitAt (fieldB b 1 1) 4
def dTable (b : List Byte) : Nat := fieldB b 2 2 % 4096
def dStep (b : List Byte) : Nat := fieldB b 4 4
def dCount (b : List Byte) : Nat := fieldB b 8 4
def dIds (b : List Byte) : Nat := fieldB b 16 8
def dOffsets (b : List Byte) : Nat := fieldB b 24 8
def dWeights (b : List Byte) : Nat := fieldB b 32 8
def dData (b : List Byte) : Nat := fieldB b 40 8
def dSummary (b : List Byte) : Nat := fieldB b 48 8
/-- an update with one gradient per id -/
def dPerId (b : List Byte) : Bool := dCmd b == 1 && dPool b == 3

/-- A descriptor that ends with status 2: a reserved code in any field, whether its command uses the field or not (R7,
R164, Tables 7-4, 7-5; log entry 52). -/
def gristBad (b : List Byte) : Bool :=
  let c := dCmd b
  decide (7 < fieldB b 0 1) || decide (fieldB b 1 1 / 64 ≠ 0) || decide (3 < dPool b)
    || decide (fieldB b 2 2 / 4096 ≠ 0) || decide (fieldB b 12 4 ≠ 0) || decide (fieldB b 56 8 ≠ 0)
    || decide (dCount b < 1) || ((decide (c ≤ 1) || decide (6 ≤ c)) && decide (65536 < dCount b))

/-! ### Reading lists -/

/-- Why a list may not be read: misaligned, unmapped or a failed host read 7, of a fenced die 6, poisoned 5. -/
def State.listStatus (s : State) (host : HostData) (a n align : Nat) : Nat :=
  if n = 0 then 0 else firstBad [s.cReads host a n align, if s.rangePoisoned a n then 5 else 0]

/-- Offset k of the bags. -/
def State.bagOffset (s : State) (host : HostData) (b : List Byte) (k : Nat) : Nat :=
  (toSigned 32 (s.hNum host (dOffsets b + 4 * k) 4)).toNat

/-- First id and number of ids of bag k. -/
def State.bagRange (s : State) (host : HostData) (b : List Byte) (k : Nat) : Nat × Nat :=
  if dPerId b then (k, 1)
  else (s.bagOffset host b k, s.bagOffset host b (k + 1) - s.bagOffset host b k)

/-- The ids of bag k with their weights. -/
def State.bagIds (s : State) (host : HostData) (b : List Byte) (k : Nat) : List (Nat × Nat) :=
  let r := s.bagRange host b k
  (List.range r.2).map (fun i => (s.hNum host (dIds b + 8 * (r.1 + i)) 8,
    if dPool b = 2 then s.hNum host (dWeights b + 4 * (r.1 + i)) 4 else 0))

/-- Bytes of an element of the data. -/
def dElem (b : List Byte) : Nat := if dHalf b = 1 then 2 else 4

/-- First id of any bag, and how many ids there are from it to the last one of any bag. -/
def State.idSpan (s : State) (host : HostData) (b : List Byte) : Nat × Nat :=
  let first := s.bagRange host b 0
  let x := (List.range (dCount b)).foldl (fun x k =>
    let r := s.bagRange host b k
    if r.2 = 0 then x else (min x.1 r.1, max x.2 (r.1 + r.2))) (first.1, first.1 + first.2)
  (x.1, x.2 - x.1)

/-- The ranges a descriptor reads and those it writes, each with its alignment (Table 7-4; log entry 25): alignment is that
of the elements, and of a whole report or summary. The offsets come first, since they place the ids. -/
def State.gristRanges (s : State) (b r : List Byte) (host : HostData) : List (Nat × Nat × Nat) × List (Nat × Nat × Nat) :=
  let c := dCmd b
  let sum := (dSummary b, 64, 64)
  if c ≤ 1 then
    let sp := s.idSpan host b
    let data := (dData b, dCount b * gN r * dElem b, dElem b)
    ((if dPerId b then [] else [(dOffsets b, 4 * (dCount b + 1), 4)]) ++ [(dIds b + 8 * sp.1, 8 * sp.2, 8)]
      ++ (if dPool b = 2 then [(dWeights b + 4 * sp.1, 4 * sp.2, 4)] else []) ++ (if c = 1 then [data] else []),
      if c = 1 then [sum] else [sum, data])
  else if c = 5 then ([], [sum, (dIds b, 4160, 64)])
  else if 6 ≤ c then ([(dIds b, 16 * dCount b, 16)], [sum])
  else ([], [sum])

/-- Status of the addresses of a descriptor (R164, R238): its lists, which a poisoned line keeps it from reading, and the
gradients and outputs. -/
def State.gristStatus (s : State) (b r : List Byte) (host : HostData) : Nat :=
  let x := s.gristRanges b r host
  firstBad (x.2.map (fun y => s.cRange y.1 y.2.1 y.2.2) ++ x.1.map (fun y =>
    if dCmd b = 1 ∧ y.1 = dData b then s.cReads host y.1 y.2.1 y.2.2 else s.listStatus host y.1 y.2.1 y.2.2))

/-- Tiles that a descriptor reads and writes (R206). -/
def State.gristTiles (s : State) (b r : List Byte) (host : HostData) : List (Nat × Nat) × List (Nat × Nat) :=
  let x := s.gristRanges b r host
  let tiles (l : List (Nat × Nat × Nat)) : List (Nat × Nat) := (l.flatMap (fun y => tilesOfRows y.1 y.2.1 0 1)).eraseDups
  (tiles x.1, tiles x.2)

/-! ### Groups (R239, R244) -/

/-- Valid ids of a list. -/
def validIds (r : List Byte) (l : List (Nat × Nat)) : List (Nat × Nat) := l.filter (fun x => idValid (gRows r) x.1)

def isPad (x : Nat × Nat) : Bool := x.1 == 2 ^ 64 - 1

/-- A list in pieces of n. -/
def pieces {α : Type} (n : Nat) (l : List α) : List (List α) := (List.range (cdiv l.length n)).map (fun i => (l.drop (n * i)).take n)

/-- Coordinates of a list in ascending order, each once. -/
def ascending (l : List Nat) : List Nat := l.foldl setIns []

/-- Ids a request carries: 28, or 18 with weights. -/
def perRequest (b : List Byte) : Nat := if dPool b = 2 then 18 else 28

/-- The gradient vector of bag k as F32 elements (R244). -/
def State.gradient (s : State) (host : HostData) (b r : List Byte) (k : Nat) : CUnit :=
  let w := dElem b
  (List.range (gN r)).flatMap (fun j =>
    let a := dData b + (k * gN r + j) * w
    let x := s.hNum host a w
    let bits := if w = 2 then (ffEncode ffF32 true .nearest (ffDecode ffF16 x)).1 else x
    cuOf (natLE 4 bits) (s.poisoned a))

/-- The groups of bag k: its valid ids by owner in ascending coordinate, in their order, cut to requests. -/
def State.bagGroups (s : State) (host : HostData) (bd : Nat) (b r : List Byte) (k : Nat) : List GGroup :=
  let ids := validIds r (s.bagIds host b k)
  let owner (x : Nat × Nat) : Nat := s.ownerOf (dTable b) r x.1
  let data := if dCmd b = 1 then s.gradient host b r k else []
  (ascending (ids.map owner)).flatMap (fun o =>
    (pieces (perRequest b) (ids.filter (fun x => owner x == o))).map (fun part =>
      { tag := 0, bd := bd, kind := dCmd b, table := dTable b, owner := o, bag := k, ids := part.map (·.1), weights := part.map (·.2),
        count := ids.length, data := data, st := 0, chunks := [], pooled := 0, flags := 0, unreachable := false }))

/-- Groups with tags of their own. -/
def tagGroups (first : Nat) (gs : List GGroup) : List GGroup :=
  List.zipWith (fun i g => { g with tag := (first + i) % 2 ^ 32 }) (List.range gs.length) gs

/-- Saturated q_j of a group (R247): the requester computes them from what it sends (log entry 26). -/
def groupSat (r : List Byte) (pool : Nat) (g : GGroup) : Nat :=
  (List.zip g.ids g.weights).foldl (fun n x =>
    n + ((List.range (g.data.length / 4)).filter (fun j =>
      (quantDelta r (contribution pool g.count x.2 (ffDecode ffF32 (leNat (cuBytes ((g.data.drop (4 * j)).take 4)))))).2)).length) 0

/-! ### Sending (R239, R298) -/

/-- Reply-store bytes that a group's reply may take. -/
def groupRoom (n : Nat) (g : GGroup) : Nat := if g.kind = 0 then cdiv n 56 * 272 else 272

/-- The packets of a group. -/
def State.groupPackets (s : State) (j : GJob) (g : GGroup) : List Packet :=
  let pool := dPool j.b
  let step := dStep j.b
  if g.kind = 0 then [s.idsPacket g.owner g.bd 0 0 g.table (dMirror j.b) pool step g.tag g.count g.ids g.weights]
  else if g.kind = 1 then
    s.idsPacket g.owner g.bd 1 1 g.table (dMirror j.b) (pool + 8 * dHalf j.b) step g.tag g.count g.ids g.weights
      :: s.chunkPackets g.owner g.bd 1 2 g.table (dMirror j.b) (pool + 8 * dHalf j.b) step g.tag g.count g.data
  else s.chunkPackets g.owner g.bd 1 3 g.table (dMirror j.b) 0 step g.tag 0 g.data

def State.putJob (s : State) (j : GJob) : State :=
  { s with grist := { s.grist with jobs := s.grist.jobs.map (fun k => if k.id == j.id then j else k) } }

def GJob.putGroup (j : GJob) (g : GGroup) : GJob := { j with groups := j.groups.map (fun h => if h.tag == g.tag then g else h) }

/-- Reply room and requests in use by an engine. -/
def State.roomUsed (s : State) (bd : Nat) : Nat × Nat :=
  s.grist.jobs.foldl (fun x j =>
    j.groups.foldl (fun y g =>
      if g.bd = bd ∧ (g.st = 1 ∨ g.st = 2) then (y.1 + groupRoom (gN j.r) g, y.2 + 1) else y) x) (0, 0)

/-- Reply room and one of 4,096 requests are free for a group (R239, R264). -/
def State.groupFits (s : State) (j : GJob) (g : GGroup) : Bool :=
  let u := s.roomUsed g.bd
  decide (u.1 + groupRoom (gN j.r) g ≤ fld (s.reg 0x6018) 0 6 * 2 ^ 20) && decide (u.2 < 4096)

/-- A group marked as sent, and its packets. -/
def State.sendGroup (s : State) (x : GJob × GGroup) : State :=
  match s.grist.jobs.find? (fun j => j.id == x.1.id) with
  | some j => (s.putJob (j.putGroup { x.2 with st := 1 })).sendAll (s.groupPackets j x.2) (.grist x.2.tag)
  | none => s

/-- Groups sent in order, none once one finds no room (R239). -/
def State.sendGroups (s : State) : List (GJob × GGroup) → State
  | [] => s
  | x :: t => if s.groupFits x.1 x.2 then (s.sendGroup x).sendGroups t else s

/-- An engine sends its waiting groups in order, as far as room allows. -/
def State.gristPump (s : State) (bd : Nat) : State :=
  s.sendGroups (s.grist.jobs.flatMap (fun j =>
    (j.groups.filter (fun g => g.bd == bd && g.st == 0)).map (fun g => (j, g))))

/-! ### Acceptance (R229, R237, R238) -/

def newJob (id cd op bd : Nat) (b r : List Byte) (outcome : Nat) : GJob :=
  { id := id, cd := cd, op := op, bd := bd, b := b, r := r, groups := [], valid := 0, pads := 0, invalid := 0,
    poisoned := 0, rows := 0, nanRows := 0, outcome := outcome, fold := 0 }

def State.addJob (s : State) (j : GJob) : State := { s with grist := { s.grist with jobs := s.grist.jobs ++ [j], next := s.grist.next + 1 } }

/-- An engine takes the next grist descriptor in issue order: refused with a status; held with outcome 8 where its table
is not valid; else f performs what the command does at acceptance, once the tiles that it names are held and the lines that
it reads wait for nothing (R206, R210). c is the command. -/
def acceptGrist (c : Nat) (cd : Cd) (id : Nat) (host : HostData) (f : GJob → State → State) (s : State) : State :=
  match s.helperOp cd id 2 with
  | none => s
  | some o =>
    let b := s.helperDesc host o
    if s.helperCheck host o ≠ 0 then s.endHelper cd.val id (s.helperCheck host o)
    else if gristBad b then s.endHelper cd.val id 2
    else if dCmd b ≠ c then s
    else
      let rec0 := s.record (dTable b) (dMirror b)
      let r := rec0.getD (zeroB 128)
      let void := rec0.isNone && decide (c < 6)
      let st := if void then s.cRange (dSummary b) 64 64 else s.gristStatus b r host
      if st ≠ 0 then s.endHelper cd.val id st
      else
        let x := s.gristTiles b r host
        let s := s.sbEnter (whoMove cd.val id) x.1 x.2
        if s.sbHeld (whoMove cd.val id) = false ∨ (s.gristRanges b r host).1.any (fun y => s.rangeHeld y.1 y.2.1) = true then s
        else
          let j := newJob s.grist.next cd.val id o.unit b r (if void then 8 else 0)
          let s := s.updDie cd (fun d => d.putOp { o with st := .running, rcd := b })
          if j.outcome = 8 then s.addJob j else f j s

/-- A look-up or update: its groups formed, invalid ids counted, and as many groups sent as room allows (R236, R239,
R244). -/
def beginRequests (host : HostData) (j : GJob) (s : State) : State :=
  let b := j.b
  let ids := (List.range (dCount b)).flatMap (fun k => s.bagIds host b k)
  let valid := validIds j.r ids
  let pads := ids.filter isPad
  let gs := tagGroups s.grist.nextTag ((List.range (dCount b)).flatMap (s.bagGroups host j.bd b j.r))
  let j := { j with
    groups := gs
    valid := valid.length
    pads := pads.length
    invalid := ids.length - valid.length - pads.length }
  let s := { s with grist := { s.grist with nextTag := s.grist.nextTag + gs.length } }
  ((s.addJob j).countReg 0x602C j.invalid).gristPump j.bd

def execLookUp (cd : Cd) (id : Nat) (host : HostData) (hostOk : Bool) (s : State) : Out :=
  .next (acceptGrist 0 cd id (hostGot hostOk host) (beginRequests (hostGot hostOk host)) s)
def execUpdate (cd : Cd) (id : Nat) (host : HostData) (hostOk : Bool) (s : State) : Out :=
  .next (acceptGrist 1 cd id (hostGot hostOk host) (beginRequests (hostGot hostOk host)) s)

/-! ### Folds (R252, R253, R257) -/

/-- A fold of a step has completed: a newer step than any before is seen; counting begins after warmup steps. -/
def State.stepSeen (s : State) (step : Nat) : State :=
  let new := match s.grist.newest with | none => true | some t => older t step
  if !new then s
  else
    let n := min (fld (s.reg 0x601C) 8 8 + 1) 255
    let was := s.gWarmed
    let s := { s with grist := { s.grist with
      newest := some step
      counted := if was then s.grist.counted.map (· + 1) else s.grist.counted } }
    let s := s.fieldReg 0x601C 8 8 n
    if fld (s.reg 0x6018) 8 8 ≤ n then s.orReg 0x601C (2 ^ 16) else s

/-- A fold begins, waits, or is answered by its region's state (R252). -/
def beginFold (j : GJob) (s : State) : State :=
  let step := dStep j.b
  let k := step % 2
  let x := s.deltaRegion (dTable j.b) (dMirror j.b) k
  if x.st = 0 then ((s.setRegion (dTable j.b) (dMirror j.b) k ⟨0, some step⟩).addJob j).stepSeen step
  else if x.step ≠ some step then s.addJob { j with outcome := 3 }
  else if x.st = 1 then (s.setRegion (dTable j.b) (dMirror j.b) k ⟨2, some step⟩).addJob { j with fold := 1 }
  else s.addJob { j with fold := 2 }

def execFold (cd : Cd) (h : HelperTake) (s : State) : Out := .next (acceptGrist 2 cd h.id h.host beginFold s)

/-- Every entry of a folding region is folded and cleared; the region is clean with the step, and folds that waited
for it complete (R252, R253). -/
def foldEnd (job : Nat) (s : State) : State :=
  match s.grist.jobs.find? (fun j => j.id == job && j.fold == 1) with
  | none => s
  | some j =>
    let step := dStep j.b
    let t := dTable j.b
    let m := dMirror j.b
    let x := s.foldRegion t j.r (step % 2) step
    let s := x.1.setRegion t m (step % 2) ⟨0, some step⟩
    let s := s.putJob { j with rows := x.2.1, poisoned := x.2.2.1, nanRows := x.2.2.2, fold := 0 }
    let s := { s with grist := { s.grist with jobs := s.grist.jobs.map (fun (k : GJob) =>
      if k.fold = 2 ∧ dTable k.b = t ∧ dMirror k.b = m ∧ dStep k.b = step then { k with fold := 0 } else k) } }
    s.stepSeen step

def execFoldEnd (job : Nat) (s : State) : Out := .next (foldEnd job s)

/-! ### Versions (R254, R255) -/

/-- Bits of a record written by the engine. -/
def State.writeRecord (s : State) (j : GJob) (off : Nat) (bs : List Byte) : State :=
  s.write (s.recordAddr (dTable j.b) (dMirror j.b) + off) bs

/-- A version switch (R254). -/
def beginSwitch (j : GJob) (s : State) : State :=
  if gPending j.r then s.addJob { j with outcome := 5 }
  else ((s.writeRecord j 1 (natLE 1 (gActive j.r + 2))).writeRecord j 96 (natLE 4 (dStep j.b))).addJob j

def execVersionSwitch (cd : Cd) (h : HelperTake) (s : State) : Out := .next (acceptGrist 3 cd h.id h.host beginSwitch s)

/-- A request with a step older than the switch step is in progress at an engine of the device, of whatever table (R255). -/
def State.olderRequests (s : State) (sw : Nat) : Bool :=
  s.grist.jobs.any (fun j => decide (dCmd j.b ≤ 1) && older (dStep j.b) sw && j.groups.any (fun g => g.st != 3))
    || s.grist.serving.any (fun g => !g.refused && older g.step sw)

/-- A version release (R255). -/
def beginRelease (j : GJob) (s : State) : State :=
  let t := dTable j.b
  let sw := gSwitch j.r
  let unfolded (k : Nat) : Bool :=
    let x := s.deltaRegion t (dMirror j.b) k
    decide (x.st ≠ 0) && (match x.step with | some st => older st sw | none => false)
  if gPending j.r && !s.olderRequests sw && !unfolded 0 && !unfolded 1 then
    (s.writeRecord j 1 (natLE 1 (1 - gActive j.r))).addJob j
  else s.addJob { j with outcome := 5 }

def execVersionRelease (cd : Cd) (h : HelperTake) (s : State) : Out := .next (acceptGrist 4 cd h.id h.host beginRelease s)

/-! ### Skew reports (R258) -/

/-- Descending estimate, ties by ascending table and row. -/
def topBefore (x y : Nat × Nat × Nat) : Bool :=
  decide (y.2.2 < x.2.2) || (x.2.2 == y.2.2 && (decide (x.1 < y.1) || (x.1 == y.1 && decide (x.2.1 < y.2.1))))

/-- The engine's report: header and list. -/
def State.skewBytes (s : State) (bd : Nat) : List Byte :=
  let l := if s.gWarmed then sortBy topBefore s.grist.top[fabBd bd] else []
  natLE 4 s.grist.counted[fabBd bd] ++ natLE 4 (if s.gWarmed then 1 else 0) ++ natLE 4 l.length ++ zeroB 52
    ++ l.flatMap (fun e => natLE 8 (e.2.1 % 2 ^ 40 + e.1 % 4096 * 2 ^ 40) ++ natLE 4 e.2.2 ++ natLE 4 bd)

/-- A skew report (R258). -/
def beginSkew (j : GJob) (s : State) : State :=
  let bs := s.skewBytes j.bd
  let warmed := s.gWarmed
  let s := s.putBytes (dIds j.b) bs [] (bs.length / 64 + 2)
  let s := if bitAt (fieldB j.b 1 1) 5 then
      let s := { s with grist := { s.grist with
        sketch := s.grist.sketch.filter (fun e => decide (e.1 / 16384 ≠ j.bd))
        top := s.grist.top.set (fabBd j.bd) []
        counted := s.grist.counted.set (fabBd j.bd) 0 } }
      s.write (gCounter j.r) (zeroB (4 * gSlabCount j.r))
    else s
  s.addJob { j with outcome := if warmed then 0 else 6 }

def execSkewReport (cd : Cd) (h : HelperTake) (s : State) : Out := .next (acceptGrist 5 cd h.id h.host beginSkew s)

/-! ### Migration (R259–R263) -/

/-- A plan entry: row, table, new owner, return home, hot index. -/
structure PlanEnt where
  row : Nat
  table : Nat
  owner : Nat
  home : Bool
  hot : Nat
  deriving DecidableEq, Repr

def State.plan (s : State) (host : HostData) (b : List Byte) : List PlanEnt :=
  (List.range (dCount b)).map (fun i =>
    let e := s.hRead host (dIds b + 16 * i) 16
    ⟨fld (fieldB e 0 8) 0 40, fld (fieldB e 0 8) 40 12, fld (fieldB e 8 4) 0 20, bitAt (fieldB e 8 4) 31, fieldB e 12 4⟩)

/-- The outcome that keeps migrate out from sending: the largest that applies (R262, Table 7-6). mirror: the command acts on
mirror records. -/
def State.migrateRefused (s : State) (mirror : Bool) (plan : List PlanEnt) : Nat :=
  let dirty (t k : Nat) : Bool := decide ((s.deltaRegion t mirror k).st ≠ 0)
  if plan.any (fun e => dirty e.table 0 || dirty e.table 1) then 9
  else if plan.any (fun e => (s.record e.table mirror).isNone) then 8
  else if !s.gWarmed then 6
  else if plan.any (fun e => (s.record e.table mirror).any gPending) then 5
  else 0

/-- A row's slot and accumulator as they are sent. -/
def State.rowData (s : State) (r : List Byte) (p : RowPlace) : CUnit :=
  let read (a n : Nat) : CUnit := (List.range n).map (fun i => (s.byte (a + i), s.poisoned (a + i)))
  read p.slot (gSlot r) ++ (if gAdagrad r then read p.acc 4 else cuOf (zeroB 4) false)

/-- The group of a plan row that this device serves: sent by its serving engine to its new owner, or home (R232, R261). -/
def State.planGroup (s : State) (mirror : Bool) (e : PlanEnt) : Option GGroup :=
  match s.record e.table mirror with
  | none => none
  | some r =>
    let p := s.placeOf e.table r (gActive r) e.row
    if s.ownerOf e.table r e.row ≠ s.selfCoord then none
    else some
      { tag := 0, bd := s.engineAt p.slot, kind := 3, table := e.table,
        owner := if e.home then (s.bucket r (permIndex r e.row)).1 else e.owner, bag := 0, ids := [e.row], weights := [0],
        count := 0, data := s.rowData r p, st := 0, chunks := [], pooled := 0, flags := 0, unreachable := false }

/-- Migrate out: every plan row that the device serves is sent with its accumulator (R261, R262). -/
def beginMigrate (host : HostData) (j : GJob) (s : State) : State :=
  let plan := s.plan host j.b
  let m := dMirror j.b
  if s.migrateRefused m plan ≠ 0 then s.addJob { j with outcome := s.migrateRefused m plan }
  else
    let gs := tagGroups s.grist.nextTag (plan.filterMap (s.planGroup m))
    let s := { s with grist := { s.grist with nextTag := s.grist.nextTag + gs.length } }
    (List.range 4).foldl State.gristPump (s.addJob { j with groups := gs, rows := gs.length })

def execMigrateOut (cd : Cd) (id : Nat) (host : HostData) (hostOk : Bool) (s : State) : Out :=
  .next (acceptGrist 6 cd id (hostGot hostOk host) (beginMigrate (hostGot hostOk host)) s)

/-- The bytes of an override entry (Table 7-3). -/
def ovBytes (e : PlanEnt) : List Byte := natLE 8 (e.row % 2 ^ 40 + e.table % 4096 * 2 ^ 40 + 2 ^ 63) ++ natLE 4 e.owner ++ natLE 4 e.hot

/-- One plan entry installed: the matching entry cleared for a return; else written in the first free one of its window
(R261, R263; log entry 27). Answers the state, rows installed and rows left out. -/
def State.installOne (s : State) (mirror : Bool) (e : PlanEnt) : State × Nat × Nat :=
  match s.record e.table mirror with
  | none => (s, 0, 0)
  | some r =>
    let h := permIndex r e.row
    if e.home then
      match s.override e.table e.row h with
      | some (i, _, _) => (s.write (s.ovAddr i) (zeroB 16), 1, 0)
      | none => (s, 1, 0)
    else match (ovWindow e.table h).find? (fun i => !bitAt (s.num (s.ovAddr i) 8) 63) with
      | some i => (s.write (s.ovAddr i) (ovBytes e), 1, 0)
      | none => (s, 0, 1)

/-- Install overrides (R261, R263). -/
def beginInstall (host : HostData) (j : GJob) (s : State) : State :=
  let plan := s.plan host j.b
  let m := dMirror j.b
  let bad := plan.any (fun e => (s.record e.table m).isNone)
  let x := plan.foldl (fun x e => let y := x.1.installOne m e; (y.1, x.2.1 + y.2.1, x.2.2 + y.2.2)) (s, 0, 0)
  (x.1.fieldReg 0x601C 0 8 (x.1.dirEpoch + 1)).addJob
    { j with rows := x.2.1, outcome := if bad then 8 else if x.2.2 = 0 then 0 else 7 }

def execInstallOverrides (cd : Cd) (id : Nat) (host : HostData) (hostOk : Bool) (s : State) : Out :=
  .next (acceptGrist 7 cd id (hostGot hostOk host) (beginInstall (hostGot hostOk host)) s)

/-! ### Replies (R241, R243) -/

def State.jobOf (s : State) (tag : Nat) : Option (GJob × GGroup) :=
  s.grist.jobs.findSome? (fun j => (j.groups.find? (fun g => g.tag == tag && g.st != 3)).map (fun g => (j, g)))

/-- A reply chunk or acknowledgement: combined into its group; busy waits for another try; the last one ends the group,
whose room is free again. An answer to a forwarded group goes to its requester (R251). -/
def takeGristReply (p : Packet) (s : State) : State :=
  let b := p.payload
  let tag := fieldB b 0 4
  let flags := fieldB b 6 1
  let n := min (fieldB b 5 1) 56
  match s.jobOf tag with
  | none => match s.forwarded tag with
    | some g => s.partnerReply g flags
    | none => s
  | some (j, g) =>
    if bitAt flags 3 then s.putJob (j.putGroup { g with st := 2 })
    else
      let h := { g with
        flags := g.flags ||| flags
        pooled := fieldB b 8 4
        chunks := if n = 0 then g.chunks else g.chunks ++ [(fieldB b 4 1, sliceB b 32 (4 * n))] }
      if n = 0 ∨ cdiv (gN j.r) 56 ≤ h.chunks.length then (s.putJob (j.putGroup { h with st := 3 })).gristPump g.bd
      else s.putJob (j.putGroup h)

def execGristReply (q : Fin 9) (s : State) : Out := .next (takePacket q (fun p => p.type == 0x0D) takeGristReply s)

/-- A group refused as busy is sent again (R241, R249). -/
def busyRetry (tag : Nat) (s : State) : State :=
  match s.jobOf tag with
  | some (j, g) =>
    if g.st = 2 then (s.putJob (j.putGroup { g with st := 1 })).sendAll (s.groupPackets j g) (.grist tag) else s
  | none => match s.forwarded tag with
    | some g => if g.fwdBusy then s.forwardAgain g tag else s
    | none => s

def execGristBusyRetry (tag : Nat) (s : State) : Out := .next (busyRetry tag s)

/-- A flow of a grist group has failed: its owner is unreachable (R243, R297); a forwarded group is acknowledged without
its partner (log entry 28). -/
def State.gristFail (s : State) (tag : Nat) : State :=
  match s.jobOf tag with
  | some (j, g) => (s.putJob (j.putGroup { g with st := 3, unreachable := true })).gristPump g.bd
  | none => match s.forwarded tag with
    | some g => s.ackServe g
    | none => s

/-! ### Completion (R238, R241, R243) -/

/-- Element j of a group's partial. -/
def GGroup.elem (g : GGroup) (j : Nat) : Nat :=
  match g.chunks.find? (fun c => c.1 == j / 56) with
  | some c => fieldB c.2 (4 * (j % 56)) 4
  | none => 0

/-- Bag k of a look-up written: +0 where an owner was unreachable or the directory stale, poisoned where a request met
a poisoned row. Answers whether it was poisoned. -/
def State.writeBag (s : State) (j : GJob) (k : Nat) : State × Nat :=
  let gs := j.groups.filter (fun g => g.bag == k)
  let n := gN j.r
  let a := dData j.b + k * n * dElem j.b
  let lost := gs.any (fun g => g.unreachable || bitAt g.flags 1)
  let bad := gs.any (fun g => bitAt g.flags 0)
  let ok := gs.filter (fun g => g.pooled != 0)
  let total := if lost then 0 else ok.foldl (fun t g => t + g.pooled) 0
  let out := (List.range n).flatMap (fun i =>
    natLE (dElem j.b) (poolBag j.r (dPool j.b) (dHalf j.b) total (ok.map (fun g => g.elem i))))
  (s.putBytes a out (if bad then out.map (fun _ => true) else []) (out.length / 64 + 2), if bad then 1 else 0)

/-- Pairs of bag and owner of which some group has a property, each counted once (R243). -/
def GJob.bagsWith (j : GJob) (f : GGroup → Bool) : Nat := ((j.groups.filter f).map (fun g => (g.bag, g.owner))).eraseDups.length

/-- Contributions of groups with a property. -/
def GJob.idsWith (j : GJob) (f : GGroup → Bool) : Nat := (j.groups.filter f).foldl (fun n g => n + g.ids.length) 0

/-- Contributions applied directly: ids of the flagged groups that were not accepted into entries (log entry 23). -/
def GJob.directs (j : GJob) : Nat :=
  (j.groups.filter (fun g => bitAt g.flags 4)).foldl (fun n g => n + (g.ids.length - g.pooled)) 0

/-- Saturated q_j of the groups that their owners performed (R247). -/
def GJob.saturated (j : GJob) : Nat :=
  (j.groups.filter (fun g => g.kind == 1 && !g.unreachable && g.flags &&& 6 == 0 && (g.pooled != 0 || bitAt g.flags 4))).foldl
    (fun n g => n + groupSat j.r (dPool j.b) g) 0

/-- Rows written poisoned by owners, as they report: once for each bag and owner of an update, each row of a migration
(R238, R243). -/
def GJob.poisonedRows (j : GJob) : Nat :=
  j.bagsWith (fun g => g.kind == 1 && bitAt g.flags 0) + j.idsWith (fun g => g.kind == 3 && bitAt g.flags 0)

/-- The outcome: the largest code that applies (R238). -/
def GJob.code (j : GJob) : Nat :=
  let f (b : Bool) (c : Nat) : Nat := if b then c else 0
  [f (j.groups.any (fun g => bitAt g.flags 4)) 1, f (j.groups.any (fun g => bitAt g.flags 2)) 2,
    f (j.groups.any (fun g => bitAt g.flags 1)) 4].foldl max j.outcome

/-- The summary record (Table 7-7). -/
def GJob.summary (j : GJob) : List Byte :=
  let n32 (x : Nat) : List Byte := natLE 4 (min x (2 ^ 32 - 1))
  natLE 4 j.code ++ n32 j.valid ++ n32 j.pads ++ n32 j.invalid ++ n32 j.poisoned ++ n32 (j.bagsWith (·.unreachable))
    ++ n32 j.directs ++ n32 j.saturated ++ n32 (j.rows - j.idsWith (fun g => g.kind == 3 && (g.unreachable || bitAt g.flags 1)))
    ++ n32 (j.idsWith (fun g => bitAt g.flags 2)) ++ n32 (j.bagsWith (fun g => bitAt g.flags 1)) ++ n32 j.nanRows ++ zeroB 16

/-- A descriptor whose groups have ended and whose fold is done ends: outputs, summary, status (R238). -/
def gristComplete (job : Nat) (s : State) : State :=
  match s.grist.jobs.find? (fun j => j.id == job) with
  | none => s
  | some j =>
    if j.fold ≠ 0 ∨ j.groups.any (fun g => g.st != 3) = true then s
    else
      let x := if dCmd j.b = 0 ∧ j.outcome = 0 then
          (List.range (dCount j.b)).foldl (fun x k => let y := x.1.writeBag j k; (y.1, x.2 + y.2)) (s, 0)
        else (s, j.poisoned + j.poisonedRows)
      let j := { j with poisoned := x.2 }
      let s := (x.1.putBytes (dSummary j.b) j.summary [] 3).sbDrop (whoMove j.cd j.op)
      ({ s with grist := { s.grist with jobs := s.grist.jobs.filter (fun k => k.id != job) } }).endHelper j.cd j.op
        (if j.poisoned ≠ 0 then 5 else if j.groups.any (·.unreachable) then 8 else 0)

def execGristComplete (job : Nat) (s : State) : Out := .next (gristComplete job s)

/-! ### Quiet, and the control registers (R203, R227, R265) -/

/-- Helper instructions that have not completed. -/
def State.helpersLive (s : State) (code : Nat) : Bool :=
  s.dies.toList.any (fun d => d.ops.any (fun o => o.cls == 6 && o.code == code && o.st != .ended))

/-- Quiet (R227): no sequencer running or stopping, no DMA, collective or grist descriptor in flight, no CXL.mem request
outstanding. -/
def State.quiet (s : State) : Bool :=
  s.dies.toList.all (fun d => d.mode != .running && d.mode != .stopping)
    && s.host.movers.toList.all (·.isEmpty) && s.host.cmds.all (fun c => fieldB c.bytes 0 1 != 1)
    && s.coll.jobs.isEmpty && s.grist.jobs.isEmpty && !s.helpersLive 0 && !s.helpersLive 1 && !s.helpersLive 2
    && s.homeQ.all (fun r => match r.origin with | .cxl _ => false | _ => true)

/-- No reliable-delivery flow state is held (R203). -/
def State.noFlows (s : State) : Bool := s.fab.tx.toList.all (·.isEmpty) && s.fab.rx.toList.all (·.isEmpty)

/-- A grist descriptor or request is in flight on the device: in progress, served, or waiting in an ejection queue
(R265). -/
def State.gristBusy (s : State) : Bool :=
  !s.grist.jobs.isEmpty || !s.grist.serving.isEmpty || s.helpersLive 2
    || s.fab.eject.toList.any (fun l => l.any (fun x => x.1.type == 0x0C))

/-- A write of GRIST_BASE0 to GRIST_BASE5 or GRIST_CTRL: only while no grist descriptor or request is in flight; a new
reply_mib only under R203, which has a write at any other time set layout_rejected (R265). -/
def gristCtrlWrite (off v : Nat) (s : State) : State :=
  if s.ready = false ∨ off < 0x6000 ∨ 0x6018 < off then s
  else match regRow? off with
  | none => s
  | some row =>
    let new := regMerge row off (s.reg off) (v % 2 ^ 32)
    if off = 0x6018 ∧ fld new 0 6 ≠ fld (s.reg off) 0 6 ∧ (s.quiet && s.noFlows && !s.gristBusy) = false then s.orReg 0x3008 1
    else if s.gristBusy then s
    else
      let t := s.setReg off new
      if off = 0x6018 ∧ fld new 8 8 ≤ fld (s.reg 0x601C) 8 8 then t.orReg 0x601C (2 ^ 16) else t

def execGristCtrlWrite (off v : Nat) (s : State) : Out := .next (gristCtrlWrite off v s)

end Sys2Proof.Machine
end

