-- ==== Sys2Proof/Machine/Tile.lean ====
section
/-! DEFINITION. Tile instructions and the Tuns that perform them (R69–R112, R155–R158, R178–R181). -/

namespace Sys2Proof.Machine

/-! ### Issue (R155, R160, R175) -/

/-- Queued operations of a logical unit of a class that hold a queue entry (R175). -/
def Die.queued (d : Die) (cls unit : Nat) : Nat :=
  (d.ops.filter (fun o => o.cls == cls && o.unit == unit && o.st == .queued && o.ctr.isSome)).length

/-- A unit instruction as issued. -/
def Die.unitOp (d : Die) (w : Nat) (rcd : List Byte) (av sv : List Nat) : Op :=
  { id := d.nextId, cls := iCls w, code := iOp w, ctr := some (fld w 16 4), unit := fld w 20 4, pc := d.pc.toNat,
    w := w, rcd := rcd, av := av, sv := sv, st := .queued, phys := 0, row := 0, fails := [], reexec := false,
    poison := false, status := 0, decided := false, load := 0, packets := 0,
    wins := [], asked := 0, room := 0 }

/-- A tile instruction without a record: queued, or a stall on a full queue (Table 5-18). -/
def issueTile (cd : Cd) (w : IWord) (op : Nat) (av : Nat → Die → List Nat) (s : State) : State :=
  issueAdmDie cd w 2 op (fun x d =>
    if 8 ≤ d.queued 2 (fld x 20 4) then { d with stall := .queueFull }
    else d.advance.push { d.unitOp x [] (av x d) [] with pc := d.pc.toNat }) s

def execLoadCharge (cd : Cd) (w : IWord) (s : State) : Out :=
  .next (issueTile cd w 0 (fun x d => [(d.getA (fld x 47 4)).toNat]) s)
def execPass (cd : Cd) (w : IWord) (s : State) : Out :=
  .next (issueTile cd w 1 (fun x d => [(d.getA (fld x 62 4)).toNat]) s)
def execTileAdd (cd : Cd) (w : IWord) (s : State) : Out :=
  .next (issueTile cd w 3 (fun x d => [(d.getA (fld x 62 4)).toNat]) s)
def execTileZero (cd : Cd) (w : IWord) (s : State) : Out := .next (issueTile cd w 4 (fun _ _ => []) s)

/-- Whether a record can be read from operand SRAM (R160). -/
def State.recordOk (s : State) (cd : Cd) (off n : Nat) : Bool :=
  decide (off + n ≤ sramSize) && !s.rangePoisoned (sramAddr cd off) n

/-- An element-wise pass: its stationary record is read at issue, and a record that cannot be read faults
with code 8 (R158, R160). -/
def execElementWisePass (cd : Cd) (w : IWord) (s : State) : Out :=
  .next (issueAdmDie cd w 2 2 (fun x d =>
    let off := fld x 102 20 * 32
    if 8 ≤ d.queued 2 (fld x 20 4) then { d with stall := .queueFull }
    else if s.recordOk cd off 32 = false then d.fail 8 d.pc.toNat 2 2 (fld x 20 4) 0
    else
      let r := s.sram cd off 32
      d.advance.push { d.unitOp x r [(d.getA (fld x 62 4)).toNat, (d.getA (fld (fieldB r 10 1) 0 4)).toNat] [] with
        pc := d.pc.toNat }) s)

/-! ### Checks of an operation (R7, R111, R150) -/

def tMode (w : Nat) : Nat := fld w 24 3
def tAcc (w : Nat) : Bool := bitAt w 27
def tSwap (w : Nat) : Bool := bitAt w 28
def tFinal (w : Nat) : Bool := bitAt w 29
def tHalf (w : Nat) : Nat := fld w 30 1
def tM (w : Nat) : Nat := fld w 32 7 + 1
def tCols (w : Nat) : Nat := fld w 39 7 + 1
def tTile (w : Nat) : Nat := fld w 46 8
def tRowBase (w : Nat) : Nat := fld w 54 7
def tSrc (w a : Nat) : Nat := baseOff (fld w 66 20) (bitAt w 61) a
def tStride (w : Nat) : Nat := fld w 86 16 * 32

/-- Bits of Table 5-9 that an operation uses; the others are reserved. -/
def tileUse (code : Nat) : Nat :=
  let all := fmask 0 24 + fmask 46 8
  match code with
  | 1 => all + fmask 24 3 + fmask 27 4 + fmask 32 14 + fmask 54 7 + fmask 61 5 + fmask 66 36
  | 2 => all + fmask 24 3 + fmask 27 1 + fmask 29 2 + fmask 32 14 + fmask 54 7 + fmask 61 5 + fmask 66 56
  | 3 => all + fmask 24 2 + fmask 62 4
  | _ => all

def reservedBits (w use : Nat) : Bool := decide (w &&& ((2 ^ 128 - 1) ^^^ use) ≠ 0)

/-- Element-wise record fields (Table 5-10). -/
def ewSrc (r : List Byte) (a : Nat) : Nat :=
  let o := fld (fieldB r 0 4) 0 25
  if bitAt (fieldB r 10 1) 7 then (o + a) % 2 ^ 25 else o
def ewStride (r : List Byte) : Nat := fld (fieldB r 4 4) 0 24
def ewFmt (r : List Byte) : Nat := fld (fieldB r 8 1) 0 4
def ewExp (r : List Byte) : Nat := fld (fieldB r 9 1) 0 3
def ewParams (r : List Byte) : Nat := fld (fieldB r 12 4) 0 25

/-- Reserved bits of the record (Table 5-10). -/
def ewReserved (r : List Byte) : Bool :=
  decide (fld (fieldB r 0 4) 25 7 ≠ 0) || decide (fieldB r 7 1 ≠ 0) || decide (fld (fieldB r 8 1) 4 4 ≠ 0)
    || decide (fld (fieldB r 9 1) 3 5 ≠ 0) || decide (fld (fieldB r 10 1) 4 3 ≠ 0) || decide (fieldB r 11 1 ≠ 0)
    || decide (fld (fieldB r 12 4) 25 7 ≠ 0) || decide (fieldB r 16 16 ≠ 0)

/-- Elements of an element-wise row, and bytes of a stored B row. -/
def ewLen (mode : Nat) : Nat := if mode = 6 then 64 else 128
def ewRowBytes (mode : Nat) (r : List Byte) : Nat := match fmtOfCode (ewFmt r) with
  | some f => rowBytes f (ewLen mode)
  | none => 0

/-- Status 2 or 7 of a pass, element-wise pass, tile add or tile zero, 0 where it may run; k is the K of
the charge a pass meets (Table 3-2, Table 3-9, R158). A tile add reads its image from memory, the mash buffer or a
compute-die window: one in a host window ends with status 7, the model's choice (log entry 47). -/
def State.tileCheck (s : State) (o : Op) (k : Nat) : Nat :=
  let w := o.w
  let m := tMode w
  let wide := decide (m = 1 ∨ m = 2 ∨ m = 6)
  let tileBad := decide (192 ≤ tTile w)
  if reservedBits w (tileUse o.code) then 2
  else match o.code with
  | 1 =>
    if 4 < m ∨ (wide = true ∧ 64 < tCols w) then 2
    else if tileBad = true ∨ 128 < tRowBase w + tM w
        ∨ sramSize < tSrc w o.addr + (tM w - 1) * tStride w + passK m k * (if wide then 4 else 2) then 7
    else 0
  | 2 =>
    if m < 5 ∨ 6 < m ∨ (wide = true ∧ 64 < tCols w) ∨ ewReserved o.rcd = true
        ∨ expanderOk wide (ewExp o.rcd) (ewFmt o.rcd) = false then 2
    else if tileBad = true ∨ 128 < tRowBase w + tM w
        ∨ sramSize < tSrc w o.addr + (tM w - 1) * tStride w + ewLen m * (if wide then 4 else 2)
        ∨ sramSize < ewSrc o.rcd (o.av.getD 1 0) + (tM w - 1) * ewStride o.rcd + ewRowBytes m o.rcd
        ∨ (paramBytes (ewExp o.rcd) ≠ 0 ∧ sramSize < ewParams o.rcd + paramBytes (ewExp o.rcd)) then 7
    else 0
  | 3 => if tileBad = true ∨ o.addr % 64 ≠ 0 ∨ s.rangeMapped o.addr 0x40000 = false then 7 else 0
  | _ => if tileBad then 7 else 0

/-- Scoreboard class of a Tun operation (Table 3-5). -/
def tileClass (o : Op) : SbClass :=
  if (o.code = 1 ∨ o.code = 2) ∧ tAcc o.w = true ∧ tFinal o.w = false
      ∧ (tMode o.w = 0 ∨ tMode o.w = 3 ∨ tMode o.w = 4 ∨ tMode o.w = 5) then .exact
  else if o.code = 3 ∧ bitAt o.w 24 = true then .exact else .writer

/-! ### Start (R79, R81, R92, R175, R178, R179, R504) -/

def Die.tun (d : Die) (j : Fin 12) : Tun := d.tuns[j]
def Die.setTun (d : Die) (j : Fin 12) (t : Tun) : Die := { d with tuns := d.tuns.set j t }
def unitOf (n : Nat) : Fin 12 := ⟨n % 12, Nat.mod_lt _ (by decide)⟩

/-- The next operation a physical Tun takes: the first queued one of a logical Tun mapped to it, in issue
order, none while one is running (R69, R179). -/
def Die.nextTunOp (d : Die) (j : Fin 12) : Option Op :=
  if d.ops.any (fun o => o.cls == 2 && o.st == .running && o.phys == j.val) then none
  else d.ops.find? (fun o => o.cls == 2 && o.st == .queued && d.tunMap[unitOf o.unit] == j)

/-- An operation ends with a status and waits for its completion event. -/
def Die.endOp (d : Die) (o : Op) (status : Nat) : Die := d.putOp { o with st := .ended, status := status }

/-- The identity of the charge a pass meets on its own logical Tun (R179). -/
def Die.meets (d : Die) (o : Op) : Option Nat :=
  if o.decided then some o.load
  else if tSwap o.w then (d.logical[unitOf o.unit]).pend else some (d.logical[unitOf o.unit]).cur

/-- Width of the charge of a load identity: none for the charge of start-up and a zero load (R504). -/
def Die.loadWide (d : Die) (id : Nat) : Option Bool :=
  if id = 0 then none else some (ldWide (tabGet ⟨0, 0, []⟩ d.loads id).w)

def Die.loadK (d : Die) (id : Nat) : Nat := if id = 0 then 128 else ldK (tabGet ⟨0, 0, []⟩ d.loads id).w

/-- An operation inserted before another in the list of issued ones: a reload (R179). -/
def insertBefore : List Op → Nat → Op → List Op
  | [], _, r => [r]
  | o :: t, id, r => if o.id = id then r :: o :: t else o :: insertBefore t id r

/-- The reload of a charge ahead of a pass; it counts on no counter (R179). -/
def Die.reload (d : Die) (o : Op) (id : Nat) (j : Fin 12) : Die :=
  let l := tabGet ⟨0, 0, []⟩ d.loads id
  let r : Op := { o with
    id := d.nextId, code := 0, ctr := none, w := l.w, av := l.av, rcd := [], load := id, decided := true,
    row := 0, fails := [], phys := j.val }
  { d with ops := insertBefore d.ops o.id r, nextId := d.nextId + 1 }

/-- A pass whose charge is at hand begins: a swap exchanges the Tun's charges (R79), and the logical
Tun's current charge is the one met. -/
def Die.beginPass (d : Die) (o : Op) (j : Fin 12) (id : Nat) (swap : Bool) : Die :=
  let t := d.tun j
  let t := if swap then { t with charge := t.second, second := t.charge, pend := 0 } else t
  let lg := d.logical[unitOf o.unit]
  let lg := if o.decided then lg else if tSwap o.w then ⟨id, none⟩ else lg
  { ((d.setTun j t).putOp { o with st := .running, phys := j.val, decided := true, load := id }) with
    logical := d.logical.set (unitOf o.unit) lg }

/-- A tile operation has the entry of its tile, or waits there (R92, R93). -/
def Die.takeTile (d : Die) (o : Op) : Die :=
  if d.sb.any (fun e => e.who == o.id) then d else { d with sb := sbArrive d.sb (tTile o.w) o.id (tileClass o) }

def Die.hasTile (d : Die) (o : Op) : Bool := d.sb.any (fun e => e.who == o.id && e.held)

/-- A tile add reads its image: where it lies in tiles, it arrives at their entries as a reader, once (R91). -/
def State.takeImage (s : State) (cd : Cd) (o : Op) : State :=
  let who := whoMove cd.val o.id
  if o.code ≠ 3 ∨ s.sbHas who then s
  else s.sbMove who ((tilesOfRows o.addr 0x40000 0 1).filter (fun t => t != (cd.val, tTile o.w))) []

/-- A Tun takes its next operation (R175): a failing check ends it; a tile held by others keeps it
queued; a load fills the second charge; a pass finds its charge, or is preceded by a reload. Where several statuses
apply, 2 and 7 of the parameters come before 3, and the width's 2 last (log entry 47). An operation sent to a retired Tun
stops with status 4 (R104). -/
def tunStart (cd : Cd) (j : Fin 12) (s : State) : State :=
  let d := s.die cd
  if d.mode = .fenced then s
  else match d.nextTunOp j with
  | none => s
  | some o =>
    if d.tunUp[j] = false then s.setDie cd (d.putOp { o with st := .stopped, phys := j.val, status := 4 })
    else if o.code = 0 then
      let zero := decide (o.decided = true ∧ o.load = 0)
      let st := if zero then 0 else loadCheck o.w o.addr
      if st ≠ 0 then s.setDie cd (d.endOp { o with phys := j.val } st)
      else
        let id := if o.decided then o.load else o.id
        let c := if zero then Charge.zero else s.loadCharge cd o.w o.addr id
        let t := { d.tun j with second := c, pend := 1 }
        let e := (d.setTun j t).putOp { o with st := .running, phys := j.val, poison := c.poison }
        let e := if o.decided then e else
          { e with
            loads := tabSet e.loads id ⟨id, o.w, o.av⟩
            logical := e.logical.set (unitOf o.unit) { e.logical[unitOf o.unit] with pend := some id } }
        s.setDie cd e
    else if o.code = 1 then
      let st := s.tileCheck o (((d.meets o).map d.loadK).getD 128)
      if st ≠ 0 then s.setDie cd (d.endOp { o with phys := j.val } st)
      else match d.meets o with
      | none => s.setDie cd (d.endOp { o with phys := j.val } 3)
      | some id =>
        let wide := decide (tMode o.w = 1 ∨ tMode o.w = 2)
        if (d.loadWide id).isSome && d.loadWide id != some wide then
          s.setDie cd (d.endOp { o with phys := j.val } 2)
        else
          let d := d.takeTile o
          if d.hasTile o = false then s.setDie cd d
          else if (d.tun j).charge.src = id then s.setDie cd (d.beginPass o j id false)
          else if (d.tun j).second.src = id ∧ (d.tun j).pend ≠ 0 then s.setDie cd (d.beginPass o j id true)
          else s.setDie cd (d.reload o id j)
    else
      let st := s.tileCheck o 128
      if st ≠ 0 then s.setDie cd (d.endOp { o with phys := j.val } st)
      else
        let t := (s.setDie cd (d.takeTile o)).takeImage cd o
        if (t.die cd).hasTile o && t.sbHeld (whoMove cd.val o.id) then
          t.updDie cd (fun d => d.putOp { o with st := .running, phys := j.val })
        else t

def execTunOpStart (cd : Cd) (j : Fin 12) (s : State) : Out := .next (tunStart cd j s)

/-- The running operation of a physical Tun. -/
def Die.runningTun (d : Die) (j : Fin 12) : Option Op :=
  d.ops.find? (fun o => o.cls == 2 && o.st == .running && o.phys == j.val)

/-- A load delivers its last array row: the second charge is complete, and the load ends (R77, R80). -/
def loadComplete (cd : Cd) (j : Fin 12) (s : State) : State :=
  let d := s.die cd
  match d.runningTun j with
  | some o =>
    if o.code = 0 then
      s.setDie cd ((d.setTun j { d.tun j with pend := 2 }).endOp o (if o.poison then 5 else 0))
    else s
  | none => s

def execLoadChargeComplete (cd : Cd) (j : Fin 12) (s : State) : Out := .next (loadComplete cd j s)

/-- 1,024 clocks without a valid row: the next one follows the offset and the ramp (R86). -/
def execTunIdleExpire (cd : Cd) (j : Fin 12) (s : State) : Out :=
  .next (s.updDie cd (fun d => d.setTun j { d.tun j with cold := .idle, ramp := 0 }))

/-- A cold Tun's start offset runs out and its ramp begins (R86). -/
def execTunStartOffsetExpire (cd : Cd) (j : Fin 12) (s : State) : Out :=
  .next (s.updDie cd (fun d => if (d.tun j).cold = .idle then d.setTun j { d.tun j with cold := .ramp, ramp := 0 } else d))

/-! ### Rows (R87–R109) -/

/-- Elements of moving row m. -/
def State.movingRow (s : State) (cd : Cd) (o : Op) (m n : Nat) : List Nat :=
  let b := if modeFmt (tMode o.w) = .f32 then 4 else 2
  let row := s.sram cd (tSrc o.w o.addr + m * tStride o.w) (n * b)
  (List.range n).map (fun k => fieldB row (b * k) b)

/-- Row m of the stationary operand of an element-wise pass through the expander (R109, R158). -/
def State.ewRow (s : State) (cd : Cd) (o : Op) (m : Nat) : List Nat :=
  let r := o.rcd
  let f := (fmtOfCode (ewFmt r)).getD .f16
  let params := s.sram cd (ewParams r) (paramBytes (ewExp r))
  let row := s.sram cd (ewSrc r (o.av.getD 1 0) + m * ewStride r) (ewRowBytes (tMode o.w) r)
  expandRow (decide (tMode o.w = 6)) (ewExp r) f params (ewLen (tMode o.w)) row

/-- Element of a tile. -/
def State.tileElem (s : State) (cd : Cd) (t row col : Nat) : X128 := xDecode (s.num (tileAddr cd t row col) 16)

/-- One line of a tile row (four elements from column c, those below hi written), poisoned where the row is (R90, R111). -/
def State.tileLine (s : State) (cd : Cd) (t row c lo hi : Nat) (elems : Nat → X128) (bad : Bool) : State :=
  let a := tileAddr cd t row c
  if bad then s.poisonLine a
  else
    let cs := (List.range 4).filter (fun i => decide (lo ≤ c + i) && decide (c + i < hi))
    s.write (tileAddr cd t row (c + cs.headD 0)) (cs.flatMap (fun i => natLE 16 (xEncode (elems (c + i)))))

/-- Whether a line of columns lo to hi − 1 of a tile row is poisoned. -/
def State.tileRowPoisoned (s : State) (cd : Cd) (t row lo hi : Nat) : Bool :=
  (List.range 32).any (fun i => decide (lo < 4 * i + 4 ∧ 4 * i < hi) && s.poisoned (tileAddr cd t row (4 * i)))

/-- Columns lo to hi − 1 of a tile row written line by line: every line poisoned where an operand is, or where an
accumulate meets a poisoned line of the row (R111). -/
def State.tileRow (s : State) (cd : Cd) (t row lo hi : Nat) (elems : Nat → X128) (bad acc : Bool) : State :=
  let p := bad || (acc && s.tileRowPoisoned cd t row lo hi)
  (List.range 32).foldl (fun x i =>
    if lo < 4 * i + 4 ∧ 4 * i < hi then x.tileLine cd t row (4 * i) lo hi elems p else x) s

/-- The row summary entry of a final pass (R96). A poisoned row poisons the 64-byte line that holds its entry, and with it
the entry of the neighbouring row: poison is marked by line (R218; log entry 47). -/
def State.summaryRow (s : State) (cd : Cd) (t row lo hi : Nat) (strict bad : Bool) : State :=
  let xs := (List.range (hi - lo)).map (fun i => s.tileElem cd t row (lo + i))
  let a := rowSumAddr cd t row
  if bad then s.poisonLine a
  else s.write a (natLE 16 (xEncode (rowMax xs)) ++ natLE 16 (xEncode (rowSum strict xs)))

/-- The columns a pass writes: the first of them and the end (Table 3-2). -/
def passCols (w : Nat) : Nat × Nat :=
  let lo := if modeFmt (tMode w) = .f32 then 64 * tHalf w else 0
  (lo, lo + tCols w)

/-- What one row of a pass or element-wise pass computes: verdict, elements by tile column, poison. Where a column's fault
is not checked it shows in the element written, which the spec leaves open (log entry 47). -/
def State.rowResult (s : State) (cd : Cd) (j : Fin 12) (o : Op) (m : Nat) (fault : TunFault) :
    Verdict × (Nat → X128) × Bool :=
  let mode := tMode o.w
  let row := tRowBase o.w + m
  let lo := (passCols o.w).1
  let old (c : Nat) : X128 := s.tileElem cd (tTile o.w) row c
  if o.code = 1 then
    let ch := (((s.die cd).tun j).charge).flip mode fault
    let as := s.movingRow cd o m (passK mode ch.k)
    let cols := (List.range (if modeFmt mode = .f32 then 64 else 128)).map (fun n =>
      if mode = 2 then outElem 2 (tAcc o.w) as ch n (.exact 0) (old (lo + n)) else columnSum mode as ch n)
    let v := passVerdict mode (tAcc o.w) as ch cols fault
    let bad := ch.poison || s.rangePoisoned (sramAddr cd (tSrc o.w o.addr + m * tStride o.w))
      (passK mode ch.k * (if modeFmt mode = .f32 then 4 else 2))
    (v, fun c => let x := outElem mode (tAcc o.w) as ch (c - lo) (cols.getD (c - lo) (.exact 0)) (old c)
                 if v = .unchecked then flipped fault (c - lo) x else x, bad)
  else
    let n := ewLen mode
    let as := s.movingRow cd o m n
    let bs := s.ewRow cd o m
    let f := modeFmt mode
    let bad := s.rangePoisoned (sramAddr cd (tSrc o.w o.addr + m * tStride o.w)) (n * (if f = .f32 then 4 else 2))
      || s.rangePoisoned (sramAddr cd (ewSrc o.rcd (o.av.getD 1 0) + m * ewStride o.rcd)) (ewRowBytes mode o.rcd)
      || (decide (paramBytes (ewExp o.rcd) ≠ 0)
        && s.rangePoisoned (sramAddr cd (ewParams o.rcd)) (paramBytes (ewExp o.rcd)))
    (if columnFault fault || (tAcc o.w && adderFault fault) then .failed else .passed,
     fun c =>
       let p := prodX f (as.getD (c - lo) 0) (bs.getD (c - lo) 0)
       if tAcc o.w then (xAdd false (old c) p).1
       else if f = .f32 then (xAdd false (.win 0 0) p).1 else p, bad)

/-- Failing passes within 2^30 clocks (R104, R142). -/
def recentFails (l : List Nat) (now : Nat) : List Nat := l.filter (fun t => decide (now < t + 2 ^ 30))

/-- A Tun is retired: every operation of it that has not completed ends with status 4 (R104). -/
def State.retireTun (s : State) (cd : Cd) (j : Fin 12) (row : Nat) : State :=
  let s := s.updDie cd (fun d => { d with
    tunUp := d.tunUp.set j false
    ops := d.ops.map (fun o =>
      if o.cls = 2 ∧ (o.st = .running ∧ o.phys = j.val ∨ o.st = .queued ∧ d.tunMap[unitOf o.unit] = j) then
        { o with st := .stopped, phys := j.val, status := 4, fails := [] } else o) })
  ((s.log 6 0 cd.val j.val row 0).event 0x0006 32 [(16, 1, cd.val), (17, 1, 0), (18, 1, j.val)]).depStatus 1

/-- A charge filled again from the parameters of the load that filled it (R103). -/
def State.recharge (s : State) (cd : Cd) (c : Charge) : Charge :=
  if c.src = 0 then .zero
  else let l := tabGet ⟨0, 0, []⟩ (s.die cd).loads c.src; s.loadCharge cd l.w (l.av.getD 0 0) c.src

/-- A failed check: counted and logged; the charges are filled again from their loads and the row is executed again, or
the Tun is retired on the third failure of the pass, whose rows from there on have then been executed three times, or on
the eighth failing pass within 2^30 clocks (R103, R104). A re-execution is counted for each failed check that one
follows (R105; log entry 47). -/
def State.rowFailed (s : State) (cd : Cd) (j : Fin 12) (o : Op) : State :=
  let d := s.die cd
  let t := d.tun j
  let recent := recentFails t.failAt d.clkUp ++ (if o.fails.isEmpty then [d.clkUp] else [])
  let retire := decide (2 ≤ o.fails.length ∨ 8 ≤ recent.length)
  let t := { t with
    checks := satAdd32 t.checks 1, mismatch := satAdd32 t.mismatch 1, failAt := recent
    reexec := satAdd32 t.reexec (if retire then 0 else 1) }
  let t := if o.code = 1 then { t with charge := s.recharge cd t.charge, second := s.recharge cd t.second } else t
  let s := s.setDie cd ((d.setTun j t).putOp { o with fails := o.fails ++ [o.row], reexec := true })
  if retire then s.retireTun cd j o.row else s.log 5 0 cd.val j.val o.row 0

/-- A row written: the operation goes on to its next row, or ends (Table 3-9). -/
def State.rowDone (s : State) (cd : Cd) (o : Op) (rows : Nat) (bad : Bool) : State :=
  let p := o.poison || bad
  let o := { o with row := o.row + 1, poison := p }
  s.updDie cd (fun d => if rows ≤ o.row then d.endOp o (if p then 5 else if o.reexec then 1 else 0) else d.putOp o)

/-- One row of a tile add (R95, R111): an image line or a tile line that is poisoned poisons the row. -/
def State.addRow (s : State) (cd : Cd) (o : Op) : State :=
  let a := o.addr + o.row * 2048
  s.tileRow cd (tTile o.w) o.row 0 128
    (fun c => (xAdd (bitAt o.w 25) (s.tileElem cd (tTile o.w) o.row c) (xDecode (s.num (a + 16 * c) 16))).1)
    (s.rangePoisoned a 2048) true

/-- The next row of the running operation of a Tun: its verdict is taken and its elements are written, or the
row fails (R87–R103). A cold Tun presents no moving row before its start offset has run out (R86). -/
def rowVerdict (cd : Cd) (j : Fin 12) (fault : TunFault) (s : State) : State :=
  let d := s.die cd
  match d.runningTun j with
  | none => s
  | some o =>
    if o.code = 0 then s
    else if o.code = 3 then
      if adderFault fault then s.rowFailed cd j o
      else
        let s := s.addRow cd o
        s.rowDone cd o 128 (s.tileRowPoisoned cd (tTile o.w) o.row 0 128)
    else if o.code = 4 then
      (s.write (tileAddr cd (tTile o.w) o.row 0) (zeroB 2048)).rowDone cd o 128 false
    else if (d.tun j).cold = .idle then s
    else
      let r := s.rowResult cd j o o.row fault
      let t := d.tun j
      let ramp := t.ramp + 1
      let t := { t with charge := if o.code = 1 then t.charge.flip (tMode o.w) fault else t.charge
                        cold := if t.cold = .ramp ∧ ramp < 64 then .ramp else .warm, ramp := ramp }
      let s := s.setDie cd (d.setTun j t)
      if r.1 = .failed then s.rowFailed cd j o
      else
        let t := if r.1 = .passed then { t with checks := satAdd32 t.checks 1 }
          else { t with unchecked := satAdd32 t.unchecked 1 }
        let s := s.updDie cd (fun d => d.setTun j t)
        let cs := passCols o.w
        let row := tRowBase o.w + o.row
        let s := s.tileRow cd (tTile o.w) row cs.1 cs.2 r.2.1 r.2.2 (tAcc o.w)
        let bad := s.tileRowPoisoned cd (tTile o.w) row cs.1 cs.2
        let s := if tFinal o.w then s.summaryRow cd (tTile o.w) row cs.1 cs.2 (decide (tMode o.w = 2)) bad else s
        s.rowDone cd o (tM o.w) bad

def execTunRowVerdict (cd : Cd) (j : Fin 12) (fault : TunFault) (s : State) : Out := .next (rowVerdict cd j fault s)

/-- The first operation of a Tun that has ended completes: its tile is released and its counter rises; status 2,
3 or 7 faults its sequencer (R91, R111, R150, R165). -/
def tunComplete (cd : Cd) (j : Fin 12) (s : State) : State :=
  let d := s.die cd
  match d.ops.find? (fun o => o.cls == 2 && o.st == .ended && o.phys == j.val) with
  | some o => (s.setDie cd (d.finish o o.status)).sbDrop (whoMove cd.val o.id)
  | none => s

def execTunOpComplete (cd : Cd) (j : Fin 12) (s : State) : Out := .next (tunComplete cd j s)

/-! ### Retired Tuns (R178, R181) -/

/-- The next unit above j, wrapping, that is in service (R178). -/
def nextUp (up : Vector Bool 12) (j : Nat) : Option (Fin 12) :=
  ((List.range 11).map (fun i => unitOf (j + 1 + i))).find? (fun k => up[k])

/-- Status 4 of a physical Tun: its logical Tuns move to the substitute and the stopped work is reissued in
issue order; with none left, fault code 7 and the work completes with status 4 (R178, R181). -/
def remapTun (cd : Cd) (j : Fin 12) (s : State) : State :=
  let d := s.die cd
  let mine (o : Op) : Bool := o.cls == 2 && o.st == .stopped && o.phys == j.val
  match d.ops.find? mine with
  | none => s
  | some first =>
    match nextUp d.tunUp j.val with
    | some k =>
      s.setDie cd { d with
        tunMap := d.tunMap.map (fun x => if x = j then k else x)
        ops := (d.ops.filter (fun o => !(mine o && o.ctr.isNone))).map (fun o =>
          if mine o then { o with st := .queued, phys := k.val, status := 0 } else o) }
    | none =>
      let d := d.fail 7 first.pc 2 first.code first.unit 4
      (d.ops.filter mine).foldl (fun t o => t.sbDrop (whoMove cd.val o.id))
        (s.setDie cd ((d.ops.filter mine).foldl (fun e o => e.finish o 4) d))

def execSeqRemapTun (cd : Cd) (j : Fin 12) (s : State) : Out := .next (remapTun cd j s)

end Sys2Proof.Machine
end

