-- ==== Sys2Proof/Machine/Move.lean ====
section
/-! DEFINITION. Movement and helper instructions (R161–R164, R175, R208, R505). -/

namespace Sys2Proof.Machine

/-! ### Issue -/

/-- A movement instruction: 32 queued per die (Table 5-18). -/
def issueMove (cd : Cd) (w : IWord) (op : Nat) (s : State) : State :=
  issueAdmDie cd w 4 op (fun x d =>
    if 32 ≤ (d.ops.filter (fun o => o.cls == 4 && o.st == .queued)).length then { d with stall := .queueFull }
    else d.advance.push { d.unitOp x [] [(d.getA (fld x 20 4)).toNat, (d.getA (fld x 24 4)).toNat]
      [0, (d.getS (fld x 28 5)).toNat % 2 ^ 20] with unit := 0 }) s

def execCopy (cd : Cd) (w : IWord) (s : State) : Out := .next (issueMove cd w 0 s)
def execPut (cd : Cd) (w : IWord) (s : State) : Out := .next (issueMove cd w 1 s)
def execGet (cd : Cd) (w : IWord) (s : State) : Out := .next (issueMove cd w 2 s)

/-- A helper instruction: 8 queued per base die and helper kind (R163, Table 5-18). -/
def issueHelper (cd : Cd) (w : IWord) (op : Nat) (hand : Nat → State → State) (s : State) : State :=
  issueAdm cd w 6 op (fun x s =>
    let d := s.die cd
    let bd := fld x 20 2
    if 8 ≤ (((List.range 12).flatMap (fun i => (s.die (cdOf i)).ops)).filter (fun o =>
        o.cls == 6 && o.code == op && o.unit == bd && o.st == .queued)).length then
      s.setDie cd { d with stall := .queueFull }
    else
      let id := d.nextId
      hand id (s.setDie cd (d.advance.push { d.unitOp x [] [(d.getA (fld x 22 4)).toNat] [] with unit := bd }))) s

/-- To a DMA mover of the named base die (R163, R351). -/
def execHelperDma (cd : Cd) (w : IWord) (s : State) : Out :=
  .next (issueHelper cd w 0 (fun id t =>
    t.queueMover (t.moverOf [fld w.toNat 20 2]) ⟨none, some (cd.val, id), [], []⟩) s)
/-- To the axis collective engine of the named base die (R163). -/
def execHelperCollective (cd : Cd) (w : IWord) (s : State) : Out := .next (issueHelper cd w 1 (fun _ t => t) s)
/-- To the grist engine of the named base die (R163). -/
def execHelperGrist (cd : Cd) (w : IWord) (s : State) : Out := .next (issueHelper cd w 2 (fun _ t => t) s)

/-- A helper operation that has ended completes with its status (R164, R165). -/
def helperComplete (cd : Cd) (id : Nat) (s : State) : State :=
  match (s.die cd).op? id with
  | some o => if o.cls = 6 ∧ o.st = .ended then s.updDie cd (fun d => d.finish o o.status) else s
  | none => s

def execHelperComplete (cd : Cd) (id : Nat) (s : State) : Out := .next (helperComplete cd id s)

/-! ### Movement engines (R162, R208) -/

/-- Fields of Table 5-13 and the captured addresses. -/
def mDst (o : Op) : Nat := o.av.getD 0 0
def mSrc (o : Op) : Nat := o.av.getD 1 0
def mLen (w : Nat) : Nat := fld w 34 24
def mRows (w : Nat) : Nat := fld w 58 16 + 1
def mSs (w : Nat) : Nat := fld w 74 24
def mDs (w : Nat) : Nat := fld w 98 24

/-- Reserved bits, or a row length of zero (R161). -/
def mReserved (w : Nat) : Bool := bitAt w 33 || decide (w / 2 ^ 122 % 2 ^ 6 ≠ 0) || decide (mLen w = 0)

/-- The movement an engine is performing. -/
def Die.moving (d : Die) (e : Fin 4) : Option Op :=
  d.ops.find? (fun o => o.cls == 4 && o.st == .running && o.phys == e.val)

/-- The host windows as a movement sees them: those in force when it started, and what the host returned (R342, R343). -/
def Op.view (o : Op) (host : HostData) : HostView := ⟨o.wins, host⟩

/-- Rows of a side that may be moved before one with a bad status, and that row's status (R208). -/
def goodRows (status : Nat → Nat) : Nat → Nat → Nat × Nat
  | 0, k => (k, 0)
  | r + 1, k => if status k ≠ 0 then (k, status k) else goodRows status r (k + 1)

/-- Address of row r of a side. -/
def rowAt (a stride r : Nat) : Nat := (a + r * stride) % 2 ^ 48

/-- The packets of a put: each row's bytes to its row at the remote device (R161, R208, Table 8-6). -/
def State.putPackets (s : State) (cd eng : Nat) (o : Op) (host : HostData) (rows : Nat) : List Packet :=
  (List.range rows).flatMap (fun r =>
    let a := rowAt (mSrc o) (mSs o.w) r
    s.dataPackets o.coord 0x03 (memFlow cd 0 eng) (rowAt (mDst o) (mDs o.w) r) (o.id % 2 ^ 32)
      (s.hRead host a (mLen o.w)) (fun off n => s.rangePoisoned (a + off) n) (r + 1 = rows) (mLen o.w / 240 + 1) 0)

/-- Get request i of row r: at most 65,536 bytes, and the packets of its reply (Table 8-6). -/
def State.getAsk (s : State) (cd eng : Nat) (o : Op) (r i : Nat) : Packet × Nat :=
  let n := min 65536 (mLen o.w - i * 65536)
  (s.mkPacket o.coord 0x04 (memFlow cd 1 eng) 24 false 0
    (natLE 8 ((rowAt (mSrc o) (mSs o.w) r + i * 65536) % 2 ^ 48) ++ natLE 8 ((rowAt (mDst o) (mDs o.w) r + i * 65536) % 2 ^ 48)
      ++ natLE 4 n ++ natLE 4 (o.id % 2 ^ 32)), cdiv n 240)

/-- The get request a movement sends next, if one is left: its rows in order. -/
def State.nextAsk (s : State) (cd eng : Nat) (o : Op) : Option (Packet × Nat) :=
  let per := cdiv (mLen o.w) 65536
  if o.asked < o.row * per then some (s.getAsk cd eng o (o.asked / per) (o.asked % per)) else none

/-- Get requests go out while the flow window has room for the packets of their replies; a reply longer than the window
has it alone (R162, R298; log entry 50). -/
def State.sendGets (s : State) (cd : Nat) (o : Op) : Nat → State
  | 0 => s.updDie (cdOf cd) (fun d => d.putOp o)
  | n + 1 =>
    match s.nextAsk cd o.phys o with
    | none => s.updDie (cdOf cd) (fun d => d.putOp o)
    | some (p, k) =>
      if o.room = 0 ∨ o.room + k ≤ fld (s.reg 0x401C) 0 7 then
        (s.sendFlow p (.op cd o.id)).sendGets cd { o with asked := o.asked + 1, room := o.room + k } n
      else s.updDie (cdOf cd) (fun d => d.putOp o)

/-- A put or get sends its packets once its tiles are held: rows before a bad local one are sent, and what is
outstanding is counted, packets of a put and bytes of a get (R162, R208). -/
def sendMove (cd : Cd) (o : Op) (host : HostData) (s : State) : State :=
  if o.code = 1 then
    let g := goodRows (fun r => s.srcStatus (o.view host) (rowAt (mSrc o) (mSs o.w) r) (mLen o.w)) (mRows o.w) 0
    let ps := s.putPackets cd.val o.phys o host g.1
    let bad := (List.range g.1).any (fun r => s.rangePoisoned (rowAt (mSrc o) (mSs o.w) r) (mLen o.w))
    let s := (List.range g.1).foldl (fun t r => t.askHost o.wins (rowAt (mSrc o) (mSs o.w) r) (mLen o.w)) s
    (s.updDie cd (fun d => d.putOp { o with decided := true, status := g.2, poison := bad, packets := ps.length })).sendAll
      ps (.op cd.val o.id)
  else
    let g := goodRows (fun r => s.rowStatusIn o.wins (rowAt (mDst o) (mDs o.w) r) (mLen o.w)) (mRows o.w) 0
    s.sendGets cd.val { o with decided := true, status := g.2, packets := g.1 * mLen o.w, row := g.1 } 65

/-- Whether a movement's tiles are held and the lines it reads or writes here wait for nothing at their homes
(R91, R197, R210). -/
def State.moveReady (s : State) (cd : Cd) (o : Op) : Bool :=
  s.sbHeld (whoMove cd.val o.id) && (o.code == 2 || !s.rowsHeld (mSrc o) (mLen o.w) (mSs o.w) (mRows o.w))
    && (o.code == 1 || !s.rowsHeld (mDst o) (mLen o.w) (mDs o.w) (mRows o.w))

/-- An engine takes the next movement instruction, in issue order, under the host windows then in force; its tiles pass
their scoreboards, and a put or get is sent once it holds them (R91, R162, R342). host is what the host returned for the
source of a put. -/
def movementStart (cd : Cd) (e : Fin 4) (host : HostData) (s : State) : State :=
  let d := s.die cd
  if d.mode = .fenced then s
  else match d.moving e with
  | some o => if o.code ≠ 0 ∧ o.decided = false ∧ s.moveReady cd o = true then sendMove cd o host s else s
  | none =>
    match d.ops.find? (fun o => o.cls == 4 && o.st == .queued) with
    | none => s
    | some o =>
      if mReserved o.w then s.setDie cd (d.putOp { o with st := .ended, status := 2, phys := e.val })
      else
        let o := { o with st := .running, phys := e.val, wins := s.windows }
        let src := if o.code = 2 then [] else tilesOfRows (mSrc o) (mLen o.w) (mSs o.w) (mRows o.w)
        let dst := if o.code = 1 then [] else tilesOfRows (mDst o) (mLen o.w) (mDs o.w) (mRows o.w)
        let t := (s.setDie cd (d.putOp o)).sbMove (whoMove cd.val o.id) src dst
        if o.code ≠ 0 ∧ t.moveReady cd o = true then sendMove cd o host t else t

def execMovementStart (cd : Cd) (e : EngineTake) (s : State) : Out := .next (movementStart cd e.engine e.host s)

/-- A movement completes with a status: its tiles are released and its counter rises (R162, R165). -/
def State.endMove (s : State) (cd : Cd) (o : Op) (status : Nat) : State :=
  (s.sbDrop (whoMove cd.val o.id)).updDie cd (fun d => d.finish o status)

/-- A movement completes (R162, R164, R208): a copy moves its rows, host giving the bytes of a host-window source; a put
with every packet acknowledged, a get with its last byte written. remote says that the remote device did not perform a
packet: status 7 (log entry 12). -/
def movementComplete (cd : Cd) (id : Nat) (remote : Bool) (host : HostData) (s : State) : State :=
  match (s.die cd).op? id with
  | none => s
  | some o =>
    if o.cls ≠ 4 then s
    else if o.st = .ended then s.endMove cd o o.status
    else if o.st ≠ .running then s
    else if o.code = 0 then
      if s.moveReady cd o = false then s
      else
        let x := s.moveRows (o.view host) (mSrc o) (mDst o) (mLen o.w) (mSs o.w) (mDs o.w) false 0 (mRows o.w)
        x.1.endMove cd o x.2.1
    else if o.decided = false then s
    else if remote then s.endMove cd o 7
    else if o.packets ≠ 0 then s
    else s.endMove cd o (if o.status ≠ 0 then o.status else if o.poison then 5 else 0)

def execMovementComplete (cd : Cd) (id : Nat) (remote : Bool) (host : HostData) (hostOk : Bool) (s : State) : Out :=
  .next (movementComplete cd id remote (hostGot hostOk host) s)

end Sys2Proof.Machine
end

