-- ==== Sys2Proof/Machine/Delivery.lean ====
section
/-! DEFINITION. Reliable delivery: puts, gets and atomics at their destination, acknowledgements, retransmission, failure
of a flow, idle flows (R279, R292–R298), and the control registers of memory and delivery (R203, R227). -/

namespace Sys2Proof.Machine

/-! ### Puts, gets, atomics (R161, R279, R298, Table 8-6) -/

/-- A put's data is written at its home; a bad address is not written, one of a fenced window is counted (R204, R396). -/
def takePut (p : Packet) (s : State) : State :=
  let r := s.landPut p
  if r.2 = 6 then r.1.countReg 0x7064 1 else r.1

/-- Reserved types reach a layer as well, and are discarded by it (R281). -/
def putLike (p : Packet) : Bool := p.type == 0x03 || decide (p.type < 2) || decide (0x0F ≤ p.type)

def execPutPacket (q : Fin 9) (s : State) : Out :=
  .next (takePacket q (fun p => putLike p && (p.type != 0x03 || s.putFree p)) takePut s)

/-- Tiles that a read touches have readers only, and none of its lines waits at its home (R91, R197, R210). -/
def State.readFree (s : State) (a n : Nat) : Bool :=
  !s.rangeHeld a n &&
    (tilesOfRows a n 0 1).all (fun t => (s.die (cdOf t.1)).sb.all (fun e => e.tile != t.2 || (e.held && e.cls == .reader)))

/-- The get replies of a request: 240 bytes each, of every packet whose bytes are all mapped and read; those of a fenced
window carry undefined bytes and the poison mark (R208, R343; log entries 12, 29). -/
def State.getReplies (s : State) (p : Packet) (host : HostData) : List Packet × State :=
  let b := p.payload
  let a := fieldB b 0 6
  let n := fieldB b 16 4
  let status (i : Nat) : Nat := s.srcStatus (s.view host) (a + 240 * i) (min 240 (n - 240 * i))
  let f := s.freeBytes n
  let data := (List.range (cdiv n 240)).flatMap (fun i =>
    if status i = 6 then sliceB f.1 (240 * i) (min 240 (n - 240 * i)) else s.hRead host (a + 240 * i) (min 240 (n - 240 * i)))
  let ps := s.dataPackets p.src 0x05 (replyFlow p.flow) (fieldB b 8 6) (fieldB b 20 4) data
    (fun off k => status (off / 240) == 6 || s.rangePoisoned (a + off) k) true (n / 240 + 1) 0
  (((List.zip (List.range ps.length) ps).filter (fun x => status x.1 == 0 || status x.1 == 6)).map (·.2),
    if (List.range (cdiv n 240)).any (fun i => status i == 6) then f.2 else s)

/-- A get request's source is free (R91). -/
def State.getFree (s : State) (p : Packet) : Bool := s.readFree (fieldB p.payload 0 6) (fieldB p.payload 16 4)

/-- A get request answered: of 1 to 65,536 bytes (R298); another length is not. A host window is read (R343). -/
def answerGet (host : HostData) (p : Packet) (s : State) : State :=
  let n := fieldB p.payload 16 4
  if n < 1 ∨ 65536 < n then s
  else
    let r := (s.askHost s.windows (fieldB p.payload 0 6) n).getReplies p host
    r.2.sendAll r.1 .none

/-- A get request accepted: answered, or held in the layer until its source is free (R298). -/
def takeGet (host : HostData) (p : Packet) (s : State) : State :=
  if s.getFree p then answerGet host p s else { s with fab := { s.fab with gets := s.fab.gets ++ [p] } }

/-- The layer answers the held requests whose sources are free (R298). -/
def serveGets (host : HostData) (s : State) : State :=
  s.fab.gets.foldl (fun t p => takeGet host p t) { s with fab := { s.fab with gets := [] } }

def execGetRequest (q : Fin 9) (host : HostData) (hostOk : Bool) (s : State) : Out :=
  .next (takePacket q (fun p => p.type == 0x04) (takeGet (hostGot hostOk host)) (serveGets (hostGot hostOk host) s))

/-- An operation of a die by its flow and tag. -/
def State.taggedOp (s : State) (flow tag cls code : Nat) : Option (Nat × Op) :=
  let cd := fld flow 8 6
  ((s.die (cdOf cd)).ops.find? (fun o => o.cls == cls && (o.code == code || cls != 4) && o.id % 2 ^ 32 == tag
    && (o.st == .running || o.st == .flight))).map (fun o => (cd, o))

/-- A get reply is written, and its bytes counted off its instruction, whose next request takes the room it leaves
(R162, R165, R220, R298). -/
def takeGetReply (p : Packet) (s : State) : State :=
  let r := s.landPut p
  match r.1.taggedOp p.flow (fieldB p.payload 8 4) 4 2 with
  | some (cd, o) => r.1.sendGets cd { o with
      packets := o.packets - (p.len - 16)
      room := o.room - 1
      poison := o.poison || decide (p.poison ≠ 0) || r.2 == 5
      status := if o.status = 0 ∧ r.2 ≠ 5 then r.2 else o.status } 65
  | none => r.1

def execGetReply (q : Fin 9) (s : State) : Out :=
  .next (takePacket q (fun p => p.type == 0x05 && s.linesFree p) takeGetReply s)

/-- An atomic request waits at its home in order of arrival; a reserved code is not performed (R213, R279). -/
def takeAtomic (p : Packet) (s : State) : State :=
  let b := p.payload
  let code := fieldB b 8 1
  let o : Origin := .remote p.src p.flow (fieldB b 12 4)
  if 6 < code then s.atomReply o (5, 0)
  else { s with homeQ := s.homeQ ++ [⟨code, fieldB b 0 6, fieldB b 16 8, fieldB b 24 8, fieldB b 32 4 % 2 ^ 24, o⟩] }

def execAtomicRequest (q : Fin 9) (s : State) : Out := .next (takePacket q (fun p => p.type == 0x06) takeAtomic s)

/-- An atomic reply completes its instruction, or reaches the waiting sem_acq of its die (R171, R279). -/
def takeAtomicReply (p : Packet) (s : State) : State :=
  let tag := fieldB p.payload 0 4
  let code := fieldB p.payload 4 1
  match s.taggedOp p.flow tag 5 0 with
  | some (cd, o) => s.finishOp cd o.id (atomStatus code)
  | none => { s with replies := s.replies ++ [(fld p.flow 8 6, tag, code)] }

def execAtomicReply (q : Fin 9) (s : State) : Out := .next (takePacket q (fun p => p.type == 0x07) takeAtomicReply s)

/-! ### Acknowledgement (R292, R295) -/

/-- What an acknowledged packet's owner does (R162, R334, R388). -/
def State.ackOwner (s : State) (o : Owner) : State :=
  match o with
  | .none => s
  | .op cd id => s.updDie (cdOf cd) (fun d => match d.op? id with
    | some x => if x.cls = 4 ∧ x.code = 1 then d.putOp { x with packets := x.packets - 1 } else d
    | none => d)
  | .coll id entry => s.collAck id entry
  | .grist _ => s
  | .cellar kind => s.cellarAck kind

/-- An operation whose packet's flow has failed ends with status 8; a sem_acq, or one abandoned, learns that its device is
unreachable (R164, R297). -/
def State.failOwner (s : State) (o : Owner) : State :=
  match o with
  | .none => s
  | .op cd id => match (s.die (cdOf cd)).op? id with
    | some x => if x.cls = 5 then s.finishOp cd id 8
        else s.updDie (cdOf cd) (fun d => d.putOp { x with st := .ended, status := 8 })
    | none => { s with replies := s.replies ++ [(cd, id, 8)] }
  | .coll id _ => s.collFail id
  | .grist tag => s.gristFail tag
  | .cellar kind => s.cellarFail kind

/-- Waiting packets take the room of a flow's window and of the retransmission store (R292). -/
def State.refill (s : State) (dst flow : Nat) : Nat → State
  | 0 => s
  | n + 1 =>
    let bd := flowBd flow
    match txFind s.fab.tx[bd] dst flow with
    | none => s
    | some f => match f.backlog with
      | [] => s
      | t :: rest =>
        if f.unacked.length < fld (s.reg 0x401C) 0 7 ∧ txStored s.fab.tx[bd] < 16384 then
          let t := { t with pkt := { t.pkt with opened := !f.opened } }
          let f := { f with unacked := f.unacked ++ [t], backlog := rest }
          (({ s with fab := { s.fab with tx := s.fab.tx.set bd (txPut s.fab.tx[bd] f) } }).inject bd t.pkt).refill dst flow n
        else s

/-- The waiting packets of every flow of a layer, whose store has room again (R292). -/
def State.refillAll (s : State) (bd : Fin 4) : State :=
  (s.fab.tx[bd].filter (fun f => !f.backlog.isEmpty)).foldl (fun t f => t.refill f.dst f.flow 64) s

/-- A flow fails: its state is released, every operation with a packet on it ends with status 8, and it is counted,
logged and reported (R297). -/
def State.failFlow (s : State) (dst flow : Nat) : State :=
  let bd := flowBd flow
  match txFind s.fab.tx[bd] dst flow with
  | none => s
  | some f =>
    let own := (f.unacked ++ f.backlog).map (·.owner)
    let lines (o : Owner) : Bool := o == .cellar 0 || o == .cellar 1
    let own := own.filter lines ++ (own.filter (fun o => !lines o)).eraseDups
    let s := { s with fab := { s.fab with
      tx := s.fab.tx.set bd (txDrop s.fab.tx[bd] dst flow)
      mapFail := s.fab.mapFail + 1 } }
    let s := (((s.countReg 0x4090 1).log 11 6 0 0xFF flow dst).fabEvent 16 0xFF).refillAll bd
    own.foldl State.failOwner s

/-- Whether a record acknowledges a sequence number: before next, or marked (Table 8-8). -/
def recordHas (next map seq : Nat) : Bool :=
  let d := modDiff 24 seq next
  decide (d < 0) || (decide (1 ≤ d) && decide (d ≤ 32) && bitAt map (d - 1).toNat)

/-- One ack record of a peer (R294, R295, R297). -/
def State.takeRecord (s : State) (peer : Nat) (b : List Byte) : State :=
  let flow := fieldB b 0 2
  let bd := flowBd flow
  if fieldB b 4 4 % 2 ^ 20 ≠ s.selfCoord then s
  else match txFind s.fab.tx[bd] peer flow with
  | none => s
  | some f =>
    if bitAt (fieldB b 2 1) 0 then s.failFlow peer flow
    else
      let hit (t : TxPkt) : Bool := recordHas (fieldB b 8 3) (fieldB b 12 4) t.pkt.seq
      let done := f.unacked.filter hit
      let f' := { f with opened := true, unacked := f.unacked.filter (fun t => !hit t) }
      let s := ({ s with fab := { s.fab with tx := s.fab.tx.set bd (txPut s.fab.tx[bd] f') } }).refillAll bd
      done.foldl (fun t x => t.ackOwner x.owner) s

/-- An ack packet's records, up to sixteen (R295). -/
def takeAck (p : Packet) (s : State) : State :=
  (List.range (min 16 (p.len / 16))).foldl (fun t i => t.takeRecord p.src (sliceB p.payload (16 * i) 16)) s

def execAckPacket (q : Fin 9) (s : State) : Out := .next (takePacket q (fun p => p.type == 0x02) takeAck s)

/-- ack_delay has passed since the oldest unacknowledged packet of a flow was accepted: its record is sent (R295). -/
def ackDelay (src flow : Nat) (s : State) : State :=
  let bd := flowBd flow
  match rxFind s.fab.rx[bd] src flow with
  | some f => if f.unacked = 0 then s else (s.putRx bd { f with unacked := 0 }).sendAck bd { f with unacked := 0 } false
  | none => s

def execAckDelayExpire (src flow : Nat) (s : State) : Out := .next (ackDelay src flow s)

/-! ### Retransmission and idle flows (R294, R297) -/

/-- A packet unacknowledged for timeout_us: sent again with age 0, or its flow fails after the retries (R297). -/
def retransmit (dst flow seq : Nat) (s : State) : State :=
  let bd := flowBd flow
  match txFind s.fab.tx[bd] dst flow with
  | none => s
  | some f =>
    match f.unacked.find? (fun t => t.pkt.seq == seq) with
    | none => s
    | some t =>
      if t.tries < fld (s.reg 0x4018) 16 4 then
        let f := { f with unacked := f.unacked.map (fun x => if x.pkt.seq = seq then { x with tries := x.tries + 1 } else x) }
        (({ s with fab := { s.fab with
          tx := s.fab.tx.set bd (txPut s.fab.tx[bd] f)
          mapRetr := s.fab.mapRetr + 1 } }).countReg 0x408C 1).inject bd
            { t.pkt with age := 0, epoch := s.injectEpoch, opened := !f.opened }
      else s.failFlow dst flow

def execRetransmitTimeout (dst flow seq : Nat) (s : State) : Out := .next (retransmit dst flow seq s)

/-- A sender releases a flow idle for idle_ms with every packet acknowledged (R294). -/
def senderIdle (dst flow : Nat) (s : State) : State :=
  let bd := flowBd flow
  match txFind s.fab.tx[bd] dst flow with
  | some f => if f.unacked.isEmpty && f.backlog.isEmpty then
      { s with fab := { s.fab with tx := s.fab.tx.set bd (txDrop s.fab.tx[bd] dst flow) } } else s
  | none => s

def execSenderFlowIdle (dst flow : Nat) (s : State) : Out := .next (senderIdle dst flow s)

/-- A receiver releases a flow 2 × idle_ms after its last accepted packet (R294). -/
def receiverIdle (src flow : Nat) (s : State) : State :=
  let bd := flowBd flow
  { s with fab := { s.fab with rx := s.fab.rx.set bd (s.fab.rx[bd].filter (fun f => !(f.src == src && f.flow == flow))) } }

def execReceiverFlowIdle (src flow : Nat) (s : State) : Out := .next (receiverIdle src flow s)

/-! ### Control registers (R203, R227) -/

/-- A write of FAB_RD_CTRL: a new reorder_mib only while the device is quiet with no flow state (R203). -/
def fabRdCtrlWrite (v : Nat) (s : State) : State :=
  match regRow? 0x401C with
  | none => s
  | some row =>
    let new := regMerge row 0x401C (s.reg 0x401C) (v % 2 ^ 32)
    if s.ready = false then s
    else if fld new 24 6 ≠ fld (s.reg 0x401C) 24 6 ∧ (s.quiet && s.noFlows) = false then s.orReg 0x3008 1
    else s.setReg 0x401C new

def execFabRdCtrlWrite (v : Nat) (s : State) : Out := .next (fabRdCtrlWrite v s)

/-- A write of MEM_NEAR_LAYOUT or MEM_DEEP_LAYOUT takes effect only while the device is quiet (R227). -/
def memLayoutWrite (off v : Nat) (s : State) : State :=
  if s.ready = false ∨ ¬ (off = 0x3010 ∨ off = 0x3014 ∨ (0x3020 ≤ off ∧ off ≤ 0x304C ∧ off % 4 = 0)) then s
  else if s.quiet then s.setReg off v else s.orReg 0x3008 1

def execMemLayoutWrite (off v : Nat) (s : State) : Out := .next (memLayoutWrite off v s)

end Sys2Proof.Machine
end

