-- ==== Sys2Proof/Machine/Sparge.lean ====
section
/-! DEFINITION. Vector instructions and the Sparge units that perform them (R114–R145, R159, R160, R180). -/

namespace Sys2Proof.Machine

/-! ### Issue (R147, R159, R160, R175) -/

/-- Entry i of a stream record (Table 5-12). -/
def vEntry (o : Op) (i : Nat) : Nat := fieldB o.rcd (16 * i) 16

/-- A vector instruction: its stream record and the registers it names are taken at issue; a record that
cannot be read faults with code 8; a full queue stalls (R160, Table 5-18). -/
def issueVec (cd : Cd) (w : IWord) (op : Nat) (s : State) : State :=
  issueAdmDie cd w 3 op (fun x d =>
    if 8 ≤ d.queued 3 (fld x 20 4) then { d with stall := .queueFull }
    else if s.recordOk cd (vRecord x) 64 = false then d.fail 8 d.pc.toNat 3 op (fld x 20 4) 0
    else
      let r := s.sram cd (vRecord x) 64
      let e (i : Nat) : Nat := fieldB r (16 * i) 16
      let av := (List.range 4).map (fun i => (d.getA (fld (e i) 65 4)).toNat)
      let sv := (List.range 4).map (fun i => (d.getS (fld (e i) 32 5)).toNat)
        ++ [(d.getS (vThreshold x)).toNat, (d.getS (vExpReg x)).toNat, (d.getS (vOffReg x)).toNat]
      d.advance.push (d.unitOp x r av sv)) s

def execSpargeConv (cd : Cd) (w : IWord) (s : State) : Out := .next (issueVec cd w 0x00 s)
def execSpargeAdd (cd : Cd) (w : IWord) (s : State) : Out := .next (issueVec cd w 0x01 s)
def execSpargeSub (cd : Cd) (w : IWord) (s : State) : Out := .next (issueVec cd w 0x02 s)
def execSpargeMul (cd : Cd) (w : IWord) (s : State) : Out := .next (issueVec cd w 0x03 s)
def execSpargeFma (cd : Cd) (w : IWord) (s : State) : Out := .next (issueVec cd w 0x04 s)
def execSpargeMin (cd : Cd) (w : IWord) (s : State) : Out := .next (issueVec cd w 0x05 s)
def execSpargeMax (cd : Cd) (w : IWord) (s : State) : Out := .next (issueVec cd w 0x06 s)
def execSpargeAbs (cd : Cd) (w : IWord) (s : State) : Out := .next (issueVec cd w 0x07 s)
def execSpargeNeg (cd : Cd) (w : IWord) (s : State) : Out := .next (issueVec cd w 0x08 s)
def execSpargeClamp (cd : Cd) (w : IWord) (s : State) : Out := .next (issueVec cd w 0x09 s)
def execSpargeSelect (cd : Cd) (w : IWord) (s : State) : Out := .next (issueVec cd w 0x0A s)
def execSpargeCmpGt (cd : Cd) (w : IWord) (s : State) : Out := .next (issueVec cd w 0x0B s)
def execSpargeCmpGe (cd : Cd) (w : IWord) (s : State) : Out := .next (issueVec cd w 0x0C s)
def execSpargeCmpEq (cd : Cd) (w : IWord) (s : State) : Out := .next (issueVec cd w 0x0D s)
def execIadd (cd : Cd) (w : IWord) (s : State) : Out := .next (issueVec cd w 0x10 s)
def execIsub (cd : Cd) (w : IWord) (s : State) : Out := .next (issueVec cd w 0x11 s)
def execImul (cd : Cd) (w : IWord) (s : State) : Out := .next (issueVec cd w 0x12 s)
def execIand (cd : Cd) (w : IWord) (s : State) : Out := .next (issueVec cd w 0x13 s)
def execIor (cd : Cd) (w : IWord) (s : State) : Out := .next (issueVec cd w 0x14 s)
def execIxor (cd : Cd) (w : IWord) (s : State) : Out := .next (issueVec cd w 0x15 s)
def execIshl (cd : Cd) (w : IWord) (s : State) : Out := .next (issueVec cd w 0x16 s)
def execIshr (cd : Cd) (w : IWord) (s : State) : Out := .next (issueVec cd w 0x17 s)
def execRecip (cd : Cd) (w : IWord) (s : State) : Out := .next (issueVec cd w 0x20 s)
def execDiv (cd : Cd) (w : IWord) (s : State) : Out := .next (issueVec cd w 0x21 s)
def execSqrt (cd : Cd) (w : IWord) (s : State) : Out := .next (issueVec cd w 0x22 s)
def execRsqrt (cd : Cd) (w : IWord) (s : State) : Out := .next (issueVec cd w 0x23 s)
def execExp (cd : Cd) (w : IWord) (s : State) : Out := .next (issueVec cd w 0x24 s)
def execExp2 (cd : Cd) (w : IWord) (s : State) : Out := .next (issueVec cd w 0x25 s)
def execLog (cd : Cd) (w : IWord) (s : State) : Out := .next (issueVec cd w 0x26 s)
def execLog2 (cd : Cd) (w : IWord) (s : State) : Out := .next (issueVec cd w 0x27 s)
def execTanh (cd : Cd) (w : IWord) (s : State) : Out := .next (issueVec cd w 0x28 s)
def execSigmoid (cd : Cd) (w : IWord) (s : State) : Out := .next (issueVec cd w 0x29 s)
def execErf (cd : Cd) (w : IWord) (s : State) : Out := .next (issueVec cd w 0x2A s)
def execSin (cd : Cd) (w : IWord) (s : State) : Out := .next (issueVec cd w 0x2B s)
def execCos (cd : Cd) (w : IWord) (s : State) : Out := .next (issueVec cd w 0x2C s)
def execRowSum (cd : Cd) (w : IWord) (s : State) : Out := .next (issueVec cd w 0x30 s)
def execRowMax (cd : Cd) (w : IWord) (s : State) : Out := .next (issueVec cd w 0x31 s)
def execRowMin (cd : Cd) (w : IWord) (s : State) : Out := .next (issueVec cd w 0x32 s)
def execColSum (cd : Cd) (w : IWord) (s : State) : Out := .next (issueVec cd w 0x33 s)
def execColMax (cd : Cd) (w : IWord) (s : State) : Out := .next (issueVec cd w 0x34 s)
def execS64Add (cd : Cd) (w : IWord) (s : State) : Out := .next (issueVec cd w 0x35 s)

/-! ### Streams (R117–R119) -/

/-- A stream as its entry and the captured registers give it. row is a byte offset for kind 1, a row over all
tiles for kinds 2 to 4, and the register's value for kind 5. -/
structure Stream where
  kind : Nat
  fmt : Nat
  wide : Bool
  stride : Nat
  base : Nat
  deriving DecidableEq, Repr

def vStream (o : Op) (i : Nat) : Stream :=
  let e := vEntry o i
  let k := fld e 0 3
  let b := fld e 32 32
  { kind := k, fmt := fld e 3 4, wide := bitAt e 7, stride := fld e 8 24
    base := if k = 1 then (fld b 0 25 + (if bitAt e 64 then o.av.getD i 0 else 0)) % 2 ^ 25
      else if k = 5 then o.sv.getD i 0
      else fld b 0 8 * 128 + fld b 8 7 }

def Stream.f (t : Stream) : Fmt := (fmtOfCode t.fmt).getD .f32

/-- Streams an operation reads, and d. -/
def vUses (o : Op) : List Nat := List.range (vArity o.code) ++ [3]

/-- Bytes of a logical row of n elements of a kind 1 stream; an S64 input is counted in the narrow form,
its own form being known when it is read. -/
def Stream.rowBytes (t : Stream) (wide : Bool) (n : Nat) : Nat :=
  if t.f = .s64 then cdiv n 64 * blkSize wide
  else if isRowCode t.f then Sys2Proof.Machine.rowBytes t.f n
  else cdiv ((if t.wide then n else 1) * fmtBits t.f) 8

/-- Elements and rows of d: the results of a row reduction are one row, of a column reduction one lane-row. -/
def vOutLen (o : Op) : Nat := if isRowRed o.code then vRows o.w else vN o.w
def vOutRows (o : Op) : Nat := if isRowRed o.code || isColRed o.code then 1 else vRows o.w

/-- The first byte or row past a stream. -/
def vEnd (o : Op) (i : Nat) : Nat :=
  let t := vStream o i
  let rows := if i = 3 then vOutRows o else vRows o.w
  let n := if i = 3 then vOutLen o else vN o.w
  if t.kind = 1 then t.base + (rows - 1) * t.stride + t.rowBytes (i = 3 && vWide o.w && o.code != 0x35) n
  else t.base + (rows - 1) * t.stride + (if i = 3 then cdiv n 128 else 1)

/-- Reserved codes of the word and of the record's entries (Table 4-1, Table 4-6, Table 5-11, Table 5-12). -/
def vReserved (o : Op) : Bool :=
  decide (o.w / 2 ^ 106 % 2 ^ 22 ≠ 0) || decide (8 < vPred o.w) || decide (vHeadroom o.w = 63)
    || (List.range 4).any (fun i =>
      let t := vStream o i
      decide (5 < t.kind) || decide (10 < t.fmt) || decide (fld (vEntry o i) 69 59 ≠ 0)
        || (decide (t.kind = 1) && decide (t.stride % 32 ≠ 0))
        || ((decide (t.kind = 2) || decide (t.kind = 3) || decide (t.kind = 4)) && decide (1 < t.stride)))

/-- A combination the chapter does not permit (R117, R118, R134, R160, Table 4-2). -/
def vForbidden (o : Op) : Bool :=
  let n := vN o.w
  let d := vStream o 3
  (vUses o).any (fun i =>
    let t := vStream o i
    (decide (t.kind = 2 ∨ t.kind = 3 ∨ t.kind = 4) && (decide (t.f ≠ .x128) || decide (128 < n)))
      || (decide (t.kind = 5) && decide (t.f ≠ .f32 ∧ t.f ≠ .i32))
      || (decide (t.kind = 1) && (isRowCode t.f || decide (t.f = .s64)) && !t.wide)
      || (decide (i < vArity o.code) && decide (t.kind = 0)))
    || decide (d.kind = 3 ∨ d.kind = 4 ∨ d.kind = 5) || !d.wide
    || (isColRed o.code && decide (128 < n))
    || (o.code == 0x35 && decide ((vStream o 0).f ≠ .s64 ∨ (vStream o 1).f ≠ .s64 ∨ d.f ≠ .s64))
    || (decide (d.f = .s64) && o.code != 0x35 && vNamedExp o.w && decide (o.sv.getD 5 0 % 2 ^ 16 = 0xFFFF))

/-- The status a vector instruction ends with before it reads an element: 2, 7, or 0 where it may run (R119, R130). -/
def vCheck (o : Op) : Nat :=
  if vReserved o || vForbidden o then 2
  else if (vUses o).any (fun i =>
      let t := vStream o i
      if t.kind = 1 then decide (sramSize < vEnd o i)
      else decide (t.kind = 2 ∨ t.kind = 3 ∨ t.kind = 4) && decide (192 * 128 < vEnd o i)) then 7
  else 0

/-- The tiles an instruction names, each once (R124). -/
def vTiles (o : Op) (i : Nat) : List Nat :=
  let t := vStream o i
  if t.kind = 2 ∨ t.kind = 3 ∨ t.kind = 4 then
    (List.range (cdiv (vEnd o i) 128 - t.base / 128)).map (fun k => t.base / 128 + k)
  else []

/-- Arrival at the entries of every tile: a writer for d, a reader for the inputs (R124). -/
def Die.takeTiles (d : Die) (o : Op) : Die :=
  if d.sb.any (fun e => e.who == o.id) then d
  else
    let ws := vTiles o 3
    let rs := ((List.range (vArity o.code)).flatMap (vTiles o)).eraseDups.filter (fun t => !ws.contains t)
    let sb := ws.foldl (fun b t => sbArrive b t o.id .writer) d.sb
    { d with sb := rs.foldl (fun b t => sbArrive b t o.id .reader) sb }

/-! ### Input rows (R118, R119, R121) -/

/-- n elements of a fixed width at an address, with the poison of the lines each lies in. -/
def State.plainElems (s : State) (a : Nat) (f : Fmt) (n : Nat) : List Elem :=
  let b := fmtBits f
  (List.range n).map (fun j =>
    let x := if b = 4 then fld (s.byte (a + j / 2)).toNat (4 * (j % 2)) 4 else s.num (a + j * (b / 8)) (b / 8)
    ⟨elemVal f x, x, s.rangePoisoned (a + j * b / 8) (if b = 4 then 1 else b / 8)⟩)

/-- The blocks of an S64 row from an offset in operand SRAM, none where one leaves it. -/
def State.s64Row (s : State) (cd : Cd) : Nat → Nat → Option (List (Blk × List Bool))
  | _, 0 => some []
  | off, k + 1 =>
    let a := sramAddr cd off
    let size := blkSize (bitAt (s.byte (a + 2)).toNat 0)
    if sramSize < off + size then none
    else match s.s64Row cd (off + size) k with
    | none => none
    | some t =>
      let b := blkDecode (s.bytes a size)
      let w := if b.wide then 16 else 8
      let head := s.rangePoisoned a 8
      some ((b, (List.range 64).map (fun i => head || s.rangePoisoned (a + 8 + w * i) w)) :: t)

/-- Logical row r of an input stream: n elements, none where an S64 block leaves operand SRAM. -/
def State.inRow (s : State) (cd : Cd) (t : Stream) (r n : Nat) : Option (List Elem) :=
  let spread (l : List Elem) : List Elem := if t.wide then l else List.replicate n (l.headD ⟨.zero, 0, false⟩)
  let win := 0x050000000000 + cd.val * 2 ^ 32
  let row := t.base + r * t.stride
  match t.kind with
  | 1 =>
    if t.f = .s64 then
      (s.s64Row cd row (cdiv n 64)).map (fun bs => (bs.flatMap (fun b =>
        (List.range 64).map (fun i => (⟨(blkVals b.1).getD i .zero, 0, b.2.getD i false⟩ : Elem)))).take n)
    else if isRowCode t.f then
      let a := sramAddr cd row
      let head := s.rangePoisoned a 4
      let vs := rowVals t.f n (s.bytes a (Sys2Proof.Machine.rowBytes t.f n))
      some ((List.range n).map (fun j =>
        ⟨vs.getD j .zero, 0, head || s.rangePoisoned (a + 4 + j * fmtBits t.f / 8) 1⟩))
    else some (spread (s.plainElems (sramAddr cd row) t.f (if t.wide then n else 1)))
  | 2 => some (spread (s.plainElems (win + 0x40000000 + row * 2048) .x128 (if t.wide then n else 1)))
  | 3 => some (List.replicate n ((s.plainElems (win + 0x80000000 + row * 32) .x128 1).headD ⟨.zero, 0, false⟩))
  | 4 => some (List.replicate n ((s.plainElems (win + 0x80000000 + row * 32 + 16) .x128 1).headD ⟨.zero, 0, false⟩))
  | _ => some (List.replicate n ⟨elemVal t.f (t.base % 2 ^ 32), t.base % 2 ^ 32, false⟩)

/-! ### Output (R133, R134, R143) -/

/-- Where row r of d begins. -/
def vOutAddr (cd : Cd) (o : Op) (r : Nat) : Nat :=
  let t := vStream o 3
  if t.kind = 1 then sramAddr cd (t.base + r * t.stride)
  else 0x050000000000 + cd.val * 2 ^ 32 + 0x40000000 + (t.base + r * t.stride) * 2048

/-- A piece of a row written to d, not where d is of kind 0. -/
def State.putPiece (s : State) (cd : Cd) (o : Op) (r : Nat) (p : Piece) : State :=
  if (vStream o 3).kind = 0 then s
  else s.putBytes (vOutAddr cd o r + p.off) p.bytes p.bads (p.bytes.length / 64 + 2)

/-- The upper half of the byte that an odd row of I4 ends in: R31 does not say what is written there, and the model keeps
the old bits (DESIGN CHOICE, log entry 46). -/
def State.keepNibble (s : State) (cd : Cd) (o : Op) (r n : Nat) : Nat :=
  if (vStream o 3).kind = 1 then (s.byte (vOutAddr cd o r + n / 2)).toNat / 16 else 0

/-- Where a stream's row comes from: a row that starts where the buffered one does is taken from the stream buffer, which
was filled when the unit began (s0), and any other is read from the state as it is (R121; log entry 48). -/
def Stream.from (t : Stream) (s0 s : State) : State := if t.kind = 1 ∧ t.stride = 0 then s0 else s

/-- The pieces of logical row r of an element-wise operation, none on an address fault; s0 is the state in which the stream
buffers were filled. -/
def State.rowPieces (s s0 : State) (cd : Cd) (o : Op) (r : Nat) : Option (List Piece) :=
  let n := vN o.w
  let fo := (vStream o 3).f
  let ts := (List.range (vArity o.code)).map (vStream o)
  let a := vStream o 0
  let b := vStream o 1
  let d := vStream o 3
  let sa := a.from s0 s
  let expv := o.sv.getD 5 0
  if o.code = 0x35 then
    match sa.s64Row cd (a.base + r * a.stride) (cdiv n 64), (b.from s0 s).s64Row cd (b.base + r * b.stride) (cdiv n 64) with
    | some x, some y =>
      let bs := List.zipWith (fun (p q : Blk × List Bool) =>
        let z := blkAdd p.1 q.1
        (z.1, List.zipWith (fun (e : Ev) (k : Nat) => evOr e (evOr (valEv ((blkVals p.1).getD k .zero)) Ev.none)) z.2 (List.range 64),
          List.zipWith (fun u v => u || v) p.2 q.2)) x y
      let size := bs.foldl (fun t z => t + blkSize z.1.wide) 0
      if d.kind = 1 ∧ sramSize < d.base + r * d.stride + size then none else some (blkRow n bs)
    | _, _ => none
  else if o.code = 0 ∧ a.kind = 1 ∧ a.f = .s64 ∧ fo = .s64 then
    (sa.s64Row cd (a.base + r * a.stride) (cdiv n 64)).map (fun bs =>
      blkRow n (bs.map (fun p =>
        let vs := blkVals p.1
        let code := if vNamedExp o.w then expv % 2 ^ 16 else blkDerive (vDir o.w) (vHeadroom o.w) vs
        let z := blkOfVals (vWide o.w) (vDir o.w) code p.1.count vs
        (z.1, z.2, p.2.map (fun x => x || (!vNamedExp o.w && p.2.any id))))))
  else if o.code = 0 ∧ isRowCode a.f = true ∧ a.kind = 1 ∧ (fo = a.f ∨ (a.f = .q4 ∧ fo = .q8)) then
    (sa.inRow cd a r n).map (fun es =>
      let ad := sramAddr cd (a.base + r * a.stride)
      copyCode a.f fo n (sa.bytes ad (Sys2Proof.Machine.rowBytes a.f n)) (es.map (·.bad)) (sa.rangePoisoned ad 4))
  else
    match ts.mapM (fun t => (t.from s0 s).inRow cd t r n) with
    | none => none
    | some rows =>
      let rs := (List.range n).map (fun j =>
        laneOp o.code (vStrict o.w) (vDir o.w) (ts.map (·.f)) fo (rows.map (fun l => l.getD j ⟨.zero, 0, false⟩)))
      some (layRow fo o.w expv (o.sv.getD 6 0) (s.keepNibble cd o r n) 0 rs)
where
  /-- the blocks of a row, two to a lane-row, at increasing addresses -/
  blkRow (n : Nat) (bs : List (Blk × List Ev × List Bool)) : List Piece :=
    (List.range (cdiv bs.length 2)).map (fun c =>
      let off := (bs.take (2 * c)).foldl (fun t b => t + blkSize b.1.wide) 0
      blkPiece off (min 128 (n - 128 * c)) ((bs.drop (2 * c)).take 2))

/-- The output of a row reduction from lane-row c0 of results on, of k lane-rows, none on an address fault; a row code is
made of all the results (R133). -/
def State.rowRedPieces (s s0 : State) (cd : Cd) (o : Op) (c0 k : Nat) : Option (List Piece) :=
  let t := vStream o 0
  let fo := (vStream o 3).f
  let rows := ((List.range (vRows o.w)).drop (128 * c0)).take (128 * k)
  (rows.mapM (fun r => (t.from s0 s).inRow cd t r (vN o.w))).map (fun es =>
    layRow fo o.w (o.sv.getD 5 0) (o.sv.getD 6 0) (s.keepNibble cd o 0 (vRows o.w)) c0
      (es.map (rowReduce o.code (vStrict o.w) (vDir o.w) t.f fo)))

/-- The one lane-row of a column reduction, none on an address fault: poison that it takes in marks the whole result
(R134, R143). -/
def State.colRedPieces (s s0 : State) (cd : Cd) (o : Op) : Option (List Piece) :=
  let n := vN o.w
  let t := vStream o 0
  let fo := (vStream o 3).f
  ((List.range (vRows o.w)).mapM (fun r => (t.from s0 s).inRow cd t r n)).map (fun rows =>
    let rs := (List.range n).map (fun j => colReduce o.code (vStrict o.w) (vDir o.w) t.f fo
      (rows.map (fun l => l.getD j ⟨.zero, 0, false⟩)))
    layRow fo o.w (o.sv.getD 5 0) (o.sv.getD 6 0) (s.keepNibble cd o 0 n) 0
      (rs.map (fun r => { r with bad := rs.any (·.bad) })))

/-! ### Performing an instruction (R129, R136, R137, R142) -/

/-- Lane-rows of a logical row. -/
def vPerRow (o : Op) : Nat := cdiv (vN o.w) 128

/-- Lane-rows of an instruction: those of its output, and for a reduction those of its input. -/
def vTotal (o : Op) : Nat := vRows o.w * vPerRow o

/-- The lane-row from which an instruction goes on when the check of a lane-row fails: that lane-row, the first of its
logical row for a row reduction, the first of all for a column reduction (R142). -/
def vRestart (o : Op) (row : Nat) : Nat :=
  if isColRed o.code then 0 else if isRowRed o.code then row / vPerRow o * vPerRow o else row

/-- Output lane-rows of a row reduction that stand once the input lane-rows below upto are done: each is written when its
128 results are formed, and a row code when all are. -/
def redWritten (o : Op) (upto : Nat) : Nat :=
  if vTotal o ≤ upto then cdiv (vRows o.w) 128
  else if isRowCode (vStream o 3).f then 0 else upto / vPerRow o / 128

/-- What the units performed leave: the state, the summary being built, whether poison was met, poisoned lane-rows,
and whether an address fault ended it. -/
structure Work where
  st : State
  sum : Summary
  bad : Bool
  lanes : Nat
  fault : Bool
  deriving DecidableEq, Repr

/-- Pieces written and summarised. -/
def Work.put (k : Work) (cd : Cd) (o : Op) (r : Nat) (ps : List Piece) : Work :=
  let thr := ffDecode ffF32 (o.sv.getD 4 0)
  ps.foldl (fun k p =>
    { k with
      st := k.st.putPiece cd o r p, sum := sumPiece (vPred o.w) thr k.sum p
      bad := k.bad || decide (piecePoison p ≠ 0), lanes := k.lanes + piecePoison p }) k

/-- Pieces of an output row, or an address fault. -/
def Work.take (k : Work) (cd : Cd) (o : Op) (r : Nat) (ps : Option (List Piece)) (f : List Piece → List Piece) : Work :=
  if k.fault then k else
  match ps with
  | none => { k with fault := true }
  | some l => k.put cd o r (f l)

/-- Lane-rows from o.row to upto − 1 of an instruction, in ascending order (R136); the stream buffers are filled from the
state in which they begin (R121). -/
def State.vecRun (s : State) (cd : Cd) (o : Op) (sum : Summary) (upto : Nat) : Work :=
  let k : Work := ⟨s, sum, o.poison, 0, false⟩
  let m := vPerRow o
  if isColRed o.code then (if vTotal o ≤ upto then k.take cd o 0 (s.colRedPieces s cd o) id else k)
  else if isRowRed o.code then
    let lo := redWritten o o.row
    let hi := redWritten o upto
    if isRowCode (vStream o 3).f then (if lo < hi then k.take cd o 0 (s.rowRedPieces s cd o 0 hi) id else k)
    else (List.range (hi - lo)).foldl (fun k i => k.take cd o 0 (k.st.rowRedPieces s cd o (lo + i) 1) id) k
  else
    (List.range (vRows o.w)).foldl (fun k r =>
      let lo := max o.row (r * m)
      let hi := min upto (r * m + m)
      if lo < hi then k.take cd o r (k.st.rowPieces s cd o r) (fun l => (l.drop (lo - r * m)).take (hi - lo)) else k) k

/-! ### Start, check failure, completion (R136, R142, R143) -/

def Die.spu (d : Die) (u : Fin 12) : Sparge := d.spar[u]
def Die.setSpu (d : Die) (u : Fin 12) (x : Sparge) : Die := { d with spar := d.spar.set u x }

/-- The instruction a physical unit takes next: the first queued one of a logical unit mapped to it, none while
one is running (R136). -/
def Die.nextVec (d : Die) (u : Fin 12) : Option Op :=
  if d.ops.any (fun o => o.cls == 3 && o.st == .running && o.phys == u.val) then none
  else d.ops.find? (fun o => o.cls == 3 && o.st == .queued && d.sparMap[unitOf o.unit] == u)

/-- A unit takes its next instruction: a failing check ends it; tiles held by others keep it queued (R124, R130). -/
def spargeStart (cd : Cd) (u : Fin 12) (s : State) : State :=
  let d := s.die cd
  if d.sparUp[u] = false ∨ d.mode = .fenced then s
  else match d.nextVec u with
  | none => s
  | some o =>
    if vCheck o ≠ 0 then
      s.setDie cd (d.putOp { o with st := .ended, status := vCheck o, phys := u.val, decided := true })
    else
      let d := d.takeTiles o
      if sbAllHeld d.sb o.id then
        s.setDie cd { d.putOp { o with st := .running, phys := u.val } with
          slotQ := if (d.slotQ.any (fun p => p.1 == o.id)) then d.slotQ else tabSet d.slotQ o.id .reset }
      else s.setDie cd d

def execSpargeStart (cd : Cd) (u : Fin 12) (s : State) : Out := .next (spargeStart cd u s)

def Die.runningVec (d : Die) (u : Fin 12) : Option Op :=
  d.ops.find? (fun o => o.cls == 3 && o.st == .running && o.phys == u.val)

/-- Units performed are recorded: the record being built, the counter of poisoned lane-rows (R144, R180). -/
def State.vecKeep (k : Work) (cd : Cd) (u : Fin 12) (o : Op) : State :=
  k.st.updDie cd (fun d =>
    let x := d.spu u
    { (d.setSpu u { x with poisonRows := satAdd32 x.poisonRows k.lanes }).putOp o with
      slotQ := tabSet d.slotQ o.id k.sum })

/-- A unit is retired: the failing instruction stops at its first unwritten lane-row, and every one queued behind
it ends with status 4 (R142, R143). -/
def State.retireVec (s : State) (cd : Cd) (u : Fin 12) (row : Nat) : State :=
  let s := s.updDie cd (fun d => { d with
    sparUp := d.sparUp.set u false
    ops := d.ops.map (fun o =>
      if o.cls = 3 ∧ (o.st = .running ∧ o.phys = u.val ∨ o.st = .queued ∧ d.sparMap[unitOf o.unit] = u) then
        { o with st := .stopped, phys := u.val, status := 4, fails := [] } else o) })
  ((s.log 8 0 cd.val u.val row 0).event 0x0006 32 [(16, 1, cd.val), (17, 1, 1), (18, 1, u.val)]).depStatus 1

/-- The check of a lane-row fails: what is written stands, and the instruction goes on from the lane-row of vRestart; a
failure on a third execution of the lane-row, or the eighth failing instruction within 2^30 clocks, retires the unit, and
then it re-executes nothing (R142, R144). -/
def spargeFail (cd : Cd) (u : Fin 12) (row : Nat) (s : State) : State :=
  let d := s.die cd
  match d.runningVec u with
  | none => s
  | some o =>
    if row < o.row ∨ vTotal o ≤ row then s
    else
      let k := s.vecRun cd o (tabGet .reset d.slotQ o.id) (vRestart o row)
      if k.fault then s
      else
        let x := d.spu u
        let recent := recentFails x.failAt d.clkUp ++ (if o.fails.isEmpty then [d.clkUp] else [])
        let retire := decide (2 ≤ (o.fails.filter (fun f => decide (row ≤ f))).length ∨ 8 ≤ recent.length)
        let s := State.vecKeep k cd u
          { o with row := vRestart o row, fails := o.fails ++ [row], reexec := true, poison := k.bad }
        let s := s.updDie cd (fun d =>
          let y := d.spu u
          d.setSpu u { y with
            failures := satAdd32 y.failures 1, reexec := satAdd32 y.reexec (if retire then 0 else 1), failAt := recent })
        if retire then s.retireVec cd u row else s.log 7 0 cd.val u.val row 0

def execSpargeCheckFail (cd : Cd) (u : Fin 12) (row : Nat) (s : State) : Out := .next (spargeFail cd u row s)

/-- The running instruction of a unit writes what is left of its output and ends; with a summary its counter
waits for the slot, else it completes. An instruction that a check ended completes (R136, R143). -/
def spargeComplete (cd : Cd) (u : Fin 12) (s : State) : State :=
  let d := s.die cd
  match d.ops.find? (fun o => o.cls == 3 && o.phys == u.val && (o.st == .running || (o.st == .ended && o.decided))) with
  | none => s
  | some o =>
    if o.st = .ended then s.setDie cd (d.finish o o.status)
    else
      let k := s.vecRun cd o (tabGet .reset d.slotQ o.id) (vTotal o)
      let st := if k.fault then 7 else if k.bad then 5 else if o.reexec then 1 else 0
      let o := { o with st := .ended, status := st, poison := k.bad }
      let s := State.vecKeep k cd u o
      if vSummary o.w then s
      else s.updDie cd (fun d => { d.finish o st with slotQ := tabDel d.slotQ o.id })

def execSpargeComplete (cd : Cd) (u : Fin 12) (s : State) : Out := .next (spargeComplete cd u s)

/-- The record of the first ended instruction of a unit is published into its slot, and the instruction completes
(R137, R140, R141). -/
def slotUpdate (cd : Cd) (u : Fin 12) (s : State) : State :=
  let d := s.die cd
  match d.ops.find? (fun o => o.cls == 3 && o.phys == u.val && o.st == .ended && !o.decided) with
  | none => s
  | some o =>
    let r := sumFinal (vPred o.w) (tabGet .reset d.slotQ o.id)
    let v := if vCombine o.w then sumMerge (d.slot o.unit (vSlot o.w)) r else r
    s.setDie cd { d.finish o o.status with
      slots := tabSet d.slots (o.unit * 8 + vSlot o.w) v, slotQ := tabDel d.slotQ o.id }

def execSummarySlotUpdate (cd : Cd) (u : Fin 12) (s : State) : Out := .next (slotUpdate cd u s)

/-- Where a reissued instruction begins: its first unwritten lane-row, or for a row reduction its first logical row with
no written result (R180). -/
def vReissue (o : Op) : Nat := if isRowRed o.code then redWritten o o.row * 128 * vPerRow o else o.row

/-- Status 4 of a Sparge unit: its logical units move to the substitute and the stopped instructions are reissued
in issue order, each from its first unwritten lane-row; with none left, fault code 7 (R180, R181). -/
def remapVec (cd : Cd) (u : Fin 12) (s : State) : State :=
  let d := s.die cd
  let mine (o : Op) : Bool := o.cls == 3 && o.st == .stopped && o.phys == u.val
  match d.ops.find? mine with
  | none => s
  | some first =>
    match nextUp d.sparUp u.val with
    | some k =>
      s.setDie cd { d with
        sparMap := d.sparMap.map (fun x => if x = u then k else x)
        ops := d.ops.map (fun o => if mine o then
          { o with st := .queued, phys := k.val, status := 0, row := vReissue o } else o) }
    | none =>
      let d := d.fail 7 first.pc 3 first.code first.unit 4
      s.setDie cd ((d.ops.filter mine).foldl (fun e o => { e.finish o 4 with slotQ := tabDel e.slotQ o.id }) d)

def execSeqRemapSparge (cd : Cd) (u : Fin 12) (s : State) : Out := .next (remapVec cd u s)

end Sys2Proof.Machine
end

