-- ==== Sys2Proof/Machine/Dependability.lean ====
section
/-! DEFINITION. The lost list, fencing of compute dies, clock loss, and the error log (R20, R21, R369, R370, R390,
R395–R400). -/

namespace Sys2Proof.Machine

/-! ### The lost list (R390) -/

def State.lostBase (s : State) : Nat := s.regPair 0x7030 % 2 ^ 48
def State.lostCount (s : State) : Nat := fld (s.reg 0x703C) 0 5

/-- The coordinates of the lost list. -/
def State.lostList (s : State) : List Nat := (List.range s.lostCount).map (fun i => fld (s.num (s.lostBase + 8 * i) 8) 0 20)

/-- The flag behind the list rises by 1. -/
def State.lostFlag (s : State) : State := (s.atomic ⟨0, s.lostBase + 128, 1, 0, 0, .nobody⟩).1

/-- Op add: the coordinate joins the list, every collective in progress is aborted, and the flag rises; a full list or a
coordinate already present changes nothing, and a full list sets lost_full. -/
def lostAdd (coord : Nat) (s : State) : State :=
  let c := coord % 2 ^ 20
  if s.ready = false then s
  else if 16 ≤ s.lostCount then s.orReg 0x704C 8
  else if s.lostList.contains c then s
  else (abortAll ((s.write (s.lostBase + 8 * s.lostCount) (natLE 8 c)).setReg 0x703C (s.lostCount + 1))).lostFlag

def execLostAdd (coord : Nat) (s : State) : Out := .next (lostAdd coord s)

/-- Op remove: the matching entry goes and the gap closes; the flag rises. -/
def lostRemove (coord : Nat) (s : State) : State :=
  let l := s.lostList
  let m := l.erase (coord % 2 ^ 20)
  if s.ready = false then s
  else if m = l then s.lostFlag
  else ((s.write s.lostBase (m.flatMap (natLE 8))).setReg 0x703C m.length).lostFlag

def execLostRemove (coord : Nat) (s : State) : Out := .next (lostRemove coord s)

/-- Op clear: the list is empty; the flag rises. -/
def execLostClear (s : State) : Out := .next (if s.ready then (s.setReg 0x703C 0).lostFlag else s)

/-! ### Fencing (R21, R395) -/

/-- A choice that the spec leaves undefined (log entry 1). -/
def State.freeChoice (s : State) : Bool × State := (Config.freeBool s.freeCtr, { s with freeCtr := s.freeCtr + 1 })

/-- Bytes that become undefined. -/
def State.freeRange (s : State) (a n : Nat) : State :=
  let x := s.freeBytes n
  x.2.write a x.1

/-- Lines of a row of a copy, each performed or not before the fence (R21); what the host returned is not known. -/
def State.maybeLines (s : State) (wins : List Nat) (src dst n : Nat) : Nat → State
  | 0 => s
  | f + 1 =>
    if n = 0 then s else
    let c := min n (64 - dst % 64)
    let x := s.freeChoice
    let y := x.2.freeBytes c
    let bs := (List.range c).map (fun i => if s.mapped (src + i) then s.byte (src + i) else y.1.getD i 0)
    let t := if x.1 then (y.2.putChunk wins dst bs (s.rangePoisoned src c)).1 else y.2
    t.maybeLines wins (src + c) (dst + c) (n - c) f

/-- A copy in flight leaves each line of the rows that it may move written or not (R21, R208). -/
def State.maybeCopy (s : State) (o : Op) : State :=
  let rows := (goodRows (fun r =>
    let st := s.rowStatusIn o.wins (rowAt (mSrc o) (mSs o.w) r) (mLen o.w)
    if st ≠ 0 then st else s.rowStatusIn o.wins (rowAt (mDst o) (mDs o.w) r) (mLen o.w)) (mRows o.w) 0).1
  (List.range rows).foldl (fun t r =>
    t.maybeLines o.wins (rowAt (mSrc o) (mSs o.w) r) (rowAt (mDst o) (mDs o.w) r) (mLen o.w) (mLen o.w / 64 + 2)) s

/-- The rows and columns of its tile that a Tun operation writes. -/
def tunRows (o : Op) : Nat × Nat := if o.code = 3 ∨ o.code = 4 then (0, 128) else (tRowBase o.w, tM o.w)
def tunCols (o : Op) : Nat × Nat := if o.code = 3 ∨ o.code = 4 then (0, 128) else passCols o.w

/-- The tile contents that a Tun operation touched are undefined, its row summaries among them (Table 3-9). -/
def State.maybeTile (s : State) (cd : Cd) (o : Op) : State :=
  let cs := tunCols o
  (List.range (tunRows o).2).foldl (fun t i =>
    let row := (tunRows o).1 + i
    let t := t.freeRange (tileAddr cd (tTile o.w) row cs.1) (16 * (cs.2 - cs.1))
    if (o.code = 1 ∨ o.code = 2) ∧ tFinal o.w then t.freeRange (rowSumAddr cd (tTile o.w) row) 32 else t) s

/-- The outputs that a vector instruction touched are undefined (Table 4-8); S64 blocks are counted in the wide form. -/
def State.maybeVec (s : State) (cd : Cd) (o : Op) : State :=
  let d := vStream o 3
  if d.kind = 0 then s
  else (List.range (vOutRows o)).foldl (fun t r =>
    t.freeRange (vOutAddr cd o r) (if d.kind = 1 then d.rowBytes true (vOutLen o) else 16 * vOutLen o)) s

/-- What an operation in flight has left behind when its die is fenced (R21): one that has begun has performed some of its
writes or none. -/
def State.maybeOp (cd : Cd) (s : State) (o : Op) : State :=
  if o.st = .queued ∧ o.row = 0 then s
  else if o.cls = 4 ∧ o.code = 0 ∧ o.st = .running then s.maybeCopy o
  else if o.cls = 2 ∧ o.code ≠ 0 then s.maybeTile cd o
  else if o.cls = 3 then s.maybeVec cd o
  else s

/-- An atomic at its home is performed or not: it stays in the home's queue or leaves it (R21). -/
def State.maybeAtomics (s : State) (cd : Nat) : List HomeReq → State × List HomeReq
  | [] => (s, [])
  | r :: t =>
    let mine := match r.origin with | .instr c _ => c == cd | .acq c _ => c == cd | _ => false
    let x := if mine then s.freeChoice else (true, s)
    let y := x.2.maybeAtomics cd t
    (y.1, if x.1 then r :: y.2 else y.2)

/-- A scalar store in flight is performed or not (R21). -/
def State.maybeStore (s : State) (cd : Cd) : State :=
  match (s.die cd).stall with
  | .access op rd a h =>
    if accessLoads op then s
    else
      let bs := (s.die cd).storeBytes op rd
      let x := s.freeChoice
      if x.1 && !s.accessFails a (accessWidth op) h then
        (if s.mapped a then x.2.write a bs else match h with | some b => x.2.emit (.hostWrite b bs) | none => x.2)
      else x.2
  | _ => s

/-- A helper descriptor that its helper has accepted: it runs on, and its counter update is discarded (R395). -/
def Op.accepted (o : Op) : Bool := o.cls == 6 && (o.st == .running || o.st == .ended)

/-- A compute die is fenced (R395): its sequencer stops, every operation in flight ends with status 6 (R21, R186), the
running start and the stops complete with status 6, DEP_STATUS, the log and an event report it. cause: 0 clock loss,
1 reset, 2 failure. -/
def State.fence (s : State) (cd : Cd) (cause : Nat) : State :=
  let d := s.die cd
  if d.mode = .fenced then s
  else
    let mine := d.ops.filter (fun o => !o.accepted)
    let s := (mine.foldl (State.maybeOp cd) s).maybeStore cd
    let h := s.maybeAtomics cd.val s.homeQ
    let s := { h.1 with homeQ := h.2, replies := h.1.replies.filter (fun r => r.1 != cd.val) }
    let s := (mine.foldl (fun t o => t.sbDrop (whoMove cd.val o.id)) s).sbDrop (whoAccess cd.val)
    let s := match d.startCmd with | some c => s.complete (1 + cd.val) c 6 3 0 | none => s
    let s := d.stopCmds.foldl (fun t c => t.complete (1 + cd.val) c 6 0 0) s
    let s := s.setDie cd (mine.foldl (fun e o => e.finish o 6) d).off
    let s := s.setHafDie cd.val { s.hafDie cd.val with state := 4 }
    let s := { s with haf := { s.haf with bundles := s.haf.bundles.filter (fun b => b.1 / 8192 != cd.val) } }
    ((s.depStatus (1 + 2 ^ (8 + cd.val))).log 12 0 cd.val 0xFF cause 0).event 0x0007 32 [(16, 1, cd.val), (17, 1, cause)]

/-- A link die is lost: its boundary is fenced, whose flits are discarded, and its port enters state 8 (Table 1-7, R474,
R475). -/
def State.fenceLink (s : State) (k cause : Nat) : State :=
  if (s.hafDie (80 + k)).state = 4 then s
  else
    let s := s.setHafDie (80 + k) { s.hafDie (80 + k) with state := 4 }
    let s := { s with haf := { s.haf with bundles := s.haf.bundles.filter (fun b => b.1 / 8192 != 80 + k) } }
    (s.portDown (portOf k) 2).event 0x0007 32 [(16, 1, 80 + k), (17, 1, cause)]

/-- The loss of a base die, a mesh boundary or a stack is the device's (Table 1-7). -/
def State.deviceLoss (s : State) (die cause : Nat) : State :=
  (s.event 0x0007 32 [(16, 1, die), (17, 1, cause)]).deviceFail

/-- A dual-clock queue reports clock loss of a die, by linear die number (R20, R22, Table 1-7): a compute die or a link die
is fenced; a base die or a stack is a device loss. -/
def clockLoss (die : Nat) (s : State) : State :=
  if s.ready = false ∨ s.boot.failed = true then s
  else if h : die < 12 then s.fence ⟨die, h⟩ 0
  else if die < 80 then s.deviceLoss die 0
  else if die < 88 then s.fenceLink (die - 80) 0
  else s

def execClockLoss (die : Nat) (s : State) : Out := .next (clockLoss die s)

/-- A compute die is reset while the others run (R21, R395). -/
def execComputeDieReset (cd : Cd) (s : State) : Out := .next (if s.ready then s.fence cd 1 else s)

/-! ### The error log (R369, R370) -/

/-- The 32 bytes of a record (Table 11-2). -/
def logBytes (n : Nat) (r : LogRec) : List Byte :=
  natLE 4 n ++ zeroB 4 ++ natLE 8 r.time ++ natLE 1 r.cls ++ natLE 1 r.dieCls ++ natLE 1 r.die ++ natLE 1 r.unit
    ++ natLE 4 r.detail ++ natLE 8 (r.addr % 2 ^ 48)

/-- DEP_STATUS.steward_failed (R400). -/
def State.stewardFailed (s : State) : Bool := bitAt (s.reg 0x7000) 3

/-- The maltster writes the oldest entry of the log queue as a record while logging is enabled; one at an unmapped address
is lost and counted (R369, R399, R400). -/
def logWrite (s : State) : State :=
  match s.logQ with
  | [] => s
  | r :: rest =>
    if bitAt (s.reg 0x7004) 17 = false ∨ s.dep.stewardDown = true ∨ s.stewardFailed = true then s
    else
      let n := s.reg 0x7050
      let a := s.regPair 0x7028 % 2 ^ 48 + 32 * (n % 4096)
      let s := { s with logQ := rest }
      if s.atomicHome a then (s.write a (logBytes n r)).countReg 0x7050 1
      else (s.countReg 0x7054 1).orReg 0x704C 4

def execLogWrite (s : State) : Out := .next (logWrite s)

/-! ### The steward (R398–R400) -/

/-- Ralsar restarts the watchdog (R398). -/
def watchdogRestart (s : State) : State :=
  if s.dep.stewardDown then s else s.updDep (fun d => { d with wdogAt := s.time })

def execWatchdogRestart (s : State) : Out := .next (watchdogRestart s)

/-- The watchdog's period has passed since its last restart. -/
def State.wdogDue (s : State) : Bool := decide (s.dep.wdogAt + fld (s.reg 0x7048) 0 16 * 1000000 ≤ s.time)

/-- Expiry of a ready device (R398, R400): the maltster is reset; a third within 10 s holds it, with steward_failed and
the event from the watchdog itself. -/
def State.wdogExpire (s : State) : State :=
  let recent := s.dep.expiries.filter (fun t => decide (s.time ≤ t + 10000000000))
  let s := s.updDep (fun d => { d with expiries := recent ++ [s.time], stewardDown := true, wdogAt := s.time })
  if 2 ≤ recent.length then (s.depStatus 8).event 0x000A 32 [(16, 4, s.reg 0x7058)] else s

end Sys2Proof.Machine
end

