-- ==== Sys2Proof/Machine/Energy.lean ====
section
/-! DEFINITION. The energy ledger: budgets, ticks and gyles, admission, throttles, pace, droop, ageing, brake, thermal caps
(chapter 12). Energies are in fJ, 10^9 fJ to the µJ. -/

namespace Sys2Proof.Machine

def State.updLed (s : State) (f : LedSt → LedSt) : State := { s with led := f s.led }

/-! ### Budgets (R406, R411, R412) -/

/-- The power stages of a quadrant that are in service. -/
def State.stagesOf (s : State) (k : Nat) : List Nat :=
  ([3 * k, 3 * k + 1, 3 * k + 2]).filter (fun j => bitAt (s.reg 0x8000) j)

/-- A quadrant's capacity in watts: 350 W for each stage, 250 W for one above its threshold (R403, R406, R434). -/
def State.capacity (s : State) (k : Nat) : Nat :=
  (s.stagesOf k).foldl (fun t j => t + (if s.led.limited.contains j then 250 else 350)) 0

/-- The effective budget in watts and the reason its binding term acts as; ties go to the earliest (R411, Table 12-4). -/
def State.budget (s : State) : Nat × Nat :=
  let caps := (List.range 4).foldl (fun t k => t + s.capacity k) 0
  ([(fld (s.reg 0x8008) 0 12, 2), (3600, 1), (caps, 3)]).foldl (fun b x => if x.1 < b.1 then x else b)
    (fld (s.reg 0x8004) 0 12, 1)

/-- ENG_SHARE's weight of a quadrant. -/
def State.weight (s : State) (k : Nat) : Nat := fld (s.reg 0x8014) (8 * k) 8

/-- The quadrants whose share would exceed their capacity, found round by round (R412). -/
def State.cappedQuads (s : State) (p : Nat) (capped : List Nat) : Nat → List Nat
  | 0 => capped
  | f + 1 =>
    let open' := (List.range 4).filter (fun k => !capped.contains k)
    let left := p - capped.foldl (fun t k => t + s.capacity k) 0
    let w := open'.foldl (fun t k => t + s.weight k) 0
    let excess := open'.filter (fun k => decide (s.capacity k * w < left * s.weight k))
    if excess.isEmpty then capped else s.cappedQuads p (capped ++ excess) f

/-- P_k × 1 µs in fJ (R412). -/
def State.quadBudget (s : State) (k : Nat) : Nat :=
  let p := s.budget.1
  let capped := s.cappedQuads p [] 4
  if capped.contains k then s.capacity k * 10 ^ 9
  else
    let open' := (List.range 4).filter (fun k => !capped.contains k)
    let left := p - capped.foldl (fun t k => t + s.capacity k) 0
    left * 10 ^ 9 * s.weight k / max 1 (open'.foldl (fun t k => t + s.weight k) 0)

/-! ### Readings (R405, R408, R409, R418) -/

/-- Reading i of a stage's last frame. -/
def State.reading (s : State) (j i : Nat) : Nat := (s.led.frames[cdOf j]).getD i 0

/-- Energy of a quadrant's rails over a tick: mV × mA × 1 µs is 1 pJ. -/
def State.tickEnergy (s : State) (k : Nat) : Nat :=
  (s.stagesOf k).foldl (fun t j => t + (List.range 4).foldl (fun u r => u + s.reading j (2 + r) * s.reading j (6 + r) * 1000) 0) 0

/-- Average current of a rail over the tick, in mA. -/
def State.railAmps (s : State) (k r : Nat) : Nat := (s.stagesOf k).foldl (fun t j => t + s.reading j (6 + r)) 0

/-- Continuous limit of a rail in mA: VCORE, VBASE, VMEM, VLINK; two thirds with a stage lost (R408, Table 12-1). -/
def State.railLimit (s : State) (k r : Nat) : Nat :=
  let l := ([600, 240, 380, 60]).getD r 0 * 1000
  if (s.stagesOf k).length < 3 then l * 2 / 3 else l

/-- Whether admitted work of a quadrant runs: tile, vector, movement and helper instructions of its dies, host DMA of its
movers (R416, R418). -/
def State.quadBusy (s : State) (k : Nat) : Bool :=
  (List.range 3).any (fun i => (s.die (cdOf (3 * k + i))).ops.any (fun o => o.cls == 2 || o.cls == 3 || o.cls == 4 || o.cls == 6))
    || (List.range 4).any (fun j => (s.host.movers[(4 * k + j) % 16]'(Nat.mod_lt _ (by decide))).any (fun m => m.cmd.isSome))

/-- The tick's measurement of a quadrant (R418). -/
def State.measureQuad (s : State) (k : Fin 4) : State :=
  let e := s.tickEnergy k.val
  let idle := !s.quadBusy k.val
  s.updLed (fun l => { l with
    measured := vecAdd l.measured k e
    idleTicks := vecAdd l.idleTicks k (if idle then 1 else 0)
    idleEnergy := vecAdd l.idleEnergy k (if idle then e else 0)
    energy := l.energy + e })

/-- A rail's average against its limits: over the limit holds the quadrant for the next tick, five ticks in a row halve its
clocks until an average falls below 90 % (R409). -/
def State.railTick (s : State) (k : Fin 4) (r : Nat) : State :=
  let i : Fin 16 := ⟨(4 * k.val + r) % 16, Nat.mod_lt _ (by decide)⟩
  let a := s.railAmps k.val r
  let lim := s.railLimit k.val r
  let n := if lim < a then s.led.above[i] + 1 else 0
  s.updLed (fun l => { l with
    above := l.above.set i n
    held := if lim < a then l.held.set k true else l.held
    halved := if 5 ≤ n then l.halved.set i true else if a * 10 < lim * 9 then l.halved.set i false else l.halved })

/-- Throttle threshold of a die class in °C; none for link dies (Table 12-6). -/
def State.threshold (s : State) (cls : Nat) : Option Nat :=
  if cls = 0 ∨ cls = 1 then some (fld (s.reg 0x8024) 0 8) else if cls = 2 ∨ cls = 3 then some 95
  else if cls = 5 then some 115 else none

/-- The quadrant of a die (R11). -/
def quadOfDie (cls i : Nat) : Nat :=
  if cls = 0 then i / 3 else if cls = 1 then i else if cls = 2 then i / 12 else if cls = 3 then i / 4 else if cls = 4 then i / 2 else i / 3

/-- The tick's temperatures: the hottest reading, and each quadrant against its thresholds (R434, ENG_TEMP_MAX). -/
def State.readTemps (s : State) (temps : Readings) : State :=
  let of (k : Nat) : List (Nat × Nat) := temps.filterMap (fun t =>
    if quadOfDie t.1 t.2.1 = k then (s.threshold t.1).map (fun h => (t.2.2, h)) else none)
  let top := temps.foldl (fun (b : Nat × Nat × Nat) t => if b.2.2 < t.2.2 then t else b) (temps.headD (0, 0, 0))
  (s.updLed (fun l => { l with
    hot := Vector.ofFn (fun k : Fin 4 => (of k.val).any (fun x => decide (x.2 < x.1)))
    cool := Vector.ofFn (fun k : Fin 4 => (of k.val).all (fun x => decide (x.1 + 3 ≤ x.2))) })).setReg 0x8028
    (min 255 top.2.2 + top.1 % 256 * 2 ^ 8 + top.2.1 % 256 * 2 ^ 16)

/-! ### Credit (R415) -/

/-- A compute die's part of a quadrant's credit: 30 %, and the fenced dies' parts split among the others. -/
def dieShare (c : Int) (alive : Nat) : Int := if alive = 0 then 0 else c * 9 / (10 * (alive : Int))

/-- A quadrant's counters credited and held to their bound. -/
def State.creditQuad (s : State) (k : Fin 4) : State :=
  let c : Int := (s.quadBudget k.val : Int) - (s.led.base[k] : Int)
  let burst : Int := (fld (s.reg 0x800C) 0 8 : Nat)
  let dies := (List.range 3).map (fun i => cdOf (3 * k.val + i))
  let live := dies.filter (fun i => !s.fenced i.val)
  let share := dieShare c live.length
  let s := live.foldl (fun t i => t.updLed (fun l => { l with credit := l.credit.set i (min (l.credit[i] + share) (burst * share)) })) s
  s.updLed (fun l => { l with
    bdCredit := l.bdCredit.set k (min (l.bdCredit[k] + c / 10) (burst * (c / 10)))
    credited := l.credited.set k (l.credited[k] + c) })

/-! ### Throttles (R420, R421) -/

/-- A die's sequencer holds an instruction for credit (R416). -/
def State.creditWait (s : State) (i : Fin 12) : Bool := (s.die i).stall == .admission && decide (s.led.credit[i] < 0)

/-- Whether a reason acts in the tick (R420, Table 12-4). -/
def State.acts (s : State) (r : Nat) : Bool :=
  let by' := (List.finRange 12).any (fun i => decide (s.setpoint i < 64) && !s.fenced i.val
    && (s.caps i).any (fun c => c.1 == r && decide (max 16 c.2 = s.setpoint i)))
  by' || (if r ≤ 3 then (s.led.waited || (List.finRange 12).any s.creditWait) && s.budget.2 == r
    else if r = 4 then s.led.held.toList.any id else if r = 5 then s.led.halved.toList.any id
    else if r = 6 then s.led.stretched.toList.any id else r == 8 && s.led.brake)

/-- Event 0x0008 with the device's pace. -/
def State.throttleEvent (s : State) (r dur : Nat) : State := s.event 0x0008 31 [(16, 1, r), (20, 4, dur), (24, 2, s.led.own)]

/-- An episode ends with its event and duration (R421). -/
def State.endEpisode (s : State) (e : Episode) : State :=
  (s.updLed (fun l => { l with episodes := l.episodes.filter (fun x => x.reason != e.reason) })).throttleEvent e.reason (e.last - e.first + 1)

/-- The tick of an acting reason: its time, and its episode begun or carried on (R421). -/
def State.actTick (s : State) (r : Nat) : State :=
  let s := (s.countReg (0x8080 + 4 * r) 1).updLed (fun l => { l with acted := vecAdd l.acted ⟨r % 11, Nat.mod_lt _ (by decide)⟩ 1 })
  let now := s.led.now
  let s := match s.led.episodes.find? (fun e => e.reason == r && decide (e.last + 16 < now)) with
    | some e => s.endEpisode e
    | none => s
  match s.led.episodes.find? (fun e => e.reason == r) with
  | some e => s.updLed (fun l => { l with episodes := l.episodes.map (fun x => if x.reason == r then { e with last := now } else x) })
  | none =>
    let s := (s.updLed (fun l => { l with episodes := l.episodes ++ [⟨r, now, now⟩] })).throttleEvent r 0
    if r = 7 then s.orReg 0x30 4 else if r = 8 then s.orReg 0x30 8 else s

/-- 16 consecutive ticks have passed without the reason acting (R421). -/
def throttleEpisodeEnd (r : Nat) (s : State) : State :=
  match s.led.episodes.find? (fun e => e.reason == r && decide (e.last + 16 < s.led.now)) with
  | some e => s.endEpisode e
  | none => s

def execThrottleEpisodeEnd (r : Nat) (s : State) : Out := .next (throttleEpisodeEnd r s)

/-! ### The tick (R415) -/

/-- What the ended tick showed: measurement and throttles; then temperatures, rails and credit for the next. Before ready,
only the sensors are read (ENG_TEMP_MAX, R496). -/
def ledgerTick (temps : Readings) (s : State) : State :=
  if s.ready = false then (if s.boot.powered then s.readTemps temps else s)
  else
    let acts := ([1, 2, 3, 4, 5, 6, 7, 8, 9, 10]).filter s.acts
    let s := (List.finRange 4).foldl State.measureQuad s
    let s := (s.setReg 0x80B0 (s.led.energy / 10 ^ 9)).setReg 0x80B4 (s.led.energy / 10 ^ 9 / 2 ^ 32)
    let s := acts.foldl State.actTick s
    let s := (s.updLed (fun l => { l with
      tick := l.tick + 1
      now := l.now + 1
      waited := false
      held := Vector.replicate 4 false })).readTemps temps
    let s := (List.finRange 4).foldl (fun t k => (List.range 4).foldl (fun t r => t.railTick k r) t) s
    (List.finRange 4).foldl State.creditQuad s

def execLedgerTick (temps : Readings) (s : State) : Out := .next (ledgerTick temps s)

/-! ### The gyle (R418, R419, R422, R424) -/

/-- 200 µJ, the baseline per tick without history (R419). -/
def baseFloor : Nat := 200 * 10 ^ 9

/-- A quadrant's baseline, correction and history at the end of a gyle (R418, R419). -/
def State.gyleQuad (s : State) (k : Fin 4) : State :=
  let l := s.led
  let e := l.admitted[k]
  let replace := decide (s.quadBudget k.val * 100 ≤ e) && e != 0
  let hist := l.history[k] + (if replace then 1 else 0)
  let fix (v lo : Nat) : Nat := if hist < 16 then max v lo else v
  let b := fix (if 16 ≤ l.idleTicks[k] then l.idleEnergy[k] / l.idleTicks[k] else l.base[k]) baseFloor
  let q : Int := 1024 * ((l.measured[k] : Int) - 1000 * (b : Int)) / (e : Int)
  let c := fix (if replace then (max 512 (min 4095 q)).toNat else l.corr[k]) 1280
  (s.updLed (fun l => { l with
    base := l.base.set k b
    corr := l.corr.set k c
    history := l.history.set k hist })).setReg (0x8030 + 4 * k.val) (min 4095 (l.measured[k] / 10 ^ 12) + c * 2 ^ 12)

/-- The own pace at the end of a gyle (R422). -/
def LedSt.nextPace (l : LedSt) : Nat :=
  if l.waits.toList.all (· == 0) && (List.finRange 4).all (fun k => decide (l.credited[k] ≤ 16 * (l.credited[k] - (l.spent[k] : Int)))) then
    min 1024 (l.own + 16)
  else (l.waits.toList.map (fun w => max 256 (l.own * (l.span - w) / max 1 l.span))).foldl min 1024

/-- Whether one of the reasons that a pace is attributed to acted in the gyle (R422). -/
def LedSt.paced (l : LedSt) : Bool := ([1, 2, 3, 7, 8]).any (fun r => l.acted[r % 11]'(Nat.mod_lt _ (by decide)) != 0)

/-- The reason that acted longest in the gyle, of 1 to 3, 7 and 8; the present one where none did (R422). -/
def LedSt.longest (l : LedSt) : Nat :=
  let best := ([1, 2, 3, 7, 8]).foldl (fun (b : Nat × Nat) r =>
    let n := l.acted[r % 11]'(Nat.mod_lt _ (by decide))
    if b.2 < n then (r, n) else b) (l.ownReason, 0)
  best.1

/-- The end of a gyle of 1,000 ticks (R418, R419, R422–R424). -/
def gyleEnd (s : State) : State :=
  if s.led.tick < 1000 ∨ s.ready = false then s
  else
    let s := (List.finRange 4).foldl State.gyleQuad s
    let s := if s.led.history.toList.all (fun h => decide (16 ≤ h)) then s.orReg 0x8000 0x8000 else s
    let old := s.led.own
    let own := if s.led.span = 0 ∨ (old = 1024 ∧ s.led.paced = false) then old else s.led.nextPace
    let reason := if own = 1024 then 0 else s.led.longest
    let s := ((s.updLed (fun l => { l with
      own := own
      ownReason := reason
      tick := 0
      waits := Vector.replicate 12 0
      span := 0
      admitted := Vector.replicate 4 0
      spent := Vector.replicate 4 0
      credited := Vector.replicate 4 0
      measured := Vector.replicate 4 0
      idleTicks := Vector.replicate 4 0
      idleEnergy := Vector.replicate 4 0
      acted := Vector.replicate 11 0 })).fieldReg 0x8000 16 11 own).setpoints
    if own < old ∧ own < s.led.group ∧ ([1, 2, 3, 7, 8]).contains reason = true ∧ bitAt (s.reg 0x5000) 16 = true then
      s.sendPace own reason 0xFFFFFFFF
    else s

def execGyleEnd (s : State) : Out := .next (gyleEnd s)

/-! ### Admission, rails, droop, spread (R409, R416, R426, R428) -/

/-- A held instruction is admitted and its estimate debited (R416). -/
def admissionGrant (cd : Cd) (s : State) : State :=
  let d := s.die cd
  match d.instrAt with
  | some w =>
    let est := s.estOf cd w
    if d.stall = .admission ∧ s.admits cd (iCls w) est = true then
      (s.debit cd est).updDie cd (fun d => { d with stall := .none, admitted := true })
    else s
  | none => s

def execAdmissionGrant (cd : Cd) (s : State) : Out := .next (admissionGrant cd s)

/-- A rail passes its hard limit: the quadrant's core clocks are halved (R409). -/
def execRailHardLimit (k : Bd) (rail : Fin 4) (s : State) : Out :=
  .next (if s.ready then s.updLed (fun l => { l with
    halved := l.halved.set ((4 * k.val + rail.val) % 16) true (Nat.mod_lt _ (by decide)) }) else s)

/-- A supply droop stretches the die's core clock and is counted (R426). -/
def droopDetect (cd : Cd) (s : State) : State :=
  if s.ready = false ∨ s.fenced cd.val = true ∨ s.led.stretched[cd] = true then s
  else
    let r := 0x8040 + 4 * cd.val
    (s.updLed (fun l => { l with stretched := l.stretched.set cd true })).fieldReg r 12 20 (min (fld (s.reg r) 12 20 + 1) (2 ^ 20 - 1))

def execDroopDetect (cd : Cd) (s : State) : Out := .next (droopDetect cd s)
def execDroopRecover (cd : Cd) (s : State) : Out := .next (s.updLed (fun l => { l with stretched := l.stretched.set cd false }))

/-- delay_i of a die (R428). -/
def State.spreadDelay (s : State) (cd : Cd) : Nat :=
  (s.selfCoord * 40503 + cd.val * 5461) % 65536 * fld (s.reg 0x8010) 0 16 / 65536

/-- A die's spread delay after the pitch release ends (R428). -/
def spreadHoldExpire (cd : Cd) (s : State) : State :=
  if s.led.releasedAt + s.spreadDelay cd ≤ s.time then s.updDie cd (fun d => { d with spreadHold := false }) else s

def execSpreadHoldExpire (cd : Cd) (s : State) : Out := .next (spreadHoldExpire cd s)

/-! ### Ageing, brake, heat, reference clocks (R429–R434) -/

/-- The maltster reads a die's smallest slack in ps: below 30 ps the trim rises, or past 20 steps the ageing cap falls
(R429–R431). -/
def ageingCheck (cd : Cd) (slack : Nat) (s : State) : State :=
  let r := 0x8040 + 4 * cd.val
  let trim := fld (s.reg r) 7 5
  if s.ready = false ∨ s.dep.stewardDown = true ∨ s.stewardFailed = true ∨ s.fenced cd.val = true ∨ 30 ≤ slack then s
  else if trim < 20 then
    let s := s.fieldReg r 7 5 (trim + 1)
    { s with boot := { s.boot with dueTrims := setIns s.boot.dueTrims cd.val } }
  else ((s.updLed (fun l => { l with ageing := l.ageing.set cd (max 16 (l.ageing[cd] - 1)) })).orReg 0x8000 0x2000).setpoints

def execAgeingCheck (cd : Cd) (slack : Nat) (s : State) : Out := .next (ageingCheck cd slack s)

/-- The brake: the input below 42 V, or the land (land = true) asserted (R432). -/
def brakeAssert (land : Bool) (s : State) : State :=
  if s.boot.powered = false then s
  else
    ((s.updLed (fun l => { l with
      brake := true
      brakeIn := l.brakeIn || !land
      brakePin := l.brakePin || land })).orReg 0x8000 0x4000).setpoints

def execBrakeAssert (land : Bool) (s : State) : Out := .next (brakeAssert land s)

/-- A cause of the brake ends; the count of 100 µs begins when neither is left (R432). -/
def brakeCauseEnd (land : Bool) (s : State) : State :=
  s.updLed (fun l => { l with
    brakeIn := l.brakeIn && land
    brakePin := l.brakePin && !land
    brakeAt := s.time })

def execPwrBrakeNRelease (land : Bool) (s : State) : Out := .next (brakeCauseEnd land s)

/-- 100 µs with the input above 42 V and the land released end the cap (R432). -/
def brakeRelease (s : State) : State :=
  if s.led.brakeIn = false ∧ s.led.brakePin = false ∧ s.led.brakeAt + 100000 ≤ s.time then
    ((s.updLed (fun l => { l with brake := false })).andNotReg 0x8000 0x4000).setpoints
  else s

def execBrakeRelease (s : State) : Out := .next (brakeRelease s)

/-- The thermal cap of a quadrant falls by one code while a sensor is above its threshold, and rises once every one is at
least 3 °C below (R434). -/
def thermalCapStep (k : Bd) (s : State) : State :=
  let t := s.led.thermal[k]
  let t' := if s.led.hot[k] then max 16 (t - 1) else if s.led.cool[k] then min 64 (t + 1) else t
  (s.updLed (fun l => { l with thermal := l.thermal.set k t' })).setpoints

def execThermalCapStep (k : Bd) (s : State) : Out := .next (if s.ready then thermalCapStep k s else s)

/-- A reference clock stops: 0 MAIN, 1 CXL, 2 LINK; its PLLs hold their frequency (R433). -/
def refclkLoss (clk : Fin 3) (s : State) : State :=
  if s.boot.refs[clk] then
    ({ s with boot := { s.boot with refs := s.boot.refs.set clk false } }).orReg 0x8000 0x1000
  else s

def execRefclkLoss (clk : Fin 3) (s : State) : Out := .next (refclkLoss clk s)

/-! ### Estimates (R413) -/

/-- ENG_CMD.load_est: the table of 128 bytes is copied; a non-zero reserved entry, or a table that cannot be read, makes the
load fail (log entry 32). -/
def loadEst (s : State) : State :=
  let a := s.regPair 0x8018 % 2 ^ 48
  let t := (List.range 32).map (fun i => s.num (a + 4 * i) 4)
  if s.ready = false then s
  else if s.rangeMapped a 128 && !s.rangePoisoned a 128 && !((winDie a).any s.fenced) && (t.drop 18).all (· == 0) then
    (s.updLed (fun l => { l with est := t })).andNotReg 0x8000 (2 ^ 27)
  else s.orReg 0x8000 (2 ^ 27)

def execLoadEst (s : State) : Out := .next (loadEst s)

end Sys2Proof.Machine
end

