-- ==== Sys2Proof/Machine/Hafel.lean ====
section
/-! DEFINITION. Hafel boundaries in service: flits checked and delivered, acknowledgements, replay, retirement of bundles
(R466–R475). A direction is 0 from the die, 1 to it. -/

namespace Sys2Proof.Machine

/-! ### Retirement (R474, R475) -/

/-- The part of a pair that a direction names. -/
def sideOf (x : Nat × Nat) (dir : Nat) : Nat := if dir = 0 then x.1 else x.2
def addSide (x : Nat × Nat) (dir : Nat) : Nat × Nat := if dir = 0 then (x.1 + 1, x.2) else (x.1, x.2 + 1)

/-- Spare bundles of a direction that are free. -/
def State.freeSpares (s : State) (die dir : Nat) : Nat :=
  let d := s.hafDie die
  min (spareBundles die dir) d.sel.2.2.1 - sideOf d.used dir - sideOf d.bad dir

/-- A boundary with no spare left fails: a compute die is fenced, a link die is fenced and its port enters state 8, a mesh
link is the loss of a base die. -/
def State.boundaryFail (s : State) (die : Nat) : State :=
  if h : die < 12 then s.fence ⟨die, h⟩ 2
  else if 80 ≤ die ∧ die < 88 then s.fenceLink (die - 80) 2
  else s.deviceLoss die 2

/-- A bundle is retired: counted, and a free spare is tested, or the boundary fails. -/
def State.retire (s : State) (die dir bundle : Nat) : State :=
  let d := s.hafDie die
  let s := s.setHafDie die { d with retired := min (d.retired + 1) 0xFFFF }
  if s.freeSpares die dir = 0 then s.boundaryFail die
  else
    let key := bundleKey die dir bundle
    s.setBundle key { s.bundle key with testing := true }

/-- Unacknowledged flits sent again, oldest first. -/
def State.resend (s : State) (key : Nat) : State :=
  (s.bundle key).replay.foldl (fun t f => t.emit (.flit key f)) s

/-- The test of a spare bundle ends: it takes the stream, or the next spare is tested. -/
def spareTestEnd (die dir bundle : Nat) (ok : Bool) (s : State) : State :=
  let key := bundleKey die dir bundle
  let b := s.bundle key
  let d := s.hafDie die
  if b.testing = false ∨ d.state ≠ 3 then s
  else if ok then
    ((s.setHafDie die { d with used := addSide d.used dir }).setBundle key { b with testing := false, naks := 0, fails := [] }).resend key
      |>.pump key (b.outQ.length)
  else
    let s := s.setHafDie die { d with bad := addSide d.bad dir }
    if s.freeSpares die dir = 0 then s.boundaryFail die else s

def execSpareBundleTestEnd (die dir bundle : Nat) (ok : Bool) (s : State) : Out := .next (spareTestEnd die (dir % 2) bundle ok s)

/-! ### Receiving (R470, R473) -/

/-- A bundle whose flits are received: its boundary in service, the bundle not waiting for a spare. -/
def State.takesFlits (s : State) (die dir bundle : Nat) : Bool :=
  (s.hafDie die).state == 3 && decide (bundle < dataBundles die dir) && !(s.bundle (bundleKey die dir bundle)).testing

/-- An ack record for a bundle on the reverse direction (R473). -/
def State.sendRecord (s : State) (key : Nat) (nak : Bool) (credits : Nat) : State :=
  s.sendFlit (reverseKey key) (flitBody 7 3 false
    (natLE 4 (key % 4096 + (s.bundle key).expect * 2 ^ 16 + (if nak then 2 ^ 24 else 0) + credits * 2 ^ 25)))

/-- A flit that fails its CRC or is out of sequence: counted, nak'd, later flits discarded until the expected one; the bundle
is retired at 8 naks in a row of one flit or 1,024 CRC failures within 1 ms (R473, R474). -/
def State.flitFail (s : State) (die dir bundle : Nat) (crcBad : Bool) : State :=
  let key := bundleKey die dir bundle
  let b := s.bundle key
  let d := s.hafDie die
  let s := s.setHafDie die { d with crc := satAdd32 d.crc 1 }
  if b.discard && !crcBad then s
  else
    let fails := if crcBad then (b.fails.filter (fun t => decide (s.time < t + 1000000))) ++ [s.time] else b.fails
    let s := (s.setBundle key { b with discard := true, naks := b.naks + 1, fails := fails }).sendRecord key true 0
    if 8 ≤ b.naks + 1 ∨ 1024 ≤ fails.length then s.retire die dir bundle else s

/-- A flit accepted: the next seq is expected, and its credit goes back. -/
def State.flitOk (s : State) (key : Nat) : State :=
  let b := s.bundle key
  (s.setBundle key { b with expect := (b.expect + 1) % 256, discard := false, naks := 0 }).sendRecord key false 1

/-- A flit of a kind arrives on a bundle: checked, then f with its key. A flit of another kind is another command's. -/
def State.takeFlit (s : State) (die dir bundle : Nat) (flit : List Byte) (kind : Nat) (f : Nat → List Byte → State → State) : State :=
  let key := bundleKey die dir bundle
  if s.takesFlits die dir bundle = false then s
  else if flitGood flit = false then s.flitFail die dir bundle true
  else if flitSeq flit ≠ (s.bundle key).expect then s.flitFail die dir bundle false
  else if flitKind flit ≠ kind then s
  else f key flit (s.flitOk key)

/-- A flit that fails: one that is good, in sequence and not reserved is another command's. -/
def flitCrcFailure (die dir bundle : Nat) (flit : List Byte) (s : State) : State :=
  if s.takesFlits die dir bundle = false then s
  else if flitGood flit = false then s.flitFail die dir bundle true
  else if flitKind flit ≠ 0 ∧ flitSeq flit ≠ (s.bundle (bundleKey die dir bundle)).expect then s.flitFail die dir bundle false
  else s

def execFlitCrcFailure (die dir bundle : Nat) (flit : List Byte) (s : State) : Out :=
  .next (flitCrcFailure die (dir % 2) bundle flit s)

/-! ### Requests at a home (R210, R216, R470) -/

/-- A read request arrives at its home. -/
def takeFlitRead (key : Nat) (flit : List Byte) (s : State) : State := s.homeArrive (reqAddr flit) (.hafel key flit none)

def execFlitReadRequest (die dir bundle : Nat) (flit : List Byte) (s : State) : Out :=
  .next (s.takeFlit die (dir % 2) bundle flit 1 takeFlitRead)

/-- The accepted flit whose line follows. -/
def keepWant (key : Nat) (flit : List Byte) (s : State) : State := s.setBundle key { s.bundle key with want := some (sliceB flit 0 72) }

/-- A line flit: the data of the write request or completion before it; more than two wrong symbols make it poisoned
(R193, R194). -/
def flitLine (key : Nat) (flit : List Byte) (s : State) : State :=
  let b := s.bundle key
  let data := rsDecode (flitPayload flit)
  let poison := flitPoison flit || data.isNone
  let line := data.getD (sliceB flit 4 64)
  let s := s.setBundle key { b with want := none }
  match b.want with
  | none => s
  | some w =>
    if flitKind w = 2 then s.homeArrive (reqAddr w) (.hafel key w (some (line, poison)))
    else
      let p := flitPayload w
      (s.emit (.done (fieldB p 0 4) (fieldB p 4 1) (fieldB p 8 8))).emit (.line line poison)

def execFlitWriteRequest (die dir bundle : Nat) (flit line : List Byte) (s : State) : Out :=
  .next ((s.takeFlit die (dir % 2) bundle flit 2 keepWant).takeFlit die (dir % 2) bundle line 4 flitLine)

def execFlitLine (die dir bundle : Nat) (flit : List Byte) (s : State) : Out :=
  .next (s.takeFlit die (dir % 2) bundle flit 4 flitLine)

/-- An atomic request waits at its home; a reserved code is not performed, with status 2 (Table 6-5). -/
def flitAtomic (die key : Nat) (flit : List Byte) (s : State) : State :=
  let p := flitPayload flit
  let code := fieldB p 6 1
  if 6 < code then s.sendCompletion key (reqTag flit) 2 0 none
  else { s with homeQ := s.homeQ ++ [⟨code, reqAddr flit, fieldB p 24 8, fieldB p 32 8,
    s.selfCoord + die % 12 * 2 ^ 20, .flit key (reqTag flit)⟩] }

def execFlitAtomicRequest (die dir bundle : Nat) (flit : List Byte) (s : State) : Out :=
  .next (s.takeFlit die (dir % 2) bundle flit 3 (flitAtomic die))

/-- A completion tells its requester the status and a prior word; with data-follows set it waits for the line. -/
def flitCompletion (key : Nat) (flit : List Byte) (s : State) : State :=
  let p := flitPayload flit
  if bitAt (fieldB p 5 1) 0 then keepWant key flit s
  else s.emit (.done (fieldB p 0 4) (fieldB p 4 1) (fieldB p 8 8))

def execFlitCompletion (die dir bundle : Nat) (flit : List Byte) (s : State) : Out :=
  .next (s.takeFlit die (dir % 2) bundle flit 5 flitCompletion)

/-! ### Slot parts (R472) -/

/-- A slot part joins its group; four parts make a slot, which goes to the elastic store of an up port, where it is not
link-local, or leaves an up port (R279, R304). -/
def flitSlotPart (die dir bundle : Nat) (_key : Nat) (flit : List Byte) (s : State) : State :=
  let k := (die * 2 + dir) * 6 + bundle / 4
  let parts := tabGet [] s.haf.parts k ++ [(bundle % 4, flitPayload flit)]
  let part (i : Nat) : Option (Nat × List Byte) := parts.find? (fun x => x.1 == i)
  match part 0, part 1, part 2, part 3 with
  | some a, some b, some c, some d =>
    let rest := (((parts.erase a).erase b).erase c).erase d
    let s := { s with haf := { s.haf with parts := tabSet s.haf.parts k rest } }
    let slot := a.2 ++ b.2 ++ c.2 ++ d.2
    let k := packetOf slot
    if (s.port (portOf (die - 80))).up = false then s
    else if dir = 0 then (if k.type < 2 then s else s.elasticIn (portOf (die - 80)) k) else s.sendSlot (die - 80) slot
  | _, _, _, _ => { s with haf := { s.haf with parts := tabSet s.haf.parts k parts } }

def execFlitSlotPart (die dir bundle : Nat) (flit : List Byte) (s : State) : Out :=
  .next (if 80 ≤ die ∧ die < 88 then s.takeFlit die (dir % 2) bundle flit 6 (flitSlotPart die (dir % 2) bundle) else s)

/-! ### Acks (R469, R473) -/

/-- An ack record: flits before the named seq are released, credits come back, a nak resends the rest. -/
def State.ackRecord (s : State) (die dir r : Nat) : State :=
  let bundle := fld r 0 16
  let key := bundleKey die (1 - dir) bundle
  let b := s.bundle key
  let next := fld r 16 8
  if dataBundles die (1 - dir) ≤ bundle then s
  else
    let keep := if next = b.next ∨ b.replay.any (fun f => flitSeq f == next) = true then
        b.replay.dropWhile (fun f => flitSeq f != next) else b.replay
    let s := s.setBundle key { b with replay := keep, credits := min 16 (b.credits + fld r 25 7) }
    let s := if bitAt r 24 then s.resend key else s
    s.pump key b.outQ.length

/-- An ack flit of n records, at most 16 (log entry 31). -/
def flitAck (die dir n : Nat) (_key : Nat) (flit : List Byte) (s : State) : State :=
  (List.range n).foldl (fun t i => t.ackRecord die dir (fieldB (flitPayload flit) (4 * i) 4)) s

def execFlitAck (die dir bundle : Nat) (n : Fin 17) (flit : List Byte) (s : State) : Out :=
  .next (s.takeFlit die (dir % 2) bundle flit 7 (flitAck die (dir % 2) n.val))

end Sys2Proof.Machine
end

