-- ==== Sys2Proof/Machine/Boot.lean ====
section
/-! DEFINITION. Resets, power stages and start-up from 48 V to ready: part record, identity, wear record, supplements, Hafel
negotiation, memory initialisation (R404–R406, R435, R438–R456, R476–R481). Steps that only take time end at once (log
entry 33). -/

namespace Sys2Proof.Machine

def State.updBoot (s : State) (f : BootSt → BootSt) : State := { s with boot := f s.boot }

/-- A digest of 64 bytes (R447). -/
def sha3 (bs : List Byte) : List Byte := sliceB (Config.sha3_512 bs) 0 64

/-! ### The board flash (R444) -/

/-- A byte of the board flash; an erased one is 0xFF. -/
def flashByte : List (Nat × List Byte) → Nat → Byte
  | [], _ => 0xFF
  | (b, c) :: t, a => if b ≤ a ∧ a < b + c.length then c.getD (a - b) 0xFF else flashByte t a

def State.flash (s : State) (a n : Nat) : List Byte := (List.range n).map (fun i => flashByte s.boot.flash (a + i))
def State.flashNum (s : State) (a n : Nat) : Nat := leNat (s.flash a n)

/-- What the board has written while the device leaves the flash to it, outside the wear record (R444, R491). -/
def State.boardFlash (s : State) (board : HostData) : State :=
  s.updBoot (fun b => { b with flash := board.filter (fun c => decide (c.1 < 0x100000) || decide (0x200000 ≤ c.1)) ++ b.flash })

/-! ### Halts and resets (R438, R442, R443) -/

/-- BOOT_STATUS.phase (Table 13-2). -/
def State.phase (s : State) (n : Nat) : State := s.fieldReg 0x1000 0 4 n

/-- Start-up cannot continue: phase 8 with its code (R442, Table 13-4). -/
def State.halt (s : State) (code : Nat) : State :=
  (((s.phase 8).fieldReg 0x1000 16 8 code).orReg 0x30 2).updBoot (fun b => { b with step := 22 })

/-- Nothing in the package stays powered; the flash, the board's lands and the THERMTRIP_N latch remain (R404, R435, R438). -/
def State.powerOff (s : State) : State :=
  { State.reset with
    pending := s.pending
    out := s.out
    freeCtr := s.freeCtr
    boot := { BootSt.reset with
      sysReset := s.boot.sysReset, refs := s.boot.refs, flash := s.boot.flash, boots := s.boot.boots, trip := s.boot.trip }
    host := { HostSt.reset with perst := s.host.perst }
    led := { LedSt.reset with brakePin := s.led.brakePin } }

/-- A cold reset: everything but the power stages, and the start-up to come begins at step 7 (R438, R443). -/
def State.coldReset (s : State) (expiries : Nat) : State :=
  let stages := fld (s.reg 0x8000) 0 12
  let t : State := { State.reset with
    pending := s.pending
    out := s.out
    freeCtr := s.freeCtr
    boot := { BootSt.reset with
      powered := true, step := 6, sysReset := s.boot.sysReset, refs := s.boot.refs, reported := s.boot.reported
      expiries := expiries, boots := s.boot.boots, cold := true, flash := s.boot.flash, tap := s.boot.tap }
    host := { HostSt.reset with perst := s.host.perst }
    led := { LedSt.reset with brakeIn := s.led.brakeIn, brakePin := s.led.brakePin, frames := s.led.frames } }
  let t := t.fieldReg 0x8000 0 12 stages
  let t := if stages = 0xFFF then t else t.depStatus 1
  let t := if (List.range 4).any (fun k => decide ((t.stagesOf k).length < 2)) then t.updBoot (fun b => { b with failed := true }) else t
  if s.led.brakeIn then brakeAssert false t else if s.led.brakePin then brakeAssert true t else t

/-! ### Certificates and the part record (R445–R449) -/

def certKey (c : List Byte) : List Byte := sliceB c 64 2592

/-- A certificate's signature by its issuer over header and key (R446). -/
def certOk (issuer c : List Byte) : Bool := Config.verify issuer (sliceB c 2656 4627) (sha3 (c.take 2656))

/-- Field of a part record copy, as a number and as bytes. -/
def State.part (s : State) (copy off n : Nat) : Nat := s.flashNum (copy * 0x40000 + off) n
def State.partBytes (s : State) (copy off n : Nat) : List Byte := s.flash (copy * 0x40000 + off) n

def State.idCert (s : State) (copy : Nat) : List Byte := s.partBytes copy 0x56C0 7296
def State.signerCert (s : State) (copy : Nat) : List Byte := s.partBytes copy 0x7340 7296
def State.rootKey (s : State) (copy : Nat) : List Byte := s.partBytes copy 0x8FC0 2592

/-- No reserved value in a copy: reserved bytes zero, the defaults in range, every spare map byte a lane or 0xFF (R445, R446). -/
def State.partPlain (s : State) (copy : Nat) : Bool :=
  let zero (off n : Nat) : Bool := (s.partBytes copy off n).all (· == 0)
  zero 0x6 2 && zero 0x20 32 && zero 0x43 61 && zero 0x3680 64 && zero 0x7344 60 && zero 0x56C4 12 && zero 0x56E0 32
    && decide (400 ≤ s.part copy 0x40 2) && decide (s.part copy 0x40 2 ≤ 3600) && decide (s.part copy 0x42 1 ≤ 64)
    && (s.partBytes copy 0x1080 1536).all (fun b => decide (b.toNat ≤ 135) || b == 0xFF)

/-- A copy is valid (R447). -/
def State.partValid (s : State) (copy : Nat) : Bool :=
  s.part copy 0 4 == 0x52505654 && s.part copy 4 2 == 1
    && sha3 (s.rootKey copy) == sliceB Config.romRoot 0 64
    && fieldB (s.signerCert copy) 0 4 == 1 && certOk (s.rootKey copy) (s.signerCert copy)
    && Config.verify (certKey (s.signerCert copy)) (s.partBytes copy 0x99E0 4627) (sha3 (s.partBytes copy 0 0x99E0))
    && s.partPlain copy

/-- The valid copy with the larger sequence number; A where they are equal (R447). -/
def State.pickCopy (s : State) : Option Nat :=
  match s.partValid 0, s.partValid 1 with
  | true, true => some (if s.part 0 8 4 < s.part 1 8 4 then 1 else 0)
  | true, false => some 0
  | false, true => some 1
  | false, false => none

/-- The copy in use, BOOT_STATUS.copy. -/
def State.copyUsed (s : State) : Nat := fld (s.reg 0x1000) 6 1

/-- Stepping code of the silicon (Table 13-6). -/
def stepping : Nat := 0xB1

/-- The public key that the PUF gives (R449). -/
def State.identityKey (s : State) : List Byte := sliceB (Config.pufKey (s.partBytes s.copyUsed 0x36C0 8192)) 0 2592

/-- The identity is valid (R449). -/
def State.identityValid (s : State) : Bool :=
  let c := s.idCert s.copyUsed
  s.identityKey == certKey c && fieldB c 0 4 == 2 && sliceB c 16 16 == s.partBytes s.copyUsed 0x10 16
    && certOk (certKey (s.signerCert s.copyUsed)) c

/-- BOOT_STATUS.identity_ok -/
def State.identityOk (s : State) : Bool := bitAt (s.reg 0x1000) 5

/-- Step 10: the record's defaults (Table 13-6). -/
def State.loadPart (s : State) (copy : Nat) : State :=
  let s := ((s.orReg 0x1000 (copy * 64)).setReg 0x1004 (s.part copy 8 4)).setReg 0x8008 (s.part copy 0x40 2)
  let s := s.setReg 0x3050 (s.part copy 0x42 1)
  let s := (List.range 4).foldl (fun t i => t.setReg (0x10 + 4 * i) (t.part copy (0x10 + 4 * i) 4)) s
  s.updBoot (fun b => { b with loaded := true, slots := b.slots.set 1 (sha3 (s.partBytes copy 0 0x99E0)) })

/-! ### The wear record (R451–R453) -/

/-- Flash offset of a block of a half. -/
def wearAddr (half block : Nat) : Nat := 0x100000 + half * 0x80000 + block * 8192

/-- A valid block: magic, serial and signature (R451). -/
def State.wearValid (s : State) (a : Nat) : Bool :=
  s.flashNum a 4 == 0x52575654 && s.flash (a + 16) 16 == s.partBytes s.copyUsed 0x10 16
    && Config.verify s.identityKey (s.flash (a + 3136) 4627) (sha3 (s.flash a 3136))

/-- An entry applied: a lane substitution, a trim, the hours (R453, Table 13-7). -/
def State.wearEntry (s : State) (e : List Byte) : State :=
  match fieldB e 0 1 with
  | 1 => s.updBoot (fun b => { b with wear := b.wear ++ [(fieldB e 1 1 % 64, fieldB e 2 1, fieldB e 3 1, fieldB e 4 1)] })
  | 2 => if fieldB e 1 1 < 12 ∧ fieldB e 2 1 ≤ 20 then s.fieldReg (0x8040 + 4 * fieldB e 1 1) 7 5 (fieldB e 2 1) else s
  | 3 => s.updBoot (fun b => { b with hours := max b.hours (fieldB e 4 4) })
  | _ => s

/-- A block replayed, entry by entry. -/
def State.replayBlock (s : State) (a : Nat) : State :=
  (List.range (min 48 (s.flashNum (a + 8) 1))).foldl (fun t i => t.wearEntry (t.flash (a + 64 + 64 * i) 64)) s

/-- Step 12: every valid block in ascending sequence; blocks neither valid nor empty are counted; writing goes on after the
last block (R452, R453). -/
def State.replayWear (s : State) : State :=
  let all := (List.range 128).map (fun i => (i / 64, i % 64))
  let used := all.filter (fun x => (s.flash (wearAddr x.1 x.2) 8192).any (· != 0xFF))
  let good := used.filter (fun x => s.wearValid (wearAddr x.1 x.2))
  let seqOf (x : Nat × Nat) : Nat := s.flashNum (wearAddr x.1 x.2 + 4) 4
  let sorted := sortBy (fun x y => decide (seqOf x < seqOf y)) good
  let half := (sorted.getLast?.map Prod.fst).getD 0
  let next := (used.filter (fun x => x.1 == half)).foldl (fun n x => max n (x.2 + 1)) 0
  let s := sorted.foldl (fun t x => t.replayBlock (wearAddr x.1 x.2)) s
  (s.updBoot (fun b => { b with
    seq := (sorted.getLast?.map seqOf).getD 0
    half := half
    block := next })).setReg 0x1010 (good.length + (used.length - good.length) * 2 ^ 16)

/-! ### Supplements (R454, R455) -/

/-- Code range of a supplement in its region, where its header, place and signature are good. -/
def State.supplement (s : State) (slot : Nat) : Option (Nat × Nat) :=
  let a := 0x80000 + slot * 0x40000
  let len := s.flashNum (a + 8) 4
  let off := s.flashNum (a + 12) 4
  if s.flashNum a 4 = 0x55535654 ∧ s.flashNum (a + 4) 2 = 1 ∧ s.flashNum (a + 6) 2 = 0 ∧ len ≠ 0 ∧ len % 4 = 0 ∧ off % 4 = 0
      ∧ s.flashNum (a + 16) 4 < len ∧ s.flashNum (a + 24) 4 = stepping ∧ s.flashNum (a + 28) 36 = 0 ∧ off + len ≤ 0x40000
      ∧ 64 + len + 4627 ≤ 0x40000
      ∧ Config.verify (certKey (s.signerCert s.copyUsed)) (s.flash (a + 64 + len) 4627) (sha3 (s.flash a (64 + len))) = true then
    some (off, len)
  else none

/-- A slot loaded: its security version, its measurement while start-up runs (R457), and its bit where its entry keeps it
loaded (R455, R464). -/
def State.loadSlot (s : State) (slot : Fin 2) (r : Nat × Nat) : State :=
  let a := 0x80000 + slot.val * 0x40000
  let s := s.updBoot (fun b => { b with
    slots := if s.ready then b.slots else b.slots.set (2 + slot.val) (sha3 (s.flash a (64 + r.2))) (by omega)
    secVer := b.secVer.set slot (s.flashNum (a + 20) 4) })
  if Config.supplementStays (s.flash a (64 + r.2)) then s.orReg 0x1000 (2 ^ (7 + slot.val)) else s

/-- Slot 0 and then slot 1, which must not overlap slot 0's code. -/
def State.loadSupplements (s : State) : State :=
  let r0 := s.supplement 0
  let r1 := s.supplement 1
  let clash := match r0, r1 with
    | some x, some y => decide (x.1 < y.1 + y.2) && decide (y.1 < x.1 + x.2)
    | _, _ => false
  let s := match r0 with | some r => s.loadSlot 0 r | none => s
  match r1 with
  | some r => if clash then s else s.loadSlot 1 r
  | none => s

/-- Ralsar, restarted, has read, verified and loaded its supplements again, and resumes (R398, R456). -/
def stewardRestartDone (s : State) : State :=
  if s.dep.stewardDown = false ∨ s.stewardFailed = true then s
  else
    let s := ((s.andNotReg 0x1000 0x180).updBoot (fun b => { b with secVer := Vector.replicate 2 0 })).loadSupplements
    let s := (s.updDep (fun d => { d with stewardDown := false, wdogAt := s.time })).countReg 0x7058 1
    (s.log 16 6 0 0xFF (s.reg 0x7058) 0).event 0x000A 32 [(16, 4, s.reg 0x7058)]

def execStewardRestartDone (s : State) : Out := .next (stewardRestartDone s)

/-! ### Memory and units (steps 15 to 21) -/

/-- The spare map of the part record (Table 13-6): stack, group, spare, lane. -/
def State.partSpares (s : State) : List (Nat × Nat × Nat × Nat) :=
  (List.range 1536).filterMap (fun i =>
    let lane := s.part s.copyUsed (0x1080 + i) 1
    if lane = 0xFF then none else some (i / 24, i / 2 % 12, i % 2, lane))

/-- A replacement of a repair map applied (R196). -/
def State.mapSpare (s : State) (x : Nat × Nat × Nat × Nat) : State :=
  let y := (x.1, x.2.1, x.2.2.2)
  if s.memc.spares.contains y then s
  else
    let s := { s with memc := { s.memc with spares := s.memc.spares ++ [y] } }
    s.fieldReg (0x3300 + 4 * x.1) (2 * x.2.1) 2 (s.sparesUsed x.1 x.2.1)

/-- The lane test of a stack at start-up: failing lanes in ascending order take spares; whether one is left (R196, R198). -/
def State.testStack (s : State) (j : Nat) : State × Bool :=
  let found := Config.laneTest s.boot.boots j
  (List.range 12).foldl (fun r g =>
    let lanes := (List.range 136).filter (fun ln => found.contains (g, ln) && !r.1.memc.spares.contains (j, g, ln))
    let x := r.1.substitute j g lanes
    if x.2.isEmpty then (x.1, r.2) else (x.1.beyondRepair j 0, true)) (s, false)

/-- Step 19: units that fail are out of service, their logical numbers remapped (R189). -/
def Die.testUnits (d : Die) (boots cd : Nat) : Die :=
  let t := Vector.ofFn (fun j : Fin 12 => Config.unitTest boots cd false j.val)
  let u := Vector.ofFn (fun j : Fin 12 => Config.unitTest boots cd true j.val)
  let m (up : Vector Bool 12) : Vector (Fin 12) 12 := Vector.ofFn (fun j : Fin 12 => if up[j] then j else (nextUp up j.val).getD j)
  { d with tunUp := t, sparUp := u, tunMap := m t, sparMap := m u }

/-- Steps 15, 16 and 19: maps applied, lanes tested, initialisation begun. -/
def State.step15 (s : State) : State :=
  if (List.range 64).any (fun j => (s.hafDie (16 + j)).state == 5) then s.halt 4
  else
    let s := (s.partSpares ++ s.boot.wear).foldl State.mapSpare s
    let r := (List.range 64).foldl (fun (r : State × Bool) j => let x := r.1.testStack j; (x.1, r.2 || x.2)) (s, false)
    if r.2 then r.1.halt 4
    else
      let s := (r.1.phase 6).updBoot (fun b => { b with step := 20 })
      (List.finRange 12).foldl (fun t cd => t.updDie cd (fun d => d.testUnits t.boot.boots cd.val)) s

/-- Step 21: the device is ready (R440, R465, R503). -/
def State.becomeReady (s : State) : State :=
  ((((s.phase 7).orReg 0x1000 16).setReg 0x1008 (s.boot.elapsed / 1000)).orReg 0x30 1).updBoot (fun b => { b with step := 21 })

/-- A tier (0 near, 1 deep, 2 SRAM) of a quadrant is written with zero lines, and its ready bit set; the last makes the
device ready (R215, R216). -/
def memoryInitDone (tier : Fin 3) (quad : Bd) (s : State) : State :=
  let bit := 4 * tier.val + quad.val
  if s.boot.step ≠ 20 ∨ bitAt (s.reg 0x3000) bit = true then s
  else
    let s := ({ s with
      mem := s.mem.filter (fun c => tierBit c.1 != bit)
      poison := s.poison.filter (fun l => tierBit (l * 64) != bit) }).orReg 0x3000 (2 ^ bit)
    if s.reg 0x3000 = 0xFFF then s.becomeReady else s

def execMemoryInitDone (tier : Fin 3) (quad : Bd) (s : State) : Out := .next (memoryInitDone tier quad s)

/-! ### Hafel negotiation and wire test (step 14: R477–R481) -/

/-- The base die of a linear die number (R478). -/
def baseOf (die : Nat) : Nat :=
  12 + (if die < 12 then die / 3 else if die < 16 then 0 else if die < 64 then (die - 16) / 12 else if die < 80 then (die - 64) / 4
    else if die < 88 then (die - 80) / 2 else (die - 88) / 3)

/-- Bundles out and in, spares out and in, nominal rate of a boundary (Table 14-1); for a stack its channels and pin rate. -/
def wiring (die : Nat) : Nat × Nat × Nat :=
  if die < 12 then (3456, 2304, 1000) else if die < 16 then (125, 125, 3000) else if die < 64 then (96, 96, 18000)
  else if die < 80 then (48, 48, 12000) else if die < 88 then (24, 24, 1470) else (0, 0, 0)

/-- Features required on a boundary (Table 14-6). -/
def needFeatures (die : Nat) : Nat :=
  if die < 12 then 0x3B else if die < 16 then 0x3F else if die < 80 then 0x18 else if die < 88 then 0x3F else 0x10

/-- The selection for a die against its base die's block: bundles out and in, spares, rate, features (R478). -/
def selection (die : Nat) (c b : List Byte) : Nat × Nat × Nat × Nat × Nat :=
  let w := wiring die
  (min w.1 (min (fieldB c 8 2) (fieldB b 10 2)), min w.2.1 (min (fieldB c 10 2) (fieldB b 8 2)),
    min (max (spareBundles die 0) (spareBundles die 1)) (min (fieldB c 12 2) (fieldB b 12 2)),
    min w.2.2 (min (fieldB c 14 2) (fieldB b 14 2)), (fieldB c 16 8 &&& fieldB b 16 8) % 64)

/-- A reserved value in a capability block (Table 14-5). -/
def capReserved (c : List Byte) : Bool :=
  decide (6 ≤ fieldB c 0 1) || fieldB c 2 2 == 0 || fieldB c 7 1 != 0 || (sliceB c 40 24).any (· != 0)

/-- A die is below the minimum (R478). -/
def belowMin (die : Nat) (c : List Byte) (x : Nat × Nat × Nat × Nat × Nat) : Bool :=
  let w := wiring die
  capReserved c || decide (x.1 < w.1) || decide (x.2.1 < w.2.1) || decide (x.2.2.2.1 < w.2.2)
    || (x.2.2.2.2 &&& needFeatures die) != needFeatures die

/-- A selection as written to a die and echoed (log entry 34). -/
def selBytes (x : Nat × Nat × Nat × Nat × Nat) : List Byte :=
  natLE 2 x.1 ++ natLE 2 x.2.1 ++ natLE 2 x.2.2.1 ++ natLE 2 x.2.2.2.1 ++ natLE 8 x.2.2.2.2

/-- A die whose block and whose base die's block are read: its selection written, or the die below the minimum. -/
def State.selectDie (s : State) (die : Nat) : State :=
  let d := s.hafDie die
  let b := (s.hafDie (baseOf die)).cap
  if d.state = 1 ∧ d.asked = false ∧ d.cap ≠ [] ∧ b ≠ [] then
    let x := selection die d.cap b
    if belowMin die d.cap x then s.setHafDie die { d with state := 5, sel := x }
    else (s.setHafDie die { d with asked := true, sel := x }).emit (.mgmt die 1 (selBytes x))
  else s

/-- What the wire test of a direction finds: data bundles to replace, spare bundles that fail, spare wires used (R479). -/
def wireRepair (die dir : Nat) (fails : List (Nat × Nat × Nat)) : Nat × Nat × Nat :=
  let here := fails.filter (fun f => f.1 == dir)
  let bundles := here.foldl (fun l f => setIns l f.2.1) []
  bundles.foldl (fun (r : Nat × Nat × Nat) b =>
    let wires := (here.filter (fun f => f.2.1 == b)).foldl (fun l f => setIns l f.2.2) []
    let broken := wires.contains 49 || decide (2 < wires.length)
    let data := decide (b < dataBundles die dir)
    if broken then (if data then (r.1 + 1, r.2) else (r.1, r.2.1 + 1, r.2.2))
    else (r.1, r.2.1, r.2.2 + (wires.filter (fun w => decide (w < 49))).length)) (0, 0, 0)

/-- The wire test of a die's boundary and its repairs; a boundary with more failed bundles than spares fails (R479, R480). -/
def State.testWires (s : State) (die : Nat) : State :=
  let d := s.hafDie die
  if d.state ≠ 1 then s
  else
    let f := Config.wireTest s.boot.boots die
    let o := wireRepair die 0 f
    let i := wireRepair die 1 f
    let spare (dir : Nat) : Nat := min (spareBundles die dir) d.sel.2.2.1
    let d := { d with used := (o.1, i.1), bad := (o.2.1, i.2.1), wires := o.2.2 + i.2.2 }
    s.setHafDie die { d with state := if spare 0 < o.1 + o.2.1 ∨ spare 1 < i.1 + i.2.1 then 4 else 3 }

/-- A die out of service at step 14: a compute or link die is fenced and shown in BOOT_FENCED, a power stage is lost (R480). -/
def State.bootFence (s : State) (die : Nat) : State :=
  if (s.hafDie die).state = 3 then s
  else if h : die < 12 then
    ((s.updDie ⟨die, h⟩ (fun d => { d with mode := .fenced })).orReg 0x100C (2 ^ die)).depStatus (1 + 2 ^ (8 + die))
  else if 80 ≤ die ∧ die < 88 then (s.orReg 0x100C (2 ^ (12 + (die - 80)))).depStatus 1
  else s

/-- A power stage that misses three frames, reports a fault or is below the minimum is lost; the second of a quadrant
fails the device, or in step 5 halts it (R405, R406, Table 13-3). -/
def State.loseStage (s : State) (j : Cd) : State :=
  if bitAt (s.reg 0x8000) j.val then
    let s := (((s.andNotReg 0x8000 (2 ^ j.val)).log 18 5 j.val 0xFF 15 0).depStatus 1).updLed (fun l => { l with frames := l.frames.set j [] })
    if (s.stagesOf (j.val / 3)).length < 2 ∧ s.boot.step ≠ 5 then s.deviceFail else s
  else s

/-- Step 14 ends when every die has echoed or is below the minimum: wires tested, dies fenced, slot 4 computed (R479–R481). -/
def State.step14 (s : State) : State :=
  let dies := List.range 100
  if s.boot.step ≠ 14 ∨ dies.any (fun i => (s.hafDie i).state == 1 && !(s.hafDie i).echoed) = true then s
  else
    let s := s.updBoot (fun b => { b with slots := b.slots.set 4 (sha3 (dies.flatMap (fun i => sliceB (s.hafDie i).cap 0 64))) })
    let s := dies.foldl State.testWires s
    if (List.range 4).any (fun k => (s.hafDie (12 + k)).state != 3) then s.halt 3
    else
      let s := dies.foldl State.bootFence s
      let s := (List.finRange 12).foldl (fun t j => if (t.hafDie (88 + j.val)).state = 3 then t else t.loseStage j) s
      s.step15

/-- A management frame (R476): acknowledged where its CRC holds; in step 14 a capability block (kind 0) or the echo of a
selection (kind 1). -/
def mgmtFrame (die kind : Nat) (body : List Byte) (crc : Nat) (s : State) : State :=
  if s.boot.powered = false ∨ 100 ≤ die ∨ crc16 body ≠ crc then s
  else
    let s := s.emit (.mgmt die 0 [])
    let d := s.hafDie die
    if s.boot.step ≠ 14 ∨ d.state ≠ 1 then s
    else if kind = 0 ∧ d.cap = [] then (List.range 100).foldl State.selectDie (s.setHafDie die { d with cap := sliceB body 0 64 })
    else if kind = 1 ∧ d.asked = true ∧ body = selBytes d.sel then (s.setHafDie die { d with echoed := true }).step14
    else s

def execMgmtFrame (die kind : Nat) (body : List Byte) (crc : Nat) (s : State) : Out := .next ((mgmtFrame die kind body crc s).step14)

/-- A die that has not echoed its selection within 1 ms is below the minimum (R478). -/
def selectionTimeout (die : Nat) (s : State) : State :=
  let d := s.hafDie die
  if s.boot.step = 14 ∧ d.state = 1 ∧ d.echoed = false then (s.setHafDie die { d with state := 5 }).step14 else s

def execSelectionEchoTimeout (die : Nat) (s : State) : Out := .next (selectionTimeout die s)

/-! ### Steps 5 to 13 (R440, Table 13-3) -/

/-- Steps 11 to 13, and the start of step 14. -/
def State.step11 (s : State) : State :=
  let s := s.phase 3
  let s := if s.identityValid then (s.orReg 0x1000 32).replayWear else s
  let s := ((s.phase 4).loadSupplements).phase 5
  { s with
    boot := { s.boot with step := 14 }
    haf := { s.haf with dies := (List.range 100).map (fun i => (i, { HafDie.reset with state := 1 })) } }

/-- Steps 7 to 10: the ROM measured, the part record selected, verified and loaded, or a halt (R447). -/
def State.step7 (s : State) : State :=
  let s := { s with
    time := 0
    dep := { s.dep with wdogAt := 0 }
    boot := { s.boot with
      step := 7
      boots := s.boot.boots + 1
      elapsed := if s.boot.cold then 0 else s.boot.elapsed
      slots := s.boot.slots.set 0 (sliceB Config.romDigest 0 64) } }
  match s.pickCopy with
  | none => s.halt 1
  | some c => if s.part c 0xC 4 = stepping then ((s.phase 2).loadPart c).step11 else s.halt 2

/-- Step 6 ends with REFCLK_MAIN valid, SYS_RESET_N released and no test access in use (R483). -/
def State.step6 (s : State) : State :=
  if s.boot.step = 6 ∧ s.boot.refs[0] = true ∧ s.boot.sysReset = false ∧ s.boot.tap ≤ 1 then s.step7 else s

/-- Step 5 ends when every stage has reported or is lost; a quadrant with fewer than two halts (R406, Table 13-3). -/
def State.step5 (s : State) : State :=
  if s.boot.step ≠ 5 then s
  else if (List.range 4).any (fun k => decide ((s.stagesOf k).length < 2)) then s.halt 5
  else if (List.finRange 12).all (fun j => s.boot.reported[j] || !bitAt (s.reg 0x8000) j.val) then
    s.updBoot (fun b => { b with step := 6 })
  else s

/-- Start-up goes on as far as its waits allow. -/
def State.bootGo (s : State) : State := s.step5.step6

/-! ### Commands of power and reset -/

/-- The input rises through 40 V: start-up runs from step 1; a thermal trip holds it off (R404, R435, R440). -/
def powerOn (board : HostData) (s : State) : State :=
  if s.boot.powered = true ∨ s.boot.trip = true then s
  else
    let s := (s.boardFlash board).updBoot (fun b => { b with powered := true, step := 5 })
    if s.led.brakePin then brakeAssert true s else s

def execPowerOn (board : HostData) (s : State) : Out := .next (powerOn board s)

/-- The stages stop, with all of their rails off (R404). -/
def execInputOutOfRange (s : State) : Out := .next (if s.boot.powered then s.powerOff else s)

/-- The input falls below 30 V: the latch is released (R435). -/
def execInputBelow30V (s : State) : Out :=
  .next ((if s.boot.powered then s.powerOff else s).updBoot (fun b => { b with trip := false }))

/-- Critical temperatures by die class in °C (Table 12-6). -/
def critical (cls : Nat) : Nat := if cls = 2 ∨ cls = 3 then 105 else if cls = 5 then 125 else 110

/-- A sensor passes its critical temperature: THERMTRIP_N is latched and every rail turns off (R435). -/
def thermalTrip (cls celsius : Nat) (s : State) : State :=
  if s.boot.powered = true ∧ cls < 6 ∧ critical cls < celsius then s.powerOff.updBoot (fun b => { b with trip := true }) else s

def execThermalTrip (cls celsius : Nat) (s : State) : Out := .next (thermalTrip cls celsius s)

/-- SYS_RESET_N held low for 10 µs (R438, R443, Table 15-4). -/
def coldResetCmd (s : State) : State :=
  if s.boot.powered = false ∨ s.boot.step < 7 then s.updBoot (fun b => { b with sysReset := true })
  else (s.coldReset 0).updBoot (fun b => { b with sysReset := true })

def execColdReset (s : State) : Out := .next (coldResetCmd s)

/-- SYS_RESET_N released, with what the board has written to the flash meanwhile (R440, R444). -/
def sysResetRelease (board : HostData) (s : State) : State :=
  if s.boot.sysReset then ((s.boardFlash board).updBoot (fun b => { b with sysReset := false })).bootGo else s

def execSysResetRelease (board : HostData) (s : State) : Out := .next (sysResetRelease board s)

/-- A reference clock becomes valid and its PLLs lock (R433). -/
def execReferenceClockValid (clk : Fin 3) (s : State) : Out :=
  .next (s.updBoot (fun b => { b with refs := b.refs.set clk true })).bootGo

/-- The watchdog expires (R398, R443): a ready device restarts the maltster, abandoning an attestation exchange in progress
(R462); before that it acts as SYS_RESET_N, and the third expiry halts. -/
def watchdogExpire (exchange : Bool) (s : State) : State :=
  if s.wdogDue = false then s
  else if s.ready then
    let t := s.wdogExpire
    if exchange then { t with host := { t.host with doeErr := true } } else t
  else if s.boot.step = 14 ∨ s.boot.step = 20 then
    let t := s.coldReset (s.boot.expiries + 1)
    if 2 ≤ s.boot.expiries then t.halt 6 else t.bootGo
  else s

def execWatchdogExpire (exchange : Bool) (s : State) : Out := .next (watchdogExpire exchange s)

/-- A stage's frame: its readings are kept, a fault loses the stage, its temperature limits it (R405, R434, Table 12-6). -/
def powerStageFrame (j : Cd) (readings : List Nat) (fault : Bool) (s : State) : State :=
  if s.boot.powered = false ∨ bitAt (s.reg 0x8000) j.val = false then s
  else if fault then (s.loseStage j).bootGo
  else
    let hot := decide (115 < max (readings.getD 10 0) (readings.getD 11 0))
    ((s.updLed (fun l => { l with
      frames := l.frames.set j ((List.range 12).map (fun i => readings.getD i 0))
      limited := if hot then setIns l.limited j.val else setDel l.limited j.val })).updBoot (fun b => { b with
      reported := b.reported.set j true })).bootGo

def execPowerStageFrame (j : Cd) (readings : List Nat) (fault : Bool) (s : State) : Out := .next (powerStageFrame j readings fault s)

/-- A stage misses three frames and is lost; at start-up, rail says that a rail of its quadrant has failed to reach
regulation within 10 ms (R405, R442, Table 13-4). -/
def powerStageTimeout (j : Cd) (rail : Bool) (s : State) : State :=
  if s.boot.powered = false then s
  else if s.boot.step = 5 ∧ rail = true then s.halt 5
  else (s.loseStage j).bootGo

def execPowerStageTimeout (j : Cd) (rail : Bool) (s : State) : Out := .next (powerStageTimeout j rail s)

/-- A test access instruction: 0 BYPASS, 1 IDCODE; another acts as BYPASS unless SYS_RESET_N is asserted (R482, R483). -/
def tapInstruction (code : Nat) (s : State) : State :=
  if s.boot.powered = false then s
  else (s.updBoot (fun b => { b with tap := if code ≤ 1 ∨ b.sysReset = true then code else 0 })).bootGo

def execTapInstruction (code : Nat) (s : State) : Out := .next (tapInstruction code s)

end Sys2Proof.Machine
end

