-- ==== Sys2Proof/Machine/Identity.lean ====
section
/-! DEFINITION. The wear record's writing, and attestation over DOE (R430, R451, R452, R457–R462). -/

namespace Sys2Proof.Machine

/-! ### The wear record (R452, Table 13-7) -/

/-- A signature of 4,627 bytes by the identity key (R447, R449). -/
def State.signed (s : State) (bs : List Byte) : List Byte × State :=
  (sliceB (Config.sign s.freeCtr (sha3 bs)) 0 4627, { s with freeCtr := s.freeCtr + 1 })

def entryLane (x : Nat × Nat × Nat × Nat) : List Byte :=
  natLE 1 1 ++ natLE 1 x.1 ++ natLE 1 x.2.1 ++ natLE 1 x.2.2.1 ++ natLE 1 x.2.2.2 ++ zeroB 59
def State.entryTrim (s : State) (cd : Nat) : List Byte :=
  natLE 1 2 ++ natLE 1 cd ++ natLE 1 (fld (s.reg (0x8040 + 4 * cd)) 7 5) ++ zeroB 61
def State.entryHours (s : State) : List Byte := natLE 4 3 ++ natLE 4 s.boot.hours ++ zeroB 56

/-- Lane substitutions made in service with the spare each took: its place among its group's. -/
def State.newLanes (s : State) : List (Nat × Nat × Nat × Nat) :=
  s.memc.newSpares.map (fun x => (x.1, x.2.1,
    ((s.memc.spares.filter (fun y => y.1 == x.1 && y.2.1 == x.2.1)).findIdx (· == x)), x.2.2))

/-- A signed block of at most 48 entries written to the next block of the active half (R451). -/
def State.wearBlock (s : State) (entries : List (List Byte)) : State :=
  let seq := s.boot.seq + 1
  let body := natLE 4 0x52575654 ++ natLE 4 seq ++ natLE 1 entries.length ++ zeroB 7
    ++ (List.range 4).flatMap (fun i => natLE 4 (s.reg (0x10 + 4 * i))) ++ zeroB 32 ++ sliceB entries.flatten 0 3072
  let x := s.signed body
  let a := wearAddr s.boot.half s.boot.block
  let bytes := body ++ x.1 ++ List.replicate 429 0xFF
  (x.2.updBoot (fun b => { b with seq := seq, block := b.block + 1, flash := (a, bytes) :: b.flash })).emit (.flash a bytes)

/-- Blocks of 48 entries each. -/
def State.wearBlocks (s : State) (entries : List (List Byte)) : Nat → State
  | 0 => s
  | f + 1 => if entries.isEmpty then s else (s.wearBlock (entries.take 48)).wearBlocks (entries.drop 48) f

/-- A full active half: a snapshot into the other half, then the full half erased (R452). -/
def State.compact (s : State) : State :=
  if s.boot.block < 64 then s
  else
    let full := wearAddr s.boot.half 0
    let snap := s.boot.wear.map entryLane ++ (List.range 12).map s.entryTrim ++ [s.entryHours]
    let s := (s.updBoot (fun b => { b with half := 1 - b.half, block := 0 })).wearBlocks snap (snap.length / 48 + 1)
    (s.updBoot (fun b => { b with flash := b.flash.filter (fun c => !(decide (full ≤ c.1) && decide (c.1 < full + 0x80000))) })).emit
      (.erase full)

/-- A signed block of every change not yet written; without a valid identity or a steward, none (R399, R400, R430, R450,
R452). -/
def wearRecordWrite (s : State) : State :=
  let lanes := s.newLanes
  let entries := lanes.map entryLane ++ s.boot.dueTrims.map s.entryTrim ++ (if s.boot.dueHours then [s.entryHours] else [])
  if s.identityOk = false ∨ s.dep.stewardDown = true ∨ s.stewardFailed = true ∨ s.ready = false ∨ entries = [] then s
  else
    let s := s.compact.wearBlocks entries (entries.length / 48 + 1)
    { s with
      memc := { s.memc with newSpares := [] }
      boot := { s.boot with wear := s.boot.wear ++ lanes, dueTrims := [], dueHours := false } }

def execWearRecordWrite (s : State) : Out := .next (wearRecordWrite s)

/-- 24 more hours powered: an entry is due (R452). -/
def execServiceHours (s : State) : Out :=
  .next (if s.boot.powered then s.updBoot (fun b => { b with hours := b.hours + 24, dueHours := true }) else s)

/-! ### Attestation (R458, R460, R461, R462) -/

/-- A response: the request code plus 0x80, a status, the length, the body (R458). -/
def State.respond (s : State) (code status : Nat) (body : List Byte) : State :=
  s.emit (.doe (natLE 1 (code + 0x80) ++ natLE 1 status ++ zeroB 2 ++ natLE 4 (8 + body.length) ++ body))

/-- The mailbox serves attestation: powered with Ralsar running, the link up, no abandoned exchange (R441, R462). -/
def State.attests (s : State) : Bool :=
  decide (7 ≤ s.boot.step) && s.host.linkUp && !s.host.doeErr && !s.dep.stewardDown

/-- A request of a code and length: statuses 3 and 1, then 2 without a valid identity, else f (Table 13-10; log entry 35). -/
def State.attest (s : State) (code len : Nat) (req : List Byte) (f : State → State) : State :=
  if s.attests = false then s
  else if req.length ≠ len ∨ fieldB req 4 4 ≠ len then s.respond code 3 []
  else if fieldB req 1 3 ≠ 0 then s.respond code 1 []
  else if s.identityOk = false then s.respond code 2 []
  else f s

/-- Get certificates: part record bytes 0x56C0 to 0x99DF. -/
def execGetCertificates (req : List Byte) (s : State) : Out :=
  .next (s.attest 1 8 req (fun s => s.respond 1 0 (s.partBytes s.copyUsed 0x56C0 0x4320)))

/-- The report of R460 up to its signature, header included. -/
def State.report (s : State) (req : List Byte) : List Byte :=
  let mask := fieldB req 40 1
  let slots := ((List.finRange 8).filter (fun i => bitAt mask i.val)).flatMap (fun i => sliceB s.boot.slots[i] 0 64)
  natLE 1 0x82 ++ zeroB 3 ++ natLE 4 (80 + slots.length + 4627) ++ sliceB req 8 32
    ++ (List.range 4).flatMap (fun i => natLE 4 (s.reg (0x10 + 4 * i))) ++ natLE 4 stepping ++ natLE 4 (s.reg 0x1000)
    ++ natLE 4 (s.reg 0x1004) ++ natLE 4 s.boot.secVer[0] ++ natLE 4 s.boot.secVer[1] ++ natLE 1 mask ++ zeroB 3 ++ slots

def execMeasure (req : List Byte) (s : State) : Out :=
  .next (s.attest 2 41 req (fun s =>
    let r := s.report req
    let x := s.signed r
    x.2.emit (.doe (r ++ x.1))))

/-- Slot 6 becomes the digest of its old content and the value (R461). -/
def execExtend (req : List Byte) (s : State) : Out :=
  .next (s.attest 3 72 req (fun s =>
    let v := sha3 (sliceB s.boot.slots[6] 0 64 ++ sliceB req 8 64)
    (s.updBoot (fun b => { b with slots := b.slots.set 6 v })).respond 3 0 v))

/-- A request with a reserved code is answered with status 1 (R458). -/
def execReservedAttestationCode (code : Nat) (s : State) : Out :=
  .next (if s.attests = true ∧ code < 0x80 ∧ (code = 0 ∨ 3 < code) then s.respond code 1 [] else s)

/-- A DOE Abort clears the error of an abandoned exchange (R462). -/
def execDoeAbort (s : State) : Out := .next { s with host := { s.host with doeErr := false } }

end Sys2Proof.Machine
end

