-- ==== Sys2Proof/Machine/Board.lean ====
section
/-! DEFINITION. Reads and writes of setup registers (R498–R502), the views that registers give of other state, and the
board-management interface (R495–R497). -/

namespace Sys2Proof.Machine

/-! ### Views (R187, R188, R305, R337, R366, R484) -/

/-- A sequencer block's register (R187, R188); that of a fenced die reads state 4 and zero elsewhere (R186). -/
def State.seqReg (s : State) (cd : Cd) (o : Nat) : Nat :=
  let d := s.die cd
  let st := match d.mode with | .idle => 0 | .running => 1 | .stopping => 2 | .faulted => 3 | .fenced => 4
  let shown := d.mode == .idle || d.mode == .faulted
  let mask (v : Vector Bool 12) : Nat := (List.finRange 12).foldl (fun t j => t + if v[j] then 2 ^ j.val else 0) 0
  if d.mode = .fenced then (if o = 0 then st else 0)
  else if o = 0 then st + d.fault * 2 ^ 8
  else if o = 4 then mask d.tunUp + mask d.sparUp * 2 ^ 16
  else if o = 8 then s.reg (0x10008 + 0x1000 * cd.val)
  else if o = 0xC then d.faultInfo.toNat
  else if o = 0x10 then d.faultPc.toNat % 2 ^ 32
  else if o = 0x14 then d.faultPc.toNat / 2 ^ 32
  else if shown = false then 0
  else if 0x100 ≤ o ∧ o < 0x180 then (d.s[(o - 0x100) / 4 % 32]'(Nat.mod_lt _ (by decide))).toNat
  else if 0x180 ≤ o ∧ o < 0x200 then
    let a := (d.a[(o - 0x180) / 8 % 16]'(Nat.mod_lt _ (by decide))).toNat
    if o % 8 = 0 then a % 2 ^ 32 else a / 2 ^ 32
  else if o = 0x200 then (List.finRange 8).foldl (fun t j => t + if d.p[j] then 2 ^ j.val else 0) 0
  else 0

/-- The registers of the ring named by RING_INDEX (R366). -/
def State.ringReg (s : State) (o : Nat) : Nat :=
  let x := s.ring s.ringIndex
  if o = 0x2024 then x.base % 2 ^ 32
  else if o = 0x2028 then x.base / 2 ^ 32
  else if o = 0x202C then x.cfg
  else if o = 0x2030 then x.mod
  else if o = 0x2038 then
    x.state + x.err * 2 ^ 8 + (if x.kind = 0 then (s.inFlight s.ringIndex).length * 2 ^ 16 else 0)
  else if o = 0x203C then x.dev
  else if o = 0x2040 then x.lost
  else 0

/-- FAB_RT_STATUS (R305). -/
def State.rtStatus (s : State) : Nat :=
  let a := s.fab.tables[0]
  let b := s.fab.tables[1]
  (if a.valid then 1 else 0) + (if b.valid then 2 else 0) + a.epoch * 4 + b.epoch * 16 + (if s.fab.hold.isSome then 64 else 0)

/-- The Hafel registers of the die that HAF_INDEX names (R484). -/
def State.hafReg (s : State) (o : Nat) : Nat :=
  let d := s.hafDie (s.reg 0x9000)
  if o = 0x9004 then d.state + min 255 (d.used.1 + d.used.2) * 2 ^ 8 + min 255 d.wires * 2 ^ 16
  else if o = 0x9008 then d.crc
  else if o = 0x900C then d.retired
  else if o = 0x9010 then d.sel.2.2.2.2 + d.sel.2.2.2.1 * 2 ^ 16
  else if 0x9040 ≤ o ∧ o ≤ 0x907C then fieldB d.cap (o - 0x9040) 4
  else 0

/-- COLL_STATUS: collectives in progress on each engine (R337). -/
def State.collBusy (s : State) : Nat :=
  (List.range 4).foldl (fun t k => t + (s.coll.jobs.filter (fun c => c.slots.contains k)).length * 8 ^ k) 0

/-- The value of a setup register once the device is ready: a view, or the stored value; unmapped offsets read zero
(R498, R499). -/
def State.readReg (s : State) (o : Nat) : Nat :=
  if o % 4 ≠ 0 then 0
  else if 0x10000 ≤ o ∧ o < 0x1C000 then s.seqReg (cdOf ((o - 0x10000) / 0x1000)) (o % 0x1000)
  else if o = 0x20 then s.time % 2 ^ 32
  else if o = 0x24 then s.latch.1
  else if o = 0x80B4 then s.latch.2.1
  else if 0x2024 ≤ o ∧ o ≤ 0x2040 then s.ringReg o
  else if o = 0x4004 then s.rtStatus
  else if 0x4044 ≤ o ∧ o ≤ 0x407C ∧ o % 8 = 4 then
    let x := s.port (portOf ((o - 0x4044) / 8))
    x.state + x.lanes * 2 ^ 4 + x.neighbour * 2 ^ 8
  else if o = 0x5008 then s.collBusy
  else if 0x9004 ≤ o ∧ o ≤ 0x907C then s.hafReg o
  else s.reg o

/-- Before ready only the boot block is read; every other register reads its reset value (R441). -/
def State.bar0Read (s : State) (o : Nat) : Nat :=
  if s.ready || (decide (0x1000 ≤ o) && decide (o < 0x2000)) then s.readReg o else regReset o

/-- A BAR0 read of DEV_TIME_LO, or ENG_ENERGY_LO (energy = true), latches the HI half for BAR0 (R502). -/
def counterLoRead (energy : Bool) (s : State) : State :=
  if s.boot.powered = false then s
  else
    let hi := if s.ready = false then 0 else if energy then s.reg 0x80B4 else s.time / 2 ^ 32 % 2 ^ 32
    let s' := { s with latch := if energy then (s.latch.1, hi, s.latch.2.2) else (hi, s.latch.2) }
    s'.emit (.bar0 (s.bar0Read (if energy then 0x80B0 else 0x20)))

def execCounterLoRead (energy : Bool) (s : State) : Out := .next (counterLoRead energy s)

/-! ### Writes (R5, R6, R441, R499, R500) -/

/-- Registers whose writes are commands of their own. -/
def ownWrite (o : Nat) : Bool :=
  [0x2008, 0x200C, 0x3004, 0x3010, 0x3014, 0x4000, 0x4008, 0x401C, 0x5004, 0x7008, 0x700C, 0x7010, 0x7014, 0x7018, 0x701C,
    0x7038, 0x7040, 0x8020].contains o
    || (decide (0x3020 ≤ o) && decide (o ≤ 0x304C)) || (decide (0x4040 ≤ o) && decide (o < 0x4080))
    || (decide (0x6000 ≤ o) && decide (o ≤ 0x6018))

/-- What a write of a register does beside it. A timing selection that changes is not locked to its source yet, and none
is in use (R270, R305; log entry 53); the counts of a congestion map start again with its period (R302). -/
def State.written (s : State) (off old : Nat) : State :=
  if off = 0x4028 ∧ fld (s.reg off) 0 13 ≠ fld old 0 13 then s.setTiming none
  else if off = 0x402C ∧ fld (s.reg off) 0 16 ≠ fld old 0 16 then { s with fab := s.fab.clearMap }
  else s

/-- A write of a register under its access code; unmapped offsets, and every register before ready, ignore it. -/
def registerWrite (off v : Nat) (s : State) : State :=
  if s.ready = false ∨ off % 4 ≠ 0 ∨ ownWrite off = true then s
  else match regRow? off with
  | some r => (s.setReg off (regMerge r off (s.reg off) (v % 2 ^ 32))).written off (s.reg off)
  | none => s

def execRegisterWrite (off v : Nat) (s : State) : Out := .next (registerWrite off v s)

/-! ### The board-management interface (R495–R497, R502) -/

/-- What a Block Read of a register returns: before ready, its reset value but for three registers (R496). -/
def State.bmValue (s : State) (o : Nat) : Nat :=
  if s.ready ∨ o = 0x1000 ∨ o = 0 ∨ o = 0x8028 then s.reg o
  else if o = 0x8008 then (if s.boot.loaded then s.part s.copyUsed 0x40 2 else 0)
  else regReset o

/-- A Block Read of a register. -/
def State.bmRead (s : State) (o : Nat) : State := if s.boot.powered then s.emit (.bm (s.bmValue o)) else s

def execBmReadBootStatus (s : State) : Out := .next (s.bmRead 0x1000)
def execBmReadEngStatus (s : State) : Out := .next (s.bmRead 0x8000)
def execBmReadEngGrant (s : State) : Out := .next (s.bmRead 0x8008)
def execBmReadEngTempMax (s : State) : Out := .next (s.bmRead 0x8028)
def execBmReadEngQpower (k : Bd) (s : State) : Out := .next (s.bmRead (0x8030 + 4 * k.val))
def execBmReadDepStatus (s : State) : Out := .next (s.bmRead 0x7000)
def execBmReadDevId (s : State) : Out := .next (s.bmRead 0)
def execBmReadBmStatus (s : State) : Out := .next (s.bmRead 0x30)
def execBmReadBmAlertEn (s : State) : Out := .next (s.bmRead 0x34)

/-- The LO half latches the HI half for this path (R502). -/
def execBmReadEngEnergyLo (s : State) : Out :=
  .next (if s.boot.powered then
    { s with latch := (s.latch.1, s.latch.2.1, s.bmValue 0x80B4) }.emit (.bm (s.bmValue 0x80B0)) else s)

def execBmReadEngEnergyHi (s : State) : Out :=
  .next (if s.boot.powered then s.emit (.bm (if s.ready then s.latch.2.2 else 0)) else s)

/-- A write of ENG_GRANT: NACKed until step 10 has ended; a value outside 400 to 3,600 sets grant_rejected (R496). -/
def bmWriteGrant (v : Nat) (s : State) : State :=
  let w := fld v 0 12
  if s.boot.powered = false then s
  else if s.boot.loaded = false then s.emit .bmNack
  else if 400 ≤ w ∧ w ≤ 3600 then s.setReg 0x8008 w
  else s.orReg 0x30 32

def execBmWriteEngGrant (v : Nat) (s : State) : Out := .next (bmWriteGrant v s)

/-- A write of BM_STATUS clears the bits written 1; pec_errors stays (R497, R501). -/
def execBmClearStatus (v : Nat) (s : State) : Out := .next (if s.ready then s.andNotReg 0x30 (v % 64) else s)

def execBmWriteBmAlertEn (v : Nat) (s : State) : Out := .next (if s.ready then s.setReg 0x34 (v % 64) else s)

/-- BM_ALERT_N is low (R497). -/
def State.alertLow (s : State) : Bool := decide ((s.reg 0x30 &&& s.reg 0x34) % 64 ≠ 0)

/-- The device's SMBus address (R495). -/
def bmAddress : Nat := 0x58 + Config.bmStraps % 4

/-- The Alert Response Address is answered while BM_ALERT_N is held low (R497). -/
def execBmAlertResponse (s : State) : Out :=
  .next (if s.boot.powered ∧ s.alertLow = true then s.emit (.bm bmAddress) else s)

/-- A refused transaction: NACKed; a PEC failure is counted (R495). -/
def bmNack (pec : Bool) (s : State) : State :=
  if s.boot.powered = false then s
  else
    let s := s.emit .bmNack
    if pec then s.fieldReg 0x30 8 8 (min 255 (fld (s.reg 0x30) 8 8 + 1)) else s

def execBmNack (pec : Bool) (s : State) : Out := .next (bmNack pec s)

end Sys2Proof.Machine
end

