-- ==== Sys2Proof/Machine/Dispatch.lean ====
section
/-! DEFINITION. The dispatch: one arm per command of the table. -/

namespace Sys2Proof.Machine

def exec (i : Instr) (s : State) : Host.Outcome State Fault Refusal :=
  match i with
  | .nop cd w => Sys2Proof.Machine.execNop cd w s
  | .add cd w => Sys2Proof.Machine.execAdd cd w s
  | .sub cd w => Sys2Proof.Machine.execSub cd w s
  | .mul cd w => Sys2Proof.Machine.execMul cd w s
  | .and cd w => Sys2Proof.Machine.execAnd cd w s
  | .or cd w => Sys2Proof.Machine.execOr cd w s
  | .xor cd w => Sys2Proof.Machine.execXor cd w s
  | .shl cd w => Sys2Proof.Machine.execShl cd w s
  | .shr cd w => Sys2Proof.Machine.execShr cd w s
  | .sra cd w => Sys2Proof.Machine.execSra cd w s
  | .li cd w => Sys2Proof.Machine.execLi cd w s
  | .fadd cd w => Sys2Proof.Machine.execFadd cd w s
  | .fmul cd w => Sys2Proof.Machine.execFmul cd w s
  | .itof cd w => Sys2Proof.Machine.execItof cd w s
  | .ftoi cd w => Sys2Proof.Machine.execFtoi cd w s
  | .cmpEq cd w => Sys2Proof.Machine.execCmpEq cd w s
  | .cmpNe cd w => Sys2Proof.Machine.execCmpNe cd w s
  | .cmpLt cd w => Sys2Proof.Machine.execCmpLt cd w s
  | .cmpGe cd w => Sys2Proof.Machine.execCmpGe cd w s
  | .cmpLtu cd w => Sys2Proof.Machine.execCmpLtu cd w s
  | .fcmpLt cd w => Sys2Proof.Machine.execFcmpLt cd w s
  | .fcmpGe cd w => Sys2Proof.Machine.execFcmpGe cd w s
  | .pand cd w => Sys2Proof.Machine.execPand cd w s
  | .por cd w => Sys2Proof.Machine.execPor cd w s
  | .pnot cd w => Sys2Proof.Machine.execPnot cd w s
  | .ali cd w => Sys2Proof.Machine.execAli cd w s
  | .aadd cd w => Sys2Proof.Machine.execAadd cd w s
  | .ald cd w => Sys2Proof.Machine.execAld cd w s
  | .ast cd w => Sys2Proof.Machine.execAst cd w s
  | .ld cd w => Sys2Proof.Machine.execLd cd w s
  | .st cd w => Sys2Proof.Machine.execSt cd w s
  | .scalarAccessComplete cd host hostOk => Sys2Proof.Machine.execScalarAccessComplete cd host hostOk s
  | .sumrd cd w => Sys2Proof.Machine.execSumrd cd w s
  | .sumpred cd w => Sys2Proof.Machine.execSumpred cd w s
  | .cntrd cd w => Sys2Proof.Machine.execCntrd cd w s
  | .cnterr cd w => Sys2Proof.Machine.execCnterr cd w s
  | .cntset cd w => Sys2Proof.Machine.execCntset cd w s
  | .whoami cd w => Sys2Proof.Machine.execWhoami cd w s
  | .clock cd w => Sys2Proof.Machine.execClock cd w s
  | .br cd w => Sys2Proof.Machine.execBr cd w s
  | .call cd w => Sys2Proof.Machine.execCall cd w s
  | .jr cd w => Sys2Proof.Machine.execJr cd w s
  | .loop cd w => Sys2Proof.Machine.execLoop cd w s
  | .halt cd w => Sys2Proof.Machine.execHalt cd w s
  | .haltComplete cd => Sys2Proof.Machine.execHaltComplete cd s
  | .loadCharge cd w => Sys2Proof.Machine.execLoadCharge cd w s
  | .pass cd w => Sys2Proof.Machine.execPass cd w s
  | .elementWisePass cd w => Sys2Proof.Machine.execElementWisePass cd w s
  | .tileAdd cd w => Sys2Proof.Machine.execTileAdd cd w s
  | .tileZero cd w => Sys2Proof.Machine.execTileZero cd w s
  | .scoreboardGrant cd tile => Sys2Proof.Machine.execScoreboardGrant cd tile s
  | .tunOpStart cd j => Sys2Proof.Machine.execTunOpStart cd j s
  | .loadChargeComplete cd j => Sys2Proof.Machine.execLoadChargeComplete cd j s
  | .tunIdleExpire cd j => Sys2Proof.Machine.execTunIdleExpire cd j s
  | .tunStartOffsetExpire cd j => Sys2Proof.Machine.execTunStartOffsetExpire cd j s
  | .tunRowVerdict cd j fault => Sys2Proof.Machine.execTunRowVerdict cd j fault s
  | .tunOpComplete cd j => Sys2Proof.Machine.execTunOpComplete cd j s
  | .seqRemapTun cd j => Sys2Proof.Machine.execSeqRemapTun cd j s
  | .spargeConv cd w => Sys2Proof.Machine.execSpargeConv cd w s
  | .spargeAdd cd w => Sys2Proof.Machine.execSpargeAdd cd w s
  | .spargeSub cd w => Sys2Proof.Machine.execSpargeSub cd w s
  | .spargeMul cd w => Sys2Proof.Machine.execSpargeMul cd w s
  | .spargeFma cd w => Sys2Proof.Machine.execSpargeFma cd w s
  | .spargeMin cd w => Sys2Proof.Machine.execSpargeMin cd w s
  | .spargeMax cd w => Sys2Proof.Machine.execSpargeMax cd w s
  | .spargeAbs cd w => Sys2Proof.Machine.execSpargeAbs cd w s
  | .spargeNeg cd w => Sys2Proof.Machine.execSpargeNeg cd w s
  | .spargeClamp cd w => Sys2Proof.Machine.execSpargeClamp cd w s
  | .spargeSelect cd w => Sys2Proof.Machine.execSpargeSelect cd w s
  | .spargeCmpGt cd w => Sys2Proof.Machine.execSpargeCmpGt cd w s
  | .spargeCmpGe cd w => Sys2Proof.Machine.execSpargeCmpGe cd w s
  | .spargeCmpEq cd w => Sys2Proof.Machine.execSpargeCmpEq cd w s
  | .iadd cd w => Sys2Proof.Machine.execIadd cd w s
  | .isub cd w => Sys2Proof.Machine.execIsub cd w s
  | .imul cd w => Sys2Proof.Machine.execImul cd w s
  | .iand cd w => Sys2Proof.Machine.execIand cd w s
  | .ior cd w => Sys2Proof.Machine.execIor cd w s
  | .ixor cd w => Sys2Proof.Machine.execIxor cd w s
  | .ishl cd w => Sys2Proof.Machine.execIshl cd w s
  | .ishr cd w => Sys2Proof.Machine.execIshr cd w s
  | .recip cd w => Sys2Proof.Machine.execRecip cd w s
  | .div cd w => Sys2Proof.Machine.execDiv cd w s
  | .sqrt cd w => Sys2Proof.Machine.execSqrt cd w s
  | .rsqrt cd w => Sys2Proof.Machine.execRsqrt cd w s
  | .exp cd w => Sys2Proof.Machine.execExp cd w s
  | .exp2 cd w => Sys2Proof.Machine.execExp2 cd w s
  | .log cd w => Sys2Proof.Machine.execLog cd w s
  | .log2 cd w => Sys2Proof.Machine.execLog2 cd w s
  | .tanh cd w => Sys2Proof.Machine.execTanh cd w s
  | .sigmoid cd w => Sys2Proof.Machine.execSigmoid cd w s
  | .erf cd w => Sys2Proof.Machine.execErf cd w s
  | .sin cd w => Sys2Proof.Machine.execSin cd w s
  | .cos cd w => Sys2Proof.Machine.execCos cd w s
  | .rowSum cd w => Sys2Proof.Machine.execRowSum cd w s
  | .rowMax cd w => Sys2Proof.Machine.execRowMax cd w s
  | .rowMin cd w => Sys2Proof.Machine.execRowMin cd w s
  | .colSum cd w => Sys2Proof.Machine.execColSum cd w s
  | .colMax cd w => Sys2Proof.Machine.execColMax cd w s
  | .s64Add cd w => Sys2Proof.Machine.execS64Add cd w s
  | .spargeStart cd u => Sys2Proof.Machine.execSpargeStart cd u s
  | .spargeCheckFail cd u row => Sys2Proof.Machine.execSpargeCheckFail cd u row s
  | .spargeComplete cd u => Sys2Proof.Machine.execSpargeComplete cd u s
  | .summarySlotUpdate cd u => Sys2Proof.Machine.execSummarySlotUpdate cd u s
  | .seqRemapSparge cd u => Sys2Proof.Machine.execSeqRemapSparge cd u s
  | .copy cd w => Sys2Proof.Machine.execCopy cd w s
  | .put cd w => Sys2Proof.Machine.execPut cd w s
  | .get cd w => Sys2Proof.Machine.execGet cd w s
  | .movementStart cd e => Sys2Proof.Machine.execMovementStart cd e s
  | .movementComplete cd id remote host hostOk => Sys2Proof.Machine.execMovementComplete cd id remote host hostOk s
  | .helperDma cd w => Sys2Proof.Machine.execHelperDma cd w s
  | .helperCollective cd w => Sys2Proof.Machine.execHelperCollective cd w s
  | .helperGrist cd w => Sys2Proof.Machine.execHelperGrist cd w s
  | .helperComplete cd id => Sys2Proof.Machine.execHelperComplete cd id s
  | .waitCnt cd w => Sys2Proof.Machine.execWaitCnt cd w s
  | .flagAdd cd w => Sys2Proof.Machine.execFlagAdd cd w s
  | .flagWait cd w => Sys2Proof.Machine.execFlagWait cd w s
  | .flagWaitRecheck cd => Sys2Proof.Machine.execFlagWaitRecheck cd s
  | .semAcq cd w => Sys2Proof.Machine.execSemAcq cd w s
  | .semAcqReply cd => Sys2Proof.Machine.execSemAcqReply cd s
  | .semWakeTimeout cd => Sys2Proof.Machine.execSemWakeTimeout cd s
  | .semRetryTimer cd => Sys2Proof.Machine.execSemRetryTimer cd s
  | .semRel cd w => Sys2Proof.Machine.execSemRel cd w s
  | .fence cd w => Sys2Proof.Machine.execFence cd w s
  | .post cd w => Sys2Proof.Machine.execPost cd w s
  | .orderedRelease cd id => Sys2Proof.Machine.execOrderedRelease cd id s
  | .seqStallEnd cd => Sys2Proof.Machine.execSeqStallEnd cd s
  | .waitLimitExpire cd id => Sys2Proof.Machine.execWaitLimitExpire cd id s
  | .faultSettle cd => Sys2Proof.Machine.execFaultSettle cd s
  | .icacheFill cd => Sys2Proof.Machine.execIcacheFill cd s
  | .startProgram r => Sys2Proof.Machine.execStartProgram r s
  | .stopDrain r => Sys2Proof.Machine.execStopDrain r s
  | .stopAbort r => Sys2Proof.Machine.execStopAbort r s
  | .stopComplete cd => Sys2Proof.Machine.execStopComplete cd s
  | .homeRead addr err => Sys2Proof.Machine.execHomeRead addr err s
  | .homeWrite addr data mark => Sys2Proof.Machine.execHomeWrite addr data mark s
  | .laneTestEnd stack channel lanes err => Sys2Proof.Machine.execLaneTestEnd stack channel lanes err s
  | .add64 idx => Sys2Proof.Machine.execAdd64 idx s
  | .fetchAdd64 idx => Sys2Proof.Machine.execFetchAdd64 idx s
  | .add64Sat idx => Sys2Proof.Machine.execAdd64Sat idx s
  | .swap64 idx => Sys2Proof.Machine.execSwap64 idx s
  | .cas64 idx => Sys2Proof.Machine.execCas64 idx s
  | .semAcquire idx => Sys2Proof.Machine.execSemAcquire idx s
  | .semRelease idx => Sys2Proof.Machine.execSemRelease idx s
  | .atomicBufferWriteback addr => Sys2Proof.Machine.execAtomicBufferWriteback addr s
  | .memoryInitDone tier quad => Sys2Proof.Machine.execMemoryInitDone tier quad s
  | .scrubRead u err => Sys2Proof.Machine.execScrubRead u err s
  | .cxlMemRequest isWrite hpa data => Sys2Proof.Machine.execCxlMemRequest isWrite hpa data s
  | .memLayoutWrite off v => Sys2Proof.Machine.execMemLayoutWrite off v s
  | .memScrubWrite v => Sys2Proof.Machine.execMemScrubWrite v s
  | .lookUp cd id host hostOk => Sys2Proof.Machine.execLookUp cd id host hostOk s
  | .update cd id host hostOk => Sys2Proof.Machine.execUpdate cd id host hostOk s
  | .fold cd h => Sys2Proof.Machine.execFold cd h s
  | .foldEnd job => Sys2Proof.Machine.execFoldEnd job s
  | .versionSwitch cd h => Sys2Proof.Machine.execVersionSwitch cd h s
  | .versionRelease cd h => Sys2Proof.Machine.execVersionRelease cd h s
  | .skewReport cd h => Sys2Proof.Machine.execSkewReport cd h s
  | .migrateOut cd id host hostOk => Sys2Proof.Machine.execMigrateOut cd id host hostOk s
  | .installOverrides cd id host hostOk => Sys2Proof.Machine.execInstallOverrides cd id host hostOk s
  | .gristLookupRequest q => Sys2Proof.Machine.execGristLookupRequest q s
  | .gristUpdateIds q => Sys2Proof.Machine.execGristUpdateIds q s
  | .gristGradientChunk q => Sys2Proof.Machine.execGristGradientChunk q s
  | .gristMigratedRow q row hot => Sys2Proof.Machine.execGristMigratedRow q row hot s
  | .gristReply q => Sys2Proof.Machine.execGristReply q s
  | .gristBusyRetry tag => Sys2Proof.Machine.execGristBusyRetry tag s
  | .gristComplete job => Sys2Proof.Machine.execGristComplete job s
  | .gristCtrlWrite off v => Sys2Proof.Machine.execGristCtrlWrite off v s
  | .portEnable p => Sys2Proof.Machine.execPortEnable p s
  | .portDisable p => Sys2Proof.Machine.execPortDisable p s
  | .portSignalDetect p lanes => Sys2Proof.Machine.execPortSignalDetect p lanes s
  | .portTrainingDone p lanes => Sys2Proof.Machine.execPortTrainingDone p lanes s
  | .identitySlot p coord nport lanes => Sys2Proof.Machine.execIdentitySlot p coord nport lanes s
  | .identitySendTimer p => Sys2Proof.Machine.execIdentitySendTimer p s
  | .portTestEnd p ok => Sys2Proof.Machine.execPortTestEnd p ok s
  | .goSlot p => Sys2Proof.Machine.execGoSlot p s
  | .bringupStepTimeout p => Sys2Proof.Machine.execBringupStepTimeout p s
  | .routerRound => Sys2Proof.Machine.execRouterRound s
  | .slotReceive p lanes crc badLanes => Sys2Proof.Machine.execSlotReceive p lanes crc badLanes s
  | .laneLockLoss p lane => Sys2Proof.Machine.execLaneLockLoss p lane s
  | .laneDropSlot p lanes => Sys2Proof.Machine.execLaneDropSlot p lanes s
  | .faultDetectExpire p => Sys2Proof.Machine.execFaultDetectExpire p s
  | .timingPortLost => Sys2Proof.Machine.execTimingPortLost s
  | .validate v => Sys2Proof.Machine.execValidate v s
  | .invalidate v => Sys2Proof.Machine.execInvalidate v s
  | .injectEpochWrite v => Sys2Proof.Machine.execInjectEpochWrite v s
  | .rtHoldExpire => Sys2Proof.Machine.execRtHoldExpire s
  | .putPacket q => Sys2Proof.Machine.execPutPacket q s
  | .getRequest q host hostOk => Sys2Proof.Machine.execGetRequest q host hostOk s
  | .getReply q => Sys2Proof.Machine.execGetReply q s
  | .atomicRequest q => Sys2Proof.Machine.execAtomicRequest q s
  | .atomicReply q => Sys2Proof.Machine.execAtomicReply q s
  | .wake q => Sys2Proof.Machine.execWake q s
  | .ackPacket q => Sys2Proof.Machine.execAckPacket q s
  | .ackDelayExpire src flow => Sys2Proof.Machine.execAckDelayExpire src flow s
  | .retransmitTimeout dst flow seq => Sys2Proof.Machine.execRetransmitTimeout dst flow seq s
  | .senderFlowIdle dst flow => Sys2Proof.Machine.execSenderFlowIdle dst flow s
  | .receiverFlowIdle src flow => Sys2Proof.Machine.execReceiverFlowIdle src flow s
  | .congestionMapPeriod => Sys2Proof.Machine.execCongestionMapPeriod s
  | .fabRdCtrlWrite v => Sys2Proof.Machine.execFabRdCtrlWrite v s
  | .allReduce cd h => Sys2Proof.Machine.execAllReduce cd h s
  | .reduceScatter cd h => Sys2Proof.Machine.execReduceScatter cd h s
  | .allGather cd h => Sys2Proof.Machine.execAllGather cd h s
  | .broadcast cd h => Sys2Proof.Machine.execBroadcast cd h s
  | .reduce cd h => Sys2Proof.Machine.execReduce cd h s
  | .shift cd h => Sys2Proof.Machine.execShift cd h s
  | .permutation cd h => Sys2Proof.Machine.execPermutation cd h s
  | .pitch cd h => Sys2Proof.Machine.execPitch cd h s
  | .paceGroup cd h => Sys2Proof.Machine.execPaceGroup cd h s
  | .collStart eng host hostOk => Sys2Proof.Machine.execCollStart eng host hostOk s
  | .collCheck q => Sys2Proof.Machine.execCollCheck q s
  | .collStreamPacket q base => Sys2Proof.Machine.execCollStreamPacket q base s
  | .abortPacket q => Sys2Proof.Machine.execAbortPacket q s
  | .permutationData q => Sys2Proof.Machine.execPermutationData q s
  | .pitchArrival q => Sys2Proof.Machine.execPitchArrival q s
  | .pitchRelease q => Sys2Proof.Machine.execPitchRelease q s
  | .paceRequest q => Sys2Proof.Machine.execPaceRequest q s
  | .paceNotice q => Sys2Proof.Machine.execPaceNotice q s
  | .collCmdAbort => Sys2Proof.Machine.execCollCmdAbort s
  | .doorbellSnoop line => Sys2Proof.Machine.execDoorbellSnoop line s
  | .doorbellPoll line => Sys2Proof.Machine.execDoorbellPoll line s
  | .doorbellLineReturn line data ok => Sys2Proof.Machine.execDoorbellLineReturn line data ok s
  | .ringFetch => Sys2Proof.Machine.execRingFetch s
  | .descriptorReturn r data ok => Sys2Proof.Machine.execDescriptorReturn r data ok s
  | .ringNop r => Sys2Proof.Machine.execRingNop r s
  | .dma r => Sys2Proof.Machine.execDma r s
  | .dmaTransferEnd m host hostOk => Sys2Proof.Machine.execDmaTransferEnd m host hostOk s
  | .write r => Sys2Proof.Machine.execWrite r s
  | .completionAccept src => Sys2Proof.Machine.execCompletionAccept src s
  | .completionWrite r => Sys2Proof.Machine.execCompletionWrite r s
  | .eventWrite r => Sys2Proof.Machine.execEventWrite r s
  | .interruptTimer r => Sys2Proof.Machine.execInterruptTimer r s
  | .msixUnmask v => Sys2Proof.Machine.execMsixUnmask v s
  | .ringEnable => Sys2Proof.Machine.execRingEnable s
  | .ringDisableDrain => Sys2Proof.Machine.execRingDisableDrain s
  | .ringDisableAbort => Sys2Proof.Machine.execRingDisableAbort s
  | .ringDisableComplete r => Sys2Proof.Machine.execRingDisableComplete r s
  | .ringConfigWrite off v => Sys2Proof.Machine.execRingConfigWrite off v s
  | .bmeClear => Sys2Proof.Machine.execBmeClear s
  | .bmeSet => Sys2Proof.Machine.execBmeSet s
  | .functionLevelReset => Sys2Proof.Machine.execFunctionLevelReset s
  | .cxlReset => Sys2Proof.Machine.execCxlReset s
  | .hostResetComplete => Sys2Proof.Machine.execHostResetComplete s
  | .hostLinkLoss => Sys2Proof.Machine.execHostLinkLoss s
  | .hostLinkRestore => Sys2Proof.Machine.execHostLinkRestore s
  | .perstAssert => Sys2Proof.Machine.execPerstAssert s
  | .perstRelease => Sys2Proof.Machine.execPerstRelease s
  | .lostAdd coord => Sys2Proof.Machine.execLostAdd coord s
  | .lostRemove coord => Sys2Proof.Machine.execLostRemove coord s
  | .lostClear => Sys2Proof.Machine.execLostClear s
  | .unload => Sys2Proof.Machine.execUnload s
  | .reseed => Sys2Proof.Machine.execReseed s
  | .cancel => Sys2Proof.Machine.execCancel s
  | .depConfigWrite off v => Sys2Proof.Machine.execDepConfigWrite off v s
  | .digestDeferredStart => Sys2Proof.Machine.execDigestDeferredStart s
  | .primaryDigestDone => Sys2Proof.Machine.execPrimaryDigestDone s
  | .mirrorDigestDone => Sys2Proof.Machine.execMirrorDigestDone s
  | .digestPacket q => Sys2Proof.Machine.execDigestPacket q s
  | .verdictPacket q => Sys2Proof.Machine.execVerdictPacket q s
  | .digestTimeout => Sys2Proof.Machine.execDigestTimeout s
  | .lineRequest q => Sys2Proof.Machine.execLineRequest q s
  | .linesPacket q => Sys2Proof.Machine.execLinesPacket q s
  | .directListPacket q => Sys2Proof.Machine.execDirectListPacket q s
  | .doneReconciliation q => Sys2Proof.Machine.execDoneReconciliation q s
  | .doneUnload q => Sys2Proof.Machine.execDoneUnload q s
  | .doneReseed q => Sys2Proof.Machine.execDoneReseed q s
  | .receiveDigestDone => Sys2Proof.Machine.execReceiveDigestDone s
  | .unloadTimeout => Sys2Proof.Machine.execUnloadTimeout s
  | .clockLoss die => Sys2Proof.Machine.execClockLoss die s
  | .logWrite => Sys2Proof.Machine.execLogWrite s
  | .watchdogRestart => Sys2Proof.Machine.execWatchdogRestart s
  | .watchdogExpire exchange => Sys2Proof.Machine.execWatchdogExpire exchange s
  | .stewardRestartDone => Sys2Proof.Machine.execStewardRestartDone s
  | .powerStageFrame j readings fault => Sys2Proof.Machine.execPowerStageFrame j readings fault s
  | .powerStageTimeout j rail => Sys2Proof.Machine.execPowerStageTimeout j rail s
  | .ledgerTick temps => Sys2Proof.Machine.execLedgerTick temps s
  | .gyleEnd => Sys2Proof.Machine.execGyleEnd s
  | .throttleEpisodeEnd r => Sys2Proof.Machine.execThrottleEpisodeEnd r s
  | .admissionGrant cd => Sys2Proof.Machine.execAdmissionGrant cd s
  | .railHardLimit k rail => Sys2Proof.Machine.execRailHardLimit k rail s
  | .droopDetect cd => Sys2Proof.Machine.execDroopDetect cd s
  | .droopRecover cd => Sys2Proof.Machine.execDroopRecover cd s
  | .spreadHoldExpire cd => Sys2Proof.Machine.execSpreadHoldExpire cd s
  | .ageingCheck cd slack => Sys2Proof.Machine.execAgeingCheck cd slack s
  | .brakeAssert land => Sys2Proof.Machine.execBrakeAssert land s
  | .brakeRelease => Sys2Proof.Machine.execBrakeRelease s
  | .thermalCapStep k => Sys2Proof.Machine.execThermalCapStep k s
  | .thermalTrip cls celsius => Sys2Proof.Machine.execThermalTrip cls celsius s
  | .refclkLoss clk => Sys2Proof.Machine.execRefclkLoss clk s
  | .inputOutOfRange => Sys2Proof.Machine.execInputOutOfRange s
  | .loadEst => Sys2Proof.Machine.execLoadEst s
  | .powerOn board => Sys2Proof.Machine.execPowerOn board s
  | .coldReset => Sys2Proof.Machine.execColdReset s
  | .sysResetRelease board => Sys2Proof.Machine.execSysResetRelease board s
  | .wearRecordWrite => Sys2Proof.Machine.execWearRecordWrite s
  | .serviceHours => Sys2Proof.Machine.execServiceHours s
  | .getCertificates req => Sys2Proof.Machine.execGetCertificates req s
  | .measure req => Sys2Proof.Machine.execMeasure req s
  | .extend req => Sys2Proof.Machine.execExtend req s
  | .doeAbort => Sys2Proof.Machine.execDoeAbort s
  | .flitReadRequest die dir bundle flit => Sys2Proof.Machine.execFlitReadRequest die dir bundle flit s
  | .flitWriteRequest die dir bundle flit line => Sys2Proof.Machine.execFlitWriteRequest die dir bundle flit line s
  | .flitAtomicRequest die dir bundle flit => Sys2Proof.Machine.execFlitAtomicRequest die dir bundle flit s
  | .flitLine die dir bundle flit => Sys2Proof.Machine.execFlitLine die dir bundle flit s
  | .flitCompletion die dir bundle flit => Sys2Proof.Machine.execFlitCompletion die dir bundle flit s
  | .flitSlotPart die dir bundle flit => Sys2Proof.Machine.execFlitSlotPart die dir bundle flit s
  | .flitAck die dir bundle n flit => Sys2Proof.Machine.execFlitAck die dir bundle n flit s
  | .spareBundleTestEnd die dir bundle ok => Sys2Proof.Machine.execSpareBundleTestEnd die dir bundle ok s
  | .mgmtFrame die kind body crc => Sys2Proof.Machine.execMgmtFrame die kind body crc s
  | .selectionEchoTimeout die => Sys2Proof.Machine.execSelectionEchoTimeout die s
  | .tapInstruction code => Sys2Proof.Machine.execTapInstruction code s
  | .bmReadBootStatus => Sys2Proof.Machine.execBmReadBootStatus s
  | .bmReadEngStatus => Sys2Proof.Machine.execBmReadEngStatus s
  | .bmReadEngGrant => Sys2Proof.Machine.execBmReadEngGrant s
  | .bmWriteEngGrant v => Sys2Proof.Machine.execBmWriteEngGrant v s
  | .bmReadEngTempMax => Sys2Proof.Machine.execBmReadEngTempMax s
  | .bmReadEngQpower k => Sys2Proof.Machine.execBmReadEngQpower k s
  | .bmReadEngEnergyLo => Sys2Proof.Machine.execBmReadEngEnergyLo s
  | .bmReadEngEnergyHi => Sys2Proof.Machine.execBmReadEngEnergyHi s
  | .bmReadDepStatus => Sys2Proof.Machine.execBmReadDepStatus s
  | .bmReadDevId => Sys2Proof.Machine.execBmReadDevId s
  | .bmReadBmStatus => Sys2Proof.Machine.execBmReadBmStatus s
  | .bmClearStatus v => Sys2Proof.Machine.execBmClearStatus v s
  | .bmReadBmAlertEn => Sys2Proof.Machine.execBmReadBmAlertEn s
  | .bmWriteBmAlertEn v => Sys2Proof.Machine.execBmWriteBmAlertEn v s
  | .bmAlertResponse => Sys2Proof.Machine.execBmAlertResponse s
  | .counterLoRead energy => Sys2Proof.Machine.execCounterLoRead energy s
  | .registerWrite off v => Sys2Proof.Machine.execRegisterWrite off v s
  | .reservedCodeInstruction cd w => Sys2Proof.Machine.execReservedCodeInstruction cd w s
  | .computeDieReset cd => Sys2Proof.Machine.execComputeDieReset cd s
  | .referenceClockValid clk => Sys2Proof.Machine.execReferenceClockValid clk s
  | .slotClockLocked => Sys2Proof.Machine.execSlotClockLocked s
  | .cxlLinkTrainingDone width rate cache mem => Sys2Proof.Machine.execCxlLinkTrainingDone width rate cache mem s
  | .doeDiscovery index => Sys2Proof.Machine.execDoeDiscovery index s
  | .cdatRead => Sys2Proof.Machine.execCdatRead s
  | .reservedAttestationCode code => Sys2Proof.Machine.execReservedAttestationCode code s
  | .bmNack pec => Sys2Proof.Machine.execBmNack pec s
  | .flitCrcFailure die dir bundle flit => Sys2Proof.Machine.execFlitCrcFailure die dir bundle flit s
  | .inputBelow30V => Sys2Proof.Machine.execInputBelow30V s
  | .pwrBrakeNRelease land => Sys2Proof.Machine.execPwrBrakeNRelease land s

end Sys2Proof.Machine
end

