-- ==== Sys2Proof/Machine/Tick.lean ====
section
/-! DEFINITION. What passes with time alone: waiting reads and writes at their homes, device time, core clock counts, the
time to ready and the waits at admission (R152, R216, R422, R465, R503). -/

namespace Sys2Proof.Machine

/-- One nanosecond: DEV_TIME from the start of step 7 of start-up (R503), BOOT_TIME's count, one nominal core clock on each
die, counted for the program of a running sequencer, and the gyle's clocks with those in which a sequencer held an
instruction at admission: for credit, in a held quadrant or under the brake (R409, R416, R422, R432; log entry 8). Waiting reads and writes that nothing holds any more are performed, in order of
arrival (log entry 50). An unpowered package stays as it is. -/
def idleTick (s : State) : State :=
  if s.boot.powered = false then s
  else
    let s := s.homeDrain s.homeQ.length
    let wait (i : Fin 12) : Bool := (s.die i).stall == .admission && decide (s.led.credit[i] < 0)
    let hold (i : Fin 12) : Bool := (s.die i).stall == .admission
      && (decide (s.led.credit[i] < 0) || s.led.held[i.val / 3]'(by omega) || (s.led.brake && !(s.die i).spreadHold))
    { s with
      time := if 7 ≤ s.boot.step then s.time + 1 else s.time
      boot := { s.boot with elapsed := s.boot.elapsed + 1 }
      led := { s.led with
        span := s.led.span + 1
        waits := Vector.ofFn (fun i => s.led.waits[i] + (if hold i then 1 else 0))
        waited := s.led.waited || (List.finRange 12).any wait }
      dies := s.dies.map (fun d =>
        { d with clkUp := d.clkUp + 1, clk := if d.mode = .running then d.clk + 1 else d.clk }) }

end Sys2Proof.Machine
end

