-- ==== Sys2Proof/Safety.lean ====
section
/-! DEFINITION. What a good state is, as the statements say it: memory in canonical form, p0 true on every die; and what a step that runs is. -/

namespace Sys2Proof.Safety

open Sys2Proof.Machine

/-- Memory in canonical form: home locations strictly rising, no byte equal to what an unlisted location reads as. -/
def MemCanonical (s : State) : Prop := Memory.wf s.mem = true

/-- p0 reads 1 on every die (R146). -/
def P0True (s : State) : Prop := ∀ cd : Cd, (s.die cd).p[0] = true

/-- A step that runs: it answers a next state. -/
def Runs (s : State) : Prop := ∃ t, step s = .next t

end Sys2Proof.Safety
end

