-- ==== Sys2Proof/Certificates/Slice0/Obligations.lean ====
section
/-! DEFINITION. The statements for the provers. Each is about the model's own exec, step or functions; hypotheses are on
the state and the operands alone, and what a command completes with is stated as the state that exec answers. -/

open Sys2Proof Sys2Proof.Machine Sys2Proof.Safety

namespace Sys2Proof.Claims

/-- The command answers the state t. -/
abbrev Gives (i : Instr) (s t : State) : Prop := exec i s = .next t

/-- The word is the next instruction of a running sequencer that nothing stalls, it holds no reserved code, it has the
class and the operation, and its guard lets it execute (R148–R150, R176). -/
def Ready (s : State) (cd : Cd) (w : IWord) (cls op : Nat) : Prop :=
  (s.die cd).issues w cls op = true ∧ (s.die cd).guardOn w.toNat = true

/-- A die replaced and its program counter at the next instruction: nothing else changes. -/
abbrev andOn (s : State) (cd : Cd) (d : Die) : State := s.setDie cd { d with pc := d.pc + 16 }

/-- Scalar operations with two operands and a result in s[rd] (Table 5-6): command, op, result. -/
def aluRows : List ((Cd → IWord → Instr) × Nat × (Word → Word → Word)) :=
  [(.add, 0x01, fun a t => a + t), (.sub, 0x02, fun a t => a - t), (.mul, 0x03, fun a t => a * t),
   (.and, 0x04, fun a t => a &&& t), (.or, 0x05, fun a t => a ||| t), (.xor, 0x06, fun a t => a ^^^ t),
   (.shl, 0x07, fun a t => a <<< (t.toNat % 32)), (.shr, 0x08, fun a t => a >>> (t.toNat % 32)),
   (.sra, 0x09, fun a t => BitVec.ofInt 32 (a.toInt / 2 ^ (t.toNat % 32))),
   (.fadd, 0x0B, f32Op (vAdd .nearest)), (.fmul, 0x0C, f32Op vMul)]

/-- Comparisons (Table 5-6): command, op, the predicate's new value. -/
def cmpRows : List ((Cd → IWord → Instr) × Nat × (Word → Word → Bool)) :=
  [(.cmpEq, 0x10, fun a t => decide (a = t)), (.cmpNe, 0x11, fun a t => decide (a ≠ t)),
   (.cmpLt, 0x12, fun a t => decide (a.toInt < t.toInt)), (.cmpGe, 0x13, fun a t => decide (t.toInt ≤ a.toInt)),
   (.cmpLtu, 0x14, fun a t => decide (a.toNat < t.toNat)), (.fcmpLt, 0x15, fcmpLt), (.fcmpGe, 0x16, fcmpGe)]

/-- Operations on predicates (Table 5-6): command, op, the predicate's new value from p[rs1] and p[rs2]. -/
def predRows : List ((Cd → IWord → Instr) × Nat × (Bool → Bool → Bool)) :=
  [(.pand, 0x18, fun a b => a && b), (.por, 0x19, fun a b => a || b), (.pnot, 0x1A, fun a _ => !a)]

/-- p0 keeps its 1, another predicate takes the value (R146). -/
def predAfter (d : Die) (rd : Nat) (v : Bool) : Die :=
  if h : 0 < rd ∧ rd < 8 then { d with p := d.p.set rd v h.2 } else d

/-- An s register, a register or counter by its index (R146, R152). -/
abbrev sReg (d : Die) (i : Nat) : Word := d.getS i
abbrev aReg (d : Die) (i : Nat) : Addr := d.getA i

end Sys2Proof.Claims

open Sys2Proof.Claims

/-- R152 with Table 5-6: arithmetic, logic, shifts and F32 operations. s[rd] takes the result of s[rs1] and t, the next
instruction follows, and nothing else of the machine changes. -/
def Sys2Proof.Claims.ScalarArithmeticResult : Prop :=
  ∀ r ∈ aluRows, ∀ (cd : Cd) (w : IWord) (s : State), Ready s cd w 0 r.2.1 →
    Gives (r.1 cd w) s (andOn s cd ((s.die cd).setS (iRd w.toNat)
      (r.2.2 (sReg (s.die cd) (iRs1 w.toNat)) ((s.die cd).opT w.toNat))))

/-- R152 with Table 5-6 and R146: comparisons write p[rd]; a comparison that names p0 leaves it 1 and goes on; nothing
else changes. The operations on predicates likewise. -/
def Sys2Proof.Claims.ScalarPredicateResult : Prop :=
  (∀ r ∈ cmpRows, ∀ (cd : Cd) (w : IWord) (s : State), Ready s cd w 0 r.2.1 →
    Gives (r.1 cd w) s (andOn s cd (predAfter (s.die cd) (iRd w.toNat)
      (r.2.2 (sReg (s.die cd) (iRs1 w.toNat)) ((s.die cd).opT w.toNat))))) ∧
  (∀ r ∈ predRows, ∀ (cd : Cd) (w : IWord) (s : State), Ready s cd w 0 r.2.1 →
    Gives (r.1 cd w) s (andOn s cd (predAfter (s.die cd) (iRd w.toNat)
      (r.2.2 ((s.die cd).getP (iRs1 w.toNat)) ((s.die cd).getP (iRs2 w.toNat))))))

/-- R152 with Table 5-6: immediates, addresses, conversions, counters read, the die's own identity and its clock; nop.
Each writes the one register it names and goes on; nothing else changes. -/
def Sys2Proof.Claims.ScalarMoveResult : Prop :=
  ∀ (cd : Cd) (w : IWord) (s : State),
    (Ready s cd w 0 0x00 → Gives (.nop cd w) s (andOn s cd (s.die cd))) ∧
    (Ready s cd w 0 0x0A →
      Gives (.li cd w) s (andOn s cd ((s.die cd).setS (iRd w.toNat) (w.extractLsb' 32 32)))) ∧
    (Ready s cd w 0 0x0D →
      Gives (.itof cd w) s (andOn s cd ((s.die cd).setS (iRd w.toNat) (itofW (sReg (s.die cd) (iRs1 w.toNat)))))) ∧
    (Ready s cd w 0 0x0E →
      Gives (.ftoi cd w) s (andOn s cd ((s.die cd).setS (iRd w.toNat) (ftoiW (sReg (s.die cd) (iRs1 w.toNat)))))) ∧
    (Ready s cd w 0 0x20 →
      Gives (.ali cd w) s (andOn s cd ((s.die cd).setA (iRd w.toNat) (w.extractLsb' 32 48)))) ∧
    (Ready s cd w 0 0x21 →
      Gives (.aadd cd w) s (andOn s cd ((s.die cd).setA (iRd w.toNat)
        (aReg (s.die cd) (iRs1 w.toNat) + ((s.die cd).opT w.toNat).signExtend 48)))) ∧
    (Ready s cd w 0 0x2A →
      Gives (.cntrd cd w) s (andOn s cd ((s.die cd).setS (iRd w.toNat) ((s.die cd).getC (fld w.toNat 32 4)).count))) ∧
    (Ready s cd w 0 0x2B →
      Gives (.cnterr cd w) s (andOn s cd ((s.die cd).setS (iRd w.toNat) ((s.die cd).getC (fld w.toNat 32 4)).err))) ∧
    (Ready s cd w 0 0x2D →
      Gives (.whoami cd w) s (andOn s cd ((s.die cd).setS (iRd w.toNat)
        (BitVec.ofNat 32 (s.selfCoord + cd.val * 2 ^ 20))))) ∧
    (Ready s cd w 0 0x2E →
      Gives (.clock cd w) s (andOn s cd ((s.die cd).setS (iRd w.toNat) (BitVec.ofNat 32 (s.die cd).clk))))

/-- R146 and R152 with Table 5-6: what scalar instructions compute. -/
def Obligations.ScalarComputes : Prop := ScalarArithmeticResult ∧ ScalarPredicateResult ∧ ScalarMoveResult

/-- R153, R342 and R343: ld, st, ald and ast stall issue on the access at a[rs1] + imm32 sign-extended, modulo 2^48. The
windows in force give an address that is not mapped its host bus address, of which a load raises a read where the host takes
requests. Nothing else changes, but that an access of a tile arrives at the tile's scoreboard. -/
def Sys2Proof.Claims.ScalarAccessStalls : Prop :=
  ∀ (cd : Cd) (w : IWord) (s : State) (r : (Cd → IWord → Instr) × Nat),
    r ∈ [(Instr.ald, 0x22), (.ast, 0x23), (.ld, 0x24), (.st, 0x25)] → Ready s cd w 0 r.2 →
    let a := (aReg (s.die cd) (iRs1 w.toNat) + (w.extractLsb' 32 32).signExtend 48).toNat
    let stalled (h : Option Nat) : State := s.setDie cd { s.die cd with stall := .access r.2 (iRd w.toNat) a h }
    (s.mapped a = true → tileOf a = none → Gives (r.1 cd w) s (stalled none)) ∧
    (s.mapped a = true → tileOf a ≠ none → ∃ t, Gives (r.1 cd w) s t ∧ (t.die cd).stall = .access r.2 (iRd w.toNat) a none ∧
      (t.die cd).pc = (s.die cd).pc ∧ t.sbHas (whoAccess cd.val) = true ∧ t.mem = s.mem ∧ t.out = s.out) ∧
    (s.mapped a = false → s.hostAddr a = none → tileOf a = none → Gives (r.1 cd w) s (stalled none)) ∧
    (∀ h, s.mapped a = false → s.hostAddr a = some h →
      Gives (r.1 cd w) s (if (r.2 = 0x22 ∨ r.2 = 0x24) ∧ s.hostOpen = true then
        (stalled (some h)).emit (.hostRead 2 h (if r.2 = 0x22 then 8 else 4)) else stalled (some h)))

/-- The lines of an access wait for nothing at their homes and it has its tile, if any (R197, R206, R210). -/
def Sys2Proof.Claims.AccessFree (s : State) (cd : Cd) (a : Nat) : Prop :=
  s.lineHeld a = false ∧ s.sbHeld (whoAccess cd.val) = true

/-- R153: when the access completes, a load writes its register with the little-endian word read, of memory or as the host
returned it, and goes on. A store writes the bytes of its register, lowest address first, to memory and to no other byte of
it, or to the host. The tile it had is released. A held access waits. -/
def Sys2Proof.Claims.ScalarAccessResult : Prop :=
  ∀ (cd : Cd) (s : State) (rd a : Nat) (h : Option Nat) (got : HostData) (hostOk : Bool),
    let host := hostGot hostOk got
    let u := s.sbDrop (whoAccess cd.val)
    let go (d : Die) : State := u.setDie cd { d with pc := d.pc + 16, stall := .none }
    let word (n : Nat) : Nat := if s.mapped a then s.num a n else s.hNum host a n
    (∀ op, (s.die cd).stall = .access op rd a h → ¬AccessFree s cd a → Gives (.scalarAccessComplete cd got hostOk) s s) ∧
    (AccessFree s cd a →
      ((s.die cd).stall = .access 0x24 rd a h → s.accessFails a 4 h = false → s.hOk host a 4 = true →
        Gives (.scalarAccessComplete cd got hostOk) s (go ((u.die cd).setS rd (BitVec.ofNat 32 (word 4))))) ∧
      ((s.die cd).stall = .access 0x22 rd a h → s.accessFails a 8 h = false → s.hOk host a 8 = true →
        Gives (.scalarAccessComplete cd got hostOk) s (go ((u.die cd).setA rd (BitVec.ofNat 48 (word 8))))) ∧
      ((s.die cd).stall = .access 0x25 rd a h → s.accessFails a 4 h = false → s.mapped a = true →
        ∃ t, Gives (.scalarAccessComplete cd got hostOk) s t ∧ t.dies = (go (u.die cd)).dies ∧ t.poison = s.poison ∧
          t.regs = s.regs ∧ t.num a 4 = ((s.die cd).getS rd).toNat ∧ ∀ x, (x < a ∨ a + 4 ≤ x) → t.byte x = s.byte x) ∧
      ((s.die cd).stall = .access 0x23 rd a h → s.accessFails a 8 h = false → s.mapped a = true →
        ∃ t, Gives (.scalarAccessComplete cd got hostOk) s t ∧ t.dies = (go (u.die cd)).dies ∧ t.poison = s.poison ∧
          t.regs = s.regs ∧ t.num a 8 = ((s.die cd).getA rd).toNat ∧ ∀ x, (x < a ∨ a + 8 ≤ x) → t.byte x = s.byte x) ∧
      (∀ b, h = some b → s.mapped a = false →
        ((s.die cd).stall = .access 0x25 rd a h → s.accessFails a 4 h = false →
          Gives (.scalarAccessComplete cd got hostOk) s
            ((go (u.die cd)).emit (.hostWrite b (natLE 4 ((s.die cd).getS rd).toNat)))) ∧
        ((s.die cd).stall = .access 0x23 rd a h → s.accessFails a 8 h = false →
          Gives (.scalarAccessComplete cd got hostOk) s
            ((go (u.die cd)).emit (.hostWrite b (natLE 8 ((s.die cd).getA rd).toNat))))))

/-- R153: a scalar access that is misaligned, or that meets a poisoned line, an unmapped address, a host window that takes no
request or the window of a fenced die, and a load whose host read failed, faults a running sequencer with code 8 at its own
address; no register is written and no byte is stored. -/
def Sys2Proof.Claims.ScalarAccessFaults : Prop :=
  ∀ (cd : Cd) (s : State) (op rd a : Nat) (h : Option Nat) (got : HostData) (hostOk : Bool),
    let host := hostGot hostOk got
    let n := if op = 0x22 ∨ op = 0x23 then 8 else 4
    (s.die cd).mode = .running → (s.die cd).fault = 0 → (s.die cd).stall = .access op rd a h → AccessFree s cd a →
    s.accessFails a n h = true ∨ (op = 0x22 ∨ op = 0x24) ∧ s.hOk host a n = false →
    Gives (.scalarAccessComplete cd got hostOk) s ((s.sbDrop (whoAccess cd.val)).setDie cd
      { (s.sbDrop (whoAccess cd.val)).die cd with
        fault := 8, faultPc := BitVec.ofNat 48 (s.die cd).pc.toNat, stall := .none,
        faultInfo := BitVec.ofNat 32 (op * 16) })

/-- R153 and R154: scalar loads and stores, and where they fault. -/
def Obligations.ScalarAccess : Prop := ScalarAccessStalls ∧ ScalarAccessResult ∧ ScalarAccessFaults

/-- R174, R141 and R167: sumrd, sumpred and cntset act at once where no issued instruction names their slot or counter, and
stall otherwise; a stall ends, with the same effect, once none does. -/
def Obligations.SummaryAndCounterWaits : Prop :=
  ∀ (cd : Cd) (w : IWord) (s : State),
    (let u := fld w.toNat 32 4; let sl := fld w.toNat 36 3; let sel := fld w.toNat 39 3
     (Ready s cd w 0 0x28 → (s.die cd).slotBusy u sl = false →
      Gives (.sumrd cd w) s (andOn s cd ((s.die cd).setS (iRd w.toNat) (sumWord ((s.die cd).slot u sl) sel)))) ∧
     (Ready s cd w 0 0x28 → (s.die cd).slotBusy u sl = true →
      Gives (.sumrd cd w) s (s.setDie cd { s.die cd with stall := .sumrd (iRd w.toNat) u sl sel })) ∧
     (Ready s cd w 0 0x29 → (s.die cd).slotBusy u sl = false →
      Gives (.sumpred cd w) s (andOn s cd (predAfter (s.die cd) (iRd w.toNat)
        (sumSelect ((s.die cd).slot u sl) sel)))) ∧
     (Ready s cd w 0 0x29 → (s.die cd).slotBusy u sl = true →
      Gives (.sumpred cd w) s (s.setDie cd { s.die cd with stall := .sumpred (iRd w.toNat) u sl sel }))) ∧
    (Ready s cd w 0 0x2C → (∀ o ∈ (s.die cd).ops, o.ctr ≠ some (iRd w.toNat)) →
      Gives (.cntset cd w) s (andOn s cd ((s.die cd).setC (iRd w.toNat) ⟨(s.die cd).opT w.toNat, 0⟩))) ∧
    (Ready s cd w 0 0x2C → (∃ o ∈ (s.die cd).ops, o.ctr = some (iRd w.toNat)) →
      Gives (.cntset cd w) s (s.setDie cd { s.die cd with
        stall := .cntset (iRd w.toNat) ((s.die cd).opT w.toNat).toNat })) ∧
    (∀ rd u sl sel, (s.die cd).stall = .sumrd rd u sl sel → (s.die cd).slotBusy u sl = false →
      Gives (.seqStallEnd cd) s (s.setDie cd { (s.die cd).setS rd (sumWord ((s.die cd).slot u sl) sel) with
        pc := (s.die cd).pc + 16, stall := .none })) ∧
    (∀ c t, (s.die cd).stall = .cntset c t → (∀ o ∈ (s.die cd).ops, o.ctr ≠ some c) →
      Gives (.seqStallEnd cd) s (s.setDie cd { (s.die cd).setC c ⟨BitVec.ofNat 32 t, 0⟩ with
        pc := (s.die cd).pc + 16, stall := .none }))

/-- R154 with Table 5-7: br, call and loop go to their own address + 16 × the signed offset; call leaves the address after
itself in a15; loop decrements and falls through at zero; jr goes to a register that is a multiple of 16 and faults with
code 2 otherwise; halt ends issue (R183); another op faults with code 1. Nothing else changes. -/
def Obligations.BranchTargets : Prop :=
  ∀ (cd : Cd) (w : IWord) (s : State),
    let d := s.die cd
    let target : Addr := d.pc + (w.extractLsb' 16 32).signExtend 48 * 16
    (Ready s cd w 1 0 → Gives (.br cd w) s (s.setDie cd { d with pc := target })) ∧
    (Ready s cd w 1 1 → Gives (.call cd w) s (s.setDie cd { d.setA 15 (d.pc + 16) with pc := target })) ∧
    (Ready s cd w 1 2 → (aReg d (fld w.toNat 48 5)).toNat % 16 = 0 →
      Gives (.jr cd w) s (s.setDie cd { d with pc := aReg d (fld w.toNat 48 5) })) ∧
    (Ready s cd w 1 2 → (aReg d (fld w.toNat 48 5)).toNat % 16 ≠ 0 →
      Gives (.jr cd w) s (s.setDie cd { d with
        fault := 2, faultPc := d.pc, stall := .none, faultInfo := BitVec.ofNat 32 (1 + 2 * 16) })) ∧
    (Ready s cd w 1 3 → sReg d (fld w.toNat 48 5) ≠ 1 →
      Gives (.loop cd w) s (s.setDie cd { d.setS (fld w.toNat 48 5) (sReg d (fld w.toNat 48 5) - 1) with pc := target })) ∧
    (Ready s cd w 1 3 → sReg d (fld w.toNat 48 5) = 1 →
      Gives (.loop cd w) s (andOn s cd (d.setS (fld w.toNat 48 5) 0))) ∧
    (Ready s cd w 1 4 → Gives (.halt cd w) s (s.setDie cd { d with stall := .halt d.pc.toNat })) ∧
    (d.canIssue w = true → iCls w.toNat = 1 → 5 ≤ iOp w.toNat →
      Gives (.reservedCodeInstruction cd w) s (s.setDie cd { d with
        fault := 1, faultPc := d.pc, stall := .none, faultInfo := BitVec.ofNat 32 (1 + iOp w.toNat * 16) }))

namespace Sys2Proof.Claims

/-- A held completion entry spells Table 10-8 for a command: tag, ring, opcode, status, index, source and the two result
words. -/
def IsCompletion (e : Entry) (c : Cmd) (src status x1 x2 : Nat) : Prop :=
  e.src = src ∧ e.ring = some c.cring ∧ e.isEvt = false ∧ e.bytes.length = 64 ∧
  fieldB e.bytes 0 4 = fieldB c.bytes 4 4 ∧ fieldB e.bytes 4 2 = c.ring % 2 ^ 16 ∧
  fieldB e.bytes 6 1 = fieldB c.bytes 0 1 ∧ fieldB e.bytes 7 1 = status % 2 ^ 8 ∧ fieldB e.bytes 8 4 = c.idx % 2 ^ 32 ∧
  fieldB e.bytes 16 1 = src % 2 ^ 8 ∧ fieldB e.bytes 20 8 = x1 % 2 ^ 64 ∧ fieldB e.bytes 28 8 = x2 % 2 ^ 64

/-- A held event entry spells Table 10-11: type, source, device time; it goes to the default event ring. -/
def IsEvent (e : Entry) (ty src time : Nat) : Prop :=
  e.src = src ∧ e.ring = none ∧ e.isEvt = true ∧ e.bytes.length = 64 ∧
  fieldB e.bytes 0 2 = ty % 2 ^ 16 ∧ fieldB e.bytes 2 1 = src % 2 ^ 8 ∧ fieldB e.bytes 8 8 = time % 2 ^ 64

/-- The word of a sequencer's fault information (R187): class, op, unit, status. -/
def faultWord (cls op unit status : Nat) : Word := BitVec.ofNat 32 (cls + op * 16 + unit * 2 ^ 12 + status * 2 ^ 16)

/-- A die stopped by a fault at its program counter. -/
abbrev faulted (d : Die) (code cls op unit status : Nat) : Die :=
  { d with fault := code, faultPc := BitVec.ofNat 48 d.pc.toNat, stall := .none, faultInfo := faultWord cls op unit status }

/-- The commands of tile instructions, of Sparge instructions, of movement and of helper instructions, with their class and
operation (Tables 5-8, 4-2, 5-13, 5-14). -/
def tileRows : List ((Cd → IWord → Instr) × Nat × Nat) :=
  [(.loadCharge, 2, 0), (.pass, 2, 1), (.elementWisePass, 2, 2), (.tileAdd, 2, 3), (.tileZero, 2, 4)]
def vecRows : List ((Cd → IWord → Instr) × Nat × Nat) :=
  [(.spargeConv, 3, 0x00), (.spargeAdd, 3, 0x01), (.spargeSub, 3, 0x02), (.spargeMul, 3, 0x03), (.spargeFma, 3, 0x04),
   (.spargeMin, 3, 0x05), (.spargeMax, 3, 0x06), (.spargeAbs, 3, 0x07), (.spargeNeg, 3, 0x08), (.spargeClamp, 3, 0x09),
   (.spargeSelect, 3, 0x0A), (.spargeCmpGt, 3, 0x0B), (.spargeCmpGe, 3, 0x0C), (.spargeCmpEq, 3, 0x0D), (.iadd, 3, 0x10),
   (.isub, 3, 0x11), (.imul, 3, 0x12), (.iand, 3, 0x13), (.ior, 3, 0x14), (.ixor, 3, 0x15), (.ishl, 3, 0x16),
   (.ishr, 3, 0x17)]
def fnRows : List ((Cd → IWord → Instr) × Nat × Nat) :=
  [(.recip, 3, 0x20), (.div, 3, 0x21), (.sqrt, 3, 0x22), (.rsqrt, 3, 0x23), (.exp, 3, 0x24), (.exp2, 3, 0x25),
   (.log, 3, 0x26), (.log2, 3, 0x27), (.tanh, 3, 0x28), (.sigmoid, 3, 0x29), (.erf, 3, 0x2A), (.sin, 3, 0x2B),
   (.cos, 3, 0x2C), (.rowSum, 3, 0x30), (.rowMax, 3, 0x31), (.rowMin, 3, 0x32), (.colSum, 3, 0x33), (.colMax, 3, 0x34),
   (.s64Add, 3, 0x35)]
def moveRows : List ((Cd → IWord → Instr) × Nat × Nat) := [(.copy, 4, 0), (.put, 4, 1), (.get, 4, 2)]
def helperRows : List ((Cd → IWord → Instr) × Nat × Nat) :=
  [(.helperDma, 6, 0), (.helperCollective, 6, 1), (.helperGrist, 6, 2)]
def scalarRows : List ((Cd → IWord → Instr) × Nat × Nat) :=
  aluRows.map (fun r => (r.1, 0, r.2.1)) ++ cmpRows.map (fun r => (r.1, 0, r.2.1)) ++ predRows.map (fun r => (r.1, 0, r.2.1))
  ++ [(.nop, 0, 0x00), (.li, 0, 0x0A), (.itof, 0, 0x0D), (.ftoi, 0, 0x0E), (.ali, 0, 0x20), (.aadd, 0, 0x21),
      (.ald, 0, 0x22), (.ast, 0, 0x23), (.ld, 0, 0x24), (.st, 0, 0x25), (.sumrd, 0, 0x28), (.sumpred, 0, 0x29),
      (.cntrd, 0, 0x2A), (.cnterr, 0, 0x2B), (.cntset, 0, 0x2C), (.whoami, 0, 0x2D), (.clock, 0, 0x2E)]
def controlRows : List ((Cd → IWord → Instr) × Nat × Nat) :=
  [(.br, 1, 0), (.call, 1, 1), (.jr, 1, 2), (.loop, 1, 3), (.halt, 1, 4), (.waitCnt, 5, 0), (.flagAdd, 5, 1),
   (.flagWait, 5, 2), (.semAcq, 5, 3), (.semRel, 5, 4), (.fence, 5, 5), (.post, 5, 6)]

/-- Every sequencer instruction. -/
def seqRows : List ((Cd → IWord → Instr) × Nat × Nat) :=
  scalarRows ++ controlRows ++ tileRows ++ vecRows ++ fnRows ++ moveRows ++ helperRows

/-- Die numbers of the sequencer's issue record for a unit instruction: what Table 5-1 and R147 say an issued instruction
keeps. -/
def IssuedAs (o : Op) (d : Die) (w : IWord) (cls op : Nat) : Prop :=
  o.id = d.nextId ∧ o.cls = cls ∧ o.code = op ∧ o.ctr = some (fld w.toNat 16 4) ∧ o.pc = d.pc.toNat ∧ o.w = w.toNat ∧
  o.st = .queued ∧ o.row = 0 ∧ o.status = 0

end Sys2Proof.Claims

open Sys2Proof.Claims

/-- R149: an instruction that passes the sequencer's decode but whose guard is off takes its issue and changes nothing: the
next state differs in the die's program counter alone. It holds for every sequencer instruction of the table. -/
def Obligations.GuardedOffChangesNothing : Prop :=
  ∀ r ∈ seqRows, ∀ (cd : Cd) (w : IWord) (s : State),
    (s.die cd).issues w r.2.1 r.2.2 = true → (s.die cd).guardOn w.toNat = false →
    Gives (r.1 cd w) s (andOn s cd (s.die cd))

/-- R149, R150, R176, R183, R185 and R184: a reserved code faults with code 1 whatever the guard; a missed instruction line
arrives with the bytes of memory, or faults with code 2; a halted, a faulted and a stopping sequencer with nothing in
flight leave to their states, and the completion of the start command says how the program ended: a stopping one that has
faulted as faulted (the model's reading, log entry 38). -/
def Obligations.ProgramLife : Prop :=
  ∀ (cd : Cd) (s : State),
    (∀ w : IWord, (s.die cd).canIssue w = true → seqReserved w.toNat = true →
      Gives (.reservedCodeInstruction cd w) s (s.setDie cd (faulted (s.die cd) 1 (iCls w.toNat) (iOp w.toNat) 0 0))) ∧
    ((s.die cd).mode = .running → (s.die cd).fault = 0 → (s.die cd).stall = .none → (s.die cd).instrAt = none →
      (s.die cd).pc.toNat % 16 = 0 → s.mapped (s.die cd).pc.toNat = true →
      s.poisoned (s.die cd).pc.toNat = false →
      ∃ t, Gives (.icacheFill cd) s t ∧ (t.die cd).instrAt = some (s.num (s.die cd).pc.toNat 16) ∧
        (t.die cd).pc = (s.die cd).pc ∧ t.mem = s.mem ∧ ∀ c : Cd, c ≠ cd → t.die c = s.die c) ∧
    ((s.die cd).mode = .running → (s.die cd).fault = 0 → (s.die cd).stall = .none → (s.die cd).instrAt = none →
      s.mapped ((s.die cd).pc.toNat / 64 * 64) = false →
      Gives (.icacheFill cd) s (s.setDie cd (faulted (s.die cd) 2 0 0 0 0))) ∧
    (∀ (pc : Nat) (c : Cmd), (s.die cd).mode = .running → (s.die cd).fault = 0 → (s.die cd).ops = [] →
      (s.die cd).stall = .halt pc → (s.die cd).startCmd = some c → s.host.resetting = 0 →
      ∃ t e, Gives (.haltComplete cd) s t ∧
        t.die cd = { s.die cd with mode := .idle, stall := .none, startCmd := none } ∧
        t.host.heldQ = s.host.heldQ ++ [e] ∧ IsCompletion e c (1 + cd.val) 0 0 pc ∧ t.mem = s.mem ∧ t.regs = s.regs) ∧
    (∀ c : Cmd, (s.die cd).mode = .running → (s.die cd).fault ≠ 0 → (s.die cd).ops = [] →
      (s.die cd).stall = .none → (s.die cd).startCmd = some c → s.host.resetting = 0 →
      ∃ t v e, Gives (.faultSettle cd) s t ∧ t.die cd = { s.die cd with mode := .faulted, startCmd := none } ∧
        t.host.heldQ = s.host.heldQ ++ [v, e] ∧ IsEvent v 0x0002 (1 + cd.val) s.time ∧
        t.out = .maltster 0x0002 v.bytes :: s.out ∧
        IsCompletion e c (1 + cd.val) 0 (1 + 256 * (s.die cd).fault) (s.die cd).faultPc.toNat ∧ t.mem = s.mem) ∧
    (∀ c c' : Cmd, (s.die cd).mode = .stopping → (s.die cd).ops = [] → (s.die cd).stall = .none →
      (s.die cd).startCmd = some c → (s.die cd).stopCmds = [c'] → s.host.resetting = 0 →
      ((s.die cd).fault = 0 → ∃ t e e', Gives (.stopComplete cd) s t ∧
        t.die cd = { s.die cd with mode := .idle, startCmd := none, stopCmds := [] } ∧
        t.host.heldQ = s.host.heldQ ++ [e, e'] ∧ IsCompletion e c (1 + cd.val) 0 2 0 ∧
        IsCompletion e' c' (1 + cd.val) 0 (s.die cd).dropped 0 ∧ t.mem = s.mem) ∧
      ((s.die cd).fault ≠ 0 → ∃ t v e e', Gives (.stopComplete cd) s t ∧
        t.die cd = { s.die cd with mode := .faulted, startCmd := none, stopCmds := [] } ∧
        t.host.heldQ = s.host.heldQ ++ [v, e, e'] ∧ IsEvent v 0x0002 (1 + cd.val) s.time ∧
        IsCompletion e c (1 + cd.val) 0 (1 + 256 * (s.die cd).fault) (s.die cd).faultPc.toNat ∧
        IsCompletion e' c' (1 + cd.val) 0 (s.die cd).dropped 0 ∧ t.mem = s.mem))

/-- R168 and Table 5-15, R170, R177: wait_cnt goes on once the count is at least the value, and stalls before; flag_wait
goes on once the word at a mapped multiple of 8 in memory meets its condition, stalls before and while its line waits at its
home, and is read again, faulting with code 8 on a bad address or a poisoned line; fence goes on once nothing is in flight; a stall that exceeds a non-zero SEQ_WAIT_LIMIT faults with code 6. Nothing else changes. -/
def Obligations.WaitInstructions : Prop :=
  ∀ (cd : Cd) (w : IWord) (s : State),
    let d := s.die cd
    let v := if w.getLsbD 31 then fld w.toNat 32 32 else (sReg d (fld w.toNat 21 5)).toNat
    let n := (d.getC (fld w.toNat 16 4)).count.toNat
    let a := (aReg d (fld w.toNat 20 4)).toNat
    let f := ((sReg d (fld w.toNat 24 5)).signExtend 64).toNat
    (Ready s cd w 5 0 → v ≤ n → Gives (.waitCnt cd w) s (andOn s cd d)) ∧
    (Ready s cd w 5 0 → n < v → Gives (.waitCnt cd w) s (s.setDie cd { d with stall := .waitCnt (fld w.toNat 16 4) v })) ∧
    (∀ c x, d.stall = .waitCnt c x → x ≤ (d.getC c).count.toNat →
      Gives (.seqStallEnd cd) s (s.setDie cd { d with pc := d.pc + 16, stall := .none })) ∧
    (Ready s cd w 5 2 → a % 8 = 0 → s.atomicHome a = true → s.lineHeld a = false → s.poisoned a = false →
      flagCond (fld w.toNat 29 3) (s.num a 8) f = true →
      Gives (.flagWait cd w) s (s.setDie cd { d with pc := d.pc + 16, stall := .none })) ∧
    (Ready s cd w 5 2 → a % 8 = 0 → s.atomicHome a = true → s.poisoned a = false →
      s.lineHeld a = true ∨ flagCond (fld w.toNat 29 3) (s.num a 8) f = false →
      Gives (.flagWait cd w) s (s.setDie cd { d with stall := .flagWait (fld w.toNat 29 3) a f })) ∧
    (Ready s cd w 5 2 → ¬(a % 8 = 0 ∧ s.atomicHome a = true) ∨ s.lineHeld a = false ∧ s.poisoned a = true →
      Gives (.flagWait cd w) s (s.setDie cd (faulted d 8 5 2 0 0))) ∧
    (∀ c x y, d.stall = .flagWait c x y → s.lineHeld x = false → s.poisoned x = false → flagCond c (s.num x 8) y = true →
      Gives (.flagWaitRecheck cd) s (s.setDie cd { d with pc := d.pc + 16, stall := .none })) ∧
    (Ready s cd w 5 5 → d.ops = [] → Gives (.fence cd w) s (andOn s cd d)) ∧
    (Ready s cd w 5 5 → d.ops ≠ [] → Gives (.fence cd w) s (s.setDie cd { d with stall := .fence })) ∧
    (∀ c x, d.mode = .running → d.fault = 0 → d.stall = .waitCnt c x → s.reg (0x10008 + 0x1000 * cd.val) ≠ 0 →
      ∃ i, Gives (.waitLimitExpire cd none) s (s.setDie cd { d with
        fault := 6, faultPc := BitVec.ofNat 48 d.pc.toNat, stall := .none, faultInfo := i }))

/-- R168, R169, R172 and R173: flag_add, sem_rel and post issue with a counter. On the local device an unordered flag_add
or sem_rel goes to its home as an atomic with the sign-extended value, in order of arrival; for a remote device it goes as an
atomic request packet; post holds an event for the named ring. A bad address faults with code 8, and with 64 of them
uncompleted issue stalls. An ordered one waits while an earlier instruction that names its counter is uncompleted, and takes effect when
ORDERED_RELEASE finds none. The counter itself does not rise at issue. -/
def Sys2Proof.Claims.FlagSemaphorePost : Prop :=
  ∀ (cd : Cd) (w : IWord) (s : State),
    let d := s.die cd
    let a := (aReg d (fld w.toNat 20 4)).toNat
    let v := ((sReg d (fld w.toNat 24 5)).signExtend 64).toNat
    let few := (d.ops.filter (fun o => o.cls == 5)).length < 64
    (∀ r ∈ [(Instr.flagAdd, 1, 8, 0), (Instr.semRel, 4, 16, 6)], Ready s cd w 5 r.2.1 → few → w.getLsbD 34 = false →
      a % r.2.2.1 = 0 → s.atomicHome a = true → (w.getLsbD 35 = false ∨ ∀ o ∈ d.ops, o.ctr ≠ some (fld w.toNat 16 4)) →
      ∃ t o, Gives (r.1 cd w) s t ∧ (t.die cd).ops = d.ops ++ [o] ∧ o.id = d.nextId ∧ o.st = .flight ∧
        o.ctr = some (fld w.toNat 16 4) ∧ (t.die cd).pc = d.pc + 16 ∧ (t.die cd).cnt = d.cnt ∧
        t.homeQ = s.homeQ ++ [⟨r.2.2.2, a, v, 0, s.selfCoord + cd.val * 2 ^ 20, .instr cd.val d.nextId⟩] ∧
        t.mem = s.mem ∧ t.host = s.host ∧ t.fab = s.fab) ∧
    (Ready s cd w 5 6 → few → (w.getLsbD 35 = false ∨ ∀ o ∈ d.ops, o.ctr ≠ some (fld w.toNat 16 4)) →
      s.host.resetting = 0 →
      ∃ t e, Gives (.post cd w) s t ∧ t.host.heldQ = s.host.heldQ ++ [e] ∧ e.isEvt = true ∧
        e.ring = some (fld w.toNat 36 13) ∧ e.src = 1 + cd.val ∧ e.post = some (cd.val, d.nextId) ∧
        fieldB e.bytes 0 2 = 1 ∧ fieldB e.bytes 16 4 = (sReg d (fld w.toNat 24 5)).toNat ∧ fieldB e.bytes 20 1 = cd.val ∧
        (t.die cd).pc = d.pc + 16 ∧ (t.die cd).cnt = d.cnt ∧ t.mem = s.mem ∧ t.homeQ = s.homeQ) ∧
    (∀ r ∈ [(Instr.flagAdd, 1, 8, 0), (Instr.semRel, 4, 16, 6)], Ready s cd w 5 r.2.1 → few → w.getLsbD 34 = true →
      a % r.2.2.1 = 0 → (w.getLsbD 35 = false ∨ ∀ o ∈ d.ops, o.ctr ≠ some (fld w.toNat 16 4)) →
      (∀ o ∈ d.ops, o.cls ≠ 5) → 0 < fld (s.reg 0x401C) 0 7 →
      ∃ u o p, Gives (r.1 cd w) s (u.sendFlow p (.op cd.val d.nextId)) ∧
        u = s.setDie cd { d with pc := d.pc + 16, ops := d.ops ++ [o], nextId := d.nextId + 1 } ∧ o.st = .flight ∧
        o.ctr = some (fld w.toNat 16 4) ∧ p.type = 0x06 ∧ p.dst = (sReg d (fld w.toNat 29 5)).toNat % 2 ^ 20 ∧
        fieldB p.payload 0 8 = a ∧ fieldB p.payload 8 4 = r.2.2.2 ∧ fieldB p.payload 16 8 = v) ∧
    (∀ r ∈ [(Instr.flagAdd, 1, 8), (Instr.semRel, 4, 16)], Ready s cd w 5 r.2.1 → few →
      a % r.2.2 ≠ 0 ∨ w.getLsbD 34 = false ∧ s.atomicHome a = false →
      Gives (r.1 cd w) s (s.setDie cd (faulted d 8 5 r.2.1 0 0))) ∧
    (∀ r ∈ [(Instr.flagAdd, 1), (Instr.semRel, 4), (Instr.post, 6)], Ready s cd w 5 r.2 → ¬few →
      Gives (r.1 cd w) s (s.setDie cd { d with stall := .queueFull })) ∧
    (∀ r ∈ [(Instr.flagAdd, 1, 8), (Instr.semRel, 4, 16), (Instr.post, 6, 1)], Ready s cd w 5 r.2.1 → few →
      w.getLsbD 35 = true → (∃ o ∈ d.ops, o.ctr = some (fld w.toNat 16 4) ∧ o.id < d.nextId) →
      (r.2.1 = 6 ∨ a % r.2.2 = 0 ∧ (w.getLsbD 34 = true ∨ s.atomicHome a = true)) →
      ∃ t o, Gives (r.1 cd w) s t ∧ (t.die cd).ops = d.ops ++ [o] ∧ o.st = .queued ∧ (t.die cd).pc = d.pc + 16 ∧
        (t.die cd).cnt = d.cnt ∧ t.homeQ = s.homeQ ∧ t.host = s.host ∧ t.mem = s.mem) ∧
    (∀ o, d.ops.find? (fun x => x.id == o.id) = some o → o.cls = 5 → o.code = 1 → o.st = .queued →
      d.ops.any (fun x => decide (x.id < o.id) && x.ctr == o.ctr) = false → bitAt o.w 34 = false →
      ∃ t, Gives (.orderedRelease cd o.id) s t ∧ t.homeQ.length = s.homeQ.length + 1 ∧
        (t.homeQ.getLast?).map (fun q => (q.code, q.addr, q.op1)) =
          some (0, o.av.getD 0 0, ofSigned 64 (toSigned 32 (o.sv.getD 0 0))) ∧
        t.mem = s.mem ∧ t.host = s.host)

/-- R170, R171, R172 and R184: a sem_acq of at least one credit sends its request, under a number of its own, to the
semaphore's home here or at the named device, and waits; a grant lets it go on, wait_for_wake and retry leave it waiting in
that phase, a refusal faults with code 8; the grant of an abandoned request goes back as a sem_release of the same credits;
the wake timeout, the retry timer and a wake for its die send the request again. Fewer than one credit faults with code 1
(R171), a bad address with code 8. The numbering of requests is the model's (log entry 38). -/
def Sys2Proof.Claims.SemaphoreAcquire : Prop :=
  ∀ (cd : Cd) (w : IWord) (s : State),
    let d := s.die cd
    let a := (aReg d (fld w.toNat 20 4)).toNat
    let n := (sReg d (fld w.toNat 24 5)).toNat
    let c := (sReg d (fld w.toNat 29 5)).toNat % 2 ^ 20
    let who := s.selfCoord + cd.val * 2 ^ 20
    let tag := d.nextId % 2 ^ 32
    (Ready s cd w 5 3 → 0 < n → n < 2 ^ 31 → w.getLsbD 34 = false → a % 16 = 0 → s.atomicHome a = true →
      Gives (.semAcq cd w) s { s.setDie cd { d with stall := .semAcq none a n .sent tag, nextId := d.nextId + 1 } with
        homeQ := s.homeQ ++ [⟨5, a, n, 0, who, .acq cd.val tag⟩] }) ∧
    (Ready s cd w 5 3 → 0 < n → n < 2 ^ 31 → w.getLsbD 34 = true → a % 16 = 0 →
      ∃ t p, Gives (.semAcq cd w) s t ∧
        t = (s.setDie cd { d with stall := .semAcq (some c) a n .sent tag, nextId := d.nextId + 1 }).sendFlow p (.op cd.val tag) ∧
        p.type = 0x06 ∧ p.dst = c % 2 ^ 20 ∧ p.flow = memFlow cd.val 1 0 ∧ fieldB p.payload 0 8 = a ∧
        fieldB p.payload 8 4 = 5 ∧ fieldB p.payload 12 4 = tag ∧ fieldB p.payload 16 8 = n) ∧
    (Ready s cd w 5 3 → 0 < n → n < 2 ^ 31 → a % 16 ≠ 0 ∨ w.getLsbD 34 = false ∧ s.atomicHome a = false →
      Gives (.semAcq cd w) s (s.setDie cd (faulted d 8 5 3 0 0))) ∧
    (Ready s cd w 5 3 → n = 0 ∨ 2 ^ 31 ≤ n → Gives (.semAcq cd w) s (s.setDie cd (faulted d 1 5 3 0 0))) ∧
    (∀ dev k r b m l, s.replies = (cd.val, k, r) :: l → d.semBack = [] → d.stall = .semAcq dev b m .sent k →
      d.mode = .running → d.fault = 0 →
      Gives (.semAcqReply cd) s
        (({ s with replies := l } : State).setDie cd
          (if r = 1 then { d with pc := d.pc + 16, stall := .none }
           else if r = 2 then { d with stall := .semAcq dev b m .wake k }
           else if r = 3 then { d with stall := .semAcq dev b m .retry k }
           else faulted d 8 5 3 0 (if r = 8 then 8 else 0)))) ∧
    (∀ k r b m l, s.replies = (cd.val, k, r) :: l → d.semBack = [(k, none, b, m)] → m < 2 ^ 31 →
      Gives (.semAcqReply cd) s { s.setDie cd { d with semBack := [] } with
        replies := l, homeQ := if r = 1 then s.homeQ ++ [⟨6, b, m, 0, who, .nobody⟩] else s.homeQ }) ∧
    (∀ b m k (i : Instr) (ph : SemPhase), (i, ph) ∈ [(Instr.semWakeTimeout cd, SemPhase.wake), (.semRetryTimer cd, .retry)] →
      m < 2 ^ 31 → d.stall = .semAcq none b m ph k →
      Gives i s { s.setDie cd { d with stall := .semAcq none b m .sent tag, nextId := d.nextId + 1 } with
        homeQ := s.homeQ ++ [⟨5, b, m, 0, who, .acq cd.val tag⟩] }) ∧
    (∀ b m k (q : Fin 9) (p : Packet) (rest : List (Packet × Bool)), s.fab.eject[q] = (p, false) :: rest → p.type = 0x08 →
      16 ≤ p.len → p.len ≤ 256 → fld (fieldB p.payload 0 1) 0 4 = cd.val → m < 2 ^ 31 → d.stall = .semAcq none b m .wake k →
      ∃ t, Gives (.wake q) s t ∧ t.fab.eject[q] = rest ∧ (t.die cd).stall = .semAcq none b m .sent tag ∧
        t.homeQ = s.homeQ ++ [⟨5, b, m, 0, t.selfCoord + cd.val * 2 ^ 20, .acq cd.val tag⟩] ∧ t.mem = s.mem)

/-- Flags, semaphores and posts of a sequencer. -/
def Obligations.SemaphoresAndFlags : Prop := FlagSemaphorePost ∧ SemaphoreAcquire

/-- R147, R155, R160, R163, R165, R175 and R416: a tile, Sparge, movement or helper instruction that its die admits, with
room in its queue and a readable record, is issued: it joins the die's issued instructions with its counter, its word and its
address, its corrected estimate is taken from the die's credit, and the next instruction follows. No counter rises and no
byte of memory changes at issue. -/
def Sys2Proof.Claims.UnitInstructionIssues : Prop :=
  ∀ r ∈ tileRows ++ vecRows ++ fnRows ++ moveRows ++ helperRows, ∀ (cd : Cd) (w : IWord) (s : State),
    let d := s.die cd
    Ready s cd w r.2.1 r.2.2 → d.admitted = false → s.admits cd r.2.1 (s.estOf cd w.toNat) = true →
    (r.2.1 = 2 ∨ r.2.1 = 3 → d.queued r.2.1 (fld w.toNat 20 4) < 8) →
    (r.2.1 = 2 → r.2.2 = 2 → s.recordOk cd (fld w.toNat 102 20 * 32) 32 = true) →
    (r.2.1 = 3 → s.recordOk cd (vRecord w.toNat) 64 = true) →
    (r.2.1 = 4 → (d.ops.filter (fun o => o.cls == 4 && o.st == .queued)).length < 32) →
    (r.2.1 = 6 → ∀ c : Cd, (s.die c).ops.all (fun o => o.cls != 6) = true) →
    ∃ t o, Gives (r.1 cd w) s t ∧ (t.die cd).ops = d.ops ++ [o] ∧ IssuedAs o d w r.2.1 r.2.2 ∧
      (t.die cd).pc = d.pc + 16 ∧ (t.die cd).cnt = d.cnt ∧ (t.die cd).s = d.s ∧ (t.die cd).a = d.a ∧ (t.die cd).p = d.p ∧
      (t.die cd).nextId = d.nextId + 1 ∧ (t.die cd).stall = .none ∧ (t.die cd).admitted = false ∧
      t.led.credit[cd] = s.led.credit[cd] - s.corrected12 (cd.val / 3) (s.estOf cd w.toNat) ∧ t.mem = s.mem ∧
      t.regs = s.regs ∧ t.fab = s.fab ∧ ∀ c : Cd, c ≠ cd → t.die c = s.die c

/-- R416 and R175: where its die's credit is negative, an instruction with an estimate is held at admission, and with a full
target queue issue stalls; in neither case does the instruction join the issued ones. -/
def Sys2Proof.Claims.UnitInstructionHeld : Prop :=
  ∀ r ∈ tileRows ++ vecRows ++ fnRows ++ moveRows ++ helperRows, ∀ (cd : Cd) (w : IWord) (s : State),
    let d := s.die cd
    Ready s cd w r.2.1 r.2.2 → d.admitted = false →
    (s.estOf cd w.toNat ≠ 0 → s.led.credit[cd] < 0 → Gives (r.1 cd w) s (s.setDie cd { d with stall := .admission })) ∧
    (s.admits cd r.2.1 (s.estOf cd w.toNat) = true → (r.2.1 = 2 ∨ r.2.1 = 3) → 8 ≤ d.queued r.2.1 (fld w.toNat 20 4) →
      ∃ t, Gives (r.1 cd w) s t ∧ t.die cd = { d with stall := .queueFull, admitted := true } ∧ t.mem = s.mem)

/-- Instructions for the units: issued, or held. -/
def Obligations.UnitInstructions : Prop := UnitInstructionIssues ∧ UnitInstructionHeld

namespace Sys2Proof.Claims

/-- The die after an operation of it has been replaced by another of the same identity. -/
abbrev withOp (d : Die) (o : Op) : Die := { d with ops := d.ops.map (fun x => if x.id == o.id then o else x) }

/-- No scoreboard entry names the tile, and none names the operation: the operation has the tile at once (R92, R93). -/
def TileFree (d : Die) (o : Op) : Prop := ∀ e ∈ d.sb, e.tile ≠ fld o.w 46 8 ∧ e.who ≠ o.id

/-- The scoreboard with the operation holding its tile. -/
abbrev holding (d : Die) (o : Op) : Die := { d with sb := d.sb ++ [⟨fld o.w 46 8, o.id, tileClass o, true⟩] }

end Sys2Proof.Claims

open Sys2Proof.Claims

/-- R165 and R166: when an operation completes, the counter it names rises by one whatever its status; statuses 0 and 1
leave the error record; another status raises the record's count up to 65,535 and, where the record was clear, stores the
status, class and unit; every other counter stays, and the operation leaves the issued ones. -/
def Obligations.CompletionCounts : Prop :=
  ∀ (d : Die) (o : Op) (status : Nat) (c : Fin 16), o.ctr = some c.val →
    let e := d.cnt[c].err.toNat
    (d.finish o status).cnt[c].count = d.cnt[c].count + 1 ∧
    (status = 0 ∨ status = 1 → (d.finish o status).cnt[c].err = d.cnt[c].err) ∧
    (status ≠ 0 → status ≠ 1 → status < 16 → o.cls < 16 → o.unit < 16 →
      fld (d.finish o status).cnt[c].err.toNat 0 16 = min (fld e 0 16 + 1) 65535 ∧
      fld (d.finish o status).cnt[c].err.toNat 16 4 = (if fld e 0 16 = 0 then status else fld e 16 4) ∧
      fld (d.finish o status).cnt[c].err.toNat 20 4 = (if fld e 0 16 = 0 then o.cls else fld e 20 4) ∧
      fld (d.finish o status).cnt[c].err.toNat 24 4 = (if fld e 0 16 = 0 then o.unit else fld e 24 4)) ∧
    (∀ c' : Fin 16, c' ≠ c → (d.finish o status).cnt[c'] = d.cnt[c']) ∧
    (∀ x ∈ (d.finish o status).ops, x ∈ d.ops ∧ x.id ≠ o.id)

/-- R77, R79, R81, R92, R111 and R179: a Tun takes its next operation. A load fills the second charge and leaves the first;
a load or tile instruction that a check forbids ends with the check's status and does nothing else; a pass whose charge
waits in the second exchanges the two charges; a tile zero, a tile add and an element-wise pass start once they have their
tile, and a tile add whose image lies in other tiles arrives at those as a reader. An operation sent to a retired Tun stops
with status 4 (R104). -/
def Sys2Proof.Claims.TunTakesOperation : Prop :=
  ∀ (cd : Cd) (j : Fin 12) (s : State) (o : Op),
    let d := s.die cd
    d.mode ≠ .fenced → d.nextTunOp j = some o →
    (d.tunUp[j] = false →
      Gives (.tunOpStart cd j) s (s.setDie cd (withOp d { o with st := .stopped, status := 4, phys := j.val }))) ∧
    (d.tunUp[j] = true → o.decided = false →
    (o.code = 0 → loadCheck o.w o.addr = 0 →
      ∃ t, Gives (.tunOpStart cd j) s t ∧ (t.die cd).tuns[j].charge = d.tuns[j].charge ∧
        (t.die cd).tuns[j].second = s.loadCharge cd o.w o.addr o.id ∧ (t.die cd).tuns[j].pend = 1 ∧
        (t.die cd).logical[unitOf o.unit].pend = some o.id ∧ (t.die cd).cnt = d.cnt ∧ t.mem = s.mem) ∧
    (o.code = 0 → loadCheck o.w o.addr ≠ 0 →
      Gives (.tunOpStart cd j) s (s.setDie cd (withOp d
        { o with st := .ended, status := loadCheck o.w o.addr, phys := j.val }))) ∧
    (2 ≤ o.code → s.tileCheck o 128 ≠ 0 →
      Gives (.tunOpStart cd j) s (s.setDie cd (withOp d
        { o with st := .ended, status := s.tileCheck o 128, phys := j.val }))) ∧
    (2 ≤ o.code → s.tileCheck o 128 = 0 → TileFree d o → s.sbHas (whoMove cd.val o.id) = false →
      (o.code = 3 → tilesOfRows o.addr 0x40000 0 1 = []) →
      Gives (.tunOpStart cd j) s (s.setDie cd (withOp (holding d o) { o with st := .running, phys := j.val }))) ∧
    (o.code = 3 → s.tileCheck o 128 = 0 → s.sbHas (whoMove cd.val o.id) = false →
      ∀ x ∈ tilesOfRows o.addr 0x40000 0 1, x ≠ (cd.val, fld o.w 46 8) →
      ∃ t, Gives (.tunOpStart cd j) s t ∧ t.mem = s.mem ∧
        ∃ e ∈ (t.die (cdOf x.1)).sb, e.tile = x.2 ∧ e.cls = .reader ∧ e.who = whoMove cd.val o.id) ∧
    (∀ id, o.code = 1 → d.meets o = some id → s.tileCheck o (d.loadK id) = 0 →
      d.loadWide id = none ∨ d.loadWide id = some (decide (fld o.w 24 3 = 1 ∨ fld o.w 24 3 = 2)) → TileFree d o →
      d.tuns[j].charge.src ≠ id → d.tuns[j].second.src = id → d.tuns[j].pend ≠ 0 →
      ∃ t, Gives (.tunOpStart cd j) s t ∧ (t.die cd).tuns[j].charge = d.tuns[j].second ∧
        (t.die cd).tuns[j].second = d.tuns[j].charge ∧ (t.die cd).tuns[j].pend = 0 ∧ t.mem = s.mem ∧
        ∀ k : Fin 12, k ≠ j → (t.die cd).tuns[k] = d.tuns[k]))

/-- R80 and R86: the running load's last row completes its charge and ends the load, with status 5 where its data was
poisoned; 1,024 idle clocks make a Tun cold; the start offset's end begins the ramp. Nothing else of the die changes. -/
def Sys2Proof.Claims.TunChargeAndCold : Prop :=
  ∀ (cd : Cd) (j : Fin 12) (s : State),
    let d := s.die cd
    let setT (t : Tun) : Die := { d with tuns := d.tuns.set j t }
    (∀ o, d.runningTun j = some o → o.code = 0 →
      Gives (.loadChargeComplete cd j) s (s.setDie cd (withOp (setT { d.tuns[j] with pend := 2 })
        { o with st := .ended, status := if o.poison then 5 else 0 }))) ∧
    Gives (.tunIdleExpire cd j) s (s.setDie cd (setT { d.tuns[j] with cold := .idle, ramp := 0 })) ∧
    (d.tuns[j].cold = .idle →
      Gives (.tunStartOffsetExpire cd j) s (s.setDie cd (setT { d.tuns[j] with cold := .ramp, ramp := 0 })))

/-- A Tun takes its operations: passes, charges, cold starts. -/
def Obligations.TunOperations : Prop := TunTakesOperation ∧ TunChargeAndCold

/-- R87, R96, R98–R105: a Tun performs the next row of its operation. A tile zero stores zero in one row of its tile and in
no other byte. A pass row that the check passes or leaves unchecked stores the element of each written column and no other
byte; a row that fails the check stores nothing, is counted and is performed again with both charges filled again from
their loads, and the third failure of a pass retires the Tun. What counts as one re-execution is the model's choice (log
entry 47). -/
def Sys2Proof.Claims.TunRowStores : Prop :=
  ∀ (cd : Cd) (j : Fin 12) (s : State) (o : Op) (fault : TunFault),
    let d := s.die cd
    let tile := fld o.w 46 8
    d.runningTun j = some o → tile < 192 → s.boot.failed = false →
    (o.code = 4 → o.row < 128 →
      ∃ t, Gives (.tunRowVerdict cd j fault) s t ∧ t.bytes (tileAddr cd tile o.row 0) 2048 = zeroB 2048 ∧
        (∀ x, (x < tileAddr cd tile o.row 0 ∨ tileAddr cd tile o.row 0 + 2048 ≤ x) → t.byte x = s.byte x) ∧
        (t.die cd).cnt = d.cnt ∧ t.regs = s.regs) ∧
    (o.code = 1 → d.tuns[j].cold ≠ .idle → fld o.w 29 1 = 0 → fld o.w 24 3 = 0 →
      (s.rowResult cd j o o.row fault).1 ≠ .failed → (s.rowResult cd j o o.row fault).2.2 = false →
      fld o.w 54 7 + o.row < 128 → (∀ c : Fin 128, s.poisoned (tileAddr cd tile (fld o.w 54 7 + o.row) c) = false) →
      ∃ t, Gives (.tunRowVerdict cd j fault) s t ∧
        (∀ c, c < fld o.w 39 7 + 1 → t.bytes (tileAddr cd tile (fld o.w 54 7 + o.row) c) 16
          = natLE 16 (xEncode ((s.rowResult cd j o o.row fault).2.1 c))) ∧
        (∀ x, (x < tileAddr cd tile (fld o.w 54 7 + o.row) 0 ∨
            tileAddr cd tile (fld o.w 54 7 + o.row) 0 + 16 * (fld o.w 39 7 + 1) ≤ x) → t.byte x = s.byte x)) ∧
    (o.code = 1 → d.tuns[j].cold ≠ .idle → (s.rowResult cd j o o.row fault).1 = .failed →
      o.fails.length < 2 → (recentFails d.tuns[j].failAt d.clkUp).length + 1 < 8 → s.logQ.length < 256 →
      ∃ t, Gives (.tunRowVerdict cd j fault) s t ∧ t.mem = s.mem ∧ (t.die cd).tunUp = d.tunUp ∧
        (t.die cd).tuns[j].mismatch = satAdd32 d.tuns[j].mismatch 1 ∧
        (t.die cd).tuns[j].checks = satAdd32 d.tuns[j].checks 1 ∧
        (t.die cd).tuns[j].reexec = satAdd32 d.tuns[j].reexec 1 ∧
        (t.die cd).tuns[j].charge = s.recharge cd d.tuns[j].charge ∧
        (t.die cd).tuns[j].second = s.recharge cd d.tuns[j].second ∧
        (t.die cd).runningTun j = some { o with fails := o.fails ++ [o.row], reexec := true } ∧
        t.logQ = s.logQ ++ [⟨s.time, 5, 0, cd.val, j.val, o.row, 0⟩]) ∧
    (o.code = 1 → d.tuns[j].cold ≠ .idle → (s.rowResult cd j o o.row fault).1 = .failed → o.fails.length = 2 →
      ∃ t, Gives (.tunRowVerdict cd j fault) s t ∧ t.mem = s.mem ∧ (t.die cd).tunUp = d.tunUp.set j false ∧
        ∀ x ∈ (t.die cd).ops, x.cls = 2 → x.st = .running → x.phys ≠ j.val)

/-- R91, R150, R165, R178 and R181: the first ended operation of a Tun completes on its counter. A retired Tun's logical
units move to the next Tun in service and its stopped work is issued again, uncounted; with no Tun in service the sequencer
faults with code 7. -/
def Sys2Proof.Claims.TunCompletionAndRemap : Prop :=
  ∀ (cd : Cd) (j : Fin 12) (s : State) (o : Op),
    let d := s.die cd
    (d.ops.find? (fun x => x.cls == 2 && x.st == .ended && x.phys == j.val) = some o →
      Gives (.tunOpComplete cd j) s ((s.setDie cd (d.finish o o.status)).sbDrop (whoMove cd.val o.id))) ∧
    (∀ k : Fin 12, d.ops.find? (fun x => x.cls == 2 && x.st == .stopped && x.phys == j.val) = some o →
      nextUp d.tunUp j.val = some k →
      ∃ t, Gives (.seqRemapTun cd j) s t ∧ (t.die cd).cnt = d.cnt ∧ (t.die cd).fault = d.fault ∧
        (∀ u : Fin 12, (t.die cd).tunMap[u] = if d.tunMap[u] = j then k else d.tunMap[u]) ∧
        (∀ x ∈ (t.die cd).ops, ¬(x.cls = 2 ∧ x.st = .stopped ∧ x.phys = j.val)) ∧ t.mem = s.mem) ∧
    (d.mode = .running → d.fault = 0 → (∀ k : Fin 12, d.tunUp[k] = false) →
      d.ops.find? (fun x => x.cls == 2 && x.st == .stopped && x.phys == j.val) = some o →
      ∃ t, Gives (.seqRemapTun cd j) s t ∧ (t.die cd).fault = 7 ∧ (t.die cd).faultPc = BitVec.ofNat 48 o.pc ∧
        (∀ x ∈ (t.die cd).ops, ¬(x.cls = 2 ∧ x.st = .stopped ∧ x.phys = j.val)) ∧ t.mem = s.mem)

/-- What a Tun stores, how its operations complete, and how a failed unit is remapped. -/
def Obligations.TunResults : Prop := TunRowStores ∧ TunCompletionAndRemap

/-- R92 and R93: the first waiting operation on a tile proceeds once the classes that hold the tile allow its own (exact
beside exact, reader beside reader), and not before; no other entry changes. -/
def Obligations.ScoreboardGrants : Prop :=
  ∀ (cd : Cd) (s : State) (l r : List SbEnt) (e : SbEnt),
    (s.die cd).sb = l ++ e :: r → e.held = false → (∀ x ∈ l, x.tile = e.tile → x.held = true) →
    let holders := (l ++ r).filter (fun x => x.tile == e.tile && x.held)
    ((∀ x ∈ holders, (x.cls = .exact ∧ e.cls = .exact) ∨ (x.cls = .reader ∧ e.cls = .reader)) →
      Gives (.scoreboardGrant cd e.tile) s (s.setDie cd { s.die cd with sb := l ++ { e with held := true } :: r })) ∧
    ((∃ x ∈ holders, ¬((x.cls = .exact ∧ e.cls = .exact) ∨ (x.cls = .reader ∧ e.cls = .reader))) →
      Gives (.scoreboardGrant cd e.tile) s s)

/-- R136–R145, R178, R180 and R181: a Sparge unit takes its next instruction, or ends it with the status of a failing check;
completes it, storing its output; a failing lane check is counted and the unit goes on from the lane-row that R142 names,
what it wrote before standing, or is retired on a third execution's failure; a completed instruction's summary is published in its slot and the instruction then counts; a retired unit's work moves to the next
unit in service, with no counter rising. -/
def Sys2Proof.Claims.SpargeUnitWork : Prop :=
  ∀ (cd : Cd) (u : Fin 12) (s : State) (o : Op),
    let d := s.die cd
    (d.sparUp[u] = true → d.mode ≠ .fenced → d.nextVec u = some o → vCheck o ≠ 0 →
      Gives (.spargeStart cd u) s (s.setDie cd (withOp d
        { o with st := .ended, status := vCheck o, phys := u.val, decided := true }))) ∧
    (d.sparUp[u] = true → d.mode ≠ .fenced → d.nextVec u = some o → vCheck o = 0 → d.sb = [] →
      (∀ i ∈ vUses o, vTiles o i = []) →
      ∃ t, Gives (.spargeStart cd u) s t ∧ (t.die cd).ops = (withOp d { o with st := .running, phys := u.val }).ops ∧
        t.mem = s.mem ∧ (t.die cd).cnt = d.cnt) ∧
    (d.ops.find? (fun x => x.cls == 3 && x.phys == u.val && (x.st == .running || (x.st == .ended && x.decided))) = some o →
      o.st = .running → vSummary o.w = false →
      let k := s.vecRun cd o (tabGet .reset d.slotQ o.id) (vTotal o)
      ∃ t, Gives (.spargeComplete cd u) s t ∧ t.mem = k.st.mem ∧ t.poison = k.st.poison ∧
        (∀ x ∈ (t.die cd).ops, x.id ≠ o.id) ∧
        (∀ c : Fin 16, o.ctr = some c.val → k.fault = false → k.bad = false →
          (t.die cd).cnt[c].count = (k.st.die cd).cnt[c].count + 1 ∧ (t.die cd).cnt[c].err = (k.st.die cd).cnt[c].err)) ∧
    (d.ops.find? (fun x => x.cls == 3 && x.phys == u.val && x.st == .ended && !x.decided) = some o → vCombine o.w = false →
      ∃ t, Gives (.summarySlotUpdate cd u) s t ∧ t.mem = s.mem ∧
        (t.die cd).slot o.unit (fld o.w 54 3) = sumFinal (vPred o.w) (tabGet .reset d.slotQ o.id) ∧
        (∀ c : Fin 16, o.ctr = some c.val → (t.die cd).cnt[c].count = d.cnt[c].count + 1)) ∧
    (∀ row, d.runningVec u = some o → o.row ≤ row → row < vTotal o →
      let k := s.vecRun cd o (tabGet .reset d.slotQ o.id) (vRestart o row)
      k.fault = false → s.logQ.length < 256 →
      ((o.fails.filter (fun f => decide (row ≤ f))).length < 2 → (recentFails d.spar[u].failAt d.clkUp).length + 1 < 8 →
        ∃ t, Gives (.spargeCheckFail cd u row) s t ∧ t.mem = k.st.mem ∧
          (t.die cd).spar[u].failures = satAdd32 d.spar[u].failures 1 ∧
          (t.die cd).spar[u].reexec = satAdd32 d.spar[u].reexec 1 ∧
          (∃ x, (t.die cd).runningVec u = some x ∧ x.id = o.id ∧ x.row = vRestart o row ∧ x.fails = o.fails ++ [row]) ∧
          t.logQ = s.logQ ++ [⟨s.time, 7, 0, cd.val, u.val, row, 0⟩] ∧ (t.die cd).sparUp = d.sparUp) ∧
      (2 ≤ (o.fails.filter (fun f => decide (row ≤ f))).length →
        ∃ t, Gives (.spargeCheckFail cd u row) s t ∧ t.mem = k.st.mem ∧ (t.die cd).sparUp = d.sparUp.set u false ∧
          (∀ x ∈ (t.die cd).ops, x.cls = 3 → x.st = .running → x.phys ≠ u.val) ∧
          t.logQ = s.logQ ++ [⟨s.time, 8, 0, cd.val, u.val, row, 0⟩])) ∧
    (∀ k : Fin 12, d.ops.find? (fun x => x.cls == 3 && x.st == .stopped && x.phys == u.val) = some o →
      nextUp d.sparUp u.val = some k →
      ∃ t, Gives (.seqRemapSparge cd u) s t ∧ (t.die cd).cnt = d.cnt ∧
        (∀ v : Fin 12, (t.die cd).sparMap[v] = if d.sparMap[v] = u then k else d.sparMap[v]) ∧
        (∀ x ∈ (t.die cd).ops, ¬(x.cls = 3 ∧ x.st = .stopped ∧ x.phys = u.val)) ∧ t.mem = s.mem)

/-- R125, R127, R128, R131 and Tables 4-2 and 4-3: what a lane computes. Integer operations act on I32 values, saturating
sums, differences and products at the ends of the range and shifting by the low five bits; F32 arithmetic rounds the exact
result once; a pole gives the largest finite value in fast mode and an infinity in strict mode. -/
def Sys2Proof.Claims.SpargeLaneArithmetic : Prop :=
  (∀ a b : Word,
    intOp 0x10 a.toNat b.toNat = (max (-2 ^ 31) (min (2 ^ 31 - 1) (a.toInt + b.toInt)),
      decide (a.toInt + b.toInt < -2 ^ 31 ∨ 2 ^ 31 - 1 < a.toInt + b.toInt)) ∧
    intOp 0x11 a.toNat b.toNat = (max (-2 ^ 31) (min (2 ^ 31 - 1) (a.toInt - b.toInt)),
      decide (a.toInt - b.toInt < -2 ^ 31 ∨ 2 ^ 31 - 1 < a.toInt - b.toInt)) ∧
    intOp 0x12 a.toNat b.toNat = (max (-2 ^ 31) (min (2 ^ 31 - 1) (a.toInt * b.toInt)),
      decide (a.toInt * b.toInt < -2 ^ 31 ∨ 2 ^ 31 - 1 < a.toInt * b.toInt)) ∧
    intOp 0x13 a.toNat b.toNat = ((a &&& b).toInt, false) ∧ intOp 0x14 a.toNat b.toNat = ((a ||| b).toInt, false) ∧
    intOp 0x15 a.toNat b.toNat = ((a ^^^ b).toInt, false) ∧
    intOp 0x16 a.toNat b.toNat = ((a <<< (b.toNat % 32)).toInt, false) ∧
    intOp 0x17 a.toNat b.toNat = (a.toInt / 2 ^ (b.toNat % 32), false)) ∧
  (∀ (dir : Dir) (n : Bool) (p q : Nat), 0 < p → 0 < q →
    (floatOp 0x21 false dir (.fin n p q) .zero .zero).1 = ffDecode ffF32 (ffInf ffF32 - 1 + ffSign ffF32 n) ∧
    (floatOp 0x21 false dir (.fin n p q) .zero .zero).2.sat = true ∧
    (floatOp 0x21 true dir (.fin n p q) .zero .zero).1 = .inf n)

/-- A Sparge unit's work and its lanes' arithmetic. -/
def Obligations.SpargeOperations : Prop := SpargeUnitWork ∧ SpargeLaneArithmetic

namespace Sys2Proof.Claims

/-- Every address outside n bytes at a reads as before. -/
def OnlyBytes (s t : State) (a n : Nat) : Prop := ∀ x, (x < a ∨ a + n ≤ x) → t.byte x = s.byte x

/-- The home of an address answers at once: its tier is ready, its channel is not under test, no earlier request waits for
the line, its tile, if any, is free, and it is in no fenced die's window. -/
def HomeAnswers (s : State) (a l : Nat) : Prop :=
  s.loc a = some l ∧ s.tierReady l = true ∧ s.lineHeld a = false ∧ s.sbHas (whoHome s.memc.next) = false ∧
  (∀ x, tileOf a = some x → ∀ e ∈ (s.die (cdOf x.1)).sb, e.tile ≠ x.2) ∧
  (∀ i, winDie a = some i → (s.die (cdOf i)).mode ≠ .fenced)

/-- The 64 bytes of the line at a home location. -/
def lineAt (s : State) (l : Nat) : List Byte := (List.range 64).map (fun i => memGet s.mem (l / 64 * 64 + i))

/-- An atomic at the head of the homes' queue may be performed: aligned, at mapped memory that is ready and not poisoned. -/
def AtomicReady (s : State) (r : HomeReq) (rest : List HomeReq) (align : Nat) : Prop :=
  s.homeQ = r :: rest ∧ r.addr % align = 0 ∧ s.atomicHome r.addr = true ∧ s.poisoned r.addr = false ∧
  ∀ l, s.loc r.addr = some l → s.tierReady l = true ∧ s.underTest l = false

end Sys2Proof.Claims

open Sys2Proof.Claims

/-- R199–R204 and Table 6-2: two device addresses never share a home location, whichever of the near and deep sets are local
and whichever are striped. -/
def Obligations.AddressDecodeInjective : Prop :=
  ∀ (s : State) (a b l : Nat), s.loc a = some l → s.loc b = some l → a = b

/-- R3, R211 and R212: bytes written to mapped, unpoisoned memory are read back, lowest address first, and every address
outside them reads as before. -/
def Obligations.WriteThenRead : Prop :=
  ∀ (s : State) (a : Nat) (bs : List Byte), s.rangeMapped a bs.length = true → s.rangePoisoned a bs.length = false →
    (s.write a bs).bytes a bs.length = bs ∧ OnlyBytes s (s.write a bs) a bs.length

/-- R194, R197, R214, R218, R219 and R221: a read at a home that answers delivers the line with its poison mark; a line in
the atomic line buffer is not decoded. Up to two symbols
in error are corrected and counted. More leave a line of SRAM poisoned, counted and logged; in a stack they start a lane
test of the channel. A read changes no byte of memory. -/
def Sys2Proof.Claims.HomeReadDelivers : Prop :=
  ∀ (a l : Nat) (err : List Byte) (s : State), HomeAnswers s a l →
    (s.poisoned a = true ∨ s.memc.atomBuf.contains (l / 64) = true ∨ symErrors err = 0 →
      Gives (.homeRead a err) s (s.emit (.line (lineAt s l) (s.poisoned a)))) ∧
    (s.memc.atomBuf.contains (l / 64) = false →
    (s.poisoned a = false → symErrors err = 1 ∨ symErrors err = 2 →
      ∃ t, Gives (.homeRead a err) s t ∧ t.out = .line (lineAt s l) false :: s.out ∧ t.mem = s.mem ∧
        t.poison = s.poison ∧ t.reg (ceReg l) = satAdd32 (s.reg (ceReg l)) 1 ∧ t.dies = s.dies) ∧
    (s.poisoned a = false → 2 < symErrors err → stackOf l = none →
      ∃ t, Gives (.homeRead a err) s t ∧ t.out = .line (lineAt s l) true :: s.out ∧ t.mem = s.mem ∧
        t.poisoned a = true ∧ t.reg (ueReg l) = satAdd32 (s.reg (ueReg l)) 1 ∧ t.dies = s.dies) ∧
    (∀ j, s.poisoned a = false → 2 < symErrors err → stackOf l = some j →
      ∃ t, Gives (.homeRead a err) s t ∧ t.out = s.out ∧ t.mem = s.mem ∧ t.poison = s.poison ∧ t.underTest l = true ∧
        t.reg (ueReg l) = satAdd32 (s.reg (ueReg l)) 1))

/-- R197, R210 and R216: while the tier of a line is not ready, its channel is under test or an earlier request for it
waits, a read or write of it waits at its home, behind those that arrived before, and does nothing yet. -/
def Sys2Proof.Claims.HomeHolds : Prop :=
  ∀ (a l : Nat) (s : State), s.loc a = some l → s.tierReady l = false ∨ s.lineHeld a = true →
    ∀ x ∈ [(fun err => Instr.homeRead a err, fun err => Origin.read err),
           (fun bs => .homeWrite a bs false, fun bs => .write bs false), (fun bs => .homeWrite a bs true, fun bs => .write bs true)],
    ∀ bs : List Byte,
      ∃ t r, Gives (x.1 bs) s t ∧ t.homeQ = s.homeQ ++ [r] ∧ r.addr = a ∧ r.origin = x.2 bs ∧ t.mem = s.mem ∧
        t.poison = s.poison ∧ t.out = s.out

/-- R211, R212, R218 and R220: a write at a home that answers stores its bytes up to the end of their line and no others; a
whole line clears poison; part of a poisoned line changes nothing; data with a poison mark poisons the line. -/
def Sys2Proof.Claims.HomeWriteStores : Prop :=
  ∀ (a l : Nat) (data : List Byte) (s : State), HomeAnswers s a l →
    (s.poisoned a = false → a % 64 + data.length ≤ 64 →
      ∃ t, Gives (.homeWrite a data false) s t ∧ t.bytes a data.length = data ∧ OnlyBytes s t a data.length ∧
        t.poison = s.poison ∧ t.regs = s.regs ∧ t.dies = s.dies) ∧
    (a % 64 = 0 → data.length = 64 →
      ∃ t, Gives (.homeWrite a data false) s t ∧ t.bytes a 64 = data ∧ OnlyBytes s t a 64) ∧
    (s.poisoned a = true → data.length < 64 → Gives (.homeWrite a data false) s s) ∧
    (∃ t, Gives (.homeWrite a data true) s t ∧ t.poisoned a = true ∧ t.mem = s.mem)

/-- Reads and writes at a home. -/
def Obligations.HomeAccess : Prop := HomeReadDelivers ∧ HomeWriteStores ∧ HomeHolds

/-- R195–R198: when the lane test of a channel ends, each failing lane takes a spare of its group while one is left, and the
waiting line is delivered; a failing lane without a spare leaves the stack beyond repair, sets the spare-exhausted flag,
poisons the line and fails the device (R22; what a failed device does is log entry 49). A test that finds no failing lane poisons the line. -/
def Sys2Proof.Claims.LaneTestRepairs : Prop :=
  ∀ (j ch lane : Nat) (err : List Byte) (s : State) (x : LaneTest), s.memc.tests = [x] → x.stack = j → x.channel = ch →
    x.deliver = true → stackOf x.loc = some j → lane < 136 → (∀ y ∈ s.memc.spares, y ≠ (j, ch / 8, lane)) →
    (s.sparesUsed j (ch / 8) < 2 → symErrors err = 0 →
      ∃ t, Gives (.laneTestEnd j ch [lane] err) s t ∧ t.memc.tests = [] ∧
        t.memc.spares = s.memc.spares ++ [(j, ch / 8, lane)] ∧ t.mem = s.mem ∧ t.poison = s.poison ∧
        t.memc.failed = s.memc.failed ∧ ∃ p, t.out = .line (lineAt s x.loc) p :: s.out) ∧
    (2 ≤ s.sparesUsed j (ch / 8) →
      ∃ t, Gives (.laneTestEnd j ch [lane] err) s t ∧ t.memc.tests = [] ∧ t.memc.spares = s.memc.spares ∧
        t.mem = s.mem ∧ x.loc / 64 ∈ t.poison ∧ j ∈ t.memc.failed ∧ bitAt (t.reg 0x3008) 1 = true ∧
        t.boot.failed = true ∧ (∀ c : Cd, (t.die c).mode = .fenced) ∧ ∀ a, t.loc a = none) ∧
    (∃ t, Gives (.laneTestEnd j ch [] err) s t ∧ t.memc.tests = [] ∧ t.memc.spares = s.memc.spares ∧ t.mem = s.mem ∧
        x.loc / 64 ∈ t.poison)

/-- R210, R213 and Table 6-5: the atomics on a word at their home. Each leaves the queue and replaces the 8 bytes of the word
as its operation says, and no other byte; add64_sat stops at the ends of the signed range; cas64 stores its second operand
where the word equals the first. A waiting acquire elsewhere hears nothing. -/
def Sys2Proof.Claims.AtomicWordResult : Prop :=
  ∀ (s : State) (r : HomeReq) (rest : List HomeReq), AtomicReady s r rest 8 →
    let w := s.num r.addr 8
    let x := toSigned 64 w + toSigned 64 r.op1
    ∀ c ∈ [(Instr.add64 0, 0, (w + r.op1) % 2 ^ 64), (.fetchAdd64 0, 1, (w + r.op1) % 2 ^ 64),
           (.add64Sat 0, 2, ofSigned 64 (max (-2 ^ 63) (min (2 ^ 63 - 1) x))), (.swap64 0, 3, r.op1 % 2 ^ 64),
           (.cas64 0, 4, if w = r.op1 then r.op2 % 2 ^ 64 else w)],
      r.code = c.2.1 →
      ∃ t, Gives c.1 s t ∧ t.homeQ = rest ∧ t.num r.addr 8 = c.2.2 ∧ OnlyBytes s t r.addr 8 ∧ t.poison = s.poison ∧
        (∀ d k, r.origin = .acq d k → t.replies = s.replies ++ [(d, k, 0)])

/-- R213 and R220: an atomic at an unmapped or misaligned address is answered with code 5, one on a poisoned line with code 4;
memory does not change. -/
def Sys2Proof.Claims.AtomicRefusals : Prop :=
  ∀ (s : State) (r : HomeReq) (rest : List HomeReq) (d : Fin 12) (k : Nat), s.homeQ = r :: rest →
    r.origin = .acq d.val k → r.code = 5 →
    (∀ l, s.loc r.addr = some l → s.tierReady l = true ∧ s.underTest l = false) →
    (r.addr % 16 ≠ 0 ∨ s.atomicHome r.addr = false →
      ∃ t, Gives (.semAcquire 0) s t ∧ t.homeQ = rest ∧ t.mem = s.mem ∧ t.replies = s.replies ++ [(d.val, k, 5)]) ∧
    (r.addr % 16 = 0 → s.atomicHome r.addr = true → s.poisoned r.addr = true →
      ∃ t, Gives (.semAcquire 0) s t ∧ t.homeQ = rest ∧ t.mem = s.mem ∧ t.replies = s.replies ++ [(d.val, k, 4)])

/-- R171 and R172: sem_acquire takes its credits where the count allows, records the requester as the waiter where none waits
or it waits already, and answers retry otherwise; sem_release adds its credits and, where the recorded waiter can now be
satisfied, clears it and sends its wake. Bytes beside the semaphore keep their values. -/
def Sys2Proof.Claims.SemaphoreAtHome : Prop :=
  ∀ (s : State) (r : HomeReq) (rest : List HomeReq), AtomicReady s r rest 16 →
    let count := toSigned 64 (s.num r.addr 8)
    let waiter := s.num (r.addr + 8) 4
    let n := toSigned 64 r.op1
    (∀ (d : Fin 12) (k : Nat), r.code = 5 → r.origin = .acq d.val k →
      (n ≤ count → ∃ t, Gives (.semAcquire 0) s t ∧ t.homeQ = rest ∧ t.num r.addr 8 = ofSigned 64 (count - n) ∧
        OnlyBytes s t r.addr 8 ∧ t.replies = s.replies ++ [(d.val, k, 1)]) ∧
      (count < n → waiter < 2 ^ 31 ∨ fld waiter 0 24 = fld r.who 0 24 →
        ∃ t, Gives (.semAcquire 0) s t ∧ t.homeQ = rest ∧ t.num (r.addr + 8) 4 = fld r.who 0 24 + 2 ^ 31 ∧
          t.num (r.addr + 12) 4 = r.op1 % 2 ^ 32 ∧ OnlyBytes s t (r.addr + 8) 8 ∧ t.replies = s.replies ++ [(d.val, k, 2)]) ∧
      (count < n → 2 ^ 31 ≤ waiter → fld waiter 0 24 ≠ fld r.who 0 24 →
        ∃ t, Gives (.semAcquire 0) s t ∧ t.homeQ = rest ∧ t.mem = s.mem ∧ t.replies = s.replies ++ [(d.val, k, 3)])) ∧
    (r.code = 6 →
      (waiter < 2 ^ 31 → ∃ t, Gives (.semRelease 0) s t ∧ t.homeQ = rest ∧
        t.num r.addr 8 = (s.num r.addr 8 + r.op1) % 2 ^ 64 ∧ OnlyBytes s t r.addr 8) ∧
      (2 ^ 31 ≤ waiter → toSigned 32 (s.num (r.addr + 12) 4) ≤ toSigned 64 (s.num r.addr 8 + r.op1) →
        (∀ src flow tag, r.origin ≠ .remote src flow tag) → fld waiter 0 20 = s.selfCoord →
        ∃ t p, Gives (.semRelease 0) s t ∧ t.homeQ = rest ∧ t.num r.addr 8 = (s.num r.addr 8 + r.op1) % 2 ^ 64 ∧
          t.num (r.addr + 8) 4 = waiter % 2 ^ 31 ∧ OnlyBytes s t r.addr 12 ∧
          t.fab.eject[8] = s.fab.eject[8] ++ [(p, false)] ∧ p.type = 0x08 ∧ fieldB p.payload 0 8 = fld waiter 20 4 ∧
          fieldB p.payload 8 8 = r.addr))

/-- Atomics and semaphores at their home. -/
def Obligations.Atomics : Prop := AtomicWordResult ∧ AtomicRefusals ∧ SemaphoreAtHome

/-- R214, R217 and R222–R225: a buffered atomic line goes back unchanged; a scrub reads the next line of its unit and moves
on, and changes no byte; MEM_SCRUB takes new periods that are not reserved codes and a part whose period changes starts at its first line; a host
request at an address that the committed decoder decodes writes or reads the line at the top of deep memory, and without a
committed decoder nothing happens. -/
def Sys2Proof.Claims.ScrubAndWindow : Prop :=
  ∀ (s : State),
    (∀ a l, s.loc a = some l → Gives (.atomicBufferWriteback a) s
      { s with memc := { s.memc with atomBuf := s.memc.atomBuf.filter (fun k => k ≠ l / 64) } }) ∧
    (∀ u, u < 104 → s.quadReady (scrubQuad u) = true → s.scrubPeriod u ≠ 0 →
      s.underTest (scrubLoc u (tabGet 0 s.memc.scrub u)) = false →
      ∃ t, Gives (.scrubRead u []) s t ∧ t.mem = s.mem ∧ t.poison = s.poison ∧ t.regs = s.regs ∧
        tabGet 0 t.memc.scrub u = (tabGet 0 s.memc.scrub u + 1) % scrubLines u) ∧
    (∀ v, s.ready = true → v % 2 ^ 8 ≤ 168 → fld v 16 8 ≤ 240 →
      ∃ t, Gives (.memScrubWrite v) s t ∧ fld (t.reg 0x3004) 0 8 = v % 2 ^ 8 ∧ fld (t.reg 0x3004) 16 8 = fld v 16 8 ∧
        t.mem = s.mem ∧ (∀ e ∈ t.memc.scrub, e ∈ s.memc.scrub ∧
          (if e.1 < 64 then v % 2 ^ 8 = fld (s.reg 0x3004) 0 8 else fld v 16 8 = fld (s.reg 0x3004) 16 8))) ∧
    (∀ x hpa data, s.host.hdm = none → Gives (.cxlMemRequest x hpa data) s s) ∧
    (∀ base off data l, s.host.hdm = some base → s.host.linkUp = true → s.host.mem = true →
      off < s.host.cxlSets * (4 * 2 ^ 30) → HomeAnswers s (s.windowAddr off) l →
      Gives (.cxlMemRequest false (base + off) data) s
        (s.emit (.cxlMem (s.bytes (s.windowAddr off / 64 * 64) 64) (s.poisoned (s.windowAddr off)))) ∧
      (s.windowAddr off % 64 + data.length ≤ 64 → s.poisoned (s.windowAddr off) = false →
        ∃ t, Gives (.cxlMemRequest true (base + off) data) s t ∧ t.bytes (s.windowAddr off) data.length = data ∧
          OnlyBytes s t (s.windowAddr off) data.length))

/-- Lane tests, scrubbing and the host's window. -/
def Obligations.MemoryUpkeep : Prop := LaneTestRepairs ∧ ScrubAndWindow

/-- R161, R162, R165, R208, R218 and R298: movement engines. An engine takes the first queued movement of its die; a reserved
field ends it with status 2. A copy of one row between mapped, unpoisoned memory that do not overlap leaves the source's bytes at
the destination, changes no other byte, and counts. A put of one row sends its bytes in put packets to the named device; a
get of one row of at most 240 bytes sends a get request for it. An ended movement or helper operation counts with its
status. -/
def Obligations.MovementResult : Prop :=
  ∀ (cd : Cd) (s : State) (o : Op) (host : HostData) (hostOk : Bool),
    let d := s.die cd
    let src := o.av.getD 1 0
    let dst := o.av.getD 0 0
    let len := fld o.w 34 24
    (∀ e : Fin 4, d.mode ≠ .fenced → d.moving e = none → d.ops.find? (fun x => x.cls == 4 && x.st == .queued) = some o →
      let begun : Op := { o with st := .running, phys := e.val, wins := s.windows }
      (mReserved o.w = true →
        Gives (.movementStart cd ⟨e, host⟩) s (s.setDie cd (withOp d { o with st := .ended, status := 2, phys := e.val }))) ∧
      (mReserved o.w = false → o.code = 0 →
        ∃ t, Gives (.movementStart cd ⟨e, host⟩) s t ∧ (t.die cd).ops = (withOp d begun).ops ∧ t.mem = s.mem ∧ t.fab = s.fab) ∧
      (mReserved o.w = false → o.code = 1 → mRows o.w = 1 → s.sbHas (whoMove cd.val o.id) = false →
        tilesOfRows src len (mSs o.w) 1 = [] → s.rowsHeld src len (mSs o.w) 1 = false → src + len ≤ 2 ^ 48 →
        s.rangeMapped src len = true → s.rowStatus src len = 0 → s.rangePoisoned src len = false →
        ∃ u ps, Gives (.movementStart cd ⟨e, host⟩) s (u.sendAll ps (.op cd.val o.id)) ∧
          u = s.setDie cd (withOp d { begun with decided := true, status := 0, poison := false, packets := ps.length }) ∧
          (∀ p ∈ ps, p.type = 0x03 ∧ p.dst = o.sv.getD 1 0 % 2 ^ 20 ∧ p.flow = memFlow cd.val 0 e.val ∧ p.poison = 0) ∧
          ps.flatMap (fun p => sliceB p.payload 16 (p.len - 16)) = s.bytes src len) ∧
      (mReserved o.w = false → o.code = 2 → mRows o.w = 1 → len ≤ 240 → s.sbHas (whoMove cd.val o.id) = false →
        tilesOfRows dst len (mDs o.w) 1 = [] → s.rowsHeld dst len (mDs o.w) 1 = false → s.rowStatus dst len = 0 →
        o.asked = 0 → o.room = 0 →
        ∃ u p, Gives (.movementStart cd ⟨e, host⟩) s u ∧
          u = State.updDie ((s.setDie cd (withOp d begun)).sendFlow p (.op cd.val o.id)) cd (fun x => withOp x
            { begun with decided := true, status := 0, packets := len, row := 1, asked := 1, room := 1 }) ∧
          p.type = 0x04 ∧ p.dst = o.sv.getD 1 0 % 2 ^ 20 ∧ p.flow = memFlow cd.val 1 e.val ∧
          fieldB p.payload 0 8 = src % 2 ^ 48 ∧ fieldB p.payload 8 8 = dst % 2 ^ 48 ∧ fieldB p.payload 16 4 = len)) ∧
    (∀ c : Fin 16, d.op? o.id = some o → o.cls = 4 → o.code = 0 → o.st = .running → o.ctr = some c.val →
      s.moveReady cd o = true → mRows o.w = 1 → 0 < len → src + len ≤ dst ∨ dst + len ≤ src →
      s.rowStatus src len = 0 → s.rowStatus dst len = 0 → s.rangeMapped src len = true →
      s.rangeMapped dst len = true → s.rangePoisoned src len = false → s.rangePoisoned dst len = false →
      ∃ t, Gives (.movementComplete cd o.id false host hostOk) s t ∧ t.bytes dst len = s.bytes src len ∧
        OnlyBytes s t dst len ∧ (t.die cd).cnt[c].count = d.cnt[c].count + 1 ∧ (t.die cd).cnt[c].err = d.cnt[c].err ∧
        t.regs = s.regs ∧ t.poison = s.poison) ∧
    (d.op? o.id = some o → o.cls = 4 → o.st = .ended →
      Gives (.movementComplete cd o.id false host hostOk) s ((s.sbDrop (whoMove cd.val o.id)).updDie cd (fun x => x.finish o o.status))) ∧
    (d.op? o.id = some o → o.cls = 6 → o.st = .ended →
      Gives (.helperComplete cd o.id) s (s.setDie cd (d.finish o o.status)))

namespace Sys2Proof.Claims

/-- The next descriptor of a ring to start, with its op (R349, R354). -/
def Startable (s : State) (r : Nat) (c : Cmd) (op : Nat) : Prop := s.startable r = some c ∧ fieldB c.bytes 0 1 = op

/-- The state with that descriptor marked started. -/
abbrev begun (s : State) (c : Cmd) : State :=
  { s with host := { s.host with cmds := s.host.cmds.map (fun d => if d == c then { c with st := .started } else d) } }

/-- A command completes at once: its completion is held with a status and a first result word, and nothing else but its
entry among the fetched commands changes. -/
def CompletesWith (i : Instr) (s : State) (c : Cmd) (src status x1 : Nat) : Prop :=
  ∃ t e, Gives i s t ∧ t.host.heldQ = s.host.heldQ ++ [e] ∧ IsCompletion e c src status x1 0 ∧ t.mem = s.mem ∧
    t.dies = s.dies ∧ t.regs = s.regs ∧ (∀ d ∈ t.host.cmds, ¬(d.ring = c.ring ∧ d.idx = c.idx))

/-- Nothing keeps a write command from its line: the rings hold no tile, the line is in none, and no earlier request waits
for it. -/
def WriteFree (s : State) (a : Nat) : Prop := s.sbHas whoRing = false ∧ tileOf a = none ∧ s.lineHeld a = false

/-- The ring that RING_INDEX names. -/
abbrev indexed (s : State) : Ring := s.ring s.ringIndex

end Sys2Proof.Claims

open Sys2Proof.Claims

/-- R345, R346, R348, R349 and R354: doorbells and fetch. The snoop of a held line, and a poll where lines are not snooped,
read the line; a returned line gives each enabled command ring its host index, and a host index more than a ring's size ahead
puts the ring into error 1. A visit fetches one descriptor of the next ring, reserves an entry of its completion ring and
moves the device index on; a returned descriptor waits to start, completes with status 2 where it holds a reserved code
and with status 9 where its ring is disabling with abort, and a failed read puts its ring into error 3. -/
def Obligations.DoorbellsAndFetch : Prop :=
  ∀ (s : State),
    (∀ l, s.host.cache = true → bitAt (s.reg 0x2004) 16 = false → s.host.lines.contains l = true → s.hostReads = true →
      ∃ t, Gives (.doorbellSnoop l) s t ∧ t.out = .hostRead 0 (s.regPair 0x2008 + 64 * l) 64 :: s.out ∧
        t.host.lines = setDel s.host.lines l ∧ l ∈ t.host.reads ∧ t.host.rings = s.host.rings) ∧
    (∀ l, s.doorbellLines.contains l = true → s.host.cache = false → s.hostReads = true →
      ∃ t, Gives (.doorbellPoll l) s t ∧ t.out = .hostRead 2 (s.regPair 0x2008 + 64 * l) 64 :: s.out ∧ l ∈ t.host.reads) ∧
    (∀ l data r, s.host.reads.contains l = true → s.hostReads = true → r / 16 = l → (s.ring r).state = 1 →
      (s.ring r).kind = 0 →
      let v := fieldB data (4 * (r % 16)) 4
      ∃ t, Gives (.doorbellLineReturn l data true) s t ∧ (t.ring r).host = v ∧ l ∈ t.host.lines ∧ t.mem = s.mem ∧
        (t.ring r).state = (if (s.ring r).size < (v + 2 ^ 32 - (s.ring r).dev) % 2 ^ 32 then 3 else 1) ∧
        (t.ring r).err = (if (s.ring r).size < (v + 2 ^ 32 - (s.ring r).dev) % 2 ^ 32 then 1 else (s.ring r).err)) ∧
    (∀ r, s.hostReads = true → s.host.resume = [] → s.boot.failed = false → s.nextRing = some r → (s.ring r).bound ≠ r →
      ∃ t, Gives .ringFetch s t ∧ (t.ring r).dev = ((s.ring r).dev + 1) % 2 ^ 32 ∧
        (t.ring (s.ring r).bound).reserved = (s.ring (s.ring r).bound).reserved + 1 ∧
        t.host.cmds = s.host.cmds ++ [⟨r, (s.ring r).dev, .fetching, [], (s.ring r).bound⟩] ∧
        t.out = .hostRead (if s.host.cache then 1 else 2) ((s.ring r).base + 64 * ((s.ring r).dev % (s.ring r).size)) 64 :: s.out) ∧
    (∀ r data c, s.host.cmds.find? (fun d => d.ring == r && d.st == .fetching) = some c → s.host.resetting = 0 →
      ((s.ring r).state = 2 → (s.ring r).abort = true →
        CompletesWith (.descriptorReturn r data true) s { c with bytes := sliceB data 0 64 } 0 9 0) ∧
      (¬((s.ring r).state = 2 ∧ (s.ring r).abort = true) → descReserved (sliceB data 0 64) = false →
        Gives (.descriptorReturn r data true) s { s with host := { s.host with
          cmds := s.host.cmds.map (fun d => if d == c then { c with bytes := sliceB data 0 64, st := .ready } else d) } }) ∧
      (¬((s.ring r).state = 2 ∧ (s.ring r).abort = true) → descReserved (sliceB data 0 64) = true →
        CompletesWith (.descriptorReturn r data true) s { c with bytes := sliceB data 0 64 } 0 2 0) ∧
      (c.cring ≠ r → ∃ t, Gives (.descriptorReturn r data false) s t ∧ (t.ring r).state = 3 ∧ (t.ring r).err = 3 ∧
        t.host.heldQ.length = s.host.heldQ.length + 1 ∧ ∀ d ∈ t.host.cmds, d ≠ c))

/-- R182, R184, R206, R349, R351, R352 and R353: ring commands. A nop completes with status 0. A write stores its 1 to 32
bytes within one line and no other byte, and completes. A DMA joins the mover of its target with the shortest queue. A
start resets the registers of an idle or faulted sequencer and runs it at its entry with a0 its argument; a stop ends the
issue of a running one, abort dropping what has not started, and a second stop joins the first. A start of a running or
stopping sequencer and a stop of an idle or faulted one complete with status 3, both with status 6 where the die is fenced; a
start whose entry is no multiple of 16 completes with status 7; a write that leaves its line or mapped memory with status 7,
in a fenced window 6, and of a poisoned line 5. -/
def Sys2Proof.Claims.RingCommandResults : Prop :=
  ∀ (s : State) (r : Nat) (c : Cmd), s.host.resetting = 0 →
    let cd := cdOf (fieldB c.bytes 2 1)
    let a := fieldB c.bytes 8 6
    let n := fieldB c.bytes 16 1
    (Startable s r c 0 → CompletesWith (.ringNop r) s { c with st := .started } 0 0 0) ∧
    (Startable s r c 4 → WriteFree s a → a % 64 + n ≤ 64 → n ≤ 32 → s.mapped a = true → s.poisoned a = false →
      (∀ i, winDie a = some i → (s.die (cdOf i)).mode ≠ .fenced) →
      ∃ t e, Gives (.write r) s t ∧ t.bytes a n = sliceB c.bytes 32 n ∧ OnlyBytes s t a n ∧
        t.host.heldQ = s.host.heldQ ++ [e] ∧ IsCompletion e c 0 0 0 0 ∧ t.regs = s.regs ∧ t.dies = s.dies) ∧
    (Startable s r c 4 → WriteFree s a →
      (64 < a % 64 + n ∨ s.mapped a = false → CompletesWith (.write r) s { c with st := .started } 0 7 0) ∧
      (a % 64 + n ≤ 64 → s.mapped a = true →
        (∀ i, winDie a = some i → (s.die (cdOf i)).mode = .fenced →
          CompletesWith (.write r) s { c with st := .started } 0 6 0) ∧
        ((∀ i, winDie a = some i → (s.die (cdOf i)).mode ≠ .fenced) → s.poisoned a = true →
          CompletesWith (.write r) s { c with st := .started } 0 5 0))) ∧
    (∀ m, Startable s r c 1 → m = s.moverOf (if fieldB c.bytes 2 1 = 4 then [0, 1, 2, 3] else [fieldB c.bytes 2 1]) →
      0 ≤ s.led.bdCredit[fabBd (m.val / 4)] → s.led.held[fabBd (m.val / 4)] = false → s.led.brake = false →
      ∃ t, Gives (.dma r) s t ∧
        (s.host.movers[m] = [] → t.host.movers[m] = [⟨some { c with st := .started }, none, c.bytes, s.windows⟩]) ∧
        (∀ j l, s.host.movers[m] = j :: l → j.cmd = none ∨ j.wins ≠ [] →
          t.host.movers[m] = s.host.movers[m] ++ [⟨some { c with st := .started }, none, c.bytes, []⟩]) ∧ t.mem = s.mem ∧
        t.led.bdCredit[fabBd (m.val / 4)] = s.led.bdCredit[fabBd (m.val / 4)]
          - s.corrected12 (m.val / 4 % 4) (s.estDma (m.val / 4 % 4) c.bytes) ∧ t.dies = s.dies) ∧
    (Startable s r c 2 → (s.die cd).mode = .idle ∨ (s.die cd).mode = .faulted → a % 16 = 0 →
      ∃ t, Gives (.startProgram r) s t ∧ (t.die cd).mode = .running ∧ (t.die cd).pc = BitVec.ofNat 48 a ∧
        (t.die cd).fault = 0 ∧ (t.die cd).stall = .none ∧ (t.die cd).icache = [] ∧ (t.die cd).clk = 0 ∧
        (∀ i : Fin 32, (t.die cd).s[i] = 0) ∧ (∀ i : Fin 16, (t.die cd).cnt[i] = ⟨0, 0⟩) ∧
        (t.die cd).a[0] = BitVec.ofNat 48 (fieldB c.bytes 16 6) ∧ (∀ i : Fin 16, i ≠ 0 → (t.die cd).a[i] = 0) ∧
        (∀ i : Fin 8, (t.die cd).p[i] = decide (i = 0)) ∧ (t.die cd).tuns = (s.die cd).tuns ∧
        (t.die cd).startCmd = some { c with st := .started } ∧ t.mem = s.mem ∧ t.host.heldQ = s.host.heldQ ∧
        ∀ k : Cd, k ≠ cd → t.die k = s.die k) ∧
    (Startable s r c 2 → (s.die cd).mode = .idle ∨ (s.die cd).mode = .faulted → a % 16 ≠ 0 →
      CompletesWith (.startProgram r) s { c with st := .started } (1 + cd.val) 7 0) ∧
    (Startable s r c 2 → (s.die cd).mode = .running ∨ (s.die cd).mode = .stopping →
      CompletesWith (.startProgram r) s { c with st := .started } (1 + cd.val) 3 0) ∧
    (Startable s r c 2 → (s.die cd).mode = .fenced →
      CompletesWith (.startProgram r) s { c with st := .started } (1 + cd.val) 6 0) ∧
    (∀ x ∈ [(Instr.stopDrain r, false), (Instr.stopAbort r, true)], Startable s r c 3 → bitAt (fieldB c.bytes 8 1) 0 = x.2 →
      ((s.die cd).mode = .running →
        ∃ t, Gives x.1 s t ∧ (t.die cd).mode = .stopping ∧
          (∀ op rd y h, (s.die cd).stall = .access op rd y h → (t.die cd).stall = (s.die cd).stall) ∧
          ((∀ op rd y h, (s.die cd).stall ≠ .access op rd y h) → (t.die cd).stall = .none) ∧
          (∀ dev y k n, (s.die cd).stall = .semAcq dev y n .sent k → (k, dev, y, n) ∈ (t.die cd).semBack) ∧
          (t.die cd).ops = (s.die cd).ops.filter (fun o => !(x.2 && o.st == .queued)) ∧
          (t.die cd).dropped = ((s.die cd).ops.filter (fun o => x.2 && o.st == .queued)).length ∧
          (t.die cd).cnt = (s.die cd).cnt ∧ (t.die cd).s = (s.die cd).s ∧
          (t.die cd).stopCmds = (s.die cd).stopCmds ++ [{ c with st := .started }] ∧ t.mem = s.mem ∧
          t.host.heldQ = s.host.heldQ) ∧
      ((s.die cd).mode = .stopping →
        ∃ t, Gives x.1 s t ∧ (t.die cd).mode = .stopping ∧
          (t.die cd).stopCmds = (s.die cd).stopCmds ++ [{ c with st := .started }] ∧
          (t.die cd).dropped = (s.die cd).dropped + ((s.die cd).ops.filter (fun o => x.2 && o.st == .queued)).length ∧
          t.mem = s.mem ∧ t.host.heldQ = s.host.heldQ) ∧
      ((s.die cd).mode = .idle ∨ (s.die cd).mode = .faulted →
        CompletesWith x.1 s { c with st := .started } (1 + cd.val) 3 0) ∧
      ((s.die cd).mode = .fenced → CompletesWith x.1 s { c with st := .started } (1 + cd.val) 6 0))

/-- R206, R208, R351, R353 and R218: the DMA at the head of a mover moves one row between mapped, unpoisoned, untiled memory:
the source's bytes stand at the destination, no other byte changes, the mover goes on to its next work, and the command completes
with status 0 and the bytes written. -/
def Sys2Proof.Claims.DmaMovesRow : Prop :=
  ∀ (s : State) (m : Fin 16) (c : Cmd) (wins : List Nat) (rest : List MoverJob) (host : HostData) (hostOk : Bool),
    let b := c.bytes
    let src := fieldB b 8 6
    let dst := fieldB b 16 6
    let len := fieldB b 24 3
    s.host.movers[m] = ⟨some c, none, b, wins⟩ :: rest → s.dmaHeld b = false → b ≠ [] → s.host.resetting = 0 → 0 < len → fieldB b 28 2 = 0 →
    fieldB b 40 6 = 0 → src + len ≤ dst ∨ dst + len ≤ src → (∀ k : Cd, (s.die k).sb = []) →
    winDie src = none → winDie (src + (len - 1)) = none → winDie dst = none → winDie (dst + (len - 1)) = none →
    s.rangeMapped src len = true → s.rangeMapped dst len = true →
    s.rowStatus src len = 0 → s.rowStatus dst len = 0 → s.rangePoisoned src len = false → s.rangePoisoned dst len = false →
    ∃ t e, Gives (.dmaTransferEnd m host hostOk) s t ∧ t.bytes dst len = s.bytes src len ∧ OnlyBytes s t dst len ∧
      t.host.movers[m].map (·.desc) = rest.map (·.desc) ∧ t.host.heldQ = s.host.heldQ ++ [e] ∧ IsCompletion e c (13 + m.val) 0 len 0 ∧ t.regs = s.regs

/-- Ring commands, and the rows a DMA moves. -/
def Obligations.RingCommands : Prop := RingCommandResults ∧ DmaMovesRow

/-- R355, R357, R358, R359 and R360: the collector. It takes the oldest entry of a source into staging while one of its 512
entries is free; an event for a ring that is no enabled event ring is dropped and counted. A staged completion is written
at the ring's device index with its phase bit, in two posted writes, the device index rises and its reservation ends. A
staged event is written the same way, or lost and counted where its ring is full. The interrupt timer and the unmasking of
a vector send the message that was due. -/
def Sys2Proof.Claims.CollectorResults : Prop :=
  ∀ (s : State),
    (∀ e, s.host.heldQ.find? (fun x => x.src == e.src) = some e → e.isEvt = false → s.host.staging.length < 512 →
      ∃ t, Gives (.completionAccept e.src) s t ∧ t.host.heldQ = s.host.heldQ.erase e ∧ t.mem = s.mem ∧ t.dies = s.dies ∧
        t.host.staging = s.host.staging ++ [{ e with bytes := putB e.bytes 12 4 (s.ring e.cmdRing).dev }]) ∧
    (∀ e, s.host.heldQ.find? (fun x => x.src == e.src) = some e → e.isEvt = true → e.post = none →
      (let x := s.ring (e.ring.getD (fld (s.reg 0x2010) 0 13)); x.kind ≠ 2 ∨ x.state ≠ 1) →
      ∃ t, Gives (.completionAccept e.src) s t ∧ t.host.heldQ = s.host.heldQ.erase e ∧ t.host.staging = s.host.staging ∧
        t.reg 0x2018 = satAdd32 (s.reg 0x2018) 1) ∧
    (∀ r e, s.stagedFor r = some e → e.isEvt = false → s.hostReads = true → (s.ring r).irq = false → e.bytes.length = 64 →
      let x := s.ring r
      ∃ t b, Gives (.completionWrite r) s t ∧ t.out = .hostWrite (x.entry x.dev + 60) (b.drop 60) ::
          .hostWrite (x.entry x.dev) (b.take 60) :: s.out ∧ b = putB e.bytes 63 1 ((x.dev / x.size + 1) % 2) ∧
        (t.ring r).dev = (x.dev + 1) % 2 ^ 32 ∧ (t.ring r).reserved = x.reserved - 1 ∧
        t.host.staging = s.host.staging.erase e ∧ t.mem = s.mem) ∧
    (∀ r e, s.stagedFor r = some e → e.isEvt = true → e.post = none → s.hostReads = true → e.bytes.length = 64 →
      let x := s.ring r
      (x.size ≤ x.fill → ∃ t, Gives (.eventWrite r) s t ∧ t.out = s.out ∧ (t.ring r).lost = satAdd32 x.lost 1 ∧
        (t.ring r).dev = x.dev ∧ t.host.staging = s.host.staging.erase e) ∧
      (x.fill < x.size → x.lostNow = 0 → x.irq = false →
        ∃ t b, Gives (.eventWrite r) s t ∧ t.out = .hostWrite (x.entry x.dev + 60) (b.drop 60) ::
          .hostWrite (x.entry x.dev) (b.take 60) :: s.out ∧ b = putB e.bytes 63 1 ((x.dev / x.size + 1) % 2) ∧
          (t.ring r).dev = (x.dev + 1) % 2 ^ 32 ∧ t.host.staging = s.host.staging.erase e)) ∧
    (∀ r, (s.ring r).irq = true → fld (s.ring r).mod 8 16 ≠ 0 → (s.ring r).unsig ≠ 0 → s.hostReads = true →
      ∃ t, Gives (.interruptTimer r) s t ∧ (t.ring r).unsig = 0 ∧
        (s.host.msixOpen.contains (s.ring r).vector = true → t.out = .msix (s.ring r).vector
          (tabGet (0, 0) s.host.msixTab (s.ring r).vector).1 (tabGet (0, 0) s.host.msixTab (s.ring r).vector).2 :: s.out) ∧
        (s.host.msixOpen.contains (s.ring r).vector = false → t.out = s.out ∧ (s.ring r).vector ∈ t.host.msixPend)) ∧
    (∀ v addr data, v < 2048 → s.hostReads = true → s.host.msixPend.Nodup →
      (∀ x ∈ s.host.msixPend, x ≠ v → s.host.msixOpen.contains x = false) →
      (∃ t, Gives (.msixUnmask ⟨v, addr, data, false⟩) s t ∧ v ∈ t.host.msixOpen ∧ v ∉ t.host.msixPend ∧
        tabGet (0, 0) t.host.msixTab v = (addr % 2 ^ 64, data % 2 ^ 32) ∧
        t.out = (if s.host.msixPend.contains v then .msix v (addr % 2 ^ 64) (data % 2 ^ 32) :: s.out else s.out)) ∧
      (∃ t, Gives (.msixUnmask ⟨v, addr, data, true⟩) s t ∧ v ∉ t.host.msixOpen ∧ t.out = s.out ∧
        tabGet (0, 0) t.host.msixTab v = (addr % 2 ^ 64, data % 2 ^ 32)))

/-- R346, R361, R362, R344 and R366: ring control. Enable takes a disabled ring to enabled with every index, error and count
clear. Disable takes an enabled command ring to disabling, abort completing with status 9 each fetched descriptor that has
not started; a completion ring that an enabled command ring uses is not disabled and sets the write-refused flag. A
disabling ring with nothing left is disabled. The setup of a disabled ring is written; that of another is refused. -/
def Sys2Proof.Claims.RingControl : Prop :=
  ∀ (s : State), s.ready = true →
    let r := s.ringIndex
    let x := indexed s
    (x.state = 0 → ∃ t, Gives .ringEnable s t ∧ t.ring r = { x with
        state := 1, err := 0, dev := 0, host := 0, reserved := 0, lost := 0, lostNow := 0, unsig := 0, irqNow := false,
        abort := false } ∧ r / 16 ∈ t.host.reads ∧ t.mem = s.mem ∧ t.regs = s.regs) ∧
    (∀ y ∈ [(Instr.ringDisableDrain, false), (Instr.ringDisableAbort, true)],
      (x.state = 1 → x.kind = 0 → (s.inFlight r).filter (fun c => c.st == .ready) = [] →
        Gives y.1 s (s.setRing r { x with state := 2, abort := y.2 })) ∧
      (x.state = 1 → x.kind = 1 → s.ringBusy r = true → Gives y.1 s (s.orReg 0x2014 1))) ∧
    (∀ c, x.state = 1 → x.kind = 0 → s.host.resetting = 0 → (s.inFlight r).filter (fun c => c.st == .ready) = [c] →
      ∃ t e, Gives .ringDisableAbort s t ∧ (t.ring r).state = 2 ∧ t.host.heldQ = s.host.heldQ ++ [e] ∧
        IsCompletion e c 0 9 0 0) ∧
    (∀ k, (s.ring k).state = 2 → s.inFlight k = [] → s.stagedFor k = none → s.host.heldQ = [] →
      ∃ t, Gives (.ringDisableComplete k) s t ∧ t.ring k = { s.ring k with state := 0 } ∧ t.mem = s.mem) ∧
    (∀ v, v < 2 ^ 32 → (x.state = 0 → ∃ t, Gives (.ringConfigWrite 0x2024 v) s t ∧
        t.ring r = { x with base := setFld x.base 0 32 (v / 1024 * 1024) } ∧ t.regs = s.regs) ∧
      (x.state = 1 → Gives (.ringConfigWrite 0x2024 v) s (s.orReg 0x2014 1)))

/-- Completions written to the host, and the control of rings. -/
def Obligations.CompletionsAndRingControl : Prop := CollectorResults ∧ RingControl

/-- R223, R339, R363, R364, R365 and R438: the host link. Clearing Bus Master Enable sets its flag and stops requests; setting it
reads the doorbells again. A function-level or a CXL reset stops every running sequencer, discards what is held and staged,
the posts among it being complete, and keeps memory; a CXL reset takes the protocols and the decoder; it completes by returning the host block's registers to their reset values and disabling the rings. The
link is lost, returns and trains; PERST_N asserted acts as a loss and released as a CXL reset. -/
def Obligations.HostLinkAndResets : Prop :=
  ∀ (s : State),
    (s.host.bme = true → ∃ t, Gives .bmeClear s t ∧ t.host.bme = false ∧ bitAt (t.reg 0x2014) 3 = true ∧
      t.hostReads = false ∧ t.mem = s.mem ∧ t.host.heldQ = s.host.heldQ) ∧
    (s.host.bme = false → ∃ t, Gives .bmeSet s t ∧ t.host.bme = true ∧ (∀ l ∈ s.doorbellLines, l ∈ t.host.reads) ∧
      t.mem = s.mem) ∧
    (∀ y ∈ [(Instr.functionLevelReset, 1), (Instr.cxlReset, 2)], s.host.resetting = 0 →
      ∃ t, Gives y.1 s t ∧ t.host.resetting = y.2 ∧ t.host.heldQ = [] ∧ t.host.staging = [] ∧ t.mem = s.mem ∧
        t.poison = s.poison ∧ (∀ c : Cd, (s.die c).mode = .running → (t.die c).mode = .stopping) ∧
        ((∀ e ∈ s.host.heldQ ++ s.host.staging, e.post = none) → ∀ c : Cd, (s.die c).mode = .idle → t.die c = s.die c) ∧
        (∀ e ∈ s.host.heldQ ++ s.host.staging, ∀ cd id, e.post = some (cd, id) → ∀ o ∈ (t.die (cdOf cd)).ops, o.id ≠ id) ∧
        (y.2 = 2 → t.host.hdm = none ∧ t.host.mem = false ∧ t.host.cache = false) ∧ (∀ c ∈ t.host.cmds, c.st = .started)) ∧
    (s.host.resetting ≠ 0 → s.startedEnded = true →
      ∃ t, Gives .hostResetComplete s t ∧ t.host.resetting = 0 ∧ t.host.rings = [] ∧ t.host.cmds = [] ∧
        (∀ o, 0x2001 ≤ o → o < 0x3000 → t.reg o = regReset o) ∧
        (∀ o, o < 0x2001 ∨ 0x3000 ≤ o → t.reg o = s.reg o) ∧ t.mem = s.mem) ∧
    (s.host.linkUp = true → ∃ t, Gives .hostLinkLoss s t ∧ t.host.linkUp = false ∧ t.host.lostAt = s.time ∧
      bitAt (t.reg 0x2014) 2 = true ∧ t.host.heldQ = s.host.heldQ ∧ t.mem = s.mem ∧ t.dies = s.dies) ∧
    (s.host.linkUp = false → s.host.perst = false → s.host.width ≠ 0 → s.host.resetting = 0 → s.logQ.length < 256 →
      ∃ t e, Gives .hostLinkRestore s t ∧ t.host.linkUp = true ∧ t.host.heldQ = s.host.heldQ ++ [e] ∧
        IsEvent e 0x000B 0 s.time ∧
        t.logQ = s.logQ ++ [⟨s.time, 17, 6, 0, 0xFF, (s.time - s.host.lostAt) / 1000, 0⟩] ∧ t.mem = s.mem) ∧
    (∃ t, Gives .perstAssert s t ∧ t.host.perst = true ∧ t.host.linkUp = false ∧ t.mem = s.mem) ∧
    (s.host.perst = true → ∃ t, Gives .perstRelease s t ∧ t.host.perst = false ∧ 2 ≤ t.host.resetting ∧ t.mem = s.mem ∧
      t.host.heldQ = []) ∧
    (∀ width rate cache m mem hdm, (m = .off ∧ mem = false ∧ hdm = none ∨ m = .on hdm ∧ mem = true) → s.host.perst = false → s.boot.loaded = true → s.host.linkUp = false →
      width = 4 ∨ width = 8 ∨ width = 16 → 1 ≤ rate → rate ≤ 3 →
      ∃ t, Gives (.cxlLinkTrainingDone width rate cache m) s t ∧ t.host.linkUp = true ∧ t.host.cache = cache ∧
        t.host.mem = mem ∧
        t.host.cxlSets = (if s.host.cxlRst then fld (s.reg 0x3050) 0 7 else s.host.cxlSets) ∧
        t.host.hdm = (if t.host.cxlSets = 0 then none else hdm) ∧
        (s.host.width ≠ 0 → s.host.resetting = 0 → ∃ e, t.host.heldQ = s.host.heldQ ++ [e] ∧ IsEvent e 0x000B 0 s.time) ∧ bitAt (t.reg 0x2000) 0 = true ∧
        fld (t.reg 0x2000) 4 5 = width ∧ t.mem = s.mem) ∧
    (∀ i : Fin 3, s.host.linkUp = true → s.host.doeErr = false →
      ∃ b, Gives (.doeDiscovery i.val) s (s.emit (.doe b)) ∧ fieldB b 2 1 = [0, 2, 1].getD i.val 0) ∧
    (s.host.linkUp = true → s.host.doeErr = false →
      Gives .cdatRead s (s.emit (.doe (natLE 8 (s.host.cxlSets * 2 ^ 32)))))

namespace Sys2Proof.Claims

/-- The packet at the head of an ejection queue is the next in order of a flow its layer holds, in an accepted form: the
layer performs it, moves next on and counts it toward the flow's acknowledgement (R281, R295, R296). -/
def InOrder (s : State) (q : Fin 9) (p : Packet) (f : RxFlow) : Prop :=
  (∃ rest, s.fab.eject[q] = (p, false) :: rest) ∧ typeOnFlow p.type = true ∧ formatValid p = true ∧
  rxFind s.fab.rx[flowBd p.flow] p.src p.flow = some f ∧ p.seq = f.next ∧ f.next < 2 ^ 24 ∧ f.marks = [] ∧ f.held = [] ∧
  f.src = p.src ∧ f.flow = p.flow

/-- The layer took that packet: it left its queue, and its flow waits for the next sequence number. -/
def TookInOrder (t : State) (p : Packet) (f : RxFlow) : Prop :=
  ∃ g, rxFind t.fab.rx[flowBd p.flow] p.src p.flow = some g ∧ g.next = (f.next + 1) % 2 ^ 24 ∧ g.marks = []

/-- A flow that the sender holds. -/
abbrev txOf (s : State) (dst flow : Nat) : Option TxFlow := txFind s.fab.tx[flowBd flow] dst flow

end Sys2Proof.Claims

open Sys2Proof.Claims

/-- R292 and R294: a packet sent on a flow takes the next sequence number modulo 2^24 and the open mark until a first
acknowledgement; it is unacknowledged and offered for injection while the window and the store have room, and waits behind
otherwise. Other flows of the layer keep their packets. -/
def Obligations.FlowSendsInOrder : Prop :=
  ∀ (s : State) (p : Packet) (ow : Owner),
    let f := (txOf s p.dst p.flow).getD ⟨p.dst, p.flow, 0, [], [], false⟩
    let q := { p with seq := f.next % 2 ^ 24, opened := !f.opened }
    let room := f.unacked.length < fld (s.reg 0x401C) 0 7 ∧ f.backlog = [] ∧ txStored s.fab.tx[flowBd p.flow] < 16384
    (f.dst = p.dst ∧ f.flow = p.flow) →
    (room → txOf (s.sendFlow p ow) p.dst p.flow =
        some { f with next := (f.next + 1) % 2 ^ 24, unacked := f.unacked ++ [⟨q, ow, 0⟩] } ∧
      (q.dst ≠ s.selfCoord → (s.sendFlow p ow).fab.inj[flowBd p.flow] = s.fab.inj[flowBd p.flow] ++ [q])) ∧
    (¬room → txOf (s.sendFlow p ow) p.dst p.flow =
        some { f with next := (f.next + 1) % 2 ^ 24, backlog := f.backlog ++ [⟨q, ow, 0⟩] } ∧
      (s.sendFlow p ow).fab.inj = s.fab.inj) ∧
    (∀ d g, (d ≠ p.dst ∨ g ≠ p.flow) → txOf (s.sendFlow p ow) d g = txOf s d g) ∧ (s.sendFlow p ow).mem = s.mem

/-- R161, R213, R279, R295, R296 and R298 with Table 8-6: packets of a flow performed in order. A put stores its bytes at their
home and no others. A get request of up to 240 bytes is answered with the bytes read, and held in the layer while they are not
free. A get reply stores its bytes, and counts them and its room off its instruction, here one with no request left to send. An
atomic request joins the homes' queue; its reply completes the instruction that sent it. -/
def Sys2Proof.Claims.MemoryPacketsPerformed : Prop :=
  ∀ (s : State) (q : Fin 9) (p : Packet) (f : RxFlow), InOrder s q p f →
    let b := p.payload
    let n := p.len - 16
    let a := fieldB b 0 6
    (p.type = 0x03 → p.poison = 0 → s.putFree p = true → s.rowStatus a n = 0 → s.rangeMapped a n = true → s.mapped a = true →
      s.rangePoisoned a n = false →
      ∃ t, Gives (.putPacket q) s t ∧ TookInOrder t p f ∧ t.bytes a n = sliceB b 16 n ∧ OnlyBytes s t a n ∧ t.dies = s.dies) ∧
    (∀ k h ok, p.type = 0x04 → s.fab.gets = [] → k = fieldB b 16 4 → s.readFree a k = false →
      ∃ t, Gives (.getRequest q h ok) s t ∧ TookInOrder t p f ∧ t.mem = s.mem ∧ t.dies = s.dies ∧ t.fab.gets = [p] ∧
        t.fab.tx = s.fab.tx) ∧
    (∀ k h ok, p.type = 0x04 → s.fab.gets = [] → k = fieldB b 16 4 → 1 ≤ k → k ≤ 240 → s.readFree a k = true → s.rowStatus a k = 0 →
      s.rangeMapped a k = true → s.mapped a = true → txOf s p.src (replyFlow p.flow) = none → 1 ≤ fld (s.reg 0x401C) 0 7 →
      txStored s.fab.tx[flowBd (replyFlow p.flow)] < 16384 → p.src < 2 ^ 20 →
      ∃ t g r, Gives (.getRequest q h ok) s t ∧ TookInOrder t p f ∧ t.mem = s.mem ∧
        txOf t p.src (replyFlow p.flow) = some g ∧ g.unacked = [r] ∧ r.pkt.type = 0x05 ∧ r.pkt.seq = 0 ∧
        r.pkt.opened = true ∧ r.pkt.len = 16 + k ∧ sliceB r.pkt.payload 16 k = s.bytes a k ∧
        fieldB r.pkt.payload 0 6 = fieldB b 8 6 ∧ fieldB r.pkt.payload 8 4 = fieldB b 20 4) ∧
    (∀ cd o, p.type = 0x05 → p.poison = 0 → s.linesFree p = true → s.rowStatus a n = 0 → s.rangeMapped a n = true →
      s.mapped a = true → s.rangePoisoned a n = false → s.taggedOp p.flow (fieldB b 8 4) 4 2 = some (cd, o) →
      s.nextAsk cd o.phys o = none →
      ∃ t, Gives (.getReply q) s t ∧ TookInOrder t p f ∧ t.bytes a n = sliceB b 16 n ∧ OnlyBytes s t a n ∧
        (t.die (cdOf cd)).ops = (withOp (s.die (cdOf cd)) { o with packets := o.packets - n, room := o.room - 1 }).ops) ∧
    (p.type = 0x06 → fieldB b 8 1 ≤ 6 →
      ∃ t, Gives (.atomicRequest q) s t ∧ TookInOrder t p f ∧ t.mem = s.mem ∧ t.dies = s.dies ∧
        t.homeQ = s.homeQ ++ [⟨fieldB b 8 1, a, fieldB b 16 8, fieldB b 24 8, fieldB b 32 4 % 2 ^ 24,
          .remote p.src p.flow (fieldB b 12 4)⟩]) ∧
    (∀ cd o, p.type = 0x07 → s.taggedOp p.flow (fieldB b 0 4) 5 0 = some (cd, o) →
      ∃ t, Gives (.atomicReply q) s t ∧ TookInOrder t p f ∧ t.mem = s.mem ∧
        t.dies = (s.finishOp cd o.id (atomStatus (fieldB b 4 1))).dies)

/-- R281, R293 and R296: a packet that its layer finds in a reserved form, of a length its type does not permit or with a
reserved index of its flow, is discarded and counted, and changes no byte of memory;
a duplicate is discarded and acknowledged again; one beyond the window of 32 is discarded. None of them is performed. -/
def Sys2Proof.Claims.PacketsDiscarded : Prop :=
  ∀ (s : State) (q : Fin 9) (p : Packet) (rest : List (Packet × Bool)), s.fab.eject[q] = (p, false) :: rest →
    (p.type = 0x06 → 256 < p.len ∨ p.len < 32 ∨ (fld p.flow 6 2 = 1 ∧ (12 ≤ fld p.flow 8 6 ∨ 3 ≤ fld p.flow 4 2 ∨ 4 ≤ fld p.flow 0 4)) →
      ∃ t, Gives (.atomicRequest q) s t ∧ t.fab.eject[q] = rest ∧ t.reg 0x4088 = satAdd32 (s.reg 0x4088) 1 ∧
        t.homeQ = s.homeQ ∧ t.mem = s.mem ∧ t.fab.rx = s.fab.rx) ∧
    (∀ f, p.type = 0x06 → formatValid p = true → rxFind s.fab.rx[flowBd p.flow] p.src p.flow = some f →
      (modDiff 24 p.seq f.next < 0 ∨ 32 ≤ modDiff 24 p.seq f.next) →
      ∃ t, Gives (.atomicRequest q) s t ∧ t.homeQ = s.homeQ ∧ t.mem = s.mem ∧ t.dies = s.dies)

/-- Packets of memory performed in order, and packets discarded. -/
def Obligations.PacketsTaken : Prop := MemoryPacketsPerformed ∧ PacketsDiscarded

/-- R292, R294, R295, R297: acknowledgement and retransmission. A record releases the packets it names and no other; an
acknowledgement delay sends the flow's record; a packet that times out is sent again with age 0 while retries are left, and
fails its flow, which is released, counted, logged and reported to the driver and the maltster, when none is; idle flows are
released. -/
def Sys2Proof.Claims.DeliveryTimers : Prop :=
  ∀ (s : State) (peer flow : Nat),
    (∀ (q : Fin 9) (p : Packet) (rest : List (Packet × Bool)) (f : TxFlow), s.fab.eject[q] = (p, false) :: rest →
      p.type = 0x02 → p.len = 16 → p.src = peer → fieldB p.payload 0 2 = flow → fieldB p.payload 4 4 % 2 ^ 20 = s.selfCoord →
      bitAt (fieldB p.payload 2 1) 0 = false → txOf s peer flow = some f → f.dst = peer → f.flow = flow → f.backlog = [] →
      (∀ x ∈ f.unacked, x.owner = .none) →
      ∃ t, Gives (.ackPacket q) s t ∧ (q ≠ 8 → t.fab.eject[q] = rest) ∧ t.mem = s.mem ∧ t.dies = s.dies ∧
        txOf t peer flow = some { f with
          opened := true, unacked := f.unacked.filter (fun x => !recordHas (fieldB p.payload 8 3) (fieldB p.payload 12 4) x.pkt.seq) }) ∧
    (∀ g, rxFind s.fab.rx[flowBd flow] peer flow = some g → g.src = peer → g.flow = flow → g.unacked ≠ 0 → peer ≠ s.selfCoord →
      peer < 2 ^ 20 →
      ∃ t p, Gives (.ackDelayExpire peer flow) s t ∧ t.mem = s.mem ∧
        t.fab.inj[flowBd flow] = s.fab.inj[flowBd flow] ++ [p] ∧ p.type = 0x02 ∧ p.dst = peer ∧
        fieldB p.payload 0 2 = g.flow % 2 ^ 16 ∧ fieldB p.payload 8 3 = g.next % 2 ^ 24 ∧
        rxFind t.fab.rx[flowBd flow] peer flow = some { g with unacked := 0 }) ∧
    (∀ f x, txOf s peer flow = some f → f.dst = peer → f.flow = flow →
      f.unacked.find? (fun y => y.pkt.seq == x.pkt.seq) = some x →
      (x.tries < fld (s.reg 0x4018) 16 4 → x.pkt.dst ≠ s.selfCoord →
        ∃ t, Gives (.retransmitTimeout peer flow x.pkt.seq) s t ∧ t.reg 0x408C = satAdd32 (s.reg 0x408C) 1 ∧ t.mem = s.mem ∧
          t.fab.inj[flowBd flow] = s.fab.inj[flowBd flow] ++
            [{ (x.pkt : Packet) with age := 0, epoch := fld (s.reg 0x4000) 8 2, opened := !f.opened }]) ∧
      (fld (s.reg 0x4018) 16 4 ≤ x.tries → (∀ y ∈ f.unacked ++ f.backlog, y.owner = .none) → s.host.resetting = 0 →
        s.logQ.length < 256 →
        ∃ t e, Gives (.retransmitTimeout peer flow x.pkt.seq) s t ∧ t.reg 0x4090 = satAdd32 (s.reg 0x4090) 1 ∧
          txOf t peer flow = none ∧ t.out = .maltster 0x0004 e.bytes :: s.out ∧ t.logQ = s.logQ ++ [⟨s.time, 11, 6, 0, 0xFF, flow, peer⟩] ∧ t.host.heldQ = s.host.heldQ ++ [e] ∧
          IsEvent e 0x0004 29 s.time ∧ bitAt (t.reg 0x4014) 4 = true ∧ t.mem = s.mem)) ∧
    (∀ f, txOf s peer flow = some f → f.unacked = [] → f.backlog = [] →
      ∃ t, Gives (.senderFlowIdle peer flow) s t ∧ txOf t peer flow = none ∧ t.mem = s.mem) ∧
    (∃ t, Gives (.receiverFlowIdle peer flow) s t ∧ rxFind t.fab.rx[flowBd flow] peer flow = none ∧ t.mem = s.mem ∧
      ∀ p g, (p ≠ peer ∨ g ≠ flow) → rxFind t.fab.rx[flowBd g] p g = rxFind s.fab.rx[flowBd g] p g)

/-- R203 and R227: a memory layout register takes its word while the device is quiet, and is refused with the flag set
otherwise; FAB_RD_CTRL takes a new window at any time after ready. -/
def Sys2Proof.Claims.LayoutWrites : Prop :=
  ∀ (s : State) (off v : Nat), s.ready = true → v < 2 ^ 32 →
    ((off = 0x3010 ∨ off = 0x3014 ∨ (0x3020 ≤ off ∧ off ≤ 0x304C ∧ off % 4 = 0)) →
      Gives (.memLayoutWrite off v) s (if s.quiet then s.setReg off v else s.orReg 0x3008 1)) ∧
    (fld v 24 6 = fld (s.reg 0x401C) 24 6 → 1 ≤ fld v 0 7 → fld v 0 7 ≤ 64 →
      ∃ t, Gives (.fabRdCtrlWrite v) s t ∧ fld (t.reg 0x401C) 0 7 = fld v 0 7 ∧ t.mem = s.mem ∧ t.fab = s.fab)

/-- The timers of reliable delivery, and its registers. -/
def Obligations.DeliveryTimersAndLayout : Prop := DeliveryTimers ∧ LayoutWrites

namespace Sys2Proof.Claims

/-- Lanes in a mask of four, at least three of them (R273). -/
def Lanes3 (m : Nat) : Prop := 3 ≤ laneCount m

/-- A port's state leaves with its bring-up progress and queue cleared. -/
abbrev restarted (x : PortSt) (st lanes : Nat) : PortSt :=
  { x with state := st, testOk := false, goSent := false, goRecv := false, elastic := [], lanes := lanes }

/-- Only the port has changed. -/
abbrev withPort (s : State) (p : Port) (x : PortSt) : State := { s with fab := { s.fab with ports := s.fab.ports.set p x } }

/-- A routing table as R288 admits one: extents in range, every component of its own coordinate below its extent. -/
def TableOk (t : RTable) : Prop :=
  ∀ a : Fin 4, 1 ≤ t.ext[a] ∧ t.ext[a] ≤ (if a = 3 then 16 else 32) ∧ coordAxis t.self a.val < t.ext[a]

/-- A slot round with nothing to inject in which one port alone has a slot to give. -/
def OneArrival (s : State) (p : Port) (k : Packet) (rest : List Packet) : Prop :=
  s.ready = true ∧ s.transmits p.val = true ∧ s.fab.ports[p].elastic = k :: rest ∧
  (∀ o : Port, o ≠ p → s.fab.ports[o].elastic = []) ∧ (∀ b : Fin 4, s.fab.inj[b] = []) ∧ k.cls ≠ 3

/-- The packet a hop older (R284). -/
abbrev aged (k : Packet) : Packet := { k with age := min (k.age + 1) 255 }

end Sys2Proof.Claims

open Sys2Proof.Claims

/-- R274–R276, R306 and Tables 8-1 and 8-2: bring-up of a port. Enable starts it in state 1 and disable ends it in state 0, but
for the port of a fenced link die, which stays; a port whose timing selection is not set does not leave test; signal on
three lanes, training, the neighbour's identity and the exchange of go slots after a passed test take it on, each from its own state;
a step that times out starts again. A four-lane port comes up in state 5. -/
def Sys2Proof.Claims.PortBringUp : Prop :=
  ∀ (s : State) (p : Port),
    let x := s.fab.ports[p]
    (s.ready = true → s.reg (portCtrl p) = 0 → s.boot.failed = false → (s.hafDie (80 + p.val)).state < 4 →
      ∃ t, Gives (.portEnable p) s t ∧ t.fab.ports[p] = restarted x 1 0 ∧ t.reg (portCtrl p) = 1 ∧ t.mem = s.mem ∧
        ∀ o : Port, o ≠ p → t.fab.ports[o] = s.fab.ports[o]) ∧
    (s.ready = true → s.boot.failed = false → (s.hafDie (80 + p.val)).state < 4 →
      ∃ t, Gives (.portDisable p) s t ∧ t.fab.ports[p] = restarted x 0 0 ∧ t.reg (portCtrl p) = 0 ∧ t.mem = s.mem) ∧
    (s.ready = true → s.reg (portCtrl p) = 0 → (s.hafDie (80 + p.val)).state = 5 →
      ∃ t, Gives (.portEnable p) s t ∧ t.fab = s.fab ∧ t.reg (portCtrl p) = 1 ∧ t.mem = s.mem) ∧
    (∀ m : Fin 16, x.state = 1 → Lanes3 m.val → Gives (.portSignalDetect p m) s (withPort s p (restarted x 2 m.val))) ∧
    (∀ m : Fin 16, x.state = 2 → Lanes3 m.val →
      Gives (.portTrainingDone p m) s (withPort s p { x with state := 3, lanes := m.val })) ∧
    (∀ t c n m, x.state = 3 → s.table (fld (s.reg 0x4000) 8 2) = some t → c < 2 ^ 20 → expectNeighbour t p = some (c, n) →
      Lanes3 (x.lanes &&& m) →
      Gives (.identitySlot p c n m) s (withPort s p { x with state := 4, lanes := x.lanes &&& m, neighbour := c })) ∧
    (∀ t c n m, x.state = 3 → s.table (fld (s.reg 0x4000) 8 2) = some t → expectNeighbour t p ≠ some (c, n) →
      ∃ u, Gives (.identitySlot p c n m) s u ∧ u.fab.ports[p].state = 7 ∧ u.fab.ports[p].mismatches = x.mismatches + 1 ∧ bitAt (u.reg 0x4014) 1 = true ∧ u.mem = s.mem) ∧
    (x.state = 3 ∨ x.state = 4 →
      Gives (.identitySendTimer p) s (s.emit (.portSlot p.val 0 (s.selfCoord + p.val * 2 ^ 32 + x.lanes * 2 ^ 40)))) ∧
    (x.state = 4 → x.goRecv = false → bitAt (s.reg 0x4028) 19 = true →
      Gives (.portTestEnd p true) s ((withPort (s.emit (.portSlot p.val 1 65536)) p
        { x with testOk := true, goSent := true }).emit (.portSlot p.val 2 0))) ∧
    (x.state = 4 → bitAt (s.reg 0x4028) 12 = false → bitAt (s.reg 0x4028) 19 = false → Gives (.portTestEnd p true) s s) ∧
    (x.state = 4 → x.goSent = false → Gives (.goSlot p) s (withPort s p { x with goRecv := true })) ∧
    (x.state = 4 → x.goSent = true → x.lanes = 15 →
      ∃ t, Gives (.goSlot p) s t ∧ t.fab.ports[p] = restarted x 5 15 ∧ t.mem = s.mem ∧ t.regs = s.regs) ∧
    (1 ≤ x.state → x.state ≤ 4 → Gives (.bringupStepTimeout p) s (withPort s p (restarted x 1 0)))

/-- R270, R271, R303 and R304 with Tables 8-1, 8-12 and 11-3: link events. An up port that loses a lane, or on one of whose lanes a ninth
codeword within 1 ms is uncorrectable, keeps three, tells its neighbour, counts, and sends its event to the maltster as well; a second lost lane, or no valid slot for the fault-detect time, takes it down, logged and
degrading the device. A neighbour's lane drop does the same on this side. The slot PLL locks to the first listed source that
gives a clock, and goes to the next one, or to holdover, when its port is lost. -/
def Sys2Proof.Claims.PortLinkEvents : Prop :=
  ∀ (s : State) (p : Port),
    let x := s.fab.ports[p]
    (∀ l : Fin 4, x.state = 5 → x.lanes = 15 →
      ∃ t, Gives (.laneLockLoss p l) s t ∧ t.fab.ports[p] = { x with state := 6, lanes := 15 - 2 ^ l.val, laneDrops := x.laneDrops + 1 } ∧
        (∃ b, t.out = .maltster 0x0004 b :: .portSlot p.val 3 (15 - 2 ^ l.val) :: s.out) ∧ bitAt (t.reg 0x4014) 3 = true ∧ t.mem = s.mem) ∧
    (∀ l : Fin 4, x.state = 6 → bitAt x.lanes l.val = true → s.logQ.length < 256 →
      ∃ t, Gives (.laneLockLoss p l) s t ∧ t.fab.ports[p].state = 8 ∧ t.fab.ports[p].downs = x.downs + 1 ∧
        t.logQ = s.logQ ++ [⟨s.time, 10, 4, p.val, p.val, 0, 0⟩] ∧ (∃ b, t.out = .maltster 0x0004 b :: s.out) ∧
        bitAt (t.reg 0x4014) 2 = true ∧ bitAt (t.reg 0x7000) 0 = true ∧ t.mem = s.mem) ∧
    (∀ m, x.state = 5 → x.lanes = 15 → laneCount (15 &&& m) = 3 →
      ∃ t, Gives (.laneDropSlot p m) s t ∧ t.fab.ports[p] = { x with state := 6, lanes := 15 &&& m, laneDrops := x.laneDrops + 1 } ∧ t.mem = s.mem) ∧
    (∀ m, x.state = 5 ∨ x.state = 6 → x.lanes &&& m ≠ x.lanes → laneCount (x.lanes &&& m) < 3 →
      ∃ t, Gives (.laneDropSlot p m) s t ∧ t.fab.ports[p].state = 8 ∧ t.mem = s.mem) ∧
    (x.state = 5 ∨ x.state = 6 → s.logQ.length < 256 →
      ∃ t, Gives (.faultDetectExpire p) s t ∧ t.fab.ports[p].state = 8 ∧
        t.logQ = s.logQ ++ [⟨s.time, 10, 4, p.val, p.val, 1, 0⟩] ∧ bitAt (t.reg 0x4014) 2 = true ∧ t.mem = s.mem) ∧
    (∀ (l : Fin 4) (m : Fin 16) ls crc, x.state = 5 → x.lanes = 15 → m.val = 2 ^ l.val →
      x.badWords = List.replicate 8 (l.val, s.time) →
      ∃ t, Gives (.slotReceive p ls crc m) s t ∧ t.fab.ports[p].state = 6 ∧ t.fab.ports[p].lanes = 15 - 2 ^ l.val ∧
        t.fab.ports[p].elastic = x.elastic ∧ t.mem = s.mem) ∧
    (∀ i, bitAt (s.reg 0x4028) 12 = true → s.timingFrom 0 = some i →
      ∃ t, Gives .slotClockLocked s t ∧ fld (t.reg 0x4028) 16 3 = i ∧ bitAt (t.reg 0x4028) 19 = true ∧
        fld (t.reg 0x4028) 0 13 = fld (s.reg 0x4028) 0 13 ∧ t.mem = s.mem) ∧
    (∀ c, bitAt (s.reg 0x4028) 12 = true → fld (s.reg 0x4028) 16 3 = c → c < 3 →
      s.timingSource (fld (s.reg 0x4028) (4 * c) 4) = false →
      ∃ t, Gives .timingPortLost s t ∧ fld (t.reg 0x4028) 16 3 = (s.timingFrom (c + 1)).getD 7 ∧
        bitAt (t.reg 0x4028) 19 = (s.timingFrom (c + 1)).isSome ∧ t.mem = s.mem)

/-- Ports brought up, degraded and lost. -/
def Obligations.PortLife : Prop := PortBringUp ∧ PortLinkEvents

/-- R268, R272, R280, R283, R284 and R303: byte i of a slot travels on lane i mod L of the L lanes in use. A slot that passes its
checks waits in its port's elastic store while eight do not wait there; one that fails is discarded and counted, with the lanes
whose codeword was uncorrectable. In a slot round a packet for this device goes to a free ejection path; a packet
for another leaves, a hop older, on its one productive port; a packet at its hop limit is discarded and counted. -/
def Obligations.RouterRoundMoves : Prop :=
  ∀ (s : State) (p : Port),
    (∀ (l : Nat) (bs : List Byte), 0 < l → unstripe (stripe l bs) = bs ∧
      ∀ i, i < bs.length → ((stripe l bs).getD (i % l) []).getD (i / l) 0 = bs.getD i 0) ∧
    (∀ (ls : List (List Byte)) (k : Packet), s.fab.ports[p].state = 5 → ls.length = laneCount s.fab.ports[p].lanes →
      packetOf (sliceB (unstripe ls) 0 272) = k → 2 ≤ k.type → s.fab.ports[p].elastic.length < 8 →
      Gives (.slotReceive p ls (crc32c (sliceB (unstripe ls) 0 272)) 0) s
        (withPort s p { s.fab.ports[p] with elastic := s.fab.ports[p].elastic ++ [k] })) ∧
    (∀ (ls : List (List Byte)) (crc : Nat) (bad : Fin 16), s.fab.ports[p].state = 5 → s.fab.ports[p].badWords = [] →
      bad ≠ 0 ∨ crc ≠ crc32c (sliceB (unstripe ls) 0 272) →
      Gives (.slotReceive p ls crc bad) s (withPort s p { s.fab.ports[p] with
        discarded := s.fab.ports[p].discarded + 1, badWords := (lanesOf bad.val).map (fun i => (i, s.time)) })) ∧
    (∀ k rest, OneArrival s p k rest → k.dst = s.selfCoord →
      ∀ q : Fin 9, q.val = p.val / 2 * 2 → s.fab.eject[q].length < 64 →
        ∃ t, Gives .routerRound s t ∧ t.fab.eject[q] = s.fab.eject[q] ++ [(aged k, false)] ∧
          t.fab.ports[p].elastic = rest ∧ t.fab.round = s.fab.round + 1 ∧ t.mem = s.mem) ∧
    (∀ k rest rt o, OneArrival s p k rest → k.dst ≠ s.selfCoord → min (k.age + 1) 255 < k.hop →
      s.table k.epoch = some rt → productive rt k.dst = [o] → o < 8 → s.transmits o = true →
      let on := lanesOf s.fab.ports[portOf o].lanes
      ∃ t, Gives .routerRound s t ∧ t.fab.eject = s.fab.eject ∧
        .slot o (on.zip (stripe on.length (packetBytes (aged k)))) (crc32c (packetBytes (aged k))) ∈ t.out ∧
        t.fab.ports[p].elastic = rest ∧ t.fab.round = s.fab.round + 1 ∧ t.mem = s.mem) ∧
    (∀ k rest, OneArrival s p k rest → k.dst ≠ s.selfCoord → k.hop ≤ min (k.age + 1) 255 →
      ∃ t, Gives .routerRound s t ∧ t.reg 0x4080 = satAdd32 (s.reg 0x4080) 1 ∧ t.fab.eject = s.fab.eject ∧
        t.fab.ports[p].elastic = rest ∧ t.mem = s.mem)

/-- R278, R284: each port of a packet's productive set, where the table holds no exceptions, leads to a neighbour one hop nearer
its destination on that port's axis. -/
def Obligations.ProductivePortsApproach : Prop :=
  ∀ (t : RTable) (dst : Nat) (p : Port) (c n : Nat), TableOk t → t.excs = [] → t.self < 2 ^ 19 → dst < 2 ^ 19 →
    (∀ a : Fin 4, coordAxis dst a.val < t.ext[a]) → p.val ∈ productive t dst → expectNeighbour t p = some (c, n) →
    remaining { t with self := c } dst (p.val / 2) + 1 = remaining t dst (p.val / 2)

/-- R288–R291 and R302: a validate command loads a table from a sound block into a slot that is not in use, and is rejected with the
table flag otherwise; invalidate empties a slot; the inject epoch changes only to one a valid slot holds, which starts the
hold of the slot left; the hold ends; a congestion map is written to its buffer, its counts start again. -/
def Obligations.RoutingTables : Prop :=
  ∀ (s : State) (i : Fin 2) (e : Fin 4), s.ready = true →
    let a := s.regPair 0x400C % 2 ^ 48 + 4096 * i.val
    let cmd (v : Nat) : Prop := fld v 0 1 = i.val ∧ fld v 1 2 = e.val
    (∀ v, cmd v → bitAt v 3 = true → bitAt v 4 = false → s.slotLocked i.val = false →
      ((s.tableSlot (1 - i.val)).valid = false ∨ (s.tableSlot (1 - i.val)).epoch ≠ e.val) →
      s.rangeMapped a 4096 = true → s.rangePoisoned a 4096 = false →
      (blockBad (s.bytes a 4096) = false →
        ∃ t, Gives (.validate v) s t ∧ t.fab.tables[i].valid = true ∧ t.fab.tables[i].epoch = e.val ∧
          t.fab.tables[i].self = fieldB (s.bytes a 4096) 0 4 % 2 ^ 20 ∧
          (∀ x : Fin 4, t.fab.tables[i].ext[x] = fieldB (s.bytes a 4096) (4 + x.val) 1) ∧ t.mem = s.mem ∧ t.regs = s.regs ∧
          ∀ j : Fin 2, j ≠ i → t.fab.tables[j] = s.fab.tables[j]) ∧
      (blockBad (s.bytes a 4096) = true →
        ∃ t, Gives (.validate v) s t ∧ t.fab.tables = s.fab.tables ∧ bitAt (t.reg 0x4014) 0 = true ∧ t.mem = s.mem)) ∧
    (∀ v, cmd v → bitAt v 4 = true → bitAt v 3 = false → s.slotLocked i.val = false →
      ∃ t, Gives (.invalidate v) s t ∧ t.fab.tables[i].valid = false ∧ t.mem = s.mem ∧ t.regs = s.regs) ∧
    (∀ v, cmd v → bitAt v 4 = true → bitAt v 3 = false → s.slotLocked i.val = true →
      ∃ t, Gives (.invalidate v) s t ∧ t.fab.tables = s.fab.tables ∧ bitAt (t.reg 0x4014) 0 = true) ∧
    (∀ v, fld v 8 2 = e.val → fld v 0 8 ≠ 0 →
      ((s.table e.val).isSome = true → e.val ≠ fld (s.reg 0x4000) 8 2 →
        ∃ t, Gives (.injectEpochWrite v) s t ∧ fld (t.reg 0x4000) 8 2 = e.val ∧ fld (t.reg 0x4000) 0 8 = fld v 0 8 ∧
          t.fab.hold.isSome = true ∧ t.fab.tables = s.fab.tables ∧ t.mem = s.mem) ∧
      (s.table e.val = none →
        ∃ t, Gives (.injectEpochWrite v) s t ∧ fld (t.reg 0x4000) 8 2 = fld (s.reg 0x4000) 8 2 ∧
          bitAt (t.reg 0x4014) 0 = true ∧ t.fab = s.fab)) ∧
    Gives .rtHoldExpire s { s with fab := { s.fab with hold := none } } ∧
    (∀ b, fld (s.reg 0x402C) 0 16 ≠ 0 → bitAt (s.reg 0x402C) 29 = false →
      b = s.regPair 0x4030 % 2 ^ 48 + 256 * (s.fab.mapSeq % 2) → s.rangeMapped b 256 = true → s.rangePoisoned b 256 = false →
      ∃ t, Gives .congestionMapPeriod s t ∧ t.bytes b 4 = natLE 4 s.fab.mapSeq ∧ OnlyBytes s t b 256 ∧
        t.fab.mapSeq = (s.fab.mapSeq + 1) % 2 ^ 32 ∧ t.fab.mapHop = 0 ∧ ∀ p : Port, t.fab.ports[p].sent = 0)

namespace Sys2Proof.Claims

/-- The operations of a collective descriptor that an engine holds for its start (Table 9-1): command, op. -/
def collRows : List ((Cd → HelperTake → Instr) × Nat) :=
  [(.allReduce, 0), (.reduceScatter, 1), (.allGather, 2), (.broadcast, 3), (.reduce, 4), (.shift, 5), (.permutation, 6),
   (.pitch, 7)]

/-- The engine of that kind takes this instruction next, and its descriptor b, of device memory or as the host returned it,
may be read and is of the operation (R163, R164, R311, R342). -/
def CollReady (s : State) (cd : Cd) (id : Nat) (host : HostData) (o : Op) (b : List Byte) (op : Nat) : Prop :=
  s.helperOp cd id 1 = some o ∧ s.helperCheck host o = 0 ∧ b = s.helperDesc host o ∧ collBad o.unit b = false ∧ cOp b = op

/-- No running collective has the tag: a packet of it waits. -/
def TagQuiet (s : State) (tag : Nat) : Prop :=
  (∀ c ∈ s.coll.jobs, c.running = true → cTag c.b ≠ tag) ∧ (s.coll.jobs.map (·.id)).Nodup

/-- The next accepted collective of an engine, which may take its place there, and no later stage waits for it (R321). -/
def NextColl (s : State) (eng : Fin 4) (c : Coll) : Prop :=
  s.coll.jobs.find? (fun c => !c.running && c.bd == eng.val) = some c ∧ s.stageFree c c.bd = true ∧
  ∀ j ∈ s.coll.jobs, j.running = true → eng.val ∈ j.engines → eng.val ∈ j.slots

/-- The collective touches no tile, and none of what it reads waits at its home (R206, R210). -/
def CollFree (s : State) (c : Coll) (host : HostData) : Prop :=
  s.collTiles c host = ([], []) ∧ s.sbHas (whoMove c.cd c.op) = false ∧ (s.collInput c host).2 = false

/-- A collective as it starts: what the host returned for it is kept, and it is in its place on its engine (R321, R343). -/
abbrev placed (c : Coll) (host : HostData) : Coll := { c with host := host, slots := [c.bd] }

/-- The collective has ended with a status: it is forgotten, and its instruction has ended. -/
def CollEnded (s t : State) (c : Coll) (status : Nat) : Prop :=
  t.coll.jobs = s.coll.jobs.filter (fun j => j.id != c.id) ∧
  ∀ o, (s.die (cdOf c.cd)).op? c.op = some o →
    (t.die (cdOf c.cd)).ops = (withOp (s.die (cdOf c.cd)) { o with st := .ended, status := status }).ops

/-- The collective begins with these values: its checks are sent to its neighbours and it takes what has arrived. -/
abbrev launched (s : State) (n : Coll) : State := ((s.putColl n).sendChecks n).collRun n

end Sys2Proof.Claims

open Sys2Proof.Claims

/-- R163, R164, R311, R313, R319, R321 and R330: an engine takes a descriptor. A collective, a pitch or a permutation is held
with its exclusion list for its start, and its instruction runs; a pace group is recorded, replacing the one before, writes its
summary record and completes at once. A descriptor whose regions may not be used ends its instruction with their status, and
nothing else changes. -/
def Sys2Proof.Claims.CollectiveAccepted : Prop :=
  ∀ (s : State) (cd : Cd) (id : Nat) (host : HostData) (o : Op) (b : List Byte),
    (∀ r ∈ collRows, CollReady s cd id host o b r.2 →
      (s.collStatus b host = 0 → Gives (r.1 cd ⟨id, host⟩) s
        (({ s with coll := { s.coll with
            jobs := s.coll.jobs ++ [newColl s.coll.next cd.val id o.unit b (s.cExcl b host)]
            next := s.coll.next + 1 } } : State).updDie cd (fun d => d.putOp { o with st := .running, rcd := b }))) ∧
      (s.collStatus b host ≠ 0 → Gives (r.1 cd ⟨id, host⟩) s (s.endHelper cd.val id (s.collStatus b host)))) ∧
    (CollReady s cd id host o b 8 →
      (s.collStatus b host = 0 → s.rangeMapped (cSummary b) 32 = true → s.rangePoisoned (cSummary b) 32 = false →
        ∃ t, Gives (.paceGroup cd ⟨id, host⟩) s t ∧ t.coll.group = some (b, s.cExcl b host) ∧
          t.bytes (cSummary b) 32 = [0] ++ natLE 1 (s.groupOf b (s.cExcl b host)).liveRing.length ++ zeroB 30 ∧
          OnlyBytes s t (cSummary b) 32 ∧ t.regs = s.regs ∧
          (t.die cd).ops = (withOp (s.die cd) { o with st := .ended, status := 0 }).ops) ∧
      (s.collStatus b host ≠ 0 → Gives (.paceGroup cd ⟨id, host⟩) s (s.endHelper cd.val id (s.collStatus b host))))

/-- R310, R312, R313, R319, R321, R324, R326 and R343: the next collective of an engine starts. Where the group is empty or
names this device as excluded it ends with outcome 3 and status 0; where what it reads may no longer be read, with that status.
Otherwise its members' checks go out and its plan begins, from its own source. An abort command ends every running collective,
and leaves those not yet started. -/
def Sys2Proof.Claims.CollectiveStarts : Prop :=
  ∀ (s : State) (eng : Fin 4) (c : Coll) (got : HostData) (hostOk : Bool), NextColl s eng c →
    let host := hostGot hostOk got
    let out : Bool := (s.groupC c).empty || (s.groupC c).excl.contains (s.groupC c).t.self
    (cOp c.b ≠ 6 → out = true → ∃ t, Gives (.collStart eng got hostOk) s t ∧ CollEnded s t c 0) ∧
    (cOp c.b = 6 ∨ out = false → CollFree s c host → (s.collInput c host).1 ≠ 0 →
      ∃ t, Gives (.collStart eng got hostOk) s t ∧ CollEnded s t c (s.collInput c host).1 ∧ t.mem = s.mem ∧ t.fab = s.fab) ∧
    (CollFree s c host → (s.collInput c host).1 = 0 →
      (cOp c.b ≤ 5 → out = false → s.mapped (cSrc c.b) = true →
        Gives (.collStart eng got hostOk) s (launched s (s.loadColl (placed c host) host))) ∧
      (cOp c.b = 7 → out = false →
        Gives (.collStart eng got hostOk) s (launched s { placed c host with
          running := true
          pitch := s.ownPitch c.b
          checks := ((s.groupC c).neighbours c.b).map (fun n => (n.1, n.2.1)) })) ∧
      (cOp c.b = 6 → Gives (.collStart eng got hostOk) s (launched s { placed c host with
          running := true
          entries := (List.range (cCount c.b)).map (s.permEntry c.b host) }))) ∧
    (s.ready = true → (s.coll.jobs.map (·.id)).Nodup →
      ∃ t, Gives .collCmdAbort s t ∧ t.coll.jobs = s.coll.jobs.filter (fun j => !j.running))

/-- Collectives accepted, started and aborted. -/
def Obligations.CollectiveLife : Prop := CollectiveAccepted ∧ CollectiveStarts

/-- R308, R323, R324, R326, R327, R334, R336 and Table 9-8: packets of collectives, taken in order. Checks, stream packets with
their position base, arrivals and releases wait for the collective of their tag; an abort of a live member ends the oldest
collective of its tag and axis, counted, and one of another sender ends none; a permutation's data are written at their address, and no other byte, and counted for its tag. -/
def Sys2Proof.Claims.CollectivePackets : Prop :=
  ∀ (s : State) (q : Fin 9) (p : Packet) (f : RxFlow), InOrder s q p f →
    let b := p.payload
    let tag := fld p.flow 8 6
    let kept (i : Instr) (x : Packet) : Prop := ∃ t, Gives i s t ∧ TookInOrder t p f ∧ t.coll.arr = s.coll.arr ++ [x] ∧
      t.mem = s.mem ∧ t.dies = s.dies ∧ t.coll.jobs = s.coll.jobs
    (TagQuiet s tag →
      (p.type = 0x09 → fld p.flow 4 2 = 3 → fieldB b 0 1 = 0 → kept (.collCheck q) p) ∧
      (∀ base, p.type = 0x09 → fld p.flow 4 2 ≠ 3 →
        kept (.collStreamPacket q base) { p with payload := sliceB b 0 256 ++ natLE 4 (base % 2 ^ 20) }) ∧
      (p.type = 0x0A → fieldB b 0 1 = 0 → kept (.pitchArrival q) p) ∧
      (p.type = 0x0A → fieldB b 0 1 = 1 → kept (.pitchRelease q) p) ∧
      (∀ a n, p.type = 0x09 → fld p.flow 4 2 = 3 → s.putFree p = true → a = fieldB b 0 6 → n = p.len - 16 → p.poison = 0 →
        s.rowStatus a n = 0 → s.rangeMapped a n = true → s.rangePoisoned a n = false →
        ∃ t, Gives (.permutationData q) s t ∧ TookInOrder t p f ∧ t.bytes a n = sliceB b 16 n ∧ OnlyBytes s t a n ∧
          t.permGot tag = ((s.permGot tag).1 + n, (s.permGot tag).2))) ∧
    (let named := s.coll.jobs.find? (fun c => cTag c.b == tag && c.engines.contains (fld p.flow 14 2) && !c.excl.contains p.src);
      p.type = 0x09 → fld p.flow 4 2 = 3 → fieldB b 0 1 = 1 →
      (∀ c, named = some c →
        ∃ t, Gives (.abortPacket q) s t ∧ TookInOrder t p f ∧ t.coll.jobs = s.coll.jobs.filter (fun j => j.id != c.id) ∧
          t.reg 0x5010 = satAdd32 (s.reg 0x5010) 1) ∧
      (named = none → ∃ t, Gives (.abortPacket q) s t ∧ TookInOrder t p f ∧ t.coll = s.coll ∧ t.mem = s.mem ∧ t.dies = s.dies))

/-- R308, R328, R330, R331 and R423: the pace. A request below the last pace relayed makes the global root relay it and act on
it; a request that is not below it changes neither; a member counts a notice and takes its pace. What an excluded device sends
has no effect. -/
def Sys2Proof.Claims.PaceRelayed : Prop :=
  ∀ (s : State) (q : Fin 9) (p : Packet) (f : RxFlow) (gb : List Byte) (ge : List Nat), InOrder s q p f →
    let b := p.payload
    let pace := fld (fieldB b 8 2) 0 11
    p.type = 0x0B → s.coll.group = some (gb, ge) →
    (ge.contains p.src = true → ∀ r ∈ ([(.paceRequest q, 0), (.paceNotice q, 1)] : List (Instr × Nat)), fieldB b 0 1 = r.2 →
      ∃ t, Gives r.1 s t ∧ TookInOrder t p f ∧ t.coll = s.coll ∧ t.led = s.led ∧ t.regs = s.regs ∧ t.mem = s.mem) ∧
    (fieldB b 0 1 = 0 → ge.contains p.src = false → (s.groupOf gb ge).globalRoot (cRoot gb) = s.selfCoord → pace < s.coll.relayed →
      ∃ t, Gives (.paceRequest q) s t ∧ TookInOrder t p f ∧ t.coll.relayed = pace ∧ t.led.group = pace ∧
        t.reg 0x500C = pace + fieldB b 10 1 * 2 ^ 16 ∧ t.mem = s.mem) ∧
    (fieldB b 0 1 = 0 → s.coll.relayed ≤ pace →
      ∃ t, Gives (.paceRequest q) s t ∧ TookInOrder t p f ∧ t.coll = s.coll ∧ t.led = s.led ∧ t.mem = s.mem) ∧
    (fieldB b 0 1 = 1 → ge.contains p.src = false →
      ∃ t, Gives (.paceNotice q) s t ∧ TookInOrder t p f ∧ t.led.group = pace ∧ t.reg 0x501C = satAdd32 (s.reg 0x501C) 1 ∧
        t.reg 0x500C = pace + fieldB b 10 1 * 2 ^ 16 ∧ t.coll = s.coll ∧ t.mem = s.mem)

/-- Packets of collectives and of the pace. -/
def Obligations.CollectiveTraffic : Prop := CollectivePackets ∧ PaceRelayed

/-- R328: what a pitch combines does not depend on the order in which arrivals come: after a member's own values, any
order of the others gives one combination. -/
def Obligations.PitchOrderFree : Prop :=
  ∀ (x : PitchData) (l m : List PitchData), l.Perm m → l.foldl pitchJoin x = m.foldl pitchJoin x

namespace Sys2Proof.Claims

/-- The commands of a grist descriptor (Table 7-5): command, code, what it does at acceptance. Where a command reads no
list, what the host returned matters for its descriptor alone. -/
def gristRows : List ((Cd → Nat → HostData → Bool → Instr) × Nat × (HostData → GJob → State → State)) :=
  let one (c : Cd → HelperTake → Instr) : Cd → Nat → HostData → Bool → Instr := fun cd id got hostOk => c cd ⟨id, hostGot hostOk got⟩
  [(.lookUp, 0, beginRequests), (.update, 1, beginRequests), (one .fold, 2, fun _ => beginFold),
   (one .versionSwitch, 3, fun _ => beginSwitch), (one .versionRelease, 4, fun _ => beginRelease),
   (one .skewReport, 5, fun _ => beginSkew), (.migrateOut, 6, beginMigrate), (.installOverrides, 7, beginInstall)]

/-- An engine takes this helper instruction next, and its descriptor b, of device memory or as the host returned it, may be
read and has the command (R163, R164, R342). -/
def GristNext (s : State) (cd : Cd) (id : Nat) (o : Op) (b : List Byte) (c : Nat) (host : HostData) : Prop :=
  s.helperOp cd id 2 = some o ∧ s.helperCheck host o = 0 ∧ b = s.helperDesc host o ∧ gristBad b = false ∧ dCmd b = c

/-- The descriptor names no tile, and none of the lines that it reads waits at its home (R206, R210). -/
def GristFree (s : State) (cd : Cd) (id : Nat) (b r : List Byte) (host : HostData) : Prop :=
  s.gristTiles b r host = ([], []) ∧ s.sbHas (whoMove cd.val id) = false ∧
  ∀ y ∈ (s.gristRanges b r host).1, s.rangeHeld y.1 y.2.1 = false

/-- The instruction runs with its descriptor. -/
abbrev gristTaken (s : State) (cd : Cd) (o : Op) (b : List Byte) : State :=
  s.updDie cd (fun d => d.putOp { o with st := .running, rcd := b })

/-- A descriptor accepted with its table's record r, which commands 6 and 7 do not need, and every earlier one numbered below
it. -/
def GristReady (s : State) (cd : Cd) (id : Nat) (o : Op) (b r : List Byte) (c : Nat) (host : HostData) : Prop :=
  GristNext s cd id o b c host ∧ (s.record (dTable b) (dMirror b)).getD (zeroB 128) = r ∧
  ((s.record (dTable b) (dMirror b)).isSome = true ∨ 6 ≤ c) ∧ s.gristStatus b r host = 0 ∧ GristFree s cd id b r host ∧
  ∀ k ∈ s.grist.jobs, k.id < s.grist.next

/-- What a command leaves: the descriptor is held with an outcome, and its instruction runs. -/
def HeldWith (s t : State) (cd : Cd) (id : Nat) (o : Op) (b : List Byte) (j : GJob) : Prop :=
  j.id = s.grist.next ∧ j.b = b ∧ j.op = id ∧ j.cd = cd.val ∧ t.grist.jobs = s.grist.jobs ++ [j] ∧ t.grist.next = s.grist.next + 1 ∧
  t.dies = (gristTaken s cd o b).dies

/-- Room for one reply of one chunk on a new flow to a device. -/
def ReplyRoom (s : State) (dst flow : Nat) : Prop :=
  txOf s dst flow = none ∧ 1 ≤ fld (s.reg 0x401C) 0 7 ∧ txStored s.fab.tx[flowBd flow] < 16384 ∧ dst < 2 ^ 20

end Sys2Proof.Claims

open Sys2Proof.Claims

/-- R163, R229, R237 and R238: an engine takes a grist descriptor. One whose addresses may not be used ends with their
status; one that names no valid table ends later with outcome 8; any other begins what its command says. -/
def Sys2Proof.Claims.GristAccepted : Prop :=
  ∀ r ∈ gristRows, ∀ (s : State) (cd : Cd) (id : Nat) (got : HostData) (hostOk : Bool) (o : Op) (b : List Byte),
    let host := hostGot hostOk got
    GristNext s cd id o b r.2.1 host →
    let tr := s.record (dTable b) (dMirror b)
    let rec0 := tr.getD (zeroB 128)
    ((tr.isSome = true ∨ 6 ≤ r.2.1) → s.gristStatus b rec0 host ≠ 0 →
      Gives (r.1 cd id got hostOk) s (s.endHelper cd.val id (s.gristStatus b rec0 host))) ∧
    ((tr.isSome = true ∨ 6 ≤ r.2.1) → s.gristStatus b rec0 host = 0 → GristFree s cd id b rec0 host →
      Gives (r.1 cd id got hostOk) s
        (r.2.2 host (newJob s.grist.next cd.val id o.unit b rec0 0) (gristTaken s cd o b))) ∧
    (tr = none → r.2.1 < 6 → s.cRange (dSummary b) 64 64 = 0 → GristFree s cd id b rec0 host →
      Gives (r.1 cd id got hostOk) s
        ((gristTaken s cd o b).addJob (newJob s.grist.next cd.val id o.unit b (zeroB 128) 8)))

/-- R236 and R239: a look-up or an update counts its valid ids, its padding and its invalid ids, and adds the last to
GRIST_INVALID; memory is as before. -/
def Sys2Proof.Claims.GristRequestsCount : Prop :=
  ∀ (s : State) (cd : Cd) (id : Nat) (got : HostData) (hostOk : Bool) (o : Op) (b r : List Byte),
    let host := hostGot hostOk got
    ∀ c ∈ ([(.lookUp, 0), (.update, 1)] : List ((Cd → Nat → HostData → Bool → Instr) × Nat)),
    GristReady s cd id o b r c.2 host →
    let ids := (List.range (dCount b)).flatMap (fun k => s.bagIds host b k)
    ∃ t j, Gives (c.1 cd id got hostOk) s t ∧ j ∈ t.grist.jobs ∧ j.id = s.grist.next ∧ j.b = b ∧
      j.valid = (ids.filter (fun x => decide (x.1 < gRows r))).length ∧
      j.pads = (ids.filter (fun x => decide (x.1 = 2 ^ 64 - 1))).length ∧
      j.invalid = ids.length - j.valid - j.pads ∧
      t.reg 0x602C = satAdd32 (s.reg 0x602C) j.invalid ∧ t.mem = s.mem ∧ t.dies = (gristTaken s cd o b).dies

/-- Grist descriptors accepted, and their ids counted. -/
def Obligations.GristRequests : Prop := GristAccepted ∧ GristRequestsCount

/-- R252–R255 and Table 7-6: folds and versions. A fold of a clean region records the step; one of the region's own step
folds it; one of another step ends with outcome 3. The end of a fold leaves the region clean with its step. A switch
makes the other version pending from its step, and a release makes it active, in the table's record and nowhere else;
either, where its conditions do not hold, ends with outcome 5. -/
def Obligations.GristFoldsAndVersions : Prop :=
  ∀ (s : State) (cd : Cd) (id : Nat) (host : HostData) (o : Op) (b r : List Byte),
    let a := s.recordAddr (dTable b) (dMirror b)
    let x := s.deltaRegion (dTable b) (dMirror b) (dStep b % 2)
    let after (t : State) : Region := t.deltaRegion (dTable b) (dMirror b) (dStep b % 2)
    (GristReady s cd id o b r 2 host →
      (x.st = 0 → ∃ t j, Gives (.fold cd ⟨id, host⟩) s t ∧ HeldWith s t cd id o b j ∧ j.outcome = 0 ∧ j.fold = 0 ∧
        after t = ⟨0, some (dStep b)⟩ ∧ t.mem = s.mem) ∧
      (x.st = 1 → x.step = some (dStep b) → ∃ t j, Gives (.fold cd ⟨id, host⟩) s t ∧ HeldWith s t cd id o b j ∧ j.outcome = 0 ∧ j.fold = 1 ∧
        after t = ⟨2, some (dStep b)⟩ ∧ t.mem = s.mem) ∧
      (x.st ≠ 0 → x.step ≠ some (dStep b) → ∃ t j, Gives (.fold cd ⟨id, host⟩) s t ∧ HeldWith s t cd id o b j ∧ j.outcome = 3 ∧
        after t = x ∧ t.mem = s.mem)) ∧
    (∀ n j, s.grist.jobs.find? (fun j => j.id == n && j.fold == 1) = some j → j.b = b →
      ∃ t, Gives (.foldEnd n) s t ∧ after t = ⟨0, some (dStep b)⟩ ∧
        t.mem = (s.foldRegion (dTable b) j.r (dStep b % 2) (dStep b)).1.mem ∧
        ∀ k ∈ t.grist.jobs, k.id = j.id → k.fold = 0) ∧
    (GristReady s cd id o b r 3 host → s.rangeMapped a 128 = true → s.rangePoisoned a 128 = false →
      (gPending r = false → ∃ t j, Gives (.versionSwitch cd ⟨id, host⟩) s t ∧ HeldWith s t cd id o b j ∧ j.outcome = 0 ∧
        t.num (a + 1) 1 = gActive r + 2 ∧ t.num (a + 96) 4 = dStep b ∧
        ∀ y, y ≠ a + 1 → (y < a + 96 ∨ a + 100 ≤ y) → t.byte y = s.byte y) ∧
      (gPending r = true → ∃ t j, Gives (.versionSwitch cd ⟨id, host⟩) s t ∧ HeldWith s t cd id o b j ∧ j.outcome = 5 ∧ t.mem = s.mem)) ∧
    (GristReady s cd id o b r 4 host → s.rangeMapped a 128 = true → s.rangePoisoned a 128 = false →
      let unfolded (k : Nat) : Prop := ∃ n, (s.deltaRegion (dTable b) (dMirror b) k).st ≠ 0 ∧
        (s.deltaRegion (dTable b) (dMirror b) k).step = some n ∧ older n (gSwitch r) = true
      (gPending r = true → s.olderRequests (gSwitch r) = false → ¬unfolded 0 → ¬unfolded 1 →
        ∃ t j, Gives (.versionRelease cd ⟨id, host⟩) s t ∧ HeldWith s t cd id o b j ∧ j.outcome = 0 ∧
          t.num (a + 1) 1 = 1 - gActive r ∧ OnlyBytes s t (a + 1) 1) ∧
      (gPending r = false ∨ s.olderRequests (gSwitch r) = true ∨ unfolded 0 ∨ unfolded 1 →
        ∃ t j, Gives (.versionRelease cd ⟨id, host⟩) s t ∧ HeldWith s t cd id o b j ∧ j.outcome = 5 ∧ t.mem = s.mem))

/-- R258, R261–R263 and Table 7-6: skew reports and migration. A report writes the engine's counts and list, and nothing
else; before warm-up it ends with outcome 6. A migrate out that may not run sends nothing and says why. Install overrides
raises the directory epoch; a new owner goes to the first free entry of its row's window, and a return home clears the row's
entry. -/
def Obligations.GristSkewAndMigration : Prop :=
  ∀ (s : State) (cd : Cd) (id : Nat) (o : Op) (b r : List Byte) (got : HostData) (hostOk : Bool),
    let host := hostGot hostOk got
    (GristReady s cd id o b r 5 host → bitAt (fieldB b 1 1) 5 = false → s.mapped (dIds b) = true →
      s.rangeMapped (dIds b) 4160 = true → s.rangePoisoned (dIds b) 4160 = false →
      (∀ k : Fin 4, s.grist.top[k].length ≤ 256) →
      ∃ t j, Gives (.skewReport cd ⟨id, host⟩) s t ∧ HeldWith s t cd id o b j ∧ j.outcome = (if s.gWarmed then 0 else 6) ∧
        t.bytes (dIds b) (s.skewBytes o.unit).length = s.skewBytes o.unit ∧
        OnlyBytes s t (dIds b) (s.skewBytes o.unit).length ∧ t.grist.top = s.grist.top) ∧
    (GristReady s cd id o b r 6 host → s.migrateRefused (dMirror b) (s.plan host b) ≠ 0 →
      ∃ t j, Gives (.migrateOut cd id got hostOk) s t ∧ HeldWith s t cd id o b j ∧
        j.outcome = s.migrateRefused (dMirror b) (s.plan host b) ∧ j.groups = [] ∧ t.fab = s.fab ∧ t.mem = s.mem) ∧
    (GristReady s cd id o b r 6 host → s.migrateRefused (dMirror b) (s.plan host b) = 0 →
      ∃ t j, Gives (.migrateOut cd id got hostOk) s t ∧ j ∈ t.grist.jobs ∧ j.id = s.grist.next ∧ j.outcome = 0 ∧
        j.rows = ((s.plan host b).filterMap (s.planGroup (dMirror b))).length ∧ t.mem = s.mem) ∧
    (∀ e i, GristReady s cd id o b r 7 host → s.plan host b = [e] → e.home = false →
      (∃ tr, s.record e.table (dMirror b) = some tr ∧
        (ovWindow e.table (permIndex tr e.row)).find? (fun i => !bitAt (s.num (s.ovAddr i) 8) 63) = some i) →
      s.rangeMapped (s.ovAddr i) 16 = true → s.rangePoisoned (s.ovAddr i) 16 = false →
      ∃ t j, Gives (.installOverrides cd id got hostOk) s t ∧ HeldWith s t cd id o b j ∧ j.outcome = 0 ∧ j.rows = 1 ∧
        t.bytes (s.ovAddr i) 16 = ovBytes e ∧ OnlyBytes s t (s.ovAddr i) 16 ∧ t.dirEpoch = (s.dirEpoch + 1) % 256) ∧
    (∀ e i x, GristReady s cd id o b r 7 host → s.plan host b = [e] → e.home = true →
      (∃ tr, s.record e.table (dMirror b) = some tr ∧ s.override e.table e.row (permIndex tr e.row) = some (i, x)) →
      s.rangeMapped (s.ovAddr i) 16 = true → s.rangePoisoned (s.ovAddr i) 16 = false →
      ∃ t j, Gives (.installOverrides cd id got hostOk) s t ∧ HeldWith s t cd id o b j ∧ j.outcome = 0 ∧ j.rows = 1 ∧
        t.bytes (s.ovAddr i) 16 = zeroB 16 ∧ OnlyBytes s t (s.ovAddr i) 16 ∧ t.dirEpoch = (s.dirEpoch + 1) % 256)

/-- R240, R246, R249, R251, R261 and Tables 7-8 and 7-9: an owner takes requests in order. A look-up is answered with the
pooled elements; one of another directory epoch is counted and answered as stale. The ids of an update open its group
and its region; those of a late step are counted. A gradient chunk joins its group, and the last one closes it where no
copy is forwarded. A migrated row of one packet is written to its home slot and nowhere else. -/
def Obligations.GristOwnerServes : Prop :=
  ∀ (s : State) (q : Fin 9) (p : Packet) (f : RxFlow), InOrder s q p f → p.type = 0x0C →
    let b := p.payload
    let rec? := s.record (rqTable b) (rqMirror b)
    let x := s.deltaRegion (rqTable b) (rqMirror b) (rqStep b % 2)
    (∀ r y l, rqKind b = 0 → rec? = some r → rqIds b = y :: l → rqEpoch b = s.dirEpoch →
      s.tableFolding (rqTable b) (rqMirror b) = false → s.gWarmed = false → gN r ≤ 48 →
      let place (z : Nat × Nat) : Nat := (s.placeOf (rqTable b) r (gVersion r (rqStep b)) z.1).slot
      (∀ z ∈ rqIds b, s.rangePoisoned (place z) (gRowBytes r) = false) →
      let fl := gristFlow (s.engineAt (place y)) 3 (rqTag b)
      ReplyRoom s p.src fl →
      ∃ t g u, Gives (.gristLookupRequest q) s t ∧ TookInOrder t p f ∧ t.mem = s.mem ∧ txOf t p.src fl = some g ∧
        g.unacked = [u] ∧ u.pkt.type = 0x0D ∧ fieldB u.pkt.payload 0 4 = rqTag b ∧ fieldB u.pkt.payload 6 1 = 0 ∧
        fieldB u.pkt.payload 8 4 = (rqIds b).length ∧ fieldB u.pkt.payload 5 1 = gN r ∧
        (List.range (gN r)).map (fun i => fieldB u.pkt.payload (32 + 4 * i) 4) =
          (poolRows r (fld (rqPooling b) 0 3)
            ((rqIds b).map (fun z => (rowElems r (s.bytes (place z) (gRowBytes r)), z.2)))).map (· % 2 ^ 32)) ∧
    (∀ r, rqKind b = 0 → rec? = some r → rqEpoch b ≠ s.dirEpoch →
      ∃ t, Gives (.gristLookupRequest q) s t ∧ TookInOrder t p f ∧ t.mem = s.mem ∧ t.grist = s.grist ∧
        t.reg 0x6028 = satAdd32 (s.reg 0x6028) 1) ∧
    (∀ r, rqKind b = 1 → rec? = some r → s.grist.serving.length < 4096 → rqEpoch b = s.dirEpoch →
      regionVerdict x (rqStep b) = .perform →
      ∃ t g, Gives (.gristUpdateIds q) s t ∧ TookInOrder t p f ∧ t.findServe p.src p.flow (rqTag b) 1 = some g ∧
        g.refused = false ∧ g.step = rqStep b ∧ g.ids.map (fun i => (i.1, i.2.1)) = rqIds b ∧ g.chunks = [] ∧
        (x.st = 0 → t.deltaRegion (rqTable b) (rqMirror b) (rqStep b % 2) = ⟨1, some (rqStep b)⟩)) ∧
    (∀ r, rqKind b = 1 → rec? = some r → s.grist.serving.length < 4096 → rqEpoch b = s.dirEpoch →
      regionVerdict x (rqStep b) = .late →
      ∃ t, Gives (.gristUpdateIds q) s t ∧ TookInOrder t p f ∧ t.reg 0x6024 = satAdd32 (s.reg 0x6024) (rqIds b).length ∧
        t.grist.regions = s.grist.regions ∧ t.mem = s.mem) ∧
    (∀ g, rqKind b = 2 → s.findServe p.src p.flow (rqTag b) 1 = some g → g.refused = false →
      let r := s.bytes (s.recordAddr g.table g.mirror) 128
      let n := g.chunks.length + ((packetUnit p).drop 32).length
      (n < 4 * gN r → ∃ t, Gives (.gristGradientChunk q) s t ∧ TookInOrder t p f ∧
        t.findServe p.src p.flow (rqTag b) 1 =
          some { g with chunks := g.chunks ++ (packetUnit p).drop 32, chunkNo := g.chunkNo + 1 }) ∧
      (4 * gN r ≤ n → s.partner = none → ∃ t, Gives (.gristGradientChunk q) s t ∧ TookInOrder t p f ∧
        t.findServe p.src p.flow (rqTag b) 1 = none)) ∧
    (∀ r row a, rqKind b = 3 → rec? = some r → s.findServe p.src p.flow (rqTag b) 3 = none →
      s.grist.serving.length < 4096 → rqEpoch b = s.dirEpoch →
      gSlot r + 4 ≤ p.len - 32 → gAdagrad r = false → p.poison = 0 → s.partner = none →
      a = (s.homePlace r (gActive r) row).slot → s.rangeMapped a (gSlot r) = true → s.rangePoisoned a (gSlot r) = false →
      ∃ t, Gives (.gristMigratedRow q row none) s t ∧ TookInOrder t p f ∧ t.bytes a (gSlot r) = sliceB b 32 (gSlot r) ∧
        OnlyBytes s t a (gSlot r))

/-- R203, R238, R241, R243, R249 and R265: a reply that is busy leaves its group for another try; the last one ends it. A retry
sends the group again. A descriptor of which all has ended writes its summary, a look-up the pooled elements of its bags, and
no other byte, and ends its instruction with its status. The grist registers change only while no descriptor and no request is
in flight on the device; a new reply store where the device is not quiet is refused with the flag set. -/
def Obligations.GristRepliesAndEnd : Prop :=
  ∀ (s : State),
    (∀ (q : Fin 9) (p : Packet) (f : RxFlow) j g, InOrder s q p f → p.type = 0x0D →
      s.jobOf (fieldB p.payload 0 4) = some (j, g) →
      (bitAt (fieldB p.payload 6 1) 3 = true → ∃ t, Gives (.gristReply q) s t ∧ TookInOrder t p f ∧
        t.grist = (s.putJob (j.putGroup { g with st := 2 })).grist ∧ t.mem = s.mem) ∧
      (bitAt (fieldB p.payload 6 1) 3 = false → fieldB p.payload 5 1 = 0 →
        (∀ k ∈ s.grist.jobs, ∀ h ∈ k.groups, h.st ≠ 0) →
        ∃ t, Gives (.gristReply q) s t ∧ TookInOrder t p f ∧ t.mem = s.mem ∧
          t.grist = (s.putJob (j.putGroup { g with
            flags := g.flags ||| fieldB p.payload 6 1, pooled := fieldB p.payload 8 4, st := 3 })).grist)) ∧
    (∀ tag j g, s.jobOf tag = some (j, g) → g.st = 2 →
      Gives (.gristBusyRetry tag) s ((s.putJob (j.putGroup { g with st := 1 })).sendAll (s.groupPackets j g) (.grist tag))) ∧
    (∀ n j o, s.grist.jobs.find? (fun j => j.id == n) = some j → j.fold = 0 → (∀ g ∈ j.groups, g.st = 3) →
      (s.die (cdOf j.cd)).op? j.op = some o → s.rangeMapped (dSummary j.b) 64 = true → s.mapped (dSummary j.b) = true →
      s.rangePoisoned (dSummary j.b) 64 = false →
      let ended (t : State) (k : GJob) : Prop :=
        t.bytes (dSummary j.b) 64 = k.summary ∧ t.grist.jobs = s.grist.jobs.filter (fun k => k.id != n) ∧
        (t.die (cdOf j.cd)).ops = (withOp (s.die (cdOf j.cd)) { o with
          st := .ended
          status := if k.poisoned ≠ 0 then 5 else if j.groups.any (·.unreachable) then 8 else 0 }).ops
      (dCmd j.b ≠ 0 ∨ j.outcome ≠ 0 → ∃ t, Gives (.gristComplete n) s t ∧ OnlyBytes s t (dSummary j.b) 64 ∧
        ended t { j with poisoned := j.poisoned + j.poisonedRows }) ∧
      (∀ a m, dCmd j.b = 0 → j.outcome = 0 → dCount j.b = 1 → a = dData j.b → m = gN j.r * dElem j.b → s.mapped a = true →
        s.rangeMapped a m = true → s.rangePoisoned a m = false → (a + m ≤ dSummary j.b ∨ dSummary j.b + 64 ≤ a) →
        (∀ g ∈ j.groups, g.bag = 0 ∧ g.unreachable = false ∧ g.flags = 0) →
        let ok := j.groups.filter (fun g => g.pooled != 0)
        ∃ t, Gives (.gristComplete n) s t ∧ ended t { j with poisoned := 0 } ∧
          t.bytes a m = (List.range (gN j.r)).flatMap (fun i => natLE (dElem j.b) (poolBag j.r (dPool j.b) (dHalf j.b)
            (ok.foldl (fun x g => x + g.pooled) 0) (ok.map (fun g => g.elem i)))))) ∧
    (∀ off v row, s.ready = true → 0x6000 ≤ off → off < 0x6018 → regRow? off = some row →
      (s.gristBusy = false → Gives (.gristCtrlWrite off v) s (s.setReg off (regMerge row off (s.reg off) (v % 2 ^ 32)))) ∧
      (s.gristBusy = true → Gives (.gristCtrlWrite off v) s s)) ∧
    ((s.grist.jobs ≠ [] ∨ s.grist.serving ≠ [] ∨ s.helpersLive 2 = true ∨
        ∃ q : Fin 9, ∃ x ∈ s.fab.eject[q], x.1.type = 0x0C) → s.gristBusy = true) ∧
    (∀ v, s.ready = true → s.quiet = false → fld v 0 6 ≠ fld (s.reg 0x6018) 0 6 → 1 ≤ fld v 0 6 →
      Gives (.gristCtrlWrite 0x6018 v) s (s.orReg 0x3008 1))

namespace Sys2Proof.Claims

/-- One repetition of R233 on a value below 2^b. -/
def permStage (b seed x : Nat) : Nat :=
  let y := (x + seed) % 2 ^ b * 0x9FB21C651E98DF25 % 2 ^ 64 % 2 ^ b
  y ^^^ (y / 2 ^ ((b + 1) / 2))

end Sys2Proof.Claims

open Sys2Proof.Claims

/-- R233: the permuted index of a row is two stages with b and seed of the table record. Each stage is a bijection on 0 to
2^b − 1, so different rows have different (bucket, local) pairs. -/
def Obligations.RowPermutationInjective : Prop :=
  ∀ (r : List Byte) (x y : Nat), 1 ≤ gB r → gB r ≤ 40 → x < 2 ^ gB r → y < 2 ^ gB r →
    let stage := permStage (gB r) (gSeed r)
    let beta := gBeta r
    permIndex r x = stage (stage x) ∧ stage x < 2 ^ gB r ∧ (stage x = stage y → x = y) ∧ (∃ z < 2 ^ gB r, stage z = x) ∧
      (permIndex r x % 2 ^ beta = permIndex r y % 2 ^ beta → permIndex r x / 2 ^ beta = permIndex r y / 2 ^ beta → x = y)


namespace Sys2Proof.Claims

/-- The one unacknowledged packet of a new flow to a device. -/
def SentOne (t : State) (dst flow : Nat) (u : Packet) : Prop :=
  ∃ g r, txOf t dst flow = some g ∧ g.unacked = [r] ∧ r.pkt = u

/-- A range of device memory that may be written in part. -/
def Plain (s : State) (a n : Nat) : Prop := s.rangeMapped a n = true ∧ s.rangePoisoned a n = false

end Sys2Proof.Claims

open Sys2Proof.Claims

/-- R377: the lanes of a digest do not depend on the order in which lines are added. -/
def Obligations.DigestOrderFree : Prop :=
  ∀ (d : List Nat) (i o j p : Nat) (x y : List Byte),
    digestLine (digestLine d i o x) j p y = digestLine (digestLine d j p y) i o x

/-- R378, R380, R383 and R394: a step digest. Its primary sum waits for the partner's direct list, and is sent to the partner
where no line is poisoned and none has been written since the digest began; its mirror sum waits for the ward's done packet; at
its timeout what is missing has verdict 3, and its record holds its step and verdicts. A receive digest has no timeout. A queued
trigger starts once no digest runs, its time that of the trigger. -/
def Obligations.StepDigestSides : Prop :=
  ∀ (s : State) (d : Digest),
    (∀ p, s.dep.digest = some d → d.kind = 0 → d.prim = none → d.sent = false → d.pv = none → (s.digestOf 0).2 = [] →
      (s.digestOf 0).1 = d.snapP → s.partner = some p → s.listTaken = true → ReplyRoom s p 0x3FF0 →
      ∃ t u, Gives .primaryDigestDone s t ∧ t.mem = s.mem ∧
        t.dep.digest = some { d with prim := some (digestBytes (s.digestOf 0).1), pPoison := false, wantP := [], sent := true } ∧
        SentOne t p 0x3FF0 u ∧ u.type = 0x0E ∧ fieldB u.payload 0 1 = 0 ∧ fieldB u.payload 4 4 = d.step % 2 ^ 32 ∧
        sliceB u.payload 16 64 = digestBytes (s.digestOf 0).1) ∧
    (∀ p, s.dep.digest = some d → s.partner = some p → s.listTaken = false → Gives .primaryDigestDone s s) ∧
    (∀ w, s.dep.digest = some d → s.ward = some w → s.dep.recvDone = false → Gives .mirrorDigestDone s s) ∧
    (s.dep.digest = some d → d.kind = 0 → d.mirr = none → d.pv = none → (s.digestOf 1).1 = d.snapM → (s.ward = none ∨ s.dep.recvDone = true) →
      (s.digestOf 1).2 = [] → s.dep.held = none →
      ∃ t, Gives .mirrorDigestDone s t ∧ t.mem = s.mem ∧ t.fab = s.fab ∧
        t.dep.digest = some { d with mirr := some (digestBytes (s.digestOf 1).1), mPoison := false, wantM := [] }) ∧
    (∀ a fl, s.dep.digest = some d → d.kind = 0 → a = s.recordOf d.step → fl = s.regPair 0x7020 % 2 ^ 48 → Plain s a 256 →
      (fl + 8 ≤ a ∨ a + 256 ≤ fl) →
      ∃ t, Gives .digestTimeout s t ∧ t.dep.digest = none ∧ bitAt (t.reg 0x7000) 4 = false ∧ t.num a 4 = d.step % 2 ^ 32 ∧
        t.num (a + 4) 1 = d.pv.getD 3 % 256 ∧ t.num (a + 5) 1 = d.mv.getD 3 % 256) ∧
    (s.dep.digest = some d → d.kind ≠ 0 → Gives .digestTimeout s s) ∧
    (∀ k n who c at0, s.dep.digest = none → s.dep.queued = some (k, n, who, c, at0) → (k = 0 → s.cellarFaulty = false) →
      ∃ t e, Gives .digestDeferredStart s t ∧ t.dep.digest = some e ∧ e.kind = k ∧ e.step = n ∧ e.sender = who ∧ e.carried = c ∧
        e.start = at0 ∧ e.prim = none ∧ e.mirr = none ∧ t.dep.queued = none ∧ bitAt (t.reg 0x7000) 4 = true ∧ t.mem = s.mem)

/-- R376, R380, R381, R382, R386, R388, R389, R393 and Table 11-7: cellar packets taken in order. The ward's digest is held; one
of a step before that of the current digest is answered with verdict 4; another device's has no effect. A verdict of the partner is taken. A line request waits for its done packet, or is answered with the
line. Lines are written to the region they name, and nowhere else, from the device that may send them; others are counted
and not written. A direct list adds its ranges. A done packet lets the mirror digest proceed, or triggers a
receive digest. -/
def Obligations.CellarPackets : Prop :=
  ∀ (s : State) (q : Fin 9) (p : Packet) (f : RxFlow), InOrder s q p f → p.type = 0x0E →
    let b := p.payload
    (fieldB b 0 1 = 0 → s.dep.digest = none → s.dep.held = none → s.ward = some p.src →
      ∃ t, Gives (.digestPacket q) s t ∧ TookInOrder t p f ∧ t.mem = s.mem ∧
        t.dep = { s.dep with held := some (fieldB b 4 4, sliceB b 16 64) }) ∧
    (∀ d, fieldB b 0 1 = 0 → s.ward = some p.src → s.dep.digest = some d → d.kind = 0 → stepAfter d.step (fieldB b 4 4) = true →
      ReplyRoom s p.src 0x3FF0 →
      ∃ t u, Gives (.digestPacket q) s t ∧ TookInOrder t p f ∧ t.mem = s.mem ∧ t.dep = s.dep ∧ SentOne t p.src 0x3FF0 u ∧
        fieldB u.payload 0 1 = 1 ∧ fieldB u.payload 4 4 = fieldB b 4 4 ∧ fieldB u.payload 8 1 = 4) ∧
    (fieldB b 0 1 = 0 → s.ward ≠ some p.src →
      ∃ t, Gives (.digestPacket q) s t ∧ TookInOrder t p f ∧ t.mem = s.mem ∧ t.dep = s.dep) ∧
    (∀ d, fieldB b 0 1 = 1 → s.dep.transfer = none → s.dep.digest = some d → d.kind = 0 → d.step = fieldB b 4 4 →
      s.partner = some p.src → d.sent = true → d.pv = none → d.mv = none →
      ∃ t, Gives (.verdictPacket q) s t ∧ TookInOrder t p f ∧ t.mem = s.mem ∧
        t.dep = { s.dep with digest := some { d with pv := some (fieldB b 8 1) } }) ∧
    (∀ r, fieldB b 0 1 = 2 → r = (p.src, fieldB b 4 2 % 128, fld (fieldB b 6 1) 0 1, fieldB b 8 8 / 64 * 64) →
      s.lineReady r.2.2.1 = false →
      ∃ t, Gives (.lineRequest q) s t ∧ TookInOrder t p f ∧ t.mem = s.mem ∧
        t.dep = { s.dep with heldReqs := s.dep.heldReqs ++ [r] }) ∧
    (∀ off side base len fl, fieldB b 0 1 = 2 → off = fieldB b 8 8 / 64 * 64 → side = fld (fieldB b 6 1) 0 1 →
      s.lineReady side = true →
      s.region (if side = 0 then 128 + fieldB b 4 2 % 128 else fieldB b 4 2 % 128) = some (base, len) → off + 64 ≤ len →
      fl = off / 192 % 8 / 2 * 2 ^ 14 + 0x3FF8 + off / 192 % 8 → ReplyRoom s p.src fl →
      ∃ t u, Gives (.lineRequest q) s t ∧ TookInOrder t p f ∧ t.mem = s.mem ∧ t.dep = { s.dep with lines := s.dep.lines + 1 } ∧
        SentOne t p.src fl u ∧
        u.type = 0x0E ∧ fieldB u.payload 0 1 = 3 ∧ fieldB u.payload 1 1 = 1 ∧ fieldB u.payload 2 2 = side ∧
        sliceB u.payload 64 64 = s.bytes (base + off) 64) ∧
    (∀ n side region off base len, fieldB b 0 1 = 3 → n = fieldB b 1 1 → side = fieldB b 2 1 → region = fieldB b 4 2 →
      off = fieldB b 8 8 → region < 128 → side < 2 → s.region (128 * side + region) = some (base, len) →
      (1 ≤ n → n ≤ 3 → off % 64 = 0 → base % 64 = 0 → off + 64 * n ≤ len → s.dep.digest = none → p.poison = 0 →
        (if side = 0 then s.partner else s.ward) = some p.src → s.rangeMapped (base + off) (64 * n) = true →
        ∃ t, Gives (.linesPacket q) s t ∧ TookInOrder t p f ∧ t.bytes (base + off) (64 * n) = sliceB b 64 (64 * n) ∧
          OnlyBytes s t (base + off) (64 * n) ∧ t.dep.rxBusy = true ∧ bitAt (t.reg 0x7000) 5 = true) ∧
      ((if side = 0 then s.partner else s.ward) ≠ some p.src →
        ∃ t, Gives (.linesPacket q) s t ∧ TookInOrder t p f ∧ t.mem = s.mem ∧ t.poison = s.poison ∧
          t.reg 0x7060 = satAdd32 (s.reg 0x7060) 1)) ∧
    (fieldB b 0 1 = 5 → s.partner = some p.src →
      ∃ t, Gives (.directListPacket q) s t ∧ TookInOrder t p f ∧ t.mem = s.mem ∧
        t.dep.ranges = s.dep.ranges ++ (List.range (min 15 (fieldB b 1 1))).map (fun i =>
          (fieldB b (16 + 16 * i + 5) 1, fieldB b (16 + 16 * i) 5, fieldB b (16 + 16 * i + 8) 4))) ∧
    (fieldB b 0 1 = 4 → fieldB b 1 1 = 0 →
      (s.partner = some p.src → s.dep.digest = none → ∃ t, Gives (.doneReconciliation q) s t ∧ TookInOrder t p f ∧ t.mem = s.mem ∧
        t.dep = { s.dep with listDone := true }) ∧
      (s.partner ≠ some p.src → s.ward = some p.src → s.dep.heldReqs = [] →
        ∃ t, Gives (.doneReconciliation q) s t ∧ TookInOrder t p f ∧ t.mem = s.mem ∧ t.dep.recvDone = true ∧
          t.dep.sentDone = s.dep.sentDone ∧ t.dep.listDone = s.dep.listDone ∧ t.dep.heldReqs = [] ∧
          t.dep.digest = s.dep.digest.map (fun d =>
            if d.kind = 0 ∧ d.mirr = none then { d with snapM := (s.digestOf 1).1 } else d))) ∧
    (∀ r ∈ ([(.doneUnload q, 1), (.doneReseed q, 2)] : List (Instr × Nat)), fieldB b 0 1 = 4 → fieldB b 1 1 = r.2 →
      s.dep.digest = none → s.dep.queued = none →
      ∃ t e, Gives r.1 s t ∧ TookInOrder t p f ∧ t.mem = s.mem ∧ t.dep.digest = some e ∧ e.kind = r.2 ∧ e.step = fieldB b 4 4 ∧
        e.sender = p.src ∧ e.carried = sliceB b 16 64)

/-- R393, R394 and R401: transfers. Unload and reseed begin one where none is in progress, and are ignored where one is; cancel
and a timeout end it; a receive digest answers the sender with verdict 0 where its sum is the one carried and 1 where it is
not. The cellar registers change only while no digest and no transfer runs. -/
def Obligations.CellarTransfers : Prop :=
  ∀ (s : State),
    (s.ready = true → s.boot.failed = false → s.dep.transfer = none → ∃ t tr, Gives .unload s t ∧ t.dep.transfer = some tr ∧ tr.kind = 1 ∧
      tr.dst = fld (s.reg 0x7044) 0 20 ∧ tr.step = s.dep.lastM.1 ∧ bitAt (t.reg 0x7000) 5 = true ∧ t.mem = s.mem) ∧
    (∀ p, s.ready = true → s.boot.failed = false → s.dep.transfer = none → s.partner = some p → ∃ t tr, Gives .reseed s t ∧
      t.dep.transfer = some tr ∧ tr.kind = 2 ∧ tr.dst = p ∧ tr.step = s.dep.lastP.1 ∧ bitAt (t.reg 0x7000) 5 = true ∧
      t.mem = s.mem) ∧
    (s.dep.transfer.isSome = true → Gives .unload s s ∧ Gives .reseed s s) ∧
    (∀ tr, s.dep.transfer = some tr → s.ready = true → tr.doneSent = false →
      ∃ t, Gives .cancel s t ∧ t.dep = { s.dep with
          transfer := none, dues := s.dep.dues.filter (fun x => decide (x.2.2 = 0 ∨ x.2.2 = 3)) } ∧ bitAt (t.reg 0x704C) 1 = true ∧
        (s.dep.rxBusy = false → bitAt (t.reg 0x7000) 5 = false) ∧ t.mem = s.mem ∧ t.fab = s.fab) ∧
    (∀ tr, s.dep.transfer = some tr → tr.doneAcked = true → s.logQ.length < 256 →
      ∃ t, Gives .unloadTimeout s t ∧ t.dep = { s.dep with
          transfer := none, dues := s.dep.dues.filter (fun x => decide (x.2.2 = 0 ∨ x.2.2 = 3)) } ∧ bitAt (t.reg 0x704C) 1 = true ∧
        t.logQ = s.logQ ++ [⟨s.time, 13, 6, 0, 0xFF, 3, tr.dst⟩] ∧ t.mem = s.mem) ∧
    (∀ d, s.dep.digest = some d → d.kind ≠ 0 → s.cellarFaulty = false → (s.digestOf (d.kind - 1)).2 = [] →
      (s.digestOf (d.kind - 1)).1 = (if d.kind = 1 then d.snapP else d.snapM) → ReplyRoom s d.sender 0x3FF0 →
      ∃ t u, Gives .receiveDigestDone s t ∧ t.dep.digest = none ∧ t.dep.rxBusy = false ∧ bitAt (t.reg 0x7000) 4 = false ∧
        SentOne t d.sender 0x3FF0 u ∧ fieldB u.payload 0 1 = 1 ∧ fieldB u.payload 4 4 = d.step % 2 ^ 32 ∧
        fieldB u.payload 8 1 = (if digestBytes (s.digestOf (d.kind - 1)).1 = sliceB d.carried 0 64 then 0 else 1)) ∧
    (∀ off v row, s.ready = true → off ∈ [0x7008, 0x700C, 0x7010, 0x7014, 0x7018, 0x701C] → regRow? off = some row →
      (s.dep.digest = none → s.dep.transfer = none → s.dep.rxBusy = false →
        Gives (.depConfigWrite off v) s (s.setReg off (regMerge row off (s.reg off) (v % 2 ^ 32)))) ∧
      (s.dep.digest.isSome = true ∨ s.dep.transfer.isSome = true ∨ s.dep.rxBusy = true →
        Gives (.depConfigWrite off v) s (s.orReg 0x704C 16)))

namespace Sys2Proof.Claims

/-- The operations of a die that end with status 6 on a completion counter when it is fenced: those in flight that name it,
but for descriptors that a helper has accepted (R21, R186, R395). -/
def endedOn (s : State) (cd : Cd) (c : Fin 16) : Nat :=
  ((s.die cd).ops.filter (fun o => !o.accepted && o.ctr.any (fun k => k % 16 == c.val))).length

/-- A die as fencing leaves it, and what reports it (R21, R395, Table 11-3): its sequencer stops with nothing in flight, each
operation ended being counted; DEP_STATUS shows it and the device degraded, and an event names the die and the cause. Of
other dies only the scoreboard changes, which lets go what the fenced die's movements hold. -/
def FencedBy (s t : State) (cd : Cd) (cause : Nat) : Prop :=
  (t.die cd).mode = .fenced ∧ (t.die cd).ops = [] ∧ (t.die cd).sb = [] ∧ (t.die cd).stall = .none ∧ (t.die cd).startCmd = none ∧
  (∀ c : Fin 16, ((t.die cd).cnt[c]).count = ((s.die cd).cnt[c]).count + BitVec.ofNat 32 (endedOn s cd c)) ∧
  bitAt (t.reg 0x7000) 0 = true ∧
  bitAt (t.reg 0x7000) (8 + cd.val) = true ∧ (∀ o : Cd, o ≠ cd → t.die o = { s.die o with sb := (t.die o).sb }) ∧
  (s.host.resetting = 0 → ∃ e ∈ t.host.heldQ, IsEvent e 0x0007 32 s.time ∧ fieldB e.bytes 16 1 = cd.val ∧
    fieldB e.bytes 17 1 = cause)

/-- The flag behind the lost list rises by 1. -/
def LostFlagRose (s t : State) : Prop :=
  t.num (s.lostBase + 128) 8 = (s.num (s.lostBase + 128) 8 + 1) % 2 ^ 64 ∧
  ∀ x, (x < s.lostBase ∨ s.lostBase + 136 ≤ x) → t.byte x = s.byte x

/-- The lost list may be read and written, and its flag may be added to. -/
def LostReady (s : State) : Prop :=
  s.ready = true ∧ s.lostBase % 8 = 0 ∧ Plain s s.lostBase 136 ∧ s.atomicHome (s.lostBase + 128) = true

/-- A die's number in its quadrant. -/
abbrev dieOf (k : Fin 4) (i : Fin 3) : Cd := cdOf (3 * k.val + i.val)

/-- The share of a tick's credit that each die of a quadrant in service takes (R415). -/
def tickShare (s : State) (k : Fin 4) : Int :=
  dieShare ((s.quadBudget k.val : Int) - (s.led.base[k] : Int))
    ((List.finRange 3).filter (fun i => !s.fenced (dieOf k i).val)).length

/-- Every die's register shows its setpoint, between code 16 and code 64 (R423). -/
def SetpointsShown (t : State) : Prop :=
  ∀ i : Fin 12, fld (t.reg (0x8040 + 4 * i.val)) 0 7 = t.setpoint i ∧ 16 ≤ t.setpoint i ∧ t.setpoint i ≤ 64

end Sys2Proof.Claims

open Sys2Proof.Claims

/-- R390: the lost list. Adding a coordinate not in a list with room puts it at the end, ends every collective in progress and
raises the flag; adding one in the list changes nothing; a full list sets lost_full alone. Removing one closes the gap; clearing empties the list. -/
def Sys2Proof.Claims.LostListOperations : Prop :=
  ∀ (s : State) (c : Nat), LostReady s → c < 2 ^ 20 → s.lostCount ≤ 16 →
    (s.lostList.contains c = false → s.lostCount < 16 → (∀ j ∈ s.coll.jobs, j.running = false) →
      ∃ t, Gives (.lostAdd c) s t ∧ t.lostList = s.lostList ++ [c] ∧ LostFlagRose s t) ∧
    (s.lostList.contains c = false → s.lostCount < 16 →
      ∃ t, Gives (.lostAdd c) s t ∧ (∀ j ∈ t.coll.jobs, j.running = false)) ∧
    (s.lostList.contains c = true → s.lostCount < 16 → Gives (.lostAdd c) s s) ∧
    (s.lostCount = 16 → Gives (.lostAdd c) s (s.orReg 0x704C 8)) ∧
    (∃ t, Gives (.lostRemove c) s t ∧ t.lostList = s.lostList.erase c ∧ LostFlagRose s t) ∧
    (∃ t, Gives .lostClear s t ∧ t.lostList = [] ∧ LostFlagRose s t)

/-- R20–R22, R395 and Tables 1-7 and 11-3: what is lost. The reset of a compute die, and the loss of its clock, fence it; the
loss of a link die's clock fences it and takes its port down; a base die or a stack is the loss of the device, reported by an
event: no die works on and no memory is there. -/
def Obligations.DiesFenced : Prop :=
  ∀ (s : State), s.ready = true →
    (∀ cd : Cd, (s.die cd).mode ≠ .fenced →
      (∃ t, Gives (.computeDieReset cd) s t ∧ FencedBy s t cd 1) ∧
      (s.boot.failed = false → ∃ t, Gives (.clockLoss cd.val) s t ∧ FencedBy s t cd 0)) ∧
    (∀ cd : Cd, (s.die cd).mode = .fenced → Gives (.computeDieReset cd) s s ∧ Gives (.clockLoss cd.val) s s) ∧
    (∀ p : Port, s.boot.failed = false → (s.hafDie (80 + p.val)).state ≠ 4 →
      ∃ t, Gives (.clockLoss (80 + p.val)) s t ∧ (t.hafDie (80 + p.val)).state = 4 ∧ t.fab.ports[p].state = 8 ∧
        bitAt (t.reg 0x4014) 2 = true ∧ bitAt (t.reg 0x7000) 0 = true ∧ t.mem = s.mem ∧ t.dies = s.dies ∧
        (s.host.resetting = 0 → ∃ e ∈ t.host.heldQ, IsEvent e 0x0007 32 s.time ∧ fieldB e.bytes 16 1 = 80 + p.val ∧
          fieldB e.bytes 17 1 = 0)) ∧
    (∀ n, s.boot.failed = false → 12 ≤ n → n < 80 → s.host.resetting = 0 →
      ∃ t e, Gives (.clockLoss n) s t ∧ t.boot.failed = true ∧ t.host.heldQ = s.host.heldQ ++ [e] ∧ IsEvent e 0x0007 32 s.time ∧
        fieldB e.bytes 16 1 = n ∧ t.mem = s.mem ∧ (∀ a, t.loc a = none) ∧ (∀ cd : Cd, (t.die cd).mode = .fenced) ∧
        (∀ p : Port, t.fab.ports[p].state = 8)) ∧
    (∀ n, s.boot.failed = true → Gives (.clockLoss n) s s)

/-- R369, R398–R400, R456: the error log and the steward. The oldest record is written at its place in the ring, and no other
byte, and counted. A watchdog in use restarts; it expires once its period has passed, which takes the maltster down, and a
third expiry within 10 s fails it; a restart is counted, loads the supplements again from their slots, and brings it back. -/
def Sys2Proof.Claims.LogAndSteward : Prop :=
  ∀ (s : State),
    (∀ r rest a, s.logQ = r :: rest → bitAt (s.reg 0x7004) 17 = true → s.dep.stewardDown = false → s.stewardFailed = false →
      a = s.regPair 0x7028 % 2 ^ 48 + 32 * (s.reg 0x7050 % 4096) → s.atomicHome a = true → Plain s a 32 →
      ∃ t, Gives .logWrite s t ∧ t.logQ = rest ∧ t.bytes a 32 = logBytes (s.reg 0x7050) r ∧ OnlyBytes s t a 32 ∧
        t.reg 0x7050 = satAdd32 (s.reg 0x7050) 1) ∧
    (s.dep.stewardDown = false → Gives .watchdogRestart s { s with dep := { s.dep with wdogAt := s.time } }) ∧
    (s.wdogDue = true → s.ready = true →
      ∃ t, Gives (.watchdogExpire false) s t ∧ t.dep.stewardDown = true ∧ t.dep.wdogAt = s.time ∧ t.mem = s.mem ∧ t.dies = s.dies ∧
        (2 ≤ (s.dep.expiries.filter (fun x => decide (s.time ≤ x + 10000000000))).length → t.stewardFailed = true) ∧
        ((s.dep.expiries.filter (fun x => decide (s.time ≤ x + 10000000000))).length < 2 → t.regs = s.regs)) ∧
    (s.dep.stewardDown = true → s.stewardFailed = false →
      ∃ t, Gives .stewardRestartDone s t ∧ t.dep.stewardDown = false ∧ t.dep.wdogAt = s.time ∧
        t.reg 0x7058 = satAdd32 (s.reg 0x7058) 1 ∧ t.mem = s.mem ∧ t.dies = s.dies ∧ t.boot.flash = s.boot.flash ∧
        (∀ i : Fin 2, s.supplement i.val = none → t.boot.secVer[i] = 0 ∧ bitAt (t.reg 0x1000) (7 + i.val) = false) ∧
        (∀ (i : Fin 2) r, s.supplement i.val = some r → i = 0 ∨ s.supplement 0 = none →
          let a := 0x80000 + i.val * 0x40000
          t.boot.secVer[i] = s.flashNum (a + 20) 4 ∧
          bitAt (t.reg 0x1000) (7 + i.val) = Config.supplementStays (s.flash a (64 + r.2))))

/-- The lost list, the error log and the steward. -/
def Obligations.ListsAndLog : Prop := LostListOperations ∧ LogAndSteward

/-- R415, R418 and Table 12-4: a tick of the ledger. Each die in service takes its share of its quadrant's budget less the
baseline, held to its bound of burst ticks; the device's energy grows by what the power stages measured. -/
def Sys2Proof.Claims.LedgerTickCredits : Prop :=
  ∀ (s : State) (temps : Readings), s.ready = true →
    ∃ t, Gives (.ledgerTick temps) s t ∧ t.led.tick = s.led.tick + 1 ∧ t.led.now = s.led.now + 1 ∧
      t.led.energy = s.led.energy + ((List.range 4).map s.tickEnergy).sum ∧
      t.reg 0x80B0 = t.led.energy / 10 ^ 9 % 2 ^ 32 ∧ t.mem = s.mem ∧ t.dies = s.dies ∧
      ∀ (k : Fin 4) (i : Fin 3), let cd := dieOf k i
        (s.fenced cd.val = false → t.led.credit[cd] =
          min (s.led.credit[cd] + tickShare s k) ((fld (s.reg 0x800C) 0 8 : Nat) * tickShare s k)) ∧
        (s.fenced cd.val = true → t.led.credit[cd] = s.led.credit[cd])

/-- R418, R422 and R423: the end of a gyle of 1,000 ticks, when core clocks have been counted, sets the own pace from its
waits and starts the next; the setpoints follow. A full pace stays while none of its reasons acted. The pace stays between a
quarter and the full 1,024. -/
def Sys2Proof.Claims.GyleSetsPace : Prop :=
  (∀ (s : State), s.ready = true → 1000 ≤ s.led.tick → s.led.span ≠ 0 → s.led.own = 1024 → s.led.paced = false →
    ∃ t, Gives .gyleEnd s t ∧ t.led.own = 1024 ∧ t.led.tick = 0) ∧
  (∀ (s : State), s.ready = true → 1000 ≤ s.led.tick → s.led.span ≠ 0 → (s.led.own ≠ 1024 ∨ s.led.paced = true) →
    ∃ t, Gives .gyleEnd s t ∧ t.led.own = s.led.nextPace ∧ t.led.tick = 0 ∧ t.led.span = 0 ∧ (∀ k : Fin 4, t.led.spent[k] = 0) ∧
      (∀ i : Fin 12, t.led.waits[i] = 0) ∧ fld (t.reg 0x8000) 16 11 = s.led.nextPace % 2 ^ 11 ∧ SetpointsShown t ∧
      t.led.credit = s.led.credit ∧ t.led.energy = s.led.energy ∧ t.mem = s.mem ∧ t.dies = s.dies) ∧
  (∀ (l : LedSt), 256 ≤ l.own → l.own ≤ 1024 → 256 ≤ l.nextPace ∧ l.nextPace ≤ 1024)

/-- Ticks and gyles of the energy ledger. -/
def Obligations.LedgerAndPace : Prop := LedgerTickCredits ∧ GyleSetsPace

/-- R409, R416, R421, R426 and R428: admission and throttles. A held instruction that may be admitted is, once, its
estimate debited; an episode ends 16 ticks after its reason last acted, with its event; a hard rail limit halves the
quadrant's clocks; a droop stretches its die's clock, is counted, and ends; a spread delay ends when its time has come. -/
def Obligations.AdmissionAndThrottles : Prop :=
  ∀ (s : State) (cd : Cd),
    (∀ w, (s.die cd).instrAt = some w → (s.die cd).stall = .admission → s.admits cd (iCls w) (s.estOf cd w) = true →
      Gives (.admissionGrant cd) s
        ((s.debit cd (s.estOf cd w)).updDie cd (fun d => { d with stall := .none, admitted := true }))) ∧
    (∀ w, (s.die cd).instrAt = some w → s.admits cd (iCls w) (s.estOf cd w) = false → Gives (.admissionGrant cd) s s) ∧
    (∀ r e, s.led.episodes.find? (fun e => e.reason == r && decide (e.last + 16 < s.led.now)) = some e → s.host.resetting = 0 →
      ∃ t v, Gives (.throttleEpisodeEnd r) s t ∧ t.led.episodes = s.led.episodes.filter (fun x => x.reason != e.reason) ∧
        t.host.heldQ = s.host.heldQ ++ [v] ∧ IsEvent v 0x0008 31 s.time ∧
        fieldB v.bytes 20 4 = (e.last - e.first + 1) % 2 ^ 32 ∧ t.mem = s.mem ∧ t.regs = s.regs) ∧
    (∀ (k : Bd) (rail : Fin 4), s.ready = true →
      ∃ t, Gives (.railHardLimit k rail) s t ∧ t.led.halved.toList = s.led.halved.toList.set (4 * k.val + rail.val) true ∧
        t.mem = s.mem ∧ t.regs = s.regs ∧ t.dies = s.dies) ∧
    (s.ready = true → s.fenced cd.val = false → s.led.stretched[cd] = false →
      ∃ t, Gives (.droopDetect cd) s t ∧ t.led.stretched[cd] = true ∧ t.mem = s.mem ∧ t.dies = s.dies ∧
        fld (t.reg (0x8040 + 4 * cd.val)) 12 20 = min (fld (s.reg (0x8040 + 4 * cd.val)) 12 20 + 1) (2 ^ 20 - 1)) ∧
    (∃ t, Gives (.droopRecover cd) s t ∧ t.led.stretched[cd] = false ∧ (∀ o : Cd, o ≠ cd → t.led.stretched[o] = s.led.stretched[o]) ∧
      t.mem = s.mem ∧ t.regs = s.regs ∧ t.dies = s.dies) ∧
    (s.led.releasedAt + s.spreadDelay cd ≤ s.time →
      Gives (.spreadHoldExpire cd) s (s.updDie cd (fun d => { d with spreadHold := false })))

/-- R406, R413 and R429–R434: caps and power stages. The brake brings every setpoint to code 16 and ends 100 µs after its
causes; a hot quadrant's cap falls by one code, a cool one's rises; a slack under 30 ps raises a trim by a step, or
lowers the ageing cap; a lost clock is shown; a sound estimate table is copied and another refused; a stage's frame is kept;
a stage that misses its frames is lost and logged. -/
def Obligations.CapsAndStages : Prop :=
  ∀ (s : State),
    (∀ land, s.boot.powered = true → ∃ t, Gives (.brakeAssert land) s t ∧ t.led.brake = true ∧ bitAt (t.reg 0x8000) 14 = true ∧
      (∀ i : Fin 12, fld (t.reg (0x8040 + 4 * i.val)) 0 7 = 16) ∧ t.mem = s.mem ∧ t.dies = s.dies) ∧
    (∀ land, ∃ t, Gives (.pwrBrakeNRelease land) s t ∧ t.led.brakeAt = s.time ∧ t.led.brake = s.led.brake ∧
      (if land then t.led.brakePin else t.led.brakeIn) = false ∧ t.regs = s.regs ∧ t.mem = s.mem) ∧
    (s.led.brakeIn = false → s.led.brakePin = false → s.led.brakeAt + 100000 ≤ s.time →
      ∃ t, Gives .brakeRelease s t ∧ t.led.brake = false ∧ bitAt (t.reg 0x8000) 14 = false ∧ SetpointsShown t ∧ t.mem = s.mem) ∧
    (∀ k : Bd, s.ready = true → ∃ t, Gives (.thermalCapStep k) s t ∧ SetpointsShown t ∧ t.mem = s.mem ∧
      (s.led.hot[k] = true → t.led.thermal[k] = max 16 (s.led.thermal[k] - 1)) ∧
      (s.led.hot[k] = false → s.led.cool[k] = true → t.led.thermal[k] = min 64 (s.led.thermal[k] + 1)) ∧
      (s.led.hot[k] = false → s.led.cool[k] = false → t.led.thermal[k] = s.led.thermal[k]) ∧
      ∀ o : Bd, o ≠ k → t.led.thermal[o] = s.led.thermal[o]) ∧
    (∀ (cd : Cd) slack, s.ready = true → s.dep.stewardDown = false → s.stewardFailed = false → s.fenced cd.val = false → slack < 30 →
      let trim := fld (s.reg (0x8040 + 4 * cd.val)) 7 5
      ∃ t, Gives (.ageingCheck cd slack) s t ∧ t.mem = s.mem ∧
        (trim < 20 → fld (t.reg (0x8040 + 4 * cd.val)) 7 5 = trim + 1 ∧ t.led = s.led ∧ cd.val ∈ t.boot.dueTrims) ∧
        (20 ≤ trim → t.led.ageing[cd] = max 16 (s.led.ageing[cd] - 1) ∧ bitAt (t.reg 0x8000) 13 = true ∧ SetpointsShown t)) ∧
    (∀ clk : Fin 3, s.boot.refs[clk] = true → ∃ t, Gives (.refclkLoss clk) s t ∧ t.boot.refs[clk] = false ∧
      bitAt (t.reg 0x8000) 12 = true ∧ t.mem = s.mem ∧ t.dies = s.dies) ∧
    (∀ a l, s.ready = true → a = s.regPair 0x8018 % 2 ^ 48 → l = (List.range 32).map (fun i => s.num (a + 4 * i) 4) → Plain s a 128 →
      (winDie a).any s.fenced = false →
      ((l.drop 18).all (· == 0) = true → ∃ t, Gives .loadEst s t ∧ t.led.est = l ∧ bitAt (t.reg 0x8000) 27 = false ∧ t.mem = s.mem) ∧
      ((l.drop 18).all (· == 0) = false → ∃ t, Gives .loadEst s t ∧ t.led = s.led ∧ bitAt (t.reg 0x8000) 27 = true ∧ t.mem = s.mem)) ∧
    (∀ (j : Cd) rs, s.boot.powered = true → bitAt (s.reg 0x8000) j.val = true → s.boot.step ≠ 5 → s.boot.step ≠ 6 →
      (∃ t, Gives (.powerStageFrame j rs false) s t ∧ t.led.frames[j] = (List.range 12).map (fun i => rs.getD i 0) ∧
        t.led.limited = (if 115 < max (rs.getD 10 0) (rs.getD 11 0) then setIns s.led.limited j.val
          else setDel s.led.limited j.val) ∧ t.regs = s.regs ∧ t.mem = s.mem) ∧
      (∀ i ∈ ([.powerStageFrame j rs true, .powerStageTimeout j false] : List Instr), s.logQ.length < 256 →
        ∃ t, Gives i s t ∧ bitAt (t.reg 0x8000) j.val = false ∧ t.led.frames[j] = [] ∧ bitAt (t.reg 0x7000) 0 = true ∧
          t.logQ = s.logQ ++ [⟨s.time, 18, 5, j.val, 0xFF, 15, 0⟩] ∧ t.mem = s.mem))

namespace Sys2Proof.Claims

/-- A state in which start-up waits for nothing that power, clocks or reset bring: neither step 5 nor step 6. -/
def PastWaits (s : State) : Prop := s.boot.step ≠ 5 ∧ s.boot.step ≠ 6

/-- Unpowered, as at reset, but for the flash, the waiting commands and the record of outputs (R404, R438). -/
def Unpowered (s t : State) : Prop :=
  t.boot.powered = false ∧ t.boot.step = 0 ∧ t.mem = [] ∧ t.poison = [] ∧ t.regs = [] ∧ t.dies = State.reset.dies ∧
  t.fab = State.reset.fab ∧ t.coll = State.reset.coll ∧ t.grist = State.reset.grist ∧ t.dep = State.reset.dep ∧
  t.boot.flash = s.boot.flash ∧ t.pending = s.pending ∧ t.out = s.out

/-- Another die of step 14 that has neither answered nor echoed. -/
def OtherWaits (s : State) (die : Nat) : Prop :=
  ∃ o, o < 100 ∧ o ≠ die ∧ (s.hafDie o).state = 1 ∧ (s.hafDie o).echoed = false ∧ (s.hafDie o).cap = []

/-- A request of the right length and form to a mailbox that answers it (R458). -/
def Request (s : State) (req : List Byte) (len : Nat) : Prop :=
  s.attests = true ∧ req.length = len ∧ fieldB req 4 4 = len ∧ fieldB req 1 3 = 0 ∧ s.identityOk = true

/-- The next flit in sequence of a bundle in service, with its CRC good and of a kind (R470, R473). -/
def FlitNext (s : State) (die dir bundle : Nat) (flit : List Byte) (kind : Nat) : Prop :=
  dir < 2 ∧ s.takesFlits die dir bundle = true ∧ flitGood flit = true ∧
  flitSeq flit = (s.bundle (bundleKey die dir bundle)).expect ∧ flitKind flit = kind

/-- The receiver moved on: the next sequence number is expected and nothing is discarded. -/
def FlitTaken (s t : State) (die dir bundle : Nat) : Prop :=
  let k := bundleKey die dir bundle
  (t.bundle k).expect = ((s.bundle k).expect + 1) % 256 ∧ (t.bundle k).discard = false ∧ (t.bundle k).naks = 0

/-- The bundle on which a bundle's answers go, with nothing waiting and room for n more flits (R469, R473). -/
def AnswerRoom (s : State) (key n : Nat) : Prop :=
  let b := s.bundle (reverseKey key)
  b.outQ = [] ∧ n ≤ b.credits ∧ b.replay.length + n ≤ 128 ∧ b.testing = false

/-- The part of a slot that a bundle carries, kept for its group (R472). -/
abbrev partsOf (s : State) (die dir bundle : Nat) : List (Nat × List Byte) :=
  tabGet [] s.haf.parts ((die * 2 + dir) * 6 + bundle / 4)

end Sys2Proof.Claims

open Sys2Proof.Claims

/-- R404, R433, R435, R438, R443 and Table 12-6: power and resets. 48 V starts start-up at its first waits; without it, and
after a thermal trip, which is latched until the input falls below 30 V, nothing stays but the flash; SYS_RESET_N returns a
started device to step 6 with its power stages; once released, a valid part record for this stepping takes it to step 14,
and none, or another stepping, halts it; a reference clock and a test instruction are taken. -/
def Obligations.PowerAndResets : Prop :=
  ∀ (s : State),
    (∀ board, s.boot.powered = false → s.boot.trip = false → s.led.brakePin = false →
      ∃ t, Gives (.powerOn board) s t ∧ t.boot.powered = true ∧ t.boot.step = 5 ∧ t.mem = s.mem ∧ t.regs = s.regs ∧
        t.boot.flash = board.filter (fun c => decide (c.1 < 0x100000) || decide (0x200000 ≤ c.1)) ++ s.boot.flash) ∧
    (∀ board, s.boot.trip = true → Gives (.powerOn board) s s) ∧
    (s.boot.powered = true → ∃ t, Gives .inputOutOfRange s t ∧ Unpowered s t ∧ t.boot.trip = s.boot.trip) ∧
    (s.boot.powered = true → ∃ t, Gives .inputBelow30V s t ∧ Unpowered s t ∧ t.boot.trip = false) ∧
    (∀ cls celsius, s.boot.powered = true → cls < 6 →
      (celsius > critical cls → ∃ t, Gives (.thermalTrip cls celsius) s t ∧ Unpowered s t ∧ t.boot.trip = true) ∧
      (celsius ≤ critical cls → Gives (.thermalTrip cls celsius) s s)) ∧
    (s.boot.powered = true → 7 ≤ s.boot.step → ∃ t, Gives .coldReset s t ∧ t.boot.powered = true ∧ t.boot.sysReset = true ∧
      t.boot.step = 6 ∧ t.ready = false ∧ t.mem = [] ∧ fld (t.reg 0x8000) 0 12 = fld (s.reg 0x8000) 0 12 ∧
      t.boot.flash = s.boot.flash) ∧
    (∀ board, s.boot.sysReset = true → s.boot.step = 6 → s.boot.refs[0] = true → s.boot.tap ≤ 1 →
      ∃ t, Gives (.sysResetRelease board) s t ∧ t.boot.sysReset = false ∧ t.time = 0 ∧ t.boot.boots = s.boot.boots + 1 ∧
        match (s.boardFlash board).pickCopy with
        | none => fld (t.reg 0x1000) 0 4 = 8 ∧ fld (t.reg 0x1000) 16 8 = 1 ∧ bitAt (t.reg 0x30) 1 = true ∧
          t.boot.loaded = s.boot.loaded
        | some c =>
          if (s.boardFlash board).part c 0xC 4 = stepping then
            t.boot.step = 14 ∧ t.boot.loaded = true ∧ fld (t.reg 0x1000) 0 4 = 5 ∧
              ∀ i < 100, t.hafDie i = { HafDie.reset with state := 1 }
          else fld (t.reg 0x1000) 0 4 = 8 ∧ fld (t.reg 0x1000) 16 8 = 2 ∧ bitAt (t.reg 0x30) 1 = true) ∧
    (∀ clk : Fin 3, PastWaits s →
      ∃ t, Gives (.referenceClockValid clk) s t ∧ t.boot = { s.boot with refs := s.boot.refs.set clk true } ∧ t.regs = s.regs ∧
        t.mem = s.mem) ∧
    (∀ code, s.boot.powered = true → PastWaits s →
      ∃ t, Gives (.tapInstruction code) s t ∧ t.regs = s.regs ∧ t.mem = s.mem ∧
        t.boot = { s.boot with tap := if code ≤ 1 ∨ s.boot.sysReset = true then code else 0 })

/-- R215, R216, R440, R465, R476 and R478: start-up's waits. A tier of a quadrant is written with zero and shows its ready
bit, no other tier's bytes change, and the last of the twelve makes the device ready. A management frame is
acknowledged where its CRC holds, and in step 14 gives its die's block; a die that does not echo in time is below the
minimum. -/
def Obligations.StartUpWaits : Prop :=
  ∀ (s : State),
    (∀ (tier : Fin 3) (quad : Bd), s.boot.step = 20 → bitAt (s.reg 0x3000) (4 * tier.val + quad.val) = false →
      ∃ t, Gives (.memoryInitDone tier quad) s t ∧ bitAt (t.reg 0x3000) (4 * tier.val + quad.val) = true ∧
        (∀ l, tierBit l = 4 * tier.val + quad.val → memGet t.mem l = 0) ∧
        (∀ l, tierBit l ≠ 4 * tier.val + quad.val → memGet t.mem l = memGet s.mem l) ∧
        ((s.reg 0x3000 ||| 2 ^ (4 * tier.val + quad.val)) = 0xFFF → t.ready = true ∧ fld (t.reg 0x1000) 0 4 = 7 ∧ t.boot.step = 21 ∧
          bitAt (t.reg 0x30) 0 = true)) ∧
    (∀ die kind body, s.boot.powered = true → die < 100 → s.boot.step ≠ 14 →
      Gives (.mgmtFrame die kind body (crc16 body)) s (s.emit (.mgmt die 0 []))) ∧
    (∀ die kind body crc, crc16 body ≠ crc → s.boot.step ≠ 14 → Gives (.mgmtFrame die kind body crc) s s) ∧
    (∀ die body, s.boot.powered = true → die < 100 → s.boot.step = 14 → (s.hafDie die).state = 1 → (s.hafDie die).cap = [] →
      OtherWaits s die →
      ∃ t, Gives (.mgmtFrame die 0 body (crc16 body)) s t ∧ (t.hafDie die).cap = sliceB body 0 64 ∧ t.boot = s.boot ∧
        t.mem = s.mem ∧ t.regs = s.regs) ∧
    (∀ die, s.boot.step = 14 → (s.hafDie die).state = 1 → (s.hafDie die).echoed = false → OtherWaits s die →
      Gives (.selectionEchoTimeout die) s (s.setHafDie die { s.hafDie die with state := 5 }))

/-- R451, R452, R458, R460–R462 and Table 13-10: identity. A request of a wrong length, with a reserved byte set or without
a valid identity is answered with status 3, 1 or 2; certificates are returned; a report is signed; slot 6 takes the digest
of its content and the value. Changes of wear are written in one signed block of the active half. -/
def Obligations.AttestationAndWear : Prop :=
  ∀ (s : State),
    (∀ r ∈ ([(.getCertificates, 1, 8), (.measure, 2, 41), (.extend, 3, 72)] : List ((List Byte → Instr) × Nat × Nat)),
      ∀ req, s.attests = true →
      (req.length ≠ r.2.2 ∨ fieldB req 4 4 ≠ r.2.2 → Gives (r.1 req) s (s.respond r.2.1 3 [])) ∧
      (req.length = r.2.2 → fieldB req 4 4 = r.2.2 → fieldB req 1 3 ≠ 0 → Gives (r.1 req) s (s.respond r.2.1 1 [])) ∧
      (req.length = r.2.2 → fieldB req 4 4 = r.2.2 → fieldB req 1 3 = 0 → s.identityOk = false →
        Gives (r.1 req) s (s.respond r.2.1 2 []))) ∧
    (∀ req, Request s req 8 → Gives (.getCertificates req) s (s.respond 1 0 (s.partBytes s.copyUsed 0x56C0 0x4320))) ∧
    (∀ req, Request s req 41 → Gives (.measure req) s
      { s with
        freeCtr := s.freeCtr + 1
        out := .doe (s.report req ++ sliceB (Config.sign s.freeCtr (sha3 (s.report req))) 0 4627) :: s.out }) ∧
    (∀ req, Request s req 72 →
      ∃ t v, Gives (.extend req) s t ∧ v = sha3 (sliceB s.boot.slots[6] 0 64 ++ sliceB req 8 64) ∧
        t = ({ s with boot := { s.boot with slots := s.boot.slots.set 6 v } } : State).respond 3 0 v) ∧
    (∀ code, s.attests = true → 3 < code → code < 0x80 → Gives (.reservedAttestationCode code) s (s.respond code 1 [])) ∧
    Gives .doeAbort s { s with host := { s.host with doeErr := false } } ∧
    (s.boot.powered = true →
      Gives .serviceHours s { s with boot := { s.boot with hours := s.boot.hours + 24, dueHours := true } }) ∧
    (∀ a, s.identityOk = true → s.ready = true → s.dep.stewardDown = false → s.stewardFailed = false → s.newLanes = [] →
      s.boot.dueTrims = [] → s.boot.dueHours = true → s.boot.block < 64 → a = wearAddr s.boot.half s.boot.block →
      ∃ t, Gives .wearRecordWrite s t ∧ t.flashNum a 4 = 0x52575654 ∧ t.flashNum (a + 4) 4 = (s.boot.seq + 1) % 2 ^ 32 ∧
        t.flashNum (a + 8) 1 = 1 ∧ t.flash (a + 64) 64 = s.entryHours ∧ t.boot.block = s.boot.block + 1 ∧
        t.boot.seq = s.boot.seq + 1 ∧ t.boot.dueHours = false ∧ t.mem = s.mem ∧ t.regs = s.regs)

/-- R5, R6, R441, R495–R497, R501 and R502: setup registers and the board's interface. A write changes the bits that may be
written and no other, and nothing before ready; a changed timing selection is free-running until the clock locks again (the
model's choice, log entry 53), and a changed map period starts the map's counts again; a read of a counter's low half latches its high half. A board read returns
its register; a grant in range is taken and another rejected; status bits clear; a refused transaction is counted. -/
def Obligations.RegistersAndBoard : Prop :=
  ∀ (s : State),
    (∀ off v row, s.ready = true → off % 4 = 0 → ownWrite off = false → regRow? off = some row →
      let u := s.setReg off (regMerge row off (s.reg off) (v % 2 ^ 32))
      ((off = 0x4028 → fld (u.reg off) 0 13 = fld (s.reg off) 0 13) → (off = 0x402C → fld (u.reg off) 0 16 = fld (s.reg off) 0 16) →
        Gives (.registerWrite off v) s u) ∧
      (off = 0x4028 → fld (u.reg off) 0 13 ≠ fld (s.reg off) 0 13 →
        ∃ t, Gives (.registerWrite off v) s t ∧ fld (t.reg off) 0 13 = fld (u.reg off) 0 13 ∧ fld (t.reg off) 16 3 = 7 ∧
          bitAt (t.reg off) 19 = false ∧ t.mem = s.mem ∧ t.dies = s.dies ∧ t.fab = s.fab) ∧
      (off = 0x402C → fld (u.reg off) 0 16 ≠ fld (s.reg off) 0 16 →
        Gives (.registerWrite off v) s { u with fab := s.fab.clearMap })) ∧
    (∀ off v, s.ready = false → Gives (.registerWrite off v) s s) ∧
    (∀ (row : RegRow) (off old v i : Nat), i < 32 → bitAt row.rw i = false → bitAt row.w1c i = false →
      bitAt (regMerge row off old v) i = bitAt old i) ∧
    (s.ready = true → s.boot.powered = true →
      (∃ t, Gives (.counterLoRead false) s t ∧ t.out = .bar0 (s.time % 2 ^ 32) :: s.out ∧ t.latch.1 = s.time / 2 ^ 32 % 2 ^ 32 ∧
        t.mem = s.mem ∧ t.regs = s.regs) ∧
      (∃ t, Gives (.counterLoRead true) s t ∧ t.out = .bar0 (s.reg 0x80B0) :: s.out ∧ t.latch.2.1 = s.reg 0x80B4 ∧
        t.latch.1 = s.latch.1 ∧ t.mem = s.mem ∧ t.regs = s.regs)) ∧
    (∀ r ∈ ([(.bmReadBootStatus, 0x1000), (.bmReadEngStatus, 0x8000), (.bmReadEngGrant, 0x8008), (.bmReadEngTempMax, 0x8028),
        (.bmReadEngQpower 0, 0x8030), (.bmReadEngQpower 1, 0x8034), (.bmReadEngQpower 2, 0x8038), (.bmReadEngQpower 3, 0x803C),
        (.bmReadDepStatus, 0x7000), (.bmReadDevId, 0x0), (.bmReadBmStatus, 0x30), (.bmReadBmAlertEn, 0x34)] :
        List (Instr × Nat)), s.boot.powered = true → s.ready = true → Gives r.1 s (s.emit (.bm (s.reg r.2)))) ∧
    (s.boot.powered = true → s.ready = true →
      (∃ t, Gives .bmReadEngEnergyLo s t ∧ t.out = .bm (s.reg 0x80B0) :: s.out ∧ t.latch.2.2 = s.reg 0x80B4 ∧ t.regs = s.regs) ∧
      Gives .bmReadEngEnergyHi s (s.emit (.bm s.latch.2.2))) ∧
    (∀ v, s.boot.powered = true → s.boot.loaded = true →
      (400 ≤ fld v 0 12 → fld v 0 12 ≤ 3600 → Gives (.bmWriteEngGrant v) s (s.setReg 0x8008 (fld v 0 12))) ∧
      (fld v 0 12 < 400 ∨ 3600 < fld v 0 12 → Gives (.bmWriteEngGrant v) s (s.orReg 0x30 32))) ∧
    (∀ v, s.boot.powered = true → s.boot.loaded = false → Gives (.bmWriteEngGrant v) s (s.emit .bmNack)) ∧
    (∀ v, s.ready = true → Gives (.bmClearStatus v) s (s.andNotReg 0x30 (v % 64)) ∧
      Gives (.bmWriteBmAlertEn v) s (s.setReg 0x34 (v % 64))) ∧
    (s.boot.powered = true →
      ((∃ i < 6, bitAt (s.reg 0x30) i = true ∧ bitAt (s.reg 0x34) i = true) →
        Gives .bmAlertResponse s (s.emit (.bm (0x58 + Config.bmStraps % 4)))) ∧
      ((∀ i < 6, bitAt (s.reg 0x30) i = true → bitAt (s.reg 0x34) i = false) → Gives .bmAlertResponse s s)) ∧
    (s.boot.powered = true → Gives (.bmNack false) s (s.emit .bmNack) ∧
      ∃ t, Gives (.bmNack true) s t ∧ t.out = .bmNack :: s.out ∧ fld (t.reg 0x30) 8 8 = min 255 (fld (s.reg 0x30) 8 8 + 1) ∧
        t.mem = s.mem)

/-- R193, R194, R206, R212, R218, R469, R470, R472 and R473 with Table 14-4: flits taken in sequence are acknowledged. A read
request is answered with a completion and the line. A write request stores the bytes it enables of the line that follows,
and no other. An atomic waits at its home. A completion tells its requester, or waits for its line. A slot part waits for
the others. An ack record releases flits and gives credits back. -/
def Sys2Proof.Claims.FlitsTaken : Prop :=
  ∀ (s : State) (die dir bundle : Nat) (flit : List Byte),
    let key := bundleKey die dir bundle
    let rk := reverseKey key
    let a := reqAddr flit
    let x := a / 64 * 64
    (∀ l, FlitNext s die dir bundle flit 1 → HomeAnswers s a l → s.poisoned a = false → AnswerRoom s key 3 →
      ∃ t u v w, Gives (.flitReadRequest die dir bundle flit) s t ∧ FlitTaken s t die dir bundle ∧ t.mem = s.mem ∧
        (t.bundle rk).replay = (s.bundle rk).replay ++ [u, v, w] ∧ flitKind u = 7 ∧ flitKind v = 5 ∧
        fieldB (flitPayload v) 0 4 = reqTag flit ∧ fieldB (flitPayload v) 4 1 = 0 ∧ flitKind w = 4 ∧ flitPoison w = false ∧
        sliceB (flitPayload w) 0 64 = s.bytes x 64) ∧
    (∀ lineF data en l, FlitNext s die dir bundle flit 2 → HomeAnswers s a l →
      flitGood lineF = true → flitSeq lineF = (flitSeq flit + 1) % 256 → flitKind lineF = 4 → flitPoison lineF = false →
      rsDecode (flitPayload lineF) = some data → en = fieldB (flitPayload flit) 8 8 →
      (en = 2 ^ 64 - 1 ∨ s.poisoned a = false) →
      ∃ t, Gives (.flitWriteRequest die dir bundle flit lineF) s t ∧ t.bytes x 64 = mergeLine (s.bytes x 64) data en ∧
        OnlyBytes s t x 64 ∧ t.homeQ = s.homeQ) ∧
    (∀ code, FlitNext s die dir bundle flit 3 → code = fieldB (flitPayload flit) 6 1 → code ≤ 6 →
      ∃ t, Gives (.flitAtomicRequest die dir bundle flit) s t ∧ FlitTaken s t die dir bundle ∧ t.mem = s.mem ∧
        t.homeQ = s.homeQ ++ [⟨code, a, fieldB (flitPayload flit) 24 8, fieldB (flitPayload flit) 32 8,
          s.selfCoord + die % 12 * 2 ^ 20, .flit key (reqTag flit)⟩]) ∧
    (FlitNext s die dir bundle flit 5 →
      let p := flitPayload flit
      ∃ t, Gives (.flitCompletion die dir bundle flit) s t ∧ FlitTaken s t die dir bundle ∧ t.mem = s.mem ∧
        (bitAt (fieldB p 5 1) 0 = false → t.out.head? = some (.done (fieldB p 0 4) (fieldB p 4 1) (fieldB p 8 8))) ∧
        (bitAt (fieldB p 5 1) 0 = true → (t.bundle key).want = some (sliceB flit 0 72))) ∧
    (∀ w data, FlitNext s die dir bundle flit 4 → (s.bundle key).want = some w → flitKind w = 5 → flitPoison flit = false →
      rsDecode (flitPayload flit) = some data →
      ∃ t, Gives (.flitLine die dir bundle flit) s t ∧ FlitTaken s t die dir bundle ∧ t.mem = s.mem ∧
        t.out.head? = some (.line data false) ∧ (t.bundle key).want = none) ∧
    (∀ i, FlitNext s die dir bundle flit 6 → 80 ≤ die → die < 88 → i < 4 → i ≠ bundle % 4 →
      (∀ y ∈ partsOf s die dir bundle, y.1 ≠ i) →
      ∃ t, Gives (.flitSlotPart die dir bundle flit) s t ∧ FlitTaken s t die dir bundle ∧ t.mem = s.mem ∧
        partsOf t die dir bundle = partsOf s die dir bundle ++ [(bundle % 4, flitPayload flit)]) ∧
    (∀ b k r, FlitNext s die dir bundle flit 7 → r = fieldB (flitPayload flit) 0 4 → b = fld r 0 16 →
      b < dataBundles die (1 - dir) → k = bundleKey die (1 - dir) b → k ≠ rk → bitAt r 24 = false → (s.bundle k).outQ = [] →
      (s.bundle k).replay.any (fun f => flitSeq f == fld r 16 8) = true →
      ∃ t, Gives (.flitAck die dir bundle 1 flit) s t ∧ FlitTaken s t die dir bundle ∧ t.mem = s.mem ∧
        (t.bundle k).replay = (s.bundle k).replay.dropWhile (fun f => flitSeq f != fld r 16 8) ∧
        (t.bundle k).credits = min 16 ((s.bundle k).credits + fld r 25 7))

/-- R473–R475: flits that fail. A flit with a bad CRC is counted, refused and not taken; the eighth refusal of one flit in a row
retires its bundle where a spare is free. A spare that passes its test takes over; one that fails is counted, and the next
is tested while one is free. -/
def Sys2Proof.Claims.FlitFailuresAndSpares : Prop :=
  ∀ (s : State) (die dir bundle : Nat) (flit : List Byte), dir < 2 →
    let key := bundleKey die dir bundle
    let b := s.bundle key
    let d := s.hafDie die
    (s.takesFlits die dir bundle = true → flitGood flit = false → (∀ y ∈ b.fails, y + 1000000 ≤ s.time) →
      (b.naks < 7 → ∃ t, Gives (.flitCrcFailure die dir bundle flit) s t ∧ (t.hafDie die).crc = satAdd32 d.crc 1 ∧
        (t.bundle key).expect = b.expect ∧ (t.bundle key).discard = true ∧ (t.bundle key).naks = b.naks + 1 ∧
        (t.bundle key).testing = false ∧ t.mem = s.mem ∧ t.dies = s.dies) ∧
      (b.naks = 7 → s.freeSpares die dir ≠ 0 → ∃ t, Gives (.flitCrcFailure die dir bundle flit) s t ∧
        (t.bundle key).testing = true ∧ (t.hafDie die).retired = min (d.retired + 1) 0xFFFF ∧ t.mem = s.mem ∧ t.dies = s.dies)) ∧
    (b.testing = true → d.state = 3 →
      (∃ t, Gives (.spareBundleTestEnd die dir bundle true) s t ∧ (t.hafDie die).used = addSide d.used dir ∧
        (t.bundle key).testing = false ∧ t.mem = s.mem ∧ t.dies = s.dies) ∧
      (2 ≤ s.freeSpares die dir → Gives (.spareBundleTestEnd die dir bundle false) s
        (s.setHafDie die { d with bad := addSide d.bad dir })))

/-- Flits taken, flits that fail, and spare bundles. -/
def Obligations.Flits : Prop := FlitsTaken ∧ FlitFailuresAndSpares

/-- R193: a line with its check bytes decodes to the line. -/
def Obligations.LineCodeDecodes : Prop :=
  ∀ line : List Byte, line.length = 64 → rsDecode (line ++ rsCheck line) = some line

/-- A step takes the command at the front of the queue and performs it with the rest of the queue; on an empty queue the
block lets one nanosecond pass (the model's choice, log entry 8), after which no read or write that its home could perform
waits (R210, R216; log entry 50); where none waited, it changes no memory, register or packet. -/
def Obligations.StepTakesFront : Prop :=
  (∀ (c : Instr) (rest : List Instr) (s : State), s.pending = c :: rest → step s = exec c { s with pending := rest }) ∧
  (∀ s : State, s.pending = [] → ∃ t, step s = .next t ∧ t = idleTick s ∧ (s.boot.powered = false → t = s) ∧
    (s.boot.powered = true → t.homeNext = none) ∧
    (s.homeNext = none → t.mem = s.mem ∧ t.regs = s.regs ∧ t.fab = s.fab ∧ t.host = s.host ∧ t.out = s.out ∧ t.homeQ = s.homeQ ∧
      (s.boot.powered = true → t.time = (if 7 ≤ s.boot.step then s.time + 1 else s.time) ∧ t.boot.elapsed = s.boot.elapsed + 1)))

/-- Every command leaves the rest of the queue as it is. -/
def Sys2Proof.Claims.ExecKeepsQueue : Prop := ∀ (c : Instr) (s t : State), exec c s = .next t → t.pending = s.pending

/-- Every command completes: exec answers a next state for every command in every state. -/
def Sys2Proof.Claims.EveryCommandCompletes : Prop := ∀ (c : Instr) (s : State), ∃ t, exec c s = .next t

/-- Every command completes and leaves the rest of the queue as it is. -/
def Obligations.EveryCommand : Prop := ExecKeepsQueue ∧ EveryCommandCompletes

/-- R338, R401, R438 and R441 with the register maps: the state at reset. No command waits, no memory is listed, every register
reads its reset value, no unit has anything in progress, and the invariants hold (memory at reset is the model's choice,
log entry 9). -/
def Obligations.ResetState : Prop :=
  let s := State.reset
  s.pending = [] ∧ s.mem = [] ∧ s.poison = [] ∧ (∀ o, s.reg o = regReset o) ∧ s.ready = false ∧ s.boot.powered = false ∧
  s.coll.jobs = [] ∧ s.coll.group = none ∧ s.reg 0x500C = 1024 ∧ s.grist.jobs = [] ∧ s.dep.digest = none ∧ s.dep.transfer = none ∧
  (∀ cd : Cd, (s.die cd).mode = .idle ∧ (s.die cd).ops = []) ∧ (∀ p : Port, s.fab.ports[p].state = 0) ∧
  MemCanonical s ∧ P0True s

/-- R146, with the canonical form of memory: every step keeps memory in canonical form (locations strictly rising, no
listed byte equal to what an unlisted one reads as) and p0 at 1 on every die. -/
def Obligations.StepKeepsInvariants : Prop :=
  ∀ s t : State, MemCanonical s ∧ P0True s → step s = .next t → MemCanonical t ∧ P0True t

namespace Sys2Proof.Claims

/-- Pairs of F16 patterns of finite value. -/
def FiniteF16 (l : List (Nat × Nat)) : Prop := ∀ p ∈ l, fld p.1 10 5 ≠ 31 ∧ fld p.2 10 5 ≠ 31

/-- The sum that an X128 accumulator holds after the products of the pairs, in their order, from zero. -/
def productSum (strict : Bool) (l : List (Nat × Nat)) : X128 :=
  l.foldl (fun acc p => xPool strict acc (vMul (ffDecode ffF16 p.1) (ffDecode ffF16 p.2))) (.exact 0)

/-- A finite value as a rational. -/
def ratOf : Val → Rat
  | .fin neg num den => (if neg then -1 else 1) * (num : Rat) / (den : Rat)
  | _ => 0

end Sys2Proof.Claims

open Sys2Proof.Claims

/-- R37: a sum of at most 2^46 products of finite F16 values lies within the tag-0 range and is held exactly, in units of
2^-48; it is the same in any order, and the same in any grouping into partial sums. -/
def Obligations.ExactProductSums : Prop :=
  ∀ (strict : Bool) (l : List (Nat × Nat)), FiniteF16 l → l.length ≤ 2 ^ 46 →
    (∃ v : Int, productSum strict l = .exact v ∧ -2 ^ 126 ≤ v ∧ v < 2 ^ 126 ∧
      (v : Rat) = 2 ^ 48 * (l.map (fun p => ratOf (ffDecode ffF16 p.1) * ratOf (ffDecode ffF16 p.2))).sum) ∧
    (∀ m, l.Perm m → productSum strict m = productSum strict l) ∧
    (∀ x y, l = x ++ y → (xAdd strict (productSum strict x) (productSum strict y)).1 = productSum strict l)
end

