-- ==== Sys2Proof/Laws/Table.lean ====
section
/-! SUPPORT. Laws of the sorted tables and sets that hold sparse state: what a read gives after a write, and what a
deletion leaves. -/

namespace Sys2Proof.Machine

theorem tabGet_tabSet {α : Type} (d : α) (l : List (Nat × α)) (i j : Nat) (v : α) :
    tabGet d (tabSet l i v) j = if j = i then v else tabGet d l j := by
  induction l with
  | nil => simp [tabSet, tabGet, eq_comm]
  | cons e t ih =>
    obtain ⟨k, w⟩ := e
    by_cases h1 : i < k
    · by_cases h : j = i
      · simp [tabSet, tabGet, h1, h]
      · simp [tabSet, tabGet, h1, h, Ne.symm h]
    · by_cases h2 : k = i
      · by_cases h : j = i
        · simp [tabSet, tabGet, h2, h]
        · simp [tabSet, tabGet, h2, h, Ne.symm h]
      · by_cases h3 : k = j
        · subst h3; simp [tabSet, tabGet, h1, h2]
        · simp [tabSet, tabGet, h1, h2, h3, ih]

@[simp] theorem tabGet_tabSet_self {α : Type} (d : α) (l : List (Nat × α)) (i : Nat) (v : α) : tabGet d (tabSet l i v) i = v := by
  simp [tabGet_tabSet]

theorem tabGet_tabSet_ne {α : Type} (d : α) (l : List (Nat × α)) {i j : Nat} (v : α) (h : j ≠ i) :
    tabGet d (tabSet l i v) j = tabGet d l j := by
  simp [tabGet_tabSet, h]

theorem tabGet_tabDel {α : Type} (d : α) (l : List (Nat × α)) (i j : Nat) :
    tabGet d (tabDel l i) j = if j = i then d else tabGet d l j := by
  induction l with
  | nil => simp [tabDel, tabGet]
  | cons e t ih =>
    obtain ⟨k, w⟩ := e
    simp only [tabDel] at ih ⊢
    by_cases hk : k = i
    · subst hk
      by_cases hj : j = k
      · subst hj; simpa using ih
      · simp [tabGet, ih, hj, Ne.symm hj]
    · by_cases hj : k = j
      · subst hj; simp [tabGet, hk]
      · simp [tabGet, hk, hj, ih]

theorem mem_setIns (l : List Nat) (i j : Nat) : j ∈ setIns l i ↔ j = i ∨ j ∈ l := by
  induction l with
  | nil => simp [setIns]
  | cons k t ih =>
    simp only [setIns]
    split
    · simp
    · split
      · subst_vars; simp
      · simp [ih]; tauto

theorem mem_setDel (l : List Nat) (i j : Nat) : j ∈ setDel l i ↔ j ∈ l ∧ j ≠ i := by simp [setDel]

end Sys2Proof.Machine
end

