-- ==== Sys2Proof/Laws/Memory.lean ====
section
/-! SUPPORT. Laws of memory: a read after a write, and the canonical form, which every memory operation keeps. -/

namespace Sys2Proof.Machine

/-! ### Reads after writes -/

theorem memGet_filter (m : List Host.Cell) (i j : Nat) :
    memGet (m.filter (fun c => c.1 != i)) j = if j = i then 0 else memGet m j := by
  induction m with
  | nil => simp [memGet]
  | cons c t ih =>
    obtain ⟨k, v⟩ := c
    by_cases hk : k = i
    · subst hk
      by_cases hj : j = k
      · subst hj; simpa using ih
      · simp [memGet, ih, hj, Ne.symm hj]
    · by_cases hj : k = j
      · subst hj; simp [memGet, hk]
      · simp [memGet, hk, hj, ih]

theorem memGet_memIns (m : List Host.Cell) (i j : Nat) (b : Byte) (h : ∀ c ∈ m, c.1 ≠ i) :
    memGet (memIns m i b) j = if j = i then b else memGet m j := by
  induction m with
  | nil => by_cases h : j = i
           · simp [memIns, memGet, h]
           · simp [memIns, memGet, h, Ne.symm h]
  | cons c t ih =>
    obtain ⟨k, v⟩ := c
    have hk : k ≠ i := h _ (List.mem_cons_self ..)
    have ih := ih (fun c hc => h c (List.mem_cons_of_mem _ hc))
    simp only [memIns]
    split
    · by_cases hj : j = i
      · subst hj; simp [memGet]
      · simp [memGet, hj, Ne.symm hj]
    · by_cases hj : k = j
      · subst hj; simp [memGet, hk]
      · simp [memGet, hj, ih]

theorem memGet_memSet (m : List Host.Cell) (i j : Nat) (b : Byte) :
    memGet (memSet m i b) j = if j = i then b else memGet m j := by
  unfold memSet
  by_cases hb : b = 0
  · subst hb; simpa using memGet_filter m i j
  · simp only [hb, if_false]
    rw [memGet_memIns _ _ _ _ (by simp), memGet_filter]
    split <;> rfl

theorem memGet_memPut (bs : List Byte) (m : List Host.Cell) (i j : Nat) :
    memGet (memPut m i bs) j = if i ≤ j ∧ j < i + bs.length then bs.getD (j - i) 0 else memGet m j := by
  induction bs generalizing m i with
  | nil =>
    have h : ¬(i ≤ j ∧ j < i) := by omega
    simp [memPut, h]
  | cons b t ih =>
    rw [memPut, ih, memGet_memSet]
    simp only [List.length_cons]
    rcases Nat.lt_trichotomy j i with h | h | h
    · have h1 : ¬(i + 1 ≤ j ∧ j < i + 1 + t.length) := by omega
      have h2 : ¬(i ≤ j ∧ j < i + (t.length + 1)) := by omega
      rw [if_neg h1, if_neg h2, if_neg (Nat.ne_of_lt h)]
    · subst h
      have h1 : ¬(j + 1 ≤ j ∧ j < j + 1 + t.length) := by omega
      rw [if_neg h1]; simp
    · obtain ⟨n, rfl⟩ : ∃ n, j = i + 1 + n := ⟨j - (i + 1), by omega⟩
      have h3 : i + 1 + n ≠ i := by omega
      have h4 : i + 1 + n - i = n + 1 := by omega
      have h5 : i + 1 + n - (i + 1) = n := by omega
      by_cases hn : n < t.length
      · have h1 : i + 1 ≤ i + 1 + n ∧ i + 1 + n < i + 1 + t.length := by omega
        have h2 : i ≤ i + 1 + n ∧ i + 1 + n < i + (t.length + 1) := by omega
        simp [h1, h2, h4, h5]
      · have h1 : ¬(i + 1 ≤ i + 1 + n ∧ i + 1 + n < i + 1 + t.length) := by omega
        have h2 : ¬(i ≤ i + 1 + n ∧ i + 1 + n < i + (t.length + 1)) := by omega
        simp only [h1, h2, if_false, h3]

/-! ### The canonical form -/

/-- The canonical form as two facts of the list. -/
theorem Memory.wf_iff (m : List Host.Cell) :
    Memory.wf m = true ↔ m.Pairwise (fun c d => c.1 < d.1) ∧ ∀ c ∈ m, c.2 ≠ 0 := by
  induction m with
  | nil => simp [Memory.wf]
  | cons c t ih =>
    obtain ⟨k, b⟩ := c
    cases t with
    | nil => simp [Memory.wf]
    | cons d u =>
      obtain ⟨k', b'⟩ := d
      simp only [Memory.wf, Bool.and_eq_true, decide_eq_true_eq, ih]
      constructor
      · rintro ⟨⟨h1, h2⟩, h3, h4⟩
        refine ⟨List.Pairwise.cons ?_ h3, ?_⟩
        · intro e he
          rcases List.mem_cons.1 he with rfl | he'
          · exact h2
          · exact Nat.lt_trans h2 ((List.pairwise_cons.1 h3).1 e he')
        · intro e he
          rcases List.mem_cons.1 he with rfl | he'
          · exact h1
          · exact h4 e he'
      · rintro ⟨h1, h2⟩
        obtain ⟨h3, h4⟩ := List.pairwise_cons.1 h1
        exact ⟨⟨h2 (k, b) (List.mem_cons_self ..), h3 (k', b') (List.mem_cons_self ..)⟩, h4,
          fun e he => h2 e (List.mem_cons_of_mem _ he)⟩

theorem Memory.wf_filter {m : List Host.Cell} (p : Host.Cell → Bool) (h : Memory.wf m = true) : Memory.wf (m.filter p) = true := by
  rw [Memory.wf_iff] at h ⊢
  exact ⟨h.1.filter p, fun c hc => h.2 c (List.mem_of_mem_filter hc)⟩

theorem mem_memIns (m : List Host.Cell) (i : Nat) (b : Byte) (c : Host.Cell) : c ∈ memIns m i b ↔ c = (i, b) ∨ c ∈ m := by
  induction m with
  | nil => simp [memIns]
  | cons d t ih =>
    obtain ⟨k, v⟩ := d
    simp only [memIns]
    split
    · simp
    · simp [ih]; tauto

theorem Memory.wf_memIns {m : List Host.Cell} {i : Nat} {b : Byte} (h : Memory.wf m = true) (hb : b ≠ 0) (hi : ∀ c ∈ m, c.1 ≠ i) :
    Memory.wf (memIns m i b) = true := by
  rw [Memory.wf_iff] at h ⊢
  refine ⟨?_, fun c hc => ?_⟩
  · obtain ⟨h1, -⟩ := h
    induction m with
    | nil => simp [memIns]
    | cons d t ih =>
      obtain ⟨k, v⟩ := d
      obtain ⟨h3, h4⟩ := List.pairwise_cons.1 h1
      have hk : k ≠ i := hi _ (List.mem_cons_self ..)
      simp only [memIns]
      split
      · rename_i hik
        refine List.Pairwise.cons ?_ h1
        intro e he
        rcases List.mem_cons.1 he with rfl | he'
        · exact hik
        · exact Nat.lt_trans hik (h3 e he')
      · refine List.Pairwise.cons ?_ (ih (fun c hc => hi c (List.mem_cons_of_mem _ hc)) h4)
        intro e he
        rcases (mem_memIns _ _ _ _).1 he with rfl | he'
        · show k < i; omega
        · exact h3 e he'
  · rcases (mem_memIns _ _ _ _).1 hc with rfl | hc'
    · exact hb
    · exact h.2 c hc'

theorem Memory.wf_memSet {m : List Host.Cell} (i : Nat) (b : Byte) (h : Memory.wf m = true) : Memory.wf (memSet m i b) = true := by
  unfold memSet
  have hf := Memory.wf_filter (fun c => c.1 != i) h
  by_cases hb : b = 0
  · simpa [hb] using hf
  · rw [if_neg hb]; exact Memory.wf_memIns hf hb (by simp)

theorem Memory.wf_memPut (bs : List Byte) {m : List Host.Cell} (i : Nat) (h : Memory.wf m = true) : Memory.wf (memPut m i bs) = true := by
  induction bs generalizing m i with
  | nil => exact h
  | cons b t ih => exact ih _ (Memory.wf_memSet i b h)

theorem State.writeLine_wf {s : State} (a : Nat) (bs : List Byte) (h : Memory.wf s.mem = true) :
    Memory.wf (s.writeLine a bs).mem = true := by
  unfold State.writeLine
  split
  · exact h
  · split
    · split
      · exact Memory.wf_memPut _ _ h
      · exact h
    · exact Memory.wf_memPut _ _ h

theorem State.writeN_wf (n : Nat) {s : State} (a : Nat) (bs : List Byte) (h : Memory.wf s.mem = true) :
    Memory.wf (s.writeN a bs n).mem = true := by
  induction n generalizing s a bs with
  | zero => exact h
  | succ n ih =>
    unfold State.writeN
    split
    · exact h
    · exact ih _ _ (State.writeLine_wf _ _ h)

theorem State.write_wf {s : State} (a : Nat) (bs : List Byte) (h : Memory.wf s.mem = true) : Memory.wf (s.write a bs).mem = true :=
  State.writeN_wf _ _ _ h

/-- A write of part of one line that is not poisoned: the bytes stored, every other location as before. -/
theorem State.writeLine_spec {s : State} {a l : Nat} (bs : List Byte) (hl : s.loc a = some l) (hp : s.poison.contains (l / 64) = false) :
    s.writeLine a bs = { s with mem := memPut s.mem l bs } := by
  simp only [State.writeLine, hl, hp, Bool.false_eq_true, if_false]

@[simp] theorem State.poisonLine_mem (s : State) (a : Nat) : (s.poisonLine a).mem = s.mem := by
  unfold State.poisonLine; split <;> rfl

/-- What a write leaves: everything but memory and the poison marks. -/
theorem State.writeLine_rest (s : State) (a : Nat) (bs : List Byte) : ∃ m p, s.writeLine a bs = { s with mem := m, poison := p } := by
  unfold State.writeLine
  split
  · exact ⟨_, _, rfl⟩
  · split
    · split <;> exact ⟨_, _, rfl⟩
    · exact ⟨_, _, rfl⟩

theorem State.writeN_rest (n : Nat) (s : State) (a : Nat) (bs : List Byte) :
    ∃ m p, s.writeN a bs n = { s with mem := m, poison := p } := by
  induction n generalizing s a bs with
  | zero => exact ⟨_, _, rfl⟩
  | succ n ih =>
    unfold State.writeN
    split
    · exact ⟨_, _, rfl⟩
    · obtain ⟨m, p, h⟩ := State.writeLine_rest s a (bs.take (64 - a % 64))
      obtain ⟨m', p', h'⟩ := ih (s.writeLine a (bs.take (64 - a % 64))) (a + (64 - a % 64)) (bs.drop (64 - a % 64))
      exact ⟨m', p', by rw [h', h]⟩

theorem State.write_rest (s : State) (a : Nat) (bs : List Byte) : ∃ m p, s.write a bs = { s with mem := m, poison := p } :=
  State.writeN_rest _ _ _ _

end Sys2Proof.Machine
end

