-- ==== Sys2Proof/Laws/State.lean ====
section
/-! SUPPORT. What each update of the state, and each update of a die, leaves: one lemma per field. -/

namespace Sys2Proof.Machine

/-! ### State.setReg -/

@[simp] theorem State.setReg_pending (s : State) (o v : Nat) : (s.setReg o v).pending = s.pending := rfl
@[simp] theorem State.setReg_mem (s : State) (o v : Nat) : (s.setReg o v).mem = s.mem := rfl
@[simp] theorem State.setReg_poison (s : State) (o v : Nat) : (s.setReg o v).poison = s.poison := rfl
@[simp] theorem State.setReg_memc (s : State) (o v : Nat) : (s.setReg o v).memc = s.memc := rfl
@[simp] theorem State.setReg_homeQ (s : State) (o v : Nat) : (s.setReg o v).homeQ = s.homeQ := rfl
@[simp] theorem State.setReg_replies (s : State) (o v : Nat) : (s.setReg o v).replies = s.replies := rfl
@[simp] theorem State.setReg_dies (s : State) (o v : Nat) : (s.setReg o v).dies = s.dies := rfl
@[simp] theorem State.setReg_host (s : State) (o v : Nat) : (s.setReg o v).host = s.host := rfl
@[simp] theorem State.setReg_fab (s : State) (o v : Nat) : (s.setReg o v).fab = s.fab := rfl
@[simp] theorem State.setReg_coll (s : State) (o v : Nat) : (s.setReg o v).coll = s.coll := rfl
@[simp] theorem State.setReg_grist (s : State) (o v : Nat) : (s.setReg o v).grist = s.grist := rfl
@[simp] theorem State.setReg_dep (s : State) (o v : Nat) : (s.setReg o v).dep = s.dep := rfl
@[simp] theorem State.setReg_led (s : State) (o v : Nat) : (s.setReg o v).led = s.led := rfl
@[simp] theorem State.setReg_boot (s : State) (o v : Nat) : (s.setReg o v).boot = s.boot := rfl
@[simp] theorem State.setReg_haf (s : State) (o v : Nat) : (s.setReg o v).haf = s.haf := rfl
@[simp] theorem State.setReg_logQ (s : State) (o v : Nat) : (s.setReg o v).logQ = s.logQ := rfl
@[simp] theorem State.setReg_time (s : State) (o v : Nat) : (s.setReg o v).time = s.time := rfl
@[simp] theorem State.setReg_latch (s : State) (o v : Nat) : (s.setReg o v).latch = s.latch := rfl
@[simp] theorem State.setReg_out (s : State) (o v : Nat) : (s.setReg o v).out = s.out := rfl
@[simp] theorem State.setReg_freeCtr (s : State) (o v : Nat) : (s.setReg o v).freeCtr = s.freeCtr := rfl

/-! ### State.orReg -/

@[simp] theorem State.orReg_pending (s : State) (o m : Nat) : (s.orReg o m).pending = s.pending := rfl
@[simp] theorem State.orReg_mem (s : State) (o m : Nat) : (s.orReg o m).mem = s.mem := rfl
@[simp] theorem State.orReg_poison (s : State) (o m : Nat) : (s.orReg o m).poison = s.poison := rfl
@[simp] theorem State.orReg_memc (s : State) (o m : Nat) : (s.orReg o m).memc = s.memc := rfl
@[simp] theorem State.orReg_homeQ (s : State) (o m : Nat) : (s.orReg o m).homeQ = s.homeQ := rfl
@[simp] theorem State.orReg_replies (s : State) (o m : Nat) : (s.orReg o m).replies = s.replies := rfl
@[simp] theorem State.orReg_dies (s : State) (o m : Nat) : (s.orReg o m).dies = s.dies := rfl
@[simp] theorem State.orReg_host (s : State) (o m : Nat) : (s.orReg o m).host = s.host := rfl
@[simp] theorem State.orReg_fab (s : State) (o m : Nat) : (s.orReg o m).fab = s.fab := rfl
@[simp] theorem State.orReg_coll (s : State) (o m : Nat) : (s.orReg o m).coll = s.coll := rfl
@[simp] theorem State.orReg_grist (s : State) (o m : Nat) : (s.orReg o m).grist = s.grist := rfl
@[simp] theorem State.orReg_dep (s : State) (o m : Nat) : (s.orReg o m).dep = s.dep := rfl
@[simp] theorem State.orReg_led (s : State) (o m : Nat) : (s.orReg o m).led = s.led := rfl
@[simp] theorem State.orReg_boot (s : State) (o m : Nat) : (s.orReg o m).boot = s.boot := rfl
@[simp] theorem State.orReg_haf (s : State) (o m : Nat) : (s.orReg o m).haf = s.haf := rfl
@[simp] theorem State.orReg_logQ (s : State) (o m : Nat) : (s.orReg o m).logQ = s.logQ := rfl
@[simp] theorem State.orReg_time (s : State) (o m : Nat) : (s.orReg o m).time = s.time := rfl
@[simp] theorem State.orReg_latch (s : State) (o m : Nat) : (s.orReg o m).latch = s.latch := rfl
@[simp] theorem State.orReg_out (s : State) (o m : Nat) : (s.orReg o m).out = s.out := rfl
@[simp] theorem State.orReg_freeCtr (s : State) (o m : Nat) : (s.orReg o m).freeCtr = s.freeCtr := rfl

/-! ### State.andNotReg -/

@[simp] theorem State.andNotReg_pending (s : State) (o m : Nat) : (s.andNotReg o m).pending = s.pending := rfl
@[simp] theorem State.andNotReg_mem (s : State) (o m : Nat) : (s.andNotReg o m).mem = s.mem := rfl
@[simp] theorem State.andNotReg_poison (s : State) (o m : Nat) : (s.andNotReg o m).poison = s.poison := rfl
@[simp] theorem State.andNotReg_memc (s : State) (o m : Nat) : (s.andNotReg o m).memc = s.memc := rfl
@[simp] theorem State.andNotReg_homeQ (s : State) (o m : Nat) : (s.andNotReg o m).homeQ = s.homeQ := rfl
@[simp] theorem State.andNotReg_replies (s : State) (o m : Nat) : (s.andNotReg o m).replies = s.replies := rfl
@[simp] theorem State.andNotReg_dies (s : State) (o m : Nat) : (s.andNotReg o m).dies = s.dies := rfl
@[simp] theorem State.andNotReg_host (s : State) (o m : Nat) : (s.andNotReg o m).host = s.host := rfl
@[simp] theorem State.andNotReg_fab (s : State) (o m : Nat) : (s.andNotReg o m).fab = s.fab := rfl
@[simp] theorem State.andNotReg_coll (s : State) (o m : Nat) : (s.andNotReg o m).coll = s.coll := rfl
@[simp] theorem State.andNotReg_grist (s : State) (o m : Nat) : (s.andNotReg o m).grist = s.grist := rfl
@[simp] theorem State.andNotReg_dep (s : State) (o m : Nat) : (s.andNotReg o m).dep = s.dep := rfl
@[simp] theorem State.andNotReg_led (s : State) (o m : Nat) : (s.andNotReg o m).led = s.led := rfl
@[simp] theorem State.andNotReg_boot (s : State) (o m : Nat) : (s.andNotReg o m).boot = s.boot := rfl
@[simp] theorem State.andNotReg_haf (s : State) (o m : Nat) : (s.andNotReg o m).haf = s.haf := rfl
@[simp] theorem State.andNotReg_logQ (s : State) (o m : Nat) : (s.andNotReg o m).logQ = s.logQ := rfl
@[simp] theorem State.andNotReg_time (s : State) (o m : Nat) : (s.andNotReg o m).time = s.time := rfl
@[simp] theorem State.andNotReg_latch (s : State) (o m : Nat) : (s.andNotReg o m).latch = s.latch := rfl
@[simp] theorem State.andNotReg_out (s : State) (o m : Nat) : (s.andNotReg o m).out = s.out := rfl
@[simp] theorem State.andNotReg_freeCtr (s : State) (o m : Nat) : (s.andNotReg o m).freeCtr = s.freeCtr := rfl

/-! ### State.countReg -/

@[simp] theorem State.countReg_pending (s : State) (o n : Nat) : (s.countReg o n).pending = s.pending := rfl
@[simp] theorem State.countReg_mem (s : State) (o n : Nat) : (s.countReg o n).mem = s.mem := rfl
@[simp] theorem State.countReg_poison (s : State) (o n : Nat) : (s.countReg o n).poison = s.poison := rfl
@[simp] theorem State.countReg_memc (s : State) (o n : Nat) : (s.countReg o n).memc = s.memc := rfl
@[simp] theorem State.countReg_homeQ (s : State) (o n : Nat) : (s.countReg o n).homeQ = s.homeQ := rfl
@[simp] theorem State.countReg_replies (s : State) (o n : Nat) : (s.countReg o n).replies = s.replies := rfl
@[simp] theorem State.countReg_dies (s : State) (o n : Nat) : (s.countReg o n).dies = s.dies := rfl
@[simp] theorem State.countReg_host (s : State) (o n : Nat) : (s.countReg o n).host = s.host := rfl
@[simp] theorem State.countReg_fab (s : State) (o n : Nat) : (s.countReg o n).fab = s.fab := rfl
@[simp] theorem State.countReg_coll (s : State) (o n : Nat) : (s.countReg o n).coll = s.coll := rfl
@[simp] theorem State.countReg_grist (s : State) (o n : Nat) : (s.countReg o n).grist = s.grist := rfl
@[simp] theorem State.countReg_dep (s : State) (o n : Nat) : (s.countReg o n).dep = s.dep := rfl
@[simp] theorem State.countReg_led (s : State) (o n : Nat) : (s.countReg o n).led = s.led := rfl
@[simp] theorem State.countReg_boot (s : State) (o n : Nat) : (s.countReg o n).boot = s.boot := rfl
@[simp] theorem State.countReg_haf (s : State) (o n : Nat) : (s.countReg o n).haf = s.haf := rfl
@[simp] theorem State.countReg_logQ (s : State) (o n : Nat) : (s.countReg o n).logQ = s.logQ := rfl
@[simp] theorem State.countReg_time (s : State) (o n : Nat) : (s.countReg o n).time = s.time := rfl
@[simp] theorem State.countReg_latch (s : State) (o n : Nat) : (s.countReg o n).latch = s.latch := rfl
@[simp] theorem State.countReg_out (s : State) (o n : Nat) : (s.countReg o n).out = s.out := rfl
@[simp] theorem State.countReg_freeCtr (s : State) (o n : Nat) : (s.countReg o n).freeCtr = s.freeCtr := rfl

/-! ### State.fieldReg -/

@[simp] theorem State.fieldReg_pending (s : State) (o lo n v : Nat) : (s.fieldReg o lo n v).pending = s.pending := rfl
@[simp] theorem State.fieldReg_mem (s : State) (o lo n v : Nat) : (s.fieldReg o lo n v).mem = s.mem := rfl
@[simp] theorem State.fieldReg_poison (s : State) (o lo n v : Nat) : (s.fieldReg o lo n v).poison = s.poison := rfl
@[simp] theorem State.fieldReg_memc (s : State) (o lo n v : Nat) : (s.fieldReg o lo n v).memc = s.memc := rfl
@[simp] theorem State.fieldReg_homeQ (s : State) (o lo n v : Nat) : (s.fieldReg o lo n v).homeQ = s.homeQ := rfl
@[simp] theorem State.fieldReg_replies (s : State) (o lo n v : Nat) : (s.fieldReg o lo n v).replies = s.replies := rfl
@[simp] theorem State.fieldReg_dies (s : State) (o lo n v : Nat) : (s.fieldReg o lo n v).dies = s.dies := rfl
@[simp] theorem State.fieldReg_host (s : State) (o lo n v : Nat) : (s.fieldReg o lo n v).host = s.host := rfl
@[simp] theorem State.fieldReg_fab (s : State) (o lo n v : Nat) : (s.fieldReg o lo n v).fab = s.fab := rfl
@[simp] theorem State.fieldReg_coll (s : State) (o lo n v : Nat) : (s.fieldReg o lo n v).coll = s.coll := rfl
@[simp] theorem State.fieldReg_grist (s : State) (o lo n v : Nat) : (s.fieldReg o lo n v).grist = s.grist := rfl
@[simp] theorem State.fieldReg_dep (s : State) (o lo n v : Nat) : (s.fieldReg o lo n v).dep = s.dep := rfl
@[simp] theorem State.fieldReg_led (s : State) (o lo n v : Nat) : (s.fieldReg o lo n v).led = s.led := rfl
@[simp] theorem State.fieldReg_boot (s : State) (o lo n v : Nat) : (s.fieldReg o lo n v).boot = s.boot := rfl
@[simp] theorem State.fieldReg_haf (s : State) (o lo n v : Nat) : (s.fieldReg o lo n v).haf = s.haf := rfl
@[simp] theorem State.fieldReg_logQ (s : State) (o lo n v : Nat) : (s.fieldReg o lo n v).logQ = s.logQ := rfl
@[simp] theorem State.fieldReg_time (s : State) (o lo n v : Nat) : (s.fieldReg o lo n v).time = s.time := rfl
@[simp] theorem State.fieldReg_latch (s : State) (o lo n v : Nat) : (s.fieldReg o lo n v).latch = s.latch := rfl
@[simp] theorem State.fieldReg_out (s : State) (o lo n v : Nat) : (s.fieldReg o lo n v).out = s.out := rfl
@[simp] theorem State.fieldReg_freeCtr (s : State) (o lo n v : Nat) : (s.fieldReg o lo n v).freeCtr = s.freeCtr := rfl

/-! ### State.setDie -/

@[simp] theorem State.setDie_pending (s : State) (cd : Cd) (d : Die) : (s.setDie cd d).pending = s.pending := rfl
@[simp] theorem State.setDie_regs (s : State) (cd : Cd) (d : Die) : (s.setDie cd d).regs = s.regs := rfl
@[simp] theorem State.setDie_mem (s : State) (cd : Cd) (d : Die) : (s.setDie cd d).mem = s.mem := rfl
@[simp] theorem State.setDie_poison (s : State) (cd : Cd) (d : Die) : (s.setDie cd d).poison = s.poison := rfl
@[simp] theorem State.setDie_memc (s : State) (cd : Cd) (d : Die) : (s.setDie cd d).memc = s.memc := rfl
@[simp] theorem State.setDie_homeQ (s : State) (cd : Cd) (d : Die) : (s.setDie cd d).homeQ = s.homeQ := rfl
@[simp] theorem State.setDie_replies (s : State) (cd : Cd) (d : Die) : (s.setDie cd d).replies = s.replies := rfl
@[simp] theorem State.setDie_host (s : State) (cd : Cd) (d : Die) : (s.setDie cd d).host = s.host := rfl
@[simp] theorem State.setDie_fab (s : State) (cd : Cd) (d : Die) : (s.setDie cd d).fab = s.fab := rfl
@[simp] theorem State.setDie_coll (s : State) (cd : Cd) (d : Die) : (s.setDie cd d).coll = s.coll := rfl
@[simp] theorem State.setDie_grist (s : State) (cd : Cd) (d : Die) : (s.setDie cd d).grist = s.grist := rfl
@[simp] theorem State.setDie_dep (s : State) (cd : Cd) (d : Die) : (s.setDie cd d).dep = s.dep := rfl
@[simp] theorem State.setDie_led (s : State) (cd : Cd) (d : Die) : (s.setDie cd d).led = s.led := rfl
@[simp] theorem State.setDie_boot (s : State) (cd : Cd) (d : Die) : (s.setDie cd d).boot = s.boot := rfl
@[simp] theorem State.setDie_haf (s : State) (cd : Cd) (d : Die) : (s.setDie cd d).haf = s.haf := rfl
@[simp] theorem State.setDie_logQ (s : State) (cd : Cd) (d : Die) : (s.setDie cd d).logQ = s.logQ := rfl
@[simp] theorem State.setDie_time (s : State) (cd : Cd) (d : Die) : (s.setDie cd d).time = s.time := rfl
@[simp] theorem State.setDie_latch (s : State) (cd : Cd) (d : Die) : (s.setDie cd d).latch = s.latch := rfl
@[simp] theorem State.setDie_out (s : State) (cd : Cd) (d : Die) : (s.setDie cd d).out = s.out := rfl
@[simp] theorem State.setDie_freeCtr (s : State) (cd : Cd) (d : Die) : (s.setDie cd d).freeCtr = s.freeCtr := rfl

/-! ### State.updDie -/

@[simp] theorem State.updDie_pending (s : State) (cd : Cd) (f : Die → Die) : (s.updDie cd f).pending = s.pending := rfl
@[simp] theorem State.updDie_regs (s : State) (cd : Cd) (f : Die → Die) : (s.updDie cd f).regs = s.regs := rfl
@[simp] theorem State.updDie_mem (s : State) (cd : Cd) (f : Die → Die) : (s.updDie cd f).mem = s.mem := rfl
@[simp] theorem State.updDie_poison (s : State) (cd : Cd) (f : Die → Die) : (s.updDie cd f).poison = s.poison := rfl
@[simp] theorem State.updDie_memc (s : State) (cd : Cd) (f : Die → Die) : (s.updDie cd f).memc = s.memc := rfl
@[simp] theorem State.updDie_homeQ (s : State) (cd : Cd) (f : Die → Die) : (s.updDie cd f).homeQ = s.homeQ := rfl
@[simp] theorem State.updDie_replies (s : State) (cd : Cd) (f : Die → Die) : (s.updDie cd f).replies = s.replies := rfl
@[simp] theorem State.updDie_host (s : State) (cd : Cd) (f : Die → Die) : (s.updDie cd f).host = s.host := rfl
@[simp] theorem State.updDie_fab (s : State) (cd : Cd) (f : Die → Die) : (s.updDie cd f).fab = s.fab := rfl
@[simp] theorem State.updDie_coll (s : State) (cd : Cd) (f : Die → Die) : (s.updDie cd f).coll = s.coll := rfl
@[simp] theorem State.updDie_grist (s : State) (cd : Cd) (f : Die → Die) : (s.updDie cd f).grist = s.grist := rfl
@[simp] theorem State.updDie_dep (s : State) (cd : Cd) (f : Die → Die) : (s.updDie cd f).dep = s.dep := rfl
@[simp] theorem State.updDie_led (s : State) (cd : Cd) (f : Die → Die) : (s.updDie cd f).led = s.led := rfl
@[simp] theorem State.updDie_boot (s : State) (cd : Cd) (f : Die → Die) : (s.updDie cd f).boot = s.boot := rfl
@[simp] theorem State.updDie_haf (s : State) (cd : Cd) (f : Die → Die) : (s.updDie cd f).haf = s.haf := rfl
@[simp] theorem State.updDie_logQ (s : State) (cd : Cd) (f : Die → Die) : (s.updDie cd f).logQ = s.logQ := rfl
@[simp] theorem State.updDie_time (s : State) (cd : Cd) (f : Die → Die) : (s.updDie cd f).time = s.time := rfl
@[simp] theorem State.updDie_latch (s : State) (cd : Cd) (f : Die → Die) : (s.updDie cd f).latch = s.latch := rfl
@[simp] theorem State.updDie_out (s : State) (cd : Cd) (f : Die → Die) : (s.updDie cd f).out = s.out := rfl
@[simp] theorem State.updDie_freeCtr (s : State) (cd : Cd) (f : Die → Die) : (s.updDie cd f).freeCtr = s.freeCtr := rfl

/-! ### State.emit -/

@[simp] theorem State.emit_pending (s : State) (e : Emit) : (s.emit e).pending = s.pending := rfl
@[simp] theorem State.emit_regs (s : State) (e : Emit) : (s.emit e).regs = s.regs := rfl
@[simp] theorem State.emit_mem (s : State) (e : Emit) : (s.emit e).mem = s.mem := rfl
@[simp] theorem State.emit_poison (s : State) (e : Emit) : (s.emit e).poison = s.poison := rfl
@[simp] theorem State.emit_memc (s : State) (e : Emit) : (s.emit e).memc = s.memc := rfl
@[simp] theorem State.emit_homeQ (s : State) (e : Emit) : (s.emit e).homeQ = s.homeQ := rfl
@[simp] theorem State.emit_replies (s : State) (e : Emit) : (s.emit e).replies = s.replies := rfl
@[simp] theorem State.emit_dies (s : State) (e : Emit) : (s.emit e).dies = s.dies := rfl
@[simp] theorem State.emit_host (s : State) (e : Emit) : (s.emit e).host = s.host := rfl
@[simp] theorem State.emit_fab (s : State) (e : Emit) : (s.emit e).fab = s.fab := rfl
@[simp] theorem State.emit_coll (s : State) (e : Emit) : (s.emit e).coll = s.coll := rfl
@[simp] theorem State.emit_grist (s : State) (e : Emit) : (s.emit e).grist = s.grist := rfl
@[simp] theorem State.emit_dep (s : State) (e : Emit) : (s.emit e).dep = s.dep := rfl
@[simp] theorem State.emit_led (s : State) (e : Emit) : (s.emit e).led = s.led := rfl
@[simp] theorem State.emit_boot (s : State) (e : Emit) : (s.emit e).boot = s.boot := rfl
@[simp] theorem State.emit_haf (s : State) (e : Emit) : (s.emit e).haf = s.haf := rfl
@[simp] theorem State.emit_logQ (s : State) (e : Emit) : (s.emit e).logQ = s.logQ := rfl
@[simp] theorem State.emit_time (s : State) (e : Emit) : (s.emit e).time = s.time := rfl
@[simp] theorem State.emit_latch (s : State) (e : Emit) : (s.emit e).latch = s.latch := rfl
@[simp] theorem State.emit_freeCtr (s : State) (e : Emit) : (s.emit e).freeCtr = s.freeCtr := rfl

/-! ### State.updBoot -/

@[simp] theorem State.updBoot_pending (s : State) (f : BootSt → BootSt) : (s.updBoot f).pending = s.pending := rfl
@[simp] theorem State.updBoot_regs (s : State) (f : BootSt → BootSt) : (s.updBoot f).regs = s.regs := rfl
@[simp] theorem State.updBoot_mem (s : State) (f : BootSt → BootSt) : (s.updBoot f).mem = s.mem := rfl
@[simp] theorem State.updBoot_poison (s : State) (f : BootSt → BootSt) : (s.updBoot f).poison = s.poison := rfl
@[simp] theorem State.updBoot_memc (s : State) (f : BootSt → BootSt) : (s.updBoot f).memc = s.memc := rfl
@[simp] theorem State.updBoot_homeQ (s : State) (f : BootSt → BootSt) : (s.updBoot f).homeQ = s.homeQ := rfl
@[simp] theorem State.updBoot_replies (s : State) (f : BootSt → BootSt) : (s.updBoot f).replies = s.replies := rfl
@[simp] theorem State.updBoot_dies (s : State) (f : BootSt → BootSt) : (s.updBoot f).dies = s.dies := rfl
@[simp] theorem State.updBoot_host (s : State) (f : BootSt → BootSt) : (s.updBoot f).host = s.host := rfl
@[simp] theorem State.updBoot_fab (s : State) (f : BootSt → BootSt) : (s.updBoot f).fab = s.fab := rfl
@[simp] theorem State.updBoot_coll (s : State) (f : BootSt → BootSt) : (s.updBoot f).coll = s.coll := rfl
@[simp] theorem State.updBoot_grist (s : State) (f : BootSt → BootSt) : (s.updBoot f).grist = s.grist := rfl
@[simp] theorem State.updBoot_dep (s : State) (f : BootSt → BootSt) : (s.updBoot f).dep = s.dep := rfl
@[simp] theorem State.updBoot_led (s : State) (f : BootSt → BootSt) : (s.updBoot f).led = s.led := rfl
@[simp] theorem State.updBoot_haf (s : State) (f : BootSt → BootSt) : (s.updBoot f).haf = s.haf := rfl
@[simp] theorem State.updBoot_logQ (s : State) (f : BootSt → BootSt) : (s.updBoot f).logQ = s.logQ := rfl
@[simp] theorem State.updBoot_time (s : State) (f : BootSt → BootSt) : (s.updBoot f).time = s.time := rfl
@[simp] theorem State.updBoot_latch (s : State) (f : BootSt → BootSt) : (s.updBoot f).latch = s.latch := rfl
@[simp] theorem State.updBoot_out (s : State) (f : BootSt → BootSt) : (s.updBoot f).out = s.out := rfl
@[simp] theorem State.updBoot_freeCtr (s : State) (f : BootSt → BootSt) : (s.updBoot f).freeCtr = s.freeCtr := rfl

/-! ### State.updDep -/

@[simp] theorem State.updDep_pending (s : State) (f : DepSt → DepSt) : (s.updDep f).pending = s.pending := rfl
@[simp] theorem State.updDep_regs (s : State) (f : DepSt → DepSt) : (s.updDep f).regs = s.regs := rfl
@[simp] theorem State.updDep_mem (s : State) (f : DepSt → DepSt) : (s.updDep f).mem = s.mem := rfl
@[simp] theorem State.updDep_poison (s : State) (f : DepSt → DepSt) : (s.updDep f).poison = s.poison := rfl
@[simp] theorem State.updDep_memc (s : State) (f : DepSt → DepSt) : (s.updDep f).memc = s.memc := rfl
@[simp] theorem State.updDep_homeQ (s : State) (f : DepSt → DepSt) : (s.updDep f).homeQ = s.homeQ := rfl
@[simp] theorem State.updDep_replies (s : State) (f : DepSt → DepSt) : (s.updDep f).replies = s.replies := rfl
@[simp] theorem State.updDep_dies (s : State) (f : DepSt → DepSt) : (s.updDep f).dies = s.dies := rfl
@[simp] theorem State.updDep_host (s : State) (f : DepSt → DepSt) : (s.updDep f).host = s.host := rfl
@[simp] theorem State.updDep_fab (s : State) (f : DepSt → DepSt) : (s.updDep f).fab = s.fab := rfl
@[simp] theorem State.updDep_coll (s : State) (f : DepSt → DepSt) : (s.updDep f).coll = s.coll := rfl
@[simp] theorem State.updDep_grist (s : State) (f : DepSt → DepSt) : (s.updDep f).grist = s.grist := rfl
@[simp] theorem State.updDep_led (s : State) (f : DepSt → DepSt) : (s.updDep f).led = s.led := rfl
@[simp] theorem State.updDep_boot (s : State) (f : DepSt → DepSt) : (s.updDep f).boot = s.boot := rfl
@[simp] theorem State.updDep_haf (s : State) (f : DepSt → DepSt) : (s.updDep f).haf = s.haf := rfl
@[simp] theorem State.updDep_logQ (s : State) (f : DepSt → DepSt) : (s.updDep f).logQ = s.logQ := rfl
@[simp] theorem State.updDep_time (s : State) (f : DepSt → DepSt) : (s.updDep f).time = s.time := rfl
@[simp] theorem State.updDep_latch (s : State) (f : DepSt → DepSt) : (s.updDep f).latch = s.latch := rfl
@[simp] theorem State.updDep_out (s : State) (f : DepSt → DepSt) : (s.updDep f).out = s.out := rfl
@[simp] theorem State.updDep_freeCtr (s : State) (f : DepSt → DepSt) : (s.updDep f).freeCtr = s.freeCtr := rfl

/-! ### State.updLed -/

@[simp] theorem State.updLed_pending (s : State) (f : LedSt → LedSt) : (s.updLed f).pending = s.pending := rfl
@[simp] theorem State.updLed_regs (s : State) (f : LedSt → LedSt) : (s.updLed f).regs = s.regs := rfl
@[simp] theorem State.updLed_mem (s : State) (f : LedSt → LedSt) : (s.updLed f).mem = s.mem := rfl
@[simp] theorem State.updLed_poison (s : State) (f : LedSt → LedSt) : (s.updLed f).poison = s.poison := rfl
@[simp] theorem State.updLed_memc (s : State) (f : LedSt → LedSt) : (s.updLed f).memc = s.memc := rfl
@[simp] theorem State.updLed_homeQ (s : State) (f : LedSt → LedSt) : (s.updLed f).homeQ = s.homeQ := rfl
@[simp] theorem State.updLed_replies (s : State) (f : LedSt → LedSt) : (s.updLed f).replies = s.replies := rfl
@[simp] theorem State.updLed_dies (s : State) (f : LedSt → LedSt) : (s.updLed f).dies = s.dies := rfl
@[simp] theorem State.updLed_host (s : State) (f : LedSt → LedSt) : (s.updLed f).host = s.host := rfl
@[simp] theorem State.updLed_fab (s : State) (f : LedSt → LedSt) : (s.updLed f).fab = s.fab := rfl
@[simp] theorem State.updLed_coll (s : State) (f : LedSt → LedSt) : (s.updLed f).coll = s.coll := rfl
@[simp] theorem State.updLed_grist (s : State) (f : LedSt → LedSt) : (s.updLed f).grist = s.grist := rfl
@[simp] theorem State.updLed_dep (s : State) (f : LedSt → LedSt) : (s.updLed f).dep = s.dep := rfl
@[simp] theorem State.updLed_boot (s : State) (f : LedSt → LedSt) : (s.updLed f).boot = s.boot := rfl
@[simp] theorem State.updLed_haf (s : State) (f : LedSt → LedSt) : (s.updLed f).haf = s.haf := rfl
@[simp] theorem State.updLed_logQ (s : State) (f : LedSt → LedSt) : (s.updLed f).logQ = s.logQ := rfl
@[simp] theorem State.updLed_time (s : State) (f : LedSt → LedSt) : (s.updLed f).time = s.time := rfl
@[simp] theorem State.updLed_latch (s : State) (f : LedSt → LedSt) : (s.updLed f).latch = s.latch := rfl
@[simp] theorem State.updLed_out (s : State) (f : LedSt → LedSt) : (s.updLed f).out = s.out := rfl
@[simp] theorem State.updLed_freeCtr (s : State) (f : LedSt → LedSt) : (s.updLed f).freeCtr = s.freeCtr := rfl

/-! ### State.setPort -/

@[simp] theorem State.setPort_pending (s : State) (p : Port) (x : PortSt) : (s.setPort p x).pending = s.pending := rfl
@[simp] theorem State.setPort_regs (s : State) (p : Port) (x : PortSt) : (s.setPort p x).regs = s.regs := rfl
@[simp] theorem State.setPort_mem (s : State) (p : Port) (x : PortSt) : (s.setPort p x).mem = s.mem := rfl
@[simp] theorem State.setPort_poison (s : State) (p : Port) (x : PortSt) : (s.setPort p x).poison = s.poison := rfl
@[simp] theorem State.setPort_memc (s : State) (p : Port) (x : PortSt) : (s.setPort p x).memc = s.memc := rfl
@[simp] theorem State.setPort_homeQ (s : State) (p : Port) (x : PortSt) : (s.setPort p x).homeQ = s.homeQ := rfl
@[simp] theorem State.setPort_replies (s : State) (p : Port) (x : PortSt) : (s.setPort p x).replies = s.replies := rfl
@[simp] theorem State.setPort_dies (s : State) (p : Port) (x : PortSt) : (s.setPort p x).dies = s.dies := rfl
@[simp] theorem State.setPort_host (s : State) (p : Port) (x : PortSt) : (s.setPort p x).host = s.host := rfl
@[simp] theorem State.setPort_coll (s : State) (p : Port) (x : PortSt) : (s.setPort p x).coll = s.coll := rfl
@[simp] theorem State.setPort_grist (s : State) (p : Port) (x : PortSt) : (s.setPort p x).grist = s.grist := rfl
@[simp] theorem State.setPort_dep (s : State) (p : Port) (x : PortSt) : (s.setPort p x).dep = s.dep := rfl
@[simp] theorem State.setPort_led (s : State) (p : Port) (x : PortSt) : (s.setPort p x).led = s.led := rfl
@[simp] theorem State.setPort_boot (s : State) (p : Port) (x : PortSt) : (s.setPort p x).boot = s.boot := rfl
@[simp] theorem State.setPort_haf (s : State) (p : Port) (x : PortSt) : (s.setPort p x).haf = s.haf := rfl
@[simp] theorem State.setPort_logQ (s : State) (p : Port) (x : PortSt) : (s.setPort p x).logQ = s.logQ := rfl
@[simp] theorem State.setPort_time (s : State) (p : Port) (x : PortSt) : (s.setPort p x).time = s.time := rfl
@[simp] theorem State.setPort_latch (s : State) (p : Port) (x : PortSt) : (s.setPort p x).latch = s.latch := rfl
@[simp] theorem State.setPort_out (s : State) (p : Port) (x : PortSt) : (s.setPort p x).out = s.out := rfl
@[simp] theorem State.setPort_freeCtr (s : State) (p : Port) (x : PortSt) : (s.setPort p x).freeCtr = s.freeCtr := rfl

/-! ### State.setTable -/

@[simp] theorem State.setTable_pending (s : State) (i : Nat) (x : RTable) : (s.setTable i x).pending = s.pending := rfl
@[simp] theorem State.setTable_regs (s : State) (i : Nat) (x : RTable) : (s.setTable i x).regs = s.regs := rfl
@[simp] theorem State.setTable_mem (s : State) (i : Nat) (x : RTable) : (s.setTable i x).mem = s.mem := rfl
@[simp] theorem State.setTable_poison (s : State) (i : Nat) (x : RTable) : (s.setTable i x).poison = s.poison := rfl
@[simp] theorem State.setTable_memc (s : State) (i : Nat) (x : RTable) : (s.setTable i x).memc = s.memc := rfl
@[simp] theorem State.setTable_homeQ (s : State) (i : Nat) (x : RTable) : (s.setTable i x).homeQ = s.homeQ := rfl
@[simp] theorem State.setTable_replies (s : State) (i : Nat) (x : RTable) : (s.setTable i x).replies = s.replies := rfl
@[simp] theorem State.setTable_dies (s : State) (i : Nat) (x : RTable) : (s.setTable i x).dies = s.dies := rfl
@[simp] theorem State.setTable_host (s : State) (i : Nat) (x : RTable) : (s.setTable i x).host = s.host := rfl
@[simp] theorem State.setTable_coll (s : State) (i : Nat) (x : RTable) : (s.setTable i x).coll = s.coll := rfl
@[simp] theorem State.setTable_grist (s : State) (i : Nat) (x : RTable) : (s.setTable i x).grist = s.grist := rfl
@[simp] theorem State.setTable_dep (s : State) (i : Nat) (x : RTable) : (s.setTable i x).dep = s.dep := rfl
@[simp] theorem State.setTable_led (s : State) (i : Nat) (x : RTable) : (s.setTable i x).led = s.led := rfl
@[simp] theorem State.setTable_boot (s : State) (i : Nat) (x : RTable) : (s.setTable i x).boot = s.boot := rfl
@[simp] theorem State.setTable_haf (s : State) (i : Nat) (x : RTable) : (s.setTable i x).haf = s.haf := rfl
@[simp] theorem State.setTable_logQ (s : State) (i : Nat) (x : RTable) : (s.setTable i x).logQ = s.logQ := rfl
@[simp] theorem State.setTable_time (s : State) (i : Nat) (x : RTable) : (s.setTable i x).time = s.time := rfl
@[simp] theorem State.setTable_latch (s : State) (i : Nat) (x : RTable) : (s.setTable i x).latch = s.latch := rfl
@[simp] theorem State.setTable_out (s : State) (i : Nat) (x : RTable) : (s.setTable i x).out = s.out := rfl
@[simp] theorem State.setTable_freeCtr (s : State) (i : Nat) (x : RTable) : (s.setTable i x).freeCtr = s.freeCtr := rfl

/-! ### State.setRing -/

@[simp] theorem State.setRing_pending (s : State) (r : Nat) (x : Ring) : (s.setRing r x).pending = s.pending := rfl
@[simp] theorem State.setRing_regs (s : State) (r : Nat) (x : Ring) : (s.setRing r x).regs = s.regs := rfl
@[simp] theorem State.setRing_mem (s : State) (r : Nat) (x : Ring) : (s.setRing r x).mem = s.mem := rfl
@[simp] theorem State.setRing_poison (s : State) (r : Nat) (x : Ring) : (s.setRing r x).poison = s.poison := rfl
@[simp] theorem State.setRing_memc (s : State) (r : Nat) (x : Ring) : (s.setRing r x).memc = s.memc := rfl
@[simp] theorem State.setRing_homeQ (s : State) (r : Nat) (x : Ring) : (s.setRing r x).homeQ = s.homeQ := rfl
@[simp] theorem State.setRing_replies (s : State) (r : Nat) (x : Ring) : (s.setRing r x).replies = s.replies := rfl
@[simp] theorem State.setRing_dies (s : State) (r : Nat) (x : Ring) : (s.setRing r x).dies = s.dies := rfl
@[simp] theorem State.setRing_fab (s : State) (r : Nat) (x : Ring) : (s.setRing r x).fab = s.fab := rfl
@[simp] theorem State.setRing_coll (s : State) (r : Nat) (x : Ring) : (s.setRing r x).coll = s.coll := rfl
@[simp] theorem State.setRing_grist (s : State) (r : Nat) (x : Ring) : (s.setRing r x).grist = s.grist := rfl
@[simp] theorem State.setRing_dep (s : State) (r : Nat) (x : Ring) : (s.setRing r x).dep = s.dep := rfl
@[simp] theorem State.setRing_led (s : State) (r : Nat) (x : Ring) : (s.setRing r x).led = s.led := rfl
@[simp] theorem State.setRing_boot (s : State) (r : Nat) (x : Ring) : (s.setRing r x).boot = s.boot := rfl
@[simp] theorem State.setRing_haf (s : State) (r : Nat) (x : Ring) : (s.setRing r x).haf = s.haf := rfl
@[simp] theorem State.setRing_logQ (s : State) (r : Nat) (x : Ring) : (s.setRing r x).logQ = s.logQ := rfl
@[simp] theorem State.setRing_time (s : State) (r : Nat) (x : Ring) : (s.setRing r x).time = s.time := rfl
@[simp] theorem State.setRing_latch (s : State) (r : Nat) (x : Ring) : (s.setRing r x).latch = s.latch := rfl
@[simp] theorem State.setRing_out (s : State) (r : Nat) (x : Ring) : (s.setRing r x).out = s.out := rfl
@[simp] theorem State.setRing_freeCtr (s : State) (r : Nat) (x : Ring) : (s.setRing r x).freeCtr = s.freeCtr := rfl

/-! ### State.setRegion -/

@[simp] theorem State.setRegion_pending (s : State) (table : Nat) (mirror : Bool) (k : Nat) (x : Region) : (s.setRegion table mirror k x).pending = s.pending := rfl
@[simp] theorem State.setRegion_regs (s : State) (table : Nat) (mirror : Bool) (k : Nat) (x : Region) : (s.setRegion table mirror k x).regs = s.regs := rfl
@[simp] theorem State.setRegion_mem (s : State) (table : Nat) (mirror : Bool) (k : Nat) (x : Region) : (s.setRegion table mirror k x).mem = s.mem := rfl
@[simp] theorem State.setRegion_poison (s : State) (table : Nat) (mirror : Bool) (k : Nat) (x : Region) : (s.setRegion table mirror k x).poison = s.poison := rfl
@[simp] theorem State.setRegion_memc (s : State) (table : Nat) (mirror : Bool) (k : Nat) (x : Region) : (s.setRegion table mirror k x).memc = s.memc := rfl
@[simp] theorem State.setRegion_homeQ (s : State) (table : Nat) (mirror : Bool) (k : Nat) (x : Region) : (s.setRegion table mirror k x).homeQ = s.homeQ := rfl
@[simp] theorem State.setRegion_replies (s : State) (table : Nat) (mirror : Bool) (k : Nat) (x : Region) : (s.setRegion table mirror k x).replies = s.replies := rfl
@[simp] theorem State.setRegion_dies (s : State) (table : Nat) (mirror : Bool) (k : Nat) (x : Region) : (s.setRegion table mirror k x).dies = s.dies := rfl
@[simp] theorem State.setRegion_host (s : State) (table : Nat) (mirror : Bool) (k : Nat) (x : Region) : (s.setRegion table mirror k x).host = s.host := rfl
@[simp] theorem State.setRegion_fab (s : State) (table : Nat) (mirror : Bool) (k : Nat) (x : Region) : (s.setRegion table mirror k x).fab = s.fab := rfl
@[simp] theorem State.setRegion_coll (s : State) (table : Nat) (mirror : Bool) (k : Nat) (x : Region) : (s.setRegion table mirror k x).coll = s.coll := rfl
@[simp] theorem State.setRegion_dep (s : State) (table : Nat) (mirror : Bool) (k : Nat) (x : Region) : (s.setRegion table mirror k x).dep = s.dep := rfl
@[simp] theorem State.setRegion_led (s : State) (table : Nat) (mirror : Bool) (k : Nat) (x : Region) : (s.setRegion table mirror k x).led = s.led := rfl
@[simp] theorem State.setRegion_boot (s : State) (table : Nat) (mirror : Bool) (k : Nat) (x : Region) : (s.setRegion table mirror k x).boot = s.boot := rfl
@[simp] theorem State.setRegion_haf (s : State) (table : Nat) (mirror : Bool) (k : Nat) (x : Region) : (s.setRegion table mirror k x).haf = s.haf := rfl
@[simp] theorem State.setRegion_logQ (s : State) (table : Nat) (mirror : Bool) (k : Nat) (x : Region) : (s.setRegion table mirror k x).logQ = s.logQ := rfl
@[simp] theorem State.setRegion_time (s : State) (table : Nat) (mirror : Bool) (k : Nat) (x : Region) : (s.setRegion table mirror k x).time = s.time := rfl
@[simp] theorem State.setRegion_latch (s : State) (table : Nat) (mirror : Bool) (k : Nat) (x : Region) : (s.setRegion table mirror k x).latch = s.latch := rfl
@[simp] theorem State.setRegion_out (s : State) (table : Nat) (mirror : Bool) (k : Nat) (x : Region) : (s.setRegion table mirror k x).out = s.out := rfl
@[simp] theorem State.setRegion_freeCtr (s : State) (table : Nat) (mirror : Bool) (k : Nat) (x : Region) : (s.setRegion table mirror k x).freeCtr = s.freeCtr := rfl

/-! ### State.addJob -/

@[simp] theorem State.addJob_pending (s : State) (j : GJob) : (s.addJob j).pending = s.pending := rfl
@[simp] theorem State.addJob_regs (s : State) (j : GJob) : (s.addJob j).regs = s.regs := rfl
@[simp] theorem State.addJob_mem (s : State) (j : GJob) : (s.addJob j).mem = s.mem := rfl
@[simp] theorem State.addJob_poison (s : State) (j : GJob) : (s.addJob j).poison = s.poison := rfl
@[simp] theorem State.addJob_memc (s : State) (j : GJob) : (s.addJob j).memc = s.memc := rfl
@[simp] theorem State.addJob_homeQ (s : State) (j : GJob) : (s.addJob j).homeQ = s.homeQ := rfl
@[simp] theorem State.addJob_replies (s : State) (j : GJob) : (s.addJob j).replies = s.replies := rfl
@[simp] theorem State.addJob_dies (s : State) (j : GJob) : (s.addJob j).dies = s.dies := rfl
@[simp] theorem State.addJob_host (s : State) (j : GJob) : (s.addJob j).host = s.host := rfl
@[simp] theorem State.addJob_fab (s : State) (j : GJob) : (s.addJob j).fab = s.fab := rfl
@[simp] theorem State.addJob_coll (s : State) (j : GJob) : (s.addJob j).coll = s.coll := rfl
@[simp] theorem State.addJob_dep (s : State) (j : GJob) : (s.addJob j).dep = s.dep := rfl
@[simp] theorem State.addJob_led (s : State) (j : GJob) : (s.addJob j).led = s.led := rfl
@[simp] theorem State.addJob_boot (s : State) (j : GJob) : (s.addJob j).boot = s.boot := rfl
@[simp] theorem State.addJob_haf (s : State) (j : GJob) : (s.addJob j).haf = s.haf := rfl
@[simp] theorem State.addJob_logQ (s : State) (j : GJob) : (s.addJob j).logQ = s.logQ := rfl
@[simp] theorem State.addJob_time (s : State) (j : GJob) : (s.addJob j).time = s.time := rfl
@[simp] theorem State.addJob_latch (s : State) (j : GJob) : (s.addJob j).latch = s.latch := rfl
@[simp] theorem State.addJob_out (s : State) (j : GJob) : (s.addJob j).out = s.out := rfl
@[simp] theorem State.addJob_freeCtr (s : State) (j : GJob) : (s.addJob j).freeCtr = s.freeCtr := rfl

/-! ### State.setBundle -/

@[simp] theorem State.setBundle_pending (s : State) (key : Nat) (b : Bundle) : (s.setBundle key b).pending = s.pending := rfl
@[simp] theorem State.setBundle_regs (s : State) (key : Nat) (b : Bundle) : (s.setBundle key b).regs = s.regs := rfl
@[simp] theorem State.setBundle_mem (s : State) (key : Nat) (b : Bundle) : (s.setBundle key b).mem = s.mem := rfl
@[simp] theorem State.setBundle_poison (s : State) (key : Nat) (b : Bundle) : (s.setBundle key b).poison = s.poison := rfl
@[simp] theorem State.setBundle_memc (s : State) (key : Nat) (b : Bundle) : (s.setBundle key b).memc = s.memc := rfl
@[simp] theorem State.setBundle_homeQ (s : State) (key : Nat) (b : Bundle) : (s.setBundle key b).homeQ = s.homeQ := rfl
@[simp] theorem State.setBundle_replies (s : State) (key : Nat) (b : Bundle) : (s.setBundle key b).replies = s.replies := rfl
@[simp] theorem State.setBundle_dies (s : State) (key : Nat) (b : Bundle) : (s.setBundle key b).dies = s.dies := rfl
@[simp] theorem State.setBundle_host (s : State) (key : Nat) (b : Bundle) : (s.setBundle key b).host = s.host := rfl
@[simp] theorem State.setBundle_fab (s : State) (key : Nat) (b : Bundle) : (s.setBundle key b).fab = s.fab := rfl
@[simp] theorem State.setBundle_coll (s : State) (key : Nat) (b : Bundle) : (s.setBundle key b).coll = s.coll := rfl
@[simp] theorem State.setBundle_grist (s : State) (key : Nat) (b : Bundle) : (s.setBundle key b).grist = s.grist := rfl
@[simp] theorem State.setBundle_dep (s : State) (key : Nat) (b : Bundle) : (s.setBundle key b).dep = s.dep := rfl
@[simp] theorem State.setBundle_led (s : State) (key : Nat) (b : Bundle) : (s.setBundle key b).led = s.led := rfl
@[simp] theorem State.setBundle_boot (s : State) (key : Nat) (b : Bundle) : (s.setBundle key b).boot = s.boot := rfl
@[simp] theorem State.setBundle_logQ (s : State) (key : Nat) (b : Bundle) : (s.setBundle key b).logQ = s.logQ := rfl
@[simp] theorem State.setBundle_time (s : State) (key : Nat) (b : Bundle) : (s.setBundle key b).time = s.time := rfl
@[simp] theorem State.setBundle_latch (s : State) (key : Nat) (b : Bundle) : (s.setBundle key b).latch = s.latch := rfl
@[simp] theorem State.setBundle_out (s : State) (key : Nat) (b : Bundle) : (s.setBundle key b).out = s.out := rfl
@[simp] theorem State.setBundle_freeCtr (s : State) (key : Nat) (b : Bundle) : (s.setBundle key b).freeCtr = s.freeCtr := rfl

/-! ### State.setHafDie -/

@[simp] theorem State.setHafDie_pending (s : State) (die : Nat) (d : HafDie) : (s.setHafDie die d).pending = s.pending := rfl
@[simp] theorem State.setHafDie_regs (s : State) (die : Nat) (d : HafDie) : (s.setHafDie die d).regs = s.regs := rfl
@[simp] theorem State.setHafDie_mem (s : State) (die : Nat) (d : HafDie) : (s.setHafDie die d).mem = s.mem := rfl
@[simp] theorem State.setHafDie_poison (s : State) (die : Nat) (d : HafDie) : (s.setHafDie die d).poison = s.poison := rfl
@[simp] theorem State.setHafDie_memc (s : State) (die : Nat) (d : HafDie) : (s.setHafDie die d).memc = s.memc := rfl
@[simp] theorem State.setHafDie_homeQ (s : State) (die : Nat) (d : HafDie) : (s.setHafDie die d).homeQ = s.homeQ := rfl
@[simp] theorem State.setHafDie_replies (s : State) (die : Nat) (d : HafDie) : (s.setHafDie die d).replies = s.replies := rfl
@[simp] theorem State.setHafDie_dies (s : State) (die : Nat) (d : HafDie) : (s.setHafDie die d).dies = s.dies := rfl
@[simp] theorem State.setHafDie_host (s : State) (die : Nat) (d : HafDie) : (s.setHafDie die d).host = s.host := rfl
@[simp] theorem State.setHafDie_fab (s : State) (die : Nat) (d : HafDie) : (s.setHafDie die d).fab = s.fab := rfl
@[simp] theorem State.setHafDie_coll (s : State) (die : Nat) (d : HafDie) : (s.setHafDie die d).coll = s.coll := rfl
@[simp] theorem State.setHafDie_grist (s : State) (die : Nat) (d : HafDie) : (s.setHafDie die d).grist = s.grist := rfl
@[simp] theorem State.setHafDie_dep (s : State) (die : Nat) (d : HafDie) : (s.setHafDie die d).dep = s.dep := rfl
@[simp] theorem State.setHafDie_led (s : State) (die : Nat) (d : HafDie) : (s.setHafDie die d).led = s.led := rfl
@[simp] theorem State.setHafDie_boot (s : State) (die : Nat) (d : HafDie) : (s.setHafDie die d).boot = s.boot := rfl
@[simp] theorem State.setHafDie_logQ (s : State) (die : Nat) (d : HafDie) : (s.setHafDie die d).logQ = s.logQ := rfl
@[simp] theorem State.setHafDie_time (s : State) (die : Nat) (d : HafDie) : (s.setHafDie die d).time = s.time := rfl
@[simp] theorem State.setHafDie_latch (s : State) (die : Nat) (d : HafDie) : (s.setHafDie die d).latch = s.latch := rfl
@[simp] theorem State.setHafDie_out (s : State) (die : Nat) (d : HafDie) : (s.setHafDie die d).out = s.out := rfl
@[simp] theorem State.setHafDie_freeCtr (s : State) (die : Nat) (d : HafDie) : (s.setHafDie die d).freeCtr = s.freeCtr := rfl

/-! ### Die.setS -/

@[simp] theorem Die.setS_mode (d : Die) (i : Nat) (v : Word) : (d.setS i v).mode = d.mode := rfl
@[simp] theorem Die.setS_fault (d : Die) (i : Nat) (v : Word) : (d.setS i v).fault = d.fault := rfl
@[simp] theorem Die.setS_faultInfo (d : Die) (i : Nat) (v : Word) : (d.setS i v).faultInfo = d.faultInfo := rfl
@[simp] theorem Die.setS_faultPc (d : Die) (i : Nat) (v : Word) : (d.setS i v).faultPc = d.faultPc := rfl
@[simp] theorem Die.setS_p (d : Die) (i : Nat) (v : Word) : (d.setS i v).p = d.p := rfl
@[simp] theorem Die.setS_a (d : Die) (i : Nat) (v : Word) : (d.setS i v).a = d.a := rfl
@[simp] theorem Die.setS_pc (d : Die) (i : Nat) (v : Word) : (d.setS i v).pc = d.pc := rfl
@[simp] theorem Die.setS_cnt (d : Die) (i : Nat) (v : Word) : (d.setS i v).cnt = d.cnt := rfl
@[simp] theorem Die.setS_stall (d : Die) (i : Nat) (v : Word) : (d.setS i v).stall = d.stall := rfl
@[simp] theorem Die.setS_clk (d : Die) (i : Nat) (v : Word) : (d.setS i v).clk = d.clk := rfl
@[simp] theorem Die.setS_clkUp (d : Die) (i : Nat) (v : Word) : (d.setS i v).clkUp = d.clkUp := rfl
@[simp] theorem Die.setS_icache (d : Die) (i : Nat) (v : Word) : (d.setS i v).icache = d.icache := rfl
@[simp] theorem Die.setS_tunMap (d : Die) (i : Nat) (v : Word) : (d.setS i v).tunMap = d.tunMap := rfl
@[simp] theorem Die.setS_sparMap (d : Die) (i : Nat) (v : Word) : (d.setS i v).sparMap = d.sparMap := rfl
@[simp] theorem Die.setS_tunUp (d : Die) (i : Nat) (v : Word) : (d.setS i v).tunUp = d.tunUp := rfl
@[simp] theorem Die.setS_sparUp (d : Die) (i : Nat) (v : Word) : (d.setS i v).sparUp = d.sparUp := rfl
@[simp] theorem Die.setS_logical (d : Die) (i : Nat) (v : Word) : (d.setS i v).logical = d.logical := rfl
@[simp] theorem Die.setS_loads (d : Die) (i : Nat) (v : Word) : (d.setS i v).loads = d.loads := rfl
@[simp] theorem Die.setS_tuns (d : Die) (i : Nat) (v : Word) : (d.setS i v).tuns = d.tuns := rfl
@[simp] theorem Die.setS_spar (d : Die) (i : Nat) (v : Word) : (d.setS i v).spar = d.spar := rfl
@[simp] theorem Die.setS_slots (d : Die) (i : Nat) (v : Word) : (d.setS i v).slots = d.slots := rfl
@[simp] theorem Die.setS_slotQ (d : Die) (i : Nat) (v : Word) : (d.setS i v).slotQ = d.slotQ := rfl
@[simp] theorem Die.setS_ops (d : Die) (i : Nat) (v : Word) : (d.setS i v).ops = d.ops := rfl
@[simp] theorem Die.setS_nextId (d : Die) (i : Nat) (v : Word) : (d.setS i v).nextId = d.nextId := rfl
@[simp] theorem Die.setS_sb (d : Die) (i : Nat) (v : Word) : (d.setS i v).sb = d.sb := rfl
@[simp] theorem Die.setS_dropped (d : Die) (i : Nat) (v : Word) : (d.setS i v).dropped = d.dropped := rfl
@[simp] theorem Die.setS_startCmd (d : Die) (i : Nat) (v : Word) : (d.setS i v).startCmd = d.startCmd := rfl
@[simp] theorem Die.setS_stopCmds (d : Die) (i : Nat) (v : Word) : (d.setS i v).stopCmds = d.stopCmds := rfl
@[simp] theorem Die.setS_semBack (d : Die) (i : Nat) (v : Word) : (d.setS i v).semBack = d.semBack := rfl
@[simp] theorem Die.setS_spreadHold (d : Die) (i : Nat) (v : Word) : (d.setS i v).spreadHold = d.spreadHold := rfl
@[simp] theorem Die.setS_admitted (d : Die) (i : Nat) (v : Word) : (d.setS i v).admitted = d.admitted := rfl

/-! ### Die.setA -/

@[simp] theorem Die.setA_mode (d : Die) (i : Nat) (v : Addr) : (d.setA i v).mode = d.mode := rfl
@[simp] theorem Die.setA_fault (d : Die) (i : Nat) (v : Addr) : (d.setA i v).fault = d.fault := rfl
@[simp] theorem Die.setA_faultInfo (d : Die) (i : Nat) (v : Addr) : (d.setA i v).faultInfo = d.faultInfo := rfl
@[simp] theorem Die.setA_faultPc (d : Die) (i : Nat) (v : Addr) : (d.setA i v).faultPc = d.faultPc := rfl
@[simp] theorem Die.setA_s (d : Die) (i : Nat) (v : Addr) : (d.setA i v).s = d.s := rfl
@[simp] theorem Die.setA_p (d : Die) (i : Nat) (v : Addr) : (d.setA i v).p = d.p := rfl
@[simp] theorem Die.setA_pc (d : Die) (i : Nat) (v : Addr) : (d.setA i v).pc = d.pc := rfl
@[simp] theorem Die.setA_cnt (d : Die) (i : Nat) (v : Addr) : (d.setA i v).cnt = d.cnt := rfl
@[simp] theorem Die.setA_stall (d : Die) (i : Nat) (v : Addr) : (d.setA i v).stall = d.stall := rfl
@[simp] theorem Die.setA_clk (d : Die) (i : Nat) (v : Addr) : (d.setA i v).clk = d.clk := rfl
@[simp] theorem Die.setA_clkUp (d : Die) (i : Nat) (v : Addr) : (d.setA i v).clkUp = d.clkUp := rfl
@[simp] theorem Die.setA_icache (d : Die) (i : Nat) (v : Addr) : (d.setA i v).icache = d.icache := rfl
@[simp] theorem Die.setA_tunMap (d : Die) (i : Nat) (v : Addr) : (d.setA i v).tunMap = d.tunMap := rfl
@[simp] theorem Die.setA_sparMap (d : Die) (i : Nat) (v : Addr) : (d.setA i v).sparMap = d.sparMap := rfl
@[simp] theorem Die.setA_tunUp (d : Die) (i : Nat) (v : Addr) : (d.setA i v).tunUp = d.tunUp := rfl
@[simp] theorem Die.setA_sparUp (d : Die) (i : Nat) (v : Addr) : (d.setA i v).sparUp = d.sparUp := rfl
@[simp] theorem Die.setA_logical (d : Die) (i : Nat) (v : Addr) : (d.setA i v).logical = d.logical := rfl
@[simp] theorem Die.setA_loads (d : Die) (i : Nat) (v : Addr) : (d.setA i v).loads = d.loads := rfl
@[simp] theorem Die.setA_tuns (d : Die) (i : Nat) (v : Addr) : (d.setA i v).tuns = d.tuns := rfl
@[simp] theorem Die.setA_spar (d : Die) (i : Nat) (v : Addr) : (d.setA i v).spar = d.spar := rfl
@[simp] theorem Die.setA_slots (d : Die) (i : Nat) (v : Addr) : (d.setA i v).slots = d.slots := rfl
@[simp] theorem Die.setA_slotQ (d : Die) (i : Nat) (v : Addr) : (d.setA i v).slotQ = d.slotQ := rfl
@[simp] theorem Die.setA_ops (d : Die) (i : Nat) (v : Addr) : (d.setA i v).ops = d.ops := rfl
@[simp] theorem Die.setA_nextId (d : Die) (i : Nat) (v : Addr) : (d.setA i v).nextId = d.nextId := rfl
@[simp] theorem Die.setA_sb (d : Die) (i : Nat) (v : Addr) : (d.setA i v).sb = d.sb := rfl
@[simp] theorem Die.setA_dropped (d : Die) (i : Nat) (v : Addr) : (d.setA i v).dropped = d.dropped := rfl
@[simp] theorem Die.setA_startCmd (d : Die) (i : Nat) (v : Addr) : (d.setA i v).startCmd = d.startCmd := rfl
@[simp] theorem Die.setA_stopCmds (d : Die) (i : Nat) (v : Addr) : (d.setA i v).stopCmds = d.stopCmds := rfl
@[simp] theorem Die.setA_semBack (d : Die) (i : Nat) (v : Addr) : (d.setA i v).semBack = d.semBack := rfl
@[simp] theorem Die.setA_spreadHold (d : Die) (i : Nat) (v : Addr) : (d.setA i v).spreadHold = d.spreadHold := rfl
@[simp] theorem Die.setA_admitted (d : Die) (i : Nat) (v : Addr) : (d.setA i v).admitted = d.admitted := rfl

/-! ### Die.setC -/

@[simp] theorem Die.setC_mode (d : Die) (i : Nat) (v : Counter) : (d.setC i v).mode = d.mode := rfl
@[simp] theorem Die.setC_fault (d : Die) (i : Nat) (v : Counter) : (d.setC i v).fault = d.fault := rfl
@[simp] theorem Die.setC_faultInfo (d : Die) (i : Nat) (v : Counter) : (d.setC i v).faultInfo = d.faultInfo := rfl
@[simp] theorem Die.setC_faultPc (d : Die) (i : Nat) (v : Counter) : (d.setC i v).faultPc = d.faultPc := rfl
@[simp] theorem Die.setC_s (d : Die) (i : Nat) (v : Counter) : (d.setC i v).s = d.s := rfl
@[simp] theorem Die.setC_p (d : Die) (i : Nat) (v : Counter) : (d.setC i v).p = d.p := rfl
@[simp] theorem Die.setC_a (d : Die) (i : Nat) (v : Counter) : (d.setC i v).a = d.a := rfl
@[simp] theorem Die.setC_pc (d : Die) (i : Nat) (v : Counter) : (d.setC i v).pc = d.pc := rfl
@[simp] theorem Die.setC_stall (d : Die) (i : Nat) (v : Counter) : (d.setC i v).stall = d.stall := rfl
@[simp] theorem Die.setC_clk (d : Die) (i : Nat) (v : Counter) : (d.setC i v).clk = d.clk := rfl
@[simp] theorem Die.setC_clkUp (d : Die) (i : Nat) (v : Counter) : (d.setC i v).clkUp = d.clkUp := rfl
@[simp] theorem Die.setC_icache (d : Die) (i : Nat) (v : Counter) : (d.setC i v).icache = d.icache := rfl
@[simp] theorem Die.setC_tunMap (d : Die) (i : Nat) (v : Counter) : (d.setC i v).tunMap = d.tunMap := rfl
@[simp] theorem Die.setC_sparMap (d : Die) (i : Nat) (v : Counter) : (d.setC i v).sparMap = d.sparMap := rfl
@[simp] theorem Die.setC_tunUp (d : Die) (i : Nat) (v : Counter) : (d.setC i v).tunUp = d.tunUp := rfl
@[simp] theorem Die.setC_sparUp (d : Die) (i : Nat) (v : Counter) : (d.setC i v).sparUp = d.sparUp := rfl
@[simp] theorem Die.setC_logical (d : Die) (i : Nat) (v : Counter) : (d.setC i v).logical = d.logical := rfl
@[simp] theorem Die.setC_loads (d : Die) (i : Nat) (v : Counter) : (d.setC i v).loads = d.loads := rfl
@[simp] theorem Die.setC_tuns (d : Die) (i : Nat) (v : Counter) : (d.setC i v).tuns = d.tuns := rfl
@[simp] theorem Die.setC_spar (d : Die) (i : Nat) (v : Counter) : (d.setC i v).spar = d.spar := rfl
@[simp] theorem Die.setC_slots (d : Die) (i : Nat) (v : Counter) : (d.setC i v).slots = d.slots := rfl
@[simp] theorem Die.setC_slotQ (d : Die) (i : Nat) (v : Counter) : (d.setC i v).slotQ = d.slotQ := rfl
@[simp] theorem Die.setC_ops (d : Die) (i : Nat) (v : Counter) : (d.setC i v).ops = d.ops := rfl
@[simp] theorem Die.setC_nextId (d : Die) (i : Nat) (v : Counter) : (d.setC i v).nextId = d.nextId := rfl
@[simp] theorem Die.setC_sb (d : Die) (i : Nat) (v : Counter) : (d.setC i v).sb = d.sb := rfl
@[simp] theorem Die.setC_dropped (d : Die) (i : Nat) (v : Counter) : (d.setC i v).dropped = d.dropped := rfl
@[simp] theorem Die.setC_startCmd (d : Die) (i : Nat) (v : Counter) : (d.setC i v).startCmd = d.startCmd := rfl
@[simp] theorem Die.setC_stopCmds (d : Die) (i : Nat) (v : Counter) : (d.setC i v).stopCmds = d.stopCmds := rfl
@[simp] theorem Die.setC_semBack (d : Die) (i : Nat) (v : Counter) : (d.setC i v).semBack = d.semBack := rfl
@[simp] theorem Die.setC_spreadHold (d : Die) (i : Nat) (v : Counter) : (d.setC i v).spreadHold = d.spreadHold := rfl
@[simp] theorem Die.setC_admitted (d : Die) (i : Nat) (v : Counter) : (d.setC i v).admitted = d.admitted := rfl

/-! ### Die.advance -/

@[simp] theorem Die.advance_mode (d : Die) : (d.advance).mode = d.mode := rfl
@[simp] theorem Die.advance_fault (d : Die) : (d.advance).fault = d.fault := rfl
@[simp] theorem Die.advance_faultInfo (d : Die) : (d.advance).faultInfo = d.faultInfo := rfl
@[simp] theorem Die.advance_faultPc (d : Die) : (d.advance).faultPc = d.faultPc := rfl
@[simp] theorem Die.advance_s (d : Die) : (d.advance).s = d.s := rfl
@[simp] theorem Die.advance_p (d : Die) : (d.advance).p = d.p := rfl
@[simp] theorem Die.advance_a (d : Die) : (d.advance).a = d.a := rfl
@[simp] theorem Die.advance_cnt (d : Die) : (d.advance).cnt = d.cnt := rfl
@[simp] theorem Die.advance_stall (d : Die) : (d.advance).stall = d.stall := rfl
@[simp] theorem Die.advance_clk (d : Die) : (d.advance).clk = d.clk := rfl
@[simp] theorem Die.advance_clkUp (d : Die) : (d.advance).clkUp = d.clkUp := rfl
@[simp] theorem Die.advance_icache (d : Die) : (d.advance).icache = d.icache := rfl
@[simp] theorem Die.advance_tunMap (d : Die) : (d.advance).tunMap = d.tunMap := rfl
@[simp] theorem Die.advance_sparMap (d : Die) : (d.advance).sparMap = d.sparMap := rfl
@[simp] theorem Die.advance_tunUp (d : Die) : (d.advance).tunUp = d.tunUp := rfl
@[simp] theorem Die.advance_sparUp (d : Die) : (d.advance).sparUp = d.sparUp := rfl
@[simp] theorem Die.advance_logical (d : Die) : (d.advance).logical = d.logical := rfl
@[simp] theorem Die.advance_loads (d : Die) : (d.advance).loads = d.loads := rfl
@[simp] theorem Die.advance_tuns (d : Die) : (d.advance).tuns = d.tuns := rfl
@[simp] theorem Die.advance_spar (d : Die) : (d.advance).spar = d.spar := rfl
@[simp] theorem Die.advance_slots (d : Die) : (d.advance).slots = d.slots := rfl
@[simp] theorem Die.advance_slotQ (d : Die) : (d.advance).slotQ = d.slotQ := rfl
@[simp] theorem Die.advance_ops (d : Die) : (d.advance).ops = d.ops := rfl
@[simp] theorem Die.advance_nextId (d : Die) : (d.advance).nextId = d.nextId := rfl
@[simp] theorem Die.advance_sb (d : Die) : (d.advance).sb = d.sb := rfl
@[simp] theorem Die.advance_dropped (d : Die) : (d.advance).dropped = d.dropped := rfl
@[simp] theorem Die.advance_startCmd (d : Die) : (d.advance).startCmd = d.startCmd := rfl
@[simp] theorem Die.advance_stopCmds (d : Die) : (d.advance).stopCmds = d.stopCmds := rfl
@[simp] theorem Die.advance_semBack (d : Die) : (d.advance).semBack = d.semBack := rfl
@[simp] theorem Die.advance_spreadHold (d : Die) : (d.advance).spreadHold = d.spreadHold := rfl
@[simp] theorem Die.advance_admitted (d : Die) : (d.advance).admitted = d.admitted := rfl

/-! ### Die.putOp -/

@[simp] theorem Die.putOp_mode (d : Die) (o : Op) : (d.putOp o).mode = d.mode := rfl
@[simp] theorem Die.putOp_fault (d : Die) (o : Op) : (d.putOp o).fault = d.fault := rfl
@[simp] theorem Die.putOp_faultInfo (d : Die) (o : Op) : (d.putOp o).faultInfo = d.faultInfo := rfl
@[simp] theorem Die.putOp_faultPc (d : Die) (o : Op) : (d.putOp o).faultPc = d.faultPc := rfl
@[simp] theorem Die.putOp_s (d : Die) (o : Op) : (d.putOp o).s = d.s := rfl
@[simp] theorem Die.putOp_p (d : Die) (o : Op) : (d.putOp o).p = d.p := rfl
@[simp] theorem Die.putOp_a (d : Die) (o : Op) : (d.putOp o).a = d.a := rfl
@[simp] theorem Die.putOp_pc (d : Die) (o : Op) : (d.putOp o).pc = d.pc := rfl
@[simp] theorem Die.putOp_cnt (d : Die) (o : Op) : (d.putOp o).cnt = d.cnt := rfl
@[simp] theorem Die.putOp_stall (d : Die) (o : Op) : (d.putOp o).stall = d.stall := rfl
@[simp] theorem Die.putOp_clk (d : Die) (o : Op) : (d.putOp o).clk = d.clk := rfl
@[simp] theorem Die.putOp_clkUp (d : Die) (o : Op) : (d.putOp o).clkUp = d.clkUp := rfl
@[simp] theorem Die.putOp_icache (d : Die) (o : Op) : (d.putOp o).icache = d.icache := rfl
@[simp] theorem Die.putOp_tunMap (d : Die) (o : Op) : (d.putOp o).tunMap = d.tunMap := rfl
@[simp] theorem Die.putOp_sparMap (d : Die) (o : Op) : (d.putOp o).sparMap = d.sparMap := rfl
@[simp] theorem Die.putOp_tunUp (d : Die) (o : Op) : (d.putOp o).tunUp = d.tunUp := rfl
@[simp] theorem Die.putOp_sparUp (d : Die) (o : Op) : (d.putOp o).sparUp = d.sparUp := rfl
@[simp] theorem Die.putOp_logical (d : Die) (o : Op) : (d.putOp o).logical = d.logical := rfl
@[simp] theorem Die.putOp_loads (d : Die) (o : Op) : (d.putOp o).loads = d.loads := rfl
@[simp] theorem Die.putOp_tuns (d : Die) (o : Op) : (d.putOp o).tuns = d.tuns := rfl
@[simp] theorem Die.putOp_spar (d : Die) (o : Op) : (d.putOp o).spar = d.spar := rfl
@[simp] theorem Die.putOp_slots (d : Die) (o : Op) : (d.putOp o).slots = d.slots := rfl
@[simp] theorem Die.putOp_slotQ (d : Die) (o : Op) : (d.putOp o).slotQ = d.slotQ := rfl
@[simp] theorem Die.putOp_nextId (d : Die) (o : Op) : (d.putOp o).nextId = d.nextId := rfl
@[simp] theorem Die.putOp_sb (d : Die) (o : Op) : (d.putOp o).sb = d.sb := rfl
@[simp] theorem Die.putOp_dropped (d : Die) (o : Op) : (d.putOp o).dropped = d.dropped := rfl
@[simp] theorem Die.putOp_startCmd (d : Die) (o : Op) : (d.putOp o).startCmd = d.startCmd := rfl
@[simp] theorem Die.putOp_stopCmds (d : Die) (o : Op) : (d.putOp o).stopCmds = d.stopCmds := rfl
@[simp] theorem Die.putOp_semBack (d : Die) (o : Op) : (d.putOp o).semBack = d.semBack := rfl
@[simp] theorem Die.putOp_spreadHold (d : Die) (o : Op) : (d.putOp o).spreadHold = d.spreadHold := rfl
@[simp] theorem Die.putOp_admitted (d : Die) (o : Op) : (d.putOp o).admitted = d.admitted := rfl

/-! ### Die.push -/

@[simp] theorem Die.push_mode (d : Die) (o : Op) : (d.push o).mode = d.mode := rfl
@[simp] theorem Die.push_fault (d : Die) (o : Op) : (d.push o).fault = d.fault := rfl
@[simp] theorem Die.push_faultInfo (d : Die) (o : Op) : (d.push o).faultInfo = d.faultInfo := rfl
@[simp] theorem Die.push_faultPc (d : Die) (o : Op) : (d.push o).faultPc = d.faultPc := rfl
@[simp] theorem Die.push_s (d : Die) (o : Op) : (d.push o).s = d.s := rfl
@[simp] theorem Die.push_p (d : Die) (o : Op) : (d.push o).p = d.p := rfl
@[simp] theorem Die.push_a (d : Die) (o : Op) : (d.push o).a = d.a := rfl
@[simp] theorem Die.push_pc (d : Die) (o : Op) : (d.push o).pc = d.pc := rfl
@[simp] theorem Die.push_cnt (d : Die) (o : Op) : (d.push o).cnt = d.cnt := rfl
@[simp] theorem Die.push_stall (d : Die) (o : Op) : (d.push o).stall = d.stall := rfl
@[simp] theorem Die.push_clk (d : Die) (o : Op) : (d.push o).clk = d.clk := rfl
@[simp] theorem Die.push_clkUp (d : Die) (o : Op) : (d.push o).clkUp = d.clkUp := rfl
@[simp] theorem Die.push_icache (d : Die) (o : Op) : (d.push o).icache = d.icache := rfl
@[simp] theorem Die.push_tunMap (d : Die) (o : Op) : (d.push o).tunMap = d.tunMap := rfl
@[simp] theorem Die.push_sparMap (d : Die) (o : Op) : (d.push o).sparMap = d.sparMap := rfl
@[simp] theorem Die.push_tunUp (d : Die) (o : Op) : (d.push o).tunUp = d.tunUp := rfl
@[simp] theorem Die.push_sparUp (d : Die) (o : Op) : (d.push o).sparUp = d.sparUp := rfl
@[simp] theorem Die.push_logical (d : Die) (o : Op) : (d.push o).logical = d.logical := rfl
@[simp] theorem Die.push_loads (d : Die) (o : Op) : (d.push o).loads = d.loads := rfl
@[simp] theorem Die.push_tuns (d : Die) (o : Op) : (d.push o).tuns = d.tuns := rfl
@[simp] theorem Die.push_spar (d : Die) (o : Op) : (d.push o).spar = d.spar := rfl
@[simp] theorem Die.push_slots (d : Die) (o : Op) : (d.push o).slots = d.slots := rfl
@[simp] theorem Die.push_slotQ (d : Die) (o : Op) : (d.push o).slotQ = d.slotQ := rfl
@[simp] theorem Die.push_sb (d : Die) (o : Op) : (d.push o).sb = d.sb := rfl
@[simp] theorem Die.push_dropped (d : Die) (o : Op) : (d.push o).dropped = d.dropped := rfl
@[simp] theorem Die.push_startCmd (d : Die) (o : Op) : (d.push o).startCmd = d.startCmd := rfl
@[simp] theorem Die.push_stopCmds (d : Die) (o : Op) : (d.push o).stopCmds = d.stopCmds := rfl
@[simp] theorem Die.push_semBack (d : Die) (o : Op) : (d.push o).semBack = d.semBack := rfl
@[simp] theorem Die.push_spreadHold (d : Die) (o : Op) : (d.push o).spreadHold = d.spreadHold := rfl
@[simp] theorem Die.push_admitted (d : Die) (o : Op) : (d.push o).admitted = d.admitted := rfl

/-! ### Die.setTun -/

@[simp] theorem Die.setTun_mode (d : Die) (j : Fin 12) (t : Tun) : (d.setTun j t).mode = d.mode := rfl
@[simp] theorem Die.setTun_fault (d : Die) (j : Fin 12) (t : Tun) : (d.setTun j t).fault = d.fault := rfl
@[simp] theorem Die.setTun_faultInfo (d : Die) (j : Fin 12) (t : Tun) : (d.setTun j t).faultInfo = d.faultInfo := rfl
@[simp] theorem Die.setTun_faultPc (d : Die) (j : Fin 12) (t : Tun) : (d.setTun j t).faultPc = d.faultPc := rfl
@[simp] theorem Die.setTun_s (d : Die) (j : Fin 12) (t : Tun) : (d.setTun j t).s = d.s := rfl
@[simp] theorem Die.setTun_p (d : Die) (j : Fin 12) (t : Tun) : (d.setTun j t).p = d.p := rfl
@[simp] theorem Die.setTun_a (d : Die) (j : Fin 12) (t : Tun) : (d.setTun j t).a = d.a := rfl
@[simp] theorem Die.setTun_pc (d : Die) (j : Fin 12) (t : Tun) : (d.setTun j t).pc = d.pc := rfl
@[simp] theorem Die.setTun_cnt (d : Die) (j : Fin 12) (t : Tun) : (d.setTun j t).cnt = d.cnt := rfl
@[simp] theorem Die.setTun_stall (d : Die) (j : Fin 12) (t : Tun) : (d.setTun j t).stall = d.stall := rfl
@[simp] theorem Die.setTun_clk (d : Die) (j : Fin 12) (t : Tun) : (d.setTun j t).clk = d.clk := rfl
@[simp] theorem Die.setTun_clkUp (d : Die) (j : Fin 12) (t : Tun) : (d.setTun j t).clkUp = d.clkUp := rfl
@[simp] theorem Die.setTun_icache (d : Die) (j : Fin 12) (t : Tun) : (d.setTun j t).icache = d.icache := rfl
@[simp] theorem Die.setTun_tunMap (d : Die) (j : Fin 12) (t : Tun) : (d.setTun j t).tunMap = d.tunMap := rfl
@[simp] theorem Die.setTun_sparMap (d : Die) (j : Fin 12) (t : Tun) : (d.setTun j t).sparMap = d.sparMap := rfl
@[simp] theorem Die.setTun_tunUp (d : Die) (j : Fin 12) (t : Tun) : (d.setTun j t).tunUp = d.tunUp := rfl
@[simp] theorem Die.setTun_sparUp (d : Die) (j : Fin 12) (t : Tun) : (d.setTun j t).sparUp = d.sparUp := rfl
@[simp] theorem Die.setTun_logical (d : Die) (j : Fin 12) (t : Tun) : (d.setTun j t).logical = d.logical := rfl
@[simp] theorem Die.setTun_loads (d : Die) (j : Fin 12) (t : Tun) : (d.setTun j t).loads = d.loads := rfl
@[simp] theorem Die.setTun_spar (d : Die) (j : Fin 12) (t : Tun) : (d.setTun j t).spar = d.spar := rfl
@[simp] theorem Die.setTun_slots (d : Die) (j : Fin 12) (t : Tun) : (d.setTun j t).slots = d.slots := rfl
@[simp] theorem Die.setTun_slotQ (d : Die) (j : Fin 12) (t : Tun) : (d.setTun j t).slotQ = d.slotQ := rfl
@[simp] theorem Die.setTun_ops (d : Die) (j : Fin 12) (t : Tun) : (d.setTun j t).ops = d.ops := rfl
@[simp] theorem Die.setTun_nextId (d : Die) (j : Fin 12) (t : Tun) : (d.setTun j t).nextId = d.nextId := rfl
@[simp] theorem Die.setTun_sb (d : Die) (j : Fin 12) (t : Tun) : (d.setTun j t).sb = d.sb := rfl
@[simp] theorem Die.setTun_dropped (d : Die) (j : Fin 12) (t : Tun) : (d.setTun j t).dropped = d.dropped := rfl
@[simp] theorem Die.setTun_startCmd (d : Die) (j : Fin 12) (t : Tun) : (d.setTun j t).startCmd = d.startCmd := rfl
@[simp] theorem Die.setTun_stopCmds (d : Die) (j : Fin 12) (t : Tun) : (d.setTun j t).stopCmds = d.stopCmds := rfl
@[simp] theorem Die.setTun_semBack (d : Die) (j : Fin 12) (t : Tun) : (d.setTun j t).semBack = d.semBack := rfl
@[simp] theorem Die.setTun_spreadHold (d : Die) (j : Fin 12) (t : Tun) : (d.setTun j t).spreadHold = d.spreadHold := rfl
@[simp] theorem Die.setTun_admitted (d : Die) (j : Fin 12) (t : Tun) : (d.setTun j t).admitted = d.admitted := rfl

/-! ### Die.setSpu -/

@[simp] theorem Die.setSpu_mode (d : Die) (u : Fin 12) (x : Sparge) : (d.setSpu u x).mode = d.mode := rfl
@[simp] theorem Die.setSpu_fault (d : Die) (u : Fin 12) (x : Sparge) : (d.setSpu u x).fault = d.fault := rfl
@[simp] theorem Die.setSpu_faultInfo (d : Die) (u : Fin 12) (x : Sparge) : (d.setSpu u x).faultInfo = d.faultInfo := rfl
@[simp] theorem Die.setSpu_faultPc (d : Die) (u : Fin 12) (x : Sparge) : (d.setSpu u x).faultPc = d.faultPc := rfl
@[simp] theorem Die.setSpu_s (d : Die) (u : Fin 12) (x : Sparge) : (d.setSpu u x).s = d.s := rfl
@[simp] theorem Die.setSpu_p (d : Die) (u : Fin 12) (x : Sparge) : (d.setSpu u x).p = d.p := rfl
@[simp] theorem Die.setSpu_a (d : Die) (u : Fin 12) (x : Sparge) : (d.setSpu u x).a = d.a := rfl
@[simp] theorem Die.setSpu_pc (d : Die) (u : Fin 12) (x : Sparge) : (d.setSpu u x).pc = d.pc := rfl
@[simp] theorem Die.setSpu_cnt (d : Die) (u : Fin 12) (x : Sparge) : (d.setSpu u x).cnt = d.cnt := rfl
@[simp] theorem Die.setSpu_stall (d : Die) (u : Fin 12) (x : Sparge) : (d.setSpu u x).stall = d.stall := rfl
@[simp] theorem Die.setSpu_clk (d : Die) (u : Fin 12) (x : Sparge) : (d.setSpu u x).clk = d.clk := rfl
@[simp] theorem Die.setSpu_clkUp (d : Die) (u : Fin 12) (x : Sparge) : (d.setSpu u x).clkUp = d.clkUp := rfl
@[simp] theorem Die.setSpu_icache (d : Die) (u : Fin 12) (x : Sparge) : (d.setSpu u x).icache = d.icache := rfl
@[simp] theorem Die.setSpu_tunMap (d : Die) (u : Fin 12) (x : Sparge) : (d.setSpu u x).tunMap = d.tunMap := rfl
@[simp] theorem Die.setSpu_sparMap (d : Die) (u : Fin 12) (x : Sparge) : (d.setSpu u x).sparMap = d.sparMap := rfl
@[simp] theorem Die.setSpu_tunUp (d : Die) (u : Fin 12) (x : Sparge) : (d.setSpu u x).tunUp = d.tunUp := rfl
@[simp] theorem Die.setSpu_sparUp (d : Die) (u : Fin 12) (x : Sparge) : (d.setSpu u x).sparUp = d.sparUp := rfl
@[simp] theorem Die.setSpu_logical (d : Die) (u : Fin 12) (x : Sparge) : (d.setSpu u x).logical = d.logical := rfl
@[simp] theorem Die.setSpu_loads (d : Die) (u : Fin 12) (x : Sparge) : (d.setSpu u x).loads = d.loads := rfl
@[simp] theorem Die.setSpu_tuns (d : Die) (u : Fin 12) (x : Sparge) : (d.setSpu u x).tuns = d.tuns := rfl
@[simp] theorem Die.setSpu_slots (d : Die) (u : Fin 12) (x : Sparge) : (d.setSpu u x).slots = d.slots := rfl
@[simp] theorem Die.setSpu_slotQ (d : Die) (u : Fin 12) (x : Sparge) : (d.setSpu u x).slotQ = d.slotQ := rfl
@[simp] theorem Die.setSpu_ops (d : Die) (u : Fin 12) (x : Sparge) : (d.setSpu u x).ops = d.ops := rfl
@[simp] theorem Die.setSpu_nextId (d : Die) (u : Fin 12) (x : Sparge) : (d.setSpu u x).nextId = d.nextId := rfl
@[simp] theorem Die.setSpu_sb (d : Die) (u : Fin 12) (x : Sparge) : (d.setSpu u x).sb = d.sb := rfl
@[simp] theorem Die.setSpu_dropped (d : Die) (u : Fin 12) (x : Sparge) : (d.setSpu u x).dropped = d.dropped := rfl
@[simp] theorem Die.setSpu_startCmd (d : Die) (u : Fin 12) (x : Sparge) : (d.setSpu u x).startCmd = d.startCmd := rfl
@[simp] theorem Die.setSpu_stopCmds (d : Die) (u : Fin 12) (x : Sparge) : (d.setSpu u x).stopCmds = d.stopCmds := rfl
@[simp] theorem Die.setSpu_semBack (d : Die) (u : Fin 12) (x : Sparge) : (d.setSpu u x).semBack = d.semBack := rfl
@[simp] theorem Die.setSpu_spreadHold (d : Die) (u : Fin 12) (x : Sparge) : (d.setSpu u x).spreadHold = d.spreadHold := rfl
@[simp] theorem Die.setSpu_admitted (d : Die) (u : Fin 12) (x : Sparge) : (d.setSpu u x).admitted = d.admitted := rfl

/-! ### Reads after updates -/

@[simp] theorem State.die_setDie_self (s : State) (cd : Cd) (d : Die) : (s.setDie cd d).die cd = d := by simp [State.die, State.setDie]

theorem State.die_setDie_ne (s : State) {cd c : Cd} (d : Die) (h : c ≠ cd) : (s.setDie cd d).die c = s.die c := by
  simp [State.die, State.setDie, Fin.val_ne_of_ne (Ne.symm h)]

theorem State.setDie_die (s : State) (cd : Cd) : s.setDie cd (s.die cd) = s := by
  cases s; simp [State.setDie, State.die]

theorem State.setDie_setDie (s : State) (cd : Cd) (d e : Die) : (s.setDie cd d).setDie cd e = s.setDie cd e := by
  simp [State.setDie]

@[simp] theorem State.reg_setReg_self (s : State) (o v : Nat) : (s.setReg o v).reg o = v % 2 ^ 32 := by
  simp [State.reg, State.setReg]

theorem State.reg_setReg_ne (s : State) {o q : Nat} (v : Nat) (h : q ≠ o) : (s.setReg o v).reg q = s.reg q := by
  simp [State.reg, State.setReg, tabGet_tabSet_ne _ _ _ h]

theorem State.reg_of_regs {s t : State} (h : t.regs = s.regs) (o : Nat) : t.reg o = s.reg o := by simp [State.reg, h]

theorem State.die_of_dies {s t : State} (h : t.dies = s.dies) (cd : Cd) : t.die cd = s.die cd := by simp [State.die, h]

@[simp] theorem State.bundle_setBundle_self (s : State) (k : Nat) (b : Bundle) : (s.setBundle k b).bundle k = b := by
  simp [State.bundle, State.setBundle]

theorem State.bundle_setBundle_ne (s : State) {k j : Nat} (b : Bundle) (h : j ≠ k) : (s.setBundle k b).bundle j = s.bundle j := by
  simp [State.bundle, State.setBundle, tabGet_tabSet_ne _ _ _ h]

@[simp] theorem State.hafDie_setHafDie_self (s : State) (k : Nat) (d : HafDie) : (s.setHafDie k d).hafDie k = d := by
  simp [State.hafDie, State.setHafDie]

theorem State.hafDie_setHafDie_ne (s : State) {k j : Nat} (d : HafDie) (h : j ≠ k) : (s.setHafDie k d).hafDie j = s.hafDie j := by
  simp [State.hafDie, State.setHafDie, tabGet_tabSet_ne _ _ _ h]

end Sys2Proof.Machine
end

