-- ==== Sys2Proof/Laws/Ops.lean ====
section
/-! SUPPORT. What each shared operation can do: the issue of sequencer instructions, scalar instructions, the log, events,
completions, flows, packets taken, flits sent, and the step. -/

namespace Sys2Proof.Machine

/-! ### Issue -/

/-- The word is its die's next instruction and its guard is on. -/
theorem issueDie_on {s : State} {cd : Cd} {w : IWord} {cls op : Nat} (h : (s.die cd).issues w cls op = true)
    (hg : (s.die cd).guardOn w.toNat = true) (f : Nat → Die → Die) :
    issueDie cd w cls op f s = s.setDie cd (f w.toNat (s.die cd)) := by
  simp [issueDie, h, hg]

theorem issueAll_on {s : State} {cd : Cd} {w : IWord} {cls op : Nat} (h : (s.die cd).issues w cls op = true)
    (hg : (s.die cd).guardOn w.toNat = true) (f : Nat → State → State) : issueAll cd w cls op f s = f w.toNat s := by
  simp [issueAll, h, hg]

theorem scalarOp_on {s : State} {cd : Cd} {w : IWord} {op : Nat} (h : (s.die cd).issues w 0 op = true)
    (hg : (s.die cd).guardOn w.toNat = true) (f : Nat → Die → Die) :
    scalarOp cd w op f s = s.setDie cd (f w.toNat (s.die cd)).advance := issueDie_on h hg _

/-- With its guard off, the program counter alone moves (R149). -/
theorem issueDie_off {s : State} {cd : Cd} {w : IWord} {cls op : Nat} (h : (s.die cd).issues w cls op = true)
    (hg : (s.die cd).guardOn w.toNat = false) (f : Nat → Die → Die) :
    issueDie cd w cls op f s = s.setDie cd (s.die cd).advance := by
  simp [issueDie, h, hg]

theorem issueAll_off {s : State} {cd : Cd} {w : IWord} {cls op : Nat} (h : (s.die cd).issues w cls op = true)
    (hg : (s.die cd).guardOn w.toNat = false) (f : Nat → State → State) :
    issueAll cd w cls op f s = s.setDie cd (s.die cd).advance := by
  simp [issueAll, h, hg]

/-- A word that is not its die's next instruction does nothing (log entry 7). -/
theorem issueDie_not {s : State} {cd : Cd} {w : IWord} {cls op : Nat} (h : (s.die cd).issues w cls op = false) (f : Nat → Die → Die) :
    issueDie cd w cls op f s = s := by
  simp [issueDie, h]

theorem issueAll_not {s : State} {cd : Cd} {w : IWord} {cls op : Nat} (h : (s.die cd).issues w cls op = false)
    (f : Nat → State → State) : issueAll cd w cls op f s = s := by
  simp [issueAll, h]

/-- Whatever a die's own instruction is, it touches that die alone. -/
theorem issueDie_rest (s : State) (cd : Cd) (w : IWord) (cls op : Nat) (f : Nat → Die → Die) :
    ∃ d, issueDie cd w cls op f s = s.setDie cd d := by
  unfold issueDie
  dsimp only
  split
  · exact ⟨_, rfl⟩
  · exact ⟨s.die cd, (s.setDie_die cd).symm⟩

/-! ### Log, events, completions -/

theorem State.log_rest (s : State) (c1 c2 die unit detail addr : Nat) :
    ∃ q r, s.log c1 c2 die unit detail addr = { s with logQ := q, regs := r } := by
  unfold State.log; split <;> exact ⟨_, _, rfl⟩

theorem State.hold_rest (s : State) (e : Entry) : ∃ q, s.hold e = { s with host := { s.host with heldQ := q } } := by
  unfold State.hold; split <;> exact ⟨_, rfl⟩

theorem State.event_rest (s : State) (ty src : Nat) (p : List (Nat × Nat × Nat)) :
    ∃ q, s.event ty src p = { s with host := { s.host with heldQ := q } } := s.hold_rest _

/-- An event to the maltster and the driver adds to what left the package and to the entries held for the host. -/
theorem State.eventBoth_rest (s : State) (ty src : Nat) (p : List (Nat × Nat × Nat)) :
    ∃ q o, s.eventBoth ty src p = { s with out := o, host := { s.host with heldQ := q } } := by
  obtain ⟨q, h⟩ := (s.emit (.maltster ty (eventBytes ty src s.time p))).event_rest ty src p
  exact ⟨q, _, h⟩

theorem State.complete_rest (s : State) (src : Nat) (c : Cmd) (st x1 x2 : Nat) :
    ∃ q k, s.complete src c st x1 x2 = { s with host := { s.host with heldQ := q, cmds := k } } := by
  unfold State.complete State.hold
  dsimp only
  split <;> exact ⟨_, _, rfl⟩

theorem State.depStatus_rest (s : State) (bits : Nat) : ∃ r, s.depStatus bits = { s with regs := r } := by
  unfold State.depStatus
  dsimp only
  split <;> exact ⟨_, rfl⟩

theorem State.fabEvent_rest (s : State) (bits port : Nat) :
    ∃ q r o, s.fabEvent bits port = { s with regs := r, out := o, host := { s.host with heldQ := q } } := by
  obtain ⟨q, o, h⟩ := (s.orReg 0x4014 bits).eventBoth_rest 0x0004 29 [(16, 4, bits), (20, 1, port)]
  exact ⟨q, _, o, h⟩

/-! ### Flows and packets -/

theorem State.inject_rest (s : State) (bd : Fin 4) (p : Packet) : ∃ f, s.inject bd p = { s with fab := f } := by
  unfold State.inject; split <;> exact ⟨_, rfl⟩

theorem State.sendFlow_rest (s : State) (p : Packet) (ow : Owner) : ∃ f, s.sendFlow p ow = { s with fab := f } := by
  unfold State.sendFlow
  dsimp only
  split
  · obtain ⟨f, h⟩ := State.inject_rest _ _ _
    exact ⟨f, h⟩
  · exact ⟨_, rfl⟩

theorem State.sendAll_rest (ps : List Packet) (s : State) (ow : Owner) : ∃ f, s.sendAll ps ow = { s with fab := f } := by
  induction ps generalizing s with
  | nil => exact ⟨_, rfl⟩
  | cons p t ih =>
    obtain ⟨f, h⟩ := s.sendFlow_rest p ow
    obtain ⟨g, h'⟩ := ih (s.sendFlow p ow)
    exact ⟨g, by rw [State.sendAll] at h' ⊢; rw [List.foldl_cons, h', h]⟩

/-- t is s but for the fabric's state and the setup registers. -/
def State.ButFabric (s t : State) : Prop := ∃ f r, t = { s with fab := f, regs := r }

theorem State.ButFabric.refl (s : State) : s.ButFabric s := ⟨_, _, rfl⟩

theorem State.ButFabric.trans {s t u : State} (h : s.ButFabric t) (h' : t.ButFabric u) : s.ButFabric u := by
  obtain ⟨f, r, rfl⟩ := h
  obtain ⟨g, q, rfl⟩ := h'
  exact ⟨g, q, rfl⟩

theorem State.butFabric_putRx (s : State) (bd : Fin 4) (f : RxFlow) : s.ButFabric (s.putRx bd f) := ⟨_, s.regs, rfl⟩

theorem State.butFabric_setReg (s : State) (o v : Nat) : s.ButFabric (s.setReg o v) := ⟨s.fab, _, rfl⟩

theorem State.butFabric_sendAck (s : State) (bd : Fin 4) (f : RxFlow) (r : Bool) : s.ButFabric (s.sendAck bd f r) := by
  unfold State.sendAck
  obtain ⟨g, h⟩ := State.inject_rest s bd _
  exact ⟨g, s.regs, h⟩

theorem State.butFabric_formatDiscard (s : State) : s.ButFabric s.formatDiscard := ⟨_, _, rfl⟩

theorem State.butFabric_ackOne (s : State) (p : Packet) : s.ButFabric (s.ackOne p) := by
  unfold State.ackOne
  dsimp only
  split
  · exact .refl s
  · split
    · exact (s.butFabric_putRx _ _).trans (State.butFabric_sendAck _ _ _ _)
    · exact s.butFabric_putRx _ _

theorem State.butFabric_rxHeld (s : State) (bd : Fin 4) (f : RxFlow) (p : Packet) :
    s.ButFabric (State.rxAccept.rxHeld s bd f p).1 := by
  unfold State.rxAccept.rxHeld
  extract_lets
  split
  · exact (s.butFabric_putRx _ _).trans (State.butFabric_sendAck _ _ _ _)
  · split
    · exact s.butFabric_putRx _ _
    · split
      · exact s.butFabric_putRx _ _
      · split
        · split
          · split
            · exact s.butFabric_putRx _ _
            · exact (s.butFabric_putRx _ _).trans (State.butFabric_ackOne _ _)
          · exact s.butFabric_putRx _ _
        · exact s.butFabric_putRx _ _

theorem State.butFabric_rxRelease (s : State) (p : Packet) : s.ButFabric (s.rxRelease p) := by
  unfold State.rxRelease
  extract_lets
  split
  · exact .refl s
  · split
    · exact .refl s
    · exact ⟨_, s.regs, rfl⟩

theorem State.butFabric_rxPass (s : State) (p : Packet) : s.ButFabric (s.rxPass p) := by
  unfold State.rxPass
  extract_lets
  split
  · exact .refl s
  · split
    · exact s.butFabric_putRx _ _
    · exact .refl s

theorem State.butFabric_rxAccept (s : State) (p : Packet) : s.ButFabric (s.rxAccept p).1 := by
  unfold State.rxAccept
  extract_lets
  split
  · exact s.butFabric_formatDiscard
  · split
    · split
      · split
        · exact s.butFabric_rxHeld _ _ _
        · exact s.butFabric_setReg _ _
      · exact s.butFabric_sendAck _ _ _
    · exact s.butFabric_rxHeld _ _ _

/-- A property that flows and registers do not touch, and that performing keeps, is kept by the taking of a packet. -/
theorem takePacket_keeps {P : State → Prop} (q : Fin 9) (sel : Packet → Bool) (perform : Packet → State → State) {s : State}
    (hf : ∀ u v : State, u.ButFabric v → P u → P v) (hp : ∀ p u, P u → P (perform p u)) (h : P s) :
    P (takePacket q sel perform s) := by
  unfold takePacket
  split
  · exact h
  · rename_i p accepted hd
    split
    · exact h
    · have hpop : P (s.popEject q) := hf s _ ⟨_, s.regs, rfl⟩ h
      dsimp only
      split
      · have h1 := hf _ _ ((perform p (s.popEject q)).butFabric_rxPass p) (hp _ _ hpop)
        refine hf _ _ (State.butFabric_rxRelease _ _) ?_
        split
        · exact hf _ _ (State.butFabric_ackOne _ _) h1
        · exact h1
      · split
        · split
          · exact hp _ _ hpop
          · exact hf _ _ (State.butFabric_formatDiscard _) hpop
        · have hx := hf _ _ ((s.popEject q).butFabric_rxAccept p) hpop
          split
          · exact hf _ _ ((State.butFabric_ackOne _ _).trans (State.butFabric_rxRelease _ _)) (hp _ _ hx)
          · exact hx

/-! ### Flits -/

theorem State.pump_rest (n : Nat) (s : State) (key : Nat) :
    ∃ b o, s.pump key n = { s with haf := { s.haf with bundles := b }, out := o } := by
  induction n generalizing s with
  | zero => exact ⟨_, _, rfl⟩
  | succ n ih =>
    unfold State.pump
    dsimp only
    split
    · exact ⟨_, _, rfl⟩
    · split
      · exact ⟨_, _, rfl⟩
      · obtain ⟨b, o, h⟩ := ih (State.emit (State.setBundle s key _) _)
        exact ⟨b, o, by rw [h]; rfl⟩

theorem State.sendFlit_rest (s : State) (key : Nat) (body : List Byte) :
    ∃ b o, s.sendFlit key body = { s with haf := { s.haf with bundles := b }, out := o } := by
  obtain ⟨b, o, h⟩ := State.pump_rest ((s.bundle key).outQ.length + 1)
    (s.setBundle key { s.bundle key with outQ := (s.bundle key).outQ ++ [body] }) key
  exact ⟨b, o, h⟩

/-! ### The step -/

theorem step_cons {s : State} {c : Instr} {rest : List Instr} (h : s.pending = c :: rest) :
    step s = exec c { s with pending := rest } := by
  unfold step; rw [h]

theorem step_nil {s : State} (h : s.pending = []) : step s = .next (idleTick s) := by
  unfold step; rw [h]

end Sys2Proof.Machine
end

