-- ==== Sys2Proof/WellFormed.lean ====
section
/-! DEFINITION. Well-formed commands: operands within the widths and ranges that the spec gives them. -/

namespace Sys2Proof

/-- A device address (R199). -/
def addrOk (a : Nat) : Bool := decide (a < 2 ^ 48)

/-- A bundle of a flit boundary: compute dies 0 to 11, mesh 12 to 15, link dies 80 to 87; direction 0 from the die, 1 to it
(R466, R467). -/
def bundleOk (die dir bundle : Nat) : Bool :=
  decide (dir < 2) && ((decide (die < 12) && decide (bundle < if dir = 0 then 3456 else 2304))
    || (decide (12 ≤ die) && decide (die < 16) && decide (bundle < 125))
    || (decide (80 ≤ die) && decide (die < 88) && decide (bundle < 24)))

/-- A command whose operands are in range. -/
def Instr.wf : Instr → Bool
  | .nop _ _ | .add _ _ | .sub _ _ | .mul _ _ | .and _ _ | .or _ _ | .xor _ _ | .shl _ _ | .shr _ _ | .sra _ _
  | .li _ _ | .fadd _ _ | .fmul _ _ | .itof _ _ | .ftoi _ _ | .cmpEq _ _ | .cmpNe _ _ | .cmpLt _ _ | .cmpGe _ _
  | .cmpLtu _ _ | .fcmpLt _ _ | .fcmpGe _ _ | .pand _ _ | .por _ _ | .pnot _ _ | .ali _ _ | .aadd _ _ | .ald _ _
  | .ast _ _ | .ld _ _ | .st _ _ | .sumrd _ _ | .sumpred _ _ | .cntrd _ _ | .cnterr _ _ | .cntset _ _ | .whoami _ _
  | .clock _ _ | .br _ _ | .call _ _ | .jr _ _ | .loop _ _ | .halt _ _ | .loadCharge _ _ | .pass _ _
  | .elementWisePass _ _ | .tileAdd _ _ | .tileZero _ _ | .scoreboardGrant _ _ | .tunOpStart _ _
  | .loadChargeComplete _ _ | .tunIdleExpire _ _ | .tunStartOffsetExpire _ _ | .tunOpComplete _ _ | .seqRemapTun _ _
  | .spargeConv _ _ | .spargeAdd _ _ | .spargeSub _ _ | .spargeMul _ _ | .spargeFma _ _ | .spargeMin _ _
  | .spargeMax _ _ | .spargeAbs _ _ | .spargeNeg _ _ | .spargeClamp _ _ | .spargeSelect _ _ | .spargeCmpGt _ _
  | .spargeCmpGe _ _ | .spargeCmpEq _ _ | .iadd _ _ | .isub _ _ | .imul _ _ | .iand _ _ | .ior _ _ | .ixor _ _
  | .ishl _ _ | .ishr _ _ | .recip _ _ | .div _ _ | .sqrt _ _ | .rsqrt _ _ | .exp _ _ | .exp2 _ _ | .log _ _
  | .log2 _ _ | .tanh _ _ | .sigmoid _ _ | .erf _ _ | .sin _ _ | .cos _ _ | .rowSum _ _ | .rowMax _ _ | .rowMin _ _
  | .colSum _ _ | .colMax _ _ | .s64Add _ _ | .spargeStart _ _ | .spargeComplete _ _ | .summarySlotUpdate _ _
  | .seqRemapSparge _ _ | .copy _ _ | .put _ _ | .get _ _ | .helperDma _ _
  | .helperCollective _ _ | .helperGrist _ _ | .helperComplete _ _ | .waitCnt _ _ | .flagAdd _ _ | .flagWait _ _
  | .semAcq _ _ | .semRel _ _ | .fence _ _ | .post _ _ | .orderedRelease _ _ | .waitLimitExpire _ _
  | .memoryInitDone _ _
  | .portSignalDetect _ _ | .portTrainingDone _ _ | .portTestEnd _ _ | .laneLockLoss _ _ | .ackDelayExpire _ _
  | .senderFlowIdle _ _ | .receiverFlowIdle _ _ | .collStreamPacket _ _ | .movementStart _ _ | .fold _ _
  | .versionSwitch _ _ | .versionRelease _ _ | .skewReport _ _ | .allReduce _ _ | .reduceScatter _ _
  | .allGather _ _ | .broadcast _ _ | .reduce _ _ | .shift _ _ | .permutation _ _ | .pitch _ _ | .paceGroup _ _
  | .powerStageTimeout _ _ | .railHardLimit _ _ | .ageingCheck _ _ | .reservedCodeInstruction _ _ => true
  | .tunRowVerdict _ _ _ | .spargeCheckFail _ _ _ | .gristMigratedRow _ _ _ | .retransmitTimeout _ _ _
  | .scalarAccessComplete _ _ _ | .getRequest _ _ _ | .collStart _ _ _ | .dmaTransferEnd _ _ _ => true
  | .haltComplete _ | .flagWaitRecheck _ | .semAcqReply _ | .semWakeTimeout _ | .semRetryTimer _ | .seqStallEnd _
  | .faultSettle _ | .icacheFill _ | .stopComplete _ | .add64 _ | .fetchAdd64 _ | .add64Sat _ | .swap64 _ | .cas64 _
  | .semAcquire _ | .semRelease _ | .foldEnd _ | .gristLookupRequest _ | .gristUpdateIds _ | .gristGradientChunk _
  | .gristReply _ | .gristBusyRetry _ | .gristComplete _ | .portEnable _ | .portDisable _ | .identitySendTimer _
  | .goSlot _ | .bringupStepTimeout _ | .faultDetectExpire _ | .putPacket _ | .getReply _ | .atomicRequest _
  | .atomicReply _ | .wake _ | .ackPacket _ | .collCheck _ | .abortPacket _ | .permutationData _ | .pitchArrival _
  | .pitchRelease _ | .paceRequest _ | .paceNotice _ | .completionAccept _ | .digestPacket _ | .verdictPacket _
  | .lineRequest _ | .linesPacket _ | .directListPacket _ | .doneReconciliation _ | .doneUnload _ | .doneReseed _
  | .watchdogExpire _ | .admissionGrant _ | .droopDetect _ | .droopRecover _ | .spreadHoldExpire _ | .brakeAssert _
  | .thermalCapStep _ | .refclkLoss _ | .powerOn _ | .sysResetRelease _ | .getCertificates _ | .measure _ | .extend _
  | .tapInstruction _ | .bmReadEngQpower _ | .counterLoRead _ | .computeDieReset _ | .referenceClockValid _
  | .doeDiscovery _ | .bmNack _ | .pwrBrakeNRelease _ => true
  | .lookUp _ _ _ _ | .update _ _ _ _ | .migrateOut _ _ _ _ | .installOverrides _ _ _ _ | .movementComplete _ _ _ _ _ => true
  | .startProgram r | .stopDrain r | .stopAbort r | .ringNop r | .dma r | .write r | .completionWrite r
  | .eventWrite r | .interruptTimer r | .ringDisableComplete r => decide (r < 8192)
  | .homeRead addr err => addrOk addr && decide (err.length = 68)
  | .homeWrite addr data _ => addrOk addr && decide (0 < data.length) && decide (data.length ≤ 64 - addr % 64)
  | .laneTestEnd stack channel lanes err => decide (stack < 64) && decide (channel < 96) && lanes.all (fun l => decide (l < 136)) && decide (err.length = 68)
  | .atomicBufferWriteback addr => addrOk addr
  | .scrubRead u err => decide (u < 104) && decide (err.length = 68)
  | .cxlMemRequest _ _ data => decide (data.length ≤ 64)
  | .memLayoutWrite off v | .gristCtrlWrite off v | .ringConfigWrite off v | .depConfigWrite off v
  | .registerWrite off v => decide (off % 4 = 0) && decide (off < 0x20000) && decide (v < 2 ^ 32)
  | .memScrubWrite v | .validate v | .invalidate v | .injectEpochWrite v | .fabRdCtrlWrite v | .bmWriteEngGrant v
  | .bmClearStatus v | .bmWriteBmAlertEn v => decide (v < 2 ^ 32)
  | .identitySlot _ coord nport lanes => decide (coord < 2 ^ 20) && decide (nport < 8) && decide (lanes < 16)
  | .routerRound | .timingPortLost | .rtHoldExpire | .congestionMapPeriod | .collCmdAbort | .ringFetch | .ringEnable
  | .ringDisableDrain | .ringDisableAbort | .bmeClear | .bmeSet | .functionLevelReset | .cxlReset | .hostResetComplete
  | .hostLinkLoss | .hostLinkRestore | .perstAssert | .perstRelease | .lostClear | .unload | .reseed | .cancel
  | .digestDeferredStart | .primaryDigestDone | .mirrorDigestDone | .digestTimeout | .receiveDigestDone
  | .unloadTimeout | .logWrite | .watchdogRestart | .stewardRestartDone | .gyleEnd | .brakeRelease | .inputOutOfRange
  | .loadEst | .coldReset | .wearRecordWrite | .serviceHours | .doeAbort | .bmReadBootStatus | .bmReadEngStatus
  | .bmReadEngGrant | .bmReadEngTempMax | .bmReadEngEnergyLo | .bmReadEngEnergyHi | .bmReadDepStatus | .bmReadDevId
  | .bmReadBmStatus | .bmReadBmAlertEn | .bmAlertResponse | .slotClockLocked | .cdatRead | .inputBelow30V => true
  | .slotReceive _ lanes crc _ => decide (3 ≤ lanes.length) && decide (lanes.length ≤ 4) && decide (crc < 2 ^ 32)
      && decide ((Machine.unstripe lanes).length = 272) && lanes == Machine.stripe lanes.length (Machine.unstripe lanes)
  | .laneDropSlot _ lanes => decide (lanes < 16)
  | .doorbellSnoop line | .doorbellPoll line => decide (line < 512)
  | .doorbellLineReturn line data _ => decide (line < 512) && decide (data.length = 64)
  | .descriptorReturn r data _ => decide (r < 8192) && decide (data.length = 64)
  | .msixUnmask v => decide (v.vector < 2048) && decide (v.addr < 2 ^ 64) && decide (v.addr % 4 = 0) && decide (v.data < 2 ^ 32)
  | .lostAdd coord | .lostRemove coord => decide (coord < 2 ^ 20)
  | .clockLoss die | .selectionEchoTimeout die => decide (die < 100)
  | .powerStageFrame _ readings _ => decide (readings.length = 12)
  | .ledgerTick temps => temps.all (fun t => decide (t.1 < 6))
  | .throttleEpisodeEnd r => decide (1 ≤ r) && decide (r ≤ 10)
  | .thermalTrip cls _ => decide (cls < 6)
  | .flitReadRequest die dir bundle flit | .flitAtomicRequest die dir bundle flit | .flitLine die dir bundle flit
  | .flitCompletion die dir bundle flit | .flitSlotPart die dir bundle flit | .flitCrcFailure die dir bundle flit => bundleOk die dir bundle && decide (flit.length = 72)
  | .flitWriteRequest die dir bundle flit line => bundleOk die dir bundle && decide (flit.length = 72) && decide (line.length = 72)
  | .flitAck die dir bundle _ flit => bundleOk die dir bundle && decide (flit.length = 72)
  | .spareBundleTestEnd die dir bundle _ => bundleOk die dir bundle
  | .mgmtFrame die _ _ crc => decide (die < 100) && decide (crc < 2 ^ 16)
  | .cxlLinkTrainingDone width rate _ _ => (width == 4 || width == 8 || width == 16) && decide (1 ≤ rate) && decide (rate ≤ 3)
  | .reservedAttestationCode code => decide (code < 128) && (code == 0 || decide (3 < code))

end Sys2Proof
end

