-- ==== Sys2Proof/Tests/Slice0.lean ====
section
/-! SUPPORT. The model's own tests: a well-formedness smoke test, and for each statement states and operands that meet its
hypotheses, with what the command leaves there. Expected values come from the rules that the statements cite. -/

open Sys2Proof Sys2Proof.Machine Sys2Proof.Safety Sys2Proof.Claims

namespace Sys2Proof.Tests

set_option Elab.async false
set_option maxRecDepth 100000

/-- A ready device with its host link up and credit to spare. -/
def ready : State :=
  let s := State.reset
  let s := { s with
    boot := { s.boot with powered := true, step := 21, loaded := true }
    host := { s.host with
      linkUp := true, bme := true, cache := true, width := 16, rate := 3, mem := true, perst := false, resetting := 0 } }
  let s := (((s.setReg 0x1000 0x37).setReg 0x3000 0xFFF).setReg 0x8008 3600).setReg 0x3010 0
  { s with led := { s.led with
    credit := Vector.replicate 12 (10 ^ 30 : Int)
    bdCredit := Vector.replicate 4 (10 ^ 30 : Int) } }

/-- A word of a class and op, with its other fields. -/
def word (cls op : Nat) (rest : Nat := 0) : IWord := BitVec.ofNat 128 (cls + op * 2 ^ 8 + rest)

/-- A state whose die 0 runs with the word next, at address 0. -/
def runsIn (s : State) (w : IWord) (f : Die → Die := id) : State :=
  s.updDie 0 (fun d => f { d with mode := .running, icache := [(0, natLE 16 w.toNat ++ zeroB 48)] })
abbrev runs (w : IWord) (f : Die → Die := id) : State := runsIn ready w f

/-- The command answers a next state, which has a property. -/
def ok (i : Instr) (s : State) (p : State → Bool) : Bool := match exec i s with
  | .next t => p t
  | _ => false

/-- The command answers exactly this state. -/
def gives (i : Instr) (s t : State) : Bool := ok i s (fun u => decide (u = t))

/-- An operation issued on die 0: of a class and code, with a counter, an address register value and a state. -/
def anOp (id cls code : Nat) (ctr : Option Nat) (w : Nat) (st : OpSt) : Op :=
  { id := id, cls := cls, code := code, ctr := ctr, unit := 0, pc := 0, w := w, rcd := [], av := [], sv := [], st := st, phys := 0,
    row := 0, fails := [], reexec := false, poison := false, status := 0, decided := false, load := 0, packets := 0
    wins := [], asked := 0, room := 0 }

/-- A ring command with index 5. -/
def aCmd (op : Nat) : Cmd := { ring := 3, idx := 5, st := .started, bytes := [BitVec.ofNat 8 op, 0, 0, 0, 1, 2, 3, 4] ++ zeroB 56, cring := 4 }

/-- Die 0 with these operations. -/
def withOps (ops : List Op) (f : Die → Die := id) : State :=
  ready.updDie 0 (fun d => f { d with mode := .running, ops := ops, nextId := 100 })

/-! ### Scalar instructions -/

theorem witness_ScalarArithmeticResult :
    (∀ r ∈ aluRows, Ready (runs (word 0 r.2.1)) 0 (word 0 r.2.1) 0 r.2.1) ∧
    -- s2 := s3 − imm32 with wrap: 1 − 2
    (let w := word 0 0x02 (2 * 2 ^ 16 + 3 * 2 ^ 21 + 2 ^ 31 + 2 * 2 ^ 32)
     ok (.sub 0 w) (runs w (fun d => d.setS 3 1)) (fun t => (t.die 0).getS 2 == 0xFFFFFFFF && (t.die 0).pc == 16)) = true ∧
    (let w := word 0 0x09 (2 * 2 ^ 16 + 3 * 2 ^ 21 + 2 ^ 31 + 33 * 2 ^ 32)
     ok (.sra 0 w) (runs w (fun d => d.setS 3 0x80000000)) (fun t => (t.die 0).getS 2 == 0xC0000000)) = true := by
  unfold Ready; decide +kernel

theorem witness_ScalarPredicateResult :
    (∀ r ∈ cmpRows, Ready (runs (word 0 r.2.1)) 0 (word 0 r.2.1) 0 r.2.1) ∧
    (∀ r ∈ predRows, Ready (runs (word 0 r.2.1)) 0 (word 0 r.2.1) 0 r.2.1) ∧
    -- p3 := s0 = s0; p0 keeps its 1
    gives (.cmpEq 0 (word 0 0x10 (3 * 2 ^ 16))) (runs (word 0 0x10 (3 * 2 ^ 16)))
      (andOn (runs (word 0 0x10 (3 * 2 ^ 16))) 0 (predAfter ((runs (word 0 0x10 (3 * 2 ^ 16))).die 0) 3 true)) = true ∧
    gives (.cmpNe 0 (word 0 0x11)) (runs (word 0 0x11)) (andOn (runs (word 0 0x11)) 0 ((runs (word 0 0x11)).die 0)) = true := by
  unfold Ready; decide +kernel

theorem witness_ScalarMoveResult :
    (∀ o ∈ [0x00, 0x0A, 0x0D, 0x0E, 0x20, 0x21, 0x2A, 0x2B, 0x2D, 0x2E], Ready (runs (word 0 o)) 0 (word 0 o) 0 o) ∧
    (let w := word 0 0x21 (1 * 2 ^ 16 + 2 * 2 ^ 21 + 2 ^ 31 + 0xFFFFFFFF * 2 ^ 32)
     ok (.aadd 0 w) (runs w) (fun t => (t.die 0).getA 1 == 0xFFFFFFFFFFFF)) = true ∧
    (let w := word 0 0x0D (2 * 2 ^ 16 + 3 * 2 ^ 21)
     ok (.itof 0 w) (runs w (fun d => d.setS 3 1)) (fun t => (t.die 0).getS 2 == 0x3F800000)) = true := by
  unfold Ready; decide +kernel

/-- Die 0 stalled on a scalar access, of a host bus address if one is given. -/
def accessing (op rd a : Nat) (h : Option Nat := none) : State :=
  runs (word 0 op) (fun d => { d.setS 1 0x04030201 with stall := .access op rd a h })

/-- The device with host window 0 over the first MiB of the window space, at host bus address 0x7000000000. -/
def windowed (s : State) : State := (((s.setReg 0x2100 0x10000000).setReg 0x2104 20).setReg 0x210C 0x70)

theorem witness_ScalarAccessStalls :
    (∀ o ∈ [0x22, 0x23, 0x24, 0x25], Ready (runs (word 0 o)) 0 (word 0 o) 0 o) ∧
    -- a tile of die 0, and an address outside every region
    (let s := runs (word 0 0x24) (fun d => d.setA 0 0x050040000000)
     Ready s 0 (word 0 0x24) 0 0x24 ∧ s.mapped 0x050040000000 = true ∧ tileOf 0x050040000000 ≠ none ∧
     ok (.ld 0 (word 0 0x24)) s (fun t => (t.die 0).sb.length == 1) = true) ∧
    (ready.mapped 0x030000000000 = false ∧ ready.hostAddr 0x030000000000 = none ∧ tileOf 0x030000000000 = none) ∧
    (let s := windowed (runs (word 0 0x24) (fun d => d.setA 0 0x0F0000000040))
     Ready s 0 (word 0 0x24) 0 0x24 ∧ s.mapped 0x0F0000000040 = false ∧ s.hostAddr 0x0F0000000040 = some 0x7000000040 ∧
     ok (.ld 0 (word 0 0x24)) s (fun t => decide (t.out = [.hostRead 2 0x7000000040 4])) = true) := by
  unfold Ready; decide +kernel

theorem witness_ScalarAccessResult :
    (∀ o ∈ [0x22, 0x23, 0x24, 0x25], Ready (runs (word 0 o)) 0 (word 0 o) 0 o) ∧
    gives (.ld 0 (word 0 0x24 (0xFFFFFFFC * 2 ^ 32))) (runs (word 0 0x24 (0xFFFFFFFC * 2 ^ 32)))
      ((runs (word 0 0x24 (0xFFFFFFFC * 2 ^ 32))).setDie 0
        { (runs (word 0 0x24 (0xFFFFFFFC * 2 ^ 32))).die 0 with stall := .access 0x24 0 (2 ^ 48 - 4) none }) = true ∧
    AccessFree (accessing 0x24 2 0x40) 0 0x40 ∧ ¬AccessFree { accessing 0x24 2 0x40 with homeQ := [⟨0, 0x40, 1, 0, 0, .nobody⟩] } 0 0x40 ∧
    (accessing 0x24 2 0x40).mapped 0x40 = true ∧ (accessing 0x24 2 0x40).accessFails 0x40 4 none = false ∧
    (accessing 0x22 2 0x40).accessFails 0x40 8 none = false ∧ (accessing 0x24 2 0x40).hOk [] 0x40 8 = true ∧
    gives (.scalarAccessComplete 0 [] true) ((accessing 0x24 2 0x40).write 0x41 [7])
      (((accessing 0x24 2 0x40).write 0x41 [7]).setDie 0
        { (((accessing 0x24 2 0x40).die 0).setS 2 0x700) with pc := 16, stall := .none }) = true ∧
    ok (.scalarAccessComplete 0 [] true) (accessing 0x25 1 0x40) (fun t =>
      t.num 0x40 4 == 0x04030201 && t.byte 0x44 == 0 && (t.die 0).pc == 16) = true ∧
    ok (.scalarAccessComplete 0 [] true) (accessing 0x23 1 0x40) (fun t => t.num 0x40 8 == 0) = true ∧
    -- a load and a store through a host window
    (let s := accessing 0x24 2 0x0F0000000040 (some 0x7000000040)
     AccessFree s 0 0x0F0000000040 ∧ s.accessFails 0x0F0000000040 4 (some 0x7000000040) = false ∧ s.mapped 0x0F0000000040 = false ∧
     s.hOk [(0x0F0000000040, [1, 2, 0, 0])] 0x0F0000000040 4 = true ∧
     ok (.scalarAccessComplete 0 [(0x0F0000000040, [1, 2, 0, 0])] true) s (fun t => (t.die 0).getS 2 == 0x201) = true) ∧
    (let s := accessing 0x25 1 0x0F0000000040 (some 0x7000000040)
     s.accessFails 0x0F0000000040 4 (some 0x7000000040) = false ∧
     ok (.scalarAccessComplete 0 [] true) s (fun t => decide (t.out = [.hostWrite 0x7000000040 [1, 2, 3, 4]])) = true) := by
  unfold Ready AccessFree; decide +kernel

theorem witness_ScalarAccessFaults :
    (let s := accessing 0x24 2 0x42
     (s.die 0).mode = .running ∧ (s.die 0).fault = 0 ∧ AccessFree s 0 0x42 ∧ s.accessFails 0x42 4 none = true ∧
     gives (.scalarAccessComplete 0 [] true) s (s.setDie 0 { s.die 0 with
       fault := 8, faultPc := 0, stall := .none, faultInfo := 0x240 }) = true) ∧
    (let s := accessing 0x22 2 0x44
     s.accessFails 0x44 8 none = true ∧ (accessing 0x22 2 0x44).accessFails 0x44 4 none = false) ∧
    (let s := accessing 0x24 2 0x0F0000000040 (some 0x7000000040)
     s.hOk [] 0x0F0000000040 4 = false ∧ ok (.scalarAccessComplete 0 [] true) s (fun t => (t.die 0).fault == 8) = true) := by
  unfold AccessFree; decide +kernel


theorem witness_SummaryAndCounterWaits :
    (∀ o ∈ [0x28, 0x29, 0x2C], Ready (runs (word 0 o)) 0 (word 0 o) 0 o) ∧
    ((runs (word 0 0x28)).die 0).slotBusy 0 0 = false ∧ (∀ x ∈ ((runs (word 0 0x2C)).die 0).ops, x.ctr ≠ some 0) ∧
    (let s := runs (word 0 0x28) (fun d => { d with ops := [anOp 1 3 0 (some 0) (2 ^ 53) .queued] })
     Ready s 0 (word 0 0x28) 0 0x28 ∧ (s.die 0).slotBusy 0 0 = true ∧
     gives (.sumrd 0 (word 0 0x28)) s (s.setDie 0 { s.die 0 with stall := .sumrd 0 0 0 0 }) = true) ∧
    (let s := runs (word 0 0x29) (fun d => { d with ops := [anOp 1 3 0 (some 0) (2 ^ 53) .queued] })
     Ready s 0 (word 0 0x29) 0 0x29 ∧ (s.die 0).slotBusy 0 0 = true) ∧
    (let w := word 0 0x2C (3 * 2 ^ 16 + 2 ^ 31 + 9 * 2 ^ 32)
     let s := runs w (fun d => { d with ops := [anOp 1 3 0 (some 3) 0 .queued] })
     Ready s 0 w 0 0x2C ∧ gives (.cntset 0 w) s (s.setDie 0 { s.die 0 with stall := .cntset 3 9 }) = true ∧
     ok (.cntset 0 w) (runs w) (fun t => ((t.die 0).getC 3) == ⟨9, 0⟩ && (t.die 0).pc == 16) = true) ∧
    (let s := runs (word 0 0) (fun d => { d with stall := .cntset 3 9 })
     (∀ x ∈ (s.die 0).ops, x.ctr ≠ some 3) ∧ ok (.seqStallEnd 0) s (fun t => ((t.die 0).getC 3) == ⟨9, 0⟩ && (t.die 0).stall == .none) = true) ∧
    (let s := runs (word 0 0) (fun d => { d with stall := .sumrd 2 0 0 1 })
     (s.die 0).slotBusy 0 0 = false ∧ ok (.seqStallEnd 0) s (fun t => (t.die 0).pc == 16 && (t.die 0).stall == .none) = true) := by
  unfold Ready; decide +kernel

theorem witness_BranchTargets :
    (∀ o ∈ [0, 1, 2, 3, 4], Ready (runs (word 1 o)) 0 (word 1 o) 1 o) ∧
    -- back by one instruction, from address 0
    ok (.br 0 (word 1 0 (0xFFFFFFFF * 2 ^ 16))) (runs (word 1 0 (0xFFFFFFFF * 2 ^ 16))) (fun t => (t.die 0).pc == 0xFFFFFFFFFFF0) = true ∧
    ok (.call 0 (word 1 1 (2 * 2 ^ 16))) (runs (word 1 1 (2 * 2 ^ 16))) (fun t => (t.die 0).pc == 32 && (t.die 0).getA 15 == 16) = true ∧
    (let w := word 1 2 (4 * 2 ^ 48)
     let s := runs w (fun d => d.setA 4 0x48)
     Ready s 0 w 1 2 ∧ (aReg (s.die 0) 4).toNat % 16 ≠ 0 ∧
     gives (.jr 0 w) s (s.setDie 0 { s.die 0 with fault := 2, stall := .none, faultInfo := 0x21 }) = true ∧
     ok (.jr 0 w) (runs w (fun d => d.setA 4 0x40)) (fun t => (t.die 0).pc == 0x40) = true) ∧
    (let w := word 1 3 (4 * 2 ^ 48 + 2 ^ 16)
     sReg ((runs w (fun d => d.setS 4 1)).die 0) 4 = 1 ∧ Ready (runs w (fun d => d.setS 4 1)) 0 w 1 3 ∧
     ok (.loop 0 w) (runs w (fun d => d.setS 4 1)) (fun t => (t.die 0).pc == 16 && (t.die 0).getS 4 == 0) = true ∧
     ok (.loop 0 (word 1 3 (4 * 2 ^ 48 + 3 * 2 ^ 16))) (runs (word 1 3 (4 * 2 ^ 48 + 3 * 2 ^ 16)))
       (fun t => (t.die 0).pc == 48 && (t.die 0).getS 4 == 0xFFFFFFFF) = true) ∧
    ok (.reservedCodeInstruction 0 (word 1 5)) (runs (word 1 5)) (fun t => (t.die 0).fault == 1 && (t.die 0).faultInfo == 0x51) = true ∧
    gives (.halt 0 (word 1 4)) (runs (word 1 4)) ((runs (word 1 4)).setDie 0 { (runs (word 1 4)).die 0 with stall := .halt 0 }) = true := by
  unfold Ready; decide +kernel

theorem witness_GuardedOffChangesNothing :
    ∀ r ∈ seqRows, let w := word r.2.1 r.2.2 (2 ^ 7)
      ((runs w).die 0).issues w r.2.1 r.2.2 = true ∧ ((runs w).die 0).guardOn w.toNat = false ∧
      gives (r.1 0 w) (runs w) (andOn (runs w) 0 ((runs w).die 0)) = true := by decide +kernel

theorem witness_ProgramLife :
    (let w := word 9 0 (2 ^ 7)
     ((runs w).die 0).canIssue w = true ∧ seqReserved w.toNat = true ∧
     gives (.reservedCodeInstruction 0 w) (runs w) ((runs w).setDie 0 (faulted ((runs w).die 0) 1 9 0 0 0)) = true) ∧
    (let s := (runs (word 0 0) (fun d => { d with icache := [], pc := 0x40 })).write 0x42 [9]
     (s.die 0).mode = .running ∧ (s.die 0).fault = 0 ∧ (s.die 0).stall = .none ∧ (s.die 0).instrAt = none ∧
     (s.die 0).pc.toNat % 16 = 0 ∧ s.mapped 0x40 = true ∧ s.poisoned 0x40 = false ∧
     ok (.icacheFill 0) s (fun t => (t.die 0).instrAt == some 0x90000 && (t.die 0).pc == 0x40) = true) ∧
    (let s := runs (word 0 0) (fun d => { d with icache := [], pc := 0xFFFFFFFFFFF0 })
     (s.die 0).instrAt = none ∧ s.mapped 0xFFFFFFFFFFC0 = false ∧
     gives (.icacheFill 0) s (s.setDie 0 (faulted (s.die 0) 2 0 0 0 0)) = true) ∧
    (let s := runs (word 0 0) (fun d => { d with stall := .halt 0x30, startCmd := some (aCmd 1) })
     (s.die 0).ops = [] ∧ s.host.resetting = 0 ∧
     ok (.haltComplete 0) s (fun t => (t.die 0).mode == .idle && t.host.heldQ.length == 1
       && t.host.heldQ.all (fun e => e.src == 1 && e.ring == some 4 && fieldB e.bytes 28 8 == 0x30)) = true) ∧
    (let s := runs (word 0 0) (fun d => { d with fault := 8, startCmd := some (aCmd 1) })
     (s.die 0).ops = [] ∧ ok (.faultSettle 0) s (fun t => (t.die 0).mode == .faulted && t.host.heldQ.length == 2
       && t.host.heldQ.getLast?.any (fun e => fieldB e.bytes 20 8 == 0x801)) = true) ∧
    (let s := runs (word 0 0) (fun d => { d with mode := .stopping, startCmd := some (aCmd 1), stopCmds := [aCmd 2], dropped := 6 })
     (s.die 0).ops = [] ∧ ok (.stopComplete 0) s (fun t => (t.die 0).mode == .idle && t.host.heldQ.length == 2
       && t.host.heldQ.getLast?.any (fun e => fieldB e.bytes 20 8 == 6)) = true) := by decide +kernel

theorem witness_WaitInstructions :
    (∀ o ∈ [0, 2, 5], Ready (runs (word 5 o)) 0 (word 5 o) 5 o) ∧
    (let w := word 5 0 (2 ^ 31 + 2 ^ 32)
     Ready (runs w) 0 w 5 0 ∧ gives (.waitCnt 0 w) (runs w) ((runs w).setDie 0 { (runs w).die 0 with stall := .waitCnt 0 1 }) = true ∧
     gives (.waitCnt 0 (word 5 0)) (runs (word 5 0)) (andOn (runs (word 5 0)) 0 ((runs (word 5 0)).die 0)) = true) ∧
    (let s := runs (word 5 0) (fun d => { d with stall := .waitCnt 0 0 })
     gives (.seqStallEnd 0) s (s.setDie 0 { s.die 0 with pc := 16, stall := .none }) = true) ∧
    (let w := word 5 2 (3 * 2 ^ 20 + 4 * 2 ^ 24)
     let s := runs w
     s.atomicHome 0 = true ∧ s.poisoned 0 = false ∧ flagCond 0 (s.num 0 8) 0 = true ∧
     gives (.flagWait 0 w) s (s.setDie 0 { s.die 0 with pc := 16, stall := .none }) = true ∧
     (let u := runs w (fun d => d.setS 4 1)
      flagCond 0 (u.num 0 8) 1 = false ∧
      gives (.flagWait 0 w) u (u.setDie 0 { u.die 0 with stall := .flagWait 0 0 1 }) = true) ∧
     (let u := runs w (fun d => d.setA 3 4)
      Ready u 0 w 5 2 ∧ gives (.flagWait 0 w) u (u.setDie 0 (faulted (u.die 0) 8 5 2 0 0)) = true)) ∧
    (let s := runs (word 5 2) (fun d => { d with stall := .flagWait 0 0 0 })
     gives (.flagWaitRecheck 0) s (s.setDie 0 { s.die 0 with pc := 16, stall := .none }) = true) ∧
    (let s := runs (word 5 5) (fun d => { d with ops := [anOp 1 3 0 (some 3) 0 .queued] })
     Ready s 0 (word 5 5) 5 5 ∧ (s.die 0).ops ≠ [] ∧ gives (.fence 0 (word 5 5)) s (s.setDie 0 { s.die 0 with stall := .fence }) = true) ∧
    (let s := (runs (word 5 0) (fun d => { d with stall := .waitCnt 0 1 })).setReg 0x10008 5
     s.reg (0x10008 + 0x1000 * (0 : Cd).val) ≠ 0 ∧
     ok (.waitLimitExpire 0 none) s (fun t => (t.die 0).fault == 6 && (t.die 0).stall == .none) = true) := by
  unfold Ready; decide +kernel

/-- A word for flag_add, sem_rel or post: counter 3, address in a4, value in s5; ordered or not. -/
def syncWord (op : Nat) (ordered : Bool) : IWord :=
  word 5 op (3 * 2 ^ 16 + 4 * 2 ^ 20 + 5 * 2 ^ 24 + if ordered then 2 ^ 35 else 0)

theorem witness_FlagSemaphorePost :
    (∀ r ∈ [(1, 8), (4, 16)], let w := syncWord r.1 false
      Ready (runs w) 0 w 5 r.1 ∧ w.getLsbD 34 = false ∧ w.getLsbD 35 = false ∧ (runs w).atomicHome 0 = true) ∧
    (let w := syncWord 1 false
     ok (.flagAdd 0 w) (runs w (fun d => d.setS 5 0xFFFFFFFF)) (fun t =>
       t.homeQ == [⟨0, 0, 2 ^ 64 - 1, 0, 0, .instr 0 ((runs w).die 0).nextId⟩] && (t.die 0).pc == 16) = true) ∧
    (let w := word 5 6 (3 * 2 ^ 16 + 5 * 2 ^ 24 + 9 * 2 ^ 36)
     Ready (runs w) 0 w 5 6 ∧ ok (.post 0 w) (runs w (fun d => d.setS 5 77)) (fun t =>
       t.host.heldQ.length == 1 && t.host.heldQ.all (fun e => e.ring == some 9 && fieldB e.bytes 16 4 == 77)) = true) ∧
    (∀ r ∈ ([(.flagAdd, 1), (.semRel, 4), (.post, 6)] : List ((Cd → IWord → Instr) × Nat)),
      let w := if r.2 = 6 then word 5 6 (3 * 2 ^ 16 + 5 * 2 ^ 24 + 2 ^ 35) else syncWord r.2 true
      let s := runs w (fun d => { d with nextId := 9, ops := [anOp 7 3 0 (some 3) 0 .queued] })
      Ready s 0 w 5 r.2 ∧ ok (r.1 0 w) s (fun t => t.homeQ == [] && t.host.heldQ == [] && (t.die 0).ops.length == 2
        && (t.die 0).ops.getLast?.any (fun o => o.st == .queued)) = true) ∧
    (let o := { anOp 8 5 1 (some 3) (syncWord 1 true).toNat .queued with av := [0x40], sv := [0xFFFFFFFE] }
     let s := runs (word 0 0) (fun d => { d with nextId := 9, ops := [o] })
     bitAt o.w 34 = false ∧ (s.die 0).ops.any (fun x => decide (x.id < o.id) && x.ctr == o.ctr) = false ∧
     ok (.orderedRelease 0 8) s (fun t => t.homeQ.map (fun q => (q.code, q.addr, q.op1)) == [(0, 0x40, 2 ^ 64 - 2)]) = true) := by
  unfold Ready; decide +kernel

theorem witness_SemaphoreAcquire :
    (let w := word 5 3 (4 * 2 ^ 20 + 5 * 2 ^ 24)
     let s := runs w (fun d => d.setS 5 2)
     Ready s 0 w 5 3 ∧ s.atomicHome 0 = true ∧
     gives (.semAcq 0 w) s { s.setDie 0 { s.die 0 with stall := .semAcq none 0 2 .sent 1, nextId := 2 } with
       homeQ := [⟨5, 0, 2, 0, 0, .acq 0 1⟩] } = true ∧
     Ready (runs w) 0 w 5 3 ∧ gives (.semAcq 0 w) (runs w) ((runs w).setDie 0 (faulted ((runs w).die 0) 1 5 3 0 0)) = true) ∧
    -- at another device, and at an address that is no multiple of 16
    (let w := word 5 3 (4 * 2 ^ 20 + 5 * 2 ^ 24 + 6 * 2 ^ 29 + 2 ^ 34)
     let s := runs w (fun d => (d.setS 5 2).setS 6 0x22)
     Ready s 0 w 5 3 ∧ w.getLsbD 34 = true ∧
     ok (.semAcq 0 w) s (fun t => (t.die 0).stall == .semAcq (some 0x22) 0 2 .sent 1 && t.homeQ == []) = true) ∧
    (let w := word 5 3 (4 * 2 ^ 20 + 5 * 2 ^ 24)
     let s := runs w (fun d => (d.setS 5 2).setA 4 8)
     Ready s 0 w 5 3 ∧ gives (.semAcq 0 w) s (s.setDie 0 (faulted (s.die 0) 8 5 3 0 0)) = true) ∧
    (∀ r ∈ [1, 2, 3, 5], let s := { runs (word 0 0) (fun d => { d with stall := .semAcq none 0x40 2 .sent 7 }) with replies := [(0, 7, r)] }
      (s.die 0).semBack = [] ∧ ok (.semAcqReply 0) s (fun t => t.replies == [] && decide (((t.die 0).fault = 8) ↔ r = 5)) = true) ∧
    (let s := { runs (word 0 0) (fun d => { d with semBack := [(7, none, 0x40, 2)] }) with replies := [(0, 7, 1)] }
     ok (.semAcqReply 0) s (fun t => t.homeQ == [⟨6, 0x40, 2, 0, 0, .nobody⟩] && (t.die 0).semBack == []) = true) ∧
    (let s := runs (word 0 0) (fun d => { d with stall := .semAcq none 0x40 2 .wake 7 })
     ok (.semWakeTimeout 0) s (fun t => t.homeQ == [⟨5, 0x40, 2, 0, 0, .acq 0 1⟩]) = true) ∧
    (let s := runs (word 0 0) (fun d => { d with stall := .semAcq none 0x40 2 .retry 7 })
     ok (.semRetryTimer 0) s (fun t => t.homeQ == [⟨5, 0x40, 2, 0, 0, .acq 0 1⟩]) = true) := by
  unfold Ready; decide +kernel

/-! ### Completions, Tuns, the scoreboard, Sparge units -/

theorem witness_CompletionCounts :
    (∀ c ∈ [0, 15], (anOp 7 2 1 (some c) 0 .running).ctr = some c) ∧
    (let d := (withOps [anOp 7 2 1 (some 15) 0 .running]).die 0
     (d.finish (anOp 7 2 1 (some 15) 0 .running) 5).cnt[15] == ⟨1, 0x00250001⟩ &&
     (d.finish (anOp 7 2 1 (some 15) 0 .running) 1).cnt[15] == ⟨1, 0⟩ && (d.finish (anOp 7 2 1 (some 15) 0 .running) 0).ops == []) = true := by
  decide +kernel

theorem witness_TunTakesOperation :
    (let o := { anOp 7 2 4 (some 1) 0 .queued with unit := 0 }
     let s := withOps [o]
     (s.die 0).tunUp[0] = true ∧ (s.die 0).nextTunOp 0 = some o ∧ o.decided = false ∧ s.tileCheck o 128 = 0 ∧
     (∀ e ∈ (s.die 0).sb, e.tile ≠ fld o.w 46 8 ∧ e.who ≠ o.id) ∧ s.sbHas (whoMove 0 7) = false ∧
     gives (.tunOpStart 0 0) s (s.setDie 0 (withOp (holding (s.die 0) o) { o with st := .running, phys := 0 })) = true) ∧
    -- a retired Tun
    (let o := anOp 7 2 4 (some 1) 0 .queued
     let s := withOps [o] (fun d => { d with tunUp := d.tunUp.set 0 false })
     (s.die 0).nextTunOp 0 = some o ∧
     gives (.tunOpStart 0 0) s (s.setDie 0 (withOp (s.die 0) { o with st := .stopped, status := 4, phys := 0 })) = true) ∧
    -- a tile add into tile 1 whose image is tile 2 of the same die
    (let o := { anOp 7 2 3 (some 1) (2 ^ 46) .queued with av := [0x050040080000] }
     let s := withOps [o]
     (s.die 0).nextTunOp 0 = some o ∧ s.tileCheck o 128 = 0 ∧ tilesOfRows o.addr 0x40000 0 1 = [(0, 2)] ∧
     ok (.tunOpStart 0 0) s (fun t => (t.die 0).sb.any (fun e => e.tile == 2 && e.cls == .reader)) = true) ∧
    -- a tile that does not exist: 192
    (let o := { anOp 7 2 4 (some 1) (192 * 2 ^ 46) .queued with unit := 0 }
     let s := withOps [o]
     s.tileCheck o 128 ≠ 0 ∧ (s.die 0).nextTunOp 0 = some o ∧
     gives (.tunOpStart 0 0) s (s.setDie 0 (withOp (s.die 0) { o with st := .ended, status := s.tileCheck o 128, phys := 0 })) = true) ∧
    (let o := { anOp 7 2 0 (some 1) (2 ^ 28) .queued with av := [0x40] }
     let s := withOps [o]
     loadCheck o.w o.addr = 0 ∧ (s.die 0).nextTunOp 0 = some o ∧
     ok (.tunOpStart 0 0) s (fun t => (t.die 0).tuns[0].pend == 1 && (t.die 0).tuns[0].second == s.loadCharge 0 o.w o.addr o.id) = true) ∧
    (let o := { anOp 7 2 0 (some 1) (7 * 2 ^ 24) .queued with av := [0x41] }
     let s := withOps [o]
     loadCheck o.w o.addr ≠ 0 ∧ (s.die 0).nextTunOp 0 = some o ∧
     gives (.tunOpStart 0 0) s (s.setDie 0 (withOp (s.die 0) { o with st := .ended, status := loadCheck o.w o.addr, phys := 0 })) = true) ∧
    (let o := anOp 7 2 1 (some 1) (2 ^ 28) .queued
     let s := withOps [o] (fun d => { d with
       logical := d.logical.set 0 { d.logical[0] with pend := some 5 }
       loads := [(5, ⟨2 ^ 28, 0, []⟩)]
       tuns := d.tuns.set 0 { d.tuns[0] with pend := 2, second := { d.tuns[0].second with src := 5, wide := some false } } })
     (s.die 0).nextTunOp 0 = some o ∧ (s.die 0).meets o = some 5 ∧ s.tileCheck o ((s.die 0).loadK 5) = 0 ∧
     (s.die 0).tuns[0].charge.src ≠ 5 ∧
     ok (.tunOpStart 0 0) s (fun t => (t.die 0).tuns[0].charge.src == 5 && (t.die 0).tuns[0].pend == 0) = true) := by decide +kernel

theorem witness_TunChargeAndCold :
    (let o := { anOp 7 2 0 (some 1) 0 .running with phys := 0 }
     let s := withOps [o]
     (s.die 0).runningTun 0 = some o ∧
     ok (.loadChargeComplete 0 0) s (fun t => (t.die 0).tuns[0].pend == 2 && (t.die 0).ops.all (fun x => x.st == .ended)) = true) ∧
    ok (.tunIdleExpire 0 3) ready (fun t => (t.die 0).tuns[3].cold == .idle) = true ∧
    (let s := ready.updDie 0 (fun d => { d with tuns := d.tuns.set 3 { d.tuns[3] with cold := .idle } })
     (s.die 0).tuns[3].cold = .idle ∧ ok (.tunStartOffsetExpire 0 3) s (fun t => (t.die 0).tuns[3].cold == .ramp) = true) := by
  decide +kernel

/-- Die 0 with a running operation on Tun 0, which is warm. -/
def tunning (o : Op) : State := withOps [o] (fun d => { d with tuns := d.tuns.set 0 { d.tuns[0] with cold := .warm } })

theorem witness_TunRowStores :
    (let o := { anOp 7 2 4 (some 1) (5 * 2 ^ 46) .running with phys := 0, row := 127 }
     let s := (tunning o).write (tileAddr 0 5 127 3) [1]
     (s.die 0).runningTun 0 = some o ∧ s.byte (tileAddr 0 5 127 3) = 1 ∧
     ok (.tunRowVerdict 0 0 .none) s (fun t => t.byte (tileAddr 0 5 127 3) == 0) = true) := by decide +kernel

theorem witness_TunCompletionAndRemap :
    (let o := { anOp 7 2 4 (some 1) 0 .ended with phys := 3, status := 5 }
     let s := withOps [o]
     (s.die 0).ops.find? (fun x => x.cls == 2 && x.st == .ended && x.phys == 3) = some o ∧
     gives (.tunOpComplete 0 3) s ((s.setDie 0 ((s.die 0).finish o 5)).sbDrop (whoMove 0 7)) = true) ∧
    (let o := { anOp 7 2 4 (some 1) 0 .stopped with phys := 3, unit := 3 }
     let s := withOps [o] (fun d => { d with tunUp := d.tunUp.set 3 false })
     (s.die 0).ops.find? (fun x => x.cls == 2 && x.st == .stopped && x.phys == 3) = some o ∧ nextUp (s.die 0).tunUp 3 = some 4 ∧
     ok (.seqRemapTun 0 3) s (fun t => (t.die 0).tunMap[3] == 4 && (t.die 0).tunMap[4] == 4 && (t.die 0).tunMap[5] == 5) = true) ∧
    (let o := { anOp 7 2 4 (some 1) 0 .stopped with phys := 3, unit := 3 }
     let s := withOps [o] (fun d => { d with tunUp := Vector.replicate 12 false })
     (∀ k : Fin 12, (s.die 0).tunUp[k] = false) ∧ ok (.seqRemapTun 0 3) s (fun t => (t.die 0).fault == 7) = true) := by decide +kernel

theorem witness_ScoreboardGrants :
    (let s := withOps [] (fun d => { d with sb := [⟨5, 1, .exact, true⟩, ⟨5, 2, .exact, false⟩, ⟨5, 3, .reader, false⟩] })
     (s.die 0).sb = [⟨5, 1, .exact, true⟩] ++ ⟨5, 2, .exact, false⟩ :: [⟨5, 3, .reader, false⟩] ∧
     gives (.scoreboardGrant 0 5) s (s.setDie 0 { s.die 0 with
       sb := [⟨5, 1, .exact, true⟩, ⟨5, 2, .exact, true⟩, ⟨5, 3, .reader, false⟩] }) = true) ∧
    (let s := withOps [] (fun d => { d with sb := [⟨5, 1, .exact, true⟩, ⟨5, 3, .reader, false⟩] })
     gives (.scoreboardGrant 0 5) s s = true) := by decide +kernel

theorem witness_SpargeUnitWork :
    (let o := { anOp 7 3 0 (some 1) 0 .queued with rcd := [5] ++ zeroB 47 ++ [0x80] ++ zeroB 15 }
     let s := withOps [o]
     (s.die 0).sparUp[0] = true ∧ (s.die 0).nextVec 0 = some o ∧ vCheck o = 0 ∧ (∀ i ∈ vUses o, vTiles o i = []) ∧
     ok (.spargeStart 0 0) s (fun t => (t.die 0).ops.all (fun x => x.st == .running)) = true) ∧
    (let o := { anOp 7 3 0 (some 1) 0 .queued with rcd := List.replicate 64 0xFF }
     let s := withOps [o]
     (s.die 0).nextVec 0 = some o ∧ vCheck o ≠ 0 ∧
     ok (.spargeStart 0 0) s (fun t => (t.die 0).ops.all (fun x => x.st == .ended)) = true) ∧
    (let o := { anOp 7 3 0 (some 1) 0 .running with rcd := [5] ++ zeroB 63 }
     let s := withOps [o]
     (s.die 0).ops.find? (fun x => x.cls == 3 && x.phys == 0 && (x.st == .running || (x.st == .ended && x.decided))) = some o ∧
     vSummary o.w = false ∧
     ok (.spargeComplete 0 0) s (fun t => (t.die 0).ops == [] && (t.die 0).cnt[1].count == 1) = true) ∧
    (let o := { anOp 7 3 1 (some 1) 0 .ended with rcd := zeroB 64 }
     let s := withOps [o]
     vCombine o.w = false ∧ ok (.summarySlotUpdate 0 0) s (fun t => (t.die 0).cnt[1].count == 1) = true) ∧
    (let o := { anOp 7 3 1 (some 1) 0 .stopped with phys := 2, unit := 2 }
     let s := withOps [o] (fun d => { d with sparUp := d.sparUp.set 2 false })
     nextUp (s.die 0).sparUp 2 = some 3 ∧ ok (.seqRemapSparge 0 2) s (fun t => (t.die 0).sparMap[2] == 3) = true) := by decide +kernel

theorem witness_SpargeLaneArithmetic :
    intOp 0x10 0x7FFFFFFF 1 = (2 ^ 31 - 1, true) ∧ intOp 0x12 0x80000000 0xFFFFFFFF = (2 ^ 31 - 1, true) ∧
    intOp 0x17 0x80000000 33 = (-2 ^ 30, false) ∧ (floatOp 0x21 true .nearest (.fin true 1 3) .zero .zero).1 = .inf true := by
  decide +kernel

/-! ### Units issued, passes -/

theorem witness_UnitInstructions :
    (∀ r ∈ tileRows ++ vecRows ++ fnRows ++ moveRows ++ helperRows, let w := word r.2.1 r.2.2 (3 * 2 ^ 16)
      Ready (runs w) 0 w r.2.1 r.2.2 ∧ (runs w).admits 0 r.2.1 ((runs w).estOf 0 w.toNat) = true ∧
      (runs w).recordOk 0 (vRecord w.toNat) 64 = true ∧ (runs w).recordOk 0 (fld w.toNat 102 20 * 32) 32 = true ∧
      ok (r.1 0 w) (runs w) (fun t => (t.die 0).pc == 16 && (t.die 0).ops.map (fun o => (o.cls, o.code, o.ctr)) == [(r.2.1, r.2.2, some 3)])
        = true) ∧
    (let w := word 2 1
     let s := { runs w with led := { ready.led with credit := ready.led.credit.set 0 (-1) } }
     Ready s 0 w 2 1 ∧ s.estOf 0 w.toNat ≠ 0 ∧ s.led.credit[0] < 0 ∧
     gives (.pass 0 w) s (s.setDie 0 { s.die 0 with stall := .admission }) = true) ∧
    (let w := word 3 1
     let s := runs w (fun d => { d with ops := List.replicate 8 (anOp 1 3 0 (some 0) 0 .queued) })
     8 ≤ (s.die 0).queued 3 (fld w.toNat 20 4) ∧
     ok (.spargeAdd 0 w) s (fun t => (t.die 0).stall == .queueFull && (t.die 0).admitted) = true) := by
  unfold Ready; decide +kernel

/-- The pass of one column on tile 5, row 127, after failures at some rows. -/
def passOp (fails : List Nat := []) : Op := { anOp 7 2 1 (some 1) (5 * 2 ^ 46) .running with row := 127, fails := fails }

/-- That pass running with a charge of one cell that holds 1, its moving row holding 1 (F16). -/
def passing (fails : List Nat := []) : State :=
  (withOps [passOp fails] (fun d => { d with
    tuns := d.tuns.set 0 { d.tuns[0] with
      cold := .warm
      charge := ⟨some false, 1, 1, [[0x3C00]], [ckWeight false [0x3C00]], false, 9⟩ } })).write (sramAddr 0 (127 * 0)) [0, 0x3C]

theorem witness_TunRowPasses :
    (passing.die 0).runningTun 0 = some passOp ∧ (passing.die 0).tuns[0].cold ≠ .idle ∧
    (∀ c : Fin 1, passing.poisoned (tileAddr 0 5 127 c) = false) ∧
    (passing.rowResult 0 0 passOp 127 .none).1 = .passed ∧ (passing.rowResult 0 0 passOp 127 .none).2.2 = false ∧
    ok (.tunRowVerdict 0 0 .none) passing (fun t => t.bytes (tileAddr 0 5 127 0) 16 == natLE 16 (xEncode (.exact (2 ^ 48)))) = true := by
  decide +kernel

theorem witness_TunRowFails :
    (∀ f ∈ [TunFault.column 0 3, .cell 0 0 3, .weight 0 3], (passing.rowResult 0 0 passOp 127 f).1 = .failed) ∧
    ok (.tunRowVerdict 0 0 (.column 0 3)) passing (fun t => (t.die 0).tuns[0].mismatch == 1 && t.logQ.length == 1 &&
      (t.die 0).tuns[0].reexec == 1 && (t.die 0).ops.all (fun x => x.fails == [127] && x.reexec)) = true ∧
    -- a third failure of the pass, at another row
    ok (.tunRowVerdict 0 0 (.column 0 3)) (passing [4, 127]) (fun t => (t.die 0).tunUp[0] == false && (t.die 0).tuns[0].reexec == 0 &&
      (t.die 0).ops.all (fun x => x.st == .stopped)) = true := by decide +kernel

/-! ### Memory, atomics, movement -/

theorem witness_AddressDecodeInjective :
    ready.loc 0x40 = some 0x40 ∨ (ready.loc 0x40).isSome = true := by decide +kernel

theorem witness_WriteThenRead :
    ready.rangeMapped 0x3E 5 = true ∧ ready.rangePoisoned 0x3E 5 = false ∧
    (ready.write 0x3E [1, 2, 3, 4, 0]).bytes 0x3D 7 = [0, 1, 2, 3, 4, 0, 0] := by decide +kernel

/-- The home location of an address. -/
def at' (s : State) (a : Nat) : Nat := (s.loc a).getD 0

/-- The hypotheses about a line's tile and window, checked die by die. -/
def answers (s : State) (a : Nat) : Bool :=
  s.loc a == some (at' s a) && s.tierReady (at' s a) && !s.lineHeld a && !s.sbHas (whoHome s.memc.next)
    && (tileOf a).all (fun x => (s.die (cdOf x.1)).sb.all (fun e => e.tile != x.2))
    && (winDie a).all (fun i => (s.die (cdOf i)).mode != .fenced)

theorem answers_iff (s : State) (a : Nat) (h : answers s a = true) : HomeAnswers s a (at' s a) := by
  simp only [answers, Bool.and_eq_true, beq_iff_eq, Bool.not_eq_true', Option.all_eq_true, List.all_eq_true, bne_iff_ne] at h
  exact ⟨h.1.1.1.1.1, h.1.1.1.1.2, h.1.1.1.2, h.1.1.2, h.1.2, h.2⟩

theorem witness_HomeReadDelivers :
    (∀ a ∈ [0x40, 0x050000000040, 0x050040000000], answers ready a = true) ∧
    -- a line in the atomic line buffer is delivered whatever its array holds
    (let s := { ready with memc := { ready.memc with atomBuf := [at' ready 0x40 / 64] } }
     answers s 0x40 = true ∧ ok (.homeRead 0x40 [1, 1, 1]) s (fun t => t.out.length == 1 && t.memc.tests == []) = true) ∧
    symErrors [] = 0 ∧ symErrors [1] = 1 ∧ symErrors [1, 1, 1] = 3 ∧ stackOf (at' ready 0x40) ≠ none ∧
    stackOf (at' ready 0x050000000040) = none ∧
    ok (.homeRead 0x40 [1]) ready (fun t => t.out.length == 1 && t.reg (ceReg (at' ready 0x40)) == 1) = true ∧
    ok (.homeRead 0x40 [1, 1, 1]) ready (fun t => t.out == [] && t.underTest (at' ready 0x40)) = true ∧
    ok (.homeRead 0x050000000040 [1, 1, 1]) ready (fun t => t.poisoned 0x050000000040 && t.reg (ueReg (at' ready 0x050000000040)) == 1) = true := by
  decide +kernel

theorem witness_HomeWriteStores :
    ready.poisoned 0x7F = false ∧ (ready.poisonLine 0x40).poisoned 0x41 = true ∧
    ok (.homeWrite 0x7F [9] false) ready (fun t => t.byte 0x7F == 9 && t.byte 0x7E == 0) = true ∧
    ok (.homeWrite 0x40 (List.replicate 64 3) false) (ready.poisonLine 0x40) (fun t => !t.poisoned 0x40 && t.byte 0x7F == 3) = true ∧
    gives (.homeWrite 0x41 [9] false) (ready.poisonLine 0x40) (ready.poisonLine 0x40) = true ∧
    ok (.homeWrite 0x40 [9] true) ready (fun t => t.poisoned 0x40 && t.mem == []) = true := by decide +kernel

theorem witness_HomeHolds :
    (let s := ready.setReg 0x3000 0
     s.tierReady (at' s 0x40) = false ∧ ok (.homeWrite 0x40 [9] false) s (fun t => t.mem == [] && t.homeQ.length == 1) = true) ∧
    (let s := { ready with homeQ := [⟨0, 0x48, 1, 0, 0, .nobody⟩] }
     s.lineHeld 0x40 = true ∧ ok (.homeRead 0x40 []) s (fun t => t.out == [] && t.homeQ.length == 2) = true) := by decide +kernel

/-- A lane test of the channel that holds a line, which waits for it. -/
def underTest (spares : List (Nat × Nat × Nat)) : State :=
  let l := at' ready 0x40
  let j := (stackOf l).getD 0
  { ready with memc := { ready.memc with tests := [⟨j, 1, l, 0x40, true⟩], spares := spares.map (fun x => (j, 0, x.2.2)) } }

theorem witness_LaneTestRepairs :
    (let s := underTest []
     let j := (stackOf (at' ready 0x40)).getD 0
     stackOf (at' ready 0x40) = some j ∧ s.sparesUsed j 0 < 2 ∧
     ok (.laneTestEnd j 1 [5] []) s (fun t => t.memc.tests == [] && t.memc.spares == [(j, 0, 5)] && t.out.length == 1) = true ∧
     ok (.laneTestEnd j 1 [] []) s (fun t => t.memc.tests == [] && t.poison == [at' ready 0x40 / 64]) = true) ∧
    (let s := underTest [(0, 0, 1), (0, 0, 2)]
     let j := (stackOf (at' ready 0x40)).getD 0
     2 ≤ s.sparesUsed j 0 ∧
     ok (.laneTestEnd j 1 [5] []) s (fun t => t.memc.failed == [j] && bitAt (t.reg 0x3008) 1 && t.boot.failed) = true) := by decide +kernel

/-- An atomic of a code waits at its home, from die 2's acquire port. -/
def atomically (code op1 op2 : Nat) (word : Nat := 0) : State :=
  { ready.write 0x40 (natLE 8 word) with homeQ := [⟨code, 0x40, op1, op2, 2 * 2 ^ 20, .acq 2 9⟩] }

theorem witness_AtomicWordResult :
    (let s := atomically 0 1 0
     s.atomicHome 0x40 = true ∧ s.poisoned 0x40 = false ∧ s.tierReady (at' s 0x40) = true ∧ s.underTest (at' s 0x40) = false) ∧
    ok (.add64 0) (atomically 0 1 0 (2 ^ 64 - 1)) (fun t => t.num 0x40 8 == 0 && t.homeQ == []) = true ∧
    ok (.add64Sat 0) (atomically 2 1 0 (2 ^ 63 - 1)) (fun t => t.num 0x40 8 == 2 ^ 63 - 1) = true ∧
    ok (.swap64 0) (atomically 3 7 0 5) (fun t => t.num 0x40 8 == 7) = true ∧
    ok (.cas64 0) (atomically 4 5 9 5) (fun t => t.num 0x40 8 == 9 && t.replies.length == 1) = true ∧
    ok (.cas64 0) (atomically 4 6 9 5) (fun t => t.num 0x40 8 == 5) = true ∧
    ok (.fetchAdd64 0) (atomically 1 6 9 5) (fun t => t.num 0x40 8 == 11) = true := by decide +kernel

theorem witness_AtomicRefusals :
    (let s := { atomically 5 1 0 with homeQ := [⟨5, 0x48, 1, 0, 2 * 2 ^ 20, .acq 2 9⟩] }
     ok (.semAcquire 0) s (fun t => t.replies == [(2, 9, 5)]) = true) ∧
    (let s := (atomically 5 1 0).poisonLine 0x40
     s.atomicHome 0x40 = true ∧ s.poisoned 0x40 = true ∧ ok (.semAcquire 0) s (fun t => t.replies == [(2, 9, 4)]) = true) := by decide +kernel

theorem witness_SemaphoreAtHome :
    ok (.semAcquire 0) (atomically 5 3 0 3) (fun t => t.num 0x40 8 == 0 && t.replies == [(2, 9, 1)]) = true ∧
    ok (.semAcquire 0) (atomically 5 3 0 2) (fun t => t.num 0x48 4 == 2 * 2 ^ 20 + 2 ^ 31 && t.num 0x4C 4 == 3 && t.replies == [(2, 9, 2)]) = true ∧
    ok (.semAcquire 0) ((atomically 5 3 0 2).write 0x48 (natLE 4 (3 * 2 ^ 20 + 2 ^ 31))) (fun t => t.replies == [(2, 9, 3)]) = true ∧
    ok (.semRelease 0) (atomically 6 3 0 2) (fun t => t.num 0x40 8 == 5) = true ∧
    ok (.semRelease 0) ((atomically 6 3 0 2).write 0x48 (natLE 4 (3 * 2 ^ 20 + 2 ^ 31) ++ natLE 4 5)) (fun t =>
      t.num 0x48 4 == 3 * 2 ^ 20 && t.fab.eject[8].length == 1) = true := by decide +kernel

theorem witness_ScrubAndWindow :
    (let s := ready.setReg 0x3004 0x00050005
     s.quadReady (scrubQuad 103) = true ∧ s.scrubPeriod 103 ≠ 0 ∧ s.underTest (scrubLoc 103 0) = false ∧
     ok (.scrubRead 103 []) s (fun t => tabGet 0 t.memc.scrub 103 == 1) = true ∧
     ok (.memScrubWrite 0x00F000A8) { s with memc := { s.memc with scrub := [(1, 5), (70, 6)] } } (fun t =>
       t.reg 0x3004 == 0x00F000A8 && t.memc.scrub == []) = true) ∧
    (let s := { ready with host := { ready.host with cxlSets := 1, hdm := some 0x2000000000 } }
     s.host.linkUp = true ∧ s.host.mem = true ∧
     (∀ o ∈ [0, 4 * 2 ^ 30 - 1], answers s (s.windowAddr o) = true) ∧
     ok (.cxlMemRequest true 0x2000000005 [7]) s (fun t => t.byte (s.windowAddr 5) == 7) = true ∧
     ok (.cxlMemRequest false 0x2000000005 []) s (fun t => t.out.length == 1) = true ∧
     gives (.cxlMemRequest true 0x1FFFFFFFFF [7]) s s = true) ∧
    ready.host.hdm = none ∧ (ready.loc 0x40).isSome = true := by
  decide +kernel

/-- A copy of 3 bytes from 0x100 to 0x203. -/
def aCopy (st : OpSt) : Op := { anOp 7 4 0 (some 2) (3 * 2 ^ 34) st with av := [0x203, 0x100] }

theorem witness_MovementResult :
    (let s := withOps [aCopy .queued]
     (s.die 0).moving 0 = none ∧ mReserved (aCopy .queued).w = false ∧
     ok (.movementStart 0 ⟨0, []⟩) s (fun t => (t.die 0).ops.all (fun x => x.st == .running)) = true) ∧
    -- a put and a get of three bytes to and from device 9
    (let o := { anOp 7 4 1 (some 2) (3 * 2 ^ 34) .queued with av := [0x203, 0x100], sv := [0, 9] }
     let s := (withOps [o]).write 0x100 [1, 2, 3]
     mReserved o.w = false ∧ mRows o.w = 1 ∧ s.sbHas (whoMove 0 7) = false ∧ tilesOfRows 0x100 3 0 1 = [] ∧
     s.rowsHeld 0x100 3 0 1 = false ∧ s.rangeMapped 0x100 3 = true ∧ s.rowStatus 0x100 3 = 0 ∧ s.rangePoisoned 0x100 3 = false ∧
     ok (.movementStart 0 ⟨0, []⟩) s (fun t => (txOf t 9 (memFlow 0 0 0)).any (fun f =>
       f.unacked.map (fun x => (x.pkt.type, x.pkt.len, sliceB x.pkt.payload 16 3)) == [(3, 19, [1, 2, 3])])) = true) ∧
    (let o := { anOp 7 4 2 (some 2) (3 * 2 ^ 34) .queued with av := [0x203, 0x100], sv := [0, 9] }
     let s := withOps [o]
     mReserved o.w = false ∧ mRows o.w = 1 ∧ tilesOfRows 0x203 3 0 1 = [] ∧ s.rowsHeld 0x203 3 0 1 = false ∧ s.rowStatus 0x203 3 = 0 ∧
     ok (.movementStart 0 ⟨0, []⟩) s (fun t => (txOf t 9 (memFlow 0 1 0)).any (fun f =>
       f.unacked.map (fun x => (x.pkt.type, fieldB x.pkt.payload 0 8, fieldB x.pkt.payload 16 4)) == [(4, 0x100, 3)])) = true) ∧
    (let o := { anOp 7 4 1 (some 2) (2 ^ 127) .queued with av := [0, 0] }
     mReserved o.w = true ∧ ok (.movementStart 0 ⟨0, []⟩) (withOps [o]) (fun t => (t.die 0).ops.all (fun x => x.status == 2)) = true) ∧
    (let s := (withOps [aCopy .running]).write 0x100 [1, 2, 3]
     s.moveReady 0 (aCopy .running) = true ∧ mRows (aCopy .running).w = 1 ∧ s.rowStatus 0x100 3 = 0 ∧ s.rowStatus 0x203 3 = 0 ∧
     ok (.movementComplete 0 7 false [] true) s (fun t => t.bytes 0x202 5 == [0, 1, 2, 3, 0] && (t.die 0).cnt[2].count == 1) = true) ∧
    (let o := { anOp 7 6 0 (some 2) 0 .ended with status := 3 }
     ok (.helperComplete 0 7) (withOps [o]) (fun t => (t.die 0).cnt[2].count == 1 && (t.die 0).ops == []) = true) := by decide +kernel

/-! ### Rings, the collector and the host link -/

/-- A ready device whose ring 1 (command, bound to completion ring 2) and rings 2 and 3 (events) are as given. -/
def ringsOf (c q e : Ring → Ring) (cmds : List Cmd := []) : State :=
  { ready with host := { ready.host with
    cmds := cmds
    rings := [(1, c { Ring.reset with cfg := 2 * 64, state := 1 }), (2, q { Ring.reset with cfg := 1, state := 1, base := 0x10000 }),
      (3, e { Ring.reset with cfg := 2, state := 1, base := 0x20000 })] } }

/-- A fetched descriptor of ring 1 with its first bytes, ready to start. -/
def ringCmd (bs : List Byte) (st : CmdSt := .ready) : Cmd := ⟨1, 7, st, bs ++ zeroB (64 - bs.length), 2⟩

/-- A state with that descriptor waiting. -/
def descr (bs : List Byte) : State := ringsOf id id id [ringCmd bs]

theorem witness_DoorbellsAndFetch :
    (let s := { ready with host := { ready.host with lines := [0] } }
     ok (.doorbellSnoop 0) s (fun t => t.host.lines == [] && t.host.reads == [0] && t.out.length == 1) = true) ∧
    (let s := ringsOf id id id
     let u := { s with host := { s.host with cache := false } }
     u.doorbellLines.contains 0 = true ∧ u.host.cache = false ∧ ok (.doorbellPoll 0) u (fun t => t.host.reads == [0]) = true ∧
     ok (.doorbellLineReturn 0 (zeroB 4 ++ natLE 4 16) true) { s with host := { s.host with reads := [0] } }
       (fun t => (t.ring 1).host == 16 && (t.ring 1).state == 1 && (t.ring 2).err == 0) = true ∧
     ok (.doorbellLineReturn 0 (zeroB 4 ++ natLE 4 17) true) { s with host := { s.host with reads := [0] } }
       (fun t => (t.ring 1).err == 1 && (t.ring 1).state == 3) = true) ∧
    (let s := ringsOf (fun r => { r with host := 1, base := 0x4000 }) id id
     s.nextRing = some 1 ∧ s.host.resume = [] ∧ (s.ring 1).bound ≠ 1 ∧
     ok .ringFetch s (fun t => (t.ring 1).dev == 1 && (t.ring 2).reserved == 1 && t.out == [.hostRead 1 0x4000 64]) = true ∧
     ok .ringFetch { s with host := { s.host with cache := false } } (fun t => t.out == [.hostRead 2 0x4000 64]) = true) ∧
    (let c := ringCmd [] .fetching
     let s := ringsOf id (fun r => { r with reserved := 1 }) id [c]
     s.host.cmds.find? (fun d => d.ring == 1 && d.st == .fetching) = some c ∧ descReserved (zeroB 64) = false ∧
     descReserved (9 :: zeroB 63) = true ∧ c.cring ≠ 1 ∧
     ok (.descriptorReturn 1 (zeroB 64) true) s (fun t => t.host.cmds == [ringCmd []]) = true ∧
     ok (.descriptorReturn 1 (9 :: zeroB 63) true) s (fun t => t.host.cmds == [] && t.host.heldQ.map (fun e => fieldB e.bytes 7 1) == [2]) = true ∧
     ok (.descriptorReturn 1 [] false) s (fun t => (t.ring 1).err == 3 && t.host.heldQ.length == 1) = true ∧
     ok (.descriptorReturn 1 (zeroB 64) true) (s.setRing 1 { s.ring 1 with state := 2, abort := true })
       (fun t => t.host.cmds == [] && t.host.heldQ.map (fun e => fieldB e.bytes 7 1) == [9]) = true) := by
  decide +kernel

/-- Statuses of the completions held. -/
def heldStatus (t : State) : List Nat := t.host.heldQ.map (fun e => fieldB e.bytes 7 1)

/-- A write of two bytes at an address. -/
def writeDescr (a : Nat) : List Byte := [4, 0, 0, 0, 0, 0, 0, 0] ++ natLE 8 a ++ natLE 16 2 ++ [0xAB, 0xCD]

theorem witness_RingCommandResults :
    (descr []).startable 1 = some (ringCmd []) ∧
    ok (.ringNop 1) (descr []) (fun t => heldStatus t == [0] && t.host.cmds == []) = true ∧
    (let s := descr (writeDescr 0x43E)
     s.mapped 0x43E = true ∧ s.poisoned 0x43E = false ∧ winDie 0x43E = none ∧ WriteFree s 0x43E ∧
     ok (.write 1) (s.poisonLine 0x43E) (fun t => heldStatus t == [5] && t.mem == []) = true ∧
     ok (.write 1) s (fun t => t.bytes 0x43D 4 == [0, 0xAB, 0xCD, 0] && heldStatus t == [0]) = true) ∧
    (let s := descr (writeDescr 0x0A0000000000)
     s.mapped 0x0A0000000000 = false ∧ ok (.write 1) s (fun t => heldStatus t == [7] && t.mem == []) = true) ∧
    (let s := descr ([1, 0, 4, 0] ++ natLE 4 0 ++ natLE 8 0 ++ natLE 8 0x1000 ++ natLE 8 64)
     ok (.dma 1) s (fun t => (t.host.movers[s.moverOf [0, 1, 2, 3]].length == 1) && t.host.cmds.map (·.st) == [.started]) = true) ∧
    (let s := descr ([2, 0, 5, 0] ++ natLE 4 0 ++ natLE 8 0x100 ++ natLE 8 0x99)
     (s.die 5).mode = .idle ∧ ok (.startProgram 1) s (fun t => (t.die 5).mode == .running && (t.die 5).a[0] == 0x99) = true ∧
     ok (.startProgram 1) (s.updDie 5 (fun d => { d with mode := .running })) (fun t => heldStatus t == [3]) = true ∧
     ok (.startProgram 1) (s.updDie 5 (fun d => { d with mode := .stopping })) (fun t => heldStatus t == [3]) = true ∧
     ok (.startProgram 1) (s.updDie 5 (fun d => { d with mode := .fenced })) (fun t => heldStatus t == [6]) = true) ∧
    (let s := descr ([2, 0, 5, 0] ++ natLE 4 0 ++ natLE 8 0x108 ++ natLE 8 0x99)
     ok (.startProgram 1) s (fun t => heldStatus t == [7] && (t.die 5).mode == .idle) = true) ∧
    (let s := (descr [3]).updDie 0 (fun d => { d with mode := .running, ops := [anOp 1 4 0 none 0 .queued] })
     ok (.stopDrain 1) s (fun t => (t.die 0).mode == .stopping && (t.die 0).ops.length == 1) = true ∧
     ok (.stopDrain 1) (s.updDie 0 (fun d => { d with mode := .stopping, stopCmds := [aCmd 3] })) (fun t =>
       heldStatus t == [] && (t.die 0).stopCmds.length == 2) = true ∧
     ok (.stopDrain 1) (s.updDie 0 (fun d => { d with stall := .semAcq none 0x40 2 .sent 7 })) (fun t =>
       (t.die 0).stall == .none && (t.die 0).semBack == [(7, none, 0x40, 2)]) = true ∧
     ok (.stopDrain 1) (s.updDie 0 (fun d => { d with stall := .access 0x24 2 0x40 none })) (fun t =>
       (t.die 0).stall == .access 0x24 2 0x40 none) = true ∧
     ok (.stopDrain 1) ((descr [3]).updDie 0 (fun d => { d with mode := .fenced })) (fun t => heldStatus t == [6]) = true ∧
     ok (.stopDrain 1) (descr [3]) (fun t => heldStatus t == [3]) = true) ∧
    (let s := (descr [3, 0, 0, 0, 0, 0, 0, 0, 1]).updDie 0 (fun d => { d with mode := .running, ops := [anOp 1 4 0 none 0 .queued] })
     ok (.stopAbort 1) s (fun t => (t.die 0).mode == .stopping && (t.die 0).ops.length == 0 && (t.die 0).dropped == 1) = true ∧
     ok (.stopAbort 1) (descr [3, 0, 0, 0, 0, 0, 0, 0, 1]) (fun t => heldStatus t == [3]) = true) := by
  unfold WriteFree; decide +kernel

theorem witness_DmaMovesRow :
    (let b := [1, 0, 0, 0] ++ natLE 4 0 ++ natLE 8 0x100 ++ natLE 8 0x103 ++ natLE 8 3 ++ zeroB 32
     let c : Cmd := ⟨1, 7, .started, b, 2⟩
     let s := (ringsOf id id id [c]).write 0x100 [1, 2, 3]
     let s := { s with host := { s.host with movers := s.host.movers.set 0 [⟨some c, none, b, s.windows⟩] } }
     s.dmaHeld b = false ∧ s.rowStatus 0x100 3 = 0 ∧ s.rowStatus 0x103 3 = 0 ∧ s.rangePoisoned 0x103 3 = false ∧
     ok (.dmaTransferEnd 0 [] true) s (fun t => t.bytes 0xFF 8 == [0, 1, 2, 3, 1, 2, 3, 0] && heldStatus t == [0] &&
       t.host.movers[0].isEmpty && t.host.heldQ.map (fun e => fieldB e.bytes 20 8) == [3]) = true) := by decide +kernel

/-- A staged or held entry for a ring. -/
def anEntry (ring : Nat) (isEvt : Bool) : Entry := ⟨3, some ring, isEvt, 5 :: zeroB 63, false, 1, none⟩
def staged (s : State) (e : Entry) : State := { s with host := { s.host with staging := [e] } }
def heldBack (s : State) (e : Entry) : State := { s with host := { s.host with heldQ := [e] } }

theorem witness_CollectorResults :
    (let s := heldBack (ringsOf (fun r => { r with dev := 9 }) id id) (anEntry 2 false)
     ok (.completionAccept 3) s (fun t => t.host.heldQ == [] && t.host.staging.map (fun e => fieldB e.bytes 12 4) == [9]) = true) ∧
    (let s := heldBack (ringsOf id id id) (anEntry 2 true)
     ok (.completionAccept 3) s (fun t => t.host.heldQ == [] && t.host.staging == [] && t.reg 0x2018 == 1) = true) ∧
    (let s := staged (ringsOf id (fun r => { r with dev := 17, reserved := 1 }) id) (anEntry 2 false)
     s.hostReads = true ∧ s.stagedFor 2 = some (anEntry 2 false) ∧
     ok (.completionWrite 2) s (fun t => t.out == [.hostWrite 0x1007C [0, 0, 0, 0], .hostWrite 0x10040 (5 :: zeroB 59)] &&
       (t.ring 2).dev == 18 && (t.ring 2).reserved == 0) = true) ∧
    (let s := staged (ringsOf id id (fun r => { r with dev := 16 })) (anEntry 3 true)
     (s.ring 3).size ≤ (s.ring 3).fill ∧
     ok (.eventWrite 3) s (fun t => t.out == [] && (t.ring 3).lost == 1 && (t.ring 3).dev == 16) = true) ∧
    (let s := staged (ringsOf id id id) (anEntry 3 true)
     (s.ring 3).fill < (s.ring 3).size ∧
     ok (.eventWrite 3) s (fun t => t.out == [.hostWrite 0x2003C [0, 0, 0, 1], .hostWrite 0x20000 (5 :: zeroB 59)] && (t.ring 3).dev == 1) = true) ∧
    (let s := ringsOf id id (fun r => { r with cfg := 2 + 4 * 2 ^ 19 + 2 ^ 30, mod := 0x105, unsig := 1 })
     (s.ring 3).irq = true ∧ fld (s.ring 3).mod 8 16 ≠ 0 ∧
     ok (.interruptTimer 3) s (fun t => t.out == [] && t.host.msixPend == [4] && (t.ring 3).unsig == 0) = true ∧
     ok (.interruptTimer 3) { s with host := { s.host with msixOpen := [4], msixTab := [(4, 0xFEE00000, 0x41)] } }
       (fun t => t.out == [.msix 4 0xFEE00000 0x41]) = true) ∧
    (let s := { ready with host := { ready.host with msixPend := [4] } }
     ok (.msixUnmask ⟨4, 0xFEE00000, 0x41, false⟩) s (fun t => t.out == [.msix 4 0xFEE00000 0x41] && t.host.msixOpen == [4]) = true ∧
     ok (.msixUnmask ⟨5, 0xFEE00000, 0x42, false⟩) s (fun t => t.out == []) = true ∧
     ok (.msixUnmask ⟨4, 0xFEE00000, 0x41, true⟩) s (fun t => t.out == [] && t.host.msixOpen == [] && t.host.msixPend == [4]) = true) := by
  decide +kernel

theorem witness_RingControl :
    (let s := (ringsOf (fun r => { r with state := 0, err := 2, dev := 5, lost := 4 }) id id).setReg 0x2020 1
     s.ringIndex = 1 ∧ (indexed s).state = 0 ∧
     ok .ringEnable s (fun t => (t.ring 1).state == 1 && (t.ring 1).dev == 0 && (t.ring 1).lost == 0 && t.host.reads == [0]) = true ∧
     ok (.ringConfigWrite 0x2024 0x12345678) s (fun t => (t.ring 1).base == 0x12345400) = true) ∧
    (let s := (ringsOf id id id [ringCmd []]).setReg 0x2020 1
     (indexed s).state = 1 ∧ (indexed s).kind = 0 ∧ (s.inFlight 1).filter (fun c => c.st == .ready) = [ringCmd []] ∧
     ok .ringDisableAbort s (fun t => (t.ring 1).state == 2 && heldStatus t == [9]) = true ∧
     ok (.ringConfigWrite 0x2024 0) s (fun t => bitAt (t.reg 0x2014) 0 && t.ring 1 == s.ring 1) = true) ∧
    (let s := (ringsOf id id id).setReg 0x2020 1
     (s.inFlight 1).filter (fun c => c.st == .ready) = [] ∧ ok .ringDisableDrain s (fun t => (t.ring 1).state == 2) = true ∧
     s.ringBusy 2 = true) ∧
    (let s := (ringsOf id id id).setReg 0x2020 2
     (indexed s).kind = 1 ∧ ok .ringDisableDrain s (fun t => bitAt (t.reg 0x2014) 0 && (t.ring 2).state == 1) = true) ∧
    (let s := ringsOf (fun r => { r with state := 2 }) id id
     ok (.ringDisableComplete 1) s (fun t => (t.ring 1).state == 0) = true) := by decide +kernel

/-- The device with its host link down. -/
def linkDown : State := { ready with host := { ready.host with linkUp := false } }

theorem witness_HostLinkAndResets :
    ok .bmeClear ready (fun t => t.host.bme == false && bitAt (t.reg 0x2014) 3) = true ∧
    (let s := ringsOf id id id
     ok .bmeSet { s with host := { s.host with bme := false } } (fun t => t.host.bme && t.host.reads == [0]) = true) ∧
    (let s := heldBack (ready.updDie 3 (fun d => { d with mode := .running })) (anEntry 2 false)
     ok .functionLevelReset s (fun t => t.host.resetting == 1 && t.host.heldQ == [] && (t.die 3).mode == .stopping) = true ∧
     ok .cxlReset { s with host := { s.host with hdm := some 0 } } (fun t => t.host.resetting == 2 && t.host.heldQ == [] &&
       t.host.hdm == none && !t.host.mem && !t.host.cache) = true) ∧
    -- a post that is discarded is complete
    (let e : Entry := { anEntry 3 true with post := some (0, 7) }
     let s := heldBack (withOps [anOp 7 5 6 (some 2) 0 .flight]) e
     ok .functionLevelReset s (fun t => (t.die 0).ops == [] && (t.die 0).cnt[2].count == 1) = true) ∧
    (let s := { (ringsOf id id id).setReg 0x2020 1 with host := { (ringsOf id id id).host with resetting := 2 } }
     s.startedEnded = true ∧ ok .hostResetComplete s (fun t => t.host.rings == [] && t.reg 0x2020 == 0 && t.host.resetting == 0) = true) ∧
    ok .hostLinkLoss ready (fun t => t.host.linkUp == false && bitAt (t.reg 0x2014) 2) = true ∧
    ok .hostLinkRestore linkDown (fun t => t.host.linkUp && t.host.heldQ.length == 1 && t.logQ.length == 1) = true ∧
    ok .perstAssert ready (fun t => t.host.perst && !t.host.linkUp) = true ∧
    ok .perstRelease { linkDown with host := { linkDown.host with perst := true } } (fun t => !t.host.perst && t.host.resetting == 2) = true ∧
    (linkDown.boot.loaded = true ∧
     ok (.cxlLinkTrainingDone 8 2 true .off) linkDown (fun t => t.host.linkUp && fld (t.reg 0x2000) 4 5 == 8 &&
       t.host.hdm == none && t.host.heldQ.length == 1) = true ∧
     ok (.cxlLinkTrainingDone 8 2 true (.on (some 0))) { linkDown.setReg 0x3050 2 with host := { linkDown.host with cxlRst := true } }
       (fun t => t.host.cxlSets == 2 && t.host.hdm == some 0) = true) ∧
    ok (.doeDiscovery 1) ready (fun t => t.out.length == 1) = true ∧ ok .cdatRead ready (fun t => t.out.length == 1) = true := by
  decide +kernel

/-! ### Flows and packets -/

/-- The device at coordinate 7, routing by table 0. -/
def inMesh : State := { ready with fab := { ready.fab with tables := ready.fab.tables.set 0 { RTable.empty with valid := true, self := 7 } } }

/-- A packet from device 9 to this one, in order on a flow of die 0. -/
def aPacket (type flow len : Nat) (payload : List Byte) (seq : Nat := 4) : Packet :=
  { dst := 7, src := 9, cls := 2, epoch := 0, age := 0, hop := 10, type := type, flow := flow, seq := seq, len := len, ordered := false,
    poison := 0, deflected := false, opened := false, payload := payload }

/-- That packet at the head of ejection queue 3 of a state, its flow waiting for number 4. -/
def arrived (s : State) (p : Packet) : State :=
  { s with fab := { s.fab with
    eject := s.fab.eject.set 3 [(p, false)]
    rx := s.fab.rx.set (flowBd p.flow) [⟨9, p.flow, 4, [], [], 2⟩] } }

theorem witness_FlowSendsInOrder :
    (let p := { aPacket 0x03 64 20 [] with dst := 9, src := 7 }
     let s := inMesh
     let full : State := { s with fab := { s.fab with tx := s.fab.tx.set 0 [⟨9, 64, 70, List.replicate 64 ⟨p, .none, 0⟩, [], true⟩] } }
     txOf s 9 64 = none ∧ (0 : Nat) < fld (s.reg 0x401C) 0 7 ∧ p.dst ≠ s.selfCoord ∧
     (txOf (s.sendFlow p .none) 9 64).map (fun f => (f.next, f.unacked.map (fun x => (x.pkt.seq, x.pkt.opened)))) = some (1, [(0, true)]) ∧
     (s.sendFlow p .none).fab.inj[0].length = 1 ∧
     ¬ ((64 : Nat) < fld (full.reg 0x401C) 0 7) ∧
     (txOf (full.sendFlow p .none) 9 64).map (fun f => (f.next, f.unacked.length, f.backlog.map (fun x => x.pkt.seq))) = some (71, 64, [70])) := by
  decide +kernel

/-- Fields of an address and more in a payload. -/
def putPayload : List Byte := natLE 8 0x43E ++ natLE 8 0 ++ [0xA, 0xB, 0xC]

/-- An operation of die 0 in flight with a tag. -/
def inFlightOp (cls code : Nat) : State :=
  inMesh.updDie 0 (fun d => { d with mode := .running, nextId := 100, ops := [{ anOp 7 cls code (some 2) 0 .running with packets := 3, row := 1, room := 2 }] })

theorem inOrder_arrived (s : State) (type flow len : Nat) (b : List Byte) (h : typeOnFlow type = true)
    (hf : formatValid (aPacket type flow len b) = true) :
    InOrder (arrived s (aPacket type flow len b)) 3 (aPacket type flow len b) ⟨9, flow, 4, [], [], 2⟩ := by
  refine ⟨⟨[], by simp [arrived]⟩, h, hf, ?_, rfl, (by decide : 4 < 2 ^ 24), rfl, rfl, rfl, rfl⟩
  simp [arrived, rxFind, aPacket]

theorem witness_MemoryPacketsPerformed :
    (∀ p ∈ [aPacket 0x03 64 19 putPayload, aPacket 0x04 80 24 [], aPacket 0x05 96 19 [], aPacket 0x06 80 40 [], aPacket 0x07 96 16 []],
      typeOnFlow p.type = true ∧ formatValid p = true) ∧
    (let p := aPacket 0x03 64 19 putPayload
     let s := arrived inMesh p
     s.putFree p = true ∧ s.rowStatus 0x43E 3 = 0 ∧ s.rangeMapped 0x43E 3 = true ∧ s.rangePoisoned 0x43E 3 = false ∧
     ok (.putPacket 3) s (fun t => t.bytes 0x43D 5 == [0, 0xA, 0xB, 0xC, 0] && t.fab.rx[0].map (fun f => f.next) == [5]) = true) ∧
    (let p := aPacket 0x04 80 24 (natLE 8 0x43E ++ natLE 8 0x99 ++ natLE 4 3 ++ natLE 4 7)
     let s := (arrived inMesh p).write 0x43E [1, 2, 3]
     s.readFree 0x43E 3 = true ∧ s.rowStatus 0x43E 3 = 0 ∧ txOf s 9 (replyFlow 80) = none ∧
     ok (.getRequest 3 [] true) s (fun t => (txOf t 9 (replyFlow 80)).any (fun g =>
       g.unacked.map (fun r => (r.pkt.type, r.pkt.len, sliceB r.pkt.payload 16 3, fieldB r.pkt.payload 0 6)) == [(5, 19, [1, 2, 3], 0x99)])) = true) ∧
    -- a get request whose line waits for a write that came before it
    (let p := aPacket 0x04 80 24 (natLE 8 0x43E ++ natLE 8 0x99 ++ natLE 4 3 ++ natLE 4 7)
     let s := arrived { inMesh with homeQ := [⟨0, 0x400, 1, 0, 0, .nobody⟩] } p
     s.readFree 0x43E 3 = false ∧ ok (.getRequest 3 [] true) s (fun t => t.fab.gets == [p] && t.fab.eject[3] == []) = true) ∧
    (let p := aPacket 0x05 96 19 (natLE 8 0x43E ++ natLE 4 7 ++ natLE 4 0 ++ [1, 2, 3])
     let s := arrived (inFlightOp 4 2) p
     (s.taggedOp 96 7 4 2).any (fun x => s.nextAsk x.1 x.2.phys x.2 == none) = true ∧ s.linesFree p = true ∧
     ok (.getReply 3) s (fun t => t.bytes 0x43E 3 == [1, 2, 3] && (t.die 0).ops.map (fun o => (o.packets, o.room)) == [(0, 1)]) = true) ∧
    (let p := aPacket 0x06 80 40 (natLE 8 0x40 ++ natLE 4 3 ++ natLE 4 7 ++ natLE 8 1 ++ natLE 8 2)
     ok (.atomicRequest 3) (arrived inMesh p) (fun t => t.homeQ.map (fun r => (r.code, r.addr, r.op1)) == [(3, 0x40, 1)]) = true) ∧
    (let p := aPacket 0x07 96 16 (natLE 4 7 ++ natLE 4 0)
     let s := arrived (inFlightOp 5 0) p
     (s.taggedOp 96 7 5 0).isSome = true ∧
     ok (.atomicReply 3) s (fun t => (t.die 0).cnt[2].count == 1 && (t.die 0).ops == []) = true) := by decide +kernel

theorem witness_PacketsDiscarded :
    (∀ x ∈ [(80, 257), (80, 31), (64 + 12 * 256, 40), (64 + 3 * 16, 40), (64 + 4, 40)],
      ok (.atomicRequest 3) (arrived inMesh (aPacket 0x06 x.1 x.2 [])) (fun t => t.homeQ == [] && t.reg 0x4088 == 1 && t.fab.eject[3] == []) = true) ∧
    (∀ q ∈ [3, 36], let p := aPacket 0x06 80 40 [] q
      formatValid p = true ∧ (modDiff 24 q 4 < 0 ∨ 32 ≤ modDiff 24 q 4) ∧
      ok (.atomicRequest 3) (arrived inMesh p) (fun t => t.homeQ == []) = true) := by decide +kernel

/-- A sender flow to device 9 with two packets unacknowledged, which have been sent again a number of times. -/
def sending (tries : Nat) (s : State := inMesh) : State :=
  let x (q : Nat) : TxPkt := ⟨{ aPacket 0x03 64 20 [] q with dst := 9, src := 7 }, .none, tries⟩
  { s with fab := { s.fab with tx := s.fab.tx.set 0 [⟨9, 64, 6, [x 4, x 5], [], false⟩] } }

theorem witness_DeliveryTimers :
    (let p := aPacket 0x02 0 16 (natLE 4 64 ++ natLE 4 7 ++ natLE 4 5 ++ natLE 4 0)
     let s := arrived (sending 0) p
     fieldB p.payload 4 4 % 2 ^ 20 = s.selfCoord ∧
     ok (.ackPacket 3) s (fun t => (txOf t 9 64).any (fun f => f.opened && f.unacked.map (fun x => x.pkt.seq) == [5])) = true) ∧
    (let s := arrived inMesh (aPacket 0x03 64 20 [])
     ok (.ackDelayExpire 9 64) s (fun t => t.fab.inj[0].map (fun p => (p.type, p.dst, fieldB p.payload 8 3)) == [(2, 9, 4)]) = true) ∧
    ((0 : Nat) < fld (inMesh.reg 0x4018) 16 4 ∧
     ok (.retransmitTimeout 9 64 5) (sending 0) (fun t => t.fab.inj[0].length == 1 && t.reg 0x408C == 1) = true ∧
     fld (inMesh.reg 0x4018) 16 4 ≤ 15 ∧
     ok (.retransmitTimeout 9 64 5) (sending 15) (fun t => t.reg 0x4090 == 1 && t.logQ.length == 1 && t.host.heldQ.length == 1 &&
       bitAt (t.reg 0x4014) 4) = true) ∧
    (let s := { inMesh with fab := { inMesh.fab with tx := inMesh.fab.tx.set 0 [⟨9, 64, 6, [], [], true⟩] } }
     ok (.senderFlowIdle 9 64) s (fun t => txOf t 9 64 == none) = true) ∧
    ok (.receiverFlowIdle 9 64) (arrived inMesh (aPacket 0x03 64 20 [])) (fun t => t.fab.rx[0] == []) = true := by decide +kernel

theorem witness_LayoutWrites :
    ready.quiet = true ∧ ok (.memLayoutWrite 0x3010 3) ready (fun t => t.reg 0x3010 == 3) = true ∧
    (let s := ready.updDie 0 (fun d => { d with mode := .running })
     s.quiet = false ∧ ok (.memLayoutWrite 0x304C 3) s (fun t => t.reg 0x304C == 0 && bitAt (t.reg 0x3008) 0) = true) ∧
    (let v := setFld (ready.reg 0x401C) 0 7 33
     fld v 24 6 = fld (ready.reg 0x401C) 24 6 ∧ ok (.fabRdCtrlWrite v) ready (fun t => fld (t.reg 0x401C) 0 7 == 33) = true) := by
  decide +kernel

/-! ### Ports, routing, tables -/

/-- Port 2 in a state, with more set. -/
def atPort (st : Nat) (f : PortSt → PortSt := id) (s : State := inMesh) : State :=
  { s with fab := { s.fab with ports := s.fab.ports.set 2 (f { PortSt.reset with state := st }) } }

/-- The state of port 2. -/
def portAt (t : State) : Nat := t.fab.ports[2].state

theorem witness_PortBringUp :
    (inMesh.reg (portCtrl 2) = 0 ∧ (inMesh.hafDie 82).state < 4 ∧ ok (.portEnable 2) inMesh (fun t => portAt t == 1) = true) ∧
    ok (.portDisable 2) (atPort 5) (fun t => portAt t == 0) = true ∧
    Lanes3 7 ∧ ok (.portSignalDetect 2 7) (atPort 1) (fun t => portAt t == 2) = true ∧
    ok (.portTrainingDone 2 7) (atPort 2) (fun t => portAt t == 3 && t.fab.ports[2].lanes == 7) = true ∧
    (let s := (atPort 3 (fun x => { x with lanes := 15 }))
     let u := { s with fab := { s.fab with tables := s.fab.tables.set 0 { RTable.empty with valid := true, self := 7, ext := #v[8, 4, 1, 1] } } }
     (u.table (fld (u.reg 0x4000) 8 2)).map (fun t => expectNeighbour t 2) = some (some (39, 3)) ∧
     ok (.identitySlot 2 39 3 7) u (fun t => portAt t == 4 && t.fab.ports[2].lanes == 7 && t.fab.ports[2].neighbour == 39) = true ∧
     ok (.identitySlot 2 38 3 7) u (fun t => portAt t == 7 && bitAt (t.reg 0x4014) 1) = true) ∧
    ok (.identitySendTimer 2) (atPort 4 (fun x => { x with lanes := 7 })) (fun t => t.out.length == 1) = true ∧
    -- no timing selection: the port stays in test
    gives (.portTestEnd 2 true) (atPort 4) (atPort 4) = true ∧
    -- the port of a fenced link die
    (let s := inMesh.setHafDie 82 { inMesh.hafDie 82 with state := 5 }
     ok (.portEnable 2) s (fun t => portAt t == 0 && t.reg (portCtrl 2) == 1) = true) ∧
    ok (.portTestEnd 2 true) ((atPort 4).setReg 0x4028 (2 ^ 19)) (fun t => t.fab.ports[2].goSent && portAt t == 4) = true ∧
    ok (.goSlot 2) (atPort 4) (fun t => t.fab.ports[2].goRecv && portAt t == 4) = true ∧
    ok (.goSlot 2) (atPort 4 (fun x => { x with goSent := true, lanes := 15 })) (fun t => portAt t == 5 && t.fab.ports[2].lanes == 15) = true ∧
    ok (.bringupStepTimeout 2) (atPort 3) (fun t => portAt t == 1) = true := by unfold Lanes3; decide +kernel

theorem witness_PortLinkEvents :
    (let up := atPort 5 (fun x => { x with lanes := 15 })
     let on3 := atPort 6 (fun x => { x with lanes := 13 })
     ok (.laneLockLoss 2 1) up (fun t => portAt t == 6 && t.fab.ports[2].lanes == 13 && t.fab.ports[2].laneDrops == 1 &&
       t.out.drop 1 == [.portSlot 2 3 13] && t.out.length == 2) = true ∧
     -- the ninth uncorrectable codeword of lane 1 within 1 ms
     ok (.slotReceive 2 [] 0 2) (atPort 5 (fun x => { x with lanes := 15, badWords := List.replicate 8 (1, ready.time) }))
       (fun t => portAt t == 6 && t.fab.ports[2].lanes == 13) = true ∧
     bitAt 13 2 = true ∧ ok (.laneLockLoss 2 2) on3 (fun t => portAt t == 8 && t.logQ.length == 1) = true ∧
     laneCount (15 &&& 14) = 3 ∧ ok (.laneDropSlot 2 14) up (fun t => portAt t == 6) = true ∧
     13 &&& 9 ≠ 13 ∧ laneCount (13 &&& 9) < 3 ∧ ok (.laneDropSlot 2 9) on3 (fun t => portAt t == 8) = true ∧
     ok (.faultDetectExpire 2) on3 (fun t => portAt t == 8 && bitAt (t.reg 0x7000) 0) = true) ∧
    (let s := (atPort 3).setReg 0x4028 (0x283 + 2 ^ 12)
     s.timingFrom 0 = some 1 ∧ ok .slotClockLocked s (fun t => fld (t.reg 0x4028) 16 3 == 1 && bitAt (t.reg 0x4028) 19) = true ∧
     (let u := s.setReg 0x4028 (0x883 + 2 ^ 12)
      u.timingSource 3 = false ∧ ok .timingPortLost u (fun t => fld (t.reg 0x4028) 16 3 == 1) = true)) := by decide +kernel

/-- A packet for a device waits at port 2 with port 0 up as well. -/
def oneArrives (dst hop : Nat) : State :=
  let s := atPort 5 (fun x => { x with elastic := [{ aPacket 0x03 64 20 [] with dst := dst, hop := hop }] })
  { s with fab := { s.fab with
    ports := s.fab.ports.set 0 { PortSt.reset with state := 5, lanes := 11 }
    tables := s.fab.tables.set 0 { RTable.empty with valid := true, self := 7, ext := #v[16, 4, 1, 1] } } }

theorem witness_RouterRoundMoves :
    stripe 3 [1, 2, 3, 4] = [[1, 4], [2], [3]] ∧ unstripe [[1, 4], [2], [3]] = [1, 2, 3, 4] ∧
    (let data := packetBytes (aPacket 0x03 64 20 [1, 2])
     let s := atPort 5 (fun x => { x with lanes := 15 })
     (packetOf (sliceB data 0 272)).type = 3 ∧ laneCount 15 = 4 ∧ unstripe (stripe 4 data) = data ∧
     ok (.slotReceive 2 (stripe 4 data) (crc32c (sliceB data 0 272)) 0) s (fun t => t.fab.ports[2].elastic.map (·.src) == [9]) = true ∧
     ok (.slotReceive 2 (stripe 4 data) (crc32c (sliceB data 0 272)) 4) s (fun t => t.fab.ports[2].discarded == 1 &&
       t.fab.ports[2].badWords.map Prod.fst == [2]) = true) ∧
    (let s := oneArrives 7 10
     let k := { aPacket 0x03 64 20 [] with dst := 7, hop := 10 }
     OneArrival s 2 k [] ∧ k.dst = s.selfCoord ∧ ok .routerRound s (fun t => t.fab.eject[2] == [(aged k, false)]) = true) ∧
    (let s := oneArrives 9 10
     let k := { aPacket 0x03 64 20 [] with dst := 9, hop := 10 }
     OneArrival s 2 k [] ∧ k.dst ≠ s.selfCoord ∧ (s.table 0).map (fun t => productive t 9) = some [0] ∧ s.transmits 0 = true ∧
     ok .routerRound s (fun t => t.out.contains (.slot 0 ([0, 1, 3].zip (stripe 3 (packetBytes (aged k)))) (crc32c (packetBytes (aged k))))
       && t.fab.ports[2].elastic == []) = true) ∧
    (let s := oneArrives 9 1
     OneArrival s 2 { aPacket 0x03 64 20 [] with dst := 9, hop := 1 } [] ∧
     ok .routerRound s (fun t => t.reg 0x4080 == 1 && t.fab.ports[2].elastic == []) = true) := by
  unfold OneArrival; decide +kernel

theorem witness_ProductivePortsApproach :
    ∀ p ∈ [(0, 9), (1, 2), (4, 0x407)], let t : RTable := { RTable.empty with valid := true, self := 7, ext := #v[16, 4, 2, 1] }
      TableOk t ∧ (∀ a : Fin 4, coordAxis p.2 a.val < t.ext[a]) ∧ p.1 ∈ productive t p.2 ∧
      (expectNeighbour t (portOf p.1)).any (fun c => remaining { t with self := c.1 } p.2 (p.1 / 2) + 1 == remaining t p.2 (p.1 / 2)) = true := by
  unfold TableOk; decide +kernel

/-- A routing block at 0x1000: self 3 of extents 4, 2, 1, 1. -/
def blockState : State :=
  { (((ready.setReg 0x400C 0x1000).setReg 0x4010 0).setReg 0x3010 0).write 0x1000 [3, 0, 0, 0, 4, 2, 1, 1] with fab := { ready.fab with
    tables := ready.fab.tables.set 1 { RTable.empty with valid := true, epoch := 3, self := 2 } } }

theorem witness_RoutingTables :
    (let s := blockState
     fld 0x0A 0 1 = 0 ∧ fld 0x0A 1 2 = 1 ∧ bitAt 0x0A 3 = true ∧ s.slotLocked 0 = false ∧ s.regPair 0x400C = 0x1000 ∧
     blockBad (s.bytes 0x1000 4096) = false) ∧
    (let s := blockState.write 0x1000 [4]
     blockBad (s.bytes 0x1000 4096) = true ∧ ok (.validate 0x0A) s (fun t => !t.fab.tables[0].valid && bitAt (t.reg 0x4014) 0) = true) ∧
    (let s := blockState
     s.slotLocked 1 = false ∧ ok (.invalidate 0x11) s (fun t => !t.fab.tables[1].valid) = true ∧
     (s.table 3).isSome = true ∧
     ok (.injectEpochWrite 0x305) s (fun t => fld (t.reg 0x4000) 8 2 == 3 && fld (t.reg 0x4000) 0 8 == 5 && t.fab.hold.isSome) = true ∧
     s.table 2 = none ∧ ok (.injectEpochWrite 0x205) s (fun t => fld (t.reg 0x4000) 8 2 == 0 && bitAt (t.reg 0x4014) 0) = true) ∧
    (let s := inMesh
     s.slotLocked 0 = true ∧ ok (.invalidate 0x10) s (fun t => t.fab.tables[0].valid && bitAt (t.reg 0x4014) 0) = true) ∧
    (let s := { (ready.setReg 0x402C 5).setReg 0x4030 0x1000 with fab := { ready.fab with mapSeq := 3, mapHop := 2 } }
     s.rangeMapped 0x1100 256 = true ∧
     ok .congestionMapPeriod s (fun t => t.bytes 0x1100 4 == [3, 0, 0, 0] && t.fab.mapSeq == 4 && t.fab.mapHop == 0) = true) := by decide +kernel

/-! ### Collectives -/

/-- The device alone in a torus of one. -/
def alone : State := { ready with fab := { ready.fab with tables := ready.fab.tables.set 0 { RTable.empty with valid := true } } }

/-- A collective's descriptor: sum of F32 over axes, 3 elements from 0x4000 to 0x5000, its summary at 0x6000. -/
def collDescr (op axes : Nat) (off : Nat := 0) : List Byte :=
  natLE 1 op ++ natLE 1 axes ++ natLE 4 0 |>.take 5 |> (· ++ natLE 1 off ++ natLE 2 9 ++ natLE 4 0 ++ natLE 4 1 ++ natLE 8 0x4000
    ++ natLE 8 0x5000 ++ natLE 8 3 ++ natLE 8 0 ++ zeroB 8 ++ natLE 8 0x6000)

/-- Die 0 has a queued collective instruction whose descriptor stands at 0x1000. -/
def collQueued (b : List Byte) (s : State := alone) : State :=
  (s.updDie 0 (fun d => { d with mode := .running, nextId := 100, ops := [{ anOp 7 6 1 (some 2) 0 .queued with av := [0x1000] }] })).write 0x1000 b

/-- The descriptor of an operation: one axis, offset 1 for a shift, and for a permutation an entry of 5 bytes. -/
def collFor (op : Nat) : State :=
  let s := collQueued (collDescr op 1 (if op = 5 then 1 else 0))
  if op = 6 then (s.write 0x1020 (natLE 8 1)).write 0x4000 (natLE 8 3 ++ natLE 8 0x100 ++ natLE 8 0x200 ++ natLE 8 5) else s

theorem witness_CollectiveAccepted :
    (∀ r ∈ collRows, (let s := collFor r.2
      (s.helperOp 0 7 1).isSome = true ∧
      (s.helperOp 0 7 1).any (fun o => s.helperCheck [] o == 0 && decide (s.helperDesc [] o = s.bytes 0x1000 64)) = true ∧
      collBad 0 (s.bytes 0x1000 64) = false ∧ cOp (s.bytes 0x1000 64) = r.2 ∧ s.collStatus (s.bytes 0x1000 64) [] = 0 ∧
      ok (r.1 0 ⟨7, []⟩) s (fun t => t.coll.jobs.length == 1 && (t.die 0).ops.map (·.st) == [.running]) = true)) ∧
    (let s := (collFor 0).write 0x1010 [1]
     collBad 0 (s.bytes 0x1000 64) = false ∧ s.collStatus (s.bytes 0x1000 64) [] = 7 ∧
     ok (.allReduce 0 ⟨7, []⟩) s (fun t => t.coll.jobs == [] && (t.die 0).ops.map (fun o => (o.st, o.status)) == [(.ended, 7)]) = true) ∧
    (let s := (collFor 8).write 0x6002 [9]
     cOp (s.bytes 0x1000 64) = 8 ∧ s.collStatus (s.bytes 0x1000 64) [] = 0 ∧ Plain s (cSummary (s.bytes 0x1000 64)) 32 ∧
     ok (.paceGroup 0 ⟨7, []⟩) s (fun t => t.coll.group.isSome && t.bytes 0x6000 4 == [0, 1, 0, 0] &&
       (t.die 0).ops.map (fun o => (o.st, o.status)) == [(.ended, 0)]) = true) ∧
    (let s := (collFor 8).write 0x1039 [1]
     cOp (s.bytes 0x1000 64) = 8 ∧ s.collStatus (s.bytes 0x1000 64) [] = 0) := by
  unfold Plain; decide +kernel

/-- Instruction 7 of die 0 runs, and engine 0 holds its collective. -/
def accepted (op : Nat) (excl : List Nat := []) (s : State := collFor op) : State :=
  { s.updDie 0 (fun d => { d with ops := d.ops.map (fun o => { o with st := .running }) }) with
    coll := { s.coll with jobs := [newColl 4 0 7 0 (s.bytes 0x1000 64) excl], next := 5 } }

/-- Engine 0 has a collective to start, which nothing holds back, and what it reads has this status. -/
def startable (s : State) (status : Nat) : Bool :=
  s.coll.jobs.all (fun c => s.coll.jobs.find? (fun c => !c.running && c.bd == 0) == some c && s.stageFree c c.bd
    && s.coll.jobs.all (fun j => !j.running) && s.collTiles c [] == ([], []) && !s.sbHas (whoMove c.cd c.op)
    && s.collInput c [] == (status, false))

theorem startable_iff (s : State) (status : Nat) (h : startable s status = true) :
    ∀ c ∈ s.coll.jobs, NextColl s 0 c ∧ CollFree s c [] ∧ (s.collInput c []).1 = status := by
  intro c hc
  have := List.all_eq_true.mp h c hc
  simp only [Bool.and_eq_true, beq_iff_eq, Bool.not_eq_true', List.all_eq_true] at this
  obtain ⟨⟨⟨⟨⟨h1, h2⟩, h3⟩, h4⟩, h5⟩, h6⟩ := this
  exact ⟨⟨h1, h2, fun j hj hr => absurd (h3 j hj) (by simp [hr])⟩, ⟨h4, h5, by rw [h6]⟩, by rw [h6]⟩

theorem witness_CollectiveStarts :
    (let s := accepted 0 [0]
     s.coll.jobs.length = 1 ∧ startable s 0 = true ∧ (∀ c ∈ s.coll.jobs, (s.groupC c).excl.contains (s.groupC c).t.self = true) ∧
     ok (.collStart 0 [] true) s (fun t => t.coll.jobs == [] && (t.die 0).ops.map (fun o => (o.st, o.status)) == [(.ended, 0)] &&
       t.byte 0x6000 == 3) = true) ∧
    (let s := (accepted 0).write 0x4000 (natLE 4 0x3F800000 ++ natLE 4 0x40000000)
     startable s 0 = true ∧ (∀ c ∈ s.coll.jobs, ((s.groupC c).empty || (s.groupC c).excl.contains (s.groupC c).t.self) = false ∧
       s.mapped (cSrc c.b) = true) ∧
     ok (.collStart 0 [] true) s (fun t => t.coll.jobs == [] && t.num 0x5004 4 == 0x40000000) = true) ∧
    -- its source lies in a host window that is not set
    (let s := { accepted 0 with coll := { (accepted 0).coll with jobs := [newColl 4 0 7 0 (putB (collDescr 0 1) 16 8 0x0F0000000040) []] } }
     startable s 7 = true ∧ ok (.collStart 0 [] true) s (fun t => t.coll.jobs == [] && (t.die 0).ops.map (·.status) == [7]) = true) := by
  decide +kernel

theorem witness_CollectiveStartsOthers :
    (let s := accepted 7
     startable s 0 = true ∧ ok (.collStart 0 [] true) s (fun t => t.coll.jobs == [] && t.byte 0x6000 == 0) = true) ∧
    (let s := accepted 6
     startable s 0 = true ∧
     ok (.collStart 0 [] true) s (fun t => t.coll.jobs.map (fun c => (c.running, c.entries.length, c.active.length)) == [(true, 0, 1)]) = true) ∧
    (let s := accepted 6
     let u := { s with coll := { s.coll with jobs := s.coll.jobs.map (fun c => { c with running := true }) } }
     u.ready = true ∧ (u.coll.jobs.map (·.id)).Nodup ∧ ok .collCmdAbort u (fun t => t.coll.jobs == [] && t.reg 0x5010 == 1) = true ∧
     ok .collCmdAbort s (fun t => t.coll.jobs == s.coll.jobs) = true) := by
  decide +kernel

/-- A flow field of an engine, a tag and a phase. -/
def collFlow (phase : Nat) : Nat := 9 * 2 ^ 8 + phase * 16

theorem witness_CollectivePackets :
    (∀ p ∈ [aPacket 0x09 (collFlow 3) 29 [], aPacket 0x09 (collFlow 1) 100 [], aPacket 0x0A (collFlow 1) 24 [], aPacket 0x0A (collFlow 2) 24 [1],
        aPacket 0x09 (collFlow 3) 19 putPayload, aPacket 0x09 (collFlow 3) 1 [1]], typeOnFlow p.type = true ∧ formatValid p = true) ∧
    ok (.collCheck 3) (arrived alone (aPacket 0x09 (collFlow 3) 29 [])) (fun t => t.coll.arr.length == 1) = true ∧
    ok (.collStreamPacket 3 2) (arrived alone (aPacket 0x09 (collFlow 1) 100 [])) (fun t => t.coll.arr.length == 1) = true ∧
    ok (.pitchArrival 3) (arrived alone (aPacket 0x0A (collFlow 1) 24 [])) (fun t => t.coll.arr.length == 1) = true ∧
    ok (.pitchRelease 3) (arrived alone (aPacket 0x0A (collFlow 2) 24 [1])) (fun t => t.coll.arr.length == 1) = true ∧
    (let p := aPacket 0x09 (collFlow 3) 19 putPayload
     let s := arrived alone p
     s.putFree p = true ∧ s.rowStatus 0x43E 3 = 0 ∧
     ok (.permutationData 3) s (fun t => t.bytes 0x43E 3 == [0xA, 0xB, 0xC] && (t.permGot 9) == (3, false)) = true) ∧
    (let s := accepted 0
     let u := { s with coll := { s.coll with jobs := s.coll.jobs.map (fun c => { c with running := true }) } }
     u.coll.jobs.all (fun c => cTag c.b == 9 && c.engines.contains 0 && !c.excl.contains 9) = true ∧
     ok (.abortPacket 3) (arrived u (aPacket 0x09 (collFlow 3) 1 [1])) (fun t => t.coll.jobs == [] && t.reg 0x5010 == 1) = true ∧
     (let v := { u with coll := { u.coll with jobs := u.coll.jobs.map (fun c => { c with excl := [9] }) } }
      ok (.abortPacket 3) (arrived v (aPacket 0x09 (collFlow 3) 1 [1])) (fun t => t.coll == v.coll && t.reg 0x5010 == 0) = true)) := by
  decide +kernel

/-- The device with a pace group whose root it is. -/
def paced : State := { alone with coll := { alone.coll with group := some (collDescr 8 1, []) } }

theorem witness_PaceRelayed :
    (∀ p ∈ [aPacket 0x0B (collFlow 1) 20 [], aPacket 0x0B (collFlow 2) 20 [1]], typeOnFlow p.type = true ∧ formatValid p = true) ∧
    (paced.groupOf (collDescr 8 1) []).globalRoot (cRoot (collDescr 8 1)) = paced.selfCoord ∧ (500 : Nat) < paced.coll.relayed ∧
    ok (.paceRequest 3) (arrived paced (aPacket 0x0B (collFlow 1) 20 (zeroB 8 ++ natLE 2 500 ++ [4]))) (fun t =>
      t.coll.relayed == 500 && t.led.group == 500 && t.reg 0x500C == 500 + 4 * 2 ^ 16) = true ∧
    ok (.paceRequest 3) (arrived paced (aPacket 0x0B (collFlow 1) 20 (zeroB 8 ++ natLE 2 1024))) (fun t => t.coll.relayed == 1024) = true ∧
    (let s := { paced with coll := { paced.coll with group := some (collDescr 8 1, [9]) } }
     ok (.paceRequest 3) (arrived s (aPacket 0x0B (collFlow 1) 20 (zeroB 8 ++ natLE 2 500 ++ [4]))) (fun t => t.coll.relayed == 1024) = true ∧
     ok (.paceNotice 3) (arrived s (aPacket 0x0B (collFlow 2) 20 ([1] ++ zeroB 7 ++ natLE 2 600 ++ [2]))) (fun t => t.led.group == 1024) = true) ∧
    ok (.paceNotice 3) (arrived paced (aPacket 0x0B (collFlow 2) 20 ([1] ++ zeroB 7 ++ natLE 2 600 ++ [2]))) (fun t =>
      t.led.group == 600 && t.reg 0x501C == 1) = true := by decide +kernel

theorem witness_PitchOrderFree :
    (let x : PitchData := ⟨1, 2, 4, 1024, 0, false, 0⟩
     let y : PitchData := ⟨1, 3, 1, 600, 5, false, 10⟩
     let z : PitchData := ⟨1, 1, 2, 600, 3, false, 9⟩
     [y, z].foldl pitchJoin x = ⟨1, 6, 7, 600, 3, false, 10⟩ ∧ [z, y].foldl pitchJoin x = ⟨1, 6, 7, 600, 3, false, 10⟩) := by decide +kernel

/-! ### Grist engines -/

/-- Table 0's record: rows of 16 F32 elements, 10 of 16 rows, with a version pending or not. -/
def gRecord (pending : Bool) : List Byte :=
  [1, if pending then 2 else 0, 0, 4, 0, 0xF0, 0, 0] ++ natLE 8 10 ++ natLE 8 0x1234 ++ natLE 8 0x20000 ++ natLE 8 0x30000 ++ natLE 8 0x31000
    ++ natLE 8 0x32000 ++ natLE 8 0x33000 ++ natLE 8 0x34000 ++ natLE 8 0x40000 ++ natLE 8 4 ++ natLE 8 0x3F800000 ++ natLE 4 5 ++ natLE 4 1
    ++ natLE 8 0x50000 ++ natLE 8 0x51000 ++ natLE 8 0x52000

/-- A descriptor of a command and step 6: one bag of the ids at 0x2000, offsets at 0x2800, data at 0x2C00, summary at 0x3000. -/
def gDescr (cmd : Nat) (flags : Nat := 0) : List Byte :=
  natLE 1 cmd ++ natLE 1 flags ++ natLE 2 0 ++ natLE 4 6 ++ natLE 8 1 ++ natLE 8 0x2000 ++ natLE 8 0x2800 ++ natLE 8 0 ++ natLE 8 0x2C00
    ++ natLE 8 0x3000

/-- Table 0 stands at 0x10000, and die 0 has a queued grist instruction with a descriptor at 0x1000. -/
def gristQueued (cmd : Nat) (pending : Bool := false) (flags : Nat := 0) : State :=
  let s := { alone with
    regs := tabSet (tabSet (tabSet (tabSet (tabSet alone.regs 0x6000 0x10000) 0x6004 0) 0x6010 0x100000) 0x6014 0) 0x6018 0x0410 }
  let s := (s.write 0x1000 (gDescr cmd flags)).write 0x10000 (gRecord pending)
  (s.write 0x2800 (natLE 8 (2 ^ 33))).updDie 0 (fun d => { d with
    mode := .running, nextId := 100, ops := [{ anOp 7 6 2 (some 2) 0 .queued with av := [0x1000] }] })

theorem witness_GristAccepted :
    (∀ r ∈ gristRows, (let s := gristQueued r.2.1
      let b := s.bytes 0x1000 64
      (s.helperOp 0 7 2).any (fun o => s.helperCheck [] o == 0 && s.helperDesc [] o == b) = true ∧ gristBad b = false ∧ dCmd b = r.2.1)) ∧
    ok (.lookUp 0 7 [] true) (gristQueued 0) (fun t => t.grist.jobs.map (fun j => (j.id, dCmd j.b)) == [(1, 0)] &&
      (t.die 0).ops.map (·.st) == [.running]) = true := by decide +kernel

theorem witness_GristReady :
    (gristQueued 0).record 0 false = some (gRecord false) ∧
    (∀ r ∈ gristRows, (let s := gristQueued r.2.1
      let b := s.bytes 0x1000 64
      s.gristStatus b (gRecord false) [] = 0 ∧ GristFree s 0 7 b (gRecord false) [])) := by
  unfold GristFree; decide +kernel

theorem witness_GristTurnedAway :
    (let s := (gristQueued 2).write 0x1030 (natLE 8 0x3001)
     let b := s.bytes 0x1000 64
     gristBad b = false ∧ s.gristStatus b (gRecord false) [] = 7 ∧
     ok (.fold 0 ⟨7, []⟩) s (fun t => t.grist.jobs == [] && (t.die 0).ops.map (fun o => (o.st, o.status)) == [(.ended, 7)]) = true) ∧
    (let s := (gristQueued 2).write 0x10000 [0]
     s.record 0 false = none ∧ s.cRange 0x3000 64 64 = 0 ∧ ok (.fold 0 ⟨7, []⟩) s (fun t => t.grist.jobs.map (·.outcome) == [8]) = true) := by
  decide +kernel

theorem witness_GristRequestsCount :
    (∀ c ∈ ([(.lookUp, 0), (.update, 1)] : List ((Cd → Nat → HostData → Bool → Instr) × Nat)),
      let s := (gristQueued c.2).write 0x2000 (natLE 8 3 ++ natLE 8 (2 ^ 64 - 1))
      let u := s.write 0x2800 (natLE 4 0 ++ natLE 4 3)
      let v := u.write 0x2010 (natLE 8 12)
      v.gristStatus (v.bytes 0x1000 64) (gRecord false) [] = 0 ∧
      ok (c.1 0 7 [] true) v (fun t => t.grist.jobs.map (fun j => (j.valid, j.pads, j.invalid)) == [(1, 1, 1)] && t.reg 0x602C == 1 &&
        t.grist.jobs.all (fun j => j.groups.map (fun g => (g.ids, g.st)) == [([3], 1)])) = true) := by decide +kernel

/-- The grist state with a delta region of table 0 for even steps. -/
def withRegion (s : State) (x : Region) : State := s.setRegion 0 false 0 x

theorem witness_GristFoldsAndVersions :
    (let s := gristQueued 2
     ok (.fold 0 ⟨7, []⟩) s (fun t => t.grist.jobs.map (fun j => (j.outcome, j.fold)) == [(0, 0)] && t.deltaRegion 0 false 0 == ⟨0, some 6⟩) = true ∧
     ok (.fold 0 ⟨7, []⟩) (withRegion s ⟨1, some 6⟩) (fun t => t.grist.jobs.map (·.fold) == [1] && t.deltaRegion 0 false 0 == ⟨2, some 6⟩) = true ∧
     ok (.fold 0 ⟨7, []⟩) (withRegion s ⟨1, some 4⟩) (fun t => t.grist.jobs.map (·.outcome) == [3] && t.deltaRegion 0 false 0 == ⟨1, some 4⟩) = true) ∧
    (let s := withRegion (gristQueued 2) ⟨2, some 6⟩
     let j := { newJob 1 0 7 0 (gDescr 2) (gRecord false) 0 with fold := 1 }
     let u := { s with grist := { s.grist with jobs := [j], next := 2 } }
     u.grist.jobs.find? (fun j => j.id == 1 && j.fold == 1) = some j ∧
     ok (.foldEnd 1) u (fun t => t.grist.jobs.map (·.fold) == [0] && t.deltaRegion 0 false 0 == ⟨0, some 6⟩) = true) ∧
    (let s := gristQueued 3
     s.rangeMapped 0x10000 128 = true ∧ s.rangePoisoned 0x10000 128 = false ∧ gPending (gRecord false) = false ∧
     ok (.versionSwitch 0 ⟨7, []⟩) s (fun t => t.byte 0x10001 == 2 && t.num 0x10060 4 == 6) = true ∧
     gPending (gRecord true) = true ∧ ok (.versionSwitch 0 ⟨7, []⟩) (gristQueued 3 true) (fun t => t.grist.jobs.map (·.outcome) == [5]) = true) ∧
    (let s := gristQueued 4 true
     s.olderRequests 5 = false ∧ (s.deltaRegion 0 false 0).st = 0 ∧ ok (.versionRelease 0 ⟨7, []⟩) s (fun t => t.byte 0x10001 == 1) = true ∧
     ok (.versionRelease 0 ⟨7, []⟩) (gristQueued 4) (fun t => t.grist.jobs.map (·.outcome) == [5] && t.byte 0x10001 == 0) = true ∧
     older 4 5 = true ∧ ok (.versionRelease 0 ⟨7, []⟩) (withRegion s ⟨1, some 4⟩) (fun t => t.grist.jobs.map (·.outcome) == [5]) = true) := by
  decide +kernel

/-- Grist counting has warmed up. -/
def warmed (s : State) : State := s.setReg 0x601C (2 ^ 16)

theorem witness_GristSkewAndMigration :
    (let s := gristQueued 5
     let u := { warmed s with grist := { s.grist with top := s.grist.top.set 0 [(0, 3, 9)], counted := s.grist.counted.set 0 4 } }
     s.rangeMapped 0x2000 4160 = true ∧ bitAt (fieldB (s.bytes 0x1000 64) 1 1) 5 = false ∧
     ok (.skewReport 0 ⟨7, []⟩) u (fun t => t.grist.jobs.map (·.outcome) == [0] && t.num 0x2000 4 == 4 && t.num 0x2008 4 == 1 && t.num 0x2048 4 == 9) = true) ∧
    (let s := gristQueued 6
     s.migrateRefused false (s.plan [] (s.bytes 0x1000 64)) = 6 ∧
     ok (.migrateOut 0 7 [] true) s (fun t => t.grist.jobs.map (fun j => (j.outcome, j.groups.length)) == [(6, 0)]) = true) ∧
    (let s := warmed (gristQueued 6)
     s.migrateRefused false (s.plan [] (s.bytes 0x1000 64)) = 0 ∧
     ok (.migrateOut 0 7 [] true) s (fun t => t.grist.jobs.map (fun j => (j.outcome, j.rows)) == [(0, 1)]) = true) ∧
    (let s := (gristQueued 7).write 0x2000 (natLE 8 3 ++ natLE 4 5 ++ natLE 4 2)
     let i := 0x100000 + 16 * permIndex (gRecord false) 3
     s.plan [] (s.bytes 0x1000 64) = [⟨3, 0, 5, false, 2⟩] ∧ s.override 0 3 (permIndex (gRecord false) 3) = none ∧
     ok (.installOverrides 0 7 [] true) s (fun t => t.grist.jobs.map (fun j => (j.outcome, j.rows)) == [(0, 1)] &&
       t.num i 8 == 3 + 2 ^ 63 && t.num (i + 8) 8 == 5 + 2 ^ 33 && t.dirEpoch == 1) = true) ∧
    -- a return home clears the row's entry
    (let s := ((gristQueued 7).write 0x2000 (natLE 8 3 ++ natLE 4 (2 ^ 31) ++ natLE 4 0))
     let i := permIndex (gRecord false) 3
     let u := s.write (0x100000 + 16 * i) (natLE 8 (3 + 2 ^ 63) ++ natLE 4 5 ++ natLE 4 2)
     u.plan [] (u.bytes 0x1000 64) = [⟨3, 0, 0, true, 0⟩] ∧ (u.override 0 3 i).any (fun x => x.1 == i) = true ∧
     ok (.installOverrides 0 7 [] true) u (fun t => t.num (u.ovAddr i) 8 == 0 && t.num (u.ovAddr i + 8) 8 == 0 && t.dirEpoch == 1) = true) := by
  decide +kernel

/-- A grist request packet to this owner: kind, step, epoch, two ids 3 and 5 or data. -/
def gRequest (kind : Nat) (step epoch : Nat := 6) (body : List Byte := natLE 8 3 ++ natLE 8 5) : Packet :=
  aPacket 0x0C (gristFlow 0 kind 0) (32 + body.length) (gHeader 0 kind false 0 2 step epoch 44 2 ++ body)

/-- An update group of row 3 from device 9 at its owner, with some chunks of its 64 bytes of gradient. -/
def gServing (n : Nat) : GServe :=
  { newServe (gRequest 1 6 0) 1 with flow := gristFlow 0 2 0, ids := [(3, 0, some 0x34400)], chunks := cuOf (zeroB n) false }

theorem witness_GristOwnerServes :
    (∀ k ∈ [0, 1, 2, 3], let p := gRequest k; p.type = 0x0C ∧ formatValid p = true ∧ rqKind p.payload = k) ∧
    (let s := arrived (gristQueued 0) (gRequest 0 6 0)
     let row (x : Nat) := (s.placeOf 0 (gRecord false) 0 x).slot
     let u := (s.write (row 3) (natLE 4 0x3F800000)).write (row 5) (natLE 4 0x40000000)
     s.record 0 false = some (gRecord false) ∧ s.dirEpoch = 0 ∧ s.tableFolding 0 false = false ∧ s.gWarmed = false ∧
     gN (gRecord false) = 16 ∧ row 3 ≠ row 5 ∧ txOf s 9 (gristFlow (s.engineAt (row 3)) 3 44) = none ∧
     ok (.gristLookupRequest 3) u (fun t => (txOf t 9 (gristFlow (s.engineAt (row 3)) 3 44)).any (fun g =>
       g.unacked.map (fun x => (x.pkt.type, fieldB x.pkt.payload 0 4, fieldB x.pkt.payload 8 4, fieldB x.pkt.payload 32 4))
         == [(0x0D, 44, 2, 0x40400000)])) = true) ∧
    ok (.gristLookupRequest 3) (arrived (gristQueued 0) (gRequest 0 6 1)) (fun t => t.reg 0x6028 == 1) = true ∧
    (let s := arrived (gristQueued 0) (gRequest 1 6 0)
     regionVerdict ⟨0, none⟩ 6 = .perform ∧
     ok (.gristUpdateIds 3) s (fun t => t.grist.serving.map (fun g => (g.step, g.ids.map (·.1), g.refused)) == [(6, [3, 5], false)] &&
       t.deltaRegion 0 false 0 == ⟨1, some 6⟩) = true ∧
     regionVerdict ⟨0, some 8⟩ 6 = .late ∧
     ok (.gristUpdateIds 3) (withRegion s ⟨0, some 8⟩) (fun t => t.reg 0x6024 == 2 && t.deltaRegion 0 false 0 == ⟨0, some 8⟩) = true) ∧
    (∀ x ∈ [(0, 1, 32), (32, 0, 0)], let s := arrived (gristQueued 0) (gRequest 2 6 0 (zeroB 32))
     let u := { s with grist := { s.grist with serving := [gServing x.1] } }
     u.findServe 9 (gristFlow 0 2 0) 44 1 = some (gServing x.1) ∧ u.partner = none ∧
     ok (.gristGradientChunk 3) u (fun t => t.grist.serving.length == x.2.1 && t.grist.serving.all (fun g => g.chunks.length == x.2.2)) = true) ∧
    (let s := arrived (gristQueued 0) (gRequest 3 6 0 (natLE 64 77 ++ zeroB 4))
     let a := (s.homePlace (gRecord false) 0 3).slot
     s.findServe 9 (gristFlow 0 3 0) 44 3 = none ∧ gSlot (gRecord false) = 64 ∧ s.rangeMapped a 64 = true ∧
     ok (.gristMigratedRow 3 3 none) s (fun t => t.num a 8 == 77) = true) := by decide +kernel

/-- A look-up in progress whose one group has tag 44 and a state. -/
def gAsking (st : Nat) : GJob :=
  let g : GGroup :=
    { tag := 44, bd := 0, kind := 1, table := 0, owner := 9, bag := 0, ids := [3], weights := [0], count := 1, data := cuOf (zeroB 64) false
      st := st, chunks := [], pooled := 0, flags := 0, unreachable := false }
  { newJob 1 0 7 0 (gDescr 1) (gRecord false) 0 with groups := [g] }

def asking (st : Nat) : State :=
  let s := (gristQueued 1).updDie 0 (fun d => { d with ops := d.ops.map (fun o => { o with st := .running }) })
  { s with grist := { s.grist with jobs := [gAsking st], next := 2 } }

theorem witness_GristRepliesAndEnd :
    (let p (flags : Nat) := aPacket 0x0D (gristFlow 0 3 44) 32 (natLE 4 44 ++ [0, 0, BitVec.ofNat 8 flags, 0] ++ natLE 4 1)
     (∀ f ∈ [0, 8], formatValid (p f) = true) ∧ ((asking 1).jobOf 44).isSome = true ∧
     ok (.gristReply 3) (arrived (asking 1) (p 8)) (fun t => t.grist.jobs.all (fun j => j.groups.map (·.st) == [2])) = true ∧
     ok (.gristReply 3) (arrived (asking 1) (p 0)) (fun t => t.grist.jobs.all (fun j => j.groups.map (fun g => (g.st, g.pooled)) == [(3, 1)])) = true) ∧
    ok (.gristBusyRetry 44) (asking 2) (fun t => t.grist.jobs.all (fun j => j.groups.map (·.st) == [1]) &&
      (txOf t 9 (gristFlow 0 1 0)).any (fun f => f.unacked.length == 2)) = true ∧
    ok (.gristComplete 1) (asking 3) (fun t => t.grist.jobs == [] && (t.die 0).ops.map (fun o => (o.st, o.status)) == [(.ended, 0)] &&
      t.bytes 0x3000 64 == (gAsking 3).summary) = true ∧
    -- a look-up of one bag: two elements of row 3's group are 1.0 and 2.0, and F32 elements are written at 0x2C00
    (let b := putB (gDescr 0) 16 8 1
     let g : GGroup :=
       { tag := 44, bd := 0, kind := 0, table := 0, owner := 9, bag := 0, ids := [3], weights := [0], count := 1, data := cuOf [] false
         st := 3, chunks := [(0, natLE 4 0x3F800000 ++ natLE 4 0x40000000)], pooled := 1, flags := 0, unreachable := false }
     let s := { asking 3 with grist := { (asking 3).grist with
       jobs := [{ newJob 1 0 7 0 b (gRecord false) 0 with groups := [g] }] } }
     dCount b = 1 ∧ dCmd b = 0 ∧ gN (gRecord false) * dElem b = 64 ∧ s.rangeMapped 0x2C00 64 = true ∧
     ok (.gristComplete 1) s (fun t => t.num 0x2C00 8 == 0x400000003F800000 && t.grist.jobs == []) = true) ∧
    (alone.gristBusy = false ∧ ok (.gristCtrlWrite 0x6000 0x12345678) alone (fun t => t.reg 0x6000 == 0x12345000) = true ∧
     (asking 1).gristBusy = true ∧ gives (.gristCtrlWrite 0x6000 0x12345678) (asking 1) (asking 1) = true) ∧
    (arrived alone (aPacket 0x0C (gristFlow 0 0 0) 40 [])).gristBusy = true ∧
    (let s := asking 1
     s.quiet = false ∧ fld (s.reg 0x6018) 0 6 = 16 ∧ ok (.gristCtrlWrite 0x6018 17) s (fun t => bitAt (t.reg 0x3008) 0) = true) := by
  decide +kernel

theorem witness_RowPermutationInjective :
    gB (gRecord false) = 4 ∧ ((List.range 16).map (permIndex (gRecord false))).Nodup := by decide +kernel

/-! ### The cellar copy -/

/-- The device alone with partner 9 and ward 9, its cellar table at 0x8000, its digest record at 0x9000 and its flag at 0x9800. -/
def cellar (partner : Bool := true) : State :=
  let on := if partner then 2 ^ 31 + 9 else 0
  { alone with regs := [(0x7004, 0), (0x7008, on), (0x700C, on), (0x7010, 0x8000), (0x7014, 0), (0x7018, 0x9000), (0x701C, 0), (0x7020, 0x9800),
      (0x7024, 0)].foldl (fun t e => tabSet t e.1 e.2) alone.regs }

/-- A digest of step 6 of a kind. -/
def aDigest (kind : Nat) : Digest :=
  { step := 6, kind := kind, sender := 9, carried := zeroB 64, start := 0, prim := none, mirr := none, sent := false, pv := none, mv := none,
    snapP := digestZero, snapM := digestZero, pPoison := false, mPoison := false, pRestored := 0, mRestored := 0, lost := 0, wantP := [], wantM := [], ward := [] }

def digesting (d : Digest) (f : DepSt → DepSt := id) : State := { cellar with dep := f { cellar.dep with digest := some d } }

theorem witness_DigestOrderFree :
    digestLine (digestLine digestZero 1 64 [1, 2]) 2 128 [3] = digestLine (digestLine digestZero 2 128 [3]) 1 64 [1, 2] ∧
    digestLine digestZero 1 64 [1, 2] ≠ digestLine digestZero 2 64 [1, 2] := by decide +kernel

theorem witness_StepDigestSides :
    (let s := digesting (aDigest 0) (fun d => { d with recvDone := true, sentDone := true })
     s.digestOf 0 = (digestZero, []) ∧ s.digestOf 1 = (digestZero, []) ∧ s.partner = some 9 ∧ s.listTaken = true ∧ txOf s 9 0x3FF0 = none ∧
     ok .primaryDigestDone s (fun t => t.dep.digest.any (fun d => d.sent && d.prim.isSome) &&
       (txOf t 9 0x3FF0).any (fun f => f.unacked.map (fun x => (x.pkt.type, fieldB x.pkt.payload 4 4)) == [(0x0E, 6)])) = true ∧
     s.dep.held = none ∧ ok .mirrorDigestDone s (fun t => t.dep.digest.any (fun d => d.mirr.isSome)) = true) ∧
    (let s := digesting (aDigest 0)
     s.partner = some 9 ∧ s.ward = some 9 ∧ s.listTaken = false ∧ gives .primaryDigestDone s s = true ∧ gives .mirrorDigestDone s s = true) ∧
    (let s := digesting { aDigest 0 with pv := some 1 }
     s.recordOf 6 = 0x9000 ∧ s.regPair 0x7020 = 0x9800 ∧ s.rangeMapped 0x9000 256 = true ∧
     ok .digestTimeout s (fun t => t.dep.digest == none && t.num 0x9000 4 == 6 && t.byte 0x9004 == 1 && t.byte 0x9005 == 3 && t.num 0x9800 8 == 1) = true) ∧
    gives .digestTimeout (digesting (aDigest 1)) (digesting (aDigest 1)) = true ∧
    (let s := { cellar with dep := { cellar.dep with queued := some (2, 6, 9, [], 33) } }
     ok .digestDeferredStart s (fun t => t.dep.digest.any (fun e => e.kind == 2 && e.step == 6 && e.start == 33) && t.dep.queued == none) = true) ∧
    (let s := { cellar with dep := { cellar.dep with queued := some (0, 6, 9, [], 33) } }
     s.cellarFaulty = false ∧ ok .digestDeferredStart s (fun t => t.dep.digest.any (fun e => e.kind == 0)) = true) := by decide +kernel

/-- A cellar packet from device 9. -/
def cPacket (bs : List Byte) (flow : Nat := 0x3FF0) (len : Nat := 80) : Packet := aPacket 0x0E flow len bs

/-- The cellar table's entries 5 and 133: a primary region at 0x40000 and a mirror region at 0x80000 of 4 KiB. -/
def regioned : State :=
  (cellar.write 0x8050 (natLE 8 0x40000 ++ natLE 8 (2 ^ 63 + 4096))).write 0x8850 (natLE 8 0x80000 ++ natLE 8 (2 ^ 63 + 4096))

theorem witness_CellarPackets :
    (∀ k ∈ [0, 1, 2, 3, 4, 5], typeOnFlow (cPacket [k]).type = true ∧ formatValid (cPacket [k]) = true) ∧
    ok (.digestPacket 3) (arrived cellar (cPacket ([0, 0, 0, 0] ++ natLE 4 6))) (fun t => t.dep.held == some (6, zeroB 64)) = true ∧
    (let s := cellar false
     s.ward = none ∧ ok (.digestPacket 3) (arrived s (cPacket ([0, 0, 0, 0] ++ natLE 4 6))) (fun t => t.dep.held == none) = true) ∧
    (let s := arrived (digesting (aDigest 0)) (cPacket ([0, 0, 0, 0] ++ natLE 4 5))
     s.ward = some 9 ∧ stepAfter 6 5 = true ∧ txOf s 9 0x3FF0 = none ∧
     ok (.digestPacket 3) s (fun t => (txOf t 9 0x3FF0).any (fun f =>
       f.unacked.map (fun x => (fieldB x.pkt.payload 0 1, fieldB x.pkt.payload 4 4, fieldB x.pkt.payload 8 1)) == [(1, 5, 4)])) = true) ∧
    ok (.verdictPacket 3) (arrived (digesting { aDigest 0 with sent := true }) (cPacket ([1, 0, 0, 0] ++ natLE 4 6 ++ [1])))
      (fun t => t.dep.digest.any (fun d => d.pv == some 1)) = true ∧
    (let p := cPacket ([2, 0, 0, 0] ++ natLE 2 5 ++ natLE 2 0 ++ natLE 8 0x80)
     let s := arrived (regioned.write 0x80080 [7]) p
     let u := { s with dep := { s.dep with recvDone := true } }
     s.lineReady 0 = false ∧ ok (.lineRequest 3) s (fun t => t.dep.heldReqs == [(9, 5, 0, 0x80)]) = true ∧
     u.lineReady 0 = true ∧ u.region 133 = some (0x80000, 4096) ∧ txOf u 9 0x3FF8 = none ∧
     ok (.lineRequest 3) u (fun t => (txOf t 9 0x3FF8).any (fun f => f.unacked.map (fun x => sliceB x.pkt.payload 64 2) == [[7, 0]])) = true) ∧
    (let p := cPacket ([3, 2] ++ natLE 2 0 ++ natLE 4 5 ++ natLE 8 0x40 ++ zeroB 48 ++ [7]) 0x3FF8 192
     let s := arrived regioned p
     s.region 5 = some (0x40000, 4096) ∧ s.partner = some 9 ∧ s.rangeMapped 0x40040 128 = true ∧
     ok (.linesPacket 3) s (fun t => t.byte 0x40040 == 7 && t.dep.rxBusy) = true ∧
     (let u := s.setReg 0x7008 0
      u.partner = none ∧ ok (.linesPacket 3) u (fun t => t.byte 0x40040 == 0 && t.reg 0x7060 == 1) = true)) ∧
    ok (.directListPacket 3) (arrived cellar (cPacket ([5, 1] ++ zeroB 14 ++ natLE 5 0x40 ++ [5] ++ zeroB 2 ++ natLE 4 64)))
      (fun t => t.dep.ranges == [(5, 0x40, 64)]) = true ∧
    ok (.doneReconciliation 3) (arrived cellar (cPacket [4, 0])) (fun t => t.dep.listDone) = true ∧
    (let s := cellar.setReg 0x7008 0
     s.partner = none ∧ s.ward = some 9 ∧ ok (.doneReconciliation 3) (arrived s (cPacket [4, 0])) (fun t => t.dep.recvDone) = true) ∧
    (let s := ((digesting (aDigest 0)).setReg 0x7008 0)
     s.dep.heldReqs = [] ∧ ok (.doneReconciliation 3) (arrived s (cPacket [4, 0]))
       (fun t => t.dep.recvDone && t.dep.digest.any (fun d => d.snapM == digestZero)) = true) ∧
    (∀ r ∈ ([(.doneUnload 3, 1), (.doneReseed 3, 2)] : List (Instr × Nat)),
      ok r.1 (arrived cellar (cPacket ([4, BitVec.ofNat 8 r.2, 0, 0] ++ natLE 4 6))) (fun t => t.dep.digest.any (fun e => e.kind == r.2 && e.sender == 9)) = true) := by
  decide +kernel

/-- A transfer in progress whose done packet has been acknowledged or not begun. -/
def transferring (done : Bool) : State := { cellar with dep := { cellar.dep with transfer := some ⟨1, 9, 128, 0, 0, 6, done, done⟩ } }

theorem witness_CellarTransfers :
    ok .unload cellar (fun t => t.dep.transfer.any (fun x => x.kind == 1) && bitAt (t.reg 0x7000) 5) = true ∧
    ok .reseed cellar (fun t => t.dep.transfer.any (fun x => x.kind == 2 && x.dst == 9)) = true ∧
    gives .unload (transferring false) (transferring false) = true ∧
    ok .cancel (transferring false) (fun t => t.dep.transfer == none && bitAt (t.reg 0x704C) 1) = true ∧
    ok .unloadTimeout (transferring true) (fun t => t.dep.transfer == none && t.logQ.map (fun e => (e.cls, e.detail)) == [(13, 3)]) = true ∧
    (let s := digesting (aDigest 1)
     s.cellarFaulty = false ∧ digestBytes digestZero = sliceB (aDigest 1).carried 0 64 ∧
     ok .receiveDigestDone s (fun t => t.dep.digest == none &&
       (txOf t 9 0x3FF0).any (fun f => f.unacked.map (fun x => fieldB x.pkt.payload 8 1) == [0])) = true) ∧
    ok (.depConfigWrite 0x7008 0x80000005) cellar (fun t => t.partner == some 5) = true ∧
    ok (.depConfigWrite 0x7008 0x80000005) (digesting (aDigest 0)) (fun t => t.partner == some 9 && bitAt (t.reg 0x704C) 4) = true := by decide +kernel

/-! ### Dependability and energy -/

/-- The lost list at 0xA000 with some coordinates. -/
def lostOf (l : List Nat) : State :=
  ({ alone with regs := tabSet (tabSet (tabSet alone.regs 0x7030 0xA000) 0x7034 0) 0x703C l.length }).write 0xA000 (l.flatMap (natLE 8))

theorem witness_LostListOperations :
    (∀ l ∈ [[5, 6], List.range 16], let s := lostOf l
      (s.ready = true ∧ s.lostBase = 0xA000 ∧ s.rangeMapped 0xA000 136 = true ∧ s.rangePoisoned 0xA000 136 = false ∧
        s.atomicHome 0xA080 = true) ∧ s.lostList = l) ∧
    ok (.lostAdd 9) (lostOf [5, 6]) (fun t => t.lostList == [5, 6, 9] && t.num 0xA080 8 == 1) = true ∧
    gives (.lostAdd 6) (lostOf [5, 6]) (lostOf [5, 6]) = true ∧
    ok (.lostAdd 99) (lostOf (List.range 16)) (fun t => t.lostCount == 16 && bitAt (t.reg 0x704C) 3 && t.num 0xA080 8 == 0) = true ∧
    ok (.lostAdd 9) (lostOf (List.range 16)) (fun t => t.lostCount == 16 && bitAt (t.reg 0x704C) 3) = true ∧
    ok (.lostRemove 5) (lostOf [5, 6]) (fun t => t.lostList == [6] && t.num 0xA080 8 == 1) = true ∧
    ok .lostClear (lostOf [5, 6]) (fun t => t.lostList == [] && t.num 0xA080 8 == 1) = true := by decide +kernel

theorem witness_DiesFenced :
    (ready.die 3).mode = .idle ∧
    ok (.computeDieReset 3) ready (fun t => (t.die 3).mode == .fenced && bitAt (t.reg 0x7000) 11 && (t.die 4).mode == .idle) = true ∧
    -- an instruction in flight ends with status 6 on its counter; a descriptor that a helper has accepted goes on
    (let s := withOps [anOp 7 2 0 (some 5) 0 .queued, anOp 8 6 2 (some 5) 0 .running]
     endedOn s 0 5 = 1 ∧ ok (.computeDieReset 0) s (fun t => (t.die 0).ops == [] && ((t.die 0).cnt[5]).count == 1) = true) ∧
    ok (.clockLoss 3) ready (fun t => (t.die 3).mode == .fenced && t.host.heldQ.any (fun e => fieldB e.bytes 16 2 == 3)) = true ∧
    (let s := ready.updDie 3 (fun d => { d with mode := .fenced })
     gives (.computeDieReset 3) s s = true) ∧
    ok (.clockLoss 82) (atPort 5) (fun t => portAt t == 8 && bitAt (t.reg 0x4014) 2 && (t.hafDie 82).state == 4) = true ∧
    ok (.clockLoss 20) ready (fun t => t.boot.failed && t.host.heldQ.map (fun e => fieldB e.bytes 16 1) == [20] && t.loc 0x40 == none &&
      (t.die 4).mode == .fenced && t.fab.ports[3].state == 8) = true ∧
    (let s := { ready with boot := { ready.boot with failed := true } }
     gives (.clockLoss 20) s s = true) := by decide +kernel

/-- The log ring at 0xC000 with logging enabled, and a record waiting. -/
def logging : State :=
  let s := { alone with regs := tabSet (tabSet (tabSet alone.regs 0x7004 (2 ^ 17)) 0x7028 0xC000) 0x702C 0 }
  { s with logQ := [⟨5, 10, 4, 2, 2, 1, 0⟩], time := 20000000000 }

theorem witness_LogAndSteward :
    (logging.stewardFailed = false ∧ logging.atomicHome 0xC000 = true ∧ logging.rangeMapped 0xC000 32 = true ∧
     ok .logWrite logging (fun t => t.logQ == [] && t.byte 0xC008 == 5 && t.byte 0xC010 == 10 && t.reg 0x7050 == 1) = true) ∧
    ok .watchdogRestart logging (fun t => t.dep.wdogAt == 20000000000) = true ∧
    (logging.wdogDue = true ∧ ok (.watchdogExpire false) logging (fun t => t.dep.stewardDown && !t.stewardFailed) = true ∧
     (let s := { logging with dep := { logging.dep with expiries := [19000000000, 19500000000] } }
      ok (.watchdogExpire false) s (fun t => t.stewardFailed) = true)) ∧
    (let s := { logging with dep := { logging.dep with stewardDown := true } }
     s.supplement 0 = none ∧ s.supplement 1 = none ∧
     ok .stewardRestartDone s (fun t => !t.dep.stewardDown && t.reg 0x7058 == 1 && t.boot.secVer[0] == 0) = true) := by decide +kernel

/-- The maltster is down, and slot 0 of the flash holds a supplement of one word, of security version 9. -/
def supplied : State :=
  { logging with
    dep := { logging.dep with stewardDown := true }
    boot := { logging.boot with flash := [(0x80000, natLE 4 0x55535654 ++ natLE 2 1 ++ zeroB 2 ++ natLE 4 4 ++ zeroB 8 ++ natLE 4 9 ++
      natLE 4 stepping ++ zeroB 40)] } }

/-- With a signature that verifies, the slot's supplement is found. -/
theorem witness_SupplementFound (h : ∀ k g m, Config.verify k g m = true) : supplied.supplement 0 = some (0, 4) := by
  unfold State.supplement
  exact if_pos ⟨by decide +kernel, by decide +kernel, by decide +kernel, by decide +kernel, by decide +kernel, by decide +kernel,
    by decide +kernel, by decide +kernel, by decide +kernel, by decide +kernel, by decide +kernel, h _ _ _⟩

/-- Three power stages of quadrant 0 are in service, die 1 is fenced, and a gyle has passed 1,000 ticks with waits of die 2. -/
def metered : State :=
  let s := ((alone.setReg 0x8000 0x7).setReg 0x8004 3600).updDie 1 (fun d => { d with mode := .fenced })
  { s with led := { s.led with
      tick := 1000, span := 1000, waits := s.led.waits.set 2 500
      frames := s.led.frames.set 0 [54000, 1000, 800, 0, 0, 0, 1000, 0, 0, 0, 60, 60] } }

theorem witness_LedgerTickCredits :
    metered.fenced 1 = true ∧ metered.fenced 0 = false ∧
    ok (.ledgerTick [(0, 1, 70)]) metered (fun t => t.led.tick == 1001 && t.led.energy == 800000000 && t.reg 0x80B0 == 0 &&
      decide (t.led.credit[0] = (fld (metered.reg 0x800C) 0 8 : Nat) * tickShare metered 0) &&
      decide (t.led.credit[1] = 10 ^ 30)) = true := by decide +kernel

theorem witness_GyleSetsPace :
    metered.led.own = 1024 ∧ metered.led.paced = false ∧ ok .gyleEnd metered (fun t => t.led.own == 1024 && t.led.tick == 0) = true ∧
    (let s := { metered with led := { metered.led with acted := metered.led.acted.set 3 7 } }
     s.led.paced = true ∧ s.led.nextPace = 512 ∧
     ok .gyleEnd s (fun t => t.led.own == 512 && t.led.tick == 0 && fld (t.reg 0x8000) 16 11 == 512 &&
      decide (t.setpoint 0 = fld (t.reg 0x8040) 0 7)) = true) := by decide +kernel

theorem witness_AdmissionAndThrottles :
    (let s := runsIn ready (word 2 0) (fun d => { d with stall := .admission })
     (s.die 0).instrAt.isSome = true ∧ (s.die 0).instrAt.any (fun w => s.admits 0 (iCls w) (s.estOf 0 w)) = true ∧
     ok (.admissionGrant 0) s (fun t => (t.die 0).stall == .none && (t.die 0).admitted) = true) ∧
    (let s := runsIn { ready with led := { ready.led with credit := ready.led.credit.set 0 (-1) } } (word 4 0 (64 * 2 ^ 34)) (fun d => { d with stall := .admission })
     (s.die 0).instrAt.any (fun w => !s.admits 0 (iCls w) (s.estOf 0 w)) = true ∧ gives (.admissionGrant 0) s s = true) ∧
    (let s := { ready with led := { ready.led with episodes := [⟨5, 10, 20⟩], now := 37 } }
     ok (.throttleEpisodeEnd 5) s (fun t => t.led.episodes == [] && t.host.heldQ.map (fun e => fieldB e.bytes 20 4) == [11]) = true) ∧
    ok (.railHardLimit 2 1) ready (fun t => t.led.halved[9]) = true ∧
    ok (.droopDetect 4) ready (fun t => t.led.stretched[4] && fld (t.reg 0x8050) 12 20 == 1) = true ∧
    ok (.droopRecover 4) { ready with led := { ready.led with stretched := ready.led.stretched.set 4 true } } (fun t => !t.led.stretched[4]) = true ∧
    (let s := ready.updDie 0 (fun d => { d with spreadHold := true })
     s.led.releasedAt + s.spreadDelay 0 ≤ s.time ∧ ok (.spreadHoldExpire 0) s (fun t => !(t.die 0).spreadHold) = true) := by decide +kernel

theorem witness_CapsAndStages :
    ok (.brakeAssert true) ready (fun t => t.led.brake && fld (t.reg 0x8040) 0 7 == 16 && bitAt (t.reg 0x8000) 14) = true ∧
    (let s := { ready with time := 5, led := { ready.led with brake := true, brakePin := true } }
     ok (.pwrBrakeNRelease true) s (fun t => !t.led.brakePin && t.led.brakeAt == 5) = true ∧
     ok .brakeRelease { s with time := 200000, led := { s.led with brakePin := false } } (fun t => !t.led.brake) = true) ∧
    (let s := { ready with led := { ready.led with hot := ready.led.hot.set 1 true } }
     s.led.hot[0] = false ∧ s.led.cool[0] = true ∧
     ok (.thermalCapStep 1) s (fun t => t.led.thermal[1] == 63) = true ∧
     ok (.thermalCapStep 0) { s with led := { s.led with thermal := s.led.thermal.set 0 40 } } (fun t => t.led.thermal[0] == 41) = true ∧
     ok (.thermalCapStep 0) { s with led := { s.led with
       cool := s.led.cool.set 0 false
       thermal := s.led.thermal.set 0 40 } } (fun t => t.led.thermal[0] == 40) = true) ∧
    (ready.stewardFailed = false ∧ fld (ready.reg 0x8044) 7 5 < 20 ∧
     ok (.ageingCheck 1 29) ready (fun t => fld (t.reg 0x8044) 7 5 == 1 && t.boot.dueTrims == [1]) = true ∧
     (let s := ready.setReg 0x8044 (20 * 2 ^ 7)
      ok (.ageingCheck 1 29) s (fun t => t.led.ageing[1] == 63 && bitAt (t.reg 0x8000) 13) = true)) ∧
    ok (.refclkLoss 2) { ready with boot := { ready.boot with refs := Vector.replicate 3 true } } (fun t => !t.boot.refs[2] && bitAt (t.reg 0x8000) 12) = true ∧
    (let s := (((ready.setReg 0x8018 0xB000).setReg 0x801C 0).write 0xB000 (natLE 4 7))
     ok .loadEst s (fun t => t.led.est.headD 0 == 7 && t.led.est.length == 32) = true ∧
     ok .loadEst (s.write 0xB07C [1]) (fun t => t.led.est.headD 0 == 550 && bitAt (t.reg 0x8000) 27) = true) ∧
    (let s := ready.setReg 0x8000 0x7
     ok (.powerStageFrame 1 [54000, 1, 2] false) s (fun t => t.led.frames[1] == [54000, 1, 2, 0, 0, 0, 0, 0, 0, 0, 0, 0]) = true ∧
     ok (.powerStageFrame 1 [] true) s (fun t => t.reg 0x8000 % 8 == 5 && t.logQ.length == 1) = true ∧
     ok (.powerStageTimeout 1 false) s (fun t => t.reg 0x8000 % 8 == 5) = true) := by decide +kernel

/-! ### Power, start-up, identity, registers, the board -/

/-- The device at step 6, held in SYS_RESET_N with its reference clock valid. -/
def heldInReset : State :=
  let s := State.reset
  { s with boot := { s.boot with powered := true, step := 6, sysReset := true, refs := s.boot.refs.set 0 true } }

theorem witness_PowerAndResets :
    (State.reset.boot.powered = false ∧ State.reset.boot.trip = false ∧ State.reset.led.brakePin = false ∧
     ok (.powerOn [(5, [1])]) State.reset (fun t => t.boot.powered && t.boot.step == 5 && t.flash 5 1 == [1]) = true) ∧
    (let s := { State.reset with boot := { State.reset.boot with trip := true } }
     gives (.powerOn []) s s = true ∧ ok .inputBelow30V { s with boot := { s.boot with powered := true } } (fun t => !t.boot.trip) = true) ∧
    ok .inputOutOfRange (ready.write 5 [1]) (fun t => !t.boot.powered && t.mem == []) = true ∧
    (∀ c ∈ [(0, 110), (2, 105), (3, 105), (5, 125)],
      ok (.thermalTrip c.1 (c.2 + 1)) ready (fun t => t.boot.trip && !t.boot.powered) = true ∧
      gives (.thermalTrip c.1 c.2) ready ready = true) ∧
    ok .coldReset (ready.setReg 0x8000 0x1FF) (fun t => t.boot.sysReset && t.boot.step == 6 && !t.ready && t.reg 0x8000 % 4096 == 0x1FF)
      = true ∧
    ((heldInReset.boardFlash []).pickCopy = none ∧
     ok (.sysResetRelease []) heldInReset (fun t => fld (t.reg 0x1000) 0 4 == 8 && fld (t.reg 0x1000) 16 8 == 1) = true) ∧
    (PastWaits ready ∧ ok (.referenceClockValid 2) ready (fun t => t.boot.refs[2]) = true ∧
     ok (.tapInstruction 1) ready (fun t => t.boot.tap == 1) = true ∧ ok (.tapInstruction 2) ready (fun t => t.boot.tap == 0) = true) := by
  unfold PastWaits; decide +kernel

/-- The device at step 20 with eleven parts of memory written, the deep tier of quadrant 2 left. -/
def lastPart : State :=
  let s := (ready.setReg 0x1000 6).setReg 0x3000 0xFBF
  { s with boot := { s.boot with step := 20 } }

/-- The device at step 14, no die's block read. -/
def negotiating : State :=
  let s := ready.setReg 0x1000 5
  { s with
    boot := { s.boot with step := 14 }
    haf := { s.haf with dies := (List.range 100).map (fun i => (i, { HafDie.reset with state := 1 })) } }

theorem witness_StartUpWaits :
    (lastPart.boot.step = 20 ∧ bitAt (lastPart.reg 0x3000) 6 = false ∧ (lastPart.reg 0x3000 ||| 2 ^ 6) = 0xFFF ∧
     ok (.memoryInitDone 1 2) lastPart (fun t => t.ready && t.boot.step == 21 && bitAt (t.reg 0x30) 0) = true) ∧
    gives (.mgmtFrame 7 0 [1, 2] (crc16 [1, 2])) ready (ready.emit (.mgmt 7 0 [])) = true ∧
    gives (.mgmtFrame 7 0 [1, 2] (crc16 [1, 2] + 1)) ready ready = true ∧
    (negotiating.boot.step = 14 ∧ (negotiating.hafDie 5).state = 1 ∧ (negotiating.hafDie 5).cap = [] ∧
     ok (.mgmtFrame 5 0 (List.replicate 64 3) (crc16 (List.replicate 64 3))) negotiating (fun t => (t.hafDie 5).cap == List.replicate 64 3) = true ∧
     ok (.selectionEchoTimeout 5) negotiating (fun t => (t.hafDie 5).state == 5 && (t.hafDie 6).state == 1) = true) := by decide +kernel

theorem other_waits : OtherWaits negotiating 5 := ⟨6, by decide +kernel⟩

/-- A request of a code with its length, the rest zero. -/
def request (code len : Nat) : List Byte := natLE 1 code ++ zeroB 3 ++ natLE 4 len ++ zeroB (len - 8)

theorem witness_AttestationAndWear :
    (∀ r ∈ [(1, 8), (2, 41), (3, 72)], Request ready (request r.1 r.2) r.2) ∧
    gives (.getCertificates (request 1 9)) ready (ready.respond 1 3 []) = true ∧
    gives (.extend (request 3 72)) (ready.setReg 0x1000 7) ((ready.setReg 0x1000 7).respond 3 2 []) = true ∧
    gives (.measure (putB (request 2 41) 2 1 9)) ready (ready.respond 2 1 []) = true ∧
    ok (.getCertificates (request 1 8)) ready (fun t => t.out.length == 1) = true ∧
    ok (.measure (request 2 41)) ready (fun t => t.freeCtr == 1) = true ∧
    gives (.reservedAttestationCode 9 ) ready (ready.respond 9 1 []) = true ∧
    ok .doeAbort { ready with host := { ready.host with doeErr := true } } (fun t => !t.host.doeErr) = true ∧
    ok .serviceHours ready (fun t => t.boot.hours == 24 && t.boot.dueHours) = true ∧
    (let s := { ready with boot := { ready.boot with dueHours := true } }
     s.identityOk = true ∧ s.dep.stewardDown = false ∧ s.stewardFailed = false ∧ s.newLanes = [] ∧ s.boot.dueTrims = [] ∧
     s.boot.block < 64 ∧ ok .wearRecordWrite s (fun t => t.boot.block == 1 && t.boot.seq == 1 && !t.boot.dueHours) = true) := by
  unfold Request; decide +kernel

theorem witness_RegistersAndBoard :
    (∀ off ∈ [0x10008, 0x8004], off % 4 = 0 ∧ ownWrite off = false ∧ (regRow? off).isSome = true) ∧
    ok (.registerWrite 0x10008 77) ready (fun t => t.reg 0x10008 == 77) = true ∧
    ok (.registerWrite 0x4028 5) (ready.setReg 0x4028 (2 ^ 19)) (fun t => fld (t.reg 0x4028) 16 4 == 7 && fld (t.reg 0x4028) 0 4 == 5) = true ∧
    (let s := { ready with fab := { ready.fab with mapHop := 9 } }
     fld (s.reg 0x402C) 0 16 = 0 ∧ ok (.registerWrite 0x402C 5) s (fun t => fld (t.reg 0x402C) 0 16 == 5 && t.fab.mapHop == 0) = true) ∧
    gives (.registerWrite 0x10008 77) State.reset State.reset = true ∧
    (let s := { (ready.setReg 0x80B0 7).setReg 0x80B4 8 with time := 2 ^ 33 + 5 }
     ok (.counterLoRead false) s (fun t => t.out == [.bar0 5] && t.latch.1 == 2) = true ∧
     ok (.counterLoRead true) s (fun t => t.out == [.bar0 7] && t.latch.2.1 == 8) = true ∧
     ok .bmReadEngEnergyLo s (fun t => t.out == [.bm 7] && t.latch.2.2 == 8) = true ∧
     ok .bmReadEngEnergyHi { s with latch := (1, 2, 3) } (fun t => t.out == [.bm 3]) = true) ∧
    ok .bmReadBootStatus ready (fun t => t.out == [.bm 0x37]) = true ∧ ok (.bmReadEngQpower 3) (ready.setReg 0x803C 5) (fun t => t.out == [.bm 5]) = true ∧
    (∀ v ∈ [400, 3600], ok (.bmWriteEngGrant v) ready (fun t => t.reg 0x8008 == v) = true) ∧
    (∀ v ∈ [399, 3601], ok (.bmWriteEngGrant v) ready (fun t => t.reg 0x8008 == 3600 && bitAt (t.reg 0x30) 5) = true) ∧
    ok (.bmWriteEngGrant 400) { ready with boot := { ready.boot with loaded := false } } (fun t => t.out == [.bmNack]) = true ∧
    (let s := (ready.setReg 0x30 33).setReg 0x34 1
     bitAt (s.reg 0x30) 0 = true ∧ bitAt (s.reg 0x34) 0 = true ∧ ok .bmAlertResponse s (fun t => t.out.length == 1) = true ∧
     gives .bmAlertResponse (s.setReg 0x34 2) (s.setReg 0x34 2) = true ∧
     ok (.bmClearStatus 32) s (fun t => t.reg 0x30 == 1) = true ∧ ok (.bmWriteBmAlertEn 3) s (fun t => t.reg 0x34 == 3) = true) ∧
    ok (.bmNack true) (ready.setReg 0x30 0xFF00) (fun t => t.reg 0x30 == 0xFF00 && t.out == [.bmNack]) = true := by decide +kernel

/-! ### Flits, the queue, the invariants, the product sums -/

/-- The device with the boundary of die 5 and of link die 82 in service, memory at 0x40 written. -/
def linked : State :=
  let s := ready.write 0x40 [1, 2, 3]
  { s with haf := { s.haf with dies := [(5, { HafDie.reset with state := 3, sel := (0, 0, 2, 0, 0) }), (82, { HafDie.reset with state := 3 })] } }

/-- A request's payload: address, code, tag, enables. -/
def reqFlit (kind a code en : Nat) : List Byte :=
  flitSeal (flitBody kind 0 false (natLE 6 a ++ natLE 1 code ++ zeroB 1 ++ natLE 8 en ++ natLE 4 0x77 ++ zeroB 4 ++ natLE 8 5 ++ natLE 8 6)) 0

/-- A line flit with bytes 9. -/
def nines : List Byte := List.replicate 64 9
def lineFlit (seq : Nat) : List Byte := flitSeal (flitBody 4 0 false (nines ++ rsCheck nines)) seq

theorem witness_FlitRead :
    (let f := reqFlit 1 0x44 0 0
     FlitNext linked 5 0 7 f 1 ∧ answers linked 0x44 = true ∧ linked.poisoned 0x44 = false ∧
     AnswerRoom linked (bundleKey 5 0 7) 3 ∧
     ok (.flitReadRequest 5 0 7 f) linked (fun t =>
       (t.bundle (bundleKey 5 1 7)).replay.map (fun g => (flitKind g, fieldB (flitPayload g) 0 3)) ==
         [(7, 0x10007), (5, 0x77), (4, 0x30201)]) = true) := by
  unfold FlitNext AnswerRoom; decide +kernel

theorem witness_FlitWrite :
    (let f := reqFlit 2 0x40 0 0xFF
     FlitNext linked 5 0 7 f 2 ∧ answers linked 0x40 = true ∧ flitGood (lineFlit 1) = true ∧ flitSeq (lineFlit 1) = (flitSeq f + 1) % 256 ∧
     flitKind (lineFlit 1) = 4 ∧ flitPoison (lineFlit 1) = false ∧ rsDecode (flitPayload (lineFlit 1)) = some nines ∧
     ok (.flitWriteRequest 5 0 7 f (lineFlit 1)) linked (fun t => t.bytes 0x40 64 == List.replicate 8 9 ++ zeroB 56) = true) := by
  unfold FlitNext; decide +kernel

theorem witness_FlitOthers :
    (let f := reqFlit 3 0x40 6 0
     FlitNext linked 5 0 7 f 3 ∧ ok (.flitAtomicRequest 5 0 7 f) linked (fun t => t.homeQ.map (fun q => (q.code, q.op1, q.op2)) == [(6, 5, 6)]) = true) ∧
    (let f := flitSeal (flitBody 5 1 false (natLE 4 0x77 ++ natLE 4 0 ++ natLE 8 9)) 0
     FlitNext linked 5 1 7 f 5 ∧ ok (.flitCompletion 5 1 7 f) linked (fun t => t.out.head? == some (.done 0x77 0 9)) = true) ∧
    (let w := sliceB (flitSeal (flitBody 5 1 false (natLE 4 0x77 ++ natLE 4 0x100 ++ natLE 8 9)) 0) 0 72
     let s := linked.setBundle (bundleKey 5 1 7) { Bundle.reset with expect := 1, want := some w }
     FlitNext s 5 1 7 (lineFlit 1) 4 ∧ flitKind w = 5 ∧
     ok (.flitLine 5 1 7 (lineFlit 1)) s (fun t => t.out.head? == some (.line nines false)) = true) ∧
    (let f := flitSeal (flitBody 6 2 false nines) 0
     FlitNext linked 82 0 7 f 6 ∧ partsOf linked 82 0 7 = [] ∧
     ok (.flitSlotPart 82 0 7 f) linked (fun t => (partsOf t 82 0 7).map Prod.fst == [3]) = true) ∧
    (let f := flitSeal (flitBody 7 3 false (natLE 4 (9 + 2 * 2 ^ 16 + 3 * 2 ^ 25))) 0
     let k := bundleKey 5 1 9
     let s := linked.setBundle k { Bundle.reset with next := 3, credits := 5, replay := [0, 1, 2].map (flitSeal (flitBody 4 0 false nines)) }
     FlitNext s 5 0 7 f 7 ∧ k ≠ reverseKey (bundleKey 5 0 7) ∧ (s.bundle k).replay.any (fun f => flitSeq f == 2) = true ∧
     ok (.flitAck 5 0 7 1 f) s (fun t => (t.bundle k).replay.map flitSeq == [2] && (t.bundle k).credits == 8) = true) := by
  unfold FlitNext; decide +kernel

theorem witness_FlitFailuresAndSpares :
    (let f := putB (lineFlit 0) 9 1 1
     linked.takesFlits 5 0 7 = true ∧ flitGood f = false ∧ linked.freeSpares 5 0 ≠ 0 ∧
     ok (.flitCrcFailure 5 0 7 f) linked (fun t => (t.bundle (bundleKey 5 0 7)).naks == 1 && (t.hafDie 5).crc == 1) = true ∧
     (let s := linked.setBundle (bundleKey 5 0 7) { Bundle.reset with naks := 7, discard := true }
      ok (.flitCrcFailure 5 0 7 f) s (fun t => (t.bundle (bundleKey 5 0 7)).testing && (t.hafDie 5).retired == 1) = true)) ∧
    (let s := linked.setBundle (bundleKey 5 0 7) { Bundle.reset with testing := true }
     ok (.spareBundleTestEnd 5 0 7 true) s (fun t => !(t.bundle (bundleKey 5 0 7)).testing && (t.hafDie 5).used == (1, 0)) = true ∧
     2 ≤ s.freeSpares 5 0 ∧ ok (.spareBundleTestEnd 5 0 7 false) s (fun t => (t.hafDie 5).bad == (1, 0)) = true) := by decide +kernel

/-- R193: the line of nines has a check, and two wrong symbols are corrected. -/
theorem witness_LineCodeDecodes : nines.length = 64 ∧ rsDecode (nines ++ rsCheck nines) = some nines ∧ (rsCheck nines).length = 4 := by decide +kernel

theorem witness_StepTakesFront :
    (let s := { ready with pending := [.doeAbort, .serviceHours] }
     s.pending = .doeAbort :: [.serviceHours] ∧
     (match step s with | .next t => t.pending == [.serviceHours] | _ => false) = true) ∧
    (ready.pending = [] ∧ ready.homeNext = none ∧ (match step ready with | .next t => t.time == ready.time + 1 | _ => false) = true) ∧
    -- a read that waits behind an atomic already performed is answered as time passes
    (let s := { ready with homeQ := [⟨8, 0x40, 0, 0, whoHome 0, .read []⟩] }
     s.homeNext.isSome = true ∧ (match step s with | .next t => t.homeQ == [] && t.out.length == 1 | _ => false) = true) := by decide +kernel

theorem witness_ExecKeepsQueue :
    gives .doeAbort { ready with pending := [.serviceHours] } { ready with pending := [.serviceHours] } = true := by decide +kernel

theorem reset_invariants : MemCanonical State.reset ∧ P0True State.reset := by
  unfold MemCanonical P0True; decide +kernel

theorem witness_StepKeepsInvariants : MemCanonical linked ∧ P0True linked ∧ linked.mem ≠ [] ∧
    (match step linked with | .next _ => true | _ => false) = true := by
  unfold MemCanonical P0True; decide +kernel

theorem witness_ExactProductSums :
    (∀ p ∈ [(0x3C00, 0xBC00), (0x7BFF, 0x7BFF), (1, 1)], fld p.1 10 5 ≠ 31 ∧ fld p.2 10 5 ≠ 31) ∧
    productSum false [(0x3C00, 0xBC00), (0x7BFF, 0x7BFF), (1, 1)] = .exact (65504 * 65504 * 2 ^ 48 - 2 ^ 48 + 1) := by decide +kernel

/-! ### Well-formedness: for each check an ill-formed command, refused -/

/-- 64 and 68 and 72 zero bytes. -/
abbrev z64 : List Byte := zeroB 64
abbrev z68 : List Byte := zeroB 68
abbrev z72 : List Byte := zeroB 72

theorem smoke_refused_compute :
    [Instr.startProgram 8192, .homeRead (2 ^ 48) z68, .homeRead 0 z64, .homeWrite (2 ^ 48) [1] false, .homeWrite 0 [] false,
      .homeWrite 63 [1, 2] false, .laneTestEnd 64 0 [] z68, .laneTestEnd 0 96 [] z68, .laneTestEnd 0 0 [136] z68,
      .laneTestEnd 0 0 [] z64, .atomicBufferWriteback (2 ^ 48), .scrubRead 104 z68, .scrubRead 0 z64].all (fun i => !i.wf) = true := by decide

theorem smoke_refused_registers :
    [Instr.registerWrite 2 0, .registerWrite 0x20000 0, .registerWrite 0 (2 ^ 32), .memScrubWrite (2 ^ 32),
      .identitySlot 0 (2 ^ 20) 0 0, .identitySlot 0 0 8 0, .identitySlot 0 0 0 16, .laneDropSlot 0 16, .msixUnmask ⟨2048, 0, 0, false⟩,
      .msixUnmask ⟨0, (2 ^ 64), 0, false⟩, .msixUnmask ⟨0, 2, 0, false⟩,
      .lostAdd (2 ^ 20), .clockLoss 100].all (fun i => !i.wf) = true := by decide

theorem smoke_refused_links :
    [Instr.slotReceive 0 (stripe 4 z64) 0 0, .slotReceive 0 (stripe 4 (zeroB 272)) (2 ^ 32) 0, .slotReceive 0 (stripe 2 (zeroB 272)) 0 0,
      .slotReceive 0 [zeroB 272, [], []] 0 0, .doorbellSnoop 512, .doorbellLineReturn 512 z64 false,
      .doorbellLineReturn 0 z68 false, .descriptorReturn 8192 z64 false, .descriptorReturn 0 z68 false,
      .flitReadRequest 5 2 0 z72, .flitReadRequest 5 0 3456 z72, .flitReadRequest 5 1 2304 z72, .flitReadRequest 12 0 125 z72,
      .flitReadRequest 80 0 24 z72, .flitReadRequest 16 0 0 z72, .flitReadRequest 5 0 0 z68, .flitWriteRequest 5 0 0 z72 z68,
      .flitAck 5 0 0 1 z68, .spareBundleTestEnd 16 0 0 true, .mgmtFrame 100 0 [] 0, .mgmtFrame 0 0 [] (2 ^ 16)].all (fun i => !i.wf) = true := by
  decide +kernel

theorem smoke_refused_energy :
    [Instr.powerStageFrame 0 [1] false, .ledgerTick [(6, 0, 40)], .throttleEpisodeEnd 0, .throttleEpisodeEnd 11, .thermalTrip 6 0,
      .cxlLinkTrainingDone 2 1 false .off, .cxlLinkTrainingDone 4 0 false .off, .cxlLinkTrainingDone 4 4 false .off,
      .reservedAttestationCode 128, .reservedAttestationCode 3].all (fun i => !i.wf) = true := by decide

theorem smoke_accepted :
    [Instr.nop 0 0, .homeWrite 63 [1] false, .laneTestEnd 63 95 [135] z68, .registerWrite 0x8044 7, .flitReadRequest 5 0 3455 z72,
      .flitReadRequest 87 1 23 z72, .thermalTrip 5 126, .reservedAttestationCode 4, .slotReceive 0 (stripe 4 (zeroB 272)) 0 0].all (fun i => i.wf) = true := by
  decide +kernel

theorem witness_wake :
    (let p : Packet := { aPacket 0x08 0 256 [0] with ordered := false }
     let s := runsIn inMesh (word 0 0) (fun d => { d with stall := .semAcq none 0x40 2 .wake 7 })
     let s := { s with fab := { s.fab with eject := s.fab.eject.set 3 [(p, false)] } }
     s.fab.eject[3] = (p, false) :: [] ∧ p.type = 0x08 ∧ fld (fieldB p.payload 0 1) 0 4 = 0 ∧
     ok (.wake 3) s (fun t => t.fab.eject[3] == [] && t.homeQ.map (fun q => (q.code, q.addr, q.op1)) == [(5, 0x40, 2)]) = true) := by
  decide +kernel

end Sys2Proof.Tests
end

section
/-! PROOF. Exact sums of F16 products (R34 to R41). Every finite F16 value is a whole number of units of 2^-24, so a product
is a whole number of units of 2^-48 and enters an X128 addition in the tag-0 form. The tag-0 range has room for 2^46 of
the largest products, so no addition on the way clamps, and the accumulator holds a sum of integers. -/

namespace Sys2Proof.Proofs.ExactSums

open Sys2Proof.Machine Sys2Proof.Claims

/-- The largest product of two F16 values, 65,504², in units of 2^-48. -/
def maxProductUnits : Int := 65504 ^ 2 * 2 ^ 48

/-- The product of a pair of F16 patterns in units of 2^-48. -/
def productUnits (p : Nat × Nat) : Int := f16Units p.1 * f16Units p.2

/-! ### Finite F16 values in units of 2^-24 -/

/-- R27, R28 for F16: a subnormal has the exponent of exponent field 1 and no leading one. -/
theorem ffDecode_f16_eq {b ex : Nat} (hb : b / 2 ^ 10 % 2 ^ 5 = ex) (h : ex ≠ 31) :
    ffDecode ffF16 b =
      if 0 ≤ (if ex = 0 then (1 : Int) else ex) - (15 : Nat) - (10 : Nat) then
        .fin (b / 2 ^ (10 + 5) % 2 == 1) ((if ex = 0 then b % 2 ^ 10 else b % 2 ^ 10 + 2 ^ 10) *
          2 ^ ((if ex = 0 then (1 : Int) else ex) - (15 : Nat) - (10 : Nat)).toNat) 1
      else .fin (b / 2 ^ (10 + 5) % 2 == 1) (if ex = 0 then b % 2 ^ 10 else b % 2 ^ 10 + 2 ^ 10)
        (2 ^ (-((if ex = 0 then (1 : Int) else ex) - (15 : Nat) - (10 : Nat))).toNat) := by
  subst hb
  exact if_neg h

/-- A finite pattern denotes m × 2^(e − 24) with an 11-bit significand m, where e is the exponent field less 1, or 0 in a
subnormal. -/
theorem ffDecode_f16_eq_dyadic {b : Nat} (h : fld b 10 5 ≠ 31) :
    ∃ neg m e, ffDecode ffF16 b = (if 24 ≤ e then .fin neg (m * 2 ^ (e - 24)) 1 else .fin neg m (2 ^ (24 - e))) ∧
      m ≤ 2047 ∧ e ≤ 29 := by
  have hfrac : b % 2 ^ 10 < 2 ^ 10 := Nat.mod_lt _ (by decide)
  obtain ⟨ex, hb⟩ : ∃ ex, b / 2 ^ 10 % 2 ^ 5 = ex := ⟨_, rfl⟩
  have hlt : ex < 32 := hb ▸ Nat.mod_lt _ (by decide)
  have hex : ex ≠ 31 := by simpa [fld, Nat.shiftRight_eq_div_pow, ← hb] using h
  rw [ffDecode_f16_eq hb hex]
  cases ex with
  | zero => exact ⟨_, b % 2 ^ 10, 0, rfl, by omega, by omega⟩
  | succ e =>
    refine ⟨b / 2 ^ (10 + 5) % 2 == 1, b % 2 ^ 10 + 2 ^ 10, e, ?_, by omega, by omega⟩
    have hexp : ((e + 1 : Nat) : Int) - (15 : Nat) - (10 : Nat) = (e : Int) - 24 := by omega
    simp only [Nat.succ_ne_zero, if_false, hexp]
    by_cases h24 : 24 ≤ e
    · rw [if_pos (by omega), if_pos h24, show ((e : Int) - 24).toNat = e - 24 by omega]
    · rw [if_neg (by omega), if_neg h24, show (-((e : Int) - 24)).toNat = 24 - e by omega]

/-- The denominator divides 2^24, and the magnitude is at most 65,504. -/
theorem ffDecode_f16_of_finite {b : Nat} (h : fld b 10 5 ≠ 31) :
    ∃ neg num den k, ffDecode ffF16 b = .fin neg num den ∧ den * k = 2 ^ 24 ∧ num * k ≤ 65504 * 2 ^ 24 := by
  obtain ⟨neg, m, e, hval, hm, he⟩ := ffDecode_f16_eq_dyadic h
  have hpow : 2 ^ e ≤ 2 ^ 29 := Nat.pow_le_pow_right (by decide) he
  have hbound : m * 2 ^ e ≤ 65504 * 2 ^ 24 := (Nat.mul_le_mul hm hpow).trans (by norm_num)
  by_cases h24 : 24 ≤ e
  · refine ⟨neg, m * 2 ^ (e - 24), 1, 2 ^ 24, by rw [hval, if_pos h24], by norm_num, ?_⟩
    rwa [mul_assoc, ← pow_add, Nat.sub_add_cancel h24]
  · exact ⟨neg, m, 2 ^ (24 - e), 2 ^ e, by rw [hval, if_neg h24], by rw [← pow_add]; congr 1; omega, hbound⟩

theorem abs_sgn (neg : Bool) (n : Nat) : |sgn neg n| = n := by
  cases neg <;> simp [sgn]

theorem sgn_xor_mul (x y : Bool) (m n : Nat) : sgn (x != y) (m * n) = sgn x m * sgn y n := by
  cases x <;> cases y <;> simp [sgn]

/-- A magnitude of denominator den is num × k whole units of 1 / (den × k). -/
theorem mul_div_of_mul_eq {num den k u : Nat} (hk : den * k = u) (hu : 0 < u) : num * u / den = num * k := by
  subst hk
  rw [Nat.mul_left_comm, Nat.mul_div_cancel_left _ (Nat.pos_of_mul_pos_right hu)]

theorem f16Units_of_ffDecode {b num den k : Nat} {neg : Bool} (hval : ffDecode ffF16 b = .fin neg num den)
    (hk : den * k = 2 ^ 24) : f16Units b = sgn neg (num * k) := by
  have helem : elemVal .f16 b = .fin neg num den := hval
  simp only [f16Units, helem, mul_div_of_mul_eq hk (by norm_num), sgn]

theorem ratOf_fin (neg : Bool) {num den k u : Nat} (hk : den * k = u) (hu : 0 < u) :
    ratOf (.fin neg num den) * u = (sgn neg (num * k) : Int) := by
  subst hk
  have hd : (den : Rat) ≠ 0 := Nat.cast_ne_zero.mpr (Nat.pos_of_mul_pos_right hu).ne'
  cases neg <;> simp [ratOf, sgn] <;> field_simp

theorem ratOf_f16 {b : Nat} (h : fld b 10 5 ≠ 31) : ratOf (ffDecode ffF16 b) * 2 ^ 24 = f16Units b := by
  obtain ⟨neg, num, den, k, hval, hk, -⟩ := ffDecode_f16_of_finite h
  rw [hval, f16Units_of_ffDecode hval hk, ← ratOf_fin neg hk (by norm_num)]
  norm_num

/-! ### The conversion into X128 -/

/-- R41: a magnitude in units of 2^-48 within the tag-0 range takes the tag-0 form. -/
theorem xOfVal_fin_eq_exact (strict : Bool) (dir : Dir) (neg : Bool) {num den k : Nat} (hk : den * k = 2 ^ 48)
    (hn : num * k < 2 ^ 126) : xOfVal strict dir (.fin neg num den) = (.exact (sgn neg (num * k)), Ev.none) := by
  have hscale : scaleDown num den (-48) = (num * 2 ^ 48, den) := rfl
  have hround : roundAt .zero neg num den (-48) = num * k := by
    simp only [roundAt, roundMag, hscale, mul_div_of_mul_eq hk (by norm_num)]
    simp
  have hexact : exactAt num den (-48) = true := by
    simp only [exactAt, hscale, ← hk]
    simp [Nat.mul_left_comm num]
  have hrange : -(2 ^ 126 : Int) ≤ sgn neg (num * k) ∧ sgn neg (num * k) ≤ 2 ^ 126 - 1 := by
    cases neg <;> simp only [sgn] <;> omega
  simp only [xOfVal, hround, hexact]
  rw [if_pos]
  · rfl
  · simpa [sgn] using hrange

/-! ### Products of finite F16 values -/

/-- The product as `vMul` gives it: its magnitude in units of 2^-48 is that of `productUnits`. -/
theorem vMul_f16_of_finite {p : Nat × Nat} (h1 : fld p.1 10 5 ≠ 31) (h2 : fld p.2 10 5 ≠ 31) :
    ∃ neg num den k, vMul (ffDecode ffF16 p.1) (ffDecode ffF16 p.2) = .fin neg num den ∧ den * k = 2 ^ 48 ∧
      num * k ≤ 65504 ^ 2 * 2 ^ 48 ∧ productUnits p = sgn neg (num * k) := by
  obtain ⟨n1, m1, d1, k1, hval1, hk1, hle1⟩ := ffDecode_f16_of_finite h1
  obtain ⟨n2, m2, d2, k2, hval2, hk2, hle2⟩ := ffDecode_f16_of_finite h2
  have hunits : m1 * m2 * (k1 * k2) = m1 * k1 * (m2 * k2) := Nat.mul_mul_mul_comm ..
  refine ⟨n1 != n2, m1 * m2, d1 * d2, k1 * k2, by rw [hval1, hval2]; rfl, ?_, ?_, ?_⟩
  · rw [Nat.mul_mul_mul_comm, hk1, hk2, ← pow_add]
  · rw [hunits]
    exact (Nat.mul_le_mul hle1 hle2).trans (by norm_num)
  · rw [hunits, sgn_xor_mul, productUnits, f16Units_of_ffDecode hval1 hk1, f16Units_of_ffDecode hval2 hk2]

theorem abs_productUnits_le {p : Nat × Nat} (h1 : fld p.1 10 5 ≠ 31) (h2 : fld p.2 10 5 ≠ 31) :
    |productUnits p| ≤ maxProductUnits := by
  obtain ⟨neg, num, den, k, -, -, hle, hunits⟩ := vMul_f16_of_finite h1 h2
  rw [hunits, abs_sgn, maxProductUnits]
  exact_mod_cast hle

/-- A product of finite F16 values enters an addition in the tag-0 form, in either mode. -/
theorem xOfVal_vMul_f16 (strict : Bool) (dir : Dir) {p : Nat × Nat} (h1 : fld p.1 10 5 ≠ 31) (h2 : fld p.2 10 5 ≠ 31) :
    (xOfVal strict dir (vMul (ffDecode ffF16 p.1) (ffDecode ffF16 p.2))).1 = .exact (productUnits p) := by
  obtain ⟨neg, num, den, k, hval, hk, hle, hunits⟩ := vMul_f16_of_finite h1 h2
  rw [hval, hunits, xOfVal_fin_eq_exact strict dir neg hk (hle.trans_lt (by norm_num))]

theorem productUnits_eq_ratOf_mul {p : Nat × Nat} (h1 : fld p.1 10 5 ≠ 31) (h2 : fld p.2 10 5 ≠ 31) :
    (productUnits p : Rat) = 2 ^ 48 * (ratOf (ffDecode ffF16 p.1) * ratOf (ffDecode ffF16 p.2)) := by
  rw [productUnits, Int.cast_mul, ← ratOf_f16 h1, ← ratOf_f16 h2]
  ring

/-! ### Sums -/

/-- R39 within the range: the tag-0 sum is the integer sum. -/
theorem xAdd_exact (strict : Bool) {u v : Int} (h : |u + v| < 2 ^ 126) :
    (xAdd strict (.exact u) (.exact v)).1 = .exact (u + v) := by
  obtain ⟨hlo, hhi⟩ := abs_lt.mp h
  have hrange : -(2 ^ 126 : Int) ≤ u + v ∧ u + v ≤ 2 ^ 126 - 1 := ⟨hlo.le, by omega⟩
  exact congrArg Prod.fst (if_pos hrange)

section
variable {l : List (Nat × Nat)}

theorem abs_sum_productUnits_le (hf : FiniteF16 l) : |(l.map productUnits).sum| ≤ l.length * maxProductUnits := by
  induction l with
  | nil => simp
  | cons p t ih =>
    obtain ⟨⟨h1, h2⟩, ht⟩ := List.forall_mem_cons.mp hf
    have hp := abs_productUnits_le h1 h2
    have htail := ih ht
    rw [List.map_cons, List.sum_cons, List.length_cons]
    calc |productUnits p + (t.map productUnits).sum|
        ≤ |productUnits p| + |(t.map productUnits).sum| := abs_add_le ..
      _ ≤ maxProductUnits + t.length * maxProductUnits := add_le_add hp htail
      _ = ((t.length + 1 : Nat) : Int) * maxProductUnits := by push_cast; ring

/-- 2^46 products of the largest magnitude stay within the tag-0 range, because 65,504² is below 2^32. -/
theorem mul_maxProductUnits_lt {n : Nat} (hn : n ≤ 2 ^ 46) : (n : Int) * maxProductUnits < 2 ^ 126 := by
  unfold maxProductUnits
  omega

theorem abs_sum_productUnits_lt (hf : FiniteF16 l) (hlen : l.length ≤ 2 ^ 46) :
    |(l.map productUnits).sum| < 2 ^ 126 :=
  (abs_sum_productUnits_le hf).trans_lt (mul_maxProductUnits_lt hlen)

theorem sum_productUnits_eq (hf : FiniteF16 l) : ((l.map productUnits).sum : Rat) =
    2 ^ 48 * (l.map (fun p => ratOf (ffDecode ffF16 p.1) * ratOf (ffDecode ffF16 p.2))).sum := by
  rw [Int.cast_list_sum, List.map_map, ← List.sum_map_mul_left]
  exact congrArg List.sum (List.map_congr_left fun p hp => productUnits_eq_ratOf_mul (hf p hp).1 (hf p hp).2)

/-- The accumulator after the products of a list is their integer sum in the tag-0 form. The last product is added to the
sum of those before it, which is again a short enough list. -/
theorem productSum_eq_exact (strict : Bool) (hf : FiniteF16 l) (hlen : l.length ≤ 2 ^ 46) :
    productSum strict l = .exact (l.map productUnits).sum := by
  induction l using List.reverseRecOn with
  | nil => rfl
  | append_singleton t p ih =>
    have hsum : (((t ++ [p]).map productUnits).sum : Int) = (t.map productUnits).sum + productUnits p := by simp
    have hlt := abs_sum_productUnits_lt hf hlen
    obtain ⟨ht, hp⟩ := List.forall_mem_append.mp hf
    obtain ⟨h1, h2⟩ := hp p (List.mem_singleton_self p)
    have hprefix := ih ht (by rw [List.length_append] at hlen; omega)
    rw [hsum] at hlt ⊢
    calc productSum strict (t ++ [p])
        = xPool strict (productSum strict t) (vMul (ffDecode ffF16 p.1) (ffDecode ffF16 p.2)) := by
          simp only [productSum, List.foldl_append, List.foldl_cons, List.foldl_nil]
      _ = .exact ((t.map productUnits).sum + productUnits p) := by
          rw [hprefix, xPool, xOfVal_vMul_f16 strict .nearest h1 h2, xAdd_exact strict hlt]

theorem productSum_perm (strict : Bool) {m : List (Nat × Nat)} (hf : FiniteF16 l) (hlen : l.length ≤ 2 ^ 46)
    (hperm : l.Perm m) : productSum strict m = productSum strict l := by
  have hfm : FiniteF16 m := fun p hp => hf p (hperm.mem_iff.mpr hp)
  rw [productSum_eq_exact strict hf hlen, productSum_eq_exact strict hfm (hperm.length_eq ▸ hlen),
    (hperm.map productUnits).sum_eq]

theorem xAdd_productSum (strict : Bool) {x y : List (Nat × Nat)} (hf : FiniteF16 (x ++ y))
    (hlen : (x ++ y).length ≤ 2 ^ 46) :
    (xAdd strict (productSum strict x) (productSum strict y)).1 = productSum strict (x ++ y) := by
  have hlt := abs_sum_productUnits_lt hf hlen
  obtain ⟨hx, hy⟩ := List.forall_mem_append.mp hf
  have hlens : x.length ≤ 2 ^ 46 ∧ y.length ≤ 2 ^ 46 := by rw [List.length_append] at hlen; omega
  rw [productSum_eq_exact strict hf hlen, productSum_eq_exact strict hx hlens.1, productSum_eq_exact strict hy hlens.2]
  rw [List.map_append, List.sum_append] at hlt ⊢
  exact xAdd_exact strict hlt

end

/-- Settles O60: the accumulator holds the integer sum of the products in units of 2^-48, which neither the order nor the
grouping changes. -/
theorem exactProductSums : Obligations.ExactProductSums := by
  unfold Obligations.ExactProductSums
  intro strict l hf hlen
  obtain ⟨hlo, hhi⟩ := abs_lt.mp (abs_sum_productUnits_lt hf hlen)
  refine ⟨⟨_, productSum_eq_exact strict hf hlen, hlo.le, hhi, sum_productUnits_eq hf⟩, ?_, ?_⟩
  · exact fun m hperm => productSum_perm strict hf hlen hperm
  · rintro x y rfl
    exact xAdd_productSum strict hf hlen

end Sys2Proof.Proofs.ExactSums
end

section
/-! SUPPORT. What a fault does to a sequencer (R185, R187): the ended wait, and what it leaves of the die. -/

namespace Sys2Proof.Proofs.SequencerFaults

open Sys2Proof.Machine Sys2Proof.Claims

@[simp] theorem endWait_cnt (d : Die) : d.endWait.cnt = d.cnt := by
  unfold Die.endWait
  split <;> rfl

@[simp] theorem endWait_ops (d : Die) : d.endWait.ops = d.ops := by
  unfold Die.endWait
  split <;> rfl

/-- A sequencer that waits for nothing has no wait to end. -/
theorem endWait_of_not_stalled {d : Die} (h : d.stall = .none) : d.endWait = d := by
  cases d
  subst h
  rfl

@[simp] theorem fail_cnt (d : Die) (code pc cls op unit status : Nat) :
    (d.fail code pc cls op unit status).cnt = d.cnt := by
  unfold Die.fail
  split
  · exact endWait_cnt d
  · rfl

@[simp] theorem fail_ops (d : Die) (code pc cls op unit status : Nat) :
    (d.fail code pc cls op unit status).ops = d.ops := by
  unfold Die.fail
  split
  · exact endWait_ops d
  · rfl

theorem canIssue_iff (d : Die) (w : IWord) :
    d.canIssue w = true ↔ d.mode = .running ∧ d.fault = 0 ∧ d.stall = .none ∧ d.instrAt = some w.toNat := by
  simp [Die.canIssue, and_assoc]

theorem canIssue_of_issues {d : Die} {w : IWord} {cls op : Nat} (h : d.issues w cls op = true) : d.canIssue w = true := by
  simp only [Die.issues, Bool.and_eq_true] at h
  obtain ⟨⟨⟨hcan, -⟩, -⟩, -⟩ := h
  exact hcan

/-- An issuing sequencer that faults at its own instruction stops there with the fault's code and information. -/
theorem fail_of_canIssue {d : Die} {w : IWord} (h : d.canIssue w = true) (code cls op unit status : Nat) :
    d.fail code d.pc.toNat cls op unit status = faulted d code cls op unit status := by
  obtain ⟨hmode, hfault, hstall, -⟩ := (canIssue_iff d w).mp h
  simp [Die.fail, hmode, hfault, endWait_of_not_stalled hstall, hstall, faultWord]

end Sys2Proof.Proofs.SequencerFaults
end

section
/-! PROOF. Branches (R154, Table 5-7). -/

namespace Sys2Proof.Proofs.Branches

open Sys2Proof.Machine Sys2Proof.Claims Sys2Proof.Proofs.SequencerFaults

/-- A field read as a two's-complement number is the signed value of the bits extracted. -/
theorem toSigned_fld (w : IWord) (lo n : Nat) : toSigned n (fld w.toNat lo n) = (w.extractLsb' lo n).toInt := by
  rw [BitVec.toInt_eq_toNat_cond, BitVec.extractLsb'_toNat]
  simp [toSigned, fld]

theorem ofNat_ofSigned (n : Nat) (v : Int) : BitVec.ofNat n (ofSigned n v) = BitVec.ofInt n v := by
  apply BitVec.eq_of_toNat_eq
  have hlt : (v % ((2 ^ n : Nat) : Int)).toNat < 2 ^ n := by
    have := Int.emod_lt_of_pos v (b := ((2 ^ n : Nat) : Int)) (by positivity)
    omega
  rw [BitVec.toNat_ofNat, BitVec.toNat_ofInt, ofSigned, Nat.mod_eq_of_lt hlt]

/-- The taken target in words: 16 × the sign-extended offset beyond the branch's own address. -/
theorem target_eq (d : Die) (w : IWord) :
    d.target w.toNat = d.pc + (w.extractLsb' 16 32).signExtend 48 * 16 := by
  rw [Die.target, toSigned_fld, ofNat_ofSigned, BitVec.ofInt_mul, mul_comm, BitVec.signExtend]
  rfl

/-- An enabled branch replaces its die by its effect on it. -/
theorem issueDie_ready {s : State} {cd : Cd} {w : IWord} {cls op : Nat} (h : Ready s cd w cls op) (f : Nat → Die → Die) :
    issueDie cd w cls op f s = s.setDie cd (f w.toNat (s.die cd)) :=
  issueDie_on h.1 h.2 f

theorem seqReserved_of_branch {w : Nat} (hcls : iCls w = 1) (hop : 5 ≤ iOp w) : seqReserved w = true := by
  have hnone : branchUse w = none := by
    unfold branchUse
    simp only [show ¬iOp w ≤ 1 by omega, show iOp w ≠ 2 by omega, show iOp w ≠ 3 by omega, show iOp w ≠ 4 by omega,
      if_false]
  simp [seqReserved, hcls, hnone]

section
variable {s : State} {cd : Cd} {w : IWord}

theorem execBr_ready (h : Ready s cd w 1 0) :
    execBr cd w s = .next (s.setDie cd { s.die cd with pc := (s.die cd).target w.toNat }) := by
  rw [execBr, issueDie_ready h]

theorem execCall_ready (h : Ready s cd w 1 1) : execCall cd w s =
    .next (s.setDie cd { (s.die cd).setA 15 ((s.die cd).pc + 16) with pc := (s.die cd).target w.toNat }) := by
  rw [execCall, issueDie_ready h]

theorem execJr_aligned (h : Ready s cd w 1 2) (ha : (aReg (s.die cd) (fld w.toNat 48 5)).toNat % 16 = 0) :
    execJr cd w s = .next (s.setDie cd { s.die cd with pc := aReg (s.die cd) (fld w.toNat 48 5) }) := by
  rw [execJr, issueDie_ready h]
  simp only [if_pos ha]

theorem execJr_misaligned (h : Ready s cd w 1 2) (ha : (aReg (s.die cd) (fld w.toNat 48 5)).toNat % 16 ≠ 0) :
    execJr cd w s = .next (s.setDie cd (faulted (s.die cd) 2 1 2 0 0)) := by
  rw [execJr, issueDie_ready h]
  simp only [if_neg ha]
  rw [fail_of_canIssue (canIssue_of_issues h.1)]

/-- The new value is zero exactly where the old one is 1. -/
theorem execLoop_taken (h : Ready s cd w 1 3) (hv : sReg (s.die cd) (fld w.toNat 48 5) ≠ 1) :
    execLoop cd w s = .next (s.setDie cd
      { (s.die cd).setS (fld w.toNat 48 5) (sReg (s.die cd) (fld w.toNat 48 5) - 1) with
        pc := (s.die cd).target w.toNat }) := by
  have hne : (s.die cd).getS (fld w.toNat 48 5) - 1 ≠ 0 := sub_ne_zero.mpr hv
  rw [execLoop, issueDie_ready h]
  simp only [if_neg hne]

theorem execLoop_through (h : Ready s cd w 1 3) (hv : sReg (s.die cd) (fld w.toNat 48 5) = 1) :
    execLoop cd w s = .next (andOn s cd ((s.die cd).setS (fld w.toNat 48 5) 0)) := by
  have hzero : (s.die cd).getS (fld w.toNat 48 5) - 1 = 0 := sub_eq_zero.mpr hv
  rw [execLoop, issueDie_ready h]
  simp only [hzero, if_true]
  rfl

theorem execHalt_ready (h : Ready s cd w 1 4) :
    execHalt cd w s = .next (s.setDie cd { s.die cd with stall := .halt (s.die cd).pc.toNat }) := by
  rw [execHalt, issueDie_ready h]

theorem execReservedCodeInstruction_reserved (h : (s.die cd).canIssue w = true) (hr : seqReserved w.toNat = true) :
    execReservedCodeInstruction cd w s =
      .next (s.setDie cd (faulted (s.die cd) 1 (iCls w.toNat) (iOp w.toNat) 0 0)) := by
  simp only [execReservedCodeInstruction, h, hr, Bool.and_self, if_true, fail_of_canIssue h]

end

/-- A fault at its own address in the spelling of O4: no unit and no status in the information. -/
theorem faulted_eq (d : Die) (code cls op : Nat) : faulted d code cls op 0 0 =
    { d with fault := code, faultPc := d.pc, stall := .none, faultInfo := BitVec.ofNat 32 (cls + op * 16) } := by
  simp [faulted, faultWord]

/-- Settles O4: each branch through the equation of its command, with the target as `target_eq` spells it. -/
theorem branchTargets : Obligations.BranchTargets := by
  unfold Obligations.BranchTargets
  intro cd w s
  dsimp only
  rw [← target_eq]
  refine ⟨execBr_ready, execCall_ready, execJr_aligned, fun h ha => ?jr, execLoop_taken, execLoop_through, execHalt_ready,
    fun h hcls hop => ?reserved⟩
  case jr => exact (execJr_misaligned h ha).trans (by rw [faulted_eq])
  case reserved =>
    have hstop := execReservedCodeInstruction_reserved h (seqReserved_of_branch hcls hop)
    rwa [hcls, faulted_eq] at hstop

end Sys2Proof.Proofs.Branches
end

section
/-! PROOF. Completion counters (R165, R166). A completion removes the operation from the issued ones, raises its counter,
and may fault; the fault touches neither. The error record packs four fields of a word, each within its width, so each
reads back as it was written. -/

namespace Sys2Proof.Proofs.Completions

open Sys2Proof.Machine Sys2Proof.Claims Sys2Proof.Proofs.SequencerFaults

/-! ### The error record -/

/-- The word of an error record: count in [15:0], status, class and unit above it (R166). -/
def errWord (n status cls unit : Nat) : Word := BitVec.ofNat 32 (n + status * 2 ^ 16 + cls * 2 ^ 20 + unit * 2 ^ 24)

theorem fld_lt (x lo n : Nat) : fld x lo n < 2 ^ n := Nat.mod_lt _ (by positivity)

theorem errWord_fields {n status cls unit : Nat} (hn : n < 2 ^ 16) (hs : status < 16) (hc : cls < 16) (hu : unit < 16) :
    fld (errWord n status cls unit).toNat 0 16 = n ∧ fld (errWord n status cls unit).toNat 16 4 = status ∧
    fld (errWord n status cls unit).toNat 20 4 = cls ∧ fld (errWord n status cls unit).toNat 24 4 = unit := by
  simp only [errWord, fld, BitVec.toNat_ofNat, Nat.shiftRight_eq_div_pow]
  omega

/-- The record after one more failed completion: the count rises to at most 65,535, and the other fields are those of the
first failure. -/
theorem errRecord_eq (old : Word) (status cls unit : Nat) : errRecord old status cls unit =
    errWord (min (fld old.toNat 0 16 + 1) 65535)
      (if fld old.toNat 0 16 = 0 then status else fld old.toNat 16 4)
      (if fld old.toNat 0 16 = 0 then cls else fld old.toNat 20 4)
      (if fld old.toNat 0 16 = 0 then unit else fld old.toNat 24 4) := by
  unfold errRecord errWord
  split <;> rfl

theorem ite_lt {p : Prop} [Decidable p] {a b n : Nat} (ha : a < n) (hb : b < n) : (if p then a else b) < n := by
  split <;> assumption

theorem errRecord_fields (old : Word) {status cls unit : Nat} (hs : status < 16) (hc : cls < 16) (hu : unit < 16) :
    fld (errRecord old status cls unit).toNat 0 16 = min (fld old.toNat 0 16 + 1) 65535 ∧
    fld (errRecord old status cls unit).toNat 16 4 = (if fld old.toNat 0 16 = 0 then status else fld old.toNat 16 4) ∧
    fld (errRecord old status cls unit).toNat 20 4 = (if fld old.toNat 0 16 = 0 then cls else fld old.toNat 20 4) ∧
    fld (errRecord old status cls unit).toNat 24 4 = (if fld old.toNat 0 16 = 0 then unit else fld old.toNat 24 4) := by
  rw [errRecord_eq]
  exact errWord_fields (by omega) (ite_lt hs (fld_lt _ 16 4)) (ite_lt hc (fld_lt _ 20 4)) (ite_lt hu (fld_lt _ 24 4))

/-! ### One completion of a counter -/

@[simp] theorem countOne_count (x : Counter) (status cls unit : Nat) : (countOne x status cls unit).count = x.count + 1 := rfl

theorem countOne_err_of_ok {status : Nat} (h : status = 0 ∨ status = 1) (x : Counter) (cls unit : Nat) :
    (countOne x status cls unit).err = x.err := if_pos h

theorem countOne_err_of_failed {status : Nat} (h0 : status ≠ 0) (h1 : status ≠ 1) (x : Counter) (cls unit : Nat) :
    (countOne x status cls unit).err = errRecord x.err status cls unit := if_neg (not_or.mpr ⟨h0, h1⟩)

/-! ### The die -/

/-- The operation named leaves the issued ones, and no other does. -/
theorem finish_ops (d : Die) (o : Op) (status : Nat) :
    (d.finish o status).ops = d.ops.filter (fun x => x.id != o.id) := by
  unfold Die.finish
  split <;> split <;> simp

/-- The counter an operation names takes the completion; a fault that follows leaves the counters. -/
theorem finish_cnt (d : Die) {o : Op} (status : Nat) {c : Fin 16} (h : o.ctr = some c.val) :
    (d.finish o status).cnt = d.cnt.set c.val (countOne d.cnt[c] status o.cls o.unit) c.isLt := by
  have hmod : c.val % 16 = c.val := Nat.mod_eq_of_lt c.isLt
  simp only [Die.finish, h]
  split <;> simp [hmod]

theorem finish_cnt_self (d : Die) {o : Op} (status : Nat) {c : Fin 16} (h : o.ctr = some c.val) :
    (d.finish o status).cnt[c] = countOne d.cnt[c] status o.cls o.unit := by
  simp [finish_cnt d status h]

theorem finish_cnt_ne (d : Die) {o : Op} (status : Nat) {c c' : Fin 16} (h : o.ctr = some c.val) (hne : c' ≠ c) :
    (d.finish o status).cnt[c'] = d.cnt[c'] := by
  have hval : c.val ≠ c'.val := fun he => hne (Fin.ext he.symm)
  simp [finish_cnt d status h, Vector.getElem_set_ne, hval]

/-- Settles O10: the counter named takes the completion, and the other counters and operations stay. -/
theorem completionCounts : Obligations.CompletionCounts := by
  unfold Obligations.CompletionCounts
  intro d o status c hctr
  dsimp only
  rw [finish_cnt_self d status hctr]
  refine ⟨countOne_count .., fun hok => countOne_err_of_ok hok .., fun h0 h1 hs hc hu => ?failed,
    fun c' hne => finish_cnt_ne d status hctr hne, fun x hx => ?left⟩
  case failed =>
    rw [countOne_err_of_failed h0 h1]
    exact errRecord_fields _ hs hc hu
  case left => simpa [finish_ops] using hx

end Sys2Proof.Proofs.Completions
end

section
/-! PROOF. The row permutation (R233). A stage is an affine map modulo 2^b, which is injective because the multiplier is odd
and b is at most 64, followed by the exclusive or with the upper half, which undoes itself. -/

namespace Sys2Proof.Proofs.RowPermutation

open Sys2Proof.Machine Sys2Proof.Claims

/-! ### The two steps of a stage -/

/-- The sum and the product of a stage, both taken modulo 2^b. -/
def affineStep (b seed x : Nat) : Nat := (x + seed) % 2 ^ b * 0x9FB21C651E98DF25 % 2 ^ 64 % 2 ^ b

/-- The exclusive or of a value with its bits from k up. -/
def foldHigh (k y : Nat) : Nat := y ^^^ (y / 2 ^ k)

theorem permStage_eq (b seed x : Nat) : permStage b seed x = foldHigh ((b + 1) / 2) (affineStep b seed x) := rfl

theorem affineStep_lt (b seed x : Nat) : affineStep b seed x < 2 ^ b := Nat.mod_lt _ (by positivity)

/-- Taking the product modulo 2^64 first does not matter, as 2^b divides 2^64. -/
theorem affineStep_modEq {b : Nat} (hb : b ≤ 64) (seed x : Nat) :
    affineStep b seed x ≡ (x + seed) * 0x9FB21C651E98DF25 [MOD 2 ^ b] := by
  have hprod : affineStep b seed x = (x + seed) % 2 ^ b * 0x9FB21C651E98DF25 % 2 ^ b := by
    rw [affineStep, Nat.mod_mod_of_dvd _ (pow_dvd_pow 2 hb)]
  rw [hprod]
  exact (Nat.mod_modEq _ _).trans ((Nat.mod_modEq _ _).mul_right _)

theorem affineStep_injOn {b : Nat} (hb : b ≤ 64) (seed : Nat) : Set.InjOn (affineStep b seed) (Set.Iio (2 ^ b)) := by
  intro x hx y hy heq
  have hodd : (2 ^ b).gcd 0x9FB21C651E98DF25 = 1 := Nat.Coprime.pow_left b (by norm_num)
  have hprod : (x + seed) * 0x9FB21C651E98DF25 ≡ (y + seed) * 0x9FB21C651E98DF25 [MOD 2 ^ b] := by
    refine (affineStep_modEq hb seed x).symm.trans ?_
    rw [heq]
    exact affineStep_modEq hb seed y
  have hsum : x + seed ≡ y + seed [MOD 2 ^ b] := hprod.cancel_right_of_coprime hodd
  exact (hsum.add_right_cancel' seed).eq_of_lt_of_lt hx hy

theorem foldHigh_lt {b y : Nat} (k : Nat) (hy : y < 2 ^ b) : foldHigh k y < 2 ^ b :=
  Nat.xor_lt_two_pow hy (Nat.div_lt_of_lt hy)

/-- Where k is at least half the width, folding twice shifts every bit out of the second copy. -/
theorem foldHigh_foldHigh {b k y : Nat} (hk : b ≤ k + k) (hy : y < 2 ^ b) : foldHigh k (foldHigh k y) = y := by
  have htop : y / 2 ^ k / 2 ^ k = 0 := by
    rw [Nat.div_div_eq_div_mul, ← pow_add]
    exact Nat.div_eq_of_lt (hy.trans_le (Nat.pow_le_pow_right (by decide) hk))
  simp [foldHigh, Nat.xor_div_two_pow, htop]

theorem foldHigh_injOn {b k : Nat} (hk : b ≤ k + k) : Set.InjOn (foldHigh k) (Set.Iio (2 ^ b)) :=
  Set.LeftInvOn.injOn (f₁' := foldHigh k) fun _ hy => foldHigh_foldHigh hk hy

/-! ### A stage -/

theorem permStage_lt (b seed x : Nat) : permStage b seed x < 2 ^ b := foldHigh_lt _ (affineStep_lt b seed x)

theorem permStage_injOn {b : Nat} (hb : b ≤ 64) (seed : Nat) : Set.InjOn (permStage b seed) (Set.Iio (2 ^ b)) :=
  (foldHigh_injOn (by omega)).comp (affineStep_injOn hb seed) fun x _ => affineStep_lt b seed x

/-- A stage reaches every value, being injective on a finite range that it keeps. -/
theorem permStage_surjOn {b : Nat} (hb : b ≤ 64) (seed : Nat) :
    Set.SurjOn (permStage b seed) (Set.Iio (2 ^ b)) (Set.Iio (2 ^ b)) := by
  rw [← Finset.coe_Iio]
  refine Finset.surjOn_of_injOn_of_card_le _ (fun x _ => ?_) ?_ le_rfl
  · simpa using permStage_lt b seed x
  · simpa using permStage_injOn hb seed

/-! ### The permuted index -/

theorem permRound_eq_permStage (b seed x : Nat) : permRound b seed x = permStage b seed x := by
  simp only [permRound, permStage, Nat.shiftRight_eq_div_pow]

theorem permIndex_eq (r : List Byte) {x : Nat} (hx : x < 2 ^ gB r) :
    permIndex r x = permStage (gB r) (gSeed r) (permStage (gB r) (gSeed r) x) := by
  simp only [permIndex, permRound_eq_permStage, Nat.mod_eq_of_lt hx]

theorem permIndex_injOn {r : List Byte} (hb : gB r ≤ 64) : Set.InjOn (permIndex r) (Set.Iio (2 ^ gB r)) := by
  intro x hx y hy heq
  have hstage := permStage_injOn hb (gSeed r)
  rw [permIndex_eq r hx, permIndex_eq r hy] at heq
  exact hstage hx hy (hstage (permStage_lt ..) (permStage_lt ..) heq)

/-- Settles O40: a stage is injective on a finite range that it keeps, so it is a bijection, and the bucket and local index
together are the permuted index. -/
theorem rowPermutationInjective : Obligations.RowPermutationInjective := by
  unfold Obligations.RowPermutationInjective
  intro r x y _ hb hx hy
  have hwidth : gB r ≤ 64 := by omega
  exact ⟨permIndex_eq r hx, permStage_lt .., fun h => permStage_injOn hwidth _ hx hy h, permStage_surjOn hwidth _ hx,
    fun hbucket hlocal => permIndex_injOn hwidth hx hy (Nat.ext_div_mod hlocal hbucket)⟩

end Sys2Proof.Proofs.RowPermutation
end

section
/-! PROOF. Where an address lives (R199 to R204): a line stays together, and R201 can be undone, so that no two addresses
share a home location. -/

namespace Sys2Proof.Proofs.HomeLocations

open Sys2Proof.Machine

/-! ### Lines stay together -/

section
variable {x i b : Nat} (hx : x % 64 = 0) (hi : i < 64)
include hx hi

/-- A bound between lines has a whole line on one side. -/
theorem line_lt_iff (hb : b % 64 = 0) : x + i < b ↔ x < b := by omega

theorem le_line_iff (hb : b % 64 = 0) : b ≤ x + i ↔ b ≤ x := by omega

theorem line_sub (hb : b % 64 = 0) (hle : b ≤ x) : (x - b) % 64 = 0 ∧ x + i - b = x - b + i := by omega

theorem line_div_page {size : Nat} (hsize : 4096 ∣ size) : (x + i) / size = x / size := by
  obtain ⟨n, rfl⟩ := hsize
  have hpage : (x + i) / 4096 = x / 4096 := by omega
  rw [← Nat.div_div_eq_div_mul, hpage, Nat.div_div_eq_div_mul]

theorem line_mod_page {size : Nat} (hsize : 4096 ∣ size) : x % size % 64 = 0 ∧ (x + i) % size = x % size + i := by
  obtain ⟨n, rfl⟩ := hsize
  have hpage : (x + i) / 4096 = x / 4096 := by omega
  have hoff : (x + i) % 4096 = x % 4096 + i := by omega
  have hdvd : 64 ∣ 4096 * n := (by decide : 64 ∣ 4096).mul_right n
  exact ⟨(Nat.mod_mod_of_dvd x hdvd).trans hx, by rw [Nat.mod_mul, Nat.mod_mul, hpage, hoff, Nat.add_right_comm]⟩

/-- R201 moves whole pages of 4 KiB. -/
theorem tierDecode_line (isLocal : Nat → Bool) (nStacks perQuad : Nat) {size : Nat} (hsize : 4096 ∣ size / 4)
    (h4 : 4 ∣ size) :
    tierDecode isLocal size nStacks perQuad (x + i) =
      ((tierDecode isLocal size nStacks perQuad x).1, (tierDecode isLocal size nStacks perQuad x).2 + i) := by
  have hset4 : 4096 ∣ size := hsize.trans (Nat.div_dvd_of_dvd h4)
  obtain ⟨hset, hmod⟩ := line_mod_page hx hi hset4
  obtain ⟨hquart, hqmod⟩ := line_mod_page hset hi hsize
  have hpage (y : Nat) (hy : y % 64 = 0) : (y + i) / 4096 = y / 4096 := by omega
  have hlow (y : Nat) (hy : y % 64 = 0) : (y + i) % 4096 = y % 4096 + i := by omega
  simp only [tierDecode, line_div_page hx hi hset4, line_div_page hset hi hsize, hmod, hqmod, hpage _ hset, hpage _ hquart,
    hlow _ hset, Nat.add_assoc]

theorem winMapped_line : winMapped (x + i) = winMapped x := by
  simp (disch := decide) only [winMapped, line_lt_iff hx hi, le_line_iff hx hi]

end

theorem loc_line (s : State) {a i : Nat} (ha : a % 64 = 0) (hi : i < 64) : s.loc (a + i) = (s.loc a).map (· + i) := by
  simp (disch := decide) only [State.loc, line_lt_iff ha hi, le_line_iff ha hi]
  split
  · rfl
  split
  · rw [tierDecode_line ha hi s.nearLocal 48 12 (size := 12 * gib) (by decide) (by decide), Option.map_some, Nat.add_assoc]
  split
  next hdeep =>
    obtain ⟨hal, hsub⟩ := line_sub ha hi (b := 0x010000000000) (by decide) hdeep.1
    rw [hsub, tierDecode_line hal hi s.deepLocal 16 4 (size := 4 * gib) (by decide) (by decide)]
    simp only [Option.map_some, Nat.add_assoc]
  split
  next hmash =>
    obtain ⟨hal, hsub⟩ := line_sub ha hi (b := 0x040000000000) (by decide) hmash.1
    obtain ⟨hmod, hwin⟩ := line_mod_page hal hi (size := 2 ^ 28) (by decide)
    have hlimit : s.mashLimit % 64 = 0 := by unfold State.mashLimit; omega
    simp only [hsub, hwin, line_lt_iff hmod hi hlimit]
    split <;> rfl
  split
  next hsram =>
    obtain ⟨hal, hsub⟩ := line_sub ha hi (b := 0x050000000000) (by decide) hsram.1
    obtain ⟨hmod, hwin⟩ := line_mod_page hal hi (size := 2 ^ 32) (by decide)
    simp only [hsub, hwin, winMapped_line hmod hi]
    split <;> rfl
  · rfl

/-- An address keeps its place in its line. -/
theorem loc_mod_line {s : State} {a l : Nat} (h : s.loc a = some l) : l % 64 = a % 64 := by
  simp only [State.loc, Option.ite_none_left_eq_some] at h
  obtain ⟨-, h⟩ := h
  split at h
  · obtain rfl := Option.some.inj h
    simp only [tierDecode, gib]
    omega
  split at h
  · obtain rfl := Option.some.inj h
    simp only [tierDecode, gib]
    omega
  split at h
  · obtain ⟨-, h⟩ := Option.ite_none_right_eq_some.mp h
    rw [Option.some.inj h]
  · obtain ⟨-, h⟩ := Option.ite_none_right_eq_some.mp h
    obtain ⟨-, h⟩ := Option.ite_none_right_eq_some.mp h
    rw [Option.some.inj h]

/-! ### R201 undone -/

theorem stackAddr_near (s : State) {j set row low : Nat} (hj : j < 48) (hrow : row < 2 ^ 16) (hlow : low < 4096) :
    s.stackAddr j (set * 2 ^ 28 + row * 4096 + low) = set * (12 * gib) +
      (if s.nearLocal set then j / 12 * (3 * gib) + (row * 12 + j % 12) * 4096 else (row * 48 + j) * 4096) + low := by
  have hset : (set * 2 ^ 28 + row * 4096 + low) / 2 ^ 28 = set := by omega
  have hpage : (set * 2 ^ 28 + row * 4096 + low) % 2 ^ 28 / 4096 = row := by omega
  have hoff : (set * 2 ^ 28 + row * 4096 + low) % 4096 = low := by omega
  simp only [State.stackAddr, hset, hpage, hoff, hj, decide_true, if_true]

theorem stackAddr_deep (s : State) {j set row low : Nat} (hrow : row < 2 ^ 16) (hlow : low < 4096) :
    s.stackAddr (48 + j) (set * 2 ^ 28 + row * 4096 + low) = 0x010000000000 + set * (4 * gib) +
      (if s.deepLocal set then j / 4 * gib + (row * 4 + j % 4) * 4096 else (row * 16 + j) * 4096) + low := by
  have hset : (set * 2 ^ 28 + row * 4096 + low) / 2 ^ 28 = set := by omega
  have hpage : (set * 2 ^ 28 + row * 4096 + low) % 2 ^ 28 / 4096 = row := by omega
  have hoff : (set * 2 ^ 28 + row * 4096 + low) % 4096 = low := by omega
  have hfar : ¬ 48 + j < 48 := by omega
  simp only [State.stackAddr, hset, hpage, hoff, hfar, decide_false, Bool.false_eq_true, if_false, Nat.add_sub_cancel_left]

/-- What the decode gives of an offset in near memory: a stack, and set, row and place in the page as its offset there. -/
theorem tierDecode_near (isLocal : Nat → Bool) (x : Nat) :
    ∃ j set row low, tierDecode isLocal (12 * gib) 48 12 x = (j, set * 2 ^ 28 + row * 4096 + low) ∧
      j < 48 ∧ row < 2 ^ 16 ∧ low < 4096 ∧ set * (12 * gib) ≤ x ∧ x = set * (12 * gib) +
        (if isLocal set then j / 12 * (3 * gib) + (row * 12 + j % 12) * 4096 else (row * 48 + j) * 4096) + low := by
  simp only [gib]
  refine ⟨_, _, _, _, rfl, ?_⟩
  cases isLocal (x / (12 * 2 ^ 30)) <;> simp only [if_true, if_false, Bool.false_eq_true] <;> omega

theorem tierDecode_deep (isLocal : Nat → Bool) (x : Nat) :
    ∃ j set row low, tierDecode isLocal (4 * gib) 16 4 x = (j, set * 2 ^ 28 + row * 4096 + low) ∧
      j < 16 ∧ row < 2 ^ 16 ∧ low < 4096 ∧ set * (4 * gib) ≤ x ∧ x = set * (4 * gib) +
        (if isLocal set then j / 4 * gib + (row * 4 + j % 4) * 4096 else (row * 16 + j) * 4096) + low := by
  simp only [gib]
  refine ⟨_, _, _, _, rfl, ?_⟩
  cases isLocal (x / (4 * 2 ^ 30)) <;> simp only [if_true, if_false, Bool.false_eq_true] <;> omega

theorem addrOf_near (s : State) {l j off : Nat} (hl : l = j * 2 ^ 34 + off) (hj : j < 48) (hoff : off < 2 ^ 34) :
    s.addrOf l = s.stackAddr j off := by
  have hlt : l < 2 ^ 40 := by omega
  have hstack : stackOf l = some j := by rw [stackOf, if_pos hlt, show l / 2 ^ 34 = j by omega]
  have hin : stackOff l = off := by rw [stackOff, if_pos hlt, show l % 2 ^ 34 = off by omega]
  rw [State.addrOf, hstack, hin]

theorem addrOf_deep (s : State) {l j off : Nat} (hl : l = 2 ^ 40 + j * 2 ^ 37 + off) (hj : j < 16) (hoff : off < 2 ^ 37) :
    s.addrOf l = s.stackAddr (48 + j) off := by
  have hge : ¬ l < 2 ^ 40 := by omega
  have hlt : l < 2 ^ 42 := by omega
  have hstack : stackOf l = some (48 + j) := by
    rw [stackOf, if_neg hge, if_pos hlt, show (l - 2 ^ 40) / 2 ^ 37 = j by omega]
  have hin : stackOff l = off := by rw [stackOff, if_neg hge, show (l - 2 ^ 40) % 2 ^ 37 = off by omega]
  rw [State.addrOf, hstack, hin]

theorem addrOf_sram (s : State) {a : Nat} (h : 0x040000000000 ≤ a) : s.addrOf a = a := by
  have hnear : ¬ a < 2 ^ 40 := by omega
  have hdeep : ¬ a < 2 ^ 42 := by omega
  rw [State.addrOf, stackOf, if_neg hnear, if_neg hdeep]

theorem addrOf_loc {s : State} {a l : Nat} (h : s.loc a = some l) : s.addrOf l = a := by
  simp only [State.loc, Option.ite_none_left_eq_some] at h
  obtain ⟨-, h⟩ := h
  split at h
  next hnear =>
    obtain ⟨j, set, row, low, hd, hj, hrow, hlow, hset, ha⟩ := tierDecode_near s.nearLocal a
    have hoff : set * 2 ^ 28 + row * 4096 + low < 2 ^ 34 := by simp only [gib] at hset hnear; omega
    rw [hd] at h
    rw [addrOf_near s (Option.some.inj h).symm hj hoff, stackAddr_near s hj hrow hlow, ← ha]
  split at h
  next hdeep =>
    obtain ⟨j, set, row, low, hd, hj, hrow, hlow, hset, ha⟩ := tierDecode_deep s.deepLocal (a - 0x010000000000)
    have hoff : set * 2 ^ 28 + row * 4096 + low < 2 ^ 37 := by simp only [gib] at hset; omega
    rw [hd] at h
    rw [addrOf_deep s (Option.some.inj h).symm hj hoff, stackAddr_deep s hrow hlow, Nat.add_assoc, Nat.add_assoc,
      ← Nat.add_assoc (set * _), ← ha]
    omega
  split at h
  next hmash =>
    obtain ⟨-, h⟩ := Option.ite_none_right_eq_some.mp h
    obtain rfl := Option.some.inj h
    exact addrOf_sram s hmash.1
  obtain ⟨hsram, h⟩ := Option.ite_none_right_eq_some.mp h
  obtain ⟨-, h⟩ := Option.ite_none_right_eq_some.mp h
  obtain rfl := Option.some.inj h
  exact addrOf_sram s (by omega)

/-- Two addresses never share a home location. -/
theorem loc_injective {s : State} {a b l : Nat} (ha : s.loc a = some l) (hb : s.loc b = some l) : a = b :=
  (addrOf_loc ha).symm.trans (addrOf_loc hb)

/-! ### What the decode depends on -/

/-- The registers of the layout of the tiers and of the stores in the mash buffers (R201, R203). -/
def LayoutReg (o : Nat) : Prop := (0x3010 ≤ o ∧ o < 0x3050) ∨ o = 0x401C ∨ o = 0x6018

theorem tierDecode_congr {f g : Nat → Bool} {size x : Nat} (h : f (x / size) = g (x / size)) (nStacks perQuad : Nat) :
    tierDecode f size nStacks perQuad x = tierDecode g size nStacks perQuad x := by
  simp only [tierDecode, h]

section
variable {s t : State} (hreg : ∀ o, LayoutReg o → t.reg o = s.reg o)
include hreg

theorem nearLocal_congr {set : Nat} (h : set < 64) : t.nearLocal set = s.nearLocal set := by
  rw [State.nearLocal, State.nearLocal, hreg _ (.inl (by omega))]

theorem deepLocal_congr {set : Nat} (h : set < 384) : t.deepLocal set = s.deepLocal set := by
  rw [State.deepLocal, State.deepLocal, hreg _ (.inl (by omega))]

theorem loc_congr (hfailed : t.boot.failed = s.boot.failed) : t.loc = s.loc := by
  funext a
  have hmash : t.mashLimit = s.mashLimit := by
    simp only [State.mashLimit, hreg _ (.inr (.inl rfl)), hreg _ (.inr (.inr rfl))]
  simp only [State.loc, hfailed, hmash]
  split
  · rfl
  split
  next hnear =>
    rw [tierDecode_congr (nearLocal_congr hreg (by simp only [gib] at hnear ⊢; omega))]
  split
  next hdeep =>
    rw [tierDecode_congr (deepLocal_congr hreg (by simp only [gib]; omega))]
  · rfl

end

theorem loc_setReg (s : State) {o : Nat} (ho : ¬LayoutReg o) (v : Nat) : (s.setReg o v).loc = s.loc :=
  loc_congr (fun _ hq => s.reg_setReg_ne v fun heq => ho (heq ▸ hq)) rfl

end Sys2Proof.Proofs.HomeLocations
end

section
/-! PROOF. Reads after writes of whole ranges (R3, R211, R212, R218): where the lines of a range are mapped and not
poisoned, bytes written are read back and every other address reads as before. -/

namespace Sys2Proof.Proofs.MemoryAccess

open Sys2Proof.Machine Sys2Proof.Claims Sys2Proof.Proofs.HomeLocations

/-! ### Bytes and numbers -/

@[simp] theorem length_natLE (n x : Nat) : (natLE n x).length = n := by
  induction n generalizing x with
  | zero => rfl
  | succ n ih => simp [natLE, ih]

@[simp] theorem leNat_natLE (n x : Nat) : leNat (natLE n x) = x % 256 ^ n := by
  induction n generalizing x with
  | zero => simp [natLE, leNat, Nat.mod_one]
  | succ n ih => simp [natLE, leNat, ih, pow_succ', Nat.mod_mul]

/-! ### Clear ranges -/

/-- Every byte of a range is mapped, in a line that is not poisoned. -/
def Clear (s : State) (a n : Nat) : Prop :=
  ∀ x, a ≤ x → x < a + n → ∃ l, s.loc x = some l ∧ s.poison.contains (l / 64) = false

section
variable {s : State} {a n : Nat}

theorem Clear.sub (h : Clear s a n) {b m : Nat} (hlo : a ≤ b) (hhi : b + m ≤ a + n) : Clear s b m :=
  fun x hb hm => h x (hlo.trans hb) (by omega)

theorem Clear.not_poisoned (h : Clear s a n) {x : Nat} (hlo : a ≤ x) (hhi : x < a + n) : s.poisoned x = false := by
  obtain ⟨l, hl, hp⟩ := h x hlo hhi
  simpa only [State.poisoned, hl] using hp

theorem Clear.congr {t : State} (h : Clear s a n) (hloc : t.loc = s.loc) (hpoison : t.poison = s.poison) : Clear t a n := by
  unfold Clear
  rwa [hloc, hpoison]

/-- A byte is mapped, and poisoned, with its line. -/
theorem clear_byte_of_line {x : Nat} (hm : s.mapped (x / 64 * 64) = true) (hp : s.poisoned (x / 64 * 64) = false) :
    ∃ l, s.loc x = some l ∧ s.poison.contains (l / 64) = false := by
  obtain ⟨l, hl⟩ := Option.isSome_iff_exists.mp hm
  have hline : s.loc x = some (l + x % 64) := by
    have hadd := loc_line s (a := x / 64 * 64) (i := x % 64) (by omega) (by omega)
    rwa [Nat.div_add_mod', hl] at hadd
  have hstart : l % 64 = 0 := by rw [loc_mod_line hl]; omega
  refine ⟨_, hline, ?_⟩
  rw [show (l + x % 64) / 64 = l / 64 by omega]
  simpa [State.poisoned, hl] using hp

theorem clear_of_plain (h : Plain s a n) : Clear s a n := by
  obtain ⟨hmap, hpoison⟩ := h
  intro x hlo hhi
  simp only [State.rangeMapped, State.rangePoisoned, List.all_eq_true, List.any_eq_false, List.mem_range] at hmap hpoison
  have hi : x / 64 - a / 64 < (a % 64 + n + 63) / 64 := by omega
  have hline : a / 64 * 64 + 64 * (x / 64 - a / 64) = x / 64 * 64 := by omega
  have hm := hmap _ hi
  have hp := hpoison _ hi
  rw [hline] at hm hp
  exact clear_byte_of_line hm (by simpa using hp)

end

/-! ### One line -/

/-- A byte of memory once bytes are written at a. -/
def byteAfter (s : State) (a : Nat) (bs : List Byte) (x : Nat) : Byte :=
  if a ≤ x ∧ x < a + bs.length then bs.getD (x - a) 0 else s.byte x

section
variable {s : State} {a l x : Nat} {bs : List Byte}

theorem byte_of_loc (h : s.loc x = some l) : s.byte x = memGet s.mem l := by rw [State.byte, h]

theorem byte_of_unmapped (h : s.loc x = none) : s.byte x = 0 := by rw [State.byte, h]

theorem loc_add (hl : s.loc a = some l) {i : Nat} (hi : a % 64 + i < 64) : s.loc (a + i) = some (l + i) := by
  have hbase := loc_line s (a := a / 64 * 64) (i := a % 64) (by omega) (by omega)
  have hline := loc_line s (a := a / 64 * 64) (i := a % 64 + i) (by omega) hi
  rw [Nat.div_add_mod', hl] at hbase
  obtain ⟨start, hstart, rfl⟩ := Option.map_eq_some_iff.mp hbase.symm
  rwa [hstart, ← Nat.add_assoc, Nat.div_add_mod', Option.map_some, ← Nat.add_assoc] at hline

/-- Bytes put at the home of a part of one line. No address outside it has its home there. -/
theorem byte_memPut (hl : s.loc a = some l) (hlen : a % 64 + bs.length ≤ 64) (x : Nat) :
    State.byte { s with mem := memPut s.mem l bs } x = byteAfter s a bs x := by
  have hput {k : Nat} (h : s.loc x = some k) :
      State.byte { s with mem := memPut s.mem l bs } x = memGet (memPut s.mem l bs) k := byte_of_loc h
  by_cases hin : a ≤ x ∧ x < a + bs.length
  · have hx := loc_add hl (i := x - a) (by omega)
    rw [Nat.add_sub_cancel' hin.1] at hx
    rw [byteAfter, if_pos hin, hput hx, memGet_memPut, if_pos (by omega), Nat.add_sub_cancel_left]
  · rw [byteAfter, if_neg hin]
    cases hx : s.loc x with
    | none => exact (byte_of_unmapped (s := { s with mem := memPut s.mem l bs }) hx).trans (byte_of_unmapped hx).symm
    | some k =>
      have hout : ¬(l ≤ k ∧ k < l + bs.length) := fun hk => by
        have hback := loc_add hl (i := k - l) (by omega)
        rw [Nat.add_sub_cancel' hk.1] at hback
        have := loc_injective hx hback
        omega
      rw [hput hx, memGet_memPut, if_neg hout, byte_of_loc hx]

end

/-! ### Whole ranges -/

/-- t is s with bytes stored at a, in memory alone. -/
def Stored (s t : State) (a : Nat) (bs : List Byte) : Prop :=
  (∃ m, t = { s with mem := m }) ∧ ∀ x, t.byte x = byteAfter s a bs x

section
variable {s t u : State} {a : Nat} {bs : List Byte}

theorem Stored.nil (s : State) (a : Nat) : Stored s s a [] :=
  ⟨⟨s.mem, rfl⟩, fun x => by simp [byteAfter, show ¬(a ≤ x ∧ x < a) by omega]⟩

theorem Stored.append {cs : List Byte} {b : Nat} (h : Stored s t a bs) (hb : b = a + bs.length) (h' : Stored t u b cs) :
    Stored s u a (bs ++ cs) := by
  subst hb
  obtain ⟨⟨m, rfl⟩, hb⟩ := h
  obtain ⟨⟨m', rfl⟩, hc⟩ := h'
  refine ⟨⟨m', rfl⟩, fun x => ?_⟩
  rw [hc, byteAfter, hb, byteAfter, byteAfter, List.length_append]
  by_cases h1 : a + bs.length ≤ x
  · have hcs : (bs ++ cs).getD (x - a) 0 = cs.getD (x - (a + bs.length)) 0 := by
      rw [List.getD_append_right _ _ _ _ (by omega), Nat.sub_sub]
    grind
  · grind

theorem Stored.reg (h : Stored s t a bs) (o : Nat) : t.reg o = s.reg o := by
  obtain ⟨⟨m, rfl⟩, -⟩ := h
  rfl

theorem Stored.loc (h : Stored s t a bs) : t.loc = s.loc := by
  obtain ⟨⟨m, rfl⟩, -⟩ := h
  rfl

theorem Stored.poison (h : Stored s t a bs) : t.poison = s.poison := by
  obtain ⟨⟨m, rfl⟩, -⟩ := h
  rfl

theorem Stored.clear (h : Stored s t a bs) {b n : Nat} (hc : Clear s b n) : Clear t b n := hc.congr h.loc h.poison

theorem stored_writeLine (hc : Clear s a bs.length) (hne : bs ≠ []) (hlen : a % 64 + bs.length ≤ 64) :
    Stored s (s.writeLine a bs) a bs := by
  obtain ⟨l, hl, hp⟩ := hc a le_rfl (by have := List.length_pos_iff.mpr hne; omega)
  rw [State.writeLine_spec bs hl hp]
  exact ⟨⟨_, rfl⟩, byte_memPut hl hlen⟩

theorem writeN_nil (s : State) (a n : Nat) : s.writeN a [] n = s := by
  cases n <;> rfl

/-- By lines: the first takes what fits in it, and the rest starts at the next. -/
theorem stored_writeN (n : Nat) (hc : Clear s a bs.length) (hn : a % 64 + bs.length ≤ 64 * n) :
    Stored s (s.writeN a bs n) a bs := by
  induction n generalizing s a bs with
  | zero =>
    obtain rfl : bs = [] := List.eq_nil_of_length_eq_zero (by omega)
    exact .nil s a
  | succ n ih =>
    by_cases hne : bs = []
    · subst hne
      exact .nil s a
    rw [State.writeN, if_neg (by simpa using hne)]
    dsimp only
    by_cases hfit : a % 64 + bs.length ≤ 64
    · rw [List.take_of_length_le (by omega), List.drop_eq_nil_of_le (by omega), writeN_nil]
      exact stored_writeLine hc hne hfit
    · have hlen : (bs.take (64 - a % 64)).length = 64 - a % 64 := List.length_take_of_le (by omega)
      have hfirst : Stored s (s.writeLine a (bs.take (64 - a % 64))) a (bs.take (64 - a % 64)) :=
        stored_writeLine (hc.sub le_rfl (by omega)) (List.ne_nil_of_length_pos (by omega)) (by omega)
      have hrest := ih (hfirst.clear (hc.sub (b := a + (64 - a % 64)) (m := (bs.drop (64 - a % 64)).length)
        (by omega) (by rw [List.length_drop]; omega))) (by rw [List.length_drop]; omega)
      have happend := hfirst.append (by rw [hlen]) hrest
      rwa [List.take_append_drop] at happend

theorem stored_write (hc : Clear s a bs.length) : Stored s (s.write a bs) a bs :=
  stored_writeN _ hc (by omega)

theorem Stored.byte_outside (h : Stored s t a bs) {x : Nat} (hx : x < a ∨ a + bs.length ≤ x) : t.byte x = s.byte x := by
  rw [h.2, byteAfter, if_neg (by omega)]

theorem Stored.onlyBytes (h : Stored s t a bs) : OnlyBytes s t a bs.length := fun _ => h.byte_outside

/-- Part of what was stored, read back. -/
theorem Stored.bytes_inside (h : Stored s t a bs) {k n : Nat} (hn : k + n ≤ bs.length) :
    t.bytes (a + k) n = (bs.drop k).take n := by
  apply List.ext_getElem
  · simp [State.bytes]; omega
  · intro i hi hi'
    have hin : i < n := by simpa [State.bytes] using hi
    have hget : bs[k + i]? = some bs[k + i] := List.getElem?_eq_getElem (by omega)
    simp only [State.bytes, List.getElem_map, List.getElem_range, List.getElem_take, List.getElem_drop]
    rw [h.2, byteAfter, if_pos (by omega), show a + k + i - a = k + i by omega, List.getD_eq_getElem?_getD, hget,
      Option.getD_some]

theorem Stored.bytes_eq (h : Stored s t a bs) : t.bytes a bs.length = bs := by
  simpa using h.bytes_inside (k := 0) (n := bs.length) (by omega)

theorem bytes_congr {b n : Nat} (h : ∀ x, b ≤ x → x < b + n → t.byte x = s.byte x) : t.bytes b n = s.bytes b n :=
  List.map_congr_left fun i hi => h _ (by omega) (by have := List.mem_range.mp hi; omega)

theorem num_congr {b n : Nat} (h : ∀ x, b ≤ x → x < b + n → t.byte x = s.byte x) : t.num b n = s.num b n :=
  congrArg leNat (bytes_congr h)

/-- A little-endian number stored is read back. -/
theorem Stored.num_eq {n v : Nat} (h : Stored s t a (natLE n v)) : t.num a n = v % 256 ^ n := by
  have hbytes := h.bytes_eq
  rw [length_natLE] at hbytes
  rw [State.num, hbytes, leNat_natLE]

theorem byte_of_same_homes (hloc : t.loc = s.loc) (hmem : t.mem = s.mem) : t.byte = s.byte := by
  funext x
  rw [State.byte, State.byte, hloc, hmem]

theorem byte_setReg (s : State) {o : Nat} (ho : ¬LayoutReg o) (v : Nat) : (s.setReg o v).byte = s.byte :=
  byte_of_same_homes (loc_setReg s ho v) rfl

end

end Sys2Proof.Proofs.MemoryAccess
end

section
/-! SUPPORT. Registers: single bits after an update, other registers, and what a report to the log and the host leaves. -/

namespace Sys2Proof.Proofs.Registers

open Sys2Proof.Machine

theorem bitAt_eq_testBit (x i : Nat) : bitAt x i = x.testBit i := by
  rw [Nat.testBit_eq_decide_div_mod_eq, bitAt, Nat.shiftRight_eq_div_pow]
  rfl

theorem fld_one_eq_toNat (x i : Nat) : fld x i 1 = (x.testBit i).toNat := by
  rw [Nat.toNat_testBit, fld, Nat.shiftRight_eq_div_pow, pow_one]

section
variable (s : State) {o q i : Nat} (m : Nat)

theorem reg_orReg_ne (h : q ≠ o) : (s.orReg o m).reg q = s.reg q := s.reg_setReg_ne _ h
theorem reg_andNotReg_ne (h : q ≠ o) : (s.andNotReg o m).reg q = s.reg q := s.reg_setReg_ne _ h
theorem reg_countReg_ne (h : q ≠ o) : (s.countReg o m).reg q = s.reg q := s.reg_setReg_ne _ h

theorem testBit_orReg (hi : i < 32) : ((s.orReg o m).reg o).testBit i = ((s.reg o).testBit i || m.testBit i) := by
  rw [State.orReg, State.reg_setReg_self, Nat.testBit_mod_two_pow, Nat.testBit_or]
  simp [hi]

theorem testBit_andNotReg (hi : i < 32) : ((s.andNotReg o m).reg o).testBit i = ((s.reg o).testBit i && !m.testBit i) := by
  rw [State.andNotReg, State.reg_setReg_self, Nat.testBit_mod_two_pow, Nat.testBit_xor, Nat.testBit_and]
  cases (s.reg o).testBit i <;> simp [hi]

/-- A count stays within its register. -/
theorem reg_countReg_self : (s.countReg o m).reg o = satAdd32 (s.reg o) m := by
  rw [State.countReg, State.reg_setReg_self, Nat.mod_eq_of_lt]
  exact (Nat.min_le_right _ _).trans_lt (by decide)

end

/-! ### Reports -/

theorem log_reg_ne (s : State) (cls dieCls die unit detail addr : Nat) {q : Nat} (h : q ≠ 0x704C) (h' : q ≠ 0x7054) :
    (s.log cls dieCls die unit detail addr).reg q = s.reg q := by
  unfold State.log
  split
  · rfl
  · rw [reg_countReg_ne _ _ h', reg_orReg_ne _ _ h]

/-- A report to the log and the host touches the log's own registers alone. -/
theorem report_rest (s : State) (cls dieCls die unit detail addr ty src : Nat) (p : List (Nat × Nat × Nat)) :
    ∃ g h q, (s.log cls dieCls die unit detail addr).event ty src p = { s with regs := g, host := h, logQ := q } ∧
      ∀ o, o ≠ 0x704C → o ≠ 0x7054 → ((s.log cls dieCls die unit detail addr).event ty src p).reg o = s.reg o := by
  obtain ⟨q, hev⟩ := (s.log cls dieCls die unit detail addr).event_rest ty src p
  obtain ⟨l, g, hlog⟩ := s.log_rest cls dieCls die unit detail addr
  refine ⟨g, { s.host with heldQ := q }, l, by rw [hev, hlog], fun o h h' => ?_⟩
  rw [hev]
  exact log_reg_ne s cls dieCls die unit detail addr h h'

end Sys2Proof.Proofs.Registers
end

section
/-! PROOF. The lost list (R390). Each operation stores entries of the list and its count, which leaves the flag behind the
list alone, and then adds to the flag, which leaves the list alone. -/

namespace Sys2Proof.Proofs.LostList

open Sys2Proof.Machine Sys2Proof.Claims Sys2Proof.Proofs.HomeLocations Sys2Proof.Proofs.MemoryAccess

/-! ### The entries -/

theorem length_entries (l : List Nat) : (l.flatMap (natLE 8)).length = 8 * l.length := by
  induction l with
  | nil => rfl
  | cons c l ih => simp only [List.flatMap_cons, List.length_append, length_natLE, ih, List.length_cons]; omega

theorem entry_of_entries {l : List Nat} {i : Nat} (hi : i < l.length) :
    ((l.flatMap (natLE 8)).drop (8 * i)).take 8 = natLE 8 l[i] := by
  induction l generalizing i with
  | nil => exact absurd hi (Nat.not_lt_zero i)
  | cons c l ih =>
    cases i with
    | zero => simp [List.take_left']
    | succ i =>
      rw [List.flatMap_cons, Nat.mul_succ, Nat.add_comm, ← List.drop_drop, List.drop_left' (length_natLE 8 c)]
      exact ih (Nat.lt_of_succ_lt_succ hi)

/-- The state with entries of the list stored from place k on, and the count that ends the list with them. -/
def relist (s : State) (k : Nat) (l : List Nat) : State :=
  (s.write (s.lostBase + 8 * k) (l.flatMap (natLE 8))).setReg 0x703C (k + l.length)

/-- u is s but for the entries of the list and their count. -/
structure Relisted (s u : State) : Prop where
  base : u.lostBase = s.lostBase
  loc : u.loc = s.loc
  poison : u.poison = s.poison
  byte : ∀ x, x < s.lostBase ∨ s.lostBase + 128 ≤ x → u.byte x = s.byte x

theorem Relisted.refl (s : State) : Relisted s s := ⟨rfl, rfl, rfl, fun _ _ => rfl⟩

theorem lostCount_not_layout : ¬LayoutReg 0x703C := by unfold LayoutReg; omega

theorem lostBase_congr {s t : State} (h : ∀ o, o ≠ 0x703C → t.reg o = s.reg o) : t.lostBase = s.lostBase := by
  simp only [State.lostBase, State.regPair]
  rw [h 0x7030 (by decide), h (0x7030 + 4) (by decide)]

/-! ### The list after a change of its entries -/

theorem clear_of_lostReady {s : State} (h : LostReady s) : Clear s s.lostBase 136 := by
  obtain ⟨-, -, hplain, -⟩ := h
  exact clear_of_plain hplain

@[simp] theorem length_lostList (s : State) : s.lostList.length = s.lostCount := by simp [State.lostList]

theorem getElem_lostList (s : State) {i : Nat} (h : i < s.lostList.length) :
    s.lostList[i] = fld (s.num (s.lostBase + 8 * i) 8) 0 20 := by simp [State.lostList]

theorem lt_of_mem_lostList {s : State} {c : Nat} (h : c ∈ s.lostList) : c < 2 ^ 20 := by
  obtain ⟨i, -, rfl⟩ := List.mem_map.mp h
  exact Nat.mod_lt _ (by decide)

theorem lostCount_relist (s : State) {k : Nat} {l : List Nat} (hl : k + l.length ≤ 16) :
    (relist s k l).lostCount = k + l.length := by
  simp only [relist, State.lostCount, State.reg_setReg_self, fld, Nat.shiftRight_zero]
  omega

section
variable {s : State} {k : Nat} {l : List Nat} (hs : LostReady s) (hl : k + l.length ≤ 16)
include hs hl

theorem stored_entries :
    Stored s (s.write (s.lostBase + 8 * k) (l.flatMap (natLE 8))) (s.lostBase + 8 * k) (l.flatMap (natLE 8)) :=
  stored_write ((clear_of_lostReady hs).sub (by omega) (by rw [length_entries]; omega))

theorem relisted_relist : Relisted s (relist s k l) := by
  have hstored := stored_entries hs hl
  refine ⟨lostBase_congr fun o ho => ?_, ?_, hstored.poison, fun x hx => ?_⟩
  · rw [relist, State.reg_setReg_ne _ _ ho, hstored.reg]
  · rw [relist, loc_setReg _ lostCount_not_layout, hstored.loc]
  · rw [relist, byte_setReg _ lostCount_not_layout]
    exact hstored.byte_outside (by rw [length_entries]; omega)

theorem num_relist_of_lt {i : Nat} (hi : i < k) :
    (relist s k l).num (s.lostBase + 8 * i) 8 = s.num (s.lostBase + 8 * i) 8 := by
  refine num_congr fun x _ hx => ?_
  rw [relist, byte_setReg _ lostCount_not_layout, (stored_entries hs hl).byte_outside (.inl (by omega))]

theorem num_relist_add {i : Nat} (hi : i < l.length) :
    (relist s k l).num (s.lostBase + 8 * (k + i)) 8 = l[i] % 256 ^ 8 := by
  have hbytes := (stored_entries hs hl).bytes_inside (k := 8 * i) (n := 8) (by rw [length_entries]; omega)
  rw [entry_of_entries hi, Nat.add_assoc, ← Nat.mul_add] at hbytes
  rw [relist, State.num, bytes_congr fun x _ _ => congrFun (byte_setReg _ lostCount_not_layout _) x, hbytes, leNat_natLE]

theorem lostList_relist (hk : k ≤ s.lostCount) (hc : ∀ c ∈ l, c < 2 ^ 20) :
    (relist s k l).lostList = s.lostList.take k ++ l := by
  have htake : (s.lostList.take k).length = k := by simp [hk]
  apply List.ext_getElem
  · simp [lostCount_relist s hl, hk]
  intro i hi hi'
  rw [getElem_lostList, (relisted_relist hs hl).base]
  by_cases hik : i < k
  · rw [num_relist_of_lt hs hl hik, List.getElem_append_left (htake.symm ▸ hik), List.getElem_take, getElem_lostList]
  · obtain ⟨j, rfl⟩ := Nat.exists_eq_add_of_le (Nat.le_of_not_lt hik)
    have hj : j < l.length := by simp [hk] at hi'; omega
    have hlt := hc l[j] (List.getElem_mem hj)
    rw [num_relist_add hs hl hj, List.getElem_append_right (by omega)]
    simp only [htake, Nat.add_sub_cancel_left, fld, Nat.shiftRight_zero]
    omega

end

/-! ### The flag -/

section
variable {s u : State} (hs : LostReady s) (hu : Relisted s u)
include hs hu

theorem clear_of_relisted : Clear u s.lostBase 136 := (clear_of_lostReady hs).congr hu.loc hu.poison

theorem lostFlag_eq_write :
    u.lostFlag = u.write (s.lostBase + 128) (natLE 8 (s.num (s.lostBase + 128) 8 + 1)) := by
  have hpoison : u.poisoned (s.lostBase + 128) = false := (clear_of_relisted hs hu).not_poisoned (by omega) (by omega)
  have hnum : u.num (s.lostBase + 128) 8 = s.num (s.lostBase + 128) 8 := num_congr fun x hx _ => hu.byte x (.inr hx)
  obtain ⟨-, halign, -, hhome⟩ := hs
  rw [State.atomicHome, State.mapped, ← hu.loc] at hhome
  have halign' : (s.lostBase + 128) % 8 = 0 := by omega
  simp [State.lostFlag, State.atomic, State.atomicEffect, atomAlign, State.atomicHome, State.mapped, hu.base, hhome, hpoison,
    halign', hnum]

theorem stored_lostFlag :
    Stored u u.lostFlag (s.lostBase + 128) (natLE 8 (s.num (s.lostBase + 128) 8 + 1)) := by
  rw [lostFlag_eq_write hs hu]
  exact stored_write ((clear_of_relisted hs hu).sub (by omega) (by rw [length_natLE]))

theorem lostFlagRose_lostFlag : LostFlagRose s u.lostFlag := by
  have hstored := stored_lostFlag hs hu
  refine ⟨hstored.num_eq, fun x hx => ?_⟩
  rw [hstored.byte_outside (by rw [length_natLE]; omega), hu.byte x (by omega)]

theorem lostList_lostFlag (hcount : u.lostCount ≤ 16) : u.lostFlag.lostList = u.lostList := by
  have hstored := stored_lostFlag hs hu
  have hc : u.lostFlag.lostCount = u.lostCount := by rw [State.lostCount, hstored.reg, State.lostCount]
  rw [State.lostList, State.lostList, hc, lostBase_congr fun o _ => hstored.reg o, hu.base]
  refine List.map_congr_left fun i hi => ?_
  have hi := List.mem_range.mp hi
  rw [num_congr fun x _ hx => hstored.byte_outside (.inl (by omega))]

end

/-! ### Aborts (R326) -/

theorem lostFlag_coll (s : State) : s.lostFlag.coll = s.coll := by
  unfold State.lostFlag State.atomic
  split
  · rfl
  split
  · rfl
  · obtain ⟨m, p, h⟩ := s.write_rest (s.lostBase + 128) (natLE 8 (s.num (s.lostBase + 128) 8 + 1))
    exact (congrArg State.coll h :)

theorem putChunk_coll (s : State) (wins : List Nat) (a : Nat) (bs : List Byte) (mark : Bool) :
    (s.putChunk wins a bs mark).1.coll = s.coll := by
  unfold State.putChunk
  split
  · split
    · unfold State.poisonLine
      split <;> rfl
    · obtain ⟨m, p, h⟩ := s.writeLine_rest a bs
      rw [h]
  · split <;> rfl

theorem putBytesAt_coll (n : Nat) (s : State) (wins : List Nat) (a : Nat) (bs : List Byte) (bads : List Bool) :
    (s.putBytesAt wins a bs bads n).1.coll = s.coll := by
  induction n generalizing s a bs bads with
  | zero => rfl
  | succ n ih =>
    unfold State.putBytesAt
    split
    · rfl
    · exact (ih ..).trans (putChunk_coll ..)

theorem putBytes_coll (s : State) (a : Nat) (bs : List Byte) (bads : List Bool) (n : Nat) :
    (s.putBytes a bs bads n).coll = s.coll := putBytesAt_coll ..

/-- A collective that ends leaves the jobs that do not bear its number. -/
theorem collEnd_jobs (s : State) (c : Coll) (outcome : Nat) (poisoned : Bool) :
    (s.collEnd c outcome poisoned).coll.jobs = s.coll.jobs.filter (fun j => j.id != c.id) := by
  unfold State.collEnd
  extract_lets early n f s1 s2 s3
  have h1 : s1.coll = s.coll := by
    unfold s1
    split
    · exact putBytes_coll ..
    · rfl
  have h2 : s2.coll = s.coll := (putBytes_coll ..).trans h1
  have h3 : s3.coll = s.coll := by
    unfold s3
    split
    · exact h2
    · split <;> exact h2
  show s3.coll.jobs.filter _ = _
  rw [h3]

theorem collAbort_jobs (s : State) (c : Coll) (outcome : Nat) :
    (s.collAbort c outcome).coll.jobs = s.coll.jobs.filter (fun j => j.id != c.id) := by
  rw [State.collAbort, collEnd_jobs]
  congr 2
  refine List.foldlRecOn (motive := fun t : State => t.coll = s.coll) _ _ rfl fun t ht n _ => ?_
  obtain ⟨f, h⟩ := t.sendFlow_rest (t.mkPacket n.2.1 0x09 (cFlow c.b n.1 3 n.2.2) 1 true 0 [1]) .none
  rw [h]
  exact ht

theorem mem_jobs_of_aborts {s : State} {l : List Coll} {j : Coll}
    (h : j ∈ (l.foldl (fun t c => t.collAbort c 1) s).coll.jobs) :
    j ∈ s.coll.jobs ∧ ∀ c ∈ l, j.id ≠ c.id := by
  induction l generalizing s with
  | nil => exact ⟨h, fun _ hc => nomatch hc⟩
  | cons c l ih =>
    obtain ⟨hmem, hids⟩ := ih h
    rw [collAbort_jobs] at hmem
    obtain ⟨hj, hne⟩ := List.mem_filter.mp hmem
    exact ⟨hj, List.forall_mem_cons.mpr ⟨by simpa using hne, hids⟩⟩

theorem not_running_of_abortAll (s : State) : ∀ j ∈ (abortAll s).coll.jobs, j.running = false := by
  intro j hj
  obtain ⟨hmem, hids⟩ := mem_jobs_of_aborts hj
  by_contra hrun
  exact hids j (List.mem_filter.mpr ⟨hmem, by simpa using hrun⟩) rfl

theorem abortAll_of_idle {s : State} (h : ∀ j ∈ s.coll.jobs, j.running = false) : abortAll s = s := by
  have hnone : s.coll.jobs.filter (·.running) = [] := List.filter_eq_nil_iff.mpr fun j hj => by simp [h j hj]
  rw [abortAll, hnone]
  rfl

theorem relist_coll (s : State) (k : Nat) (l : List Nat) : (relist s k l).coll = s.coll := by
  obtain ⟨m, p, h⟩ := s.write_rest (s.lostBase + 8 * k) (l.flatMap (natLE 8))
  rw [relist, h]
  rfl

/-! ### The three operations -/

section
variable {s : State} {c : Nat} (hr : s.ready = true) (hc : c < 2 ^ 20)

include hr in
theorem lostAdd_full (h : 16 ≤ s.lostCount) : lostAdd c s = s.orReg 0x704C 8 := by
  simp [lostAdd, hr, h]

include hr hc in
theorem lostAdd_present (h : s.lostCount < 16) (hin : s.lostList.contains c = true) : lostAdd c s = s := by
  simp only [lostAdd, hr, Nat.mod_eq_of_lt hc, hin, Nat.not_le.mpr h]
  simp

include hr hc in
theorem lostAdd_absent (h : s.lostCount < 16) (hin : s.lostList.contains c = false) :
    lostAdd c s = (abortAll (relist s s.lostCount [c])).lostFlag := by
  simp only [lostAdd, hr, Nat.mod_eq_of_lt hc, hin, Nat.not_le.mpr h]
  simp [relist]

include hr hc in
theorem lostRemove_absent (h : s.lostList.erase c = s.lostList) : lostRemove c s = s.lostFlag := by
  simp only [lostRemove, hr, Nat.mod_eq_of_lt hc, h]
  simp

include hr hc in
theorem lostRemove_present (h : s.lostList.erase c ≠ s.lostList) :
    lostRemove c s = (relist s 0 (s.lostList.erase c)).lostFlag := by
  simp only [lostRemove, hr, Nat.mod_eq_of_lt hc, h]
  simp [relist]

include hr in
theorem execLostClear_ready : execLostClear s = .next (relist s 0 []).lostFlag := by
  simp only [execLostClear, hr]
  rfl

end

/-- What an operation answers: the list as its entries left it, and the flag risen. -/
theorem lostList_of_relist {s : State} {k : Nat} {l : List Nat} (hs : LostReady s) (hl : k + l.length ≤ 16)
    (hk : k ≤ s.lostCount) (hc : ∀ c ∈ l, c < 2 ^ 20) :
    (relist s k l).lostFlag.lostList = s.lostList.take k ++ l ∧ LostFlagRose s (relist s k l).lostFlag := by
  have hu := relisted_relist hs hl
  refine ⟨?_, lostFlagRose_lostFlag hs hu⟩
  rw [lostList_lostFlag hs hu (by rwa [lostCount_relist s hl]), lostList_relist hs hl hk hc]

theorem lostRemove_spec {s : State} {c : Nat} (hs : LostReady s) (hc : c < 2 ^ 20) (hcount : s.lostCount ≤ 16) :
    (lostRemove c s).lostList = s.lostList.erase c ∧ LostFlagRose s (lostRemove c s) := by
  have hr : s.ready = true := hs.1
  by_cases h : s.lostList.erase c = s.lostList
  · rw [lostRemove_absent hr hc h, h]
    exact ⟨lostList_lostFlag hs (.refl s) hcount, lostFlagRose_lostFlag hs (.refl s)⟩
  · have hlen : (s.lostList.erase c).length ≤ 16 := List.length_erase_le.trans (by simpa using hcount)
    rw [lostRemove_present hr hc h]
    exact lostList_of_relist hs (by omega) (Nat.zero_le _) fun x hx => lt_of_mem_lostList (List.mem_of_mem_erase hx)

theorem lostListOperations : LostListOperations := by
  intro s c hs hc hcount
  have hr : s.ready = true := hs.1
  refine ⟨fun hin hroom hidle => ?add, fun hin hroom => ?abort, fun hin hroom => ?present, fun hfull => ?full,
    ⟨_, rfl, lostRemove_spec hs hc hcount⟩, ?clear⟩
  case add =>
    have hidle' : ∀ j ∈ (relist s s.lostCount [c]).coll.jobs, j.running = false := by rwa [relist_coll]
    have hspec := lostList_of_relist hs (l := [c]) (Nat.succ_le_of_lt hroom) le_rfl (by simpa using hc)
    rw [List.take_of_length_le (by simp)] at hspec
    refine ⟨lostAdd c s, rfl, ?_⟩
    rwa [lostAdd_absent hr hc hroom hin, abortAll_of_idle hidle']
  case abort =>
    refine ⟨lostAdd c s, rfl, ?_⟩
    rw [lostAdd_absent hr hc hroom hin, lostFlag_coll]
    exact not_running_of_abortAll _
  case present => exact congrArg Host.Outcome.next (lostAdd_present hr hc hroom hin)
  case full => exact congrArg Host.Outcome.next (lostAdd_full hr hfull.ge)
  case clear => exact ⟨_, execLostClear_ready hr, lostList_of_relist hs (by simp) (Nat.zero_le _) (by simp)⟩

end Sys2Proof.Proofs.LostList
end

section
/-! PROOF. The error log, the watchdog and the steward (R369, R398 to R400, R456). -/

namespace Sys2Proof.Proofs.Steward

open Sys2Proof.Machine Sys2Proof.Claims Sys2Proof.Proofs.HomeLocations Sys2Proof.Proofs.MemoryAccess
  Sys2Proof.Proofs.Registers

/-! ### The log -/

theorem length_logBytes (n : Nat) (r : LogRec) : (logBytes n r).length = 32 := by
  simp [logBytes, zeroB]

theorem logCount_not_layout : ¬LayoutReg 0x7050 := by unfold LayoutReg; omega

section
variable {s : State} {r : LogRec} {rest : List LogRec} {a : Nat} (hq : s.logQ = r :: rest)
  (hon : bitAt (s.reg 0x7004) 17 = true) (hup : s.dep.stewardDown = false) (hwork : s.stewardFailed = false)
  (ha : a = s.regPair 0x7028 % 2 ^ 48 + 32 * (s.reg 0x7050 % 4096)) (hhome : s.atomicHome a = true) (hplain : Plain s a 32)
include hq hon hup hwork ha hhome

theorem logWrite_mapped :
    logWrite s = (State.write { s with logQ := rest } a (logBytes (s.reg 0x7050) r)).countReg 0x7050 1 := by
  subst ha
  have hhome' : State.atomicHome { s with logQ := rest } (s.regPair 0x7028 % 2 ^ 48 + 32 * (s.reg 0x7050 % 4096)) = true :=
    hhome
  simp only [logWrite, hq, hon, hup, hwork, hhome', Bool.true_eq_false, Bool.false_eq_true, or_self, if_true, if_false]

include hplain in
theorem logWrite_stored : ∃ t, Stored { s with logQ := rest } t a (logBytes (s.reg 0x7050) r) ∧
    logWrite s = t.countReg 0x7050 1 := by
  refine ⟨_, stored_write ?_, logWrite_mapped hq hon hup hwork ha hhome⟩
  rw [length_logBytes]
  exact clear_of_plain hplain

include hplain in
theorem logWrite_spec :
    (logWrite s).logQ = rest ∧ (logWrite s).bytes a 32 = logBytes (s.reg 0x7050) r ∧ OnlyBytes s (logWrite s) a 32 ∧
      (logWrite s).reg 0x7050 = satAdd32 (s.reg 0x7050) 1 := by
  obtain ⟨t, hstored, hlog⟩ := logWrite_stored hq hon hup hwork ha hhome hplain
  have hbyte (x : Nat) : (logWrite s).byte x = t.byte x := by
    rw [hlog]
    exact congrFun (byte_setReg t logCount_not_layout _) x
  have hbytes := hstored.bytes_eq
  have honly := hstored.onlyBytes
  rw [length_logBytes] at hbytes honly
  refine ⟨?queue, (bytes_congr fun x _ _ => hbyte x).trans hbytes, fun x hx => (hbyte x).trans (honly x hx), ?count⟩
  case queue =>
    obtain ⟨⟨m, rfl⟩, -⟩ := hstored
    rw [hlog]
    rfl
  case count =>
    rw [hlog, reg_countReg_self, hstored.reg]
    rfl

end

/-! ### The watchdog -/

theorem watchdogRestart_up {s : State} (h : s.dep.stewardDown = false) :
    watchdogRestart s = { s with dep := { s.dep with wdogAt := s.time } } := by
  simp [watchdogRestart, h, State.updDep]

/-- The expiries of the last 10 s. -/
def recentExpiries (s : State) : List Nat := s.dep.expiries.filter (fun x => decide (s.time ≤ x + 10000000000))

/-- The maltster in reset, with the expiry noted. -/
def expired (s : State) : State :=
  s.updDep (fun d => { d with expiries := recentExpiries s ++ [s.time], stewardDown := true, wdogAt := s.time })

theorem wdogExpire_eq (s : State) : s.wdogExpire =
    if 2 ≤ (recentExpiries s).length then ((expired s).depStatus 8).event 0x000A 32 [(16, 4, s.reg 0x7058)]
    else expired s := rfl

theorem stewardFailed_depStatus (s : State) : (s.depStatus 8).stewardFailed = true := by
  have hbit : ((s.orReg 0x7000 8).reg 0x7000).testBit 3 = true := by
    rw [testBit_orReg _ _ (by decide), show Nat.testBit 8 3 = true by decide, Bool.or_true]
  unfold State.depStatus State.stewardFailed
  rw [bitAt_eq_testBit]
  dsimp only
  split
  · rwa [reg_orReg_ne _ _ (by decide)]
  · exact hbit

theorem watchdogExpire_ready {s : State} (hdue : s.wdogDue = true) (hr : s.ready = true) :
    watchdogExpire false s = s.wdogExpire := by
  simp [watchdogExpire, hdue, hr]

theorem wdogExpire_spec (s : State) :
    s.wdogExpire.dep = (expired s).dep ∧ s.wdogExpire.mem = s.mem ∧ s.wdogExpire.dies = s.dies ∧
    (2 ≤ (recentExpiries s).length → s.wdogExpire.stewardFailed = true) ∧
    ((recentExpiries s).length < 2 → s.wdogExpire.regs = s.regs) := by
  rw [wdogExpire_eq]
  by_cases h : 2 ≤ (recentExpiries s).length
  · obtain ⟨q, hev⟩ := ((expired s).depStatus 8).event_rest 0x000A 32 [(16, 4, s.reg 0x7058)]
    have hfail := stewardFailed_depStatus (expired s)
    obtain ⟨r, hst⟩ := (expired s).depStatus_rest 8
    rw [if_pos h, hev]
    refine ⟨?_, ?_, ?_, fun _ => hfail, fun hlt => absurd h (by omega)⟩ <;> rw [hst] <;> rfl
  · rw [if_neg h]
    exact ⟨rfl, rfl, rfl, fun h' => absurd h' h, fun _ => rfl⟩

/-! ### Supplements (R454 to R456) -/

/-- Where the slot of a supplement begins in the flash. -/
def slotAddr (i : Fin 2) : Nat := 0x80000 + i.val * 0x40000

/-- Whether the supplement found in a slot stays loaded. -/
def stays (s : State) (i : Fin 2) (r : Nat × Nat) : Bool := Config.supplementStays (s.flash (slotAddr i) (64 + r.2))

/-- A load writes the start-up state, less its flash, and sets the slot's bit where the supplement stays. -/
theorem loadSlot_eq (s : State) (i : Fin 2) (r : Nat × Nat) : ∃ b : BootSt,
    s.loadSlot i r =
      (if stays s i r then State.orReg { s with boot := b } 0x1000 (2 ^ (7 + i.val)) else { s with boot := b }) ∧
    b.flash = s.boot.flash ∧ b.secVer = s.boot.secVer.set i (s.flashNum (slotAddr i + 20) 4) :=
  ⟨_, rfl, rfl, rfl⟩

/-- A slot loaded where a supplement was found for it. -/
def loadIf (s : State) (i : Fin 2) : Option (Nat × Nat) → State
  | some r => s.loadSlot i r
  | none => s

section
variable (s : State) (i : Fin 2) (o : Option (Nat × Nat))

theorem loadIf_rest : ∃ b g, loadIf s i o = { s with boot := b, regs := g } ∧ b.flash = s.boot.flash := by
  cases o with
  | none => exact ⟨_, _, rfl, rfl⟩
  | some r =>
    obtain ⟨b, heq, hflash, -⟩ := loadSlot_eq s i r
    rw [loadIf, heq]
    split <;> exact ⟨_, _, rfl, hflash⟩

theorem loadIf_reg_ne {q : Nat} (h : q ≠ 0x1000) : (loadIf s i o).reg q = s.reg q := by
  cases o with
  | none => rfl
  | some r =>
    obtain ⟨b, heq, -, -⟩ := loadSlot_eq s i r
    rw [loadIf, heq]
    split
    · exact reg_orReg_ne _ _ h
    · rfl

theorem loadIf_testBit (j : Fin 2) : ((loadIf s i o).reg 0x1000).testBit (7 + j.val) =
    ((s.reg 0x1000).testBit (7 + j.val) || decide (i = j) && o.any (stays s i)) := by
  cases o with
  | none => simp [loadIf]
  | some r =>
    have hbit : (2 ^ (7 + i.val)).testBit (7 + j.val) = decide (i = j) := by
      simp [Nat.testBit_two_pow, Fin.ext_iff]
    obtain ⟨b, heq, -, -⟩ := loadSlot_eq s i r
    rw [loadIf, heq, Option.any_some]
    split
    next h =>
      rw [testBit_orReg _ _ (by omega), hbit, h, Bool.and_true]
      rfl
    next h =>
      rw [Bool.not_eq_true] at h
      rw [h, Bool.and_false, Bool.or_false]
      rfl

theorem loadIf_secVer (j : Fin 2) : (loadIf s i o).boot.secVer[j] =
    if i = j then o.elim s.boot.secVer[j] (fun _ => s.flashNum (slotAddr i + 20) 4) else s.boot.secVer[j] := by
  cases o with
  | none => simp [loadIf]
  | some r =>
    obtain ⟨b, heq, -, hver⟩ := loadSlot_eq s i r
    have hboot : (s.loadSlot i r).boot = b := by
      rw [heq]
      split <;> rfl
    rw [loadIf, hboot, hver]
    simp [Vector.getElem_set, Fin.ext_iff]

end

/-- Slot 0 and then slot 1; where both hold a supplement, the second may be left. -/
theorem loadSupplements_eq (s : State) : ∃ o, s.loadSupplements = loadIf (loadIf s 0 (s.supplement 0)) 1 o ∧
    (s.supplement 1 = none → o = none) ∧ (s.supplement 0 = none → o = s.supplement 1) := by
  unfold State.loadSupplements
  cases h0 : s.supplement 0 with
  | none =>
    cases h1 : s.supplement 1 with
    | none => exact ⟨none, rfl, fun _ => rfl, fun _ => rfl⟩
    | some r1 => exact ⟨some r1, rfl, nofun, fun _ => rfl⟩
  | some r0 =>
    cases h1 : s.supplement 1 with
    | none => exact ⟨none, rfl, fun _ => rfl, nofun⟩
    | some r1 =>
      dsimp only
      split
      · exact ⟨none, rfl, nofun, nofun⟩
      · exact ⟨some r1, rfl, nofun, nofun⟩

theorem flash_congr {s t : State} (h : t.boot.flash = s.boot.flash) : t.flash = s.flash := by
  funext a n
  rw [State.flash, State.flash, h]

theorem flashNum_congr {s t : State} (h : t.boot.flash = s.boot.flash) : t.flashNum = s.flashNum := by
  funext a n
  rw [State.flashNum, State.flashNum, flash_congr h]

theorem stays_congr {s t : State} (h : t.boot.flash = s.boot.flash) : stays t = stays s := by
  funext i r
  rw [stays, stays, flash_congr h]

theorem supplement_congr {s t : State} (h : t.boot.flash = s.boot.flash) (hcopy : t.copyUsed = s.copyUsed) :
    t.supplement = s.supplement := by
  have hcert : t.signerCert = s.signerCert := by
    funext copy
    rw [State.signerCert, State.signerCert, State.partBytes, State.partBytes, flash_congr h]
  funext k
  unfold State.supplement
  rw [flashNum_congr h, flash_congr h, hcert, hcopy]

/-! ### The restart -/

/-- The state with no supplement loaded. -/
def unloaded (s : State) : State := (s.andNotReg 0x1000 0x180).updBoot (fun b => { b with secVer := Vector.replicate 2 0 })

/-- The state with its supplements loaded again. -/
def reloaded (s : State) : State := (unloaded s).loadSupplements

theorem unloaded_supplement (s : State) : (unloaded s).supplement = s.supplement := by
  refine supplement_congr rfl ?_
  have hbit : ((s.andNotReg 0x1000 0x180).reg 0x1000).testBit 6 = (s.reg 0x1000).testBit 6 := by
    rw [testBit_andNotReg _ _ (by decide), show Nat.testBit 0x180 6 = false by decide, Bool.not_false, Bool.and_true]
  show fld ((s.andNotReg 0x1000 0x180).reg 0x1000) 6 1 = fld (s.reg 0x1000) 6 1
  rw [fld_one_eq_toNat, fld_one_eq_toNat, hbit]

theorem unloaded_testBit (s : State) (j : Fin 2) : ((unloaded s).reg 0x1000).testBit (7 + j.val) = false := by
  have hmask : Nat.testBit 0x180 (7 + j.val) = true := by revert j; decide
  show ((s.andNotReg 0x1000 0x180).reg 0x1000).testBit (7 + j.val) = false
  rw [testBit_andNotReg _ _ (by omega), hmask, Bool.not_true, Bool.and_false]

theorem unloaded_secVer (s : State) (j : Fin 2) : (unloaded s).boot.secVer[j] = 0 := by
  simp [unloaded, State.updBoot]

/-- What the restart leaves of each slot, by the supplement loaded into it. -/
theorem reloaded_slot (s : State) : ∃ o : Fin 2 → Option (Nat × Nat),
    (∀ i : Fin 2, s.supplement i.val = none → o i = none) ∧
    (∀ i : Fin 2, i = 0 ∨ s.supplement 0 = none → o i = s.supplement i.val) ∧
    ∀ i, bitAt ((reloaded s).reg 0x1000) (7 + i.val) = (o i).any (stays s i) ∧
      (reloaded s).boot.secVer[i] = (o i).elim 0 (fun _ => s.flashNum (slotAddr i + 20) 4) := by
  obtain ⟨o, heq, hnone, hsome⟩ := loadSupplements_eq (unloaded s)
  rw [unloaded_supplement] at heq hnone hsome
  have hflash : (loadIf (unloaded s) 0 (s.supplement 0)).boot.flash = s.boot.flash := by
    obtain ⟨b, g, hrest, hb⟩ := loadIf_rest (unloaded s) 0 (s.supplement 0)
    rw [hrest]
    exact hb
  have hstays : stays (unloaded s) = stays s := stays_congr rfl
  have hnum : (unloaded s).flashNum = s.flashNum := flashNum_congr rfl
  refine ⟨![s.supplement 0, o], ?_, ?_, fun i => ⟨?_, ?_⟩⟩
  · simpa using hnone
  · simpa using hsome
  · rw [bitAt_eq_testBit, reloaded, heq, loadIf_testBit, loadIf_testBit, unloaded_testBit, hstays, stays_congr hflash]
    revert i
    simp
  · rw [reloaded, heq, loadIf_secVer, loadIf_secVer, unloaded_secVer, hnum, flashNum_congr hflash]
    revert i
    simp

theorem reloaded_rest (s : State) : ∃ b g, reloaded s = { s with boot := b, regs := g } ∧ b.flash = s.boot.flash := by
  obtain ⟨o, heq, -, -⟩ := loadSupplements_eq (unloaded s)
  obtain ⟨b, g, hfirst, hb⟩ := loadIf_rest (unloaded s) 0 ((unloaded s).supplement 0)
  obtain ⟨b', g', hsecond, hb'⟩ := loadIf_rest (loadIf (unloaded s) 0 ((unloaded s).supplement 0)) 1 o
  refine ⟨b', g', ?_, ?_⟩
  · rw [reloaded, heq, hsecond, hfirst]
    rfl
  · rw [hb', hfirst]
    exact hb

theorem reloaded_reg_ne (s : State) {q : Nat} (h : q ≠ 0x1000) : (reloaded s).reg q = s.reg q := by
  obtain ⟨o, heq, -, -⟩ := loadSupplements_eq (unloaded s)
  rw [reloaded, heq, loadIf_reg_ne _ _ _ h, loadIf_reg_ne _ _ _ h]
  exact reg_andNotReg_ne _ _ h

/-- The state with the restart counted and the maltster up. -/
def restarted (s : State) : State :=
  ((reloaded s).updDep (fun d => { d with stewardDown := false, wdogAt := (reloaded s).time })).countReg 0x7058 1

theorem restarted_status (s : State) : (restarted s).reg 0x1000 = (reloaded s).reg 0x1000 := by
  rw [restarted, reg_countReg_ne _ _ (by decide)]
  exact State.reg_of_regs (State.updDep_regs _ _) _

theorem restarted_count (s : State) : (restarted s).reg 0x7058 = satAdd32 (s.reg 0x7058) 1 := by
  rw [restarted, reg_countReg_self, State.reg_of_regs (State.updDep_regs _ _), reloaded_reg_ne s (by decide)]

/-- The restart is reported by the log and by an event. -/
theorem stewardRestartDone_down {s : State} (hdown : s.dep.stewardDown = true) (hwork : s.stewardFailed = false) :
    stewardRestartDone s =
      ((restarted s).log 16 6 0 0xFF ((restarted s).reg 0x7058) 0).event 0x000A 32 [(16, 4, (restarted s).reg 0x7058)] := by
  unfold stewardRestartDone
  rw [if_neg (by simp [hdown, hwork])]
  rfl

theorem stewardRestartDone_spec {s : State} (hdown : s.dep.stewardDown = true) (hwork : s.stewardFailed = false) :
    ∃ g h q b, stewardRestartDone s =
        { s with regs := g, host := h, logQ := q, boot := b, dep := { s.dep with stewardDown := false, wdogAt := s.time } } ∧
      b = (reloaded s).boot ∧ b.flash = s.boot.flash ∧
      (stewardRestartDone s).reg 0x1000 = (reloaded s).reg 0x1000 ∧
      (stewardRestartDone s).reg 0x7058 = satAdd32 (s.reg 0x7058) 1 := by
  obtain ⟨g, h, q, hrest, hreg⟩ := report_rest (restarted s) 16 6 0 0xFF ((restarted s).reg 0x7058) 0 0x000A 32
    [(16, 4, (restarted s).reg 0x7058)]
  rw [← stewardRestartDone_down hdown hwork] at hrest hreg
  obtain ⟨b, g', hload, hb⟩ := reloaded_rest s
  refine ⟨g, h, q, b, ?_, by rw [hload], hb, ?_, ?_⟩
  · rw [hrest, restarted, hload]
    rfl
  · rw [hreg _ (by decide) (by decide), restarted_status]
  · rw [hreg _ (by decide) (by decide), restarted_count]

theorem logAndSteward : LogAndSteward := by
  intro s
  refine ⟨fun r rest a hq hon hup hwork ha hhome hplain => ⟨_, rfl, logWrite_spec hq hon hup hwork ha hhome hplain⟩,
    fun hup => congrArg Host.Outcome.next (watchdogRestart_up hup), fun hdue hr => ?expire, fun hdown hwork => ?restart⟩
  case expire =>
    obtain ⟨hdep, hmem, hdies, hthird, hfirst⟩ := wdogExpire_spec s
    refine ⟨s.wdogExpire, congrArg Host.Outcome.next (watchdogExpire_ready hdue hr), ?_, ?_, hmem, hdies, hthird, hfirst⟩
    · rw [hdep]
      rfl
    · rw [hdep]
      rfl
  case restart =>
    obtain ⟨g, h, q, b, heq, hboot, hflash, hstatus, hcount⟩ := stewardRestartDone_spec hdown hwork
    obtain ⟨o, hnone, hsome, hslot⟩ := reloaded_slot s
    have hbits (i : Fin 2) : bitAt ((stewardRestartDone s).reg 0x1000) (7 + i.val) = (o i).any (stays s i) ∧
        (stewardRestartDone s).boot.secVer[i] = (o i).elim 0 (fun _ => s.flashNum (slotAddr i + 20) 4) := by
      rw [hstatus, heq]
      show _ ∧ b.secVer[i] = _
      rw [hboot]
      exact hslot i
    refine ⟨stewardRestartDone s, rfl, by rw [heq], by rw [heq], hcount, by rw [heq], by rw [heq], by rw [heq]; exact hflash,
      fun i hi => ?_, fun i r hr hfree => ?_⟩
    · obtain ⟨hbit, hver⟩ := hbits i
      rw [hbit, hver, hnone i hi]
      exact ⟨rfl, rfl⟩
    · obtain ⟨hbit, hver⟩ := hbits i
      rw [hbit, hver, hsome i hfree, hr]
      exact ⟨rfl, rfl⟩

end Sys2Proof.Proofs.Steward
end

section
/-! PROOF. The lost list, the error log and the steward together. -/

namespace Sys2Proof.Proofs.ListsAndLog

open Sys2Proof.Machine Sys2Proof.Claims Sys2Proof.Proofs.LostList Sys2Proof.Proofs.Steward

/-- Settles O46: every operation on the lost list stores entries and then adds to the flag, which lie apart in memory; and
the log, the watchdog and the restart by what each leaves. -/
theorem listsAndLog : Obligations.ListsAndLog := by
  unfold Obligations.ListsAndLog
  exact ⟨lostListOperations, logAndSteward⟩

end Sys2Proof.Proofs.ListsAndLog
end

section
/-! PROOF. Attestation and the wear record (R451, R452, R458 to R462). A request is refused by the first of its faults in the
order length, reserved byte, identity (log entry 35); a block of the wear record reads back field by field from the chunk
that its writing puts before the rest of the flash. The value of a signature is free (log entry 1). -/

namespace Sys2Proof.Proofs.Identity

open Sys2Proof.Machine Sys2Proof.Claims Sys2Proof.Proofs.MemoryAccess

/-! ### Attestation requests (R458, Table 13-10) -/

section
variable {s : State} {code len : Nat} {req : List Byte} {f : State → State}

theorem attest_of_wrong_length (hon : s.attests = true) (h : req.length ≠ len ∨ fieldB req 4 4 ≠ len) :
    s.attest code len req f = s.respond code 3 [] := by
  rw [State.attest, if_neg (by simp [hon]), if_pos h]

theorem attest_of_right_length (hon : s.attests = true) (hlen : req.length = len) (hfield : fieldB req 4 4 = len) :
    s.attest code len req f =
      if fieldB req 1 3 ≠ 0 then s.respond code 1 [] else if s.identityOk = false then s.respond code 2 [] else f s := by
  rw [State.attest, if_neg (by simp [hon]), if_neg (by simp [hlen, hfield])]

theorem attest_of_request (h : Request s req len) : s.attest code len req f = f s := by
  obtain ⟨hon, hlen, hfield, hres, hid⟩ := h
  rw [attest_of_right_length hon hlen hfield, if_neg (by simp [hres]), if_neg (by simp [hid])]

theorem attest_refuses (hon : s.attests = true) :
    (req.length ≠ len ∨ fieldB req 4 4 ≠ len → s.attest code len req f = s.respond code 3 []) ∧
    (req.length = len → fieldB req 4 4 = len → fieldB req 1 3 ≠ 0 → s.attest code len req f = s.respond code 1 []) ∧
    (req.length = len → fieldB req 4 4 = len → fieldB req 1 3 = 0 → s.identityOk = false →
      s.attest code len req f = s.respond code 2 []) := by
  refine ⟨attest_of_wrong_length hon, fun hlen hfield hres => ?_, fun hlen hfield hres hid => ?_⟩
  · rw [attest_of_right_length hon hlen hfield, if_pos hres]
  · rw [attest_of_right_length hon hlen hfield, if_neg (by simp [hres]), if_pos hid]

end

section
variable {s : State} {req : List Byte}

theorem getCertificates_answered (h : Request s req 8) :
    Gives (.getCertificates req) s (s.respond 1 0 (s.partBytes s.copyUsed 0x56C0 0x4320)) := by
  show execGetCertificates req s = _
  rw [execGetCertificates, attest_of_request h]

theorem measure_answered (h : Request s req 41) :
    Gives (.measure req) s
      { s with
        freeCtr := s.freeCtr + 1
        out := .doe (s.report req ++ sliceB (Config.sign s.freeCtr (sha3 (s.report req))) 0 4627) :: s.out } := by
  show execMeasure req s = _
  rw [execMeasure, attest_of_request h]
  simp only [State.signed, State.emit]

theorem extend_answered (h : Request s req 72) :
    Gives (.extend req) s
      (({ s with boot := { s.boot with
          slots := s.boot.slots.set 6 (sha3 (sliceB s.boot.slots[6] 0 64 ++ sliceB req 8 64)) } } : State).respond 3 0
        (sha3 (sliceB s.boot.slots[6] 0 64 ++ sliceB req 8 64))) := by
  show execExtend req s = _
  rw [execExtend, attest_of_request h]
  rfl

end

theorem reservedAttestationCode_answered {s : State} {code : Nat} (hon : s.attests = true) (hlo : 3 < code)
    (hhi : code < 0x80) : Gives (.reservedAttestationCode code) s (s.respond code 1 []) :=
  congrArg Host.Outcome.next (if_pos ⟨hon, hhi, Or.inr hlo⟩)

theorem serviceHours_powered {s : State} (hon : s.boot.powered = true) :
    Gives .serviceHours s { s with boot := { s.boot with hours := s.boot.hours + 24, dueHours := true } } :=
  congrArg Host.Outcome.next (if_pos hon)

/-! ### Bytes of the flash -/

/-- A message cut to at least its length is the message and zeros. -/
theorem sliceB_eq_append_zeroB {bs : List Byte} {n : Nat} (h : bs.length ≤ n) :
    sliceB bs 0 n = bs ++ zeroB (n - bs.length) := by
  apply List.ext_getElem
  · simp [sliceB, zeroB, Nat.add_sub_of_le h]
  · intro i _ _
    by_cases hi : i < bs.length <;> simp [sliceB, zeroB, List.getElem_append, hi]

/-- What lies inside the newest chunk of the flash is read from it. -/
theorem flash_newest {s : State} {a : Nat} {pre mid post : List Byte} {old : List (Nat × List Byte)}
    (h : s.boot.flash = (a, pre ++ (mid ++ post)) :: old) : s.flash (a + pre.length) mid.length = mid := by
  apply List.ext_getElem
  · simp [State.flash]
  · intro i _ hi
    have hin : a ≤ a + pre.length + i ∧ a + pre.length + i < a + (pre ++ (mid ++ post)).length := by
      simp only [List.length_append]
      omega
    have hoff : a + pre.length + i - a = pre.length + i := by omega
    simp only [State.flash, List.getElem_map, List.getElem_range, h, flashByte, if_pos hin, hoff]
    simp [List.getElem?_append_right, List.getElem?_append_left, hi]

/-! ### The wear record (R451, R452) -/

/-- The entries of a block to come: lane substitutions, trims, the hours. -/
def dueEntries (s : State) : List (List Byte) :=
  s.newLanes.map entryLane ++ s.boot.dueTrims.map s.entryTrim ++ (if s.boot.dueHours then [s.entryHours] else [])

/-- A block's header between its count and its entries: reserved bytes, the serial, reserved bytes. -/
def wearHeaderRest (s : State) : List Byte :=
  zeroB 7 ++ ((List.range 4).flatMap (fun i => natLE 4 (s.reg (0x10 + 4 * i))) ++ zeroB 32)

theorem length_wearHeaderRest (s : State) : (wearHeaderRest s).length = 55 := by
  simp [wearHeaderRest, zeroB, List.length_flatMap]

theorem length_entryHours (s : State) : s.entryHours.length = 64 := by
  simp [State.entryHours, zeroB]

/-- A block written is the newest chunk of the flash: magic, sequence number, count, the rest of the header, the entries,
and after them the signature and erased bytes. -/
theorem wearBlock_flash (s : State) {entries : List (List Byte)} (h : entries.flatten.length ≤ 3072) :
    ∃ tail, (s.wearBlock entries).boot.flash = (wearAddr s.boot.half s.boot.block,
      natLE 4 0x52575654 ++ (natLE 4 (s.boot.seq + 1) ++ (natLE 1 entries.length ++
        (wearHeaderRest s ++ (entries.flatten ++ tail))))) :: s.boot.flash := by
  simp only [State.wearBlock, State.emit, State.updBoot, State.signed, sliceB_eq_append_zeroB h, wearHeaderRest,
    List.append_assoc]
  exact ⟨_, rfl⟩

/-- The fields of a block written, at their offsets of Table 13-7. -/
theorem wearBlock_fields {s t : State} {entries : List (List Byte)} {a : Nat} (h : entries.flatten.length ≤ 3072)
    (ha : a = wearAddr s.boot.half s.boot.block) (ht : t.boot.flash = (s.wearBlock entries).boot.flash) :
    t.flashNum a 4 = 0x52575654 ∧ t.flashNum (a + 4) 4 = (s.boot.seq + 1) % 2 ^ 32 ∧
      t.flashNum (a + 8) 1 = entries.length % 256 ∧ t.flash (a + 64) entries.flatten.length = entries.flatten := by
  obtain ⟨tail, hflash⟩ := wearBlock_flash s h
  rw [hflash, ← ha, ← List.nil_append (natLE 4 _ ++ _)] at ht
  have hmagic : t.flash a 4 = natLE 4 0x52575654 := by
    simpa using flash_newest ht
  rw [List.nil_append] at ht
  have hseq : t.flash (a + 4) 4 = natLE 4 (s.boot.seq + 1) := by
    simpa using flash_newest ht
  rw [← List.append_assoc] at ht
  have hcount : t.flash (a + 8) 1 = natLE 1 entries.length := by
    simpa using flash_newest ht
  rw [← List.append_assoc, ← List.append_assoc] at ht
  have hentries : t.flash (a + 64) entries.flatten.length = entries.flatten := by
    simpa [length_wearHeaderRest] using flash_newest ht
  exact ⟨by simp [State.flashNum, hmagic], by simp [State.flashNum, hseq], by simp [State.flashNum, hcount], hentries⟩

theorem wearBlocks_nil (s : State) (fuel : Nat) : s.wearBlocks [] fuel = s := by
  cases fuel <;> rfl

/-- At most 48 entries fit one block. -/
theorem wearBlocks_eq_wearBlock (s : State) {entries : List (List Byte)} (hne : entries ≠ []) (h : entries.length ≤ 48)
    (fuel : Nat) : s.wearBlocks entries (fuel + 1) = s.wearBlock entries := by
  rw [State.wearBlocks, if_neg (by simpa using hne), List.take_of_length_le h, List.drop_of_length_le h, wearBlocks_nil]

theorem compact_of_room {s : State} (h : s.boot.block < 64) : s.compact = s := if_pos h

/-- A state after the writing of every change of s: nothing is due. -/
def changesWritten (s t : State) : State :=
  { t with
    memc := { t.memc with newSpares := [] }
    boot := { t.boot with wear := t.boot.wear ++ s.newLanes, dueTrims := [], dueHours := false } }

theorem wearRecordWrite_eq (s : State) : wearRecordWrite s =
    if s.identityOk = false ∨ s.dep.stewardDown = true ∨ s.stewardFailed = true ∨ s.ready = false ∨ dueEntries s = [] then s
    else changesWritten s (s.compact.wearBlocks (dueEntries s) ((dueEntries s).length / 48 + 1)) := rfl

/-- Changes that fit one block, with room in the active half, are written in one block. -/
theorem wearRecordWrite_one_block {s : State} (hid : s.identityOk = true) (hready : s.ready = true)
    (hup : s.dep.stewardDown = false) (hwork : s.stewardFailed = false) (hroom : s.boot.block < 64)
    (hne : dueEntries s ≠ []) (hlen : (dueEntries s).length ≤ 48) :
    wearRecordWrite s = changesWritten s (s.wearBlock (dueEntries s)) := by
  rw [wearRecordWrite_eq, if_neg (by simp [hid, hready, hup, hwork, hne]), compact_of_room hroom,
    wearBlocks_eq_wearBlock s hne hlen]

theorem dueEntries_of_hours {s : State} (hlanes : s.newLanes = []) (htrims : s.boot.dueTrims = [])
    (hhours : s.boot.dueHours = true) : dueEntries s = [s.entryHours] := by
  simp [dueEntries, hlanes, htrims, hhours]

/-- Hours alone due: one block whose one entry is the hours. -/
theorem wearRecordWrite_of_hours {s : State} (hid : s.identityOk = true) (hready : s.ready = true)
    (hup : s.dep.stewardDown = false) (hwork : s.stewardFailed = false) (hlanes : s.newLanes = [])
    (htrims : s.boot.dueTrims = []) (hhours : s.boot.dueHours = true) (hroom : s.boot.block < 64) :
    wearRecordWrite s = changesWritten s (s.wearBlock [s.entryHours]) := by
  have hdue := dueEntries_of_hours hlanes htrims hhours
  rw [← hdue]
  exact wearRecordWrite_one_block hid hready hup hwork hroom (by simp [hdue]) (by simp [hdue])

/-- Settles O52: the refusals of a request by the order in which its form is tested, its answers where it has none of the
faults, and the wear record by the layout of the one block written. -/
theorem attestationAndWear : Obligations.AttestationAndWear := by
  unfold Obligations.AttestationAndWear
  intro s
  refine ⟨fun r hr req hon => ?refused, fun req => getCertificates_answered, fun req => measure_answered,
    fun req hreq => ⟨_, _, extend_answered hreq, rfl, rfl⟩, fun code => reservedAttestationCode_answered, rfl, serviceHours_powered,
    fun a hid hready hup hwork hlanes htrims hhours hroom ha => ?wear⟩
  case refused =>
    obtain ⟨f, hexec⟩ : ∃ f, exec (r.1 req) s = .next (s.attest r.2.1 r.2.2 req f) := by
      simp only [List.mem_cons, List.not_mem_nil, or_false] at hr
      obtain rfl | rfl | rfl := hr <;> exact ⟨_, rfl⟩
    simp only [Gives, hexec, Host.Outcome.next.injEq]
    exact attest_refuses hon
  case wear =>
    have hlen : [s.entryHours].flatten.length = 64 := by simp [length_entryHours]
    obtain ⟨hmagic, hseq, hcount, hentries⟩ :=
      wearBlock_fields (t := changesWritten s (s.wearBlock [s.entryHours])) (by rw [hlen]; decide) ha rfl
    rw [hlen, List.flatten_singleton] at hentries
    exact ⟨_, congrArg Host.Outcome.next (wearRecordWrite_of_hours hid hready hup hwork hlanes htrims hhours hroom),
      hmagic, hseq, hcount, hentries, rfl, rfl, rfl, rfl, rfl⟩

end Sys2Proof.Proofs.Identity
end

section
/-! SUPPORT. Bit fields: the bits of a field, of a number with a field replaced, and fields read after another is replaced. -/

namespace Sys2Proof.Proofs.BitFields

open Sys2Proof.Machine Sys2Proof.Proofs.Registers

theorem testBit_fld (x lo n i : Nat) : (fld x lo n).testBit i = (decide (i < n) && x.testBit (lo + i)) := by
  rw [fld, Nat.testBit_mod_two_pow, Nat.testBit_shiftRight]

/-- A number is what lies above a field, the field, and what lies below it. -/
theorem eq_fld_parts (x lo n : Nat) : x = 2 ^ lo * (2 ^ n * (x / 2 ^ (lo + n)) + fld x lo n) + x % 2 ^ lo := by
  rw [fld, Nat.shiftRight_eq_div_pow, pow_add, ← Nat.div_div_eq_div_mul, Nat.div_add_mod, Nat.div_add_mod]

theorem setFld_eq_parts (x lo n v : Nat) :
    setFld x lo n v = 2 ^ lo * (2 ^ n * (x / 2 ^ (lo + n)) + v % 2 ^ n) + x % 2 ^ lo := by
  have hx : x - fld x lo n * 2 ^ lo = 2 ^ lo * (2 ^ n * (x / 2 ^ (lo + n))) + x % 2 ^ lo := by
    conv_lhs => enter [1]; rw [eq_fld_parts x lo n]
    rw [Nat.mul_add, Nat.mul_comm (fld x lo n), Nat.add_right_comm, Nat.add_sub_cancel]
  rw [setFld, hx]
  ring

theorem testBit_setFld (x lo n v i : Nat) :
    (setFld x lo n v).testBit i = if lo ≤ i ∧ i < lo + n then v.testBit (i - lo) else x.testBit i := by
  rw [setFld_eq_parts, Nat.testBit_two_pow_mul_add _ (Nat.mod_lt _ (by positivity)),
    Nat.testBit_two_pow_mul_add _ (Nat.mod_lt _ (by positivity))]
  by_cases hlow : i < lo
  · simp [hlow, Nat.not_le.2 hlow]
  · by_cases hin : i < lo + n
    · simp [hlow, hin, Nat.not_lt.1 hlow, show i - lo < n by omega]
    · simp [hlow, hin, show ¬i - lo < n by omega, Nat.testBit_div_two_pow, show i - lo - n + (lo + n) = i by omega]

theorem fld_setFld_self (x lo n v : Nat) : fld (setFld x lo n v) lo n = v % 2 ^ n :=
  Nat.eq_of_testBit_eq fun i => by
    rw [testBit_fld, testBit_setFld, Nat.testBit_mod_two_pow]
    by_cases hi : i < n <;> simp [hi]

theorem fld_setFld_of_disjoint {lo n lo' n' : Nat} (h : lo + n ≤ lo' ∨ lo' + n' ≤ lo) (x v : Nat) :
    fld (setFld x lo' n' v) lo n = fld x lo n :=
  Nat.eq_of_testBit_eq fun i => by
    rw [testBit_fld, testBit_fld, testBit_setFld]
    by_cases hi : i < n
    · rw [if_neg (by omega)]
    · simp [hi]

/-- A register keeps the fields that lie within its 32 bits. -/
theorem fld_reg_setReg {lo n : Nat} (h : lo + n ≤ 32) (s : State) (o v : Nat) :
    fld ((s.setReg o v).reg o) lo n = fld v lo n :=
  Nat.eq_of_testBit_eq fun i => by
    rw [State.reg_setReg_self, testBit_fld, testBit_fld, Nat.testBit_mod_two_pow]
    by_cases hi : i < n
    · simp [show lo + i < 32 by omega]
    · simp [hi]

theorem bitAt_eq_false_iff (x i : Nat) : bitAt x i = false ↔ fld x i 1 = 0 := by
  rw [bitAt_eq_testBit, fld_one_eq_toNat, Bool.toNat_eq_zero]

end Sys2Proof.Proofs.BitFields
end

section
/-! PROOF. Setup registers and the board's interface (R5, R6, R441, R495 to R497, R501, R502): a write merges the bits that
may be written and then does what `State.written` says; the counters latch their high half; the board's commands. A changed
timing selection is free-running by log entry 53; the watts of a grant and the latched half are log entry 43's. -/

namespace Sys2Proof.Proofs.BoardInterface

open Sys2Proof.Machine Sys2Proof.Claims Sys2Proof.Proofs.Registers Sys2Proof.Proofs.BitFields

/-! ### The value a write leaves (R5, R6) -/

/-- A reserved code puts back bits of the old value alone, so a bit that has its old value keeps it. -/
theorem keepReserved_keeps_bit (o : Nat) {old new i : Nat} (h : new.testBit i = old.testBit i) :
    (keepReserved o old new).testBit i = old.testBit i := by
  refine List.foldlRecOn (motive := fun x : Nat => x.testBit i = old.testBit i) _ _ h fun x hx l _ => ?_
  dsimp only
  split
  · split
    · exact hx
    · rw [testBit_setFld]
      split
      case isTrue hin => simp [testBit_fld, show i - l.2.1 < l.2.2.1 by omega, Nat.add_sub_of_le hin.1]
      case isFalse => exact hx
  · exact hx

/-- A bit that is neither RW nor W1C keeps its value. -/
theorem regMerge_keeps_bit {r : RegRow} {i : Nat} (hi : i < 32) (hrw : bitAt r.rw i = false) (hw1c : bitAt r.w1c i = false)
    (o old v : Nat) : bitAt (regMerge r o old v) i = bitAt old i := by
  rw [bitAt_eq_testBit] at hrw hw1c ⊢
  rw [bitAt_eq_testBit]
  have hword : (0xFFFFFFFF : Nat).testBit i = true := by
    rw [show (0xFFFFFFFF : Nat) = 2 ^ 32 - 1 by rfl, Nat.testBit_two_pow_sub_one, decide_eq_true hi]
  refine keepReserved_keeps_bit o ?_
  simp [hrw, hw1c, hword]

/-! ### Writes of setup registers (R441, R270, R302) -/

theorem registerWrite_before_ready {s : State} (h : s.ready = false) (off v : Nat) : registerWrite off v s = s :=
  if_pos (.inl h)

theorem registerWrite_of_row {s : State} {off : Nat} {row : RegRow} (hready : s.ready = true) (hal : off % 4 = 0)
    (hown : ownWrite off = false) (hrow : regRow? off = some row) (v : Nat) : registerWrite off v s =
      (s.setReg off (regMerge row off (s.reg off) (v % 2 ^ 32))).written off (s.reg off) := by
  simp only [registerWrite, hready, hal, hown, hrow, ne_eq, not_true_eq_false, Bool.true_eq_false, Bool.false_eq_true, or_self,
    if_false]

section
variable {u : State} {off old : Nat}

theorem written_unchanged (htiming : off = 0x4028 → fld (u.reg off) 0 13 = fld old 0 13)
    (hperiod : off = 0x402C → fld (u.reg off) 0 16 = fld old 0 16) : u.written off old = u := by
  rw [State.written, if_neg fun h => h.2 (htiming h.1), if_neg fun h => h.2 (hperiod h.1)]

theorem written_timing (hoff : off = 0x4028) (h : fld (u.reg off) 0 13 ≠ fld old 0 13) :
    u.written off old = u.setTiming none := if_pos ⟨hoff, h⟩

theorem written_period (hoff : off = 0x402C) (h : fld (u.reg off) 0 16 ≠ fld old 0 16) :
    u.written off old = { u with fab := u.fab.clearMap } := by
  rw [State.written, if_neg (by omega), if_pos ⟨hoff, h⟩]

end

/-- Free-running: no source is current and the clock is not locked, and the selection stays. -/
theorem setTiming_none_fields (u : State) :
    fld ((u.setTiming none).reg 0x4028) 0 13 = fld (u.reg 0x4028) 0 13 ∧ fld ((u.setTiming none).reg 0x4028) 16 3 = 7 ∧
      bitAt ((u.setTiming none).reg 0x4028) 19 = false := by
  rw [bitAt_eq_false_iff, State.setTiming, fld_reg_setReg (by decide), fld_reg_setReg (by decide), fld_reg_setReg (by decide),
    fld_setFld_of_disjoint (by decide), fld_setFld_of_disjoint (by decide), fld_setFld_of_disjoint (by decide),
    fld_setFld_self, fld_setFld_self]
  exact ⟨rfl, rfl, rfl⟩

/-! ### Latched counters (R502) -/

section
variable {s : State} (hready : s.ready = true) (hon : s.boot.powered = true)
include hready hon

theorem counterLoRead_time : counterLoRead false s =
    State.emit { s with latch := (s.time / 2 ^ 32 % 2 ^ 32, s.latch.2) } (.bar0 (s.time % 2 ^ 32)) := by
  simp [counterLoRead, hready, hon, State.bar0Read, State.readReg]

theorem counterLoRead_energy : counterLoRead true s =
    State.emit { s with latch := (s.latch.1, s.reg 0x80B4, s.latch.2.2) } (.bar0 (s.reg 0x80B0)) := by
  simp [counterLoRead, hready, hon, State.bar0Read, State.readReg, State.reg]

/-! ### Block Reads of the board (R495, R496, R502) -/

theorem bmRead_ready (o : Nat) : s.bmRead o = s.emit (.bm (s.reg o)) := by
  rw [State.bmRead, if_pos hon, State.bmValue, if_pos (.inl hready)]

theorem bmReadEngEnergyLo_ready : Gives .bmReadEngEnergyLo s
    (State.emit { s with latch := (s.latch.1, s.latch.2.1, s.reg 0x80B4) } (.bm (s.reg 0x80B0))) := by
  show execBmReadEngEnergyLo s = _
  rw [execBmReadEngEnergyLo, if_pos hon, State.bmValue, State.bmValue, if_pos (.inl hready), if_pos (.inl hready)]

theorem bmReadEngEnergyHi_ready : Gives .bmReadEngEnergyHi s (s.emit (.bm s.latch.2.2)) := by
  show execBmReadEngEnergyHi s = _
  rw [execBmReadEngEnergyHi, if_pos hon, if_pos hready]

end

/-! ### Writes of the board (R496, R497, R501) -/

section
variable {s : State} {v : Nat} (hon : s.boot.powered = true)
include hon

theorem bmWriteGrant_not_loaded (h : s.boot.loaded = false) : bmWriteGrant v s = s.emit .bmNack := by
  rw [bmWriteGrant, if_neg (by simp [hon]), if_pos h]

theorem bmWriteGrant_in_range (h : s.boot.loaded = true) (hlo : 400 ≤ fld v 0 12) (hhi : fld v 0 12 ≤ 3600) :
    bmWriteGrant v s = s.setReg 0x8008 (fld v 0 12) := by
  rw [bmWriteGrant, if_neg (by simp [hon]), if_neg (by simp [h]), if_pos ⟨hlo, hhi⟩]

theorem bmWriteGrant_out_of_range (h : s.boot.loaded = true) (hout : fld v 0 12 < 400 ∨ 3600 < fld v 0 12) :
    bmWriteGrant v s = s.orReg 0x30 32 := by
  rw [bmWriteGrant, if_neg (by simp [hon]), if_neg (by simp [h]), if_neg (by omega)]

end

/-! ### Alert and refused transactions (R495, R497) -/

/-- BM_ALERT_N is low while a status bit is 1 and enabled. -/
theorem alertLow_iff (s : State) :
    s.alertLow = true ↔ ∃ i < 6, bitAt (s.reg 0x30) i = true ∧ bitAt (s.reg 0x34) i = true := by
  have hbit (i : Nat) : ((s.reg 0x30 &&& s.reg 0x34) % 64).testBit i =
      (decide (i < 6) && ((s.reg 0x30).testBit i && (s.reg 0x34).testBit i)) := by
    rw [show 64 = 2 ^ 6 by rfl, Nat.testBit_mod_two_pow, Nat.testBit_and]
  simp only [State.alertLow, decide_eq_true_eq, bitAt_eq_testBit]
  constructor
  · intro h
    obtain ⟨i, hi⟩ := Nat.exists_testBit_of_ne_zero h
    rw [hbit] at hi
    exact ⟨i, by simpa using hi⟩
  · rintro ⟨i, hi, hstatus, hen⟩ hzero
    simpa [hzero, hi, hstatus, hen] using hbit i

theorem bmAlertResponse_low {s : State} (hon : s.boot.powered = true)
    (h : ∃ i < 6, bitAt (s.reg 0x30) i = true ∧ bitAt (s.reg 0x34) i = true) :
    Gives .bmAlertResponse s (s.emit (.bm (0x58 + Config.bmStraps % 4))) :=
  congrArg Host.Outcome.next (if_pos ⟨hon, (alertLow_iff s).2 h⟩)

theorem bmAlertResponse_high {s : State} (h : ∀ i < 6, bitAt (s.reg 0x30) i = true → bitAt (s.reg 0x34) i = false) :
    Gives .bmAlertResponse s s := by
  refine congrArg Host.Outcome.next (if_neg fun hlow => ?_)
  obtain ⟨i, hi, hstatus, hen⟩ := (alertLow_iff s).1 hlow.2
  simp [h i hi hstatus] at hen

theorem bmNack_powered {s : State} (hon : s.boot.powered = true) (pec : Bool) : bmNack pec s =
    if pec then (s.emit .bmNack).fieldReg 0x30 8 8 (min 255 (fld (s.reg 0x30) 8 8 + 1)) else s.emit .bmNack :=
  if_neg (by simp [hon])

/-- The count of PEC errors stays within its field. -/
theorem pecErrors_counted (s : State) (n : Nat) : fld ((s.fieldReg 0x30 8 8 (min 255 n)).reg 0x30) 8 8 = min 255 n := by
  rw [State.fieldReg, fld_reg_setReg (by decide), fld_setFld_self]
  omega

/-- Settles O53: the merge of a write bit by bit and what follows it register by register, the two latches, and the board's
commands each by the equation of its case. -/
theorem registersAndBoard : Obligations.RegistersAndBoard := by
  unfold Obligations.RegistersAndBoard
  intro s
  refine ⟨fun off v row hready hal hown hrow => ?write,
    fun off v h => congrArg Host.Outcome.next (registerWrite_before_ready h off v),
    fun row off old v i hi hrw hw1c => regMerge_keeps_bit hi hrw hw1c off old v, fun hready hon => ⟨?time, ?energy⟩,
    fun r hr hon hready => ?boardRead,
    fun hon hready => ⟨⟨_, bmReadEngEnergyLo_ready hready hon, rfl, rfl, rfl⟩, bmReadEngEnergyHi_ready hready hon⟩,
    fun v hon hloaded => ⟨fun hlo hhi => congrArg Host.Outcome.next (bmWriteGrant_in_range hon hloaded hlo hhi),
      fun hout => congrArg Host.Outcome.next (bmWriteGrant_out_of_range hon hloaded hout)⟩,
    fun v hon hloaded => congrArg Host.Outcome.next (bmWriteGrant_not_loaded hon hloaded),
    fun v hready => ⟨congrArg Host.Outcome.next (if_pos hready), congrArg Host.Outcome.next (if_pos hready)⟩,
    fun hon => ⟨bmAlertResponse_low hon, bmAlertResponse_high⟩,
    fun hon => ⟨congrArg Host.Outcome.next (bmNack_powered hon false), ?counted⟩⟩
  case write =>
    intro u
    have hexec : Gives (.registerWrite off v) s (u.written off (s.reg off)) :=
      congrArg Host.Outcome.next (registerWrite_of_row hready hal hown hrow v)
    refine ⟨fun htiming hperiod => ?_, fun hoff hne => ?_, fun hoff hne => ?_⟩
    · rwa [written_unchanged htiming hperiod] at hexec
    · rw [written_timing hoff hne] at hexec
      subst hoff
      obtain ⟨hsel, hcurrent, hlocked⟩ := setTiming_none_fields u
      exact ⟨_, hexec, hsel, hcurrent, hlocked, rfl, rfl, rfl⟩
    · rwa [written_period hoff hne] at hexec
  case time => exact ⟨_, congrArg Host.Outcome.next (counterLoRead_time hready hon), rfl, rfl, rfl, rfl⟩
  case energy => exact ⟨_, congrArg Host.Outcome.next (counterLoRead_energy hready hon), rfl, rfl, rfl, rfl, rfl⟩
  case boardRead =>
    have hexec : exec r.1 s = .next (s.bmRead r.2) := by
      simp only [List.mem_cons, List.not_mem_nil, or_false] at hr
      obtain rfl | rfl | rfl | rfl | rfl | rfl | rfl | rfl | rfl | rfl | rfl | rfl := hr <;> rfl
    rw [Gives, hexec, bmRead_ready hready hon]
  case counted =>
    exact ⟨_, congrArg Host.Outcome.next (bmNack_powered hon true), rfl, pecErrors_counted (s.emit .bmNack) _, rfl⟩

end Sys2Proof.Proofs.BoardInterface
end

section
/-! SUPPORT. An instruction that is ready: what its command does to its die, one lemma per form of issue (R149, R152). -/

namespace Sys2Proof.Proofs.Issue

open Sys2Proof.Machine Sys2Proof.Claims

section
variable {s : State} {cd : Cd} {w : IWord} {cls op : Nat}

theorem issueAll_ready (h : Ready s cd w cls op) (f : Nat → State → State) : issueAll cd w cls op f s = f w.toNat s :=
  issueAll_on h.1 h.2 f

/-- A scalar instruction that is ready replaces its die by what it computes, one instruction on. -/
theorem scalarOp_ready (h : Ready s cd w 0 op) (f : Nat → Die → Die) :
    scalarOp cd w op f s = andOn s cd (f w.toNat (s.die cd)) :=
  scalarOp_on h.1 h.2 f

theorem scalarOp_off (h : (s.die cd).issues w 0 op = true) (hg : (s.die cd).guardOn w.toNat = false)
    (f : Nat → Die → Die) : scalarOp cd w op f s = andOn s cd (s.die cd) :=
  issueDie_off h hg _

/-- A word that issues holds no reserved code and has the class and the operation of its command. -/
theorem issues_decoded (h : (s.die cd).issues w cls op = true) :
    seqReserved w.toNat = false ∧ iCls w.toNat = cls ∧ iOp w.toNat = op := by
  simp only [Die.issues, Bool.and_eq_true, beq_iff_eq, Bool.not_eq_true'] at h
  obtain ⟨⟨⟨-, hres⟩, hcls⟩, hop⟩ := h
  exact ⟨hres, hcls, hop⟩

theorem issues_running (h : (s.die cd).issues w cls op = true) :
    (s.die cd).mode = .running ∧ (s.die cd).fault = 0 ∧ (s.die cd).stall = .none := by
  obtain ⟨hmode, hfault, hstall, -⟩ :=
    (SequencerFaults.canIssue_iff _ w).mp (SequencerFaults.canIssue_of_issues h)
  exact ⟨hmode, hfault, hstall⟩

end

end Sys2Proof.Proofs.Issue
end

section
/-! PROOF. Scalar instructions (R152, Table 5-6): the row of each command, its result spelled as the table does. -/

namespace Sys2Proof.Proofs.ScalarResults

open Sys2Proof.Machine Sys2Proof.Claims Sys2Proof.Proofs.Issue Sys2Proof.Proofs.Branches

/-! ### Operands and results in the spelling of the table -/

theorem sshiftRight_eq_div (a : Word) (n : Nat) : a.sshiftRight n = BitVec.ofInt 32 (a.toInt / 2 ^ n) := by
  rw [BitVec.sshiftRight, Int.shiftRight_eq_div_pow]
  norm_cast

theorem cmpLt_eq (a b : Word) : cmpLt a b = decide (a.toInt < b.toInt) := rfl

theorem cmpGe_eq (a b : Word) : cmpGe a b = decide (b.toInt ≤ a.toInt) := by
  simp [cmpGe, BitVec.slt, ← decide_not, not_lt]

theorem cmpLtu_eq (a b : Word) : cmpLtu a b = decide (a.toNat < b.toNat) := rfl

theorem ofNat_fld (w : IWord) (lo n : Nat) : BitVec.ofNat n (fld w.toNat lo n) = w.extractLsb' lo n := by
  apply BitVec.eq_of_toNat_eq
  simp [fld, BitVec.extractLsb'_toNat]

theorem sext48_fld (w : IWord) : sext48 (iImm32 w.toNat) = (w.extractLsb' 32 32).signExtend 48 := by
  show BitVec.ofNat 48 (ofSigned 48 (toSigned 32 (fld w.toNat 32 32))) = _
  rw [toSigned_fld, ofNat_ofSigned, BitVec.signExtend]

theorem sext48_toNat (v : Word) : sext48 v.toNat = v.signExtend 48 := by
  show BitVec.ofNat 48 (ofSigned 48 (toSigned 32 v.toNat)) = _
  have h : toSigned 32 v.toNat = v.toInt := by
    rw [BitVec.toInt_eq_toNat_cond]
    simp [toSigned, Nat.mod_eq_of_lt v.isLt]
  rw [h, ofNat_ofSigned, BitVec.signExtend]

/-- Where the index is of the file, a predicate written is the table's: p0 keeps its 1. -/
theorem setP_eq_predAfter (d : Die) {rd : Nat} (h : rd < 8) (v : Bool) : d.setP rd v = predAfter d rd v := by
  simp only [Die.setP, predAfter, Nat.mod_eq_of_lt h]
  by_cases h0 : rd = 0
  · simp [h0]
  · rw [if_neg h0, dif_pos ⟨by omega, h⟩]

/-- A word that writes a predicate and holds no reserved code names a predicate. -/
theorem rd_lt_eight {w : Nat} (hres : seqReserved w = false) (hcls : iCls w = 0)
    (hop : (0x10 ≤ iOp w ∧ iOp w ≤ 0x16) ∨ (0x18 ≤ iOp w ∧ iOp w ≤ 0x1A) ∨ iOp w = 0x29) : iRd w < 8 := by
  simp only [seqReserved, hcls] at hres
  by_contra hrd
  have hbad : decide (8 ≤ iRd w) = true := decide_eq_true (by omega)
  have huse : ∃ m, scalarUse w = some (m, true) := by
    unfold scalarUse
    rcases hop with hcmp | ⟨hlo, hhi⟩ | hsum
    · simp (disch := omega) only [if_neg, if_pos hcmp, hbad]
      exact ⟨_, rfl⟩
    · obtain h | h | h : iOp w = 0x18 ∨ iOp w = 0x19 ∨ iOp w = 0x1A := by omega
      all_goals simp [h, hbad]
    · simp [hsum, hbad]
  obtain ⟨m, huse⟩ := huse
  simp [huse] at hres

section
variable {s : State} {cd : Cd} {w : IWord} {op : Nat}

theorem ready_rd_lt_eight (h : Ready s cd w 0 op) (hop : (0x10 ≤ op ∧ op ≤ 0x16) ∨ (0x18 ≤ op ∧ op ≤ 0x1A) ∨ op = 0x29) :
    iRd w.toNat < 8 := by
  obtain ⟨hres, hcls, rfl⟩ := issues_decoded h.1
  exact rd_lt_eight hres hcls hop

theorem aluOp_ready (h : Ready s cd w 0 op) (f : Word → Word → Word) : scalarOp cd w op (aluOp f) s =
    andOn s cd ((s.die cd).setS (iRd w.toNat) (f (sReg (s.die cd) (iRs1 w.toNat)) ((s.die cd).opT w.toNat))) :=
  scalarOp_ready h _

theorem setP_ready (h : Ready s cd w 0 op) (hop : (0x10 ≤ op ∧ op ≤ 0x16) ∨ (0x18 ≤ op ∧ op ≤ 0x1A)) (f : Nat → Die → Bool) :
    scalarOp cd w op (fun x d => d.setP (iRd x) (f x d)) s =
      andOn s cd (predAfter (s.die cd) (iRd w.toNat) (f w.toNat (s.die cd))) := by
  rw [scalarOp_ready h, setP_eq_predAfter _ (ready_rd_lt_eight h (by tauto))]

theorem cmpOp_ready (h : Ready s cd w 0 op) (hop : 0x10 ≤ op ∧ op ≤ 0x16) (f : Word → Word → Bool) :
    scalarOp cd w op (cmpOp f) s =
      andOn s cd (predAfter (s.die cd) (iRd w.toNat) (f (sReg (s.die cd) (iRs1 w.toNat)) ((s.die cd).opT w.toNat))) :=
  setP_ready h (.inl hop) _

end

/-! ### The rows -/

theorem scalarArithmeticResult : ScalarArithmeticResult := by
  intro r hr cd w s h
  simp only [aluRows, List.mem_cons, List.not_mem_nil, or_false] at hr
  rcases hr with rfl | rfl | rfl | rfl | rfl | rfl | rfl | rfl | rfl | rfl | rfl
  case inr.inr.inr.inr.inr.inr.inr.inr.inl =>
    simp only [← sshiftRight_eq_div]
    exact congrArg Host.Outcome.next (aluOp_ready h _)
  all_goals exact congrArg Host.Outcome.next (aluOp_ready h _)

theorem comparisons_write_predicate (r) (hr : r ∈ cmpRows) (cd : Cd) (w : IWord) (s : State) (h : Ready s cd w 0 r.2.1) :
    Gives (r.1 cd w) s (andOn s cd (predAfter (s.die cd) (iRd w.toNat)
      (r.2.2 (sReg (s.die cd) (iRs1 w.toNat)) ((s.die cd).opT w.toNat)))) := by
  simp only [cmpRows, List.mem_cons, List.not_mem_nil, or_false] at hr
  rcases hr with rfl | rfl | rfl | rfl | rfl | rfl | rfl
  case inr.inr.inr.inl =>
    simp only [← cmpGe_eq]
    exact congrArg Host.Outcome.next (cmpOp_ready h (by decide) _)
  case inr.inl =>
    have hne (a b : Word) : decide (a ≠ b) = cmpNe a b := by
      by_cases h : a = b <;> simp [cmpNe, h]
    simp only [hne]
    exact congrArg Host.Outcome.next (cmpOp_ready h (by decide) _)
  all_goals exact congrArg Host.Outcome.next (cmpOp_ready h (by decide) _)

theorem predicate_operations_write_predicate (r) (hr : r ∈ predRows) (cd : Cd) (w : IWord) (s : State)
    (h : Ready s cd w 0 r.2.1) :
    Gives (r.1 cd w) s (andOn s cd (predAfter (s.die cd) (iRd w.toNat)
      (r.2.2 ((s.die cd).getP (iRs1 w.toNat)) ((s.die cd).getP (iRs2 w.toNat))))) := by
  simp only [predRows, List.mem_cons, List.not_mem_nil, or_false] at hr
  rcases hr with rfl | rfl | rfl <;> exact congrArg Host.Outcome.next (setP_ready h (by decide) _)

theorem scalarMoveResult : ScalarMoveResult := by
  intro cd w s
  refine ⟨fun h => ?nop, fun h => ?li, fun h => ?itof, fun h => ?ftoi, fun h => ?ali, fun h => ?aadd, fun h => ?cntrd,
    fun h => ?cnterr, fun h => ?whoami, fun h => ?clock⟩
  case li => rw [← ofNat_fld]; exact congrArg Host.Outcome.next (scalarOp_ready h _)
  case ali => rw [← ofNat_fld]; exact congrArg Host.Outcome.next (scalarOp_ready h _)
  case aadd => rw [← sext48_toNat]; exact congrArg Host.Outcome.next (scalarOp_ready h _)
  all_goals exact congrArg Host.Outcome.next (scalarOp_ready h _)

/-- Settles O1: each command of a row through the lemma of its form of issue. -/
theorem scalarComputes : Obligations.ScalarComputes :=
  ⟨scalarArithmeticResult, ⟨comparisons_write_predicate, predicate_operations_write_predicate⟩, scalarMoveResult⟩

end Sys2Proof.Proofs.ScalarResults
end

section
/-! PROOF. Sequencer instructions that are guarded off, and those that wait for a summary slot or a counter (R149, R167,
R174). -/

namespace Sys2Proof.Proofs.GuardsAndSlots

open Sys2Proof.Machine Sys2Proof.Claims Sys2Proof.Proofs.Issue Sys2Proof.Proofs.ScalarResults
open Sys2Proof.Proofs.Branches

/-! ### Guarded off -/

/-- A command that is the issue of one instruction of its die: an effect on the die alone, or on the whole state. -/
def IssuesOne (c : Cd → IWord → Instr) (cls op : Nat) : Prop :=
  ∀ (cd : Cd) (w : IWord) (s : State), (∃ f, exec (c cd w) s = .next (issueDie cd w cls op f s)) ∨
    (∃ f, exec (c cd w) s = .next (issueAll cd w cls op f s))

theorem issuesOne_off {c : Cd → IWord → Instr} {cls op : Nat} (hc : IssuesOne c cls op) {cd : Cd} {w : IWord} {s : State}
    (h : (s.die cd).issues w cls op = true) (hg : (s.die cd).guardOn w.toNat = false) :
    Gives (c cd w) s (andOn s cd (s.die cd)) := by
  obtain ⟨f, hf⟩ | ⟨f, hf⟩ := hc cd w s
  · exact hf.trans (congrArg Host.Outcome.next (issueDie_off h hg f))
  · exact hf.trans (congrArg Host.Outcome.next (issueAll_off h hg f))

/-- Scalar arithmetic, comparisons and predicates touch their die alone. -/
theorem computing_rows_issueOne {r : (Cd → IWord → Instr) × Nat × Nat}
    (hr : r ∈ aluRows.map (fun r => (r.1, 0, r.2.1)) ++ cmpRows.map (fun r => (r.1, 0, r.2.1)) ++
      predRows.map (fun r => (r.1, 0, r.2.1))) : IssuesOne r.1 r.2.1 r.2.2 := by
  simp only [aluRows, cmpRows, predRows, List.map_cons, List.map_nil, List.mem_append, List.mem_cons, List.not_mem_nil,
    or_false] at hr
  intro cd w s
  rcases hr with
    ((rfl | rfl | rfl | rfl | rfl | rfl | rfl | rfl | rfl | rfl | rfl) | (rfl | rfl | rfl | rfl | rfl | rfl | rfl)) |
    (rfl | rfl | rfl) <;> exact .inl ⟨_, rfl⟩

/-- Moves touch their die alone, and an access starts at the memory's homes. -/
theorem moving_rows_issueOne {r : (Cd → IWord → Instr) × Nat × Nat}
    (hr : r ∈ [(Instr.nop, 0, 0x00), (.li, 0, 0x0A), (.itof, 0, 0x0D), (.ftoi, 0, 0x0E), (.ali, 0, 0x20), (.aadd, 0, 0x21),
      (.ald, 0, 0x22), (.ast, 0, 0x23), (.ld, 0, 0x24), (.st, 0, 0x25), (.sumrd, 0, 0x28), (.sumpred, 0, 0x29),
      (.cntrd, 0, 0x2A), (.cnterr, 0, 0x2B), (.cntset, 0, 0x2C), (.whoami, 0, 0x2D), (.clock, 0, 0x2E)]) :
    IssuesOne r.1 r.2.1 r.2.2 := by
  simp only [List.mem_cons, List.not_mem_nil, or_false] at hr
  intro cd w s
  rcases hr with (rfl | rfl | rfl | rfl | rfl | rfl | rfl | rfl | rfl | rfl | rfl | rfl | rfl | rfl | rfl | rfl | rfl)
  case inr.inr.inr.inr.inr.inr.inl | inr.inr.inr.inr.inr.inr.inr.inl | inr.inr.inr.inr.inr.inr.inr.inr.inl |
      inr.inr.inr.inr.inr.inr.inr.inr.inr.inl => exact .inr ⟨_, rfl⟩
  all_goals exact .inl ⟨_, rfl⟩

theorem controlRows_issueOne {r : (Cd → IWord → Instr) × Nat × Nat} (hr : r ∈ controlRows) : IssuesOne r.1 r.2.1 r.2.2 := by
  simp only [controlRows, List.mem_cons, List.not_mem_nil, or_false] at hr
  intro cd w s
  rcases hr with rfl | rfl | rfl | rfl | rfl | rfl | rfl | rfl | rfl | rfl | rfl | rfl
  case inr.inr.inr.inr.inr.inr.inl | inr.inr.inr.inr.inr.inr.inr.inl | inr.inr.inr.inr.inr.inr.inr.inr.inl |
      inr.inr.inr.inr.inr.inr.inr.inr.inr.inl | inr.inr.inr.inr.inr.inr.inr.inr.inr.inr.inr => exact .inr ⟨_, rfl⟩
  all_goals exact .inl ⟨_, rfl⟩

/-! Instructions of the units are issued under admission, which reaches the ledger. -/

section
variable (cd : Cd) (w : IWord) (op : Nat) (s : State)

theorem issueAdm_issues (cls : Nat) (f : Nat → State → State) : ∃ g, issueAdm cd w cls op f s = issueAll cd w cls op g s := ⟨_, rfl⟩

theorem issueTile_issues (av : Nat → Die → List Nat) : ∃ g, issueTile cd w op av s = issueAll cd w 2 op g s := by
  unfold issueTile issueAdmDie
  exact issueAdm_issues cd w op s 2 _

theorem issueVec_issues : ∃ g, issueVec cd w op s = issueAll cd w 3 op g s := by
  unfold issueVec issueAdmDie
  exact issueAdm_issues cd w op s 3 _

theorem issueMove_issues : ∃ g, issueMove cd w op s = issueAll cd w 4 op g s := by
  unfold issueMove issueAdmDie
  exact issueAdm_issues cd w op s 4 _

theorem issueHelper_issues (hand : Nat → State → State) : ∃ g, issueHelper cd w op hand s = issueAll cd w 6 op g s :=
  issueAdm_issues cd w op s 6 _

end

/-- A command whose meaning is an issue that reaches beyond its die. -/
theorem issuesOne_of_all {c : Cd → IWord → Instr} {cls op : Nat} {m : Cd → IWord → State → State}
    (hm : ∀ cd w s, ∃ g, m cd w s = issueAll cd w cls op g s) (hc : ∀ cd w s, exec (c cd w) s = .next (m cd w s)) :
    IssuesOne c cls op := fun cd w s => .inr ((hm cd w s).imp fun _ hg => (hc cd w s).trans (congrArg _ hg))

theorem tileRows_issueOne {r : (Cd → IWord → Instr) × Nat × Nat} (hr : r ∈ tileRows) : IssuesOne r.1 r.2.1 r.2.2 := by
  simp only [tileRows, List.mem_cons, List.not_mem_nil, or_false] at hr
  rcases hr with rfl | rfl | rfl | rfl | rfl
  case inr.inr.inl => exact issuesOne_of_all (fun _ _ _ => issueAdm_issues ..) fun _ _ _ => rfl
  all_goals exact issuesOne_of_all (fun _ _ _ => issueTile_issues ..) fun _ _ _ => rfl

theorem vecRows_issueOne {r : (Cd → IWord → Instr) × Nat × Nat} (hr : r ∈ vecRows) : IssuesOne r.1 r.2.1 r.2.2 := by
  simp only [vecRows, List.mem_cons, List.not_mem_nil, or_false] at hr
  rcases hr with rfl | rfl | rfl | rfl | rfl | rfl | rfl | rfl | rfl | rfl | rfl | rfl | rfl | rfl | rfl | rfl | rfl | rfl |
    rfl | rfl | rfl | rfl <;> exact issuesOne_of_all (fun _ _ _ => issueVec_issues ..) fun _ _ _ => rfl

theorem fnRows_issueOne {r : (Cd → IWord → Instr) × Nat × Nat} (hr : r ∈ fnRows) : IssuesOne r.1 r.2.1 r.2.2 := by
  simp only [fnRows, List.mem_cons, List.not_mem_nil, or_false] at hr
  rcases hr with rfl | rfl | rfl | rfl | rfl | rfl | rfl | rfl | rfl | rfl | rfl | rfl | rfl | rfl | rfl | rfl | rfl | rfl |
    rfl <;> exact issuesOne_of_all (fun _ _ _ => issueVec_issues ..) fun _ _ _ => rfl

theorem moveRows_issueOne {r : (Cd → IWord → Instr) × Nat × Nat} (hr : r ∈ moveRows) : IssuesOne r.1 r.2.1 r.2.2 := by
  simp only [moveRows, List.mem_cons, List.not_mem_nil, or_false] at hr
  rcases hr with rfl | rfl | rfl <;> exact issuesOne_of_all (fun _ _ _ => issueMove_issues ..) fun _ _ _ => rfl

theorem helperRows_issueOne {r : (Cd → IWord → Instr) × Nat × Nat} (hr : r ∈ helperRows) : IssuesOne r.1 r.2.1 r.2.2 := by
  simp only [helperRows, List.mem_cons, List.not_mem_nil, or_false] at hr
  rcases hr with rfl | rfl | rfl <;> exact issuesOne_of_all (fun _ _ _ => issueHelper_issues ..) fun _ _ _ => rfl

/-- Settles O5: every row is the issue of one instruction, and an issue that is guarded off moves the program counter. -/
theorem guardedOffChangesNothing : Obligations.GuardedOffChangesNothing := by
  intro r hr cd w s h hg
  refine issuesOne_off ?_ h hg
  simp only [seqRows, List.mem_append] at hr
  rcases hr with (((((hr | hr) | hr) | hr) | hr) | hr) | hr
  · rcases List.mem_append.mp hr with hr | hr
    · exact computing_rows_issueOne hr
    · exact moving_rows_issueOne hr
  · exact controlRows_issueOne hr
  · exact tileRows_issueOne hr
  · exact vecRows_issueOne hr
  · exact fnRows_issueOne hr
  · exact moveRows_issueOne hr
  · exact helperRows_issueOne hr

/-! ### Summary slots and counters -/

theorem ctrBusy_eq_true_iff (d : Die) (c : Nat) : d.ctrBusy c = true ↔ ∃ o ∈ d.ops, o.ctr = some c := by
  simp [Die.ctrBusy]

theorem ctrBusy_eq_false_iff (d : Die) (c : Nat) : d.ctrBusy c = false ↔ ∀ o ∈ d.ops, o.ctr ≠ some c := by
  simp [Die.ctrBusy]

section
variable {s : State} {cd : Cd} {w : IWord}

theorem execSumrd_free (h : Ready s cd w 0 0x28) (hb : (s.die cd).slotBusy (fld w.toNat 32 4) (fld w.toNat 36 3) = false) :
    execSumrd cd w s = .next (andOn s cd ((s.die cd).setS (iRd w.toNat)
      (sumWord ((s.die cd).slot (fld w.toNat 32 4) (fld w.toNat 36 3)) (fld w.toNat 39 3)))) := by
  rw [execSumrd, issueDie_ready h]
  simp only [hb, Bool.false_eq_true, if_false]
  rfl

theorem execSumrd_busy (h : Ready s cd w 0 0x28) (hb : (s.die cd).slotBusy (fld w.toNat 32 4) (fld w.toNat 36 3) = true) :
    execSumrd cd w s = .next (s.setDie cd { s.die cd with
      stall := .sumrd (iRd w.toNat) (fld w.toNat 32 4) (fld w.toNat 36 3) (fld w.toNat 39 3) }) := by
  rw [execSumrd, issueDie_ready h]
  simp only [hb, if_true]

theorem execSumpred_free (h : Ready s cd w 0 0x29) (hb : (s.die cd).slotBusy (fld w.toNat 32 4) (fld w.toNat 36 3) = false) :
    execSumpred cd w s = .next (andOn s cd (predAfter (s.die cd) (iRd w.toNat)
      (sumSelect ((s.die cd).slot (fld w.toNat 32 4) (fld w.toNat 36 3)) (fld w.toNat 39 3)))) := by
  rw [execSumpred, issueDie_ready h, ← setP_eq_predAfter _ (ready_rd_lt_eight h (by decide))]
  simp only [hb, Bool.false_eq_true, if_false]
  rfl

theorem execSumpred_busy (h : Ready s cd w 0 0x29) (hb : (s.die cd).slotBusy (fld w.toNat 32 4) (fld w.toNat 36 3) = true) :
    execSumpred cd w s = .next (s.setDie cd { s.die cd with
      stall := .sumpred (iRd w.toNat) (fld w.toNat 32 4) (fld w.toNat 36 3) (fld w.toNat 39 3) }) := by
  rw [execSumpred, issueDie_ready h]
  simp only [hb, if_true]

theorem execCntset_free (h : Ready s cd w 0 0x2C) (hb : ∀ o ∈ (s.die cd).ops, o.ctr ≠ some (iRd w.toNat)) :
    execCntset cd w s = .next (andOn s cd ((s.die cd).setC (iRd w.toNat) ⟨(s.die cd).opT w.toNat, 0⟩)) := by
  rw [execCntset, issueDie_ready h]
  simp only [(ctrBusy_eq_false_iff _ _).mpr hb, Bool.false_eq_true, if_false]
  rfl

theorem execCntset_busy (h : Ready s cd w 0 0x2C) (hb : ∃ o ∈ (s.die cd).ops, o.ctr = some (iRd w.toNat)) :
    execCntset cd w s = .next (s.setDie cd { s.die cd with
      stall := .cntset (iRd w.toNat) ((s.die cd).opT w.toNat).toNat }) := by
  rw [execCntset, issueDie_ready h]
  simp only [(ctrBusy_eq_true_iff _ _).mpr hb, if_true]

theorem execSeqStallEnd_sumrd {rd u sl sel : Nat} (h : (s.die cd).stall = .sumrd rd u sl sel)
    (hb : (s.die cd).slotBusy u sl = false) :
    execSeqStallEnd cd s = .next (s.setDie cd { (s.die cd).setS rd (sumWord ((s.die cd).slot u sl) sel) with
      pc := (s.die cd).pc + 16, stall := .none }) := by
  simp only [execSeqStallEnd, stallEnd, h, hb, Bool.false_eq_true, if_false]
  rfl

theorem execSeqStallEnd_cntset {c t : Nat} (h : (s.die cd).stall = .cntset c t)
    (hb : ∀ o ∈ (s.die cd).ops, o.ctr ≠ some c) :
    execSeqStallEnd cd s = .next (s.setDie cd { (s.die cd).setC c ⟨BitVec.ofNat 32 t, 0⟩ with
      pc := (s.die cd).pc + 16, stall := .none }) := by
  simp only [execSeqStallEnd, stallEnd, h, (ctrBusy_eq_false_iff _ _).mpr hb, Bool.false_eq_true, if_false]
  rfl

end

/-- Settles O3: each command through its two equations, for a free and for a busy slot or counter. -/
theorem summaryAndCounterWaits : Obligations.SummaryAndCounterWaits := by
  intro cd w s
  exact ⟨⟨execSumrd_free, execSumrd_busy, execSumpred_free, execSumpred_busy⟩, execCntset_free, execCntset_busy,
    fun _ _ _ _ => execSeqStallEnd_sumrd, fun _ _ => execSeqStallEnd_cntset⟩

end Sys2Proof.Proofs.GuardsAndSlots
end

section
/-! PROOF. The scoreboard of a tile (R92, R93). -/

namespace Sys2Proof.Proofs.Scoreboard

open Sys2Proof.Machine Sys2Proof.Claims

section
variable {l r : List SbEnt} {e : SbEnt}

/-- The first waiting entry of a tile stands after entries that are held or of other tiles. -/
theorem find_first_waiting (he : e.held = false) (hl : ∀ x ∈ l, x.tile = e.tile → x.held = true) :
    (l ++ e :: r).find? (fun x => x.tile == e.tile && !x.held) = some e := by
  rw [List.find?_append, List.find?_eq_none.mpr, List.find?_cons_of_pos (by simp [he])]
  · rfl
  · intro x hx
    by_cases htile : x.tile = e.tile
    · simp [htile, hl x hx htile]
    · simp [htile]

theorem sbGrantFirst_append (he : e.held = false) (hl : ∀ x ∈ l, x.tile = e.tile → x.held = true) :
    sbGrantFirst (l ++ e :: r) e.tile = l ++ { e with held := true } :: r := by
  induction l with
  | nil => simp [sbGrantFirst, he]
  | cons x t ih =>
    have hx : ¬(x.tile = e.tile ∧ x.held = false) := fun ⟨htile, hheld⟩ => by
      simp [hl x (List.mem_cons_self ..) htile] at hheld
    rw [List.cons_append, sbGrantFirst, if_neg hx, ih fun y hy => hl y (List.mem_cons_of_mem _ hy), List.cons_append]

/-- A waiting entry is no holder. -/
theorem sbHolders_append (he : e.held = false) :
    sbHolders (l ++ e :: r) e.tile = ((l ++ r).filter (fun x => x.tile == e.tile && x.held)).map (·.cls) := by
  simp [sbHolders, List.filter_append, he]

end

theorem sbCompatible_iff (held : List SbClass) (c : SbClass) :
    sbCompatible held c = true ↔ ∀ h ∈ held, (h = .exact ∧ c = .exact) ∨ (h = .reader ∧ c = .reader) := by
  simp [sbCompatible]

/-- Settles O13: the entry found is the one named, and it is granted where the classes of the holders allow its own. -/
theorem scoreboardGrants : Obligations.ScoreboardGrants := by
  intro cd s l r e hsb he hl
  dsimp only
  have hgrant : sbGrant (s.die cd).sb e.tile =
      if sbCompatible (sbHolders (s.die cd).sb e.tile) e.cls then l ++ { e with held := true } :: r else (s.die cd).sb := by
    rw [hsb, sbGrant, find_first_waiting he hl, sbGrantFirst_append he hl]
  have hall : sbCompatible (sbHolders (s.die cd).sb e.tile) e.cls = true ↔
      ∀ x ∈ (l ++ r).filter (fun x => x.tile == e.tile && x.held),
        (x.cls = .exact ∧ e.cls = .exact) ∨ (x.cls = .reader ∧ e.cls = .reader) := by
    rw [hsb, sbHolders_append he, sbCompatible_iff, List.forall_mem_map]
  refine ⟨fun hok => ?granted, fun ⟨x, hx, hbad⟩ => ?waits⟩
  case granted =>
    rw [if_pos (hall.mpr hok)] at hgrant
    show Host.Outcome.next (s.setDie cd { s.die cd with sb := sbGrant (s.die cd).sb e.tile }) = _
    rw [hgrant]
  case waits =>
    rw [if_neg fun hc => hbad (hall.mp hc x hx)] at hgrant
    show Host.Outcome.next (s.setDie cd { s.die cd with sb := sbGrant (s.die cd).sb e.tile }) = _
    rw [hgrant]
    exact congrArg Host.Outcome.next (s.setDie_die cd)

end Sys2Proof.Proofs.Scoreboard
end

section
/-! PROOF. Addresses and bytes (R199 to R204, R211, R212), the pitch (R328) and the digest (R377). -/

namespace Sys2Proof.Proofs.OrderAndAddress

open Sys2Proof.Machine Sys2Proof.Claims Sys2Proof.Proofs.HomeLocations Sys2Proof.Proofs.MemoryAccess

/-- Settles O15: the decode can be undone. -/
theorem addressDecodeInjective : Obligations.AddressDecodeInjective := fun _ _ _ _ => loc_injective

/-- Settles O16: what a write of a mapped and unpoisoned range stores. -/
theorem writeThenRead : Obligations.WriteThenRead := by
  intro s a bs hm hp
  have hstored := stored_write (clear_of_plain ⟨hm, hp⟩)
  exact ⟨hstored.bytes_eq, hstored.onlyBytes⟩

/-- Two arrivals join a pitch in either order: the counts saturate, the flags and the mismatch accumulate, and pace and
reason are the least pair in the order by pace, then reason. -/
theorem pitchJoin_right_comm (x y z : PitchData) : pitchJoin (pitchJoin x y) z = pitchJoin (pitchJoin x z) y := by
  simp only [pitchJoin, PitchData.mk.injEq, true_and]
  refine ⟨by omega, Nat.or_right_comm .., by omega, ?reason, ?mismatch, by omega⟩
  case reason =>
    simp only [Nat.min_def]
    grind
  case mismatch => rw [Bool.or_right_comm (_ || _) z.mismatch, Bool.or_assoc (_ || _) _ z.mismatch]; grind

/-- Settles O34: a fold of a right-commutative join does not depend on the order. -/
theorem pitchOrderFree : Obligations.PitchOrderFree := by
  intro x l m h
  have : RightCommutative pitchJoin := ⟨pitchJoin_right_comm⟩
  exact h.foldl_eq x

/-- A lane after a line: the word's contribution is added modulo 2^64. -/
theorem digestLine_getD (d : List Nat) (i o : Nat) (x : List Byte) {k : Nat} (hk : k < 8) : (digestLine d i o x).getD k 0 =
    (d.getD k 0 + digestWord (i * 2 ^ 34 + o / 64) k (fieldB x (8 * k) 8)) % 2 ^ 64 := by
  rw [digestLine, List.getD_eq_getElem?_getD, List.getElem?_map, List.getElem?_range hk, Option.map_some, Option.getD_some]

/-- Settles O41: in each lane the contributions of two lines are added in either order. -/
theorem digestOrderFree : Obligations.DigestOrderFree := by
  intro d i o j p x y
  rw [digestLine.eq_def (digestLine d i o x), digestLine.eq_def (digestLine d j p y)]
  refine List.map_congr_left fun k hk => ?_
  have hk := List.mem_range.mp hk
  rw [digestLine_getD d i o x hk, digestLine_getD d j p y hk, Nat.mod_add_mod, Nat.mod_add_mod, Nat.add_right_comm]

end Sys2Proof.Proofs.OrderAndAddress
end

section
/-! PROOF. What every command keeps: the queue of commands, the canonical form of memory and p0 (R146). The three are one
predicate, so that each operation of the model is looked at once; its lemma says that the operation keeps the predicate. -/

namespace Sys2Proof.Proofs.Kept

open Sys2Proof.Machine Sys2Proof.Claims Sys2Proof.Safety

/-- p0 reads 1, where the invariants are asked for. -/
def P0 (inv : Prop) (d : Die) : Prop := inv → d.p[0] = true

/-- The queue of commands is as given and, where the invariants are asked for, memory is canonical and p0 reads 1 on every die. -/
structure Sound (inv : Prop) (queue : List Instr) (s : State) : Prop where
  pending : s.pending = queue
  mem : inv → Memory.wf s.mem = true
  dies : ∀ cd : Cd, P0 inv (s.die cd)

section
variable {inv : Prop} {queue : List Instr} {s t : State} {d : Die}

/-! ### Rules for the shapes of the model's definitions -/

theorem sound_iff : Sound inv queue s ↔ s.pending = queue ∧ (inv → Memory.wf s.mem = true) ∧ ∀ cd : Cd, P0 inv (s.die cd) :=
  ⟨fun ⟨a, b, c⟩ => ⟨a, b, c⟩, fun ⟨a, b, c⟩ => ⟨a, b, c⟩⟩

/-- Nothing but the queue, memory and the dies matters. -/
theorem sound_of_same (hq : t.pending = s.pending) (hm : t.mem = s.mem) (hd : t.dies = s.dies) (h : Sound inv queue s) :
    Sound inv queue t :=
  ⟨hq.trans h.pending, fun i => hm ▸ h.mem i, fun cd => by rw [State.die_of_dies hd]; exact h.dies cd⟩

theorem sound_update {r p mc hq rp ho fa co gr de le bo ha lo ti la ou fr} :
    Sound inv queue (State.mk t.pending r t.mem p mc hq rp t.dies ho fa co gr de le bo ha lo ti la ou fr) ↔ Sound inv queue t :=
  ⟨sound_of_same rfl rfl rfl, sound_of_same rfl rfl rfl⟩

theorem p0_update {e : Die} {mo fa fi fp s a pc cn st cl cu ic tm sm tu su lg ld tn sp sl sq op ni sb dr sc sk sm' sh ad} :
    P0 inv (Die.mk mo fa fi fp s e.p a pc cn st cl cu ic tm sm tu su lg ld tn sp sl sq op ni sb dr sc sk sm' sh ad) ↔ P0 inv e :=
  Iff.rfl

theorem sound_ite {c : Prop} [Decidable c] (hs : Sound inv queue s) (ht : Sound inv queue t) : Sound inv queue (if c then s else t) := by
  split <;> assumption

theorem p0_ite {c : Prop} [Decidable c] {e : Die} (hd : P0 inv d) (he : P0 inv e) : P0 inv (if c then d else e) := by
  split <;> assumption

theorem sound_foldl {α : Type} {f : State → α → State} (hf : ∀ t x, Sound inv queue t → Sound inv queue (f t x)) {l : List α}
    (h : Sound inv queue s) : Sound inv queue (l.foldl f s) := by
  induction l generalizing s with
  | nil => exact h
  | cons x l ih => exact ih (hf s x h)

/-- A fold that carries more than the state. -/
theorem sound_foldl_pair {α β : Type} {f : State × β → α → State × β} (hf : ∀ t x, Sound inv queue t.1 → Sound inv queue (f t x).1)
    {l : List α} {z : State × β} (h : Sound inv queue z.1) : Sound inv queue (l.foldl f z).1 := by
  induction l generalizing z with
  | nil => exact h
  | cons x l ih => exact ih (hf z x h)

theorem sound_die (h : Sound inv queue s) (cd : Cd) : P0 inv (s.die cd) := h.dies cd

theorem sound_setDie (h : Sound inv queue s) (cd : Cd) (hd : P0 inv d) : Sound inv queue (s.setDie cd d) := by
  refine ⟨h.pending, h.mem, fun c => ?_⟩
  by_cases hc : c = cd
  · subst hc
    rwa [State.die_setDie_self]
  · rw [State.die_setDie_ne _ _ hc]
    exact h.dies c

theorem sound_updDie {f : Die → Die} (h : Sound inv queue s) (cd : Cd) (hf : ∀ d, P0 inv d → P0 inv (f d)) :
    Sound inv queue (s.updDie cd f) := sound_setDie h cd (hf _ (h.dies cd))

/-- Every die changed in one way that leaves p0. -/
theorem sound_mapDies {f : Die → Die} (hq : t.pending = s.pending) (hm : t.mem = s.mem) (hd : t.dies = s.dies.map f)
    (hf : ∀ d, P0 inv d → P0 inv (f d)) (h : Sound inv queue s) : Sound inv queue t := by
  refine ⟨hq.trans h.pending, fun i => hm ▸ h.mem i, fun cd => ?_⟩
  have hdie : t.die cd = f (s.die cd) := by simp [State.die, hd]
  rw [hdie]
  exact hf _ (h.dies cd)

theorem sound_update_dies {f : Die → Die} {r p mc hq rp ho fa co gr de le bo ha lo ti la ou fr}
    (hf : ∀ d, P0 inv d → P0 inv (f d)) (h : Sound inv queue t) :
    Sound inv queue (State.mk t.pending r t.mem p mc hq rp (t.dies.map f) ho fa co gr de le bo ha lo ti la ou fr) :=
  sound_mapDies (s := t) rfl rfl rfl hf h

theorem p0_foldl {α : Type} {f : Die → α → Die} (hf : ∀ e x, P0 inv e → P0 inv (f e x)) {l : List α} (h : P0 inv d) :
    P0 inv (l.foldl f d) := by
  induction l generalizing d with
  | nil => exact h
  | cons x l ih => exact ih (hf d x h)

theorem p0_setP (h : P0 inv d) (i : Nat) (v : Bool) : P0 inv (d.setP i v) := by
  unfold Die.setP
  split
  next => exact h
  next hi =>
    intro hinv
    simpa [hi] using h hinv

theorem p0_start (d : Die) (entry arg : Nat) (c : Cmd) : P0 inv (d.start entry arg c) := fun _ => rfl

theorem p0_reset : P0 inv Die.reset := fun _ => rfl

/-- A package that starts afresh, with the queue as it was. -/
theorem sound_fresh (hq : s.pending = queue) (hm : s.mem = []) (hd : s.dies = Vector.replicate 12 .reset) :
    Sound inv queue s := by
  refine ⟨hq, fun _ => by rw [hm]; rfl, fun cd _ => ?_⟩
  simp only [State.die, hd, Fin.getElem_fin, Vector.getElem_replicate]
  rfl

theorem sound_work_foldl {α : Type} {f : Work → α → Work} (hf : ∀ k x, Sound inv queue k.st → Sound inv queue (f k x).st)
    {l : List α} {k : Work} (h : Sound inv queue k.st) : Sound inv queue (l.foldl f k).st := by
  induction l generalizing k with
  | nil => exact h
  | cons x l ih => exact ih (hf k x h)

theorem sound_butFabric (hf : s.ButFabric t) (h : Sound inv queue s) : Sound inv queue t := by
  obtain ⟨f, r, rfl⟩ := hf
  exact sound_update.mpr h

/-! ### Memory -/

theorem sound_writeLine (h : Sound inv queue s) (a : Nat) (bs : List Byte) : Sound inv queue (s.writeLine a bs) := by
  obtain ⟨m, p, heq⟩ := s.writeLine_rest a bs
  refine ⟨?_, fun i => State.writeLine_wf a bs (h.mem i), fun cd => ?_⟩ <;> rw [heq]
  · exact h.pending
  · exact h.dies cd

theorem sound_write (h : Sound inv queue s) (a : Nat) (bs : List Byte) : Sound inv queue (s.write a bs) := by
  obtain ⟨m, p, heq⟩ := s.write_rest a bs
  refine ⟨?_, fun i => State.write_wf a bs (h.mem i), fun cd => ?_⟩ <;> rw [heq]
  · exact h.pending
  · exact h.dies cd

end

end Sys2Proof.Proofs.Kept
end

section
/-! PROOF. What each operation and each command keeps, in the order of the model's files. A lemma unfolds one definition and
follows its branches; an operation called is passed by its own lemma. -/

namespace Sys2Proof.Proofs.Kept

open Sys2Proof.Machine Sys2Proof.Claims Sys2Proof.Safety

variable {inv : Prop} {queue : List Instr}

/-! ### Ops -/

theorem sound_setReg {s : State} (o v : Nat) (hs : Sound inv queue s) :
    Sound inv queue (State.setReg s o v) := by
  unfold State.setReg
  exact sound_update.mpr hs

theorem sound_orReg {s : State} (o m : Nat) (hs : Sound inv queue s) :
    Sound inv queue (State.orReg s o m) := by
  unfold State.orReg
  exact sound_update.mpr hs

theorem sound_andNotReg {s : State} (o m : Nat) (hs : Sound inv queue s) :
    Sound inv queue (State.andNotReg s o m) := by
  unfold State.andNotReg
  exact sound_update.mpr hs

theorem sound_countReg {s : State} (o n : Nat) (hs : Sound inv queue s) :
    Sound inv queue (State.countReg s o n) := by
  unfold State.countReg
  exact sound_update.mpr hs

theorem sound_fieldReg {s : State} (o lo n v : Nat) (hs : Sound inv queue s) :
    Sound inv queue (State.fieldReg s o lo n v) := by
  unfold State.fieldReg
  exact sound_update.mpr hs

theorem p0_off {d : Die} (hs : P0 inv d) :
    P0 inv (Die.off d) := by
  unfold Die.off
  exact p0_update.mpr hs

theorem sound_deviceFail {s : State} (hs : Sound inv queue s) :
    Sound inv queue (State.deviceFail s) := by
  unfold State.deviceFail
  repeat' with_reducible first | assumption | apply p0_off | apply sound_update_dies

theorem sound_poisonLine {s : State} (a : Nat) (hs : Sound inv queue s) :
    Sound inv queue (State.poisonLine s a) := by
  unfold State.poisonLine
  repeat' with_reducible first | assumption | simp only [sound_update] | split

theorem sound_poisonRange {s : State} (a n : Nat) (hs : Sound inv queue s) :
    Sound inv queue (State.poisonRange s a n) := by
  unfold State.poisonRange
  repeat' with_reducible first | assumption | intro _ | apply sound_poisonLine | apply sound_foldl

theorem sound_emit {s : State} (e : Emit) (hs : Sound inv queue s) :
    Sound inv queue (State.emit s e) := by
  unfold State.emit
  exact sound_update.mpr hs

theorem sound_free {s : State} (hs : Sound inv queue s) :
    Sound inv queue (State.free s).2 := by
  unfold State.free
  exact sound_update.mpr hs

theorem sound_freeBytes {s : State} (n : Nat) (hs : Sound inv queue s) :
    Sound inv queue (State.freeBytes s n).2 := by
  unfold State.freeBytes
  exact sound_update.mpr hs

theorem sound_log {s : State} (cls dieCls die unit detail addr : Nat) (hs : Sound inv queue s) :
    Sound inv queue (State.log s cls dieCls die unit detail addr) := by
  unfold State.log
  repeat' with_reducible first
    | assumption | apply sound_ite | apply sound_orReg | apply sound_countReg | simp only [sound_update]

theorem sound_hold {s : State} (e : Entry) (hs : Sound inv queue s) :
    Sound inv queue (State.hold s e) := by
  unfold State.hold
  repeat' with_reducible first | assumption | apply sound_ite | simp only [sound_update]

theorem sound_event {s : State} (ty src : Nat) (payload : List (Nat × Nat × Nat)) (hs : Sound inv queue s) :
    Sound inv queue (State.event s ty src payload) := by
  unfold State.event
  exact sound_hold (hs := hs) ..

theorem sound_eventTo {s : State} (ring ty src : Nat) (payload : List (Nat × Nat × Nat)) (post : Option (Nat × Nat))
    (hs : Sound inv queue s) :
    Sound inv queue (State.eventTo s ring ty src payload post) := by
  unfold State.eventTo
  exact sound_hold (hs := hs) ..

theorem sound_complete {s : State} (src : Nat) (c : Cmd) (status x1 x2 : Nat) (hs : Sound inv queue s) :
    Sound inv queue (State.complete s src c status x1 x2) := by
  unfold State.complete
  repeat' with_reducible first | assumption | apply sound_hold | simp only [sound_update]

theorem sound_eventBoth {s : State} (ty src : Nat) (payload : List (Nat × Nat × Nat)) (hs : Sound inv queue s) :
    Sound inv queue (State.eventBoth s ty src payload) := by
  unfold State.eventBoth
  repeat' with_reducible first | assumption | apply sound_emit | apply sound_event

theorem sound_fabEvent {s : State} (bits port : Nat) (hs : Sound inv queue s) :
    Sound inv queue (State.fabEvent s bits port) := by
  unfold State.fabEvent
  repeat' with_reducible first | assumption | apply sound_orReg | apply sound_eventBoth

theorem sound_depStatus {s : State} (bits : Nat) (hs : Sound inv queue s) :
    Sound inv queue (State.depStatus s bits) := by
  unfold State.depStatus
  repeat' with_reducible first | assumption | apply sound_ite | apply sound_orReg

theorem p0_endWait {d : Die} (hs : P0 inv d) :
    P0 inv (Die.endWait d) := by
  unfold Die.endWait
  repeat' with_reducible first | assumption | simp only [p0_update] | split

theorem p0_fail {d : Die} (code pc cls op unit status : Nat) (hs : P0 inv d) :
    P0 inv (Die.fail d code pc cls op unit status) := by
  unfold Die.fail
  repeat' with_reducible first | assumption | apply p0_ite | apply p0_endWait | simp only [p0_update]

theorem p0_finish {d : Die} (o : Op) (status : Nat) (hs : P0 inv d) :
    P0 inv (Die.finish d o status) := by
  unfold Die.finish
  repeat' with_reducible first | assumption | apply p0_fail | simp only [p0_update] | split

theorem p0_putOp {d : Die} (o : Op) (hs : P0 inv d) :
    P0 inv (Die.putOp d o) := by
  unfold Die.putOp
  exact p0_update.mpr hs

/-! ### Operands -/

theorem p0_setS {d : Die} (i : Nat) (v : Word) (hs : P0 inv d) :
    P0 inv (Die.setS d i v) := by
  unfold Die.setS
  exact p0_update.mpr hs

theorem p0_setA {d : Die} (i : Nat) (v : Addr) (hs : P0 inv d) :
    P0 inv (Die.setA d i v) := by
  unfold Die.setA
  exact p0_update.mpr hs

theorem p0_setC {d : Die} (i : Nat) (v : Counter) (hs : P0 inv d) :
    P0 inv (Die.setC d i v) := by
  unfold Die.setC
  exact p0_update.mpr hs

theorem p0_advance {d : Die} (hs : P0 inv d) :
    P0 inv (Die.advance d) := by
  unfold Die.advance
  exact p0_update.mpr hs

theorem sound_issueDie (cd : Cd) (w : IWord) (cls op : Nat) (f : Nat → Die → Die) {s : State} (hs : Sound inv queue s)
    (hf : ∀ x u, P0 inv u → P0 inv (f x u)) :
    Sound inv queue (issueDie cd w cls op f s) := by
  unfold issueDie
  repeat' with_reducible first
    | assumption | apply sound_ite | apply p0_ite | apply sound_setDie | apply p0_advance | apply sound_die | apply hf

theorem sound_issueAll (cd : Cd) (w : IWord) (cls op : Nat) (f : Nat → State → State) {s : State} (hs : Sound inv queue s)
    (hf : ∀ x u, Sound inv queue u → Sound inv queue (f x u)) :
    Sound inv queue (issueAll cd w cls op f s) := by
  unfold issueAll
  repeat' with_reducible first
    | assumption | apply sound_ite | apply sound_setDie | apply p0_advance | apply sound_die | apply hf

theorem sound_scalarOp (cd : Cd) (w : IWord) (op : Nat) (f : Nat → Die → Die) {s : State} (hs : Sound inv queue s)
    (hf : ∀ x u, P0 inv u → P0 inv (f x u)) :
    Sound inv queue (scalarOp cd w op f s) := by
  unfold scalarOp
  repeat' with_reducible first | assumption | intro _ | apply p0_advance | apply sound_issueDie | apply hf

/-! ### Packets -/

theorem sound_inject {s : State} (bd : Fin 4) (p : Packet) (hs : Sound inv queue s) :
    Sound inv queue (State.inject s bd p) := by
  unfold State.inject
  repeat' with_reducible first | assumption | apply sound_ite | simp only [sound_update]

theorem sound_sendFlow {s : State} (p : Packet) (ow : Owner) (hs : Sound inv queue s) :
    Sound inv queue (State.sendFlow s p ow) := by
  unfold State.sendFlow
  repeat' with_reducible first | assumption | apply sound_ite | apply sound_inject | simp only [sound_update]

theorem sound_sendAll {s : State} (ps : List Packet) (ow : Owner) (hs : Sound inv queue s) :
    Sound inv queue (State.sendAll s ps ow) := by
  unfold State.sendAll
  repeat' with_reducible first | assumption | intro _ | apply sound_sendFlow | apply sound_foldl

theorem sound_sendAck {s : State} (bd : Fin 4) (f : RxFlow) (reset : Bool) (hs : Sound inv queue s) :
    Sound inv queue (State.sendAck s bd f reset) := by
  unfold State.sendAck
  exact sound_inject (hs := hs) ..

theorem sound_putRx {s : State} (bd : Fin 4) (f : RxFlow) (hs : Sound inv queue s) :
    Sound inv queue (State.putRx s bd f) := by
  unfold State.putRx
  exact sound_update.mpr hs

theorem sound_formatDiscard {s : State} (hs : Sound inv queue s) :
    Sound inv queue (State.formatDiscard s) := by
  unfold State.formatDiscard
  repeat' with_reducible first | assumption | apply sound_countReg | simp only [sound_update]

theorem sound_ackOne {s : State} (p : Packet) (hs : Sound inv queue s) :
    Sound inv queue (State.ackOne s p) := by
  unfold State.ackOne
  repeat' with_reducible first | assumption | apply sound_sendAck | apply sound_putRx | simp only [sound_update] | split

theorem sound_rxAccept {s : State} (h : Sound inv queue s) (p : Packet) : Sound inv queue (s.rxAccept p).1 :=
  sound_butFabric (s.butFabric_rxAccept p) h

theorem sound_rxRelease {s : State} (p : Packet) (hs : Sound inv queue s) :
    Sound inv queue (State.rxRelease s p) := by
  unfold State.rxRelease
  repeat' with_reducible first | assumption | apply sound_putRx | simp only [sound_update] | split

theorem sound_rxPass {s : State} (p : Packet) (hs : Sound inv queue s) :
    Sound inv queue (State.rxPass s p) := by
  unfold State.rxPass
  repeat' with_reducible first | assumption | apply sound_putRx | simp only [sound_update] | split

theorem sound_popEject {s : State} (q : Fin 9) (hs : Sound inv queue s) :
    Sound inv queue (State.popEject s q) := by
  unfold State.popEject
  exact sound_update.mpr hs

theorem sound_takePacket {s : State} (h : Sound inv queue s) (q : Fin 9) (sel : Packet → Bool)
    (perform : Packet → State → State) (hperform : ∀ p u, Sound inv queue u → Sound inv queue (perform p u)) :
    Sound inv queue (takePacket q sel perform s) :=
  takePacket_keeps q sel perform (fun _ _ hf hu => sound_butFabric hf hu) hperform h

/-! ### Branch -/

theorem gives_execBr (cd : Cd) (w : IWord) {s : State} (hs : Sound inv queue s) :
    ∃ t, execBr cd w s = .next t ∧ Sound inv queue t := by
  refine ⟨_, rfl, ?_⟩
  repeat' with_reducible first | assumption | intro _ | apply sound_issueDie | simp only [p0_update]

theorem gives_execCall (cd : Cd) (w : IWord) {s : State} (hs : Sound inv queue s) :
    ∃ t, execCall cd w s = .next t ∧ Sound inv queue t := by
  refine ⟨_, rfl, ?_⟩
  repeat' with_reducible first | assumption | intro _ | apply p0_setA | apply sound_issueDie | simp only [p0_update]

theorem gives_execJr (cd : Cd) (w : IWord) {s : State} (hs : Sound inv queue s) :
    ∃ t, execJr cd w s = .next t ∧ Sound inv queue t := by
  refine ⟨_, rfl, ?_⟩
  repeat' with_reducible first
    | assumption | intro _ | apply p0_ite | apply p0_fail | apply sound_issueDie | simp only [p0_update]

theorem gives_execLoop (cd : Cd) (w : IWord) {s : State} (hs : Sound inv queue s) :
    ∃ t, execLoop cd w s = .next t ∧ Sound inv queue t := by
  refine ⟨_, rfl, ?_⟩
  repeat' with_reducible first
    | assumption | intro _ | apply p0_ite | apply p0_setS | apply p0_advance | apply sound_issueDie
    | simp only [p0_update]

theorem gives_execHalt (cd : Cd) (w : IWord) {s : State} (hs : Sound inv queue s) :
    ∃ t, execHalt cd w s = .next t ∧ Sound inv queue t := by
  refine ⟨_, rfl, ?_⟩
  repeat' with_reducible first | assumption | intro _ | apply sound_issueDie | simp only [p0_update]

theorem sound_endStart {s : State} (cd : Cd) (status endCode fault addr : Nat) (hs : Sound inv queue s) :
    Sound inv queue (State.endStart s cd status endCode fault addr) := by
  unfold State.endStart
  repeat' with_reducible first
    | assumption | intro _ | apply sound_updDie | apply sound_complete | simp only [p0_update] | split

theorem sound_haltComplete (cd : Cd) {s : State} (hs : Sound inv queue s) :
    Sound inv queue (haltComplete cd s) := by
  unfold haltComplete
  repeat' with_reducible first
    | assumption | apply sound_setDie | apply sound_endStart | apply sound_die | simp only [p0_update] | split

theorem gives_execHaltComplete (cd : Cd) {s : State} (hs : Sound inv queue s) :
    ∃ t, execHaltComplete cd s = .next t ∧ Sound inv queue t := by
  exact ⟨_, rfl, sound_haltComplete (hs := hs) ..⟩

theorem sound_seqEvent {s : State} (cd : Cd) (st code pc : Nat) (hs : Sound inv queue s) :
    Sound inv queue (State.seqEvent s cd st code pc) := by
  unfold State.seqEvent
  exact sound_eventBoth (hs := hs) ..

theorem sound_faultSettle (cd : Cd) {s : State} (hs : Sound inv queue s) :
    Sound inv queue (faultSettle cd s) := by
  unfold faultSettle
  repeat' with_reducible first
    | assumption | apply sound_ite | apply sound_setDie | apply sound_endStart | apply sound_seqEvent
    | apply sound_die | simp only [p0_update]

theorem gives_execFaultSettle (cd : Cd) {s : State} (hs : Sound inv queue s) :
    ∃ t, execFaultSettle cd s = .next t ∧ Sound inv queue t := by
  exact ⟨_, rfl, sound_faultSettle (hs := hs) ..⟩

theorem sound_endStop {s : State} (cd : Cd) (hs : Sound inv queue s) :
    Sound inv queue (State.endStop s cd) := by
  unfold State.endStop
  repeat' with_reducible first
    | assumption | intro _ | apply sound_updDie | apply sound_complete | apply sound_foldl | simp only [p0_update]

theorem sound_stopComplete (cd : Cd) {s : State} (hs : Sound inv queue s) :
    Sound inv queue (stopComplete cd s) := by
  unfold stopComplete
  repeat' with_reducible first
    | assumption | apply sound_ite | apply sound_setDie | apply sound_endStart | apply sound_seqEvent
    | apply sound_endStop | apply sound_die | simp only [p0_update]

theorem gives_execStopComplete (cd : Cd) {s : State} (hs : Sound inv queue s) :
    ∃ t, execStopComplete cd s = .next t ∧ Sound inv queue t := by
  exact ⟨_, rfl, sound_stopComplete (hs := hs) ..⟩

theorem sound_icacheFill (cd : Cd) {s : State} (hs : Sound inv queue s) :
    Sound inv queue (icacheFill cd s) := by
  unfold icacheFill
  repeat' with_reducible first
    | assumption | apply sound_ite | apply sound_setDie | apply p0_fail | apply sound_die | simp only [p0_update]

theorem gives_execIcacheFill (cd : Cd) {s : State} (hs : Sound inv queue s) :
    ∃ t, execIcacheFill cd s = .next t ∧ Sound inv queue t := by
  exact ⟨_, rfl, sound_icacheFill (hs := hs) ..⟩

theorem gives_execReservedCodeInstruction (cd : Cd) (w : IWord) {s : State} (hs : Sound inv queue s) :
    ∃ t, execReservedCodeInstruction cd w s = .next t ∧ Sound inv queue t := by
  refine ⟨_, rfl, ?_⟩
  repeat' with_reducible first | assumption | apply sound_ite | apply sound_setDie | apply p0_fail | apply sound_die

theorem p0_dropQueued {d : Die} (hs : P0 inv d) :
    P0 inv (Die.dropQueued d) := by
  unfold Die.dropQueued
  exact p0_update.mpr hs

theorem p0_stop {d : Die} (abort : Bool) (cs : List Cmd) (hs : P0 inv d) :
    P0 inv (Die.stop d abort cs) := by
  unfold Die.stop
  repeat' with_reducible first | assumption | apply p0_ite | apply p0_endWait | apply p0_dropQueued | simp only [p0_update]

/-! ### Link -/

theorem sound_setBundle {s : State} (key : Nat) (b : Bundle) (hs : Sound inv queue s) :
    Sound inv queue (State.setBundle s key b) := by
  unfold State.setBundle
  exact sound_update.mpr hs

theorem sound_setHafDie {s : State} (die : Nat) (d : HafDie) (hs : Sound inv queue s) :
    Sound inv queue (State.setHafDie s die d) := by
  unfold State.setHafDie
  exact sound_update.mpr hs

theorem sound_pump {s : State} (key : Nat) (hs : Sound inv queue s) (fuel : Nat) :
    Sound inv queue (State.pump s key fuel) := by
  induction fuel generalizing s key with
  | zero =>
    unfold State.pump
    repeat' with_reducible first
      | assumption | intro _ | apply sound_ite | apply p0_ite | apply sound_emit | apply sound_setBundle
      | simp only [sound_update] | simp only [p0_update] | split
  | succ n ih =>
    unfold State.pump
    repeat' with_reducible first
      | assumption | apply ih | apply sound_emit | apply sound_setBundle | simp only [sound_update] | split

theorem sound_sendFlit {s : State} (key : Nat) (body : List Byte) (hs : Sound inv queue s) :
    Sound inv queue (State.sendFlit s key body) := by
  unfold State.sendFlit
  repeat' with_reducible first | assumption | apply sound_setBundle | apply sound_pump

theorem sound_sendCompletion {s : State} (key tag status word : Nat) (line : Option (List Byte × Bool)) (hs : Sound inv queue s) :
    Sound inv queue (State.sendCompletion s key tag status word line) := by
  unfold State.sendCompletion
  repeat' with_reducible first | assumption | apply sound_sendFlit | split

/-! ### Memory -/

theorem sound_newPoison {s : State} (l : Nat) (hs : Sound inv queue s) :
    Sound inv queue (State.newPoison s l) := by
  unfold State.newPoison
  repeat' with_reducible first
    | assumption | apply sound_countReg | apply sound_log | apply sound_event | simp only [sound_update]

theorem sound_corrected {s : State} (l : Nat) (hs : Sound inv queue s) :
    Sound inv queue (State.corrected s l) := by
  unfold State.corrected
  repeat' with_reducible first
    | assumption | apply sound_ite | apply sound_countReg | apply sound_log | simp only [sound_update]

theorem sound_deliver {s : State} (l : Nat) (hs : Sound inv queue s) :
    Sound inv queue (State.deliver s l) := by
  unfold State.deliver
  exact sound_update.mpr hs

theorem sound_readHome {s : State} (l : Nat) (err : List Byte) (deliver : Bool) (hs : Sound inv queue s) :
    Sound inv queue (State.readHome s l err deliver) := by
  unfold State.readHome
  repeat' with_reducible first
    | assumption | apply sound_countReg | apply sound_newPoison | apply sound_corrected | apply sound_deliver
    | simp only [sound_update] | split

theorem sound_substitute {s : State} (j g : Nat) (hs : Sound inv queue s) (fuel : List Nat) :
    Sound inv queue (State.substitute s j g fuel).1 := by
  induction fuel generalizing s j g with
  | nil =>
    unfold State.substitute
    repeat' with_reducible first
      | assumption | intro _ | apply sound_ite | apply p0_ite | apply sound_fieldReg | apply sound_log
      | simp only [sound_update] | simp only [p0_update] | split
  | cons x l ih =>
    unfold State.substitute
    repeat' with_reducible first
      | assumption | apply ih | apply sound_fieldReg | apply sound_log | simp only [sound_update] | split

theorem sound_beyondRepair {s : State} (j addr : Nat) (hs : Sound inv queue s) :
    Sound inv queue (State.beyondRepair s j addr) := by
  unfold State.beyondRepair
  repeat' with_reducible first | assumption | apply sound_orReg | apply sound_log | apply sound_event | simp only [sound_update]

theorem sound_laneTestEnd (stack channel : Nat) (lanes : List Nat) (err : List Byte) {s : State} (hs : Sound inv queue s) :
    Sound inv queue (laneTestEnd stack channel lanes err s) := by
  unfold laneTestEnd
  repeat' with_reducible first
    | assumption | apply sound_countReg | apply sound_deviceFail | apply sound_newPoison | apply sound_corrected
    | apply sound_deliver | apply sound_substitute | apply sound_beyondRepair | simp only [sound_update] | split

theorem gives_execLaneTestEnd (stack channel : Nat) (lanes : List Nat) (err : List Byte) {s : State} (hs : Sound inv queue s) :
    ∃ t, execLaneTestEnd stack channel lanes err s = .next t ∧ Sound inv queue t := by
  exact ⟨_, rfl, sound_laneTestEnd (hs := hs) ..⟩

theorem sound_sendWake {s : State} (who addr : Nat) (hs : Sound inv queue s) :
    Sound inv queue (State.sendWake s who addr) := by
  unfold State.sendWake
  exact sound_inject (hs := hs) ..

theorem sound_semAcquire {s : State} (r : HomeReq) (hs : Sound inv queue s) :
    Sound inv queue (State.semAcquire s r).1 := by
  unfold State.semAcquire
  repeat' with_reducible first | assumption | apply sound_write | simp only [sound_update] | split

theorem sound_semRelease {s : State} (r : HomeReq) (hs : Sound inv queue s) :
    Sound inv queue (State.semRelease s r).1 := by
  unfold State.semRelease
  repeat' with_reducible first | assumption | apply sound_write | apply sound_sendWake | simp only [sound_update] | split

theorem sound_atomicEffect {s : State} (r : HomeReq) (hs : Sound inv queue s) :
    Sound inv queue (State.atomicEffect s r).1 := by
  unfold State.atomicEffect
  repeat' with_reducible first
    | assumption | apply sound_countReg | apply sound_write | apply sound_semAcquire | apply sound_semRelease
    | simp only [sound_update] | split

theorem sound_atomic {s : State} (r : HomeReq) (hs : Sound inv queue s) :
    Sound inv queue (State.atomic s r).1 := by
  unfold State.atomic
  repeat' with_reducible first | assumption | apply sound_atomicEffect | split

theorem sound_finishOp {s : State} (cd id status : Nat) (hs : Sound inv queue s) :
    Sound inv queue (State.finishOp s cd id status) := by
  unfold State.finishOp
  repeat' with_reducible first | assumption | intro _ | apply sound_updDie | apply p0_fail | apply p0_finish | split

theorem sound_atomReply {s : State} (o : Origin) (res : AtomRes) (hs : Sound inv queue s) :
    Sound inv queue (State.atomReply s o res) := by
  unfold State.atomReply
  repeat' with_reducible first
    | assumption | apply sound_sendFlow | apply sound_sendCompletion | apply sound_finishOp | simp only [sound_update]
    | split

theorem sound_bufferLine {s : State} (addr : Nat) (hs : Sound inv queue s) :
    Sound inv queue (State.bufferLine s addr) := by
  unfold State.bufferLine
  repeat' with_reducible first | assumption | simp only [sound_update] | split

theorem sound_atomicAt (i code : Nat) {s : State} (hs : Sound inv queue s) :
    Sound inv queue (atomicAt i code s) := by
  unfold atomicAt
  repeat' with_reducible first
    | assumption | apply sound_atomic | apply sound_atomReply | apply sound_bufferLine | simp only [sound_update]
    | split

theorem gives_execAdd64 (i : Nat) {s : State} (hs : Sound inv queue s) :
    ∃ t, execAdd64 i s = .next t ∧ Sound inv queue t := by
  exact ⟨_, rfl, sound_atomicAt (hs := hs) ..⟩

theorem gives_execFetchAdd64 (i : Nat) {s : State} (hs : Sound inv queue s) :
    ∃ t, execFetchAdd64 i s = .next t ∧ Sound inv queue t := by
  exact ⟨_, rfl, sound_atomicAt (hs := hs) ..⟩

theorem gives_execAdd64Sat (i : Nat) {s : State} (hs : Sound inv queue s) :
    ∃ t, execAdd64Sat i s = .next t ∧ Sound inv queue t := by
  exact ⟨_, rfl, sound_atomicAt (hs := hs) ..⟩

theorem gives_execSwap64 (i : Nat) {s : State} (hs : Sound inv queue s) :
    ∃ t, execSwap64 i s = .next t ∧ Sound inv queue t := by
  exact ⟨_, rfl, sound_atomicAt (hs := hs) ..⟩

theorem gives_execCas64 (i : Nat) {s : State} (hs : Sound inv queue s) :
    ∃ t, execCas64 i s = .next t ∧ Sound inv queue t := by
  exact ⟨_, rfl, sound_atomicAt (hs := hs) ..⟩

theorem gives_execSemAcquire (i : Nat) {s : State} (hs : Sound inv queue s) :
    ∃ t, execSemAcquire i s = .next t ∧ Sound inv queue t := by
  exact ⟨_, rfl, sound_atomicAt (hs := hs) ..⟩

theorem gives_execSemRelease (i : Nat) {s : State} (hs : Sound inv queue s) :
    ∃ t, execSemRelease i s = .next t ∧ Sound inv queue t := by
  exact ⟨_, rfl, sound_atomicAt (hs := hs) ..⟩

theorem gives_execAtomicBufferWriteback (addr : Nat) {s : State} (hs : Sound inv queue s) :
    ∃ t, execAtomicBufferWriteback addr s = .next t ∧ Sound inv queue t := by
  refine ⟨_, rfl, ?_⟩
  repeat' with_reducible first | assumption | simp only [sound_update] | split

theorem sound_scrubRead (u : Nat) (err : List Byte) {s : State} (hs : Sound inv queue s) :
    Sound inv queue (scrubRead u err s) := by
  unfold scrubRead
  repeat' with_reducible first | assumption | apply sound_ite | apply sound_readHome | simp only [sound_update]

theorem gives_execScrubRead (u : Nat) (err : List Byte) {s : State} (hs : Sound inv queue s) :
    ∃ t, execScrubRead u err s = .next t ∧ Sound inv queue t := by
  exact ⟨_, rfl, sound_scrubRead (hs := hs) ..⟩

theorem gives_execMemScrubWrite (v : Nat) {s : State} (hs : Sound inv queue s) :
    ∃ t, execMemScrubWrite v s = .next t ∧ Sound inv queue t := by
  refine ⟨_, rfl, ?_⟩
  repeat' with_reducible first | assumption | apply sound_setReg | simp only [sound_update] | split

/-! ### Scoreboard -/

theorem gives_execScoreboardGrant (cd : Cd) (tile : Nat) {s : State} (hs : Sound inv queue s) :
    ∃ t, execScoreboardGrant cd tile s = .next t ∧ Sound inv queue t := by
  refine ⟨_, rfl, ?_⟩
  repeat' with_reducible first | assumption | intro _ | apply sound_updDie | simp only [p0_update]

theorem sound_sbMove {s : State} (who : Nat) (src dst : List (Nat × Nat)) (hs : Sound inv queue s) :
    Sound inv queue (State.sbMove s who src dst) := by
  unfold State.sbMove
  repeat' with_reducible first
    | assumption | intro _ | apply sound_ite | apply sound_updDie | apply sound_foldl | simp only [p0_update]

theorem sound_sbDrop {s : State} (who : Nat) (hs : Sound inv queue s) :
    Sound inv queue (State.sbDrop s who) := by
  unfold State.sbDrop
  repeat' with_reducible first | assumption | intro _ | apply sound_update_dies | simp only [p0_update]

theorem sound_sbEnter {s : State} (who : Nat) (src dst : List (Nat × Nat)) (hs : Sound inv queue s) :
    Sound inv queue (State.sbEnter s who src dst) := by
  unfold State.sbEnter
  repeat' with_reducible first | assumption | apply sound_ite | apply sound_sbMove

theorem sound_askHost {s : State} (wins : List Nat) (a n : Nat) (hs : Sound inv queue s) :
    Sound inv queue (State.askHost s wins a n) := by
  unfold State.askHost
  repeat' with_reducible first | assumption | apply sound_emit | split

theorem sound_putChunk {s : State} (wins : List Nat) (a : Nat) (bs : List Byte) (mark : Bool) (hs : Sound inv queue s) :
    Sound inv queue (State.putChunk s wins a bs mark).1 := by
  unfold State.putChunk
  repeat' with_reducible first | assumption | apply sound_writeLine | apply sound_poisonLine | apply sound_emit | split

theorem sound_putBytesAt {s : State} (wins : List Nat) (a : Nat) (bs : List Byte) (bads : List Bool)
    (hs : Sound inv queue s) (fuel : Nat) :
    Sound inv queue (State.putBytesAt s wins a bs bads fuel).1 := by
  induction fuel generalizing s wins a bs bads with
  | zero =>
    unfold State.putBytesAt
    repeat' with_reducible first
      | assumption | intro _ | apply sound_ite | apply p0_ite | apply sound_putChunk | apply sound_Work.take
      | simp only [sound_update] | simp only [p0_update] | split
  | succ n ih =>
    unfold State.putBytesAt
    repeat' with_reducible first | assumption | apply ih | apply sound_putChunk | split

theorem sound_putBytes {s : State} (a : Nat) (bs : List Byte) (bads : List Bool) (f : Nat) (hs : Sound inv queue s) :
    Sound inv queue (State.putBytes s a bs bads f) := by
  unfold State.putBytes
  exact sound_putBytesAt (hs := hs) ..

theorem sound_moveBytes {s : State} (v : HostView) (src dst n : Nat) (poison : Bool) (hs : Sound inv queue s) (fuel : Nat) :
    Sound inv queue (State.moveBytes s v src dst n poison fuel).1 := by
  induction fuel generalizing s v src dst n poison with
  | zero =>
    unfold State.moveBytes
    repeat' with_reducible first
      | assumption | intro _ | apply sound_ite | apply p0_ite | apply sound_askHost | apply sound_putChunk
      | simp only [sound_update] | simp only [p0_update] | split
  | succ n ih =>
    unfold State.moveBytes
    repeat' with_reducible first | assumption | apply ih | apply sound_askHost | apply sound_putChunk | split

theorem sound_moveRows {s : State} (v : HostView) (src dst len ss ds : Nat) (poison : Bool) (done : Nat)
    (hs : Sound inv queue s) (fuel : Nat) :
    Sound inv queue (State.moveRows s v src dst len ss ds poison done fuel).1 := by
  induction fuel generalizing s v src dst len ss ds poison done with
  | zero =>
    unfold State.moveRows
    repeat' with_reducible first
      | assumption | intro _ | apply sound_ite | apply p0_ite | apply sound_moveBytes | simp only [sound_update]
      | simp only [p0_update] | split
  | succ n ih =>
    unfold State.moveRows
    repeat' with_reducible first | assumption | apply ih | apply sound_moveBytes | simp only [sound_update] | split

/-! ### Cellar -/

theorem sound_digestRead {s : State} (kind : Nat) (snap : List Nat) (hs : Sound inv queue s) :
    Sound inv queue (State.digestRead s kind snap).2.2 := by
  unfold State.digestRead
  repeat' with_reducible first | assumption | apply sound_freeBytes | simp only [sound_update] | split

theorem sound_updDep {s : State} (f : DepSt → DepSt) (hs : Sound inv queue s) :
    Sound inv queue (State.updDep s f) := by
  unfold State.updDep
  exact sound_update.mpr hs

theorem sound_sendLines {s : State} (ps : List Packet) (hs : Sound inv queue s) :
    Sound inv queue (State.sendLines s ps) := by
  unfold State.sendLines
  repeat' with_reducible first | assumption | apply sound_sendAll | apply sound_updDep

theorem sound_flushDone {s : State} (hs : Sound inv queue s) :
    Sound inv queue (State.flushDone s) := by
  unfold State.flushDone
  repeat' with_reducible first
    | assumption | intro _ | apply sound_ite | apply sound_sendFlow | apply sound_updDep | apply sound_foldl

theorem sound_sendDone {s : State} (dst kind step : Nat) (digest : List Byte) (hs : Sound inv queue s) :
    Sound inv queue (State.sendDone s dst kind step digest) := by
  unfold State.sendDone
  repeat' with_reducible first | assumption | apply sound_updDep | apply sound_flushDone

theorem sound_sendList {s : State} (step : Nat) (hs : Sound inv queue s) :
    Sound inv queue (State.sendList s step) := by
  unfold State.sendList
  repeat' with_reducible first | assumption | intro _ | apply sound_sendFlow | apply sound_sendDone | apply sound_foldl | split

theorem sound_sendRanges {s : State} (step : Nat) (hs : Sound inv queue s) :
    Sound inv queue (State.sendRanges s step) := by
  unfold State.sendRanges
  repeat' with_reducible first
    | assumption | intro _ | apply sound_updDep | apply sound_sendLines | apply sound_sendDone | apply sound_foldl
    | split

theorem sound_noteVerdict {s : State} (v other : Nat) (hs : Sound inv queue s) :
    Sound inv queue (State.noteVerdict s v other) := by
  unfold State.noteVerdict
  repeat' with_reducible first | assumption | apply sound_ite | apply sound_orReg | apply sound_log | apply sound_depStatus

theorem sound_depFlag {s : State} (hs : Sound inv queue s) :
    Sound inv queue (State.depFlag s) := by
  unfold State.depFlag
  exact sound_atomic (hs := hs) ..

theorem sound_endDigest {s : State} (d : Digest) (hs : Sound inv queue s) :
    Sound inv queue (State.endDigest s d) := by
  unfold State.endDigest
  repeat' with_reducible first
    | assumption | apply sound_andNotReg | apply sound_write | apply sound_updDep | apply sound_noteVerdict
    | apply sound_depFlag

theorem sound_putDigest {s : State} (d : Digest) (hs : Sound inv queue s) :
    Sound inv queue (State.putDigest s d) := by
  unfold State.putDigest
  exact sound_update.mpr hs

theorem sound_tryEnd {s : State} (hs : Sound inv queue s) :
    Sound inv queue (State.tryEnd s) := by
  unfold State.tryEnd
  repeat' with_reducible first | assumption | apply sound_endDigest | split

theorem sound_sendPrimary {s : State} (hs : Sound inv queue s) :
    Sound inv queue (State.sendPrimary s) := by
  unfold State.sendPrimary
  repeat' with_reducible first | assumption | apply sound_sendFlow | apply sound_putDigest | simp only [sound_update] | split

theorem sound_sendVerdict {s : State} (dst step v : Nat) (hs : Sound inv queue s) :
    Sound inv queue (State.sendVerdict s dst step v) := by
  unfold State.sendVerdict
  exact sound_sendFlow (hs := hs) ..

theorem sound_compareWard {s : State} (hs : Sound inv queue s) :
    Sound inv queue (State.compareWard s) := by
  unfold State.compareWard
  repeat' with_reducible first | assumption | apply sound_updDep | apply sound_putDigest | apply sound_sendVerdict | split

theorem sound_beginDigest {s : State} (kind step sender : Nat) (carried : List Byte) (start : Nat) (hs : Sound inv queue s) :
    Sound inv queue (State.beginDigest s kind step sender carried start) := by
  unfold State.beginDigest
  repeat' with_reducible first
    | assumption | apply sound_ite | apply sound_orReg | apply sound_updDep | apply sound_sendList
    | apply sound_sendRanges | apply sound_endDigest | apply sound_putDigest

theorem sound_receiveRecord {s : State} (d : Digest) (v : Nat) (sum : List Byte) (hs : Sound inv queue s) :
    Sound inv queue (State.receiveRecord s d v sum) := by
  unfold State.receiveRecord
  repeat' with_reducible first | assumption | apply sound_write

theorem sound_reportReceive {s : State} (d : Digest) (v : Nat) (hs : Sound inv queue s) :
    Sound inv queue (State.reportReceive s d v) := by
  unfold State.reportReceive
  repeat' with_reducible first | assumption | apply sound_noteVerdict | apply sound_depFlag | apply sound_sendVerdict

theorem sound_endReceive {s : State} (d : Digest) (v : Nat) (sum : List Byte) (hs : Sound inv queue s) :
    Sound inv queue (State.endReceive s d v sum) := by
  unfold State.endReceive
  repeat' with_reducible first
    | assumption | apply sound_andNotReg | apply sound_updDep | apply sound_receiveRecord | apply sound_reportReceive

theorem sound_notComputed {s : State} (d : Digest) (hs : Sound inv queue s) :
    Sound inv queue (State.notComputed s d) := by
  unfold State.notComputed
  repeat' with_reducible first
    | assumption | apply sound_ite | apply sound_write | apply sound_noteVerdict | apply sound_depFlag
    | apply sound_reportReceive

theorem sound_trigger {s : State} (kind step sender : Nat) (carried : List Byte) (hs : Sound inv queue s) :
    Sound inv queue (State.trigger s kind step sender carried) := by
  unfold State.trigger
  repeat' with_reducible first | assumption | apply sound_updDep | apply sound_beginDigest | apply sound_notComputed | split

theorem sound_digestDeferred {s : State} (hs : Sound inv queue s) :
    Sound inv queue (digestDeferred s) := by
  unfold digestDeferred
  repeat' with_reducible first | assumption | apply sound_updDep | apply sound_beginDigest | split

theorem gives_execDigestDeferredStart {s : State} (hs : Sound inv queue s) :
    ∃ t, execDigestDeferredStart s = .next t ∧ Sound inv queue t := by
  exact ⟨_, rfl, sound_digestDeferred (hs := hs) ..⟩

theorem sound_requestLines {s : State} (dst side : Nat) (l : List (Nat × Nat)) (hs : Sound inv queue s) :
    Sound inv queue (State.requestLines s dst side l) := by
  unfold State.requestLines
  repeat' with_reducible first | assumption | intro _ | apply sound_sendFlow | apply sound_foldl

theorem sound_primaryDone {s : State} (hs : Sound inv queue s) :
    Sound inv queue (primaryDone s) := by
  unfold primaryDone
  repeat' with_reducible first
    | assumption | apply sound_digestRead | apply sound_putDigest | apply sound_tryEnd | apply sound_sendPrimary
    | apply sound_requestLines | split

theorem gives_execPrimaryDigestDone {s : State} (hs : Sound inv queue s) :
    ∃ t, execPrimaryDigestDone s = .next t ∧ Sound inv queue t := by
  exact ⟨_, rfl, sound_primaryDone (hs := hs) ..⟩

theorem sound_mirrorDone {s : State} (hs : Sound inv queue s) :
    Sound inv queue (mirrorDone s) := by
  unfold mirrorDone
  repeat' with_reducible first
    | assumption | apply sound_digestRead | apply sound_putDigest | apply sound_tryEnd | apply sound_compareWard
    | apply sound_requestLines | split

theorem gives_execMirrorDigestDone {s : State} (hs : Sound inv queue s) :
    ∃ t, execMirrorDigestDone s = .next t ∧ Sound inv queue t := by
  exact ⟨_, rfl, sound_mirrorDone (hs := hs) ..⟩

theorem sound_digestTimeout {s : State} (hs : Sound inv queue s) :
    Sound inv queue (digestTimeout s) := by
  unfold digestTimeout
  repeat' with_reducible first | assumption | apply sound_endDigest | split

theorem gives_execDigestTimeout {s : State} (hs : Sound inv queue s) :
    ∃ t, execDigestTimeout s = .next t ∧ Sound inv queue t := by
  exact ⟨_, rfl, sound_digestTimeout (hs := hs) ..⟩

theorem sound_takeWardDigest (src : Nat) (b : List Byte) {s : State} (hs : Sound inv queue s) :
    Sound inv queue (takeWardDigest src b s) := by
  unfold takeWardDigest
  repeat' with_reducible first
    | assumption | apply sound_ite | apply sound_updDep | apply sound_tryEnd | apply sound_sendVerdict
    | apply sound_compareWard | split

theorem gives_execDigestPacket (q : Fin 9) {s : State} (hs : Sound inv queue s) :
    ∃ t, execDigestPacket q s = .next t ∧ Sound inv queue t := by
  refine ⟨_, rfl, ?_⟩
  repeat' with_reducible first | assumption | intro _ | apply sound_takePacket | apply sound_takeWardDigest

theorem sound_endTransfer {s : State} (hs : Sound inv queue s) :
    Sound inv queue (State.endTransfer s) := by
  unfold State.endTransfer
  repeat' with_reducible first | assumption | apply sound_orReg | apply sound_andNotReg | apply sound_updDep

theorem sound_takeVerdict (src : Nat) (b : List Byte) {s : State} (hs : Sound inv queue s) :
    Sound inv queue (takeVerdict src b s) := by
  unfold takeVerdict
  repeat' with_reducible first
    | assumption | apply sound_ite | apply sound_putDigest | apply sound_tryEnd | apply sound_endTransfer | split

theorem gives_execVerdictPacket (q : Fin 9) {s : State} (hs : Sound inv queue s) :
    ∃ t, execVerdictPacket q s = .next t ∧ Sound inv queue t := by
  refine ⟨_, rfl, ?_⟩
  repeat' with_reducible first | assumption | intro _ | apply sound_takePacket | apply sound_takeVerdict

theorem sound_answerLine {s : State} (r : Nat × Nat × Nat × Nat) (hs : Sound inv queue s) :
    Sound inv queue (State.answerLine s r) := by
  unfold State.answerLine
  repeat' with_reducible first | assumption | apply sound_sendLines | split

theorem sound_takeLineRequest (src : Nat) (b : List Byte) {s : State} (hs : Sound inv queue s) :
    Sound inv queue (takeLineRequest src b s) := by
  unfold takeLineRequest
  repeat' with_reducible first | assumption | apply sound_ite | apply sound_updDep | apply sound_answerLine

theorem gives_execLineRequest (q : Fin 9) {s : State} (hs : Sound inv queue s) :
    ∃ t, execLineRequest q s = .next t ∧ Sound inv queue t := by
  refine ⟨_, rfl, ?_⟩
  repeat' with_reducible first | assumption | intro _ | apply sound_takePacket | apply sound_takeLineRequest

theorem sound_answerHeld {s : State} (hs : Sound inv queue s) :
    Sound inv queue (State.answerHeld s) := by
  unfold State.answerHeld
  repeat' with_reducible first | assumption | apply sound_updDep | apply sound_answerLine | apply sound_foldl

theorem sound_restoreLine {s : State} (d : Digest) (side region off a : Nat) (line : List Byte) (mark : Bool)
    (hs : Sound inv queue s) :
    Sound inv queue (State.restoreLine s d side region off a line mark) := by
  unfold State.restoreLine
  repeat' with_reducible first
    | assumption | apply sound_ite | apply sound_countReg | apply sound_writeLine | apply sound_log
    | apply sound_depStatus | apply sound_putDigest

theorem sound_takeLine {s : State} (side region off a : Nat) (line : List Byte) (mark : Bool) (hs : Sound inv queue s) :
    Sound inv queue (State.takeLine s side region off a line mark) := by
  unfold State.takeLine
  repeat' with_reducible first | assumption | apply sound_putChunk | apply sound_restoreLine | split

theorem sound_takeLines (p : Packet) {s : State} (hs : Sound inv queue s) :
    Sound inv queue (takeLines p s) := by
  unfold takeLines
  repeat' with_reducible first
    | assumption | intro _ | apply sound_orReg | apply sound_countReg | apply sound_updDep | apply sound_tryEnd
    | apply sound_sendPrimary | apply sound_compareWard | apply sound_takeLine | apply sound_foldl
    | simp only [sound_update] | split

theorem gives_execLinesPacket (q : Fin 9) {s : State} (hs : Sound inv queue s) :
    ∃ t, execLinesPacket q s = .next t ∧ Sound inv queue t := by
  refine ⟨_, rfl, ?_⟩
  repeat' with_reducible first | assumption | apply sound_takePacket | apply sound_takeLines

theorem sound_takeDirectList (src : Nat) (b : List Byte) {s : State} (hs : Sound inv queue s) :
    Sound inv queue (takeDirectList src b s) := by
  unfold takeDirectList
  repeat' with_reducible first | assumption | apply sound_ite | apply sound_updDep

theorem gives_execDirectListPacket (q : Fin 9) {s : State} (hs : Sound inv queue s) :
    ∃ t, execDirectListPacket q s = .next t ∧ Sound inv queue t := by
  refine ⟨_, rfl, ?_⟩
  repeat' with_reducible first | assumption | intro _ | apply sound_ite | apply sound_takePacket | apply sound_takeDirectList

theorem sound_takeDone0 (src : Nat) {s : State} (hs : Sound inv queue s) :
    Sound inv queue (takeDone0 src s) := by
  unfold takeDone0
  repeat' with_reducible first
    | assumption | apply sound_ite | apply sound_updDep | apply sound_sendRanges | apply sound_answerHeld | split

theorem gives_execDoneReconciliation (q : Fin 9) {s : State} (hs : Sound inv queue s) :
    ∃ t, execDoneReconciliation q s = .next t ∧ Sound inv queue t := by
  refine ⟨_, rfl, ?_⟩
  repeat' with_reducible first | assumption | intro _ | apply sound_ite | apply sound_takePacket | apply sound_takeDone0

theorem sound_takeDone (kind : Nat) (p : Packet) {s : State} (hs : Sound inv queue s) :
    Sound inv queue (takeDone kind p s) := by
  unfold takeDone
  exact sound_trigger (hs := hs) ..

theorem gives_execDoneUnload (q : Fin 9) {s : State} (hs : Sound inv queue s) :
    ∃ t, execDoneUnload q s = .next t ∧ Sound inv queue t := by
  refine ⟨_, rfl, ?_⟩
  repeat' with_reducible first | assumption | apply sound_takePacket | apply sound_takeDone

theorem gives_execDoneReseed (q : Fin 9) {s : State} (hs : Sound inv queue s) :
    ∃ t, execDoneReseed q s = .next t ∧ Sound inv queue t := by
  refine ⟨_, rfl, ?_⟩
  repeat' with_reducible first | assumption | apply sound_takePacket | apply sound_takeDone

theorem sound_receiveDone {s : State} (hs : Sound inv queue s) :
    Sound inv queue (receiveDone s) := by
  unfold receiveDone
  repeat' with_reducible first | assumption | apply sound_digestRead | apply sound_endReceive | split

theorem gives_execReceiveDigestDone {s : State} (hs : Sound inv queue s) :
    ∃ t, execReceiveDigestDone s = .next t ∧ Sound inv queue t := by
  exact ⟨_, rfl, sound_receiveDone (hs := hs) ..⟩

theorem sound_transferGo {s : State} (hs : Sound inv queue s) (fuel : Nat) :
    Sound inv queue (State.transferGo s fuel) := by
  induction fuel generalizing s with
  | zero =>
    unfold State.transferGo
    repeat' with_reducible first
      | assumption | intro _ | apply sound_ite | apply p0_ite | apply p0_off | apply sound_sendFlow
      | apply sound_updDep | apply sound_sendDone | simp only [sound_update] | simp only [p0_update] | split
  | succ n ih =>
    unfold State.transferGo
    repeat' with_reducible first
      | assumption | apply ih | apply sound_sendFlow | apply sound_updDep | apply sound_sendDone | split

theorem sound_startTransfer (kind : Nat) {s : State} (hs : Sound inv queue s) :
    Sound inv queue (startTransfer kind s) := by
  unfold startTransfer
  repeat' with_reducible first
    | assumption | apply sound_orReg | apply sound_updDep | apply sound_transferGo | simp only [sound_update] | split

theorem gives_execUnload {s : State} (hs : Sound inv queue s) :
    ∃ t, execUnload s = .next t ∧ Sound inv queue t := by
  exact ⟨_, rfl, sound_startTransfer (hs := hs) ..⟩

theorem gives_execReseed {s : State} (hs : Sound inv queue s) :
    ∃ t, execReseed s = .next t ∧ Sound inv queue t := by
  exact ⟨_, rfl, sound_startTransfer (hs := hs) ..⟩

theorem sound_cancel {s : State} (hs : Sound inv queue s) :
    Sound inv queue (cancel s) := by
  unfold cancel
  repeat' with_reducible first | assumption | apply sound_endTransfer | split

theorem gives_execCancel {s : State} (hs : Sound inv queue s) :
    ∃ t, execCancel s = .next t ∧ Sound inv queue t := by
  exact ⟨_, rfl, sound_cancel (hs := hs) ..⟩

theorem sound_unloadTimeout {s : State} (hs : Sound inv queue s) :
    Sound inv queue (unloadTimeout s) := by
  unfold unloadTimeout
  repeat' with_reducible first | assumption | apply sound_log | apply sound_endTransfer | split

theorem gives_execUnloadTimeout {s : State} (hs : Sound inv queue s) :
    ∃ t, execUnloadTimeout s = .next t ∧ Sound inv queue t := by
  exact ⟨_, rfl, sound_unloadTimeout (hs := hs) ..⟩

theorem sound_lineGone {s : State} (hs : Sound inv queue s) :
    Sound inv queue (State.lineGone s) := by
  unfold State.lineGone
  repeat' with_reducible first | assumption | apply sound_updDep | apply sound_flushDone | apply sound_answerHeld

theorem sound_cellarAck {s : State} (kind : Nat) (hs : Sound inv queue s) :
    Sound inv queue (State.cellarAck s kind) := by
  unfold State.cellarAck
  repeat' with_reducible first | assumption | apply sound_updDep | apply sound_transferGo | apply sound_lineGone | split

theorem sound_cellarFail {s : State} (kind : Nat) (hs : Sound inv queue s) :
    Sound inv queue (State.cellarFail s kind) := by
  unfold State.cellarFail
  repeat' with_reducible first | assumption | apply sound_endTransfer | apply sound_lineGone | split

theorem sound_depConfigWrite (off v : Nat) {s : State} (hs : Sound inv queue s) :
    Sound inv queue (depConfigWrite off v s) := by
  unfold depConfigWrite
  repeat' with_reducible first | assumption | apply sound_setReg | apply sound_orReg | split

theorem gives_execDepConfigWrite (off v : Nat) {s : State} (hs : Sound inv queue s) :
    ∃ t, execDepConfigWrite off v s = .next t ∧ Sound inv queue t := by
  exact ⟨_, rfl, sound_depConfigWrite (hs := hs) ..⟩

/-! ### Fabric -/

theorem sound_setPort {s : State} (p : Port) (x : PortSt) (hs : Sound inv queue s) :
    Sound inv queue (State.setPort s p x) := by
  unfold State.setPort
  exact sound_update.mpr hs

theorem sound_portEnable (p : Port) {s : State} (hs : Sound inv queue s) :
    Sound inv queue (portEnable p s) := by
  unfold portEnable
  repeat' with_reducible first | assumption | apply sound_ite | apply sound_setReg | apply sound_setPort

theorem gives_execPortEnable (p : Port) {s : State} (hs : Sound inv queue s) :
    ∃ t, execPortEnable p s = .next t ∧ Sound inv queue t := by
  exact ⟨_, rfl, sound_portEnable (hs := hs) ..⟩

theorem sound_portDisable (p : Port) {s : State} (hs : Sound inv queue s) :
    Sound inv queue (portDisable p s) := by
  unfold portDisable
  repeat' with_reducible first | assumption | apply sound_ite | apply sound_setReg | apply sound_setPort

theorem gives_execPortDisable (p : Port) {s : State} (hs : Sound inv queue s) :
    ∃ t, execPortDisable p s = .next t ∧ Sound inv queue t := by
  exact ⟨_, rfl, sound_portDisable (hs := hs) ..⟩

theorem sound_portSignal (p : Port) (lanes : Fin 16) {s : State} (hs : Sound inv queue s) :
    Sound inv queue (portSignal p lanes s) := by
  unfold portSignal
  repeat' with_reducible first | assumption | apply sound_ite | apply sound_setPort

theorem gives_execPortSignalDetect (p : Port) (lanes : Fin 16) {s : State} (hs : Sound inv queue s) :
    ∃ t, execPortSignalDetect p lanes s = .next t ∧ Sound inv queue t := by
  exact ⟨_, rfl, sound_portSignal (hs := hs) ..⟩

theorem sound_portTrained (p : Port) (lanes : Fin 16) {s : State} (hs : Sound inv queue s) :
    Sound inv queue (portTrained p lanes s) := by
  unfold portTrained
  repeat' with_reducible first | assumption | apply sound_ite | apply sound_setPort

theorem gives_execPortTrainingDone (p : Port) (lanes : Fin 16) {s : State} (hs : Sound inv queue s) :
    ∃ t, execPortTrainingDone p lanes s = .next t ∧ Sound inv queue t := by
  exact ⟨_, rfl, sound_portTrained (hs := hs) ..⟩

theorem sound_portMismatch {s : State} (p : Port) (hs : Sound inv queue s) :
    Sound inv queue (State.portMismatch s p) := by
  unfold State.portMismatch
  repeat' with_reducible first | assumption | apply sound_fabEvent | apply sound_setPort

theorem sound_portDown {s : State} (p : Port) (cause : Nat) (hs : Sound inv queue s) :
    Sound inv queue (State.portDown s p cause) := by
  unfold State.portDown
  repeat' with_reducible first
    | assumption | apply sound_log | apply sound_fabEvent | apply sound_depStatus | apply sound_setPort

theorem sound_portDegrade {s : State} (p : Port) (lanes lost : Nat) (hs : Sound inv queue s) :
    Sound inv queue (State.portDegrade s p lanes lost) := by
  unfold State.portDegrade
  repeat' with_reducible first
    | assumption | apply sound_log | apply sound_fabEvent | apply sound_depStatus | apply sound_setPort

theorem sound_identitySlot (p : Port) (coord nport lanes : Nat) {s : State} (hs : Sound inv queue s) :
    Sound inv queue (identitySlot p coord nport lanes s) := by
  unfold identitySlot
  repeat' with_reducible first | assumption | apply sound_ite | apply sound_setPort | apply sound_portMismatch | split

theorem gives_execIdentitySlot (p : Port) (coord nport lanes : Nat) {s : State} (hs : Sound inv queue s) :
    ∃ t, execIdentitySlot p coord nport lanes s = .next t ∧ Sound inv queue t := by
  exact ⟨_, rfl, sound_identitySlot (hs := hs) ..⟩

theorem sound_identitySend (p : Port) {s : State} (hs : Sound inv queue s) :
    Sound inv queue (identitySend p s) := by
  unfold identitySend
  repeat' with_reducible first | assumption | apply sound_ite | apply sound_emit

theorem gives_execIdentitySendTimer (p : Port) {s : State} (hs : Sound inv queue s) :
    ∃ t, execIdentitySendTimer p s = .next t ∧ Sound inv queue t := by
  exact ⟨_, rfl, sound_identitySend (hs := hs) ..⟩

theorem sound_portGo {s : State} (p : Port) (hs : Sound inv queue s) :
    Sound inv queue (State.portGo s p) := by
  unfold State.portGo
  repeat' with_reducible first | assumption | apply sound_ite | apply sound_setPort | apply sound_portDegrade

theorem sound_portTestEnd (p : Port) (ok : Bool) {s : State} (hs : Sound inv queue s) :
    Sound inv queue (portTestEnd p ok s) := by
  unfold portTestEnd
  repeat' with_reducible first | assumption | apply sound_ite | apply sound_emit | apply sound_setPort | apply sound_portGo

theorem gives_execPortTestEnd (p : Port) (ok : Bool) {s : State} (hs : Sound inv queue s) :
    ∃ t, execPortTestEnd p ok s = .next t ∧ Sound inv queue t := by
  exact ⟨_, rfl, sound_portTestEnd (hs := hs) ..⟩

theorem sound_goSlot (p : Port) {s : State} (hs : Sound inv queue s) :
    Sound inv queue (goSlot p s) := by
  unfold goSlot
  repeat' with_reducible first | assumption | apply sound_ite | apply sound_setPort | apply sound_portGo

theorem gives_execGoSlot (p : Port) {s : State} (hs : Sound inv queue s) :
    ∃ t, execGoSlot p s = .next t ∧ Sound inv queue t := by
  exact ⟨_, rfl, sound_goSlot (hs := hs) ..⟩

theorem sound_stepTimeout (p : Port) {s : State} (hs : Sound inv queue s) :
    Sound inv queue (stepTimeout p s) := by
  unfold stepTimeout
  repeat' with_reducible first | assumption | apply sound_ite | apply sound_setPort

theorem gives_execBringupStepTimeout (p : Port) {s : State} (hs : Sound inv queue s) :
    ∃ t, execBringupStepTimeout p s = .next t ∧ Sound inv queue t := by
  exact ⟨_, rfl, sound_stepTimeout (hs := hs) ..⟩

theorem sound_laneLoss (p : Port) (lane : Fin 4) {s : State} (hs : Sound inv queue s) :
    Sound inv queue (laneLoss p lane s) := by
  unfold laneLoss
  repeat' with_reducible first
    | assumption | apply sound_ite | apply sound_emit | apply sound_setPort | apply sound_portDown
    | apply sound_portDegrade

theorem gives_execLaneLockLoss (p : Port) (lane : Fin 4) {s : State} (hs : Sound inv queue s) :
    ∃ t, execLaneLockLoss p lane s = .next t ∧ Sound inv queue t := by
  exact ⟨_, rfl, sound_laneLoss (hs := hs) ..⟩

theorem sound_laneDrop (p : Port) (lanes : Nat) {s : State} (hs : Sound inv queue s) :
    Sound inv queue (laneDrop p lanes s) := by
  unfold laneDrop
  repeat' with_reducible first
    | assumption | apply sound_ite | apply sound_emit | apply sound_portDown | apply sound_portDegrade

theorem gives_execLaneDropSlot (p : Port) (lanes : Nat) {s : State} (hs : Sound inv queue s) :
    ∃ t, execLaneDropSlot p lanes s = .next t ∧ Sound inv queue t := by
  exact ⟨_, rfl, sound_laneDrop (hs := hs) ..⟩

theorem sound_faultDetect (p : Port) {s : State} (hs : Sound inv queue s) :
    Sound inv queue (faultDetect p s) := by
  unfold faultDetect
  repeat' with_reducible first | assumption | apply sound_ite | apply sound_portDown

theorem gives_execFaultDetectExpire (p : Port) {s : State} (hs : Sound inv queue s) :
    ∃ t, execFaultDetectExpire p s = .next t ∧ Sound inv queue t := by
  exact ⟨_, rfl, sound_faultDetect (hs := hs) ..⟩

theorem sound_setTiming {s : State} (i : Option Nat) (hs : Sound inv queue s) :
    Sound inv queue (State.setTiming s i) := by
  unfold State.setTiming
  exact sound_update.mpr hs

theorem sound_slotClockLocked {s : State} (hs : Sound inv queue s) :
    Sound inv queue (slotClockLocked s) := by
  unfold slotClockLocked
  repeat' with_reducible first | assumption | apply sound_setTiming | split

theorem gives_execSlotClockLocked {s : State} (hs : Sound inv queue s) :
    ∃ t, execSlotClockLocked s = .next t ∧ Sound inv queue t := by
  exact ⟨_, rfl, sound_slotClockLocked (hs := hs) ..⟩

theorem sound_timingLost {s : State} (hs : Sound inv queue s) :
    Sound inv queue (timingLost s) := by
  unfold timingLost
  repeat' with_reducible first | assumption | apply sound_ite | apply sound_setTiming

theorem gives_execTimingPortLost {s : State} (hs : Sound inv queue s) :
    ∃ t, execTimingPortLost s = .next t ∧ Sound inv queue t := by
  exact ⟨_, rfl, sound_timingLost (hs := hs) ..⟩

theorem sound_elasticIn {s : State} (p : Port) (k : Packet) (hs : Sound inv queue s) :
    Sound inv queue (State.elasticIn s p k) := by
  unfold State.elasticIn
  repeat' with_reducible first | assumption | apply sound_ite | apply sound_setPort

theorem sound_badCodewords {s : State} (p : Port) (mask : Nat) (hs : Sound inv queue s) :
    Sound inv queue (State.badCodewords s p mask) := by
  unfold State.badCodewords
  repeat' with_reducible first | assumption | apply sound_setPort | apply sound_laneLoss | simp only [sound_update] | split

theorem sound_slotReceive (p : Port) (lanes : List (List Byte)) (crc : Nat) (badLanes : Fin 16) {s : State}
    (hs : Sound inv queue s) :
    Sound inv queue (slotReceive p lanes crc badLanes s) := by
  unfold slotReceive
  repeat' with_reducible first
    | assumption | apply sound_ite | apply sound_setPort | apply sound_identitySlot | apply sound_laneDrop
    | apply sound_elasticIn | apply sound_badCodewords | split

theorem gives_execSlotReceive (p : Port) (lanes : List (List Byte)) (crc : Nat) (badLanes : Fin 16) {s : State}
    (hs : Sound inv queue s) :
    ∃ t, execSlotReceive p lanes crc badLanes s = .next t ∧ Sound inv queue t := by
  exact ⟨_, rfl, sound_slotReceive (hs := hs) ..⟩

theorem sound_sendSlot {s : State} (p : Nat) (bs : List Byte) (hs : Sound inv queue s) :
    Sound inv queue (State.sendSlot s p bs) := by
  unfold State.sendSlot
  exact sound_update.mpr hs

theorem sound_transmit {s : State} (p : Nat) (k : Packet) (hs : Sound inv queue s) :
    Sound inv queue (State.transmit s p k) := by
  unfold State.transmit
  repeat' with_reducible first | assumption | apply sound_setPort | apply sound_sendSlot

theorem sound_deflectOn {s : State} (p : Nat) (hs : Sound inv queue s) :
    Sound inv queue (State.deflectOn s p) := by
  unfold State.deflectOn
  exact sound_update.mpr hs

theorem sound_routeArrival {r : State × List Nat × Bool} (a : Nat × Packet) (hs : Sound inv queue r.1) :
    Sound inv queue (routeArrival r a).1 := by
  unfold routeArrival
  repeat' with_reducible first
    | assumption | apply sound_countReg | apply sound_formatDiscard | apply sound_transmit | apply sound_deflectOn
    | simp only [sound_update] | split

theorem sound_routeInject (bd : Fin 4) {r : State × List Nat × Bool} (k : Packet) (hs : Sound inv queue r.1) :
    Sound inv queue (routeInject bd r k).1 := by
  unfold routeInject
  repeat' with_reducible first | assumption | apply sound_transmit | simp only [sound_update] | split

theorem sound_takeArrival {r : State × List (Nat × Packet)} (p : Nat) (hs : Sound inv queue r.1) :
    Sound inv queue (takeArrival r p).1 := by
  unfold takeArrival
  repeat' with_reducible first | assumption | apply sound_setPort | simp only [sound_update] | split

theorem sound_countNotUp {s : State} (p : Nat) (hs : Sound inv queue s) :
    Sound inv queue (State.countNotUp s p) := by
  unfold State.countNotUp
  repeat' with_reducible first | assumption | apply sound_ite | apply sound_setPort

theorem sound_routeLayer {r : State × List Nat × Bool} (i : Nat) (hs : Sound inv queue r.1) :
    Sound inv queue (routeLayer r i).1 := by
  unfold routeLayer
  repeat' with_reducible first | assumption | apply sound_routeInject | apply sound_foldl_pair

theorem sound_endRound {r : State × List Nat × Bool} (noEject : Bool) (hs : Sound inv queue r.1) :
    Sound inv queue (State.endRound r noEject) := by
  unfold State.endRound
  repeat' with_reducible first | assumption | intro _ | apply sound_sendSlot | apply sound_foldl | simp only [sound_update]

theorem sound_routerRound {s : State} (hs : Sound inv queue s) :
    Sound inv queue (routerRound s) := by
  unfold routerRound
  repeat' with_reducible first
    | assumption | apply sound_routeArrival | apply sound_takeArrival | apply sound_countNotUp
    | apply sound_routeLayer | apply sound_endRound | apply sound_foldl | apply sound_foldl_pair

theorem gives_execRouterRound {s : State} (hs : Sound inv queue s) :
    ∃ t, execRouterRound s = .next t ∧ Sound inv queue t := by
  refine ⟨_, rfl, ?_⟩
  repeat' with_reducible first | assumption | apply sound_ite | apply sound_routerRound

theorem sound_rtRejected {s : State} (hs : Sound inv queue s) :
    Sound inv queue (State.rtRejected s) := by
  unfold State.rtRejected
  exact sound_fabEvent (hs := hs) ..

theorem sound_setTable {s : State} (i : Nat) (t : RTable) (hs : Sound inv queue s) :
    Sound inv queue (State.setTable s i t) := by
  unfold State.setTable
  exact sound_update.mpr hs

theorem sound_validate (v : Nat) {s : State} (hs : Sound inv queue s) :
    Sound inv queue (validate v s) := by
  unfold validate
  repeat' with_reducible first | assumption | apply sound_ite | apply sound_rtRejected | apply sound_setTable

theorem gives_execValidate (v : Nat) {s : State} (hs : Sound inv queue s) :
    ∃ t, execValidate v s = .next t ∧ Sound inv queue t := by
  exact ⟨_, rfl, sound_validate (hs := hs) ..⟩

theorem sound_invalidate (v : Nat) {s : State} (hs : Sound inv queue s) :
    Sound inv queue (invalidate v s) := by
  unfold invalidate
  repeat' with_reducible first | assumption | apply sound_ite | apply sound_rtRejected | apply sound_setTable

theorem gives_execInvalidate (v : Nat) {s : State} (hs : Sound inv queue s) :
    ∃ t, execInvalidate v s = .next t ∧ Sound inv queue t := by
  exact ⟨_, rfl, sound_invalidate (hs := hs) ..⟩

theorem sound_injectEpochWrite (v : Nat) {s : State} (hs : Sound inv queue s) :
    Sound inv queue (injectEpochWrite v s) := by
  unfold injectEpochWrite
  repeat' with_reducible first
    | assumption | apply sound_ite | apply sound_setReg | apply sound_fieldReg | apply sound_rtRejected
    | simp only [sound_update]

theorem gives_execInjectEpochWrite (v : Nat) {s : State} (hs : Sound inv queue s) :
    ∃ t, execInjectEpochWrite v s = .next t ∧ Sound inv queue t := by
  exact ⟨_, rfl, sound_injectEpochWrite (hs := hs) ..⟩

theorem gives_execRtHoldExpire {s : State} (hs : Sound inv queue s) :
    ∃ t, execRtHoldExpire s = .next t ∧ Sound inv queue t := by
  refine ⟨_, rfl, ?_⟩
  exact sound_update.mpr hs

theorem sound_congestionMap {s : State} (hs : Sound inv queue s) :
    Sound inv queue (congestionMap s) := by
  unfold congestionMap
  repeat' with_reducible first
    | assumption | apply sound_ite | apply sound_write | apply sound_eventTo | simp only [sound_update]

theorem gives_execCongestionMapPeriod {s : State} (hs : Sound inv queue s) :
    ∃ t, execCongestionMapPeriod s = .next t ∧ Sound inv queue t := by
  exact ⟨_, rfl, sound_congestionMap (hs := hs) ..⟩

/-! ### Estimate -/

theorem sound_debit {s : State} (cd : Cd) (est : Nat) (hs : Sound inv queue s) :
    Sound inv queue (State.debit s cd est) := by
  unfold State.debit
  exact sound_update.mpr hs

theorem sound_setpoints {s : State} (hs : Sound inv queue s) :
    Sound inv queue (State.setpoints s) := by
  unfold State.setpoints
  repeat' with_reducible first | assumption | intro _ | apply sound_fieldReg | apply sound_foldl

theorem sound_issueAdm (cd : Cd) (w : IWord) (cls op : Nat) (f : Nat → State → State) {s : State} (hs : Sound inv queue s)
    (hf : ∀ x u, Sound inv queue u → Sound inv queue (f x u)) :
    Sound inv queue (issueAdm cd w cls op f s) := by
  unfold issueAdm
  repeat' with_reducible first
    | assumption | intro _ | apply sound_ite | apply sound_setDie | apply sound_updDie | apply sound_issueAll
    | apply sound_debit | apply sound_die | apply hf | simp only [p0_update]

theorem sound_issueAdmDie (cd : Cd) (w : IWord) (cls op : Nat) (f : Nat → Die → Die) {s : State} (hs : Sound inv queue s)
    (hf : ∀ x u, P0 inv u → P0 inv (f x u)) :
    Sound inv queue (issueAdmDie cd w cls op f s) := by
  unfold issueAdmDie
  repeat' with_reducible first | assumption | intro _ | apply sound_updDie | apply sound_issueAdm | apply hf

/-! ### Home -/

theorem sound_flitRead {s : State} (key : Nat) (flit : List Byte) (hs : Sound inv queue s) :
    Sound inv queue (State.flitRead s key flit) := by
  unfold State.flitRead
  repeat' with_reducible first | assumption | apply sound_ite | apply sound_sendCompletion

theorem sound_flitWrite {s : State} (key : Nat) (req : List Byte) (line : List Byte) (poison : Bool) (hs : Sound inv queue s) :
    Sound inv queue (State.flitWrite s key req line poison) := by
  unfold State.flitWrite
  repeat' with_reducible first
    | assumption | apply sound_ite | apply sound_writeLine | apply sound_poisonLine | apply sound_sendCompletion

theorem sound_homeServe {s : State} (r : HomeReq) (hs : Sound inv queue s) :
    Sound inv queue (State.homeServe s r) := by
  unfold State.homeServe
  repeat' with_reducible first
    | assumption | apply sound_writeLine | apply sound_poisonLine | apply sound_emit | apply sound_readHome
    | apply sound_flitRead | apply sound_flitWrite | split

theorem sound_homeArrive {s : State} (a : Nat) (org : Origin) (hs : Sound inv queue s) :
    Sound inv queue (State.homeArrive s a org) := by
  unfold State.homeArrive
  repeat' with_reducible first
    | assumption | apply sound_ite | apply sound_sbMove | apply sound_sbDrop | apply sound_homeServe
    | simp only [sound_update]

theorem sound_homeDrain {s : State} (hs : Sound inv queue s) (fuel : Nat) :
    Sound inv queue (State.homeDrain s fuel) := by
  induction fuel generalizing s with
  | zero =>
    unfold State.homeDrain
    repeat' with_reducible first
      | assumption | intro _ | apply sound_sbDrop | apply sound_homeServe | simp only [sound_update]
      | simp only [p0_update] | split
  | succ n ih =>
    unfold State.homeDrain
    repeat' with_reducible first
      | assumption | apply ih | apply sound_sbDrop | apply sound_homeServe | simp only [sound_update] | split

theorem sound_homeRead (addr : Nat) (err : List Byte) {s : State} (hs : Sound inv queue s) :
    Sound inv queue (homeRead addr err s) := by
  unfold homeRead
  exact sound_homeArrive (hs := hs) ..

theorem gives_execHomeRead (addr : Nat) (err : List Byte) {s : State} (hs : Sound inv queue s) :
    ∃ t, execHomeRead addr err s = .next t ∧ Sound inv queue t := by
  exact ⟨_, rfl, sound_homeRead (hs := hs) ..⟩

theorem sound_homeWrite (addr : Nat) (data : List Byte) (mark : Bool) {s : State} (hs : Sound inv queue s) :
    Sound inv queue (homeWrite addr data mark s) := by
  unfold homeWrite
  exact sound_homeArrive (hs := hs) ..

theorem gives_execHomeWrite (addr : Nat) (data : List Byte) (mark : Bool) {s : State} (hs : Sound inv queue s) :
    ∃ t, execHomeWrite addr data mark s = .next t ∧ Sound inv queue t := by
  exact ⟨_, rfl, sound_homeWrite (hs := hs) ..⟩

theorem sound_cxlMemRequest (isWrite : Bool) (hpa : Nat) (data : List Byte) {s : State} (hs : Sound inv queue s) :
    Sound inv queue (cxlMemRequest isWrite hpa data s) := by
  unfold cxlMemRequest
  repeat' with_reducible first | assumption | apply sound_homeArrive | split

theorem gives_execCxlMemRequest (isWrite : Bool) (hpa : Nat) (data : List Byte) {s : State} (hs : Sound inv queue s) :
    ∃ t, execCxlMemRequest isWrite hpa data s = .next t ∧ Sound inv queue t := by
  exact ⟨_, rfl, sound_cxlMemRequest (hs := hs) ..⟩

/-! ### Scalar -/

theorem p0_aluOp (f : Word → Word → Word) (w : Nat) {d : Die} (hs : P0 inv d) :
    P0 inv (aluOp f w d) := by
  unfold aluOp
  exact p0_update.mpr hs

theorem p0_cmpOp (f : Word → Word → Bool) (w : Nat) {d : Die} (hs : P0 inv d) :
    P0 inv (cmpOp f w d) := by
  unfold cmpOp
  repeat' with_reducible first | assumption | apply p0_setP

theorem gives_execNop (cd : Cd) (w : IWord) {s : State} (hs : Sound inv queue s) :
    ∃ t, execNop cd w s = .next t ∧ Sound inv queue t := by
  refine ⟨_, rfl, ?_⟩
  repeat' with_reducible first | assumption | intro _ | apply sound_scalarOp

theorem gives_execAdd (cd : Cd) (w : IWord) {s : State} (hs : Sound inv queue s) :
    ∃ t, execAdd cd w s = .next t ∧ Sound inv queue t := by
  refine ⟨_, rfl, ?_⟩
  repeat' with_reducible first | assumption | apply sound_scalarOp | apply p0_aluOp

theorem gives_execSub (cd : Cd) (w : IWord) {s : State} (hs : Sound inv queue s) :
    ∃ t, execSub cd w s = .next t ∧ Sound inv queue t := by
  refine ⟨_, rfl, ?_⟩
  repeat' with_reducible first | assumption | apply sound_scalarOp | apply p0_aluOp

theorem gives_execMul (cd : Cd) (w : IWord) {s : State} (hs : Sound inv queue s) :
    ∃ t, execMul cd w s = .next t ∧ Sound inv queue t := by
  refine ⟨_, rfl, ?_⟩
  repeat' with_reducible first | assumption | apply sound_scalarOp | apply p0_aluOp

theorem gives_execAnd (cd : Cd) (w : IWord) {s : State} (hs : Sound inv queue s) :
    ∃ t, execAnd cd w s = .next t ∧ Sound inv queue t := by
  refine ⟨_, rfl, ?_⟩
  repeat' with_reducible first | assumption | apply sound_scalarOp | apply p0_aluOp

theorem gives_execOr (cd : Cd) (w : IWord) {s : State} (hs : Sound inv queue s) :
    ∃ t, execOr cd w s = .next t ∧ Sound inv queue t := by
  refine ⟨_, rfl, ?_⟩
  repeat' with_reducible first | assumption | apply sound_scalarOp | apply p0_aluOp

theorem gives_execXor (cd : Cd) (w : IWord) {s : State} (hs : Sound inv queue s) :
    ∃ t, execXor cd w s = .next t ∧ Sound inv queue t := by
  refine ⟨_, rfl, ?_⟩
  repeat' with_reducible first | assumption | apply sound_scalarOp | apply p0_aluOp

theorem gives_execShl (cd : Cd) (w : IWord) {s : State} (hs : Sound inv queue s) :
    ∃ t, execShl cd w s = .next t ∧ Sound inv queue t := by
  refine ⟨_, rfl, ?_⟩
  repeat' with_reducible first | assumption | apply sound_scalarOp | apply p0_aluOp

theorem gives_execShr (cd : Cd) (w : IWord) {s : State} (hs : Sound inv queue s) :
    ∃ t, execShr cd w s = .next t ∧ Sound inv queue t := by
  refine ⟨_, rfl, ?_⟩
  repeat' with_reducible first | assumption | apply sound_scalarOp | apply p0_aluOp

theorem gives_execSra (cd : Cd) (w : IWord) {s : State} (hs : Sound inv queue s) :
    ∃ t, execSra cd w s = .next t ∧ Sound inv queue t := by
  refine ⟨_, rfl, ?_⟩
  repeat' with_reducible first | assumption | apply sound_scalarOp | apply p0_aluOp

theorem gives_execLi (cd : Cd) (w : IWord) {s : State} (hs : Sound inv queue s) :
    ∃ t, execLi cd w s = .next t ∧ Sound inv queue t := by
  refine ⟨_, rfl, ?_⟩
  repeat' with_reducible first | assumption | intro _ | apply p0_setS | apply sound_scalarOp

theorem gives_execFadd (cd : Cd) (w : IWord) {s : State} (hs : Sound inv queue s) :
    ∃ t, execFadd cd w s = .next t ∧ Sound inv queue t := by
  refine ⟨_, rfl, ?_⟩
  repeat' with_reducible first | assumption | apply sound_scalarOp | apply p0_aluOp

theorem gives_execFmul (cd : Cd) (w : IWord) {s : State} (hs : Sound inv queue s) :
    ∃ t, execFmul cd w s = .next t ∧ Sound inv queue t := by
  refine ⟨_, rfl, ?_⟩
  repeat' with_reducible first | assumption | apply sound_scalarOp | apply p0_aluOp

theorem gives_execItof (cd : Cd) (w : IWord) {s : State} (hs : Sound inv queue s) :
    ∃ t, execItof cd w s = .next t ∧ Sound inv queue t := by
  refine ⟨_, rfl, ?_⟩
  repeat' with_reducible first | assumption | intro _ | apply p0_setS | apply sound_scalarOp

theorem gives_execFtoi (cd : Cd) (w : IWord) {s : State} (hs : Sound inv queue s) :
    ∃ t, execFtoi cd w s = .next t ∧ Sound inv queue t := by
  refine ⟨_, rfl, ?_⟩
  repeat' with_reducible first | assumption | intro _ | apply p0_setS | apply sound_scalarOp

theorem gives_execCmpEq (cd : Cd) (w : IWord) {s : State} (hs : Sound inv queue s) :
    ∃ t, execCmpEq cd w s = .next t ∧ Sound inv queue t := by
  refine ⟨_, rfl, ?_⟩
  repeat' with_reducible first | assumption | apply sound_scalarOp | apply p0_cmpOp

theorem gives_execCmpNe (cd : Cd) (w : IWord) {s : State} (hs : Sound inv queue s) :
    ∃ t, execCmpNe cd w s = .next t ∧ Sound inv queue t := by
  refine ⟨_, rfl, ?_⟩
  repeat' with_reducible first | assumption | apply sound_scalarOp | apply p0_cmpOp

theorem gives_execCmpLt (cd : Cd) (w : IWord) {s : State} (hs : Sound inv queue s) :
    ∃ t, execCmpLt cd w s = .next t ∧ Sound inv queue t := by
  refine ⟨_, rfl, ?_⟩
  repeat' with_reducible first | assumption | apply sound_scalarOp | apply p0_cmpOp

theorem gives_execCmpGe (cd : Cd) (w : IWord) {s : State} (hs : Sound inv queue s) :
    ∃ t, execCmpGe cd w s = .next t ∧ Sound inv queue t := by
  refine ⟨_, rfl, ?_⟩
  repeat' with_reducible first | assumption | apply sound_scalarOp | apply p0_cmpOp

theorem gives_execCmpLtu (cd : Cd) (w : IWord) {s : State} (hs : Sound inv queue s) :
    ∃ t, execCmpLtu cd w s = .next t ∧ Sound inv queue t := by
  refine ⟨_, rfl, ?_⟩
  repeat' with_reducible first | assumption | apply sound_scalarOp | apply p0_cmpOp

theorem gives_execFcmpLt (cd : Cd) (w : IWord) {s : State} (hs : Sound inv queue s) :
    ∃ t, execFcmpLt cd w s = .next t ∧ Sound inv queue t := by
  refine ⟨_, rfl, ?_⟩
  repeat' with_reducible first | assumption | apply sound_scalarOp | apply p0_cmpOp

theorem gives_execFcmpGe (cd : Cd) (w : IWord) {s : State} (hs : Sound inv queue s) :
    ∃ t, execFcmpGe cd w s = .next t ∧ Sound inv queue t := by
  refine ⟨_, rfl, ?_⟩
  repeat' with_reducible first | assumption | apply sound_scalarOp | apply p0_cmpOp

theorem gives_execPand (cd : Cd) (w : IWord) {s : State} (hs : Sound inv queue s) :
    ∃ t, execPand cd w s = .next t ∧ Sound inv queue t := by
  refine ⟨_, rfl, ?_⟩
  repeat' with_reducible first | assumption | intro _ | apply p0_setP | apply sound_scalarOp

theorem gives_execPor (cd : Cd) (w : IWord) {s : State} (hs : Sound inv queue s) :
    ∃ t, execPor cd w s = .next t ∧ Sound inv queue t := by
  refine ⟨_, rfl, ?_⟩
  repeat' with_reducible first | assumption | intro _ | apply p0_setP | apply sound_scalarOp

theorem gives_execPnot (cd : Cd) (w : IWord) {s : State} (hs : Sound inv queue s) :
    ∃ t, execPnot cd w s = .next t ∧ Sound inv queue t := by
  refine ⟨_, rfl, ?_⟩
  repeat' with_reducible first | assumption | intro _ | apply p0_setP | apply sound_scalarOp

theorem gives_execAli (cd : Cd) (w : IWord) {s : State} (hs : Sound inv queue s) :
    ∃ t, execAli cd w s = .next t ∧ Sound inv queue t := by
  refine ⟨_, rfl, ?_⟩
  repeat' with_reducible first | assumption | intro _ | apply p0_setA | apply sound_scalarOp

theorem gives_execAadd (cd : Cd) (w : IWord) {s : State} (hs : Sound inv queue s) :
    ∃ t, execAadd cd w s = .next t ∧ Sound inv queue t := by
  refine ⟨_, rfl, ?_⟩
  repeat' with_reducible first | assumption | intro _ | apply p0_setA | apply sound_scalarOp

theorem sound_accessOp (cd : Cd) (w : IWord) (op : Nat) {s : State} (hs : Sound inv queue s) :
    Sound inv queue (accessOp cd w op s) := by
  unfold accessOp
  repeat' with_reducible first
    | assumption | intro _ | apply sound_setDie | apply sound_emit | apply sound_issueAll | apply sound_sbMove
    | apply sound_die | simp only [p0_update] | split

theorem gives_execAld (cd : Cd) (w : IWord) {s : State} (hs : Sound inv queue s) :
    ∃ t, execAld cd w s = .next t ∧ Sound inv queue t := by
  exact ⟨_, rfl, sound_accessOp (hs := hs) ..⟩

theorem gives_execAst (cd : Cd) (w : IWord) {s : State} (hs : Sound inv queue s) :
    ∃ t, execAst cd w s = .next t ∧ Sound inv queue t := by
  exact ⟨_, rfl, sound_accessOp (hs := hs) ..⟩

theorem gives_execLd (cd : Cd) (w : IWord) {s : State} (hs : Sound inv queue s) :
    ∃ t, execLd cd w s = .next t ∧ Sound inv queue t := by
  exact ⟨_, rfl, sound_accessOp (hs := hs) ..⟩

theorem gives_execSt (cd : Cd) (w : IWord) {s : State} (hs : Sound inv queue s) :
    ∃ t, execSt cd w s = .next t ∧ Sound inv queue t := by
  exact ⟨_, rfl, sound_accessOp (hs := hs) ..⟩

theorem p0_loadBytes {d : Die} (op rd : Nat) (bs : List Byte) (hs : P0 inv d) :
    P0 inv (Die.loadBytes d op rd bs) := by
  unfold Die.loadBytes
  repeat' with_reducible first | assumption | apply p0_ite | apply p0_setS | apply p0_setA

theorem sound_scalarAccess (cd : Cd) (host : HostData) {s : State} (hs : Sound inv queue s) :
    Sound inv queue (scalarAccess cd host s) := by
  unfold scalarAccess
  repeat' with_reducible first
    | assumption | apply sound_setDie | apply sound_write | apply sound_emit | apply p0_fail | apply p0_advance
    | apply sound_sbDrop | apply p0_loadBytes | apply sound_die | simp only [p0_update] | split

theorem gives_execScalarAccessComplete (cd : Cd) (host : HostData) (hostOk : Bool) {s : State} (hs : Sound inv queue s) :
    ∃ t, execScalarAccessComplete cd host hostOk s = .next t ∧ Sound inv queue t := by
  exact ⟨_, rfl, sound_scalarAccess (hs := hs) ..⟩

theorem p0_sumrd {d : Die} (rd unit slot sel : Nat) (hs : P0 inv d) :
    P0 inv (Die.sumrd d rd unit slot sel) := by
  unfold Die.sumrd
  exact p0_update.mpr hs

theorem p0_sumpred {d : Die} (rd unit slot sel : Nat) (hs : P0 inv d) :
    P0 inv (Die.sumpred d rd unit slot sel) := by
  unfold Die.sumpred
  repeat' with_reducible first | assumption | apply p0_setP

theorem gives_execSumrd (cd : Cd) (w : IWord) {s : State} (hs : Sound inv queue s) :
    ∃ t, execSumrd cd w s = .next t ∧ Sound inv queue t := by
  refine ⟨_, rfl, ?_⟩
  repeat' with_reducible first
    | assumption | intro _ | apply p0_ite | apply p0_advance | apply sound_issueDie | apply p0_sumrd
    | simp only [p0_update]

theorem gives_execSumpred (cd : Cd) (w : IWord) {s : State} (hs : Sound inv queue s) :
    ∃ t, execSumpred cd w s = .next t ∧ Sound inv queue t := by
  refine ⟨_, rfl, ?_⟩
  repeat' with_reducible first
    | assumption | intro _ | apply p0_ite | apply p0_advance | apply sound_issueDie | apply p0_sumpred
    | simp only [p0_update]

theorem gives_execCntrd (cd : Cd) (w : IWord) {s : State} (hs : Sound inv queue s) :
    ∃ t, execCntrd cd w s = .next t ∧ Sound inv queue t := by
  refine ⟨_, rfl, ?_⟩
  repeat' with_reducible first | assumption | intro _ | apply p0_setS | apply sound_scalarOp

theorem gives_execCnterr (cd : Cd) (w : IWord) {s : State} (hs : Sound inv queue s) :
    ∃ t, execCnterr cd w s = .next t ∧ Sound inv queue t := by
  refine ⟨_, rfl, ?_⟩
  repeat' with_reducible first | assumption | intro _ | apply p0_setS | apply sound_scalarOp

theorem gives_execCntset (cd : Cd) (w : IWord) {s : State} (hs : Sound inv queue s) :
    ∃ t, execCntset cd w s = .next t ∧ Sound inv queue t := by
  refine ⟨_, rfl, ?_⟩
  repeat' with_reducible first
    | assumption | intro _ | apply p0_ite | apply p0_setC | apply p0_advance | apply sound_issueDie
    | simp only [p0_update]

theorem gives_execWhoami (cd : Cd) (w : IWord) {s : State} (hs : Sound inv queue s) :
    ∃ t, execWhoami cd w s = .next t ∧ Sound inv queue t := by
  refine ⟨_, rfl, ?_⟩
  repeat' with_reducible first | assumption | intro _ | apply p0_setS | apply sound_scalarOp

theorem gives_execClock (cd : Cd) (w : IWord) {s : State} (hs : Sound inv queue s) :
    ∃ t, execClock cd w s = .next t ∧ Sound inv queue t := by
  refine ⟨_, rfl, ?_⟩
  repeat' with_reducible first | assumption | intro _ | apply p0_setS | apply sound_scalarOp

/-! ### Sync -/

theorem p0_push {d : Die} (o : Op) (hs : P0 inv d) :
    P0 inv (Die.push d o) := by
  unfold Die.push
  exact p0_update.mpr hs

theorem sound_sendAtomic {s : State} (cd : Cd) (dev : Option Nat) (code addr v tag : Nat) (org : Origin) (ow : Owner)
    (hs : Sound inv queue s) :
    Sound inv queue (State.sendAtomic s cd dev code addr v tag org ow) := by
  unfold State.sendAtomic
  repeat' with_reducible first | assumption | apply sound_sendFlow | simp only [sound_update] | split

theorem sound_syncEffect {s : State} (cd : Cd) (o : Op) (hs : Sound inv queue s) :
    Sound inv queue (State.syncEffect s cd o) := by
  unfold State.syncEffect
  repeat' with_reducible first
    | assumption | apply sound_ite | apply sound_eventTo | apply sound_finishOp | apply sound_sendAtomic

theorem sound_issueSync (cd : Cd) (w : IWord) (op align : Nat) {s : State} (hs : Sound inv queue s) :
    Sound inv queue (issueSync cd w op align s) := by
  unfold issueSync
  repeat' with_reducible first
    | assumption | intro _ | apply sound_ite | apply sound_setDie | apply p0_fail | apply p0_advance
    | apply sound_issueAll | apply p0_push | apply sound_syncEffect | apply sound_die | simp only [p0_update]

theorem gives_execFlagAdd (cd : Cd) (w : IWord) {s : State} (hs : Sound inv queue s) :
    ∃ t, execFlagAdd cd w s = .next t ∧ Sound inv queue t := by
  exact ⟨_, rfl, sound_issueSync (hs := hs) ..⟩

theorem gives_execSemRel (cd : Cd) (w : IWord) {s : State} (hs : Sound inv queue s) :
    ∃ t, execSemRel cd w s = .next t ∧ Sound inv queue t := by
  exact ⟨_, rfl, sound_issueSync (hs := hs) ..⟩

theorem gives_execPost (cd : Cd) (w : IWord) {s : State} (hs : Sound inv queue s) :
    ∃ t, execPost cd w s = .next t ∧ Sound inv queue t := by
  exact ⟨_, rfl, sound_issueSync (hs := hs) ..⟩

theorem sound_orderedRelease (cd : Cd) (id : Nat) {s : State} (hs : Sound inv queue s) :
    Sound inv queue (orderedRelease cd id s) := by
  unfold orderedRelease
  repeat' with_reducible first | assumption | intro _ | apply sound_updDie | apply p0_putOp | apply sound_syncEffect | split

theorem gives_execOrderedRelease (cd : Cd) (id : Nat) {s : State} (hs : Sound inv queue s) :
    ∃ t, execOrderedRelease cd id s = .next t ∧ Sound inv queue t := by
  exact ⟨_, rfl, sound_orderedRelease (hs := hs) ..⟩

theorem gives_execWaitCnt (cd : Cd) (w : IWord) {s : State} (hs : Sound inv queue s) :
    ∃ t, execWaitCnt cd w s = .next t ∧ Sound inv queue t := by
  refine ⟨_, rfl, ?_⟩
  repeat' with_reducible first
    | assumption | intro _ | apply p0_ite | apply p0_advance | apply sound_issueDie | simp only [p0_update]

theorem sound_flagTry {s : State} (cd : Cd) (cond addr v : Nat) (hs : Sound inv queue s) :
    Sound inv queue (flagTry s cd cond addr v) := by
  unfold flagTry
  repeat' with_reducible first
    | assumption | apply sound_ite | apply sound_setDie | apply p0_fail | apply p0_advance | apply sound_die
    | simp only [p0_update]

theorem gives_execFlagWait (cd : Cd) (w : IWord) {s : State} (hs : Sound inv queue s) :
    ∃ t, execFlagWait cd w s = .next t ∧ Sound inv queue t := by
  refine ⟨_, rfl, ?_⟩
  repeat' with_reducible first
    | assumption | intro _ | apply sound_ite | apply sound_setDie | apply p0_fail | apply sound_issueAll
    | apply sound_flagTry | apply sound_die

theorem sound_flagRecheck (cd : Cd) {s : State} (hs : Sound inv queue s) :
    Sound inv queue (flagRecheck cd s) := by
  unfold flagRecheck
  repeat' with_reducible first | assumption | apply sound_flagTry | split

theorem gives_execFlagWaitRecheck (cd : Cd) {s : State} (hs : Sound inv queue s) :
    ∃ t, execFlagWaitRecheck cd s = .next t ∧ Sound inv queue t := by
  exact ⟨_, rfl, sound_flagRecheck (hs := hs) ..⟩

theorem sound_sendAcquire {s : State} (cd : Cd) (dev : Option Nat) (addr n : Nat) (hs : Sound inv queue s) :
    Sound inv queue (State.sendAcquire s cd dev addr n) := by
  unfold State.sendAcquire
  repeat' with_reducible first | assumption | intro _ | apply sound_updDie | apply sound_sendAtomic | simp only [p0_update]

theorem gives_execSemAcq (cd : Cd) (w : IWord) {s : State} (hs : Sound inv queue s) :
    ∃ t, execSemAcq cd w s = .next t ∧ Sound inv queue t := by
  refine ⟨_, rfl, ?_⟩
  repeat' with_reducible first
    | assumption | intro _ | apply sound_ite | apply sound_setDie | apply p0_fail | apply sound_issueAll
    | apply sound_sendAcquire | apply sound_die

theorem sound_semAcqReply (cd : Cd) {s : State} (hs : Sound inv queue s) :
    Sound inv queue (semAcqReply cd s) := by
  unfold semAcqReply
  repeat' with_reducible first
    | assumption | apply sound_setDie | apply p0_fail | apply p0_advance | apply sound_sendAtomic | apply sound_die
    | simp only [sound_update] | simp only [p0_update] | split

theorem gives_execSemAcqReply (cd : Cd) {s : State} (hs : Sound inv queue s) :
    ∃ t, execSemAcqReply cd s = .next t ∧ Sound inv queue t := by
  exact ⟨_, rfl, sound_semAcqReply (hs := hs) ..⟩

theorem sound_semResend (cd : Cd) (ph : SemPhase) {s : State} (hs : Sound inv queue s) :
    Sound inv queue (semResend cd ph s) := by
  unfold semResend
  repeat' with_reducible first | assumption | apply sound_sendAcquire | split

theorem gives_execSemWakeTimeout (cd : Cd) {s : State} (hs : Sound inv queue s) :
    ∃ t, execSemWakeTimeout cd s = .next t ∧ Sound inv queue t := by
  exact ⟨_, rfl, sound_semResend (hs := hs) ..⟩

theorem gives_execSemRetryTimer (cd : Cd) {s : State} (hs : Sound inv queue s) :
    ∃ t, execSemRetryTimer cd s = .next t ∧ Sound inv queue t := by
  exact ⟨_, rfl, sound_semResend (hs := hs) ..⟩

theorem gives_execWake (q : Fin 9) {s : State} (hs : Sound inv queue s) :
    ∃ t, execWake q s = .next t ∧ Sound inv queue t := by
  refine ⟨_, rfl, ?_⟩
  repeat' with_reducible first | assumption | intro _ | apply sound_ite | apply sound_takePacket | apply sound_semResend

theorem gives_execFence (cd : Cd) (w : IWord) {s : State} (hs : Sound inv queue s) :
    ∃ t, execFence cd w s = .next t ∧ Sound inv queue t := by
  refine ⟨_, rfl, ?_⟩
  repeat' with_reducible first
    | assumption | intro _ | apply p0_ite | apply p0_advance | apply sound_issueDie | simp only [p0_update]

theorem sound_stallEnd (cd : Cd) {s : State} (hs : Sound inv queue s) :
    Sound inv queue (stallEnd cd s) := by
  unfold stallEnd
  repeat' with_reducible first
    | assumption | apply sound_setDie | apply p0_setC | apply p0_advance | apply p0_sumrd | apply p0_sumpred
    | apply sound_flagTry | apply sound_die | simp only [p0_update] | split

theorem gives_execSeqStallEnd (cd : Cd) {s : State} (hs : Sound inv queue s) :
    ∃ t, execSeqStallEnd cd s = .next t ∧ Sound inv queue t := by
  exact ⟨_, rfl, sound_stallEnd (hs := hs) ..⟩

theorem sound_waitLimit (cd : Cd) (id : Option Nat) {s : State} (hs : Sound inv queue s) :
    Sound inv queue (waitLimit cd id s) := by
  unfold waitLimit
  repeat' with_reducible first | assumption | apply sound_ite | apply sound_setDie | apply p0_fail | apply sound_die | split

theorem gives_execWaitLimitExpire (cd : Cd) (id : Option Nat) {s : State} (hs : Sound inv queue s) :
    ∃ t, execWaitLimitExpire cd id s = .next t ∧ Sound inv queue t := by
  exact ⟨_, rfl, sound_waitLimit (hs := hs) ..⟩

/-! ### Rings -/

theorem sound_setRing {s : State} (r : Nat) (x : Ring) (hs : Sound inv queue s) :
    Sound inv queue (State.setRing s r x) := by
  unfold State.setRing
  exact sound_update.mpr hs

theorem sound_ringError {s : State} (r code : Nat) (hs : Sound inv queue s) :
    Sound inv queue (State.ringError s r code) := by
  unfold State.ringError
  repeat' with_reducible first | assumption | apply sound_orReg | apply sound_event | apply sound_setRing

theorem sound_readDoorbell {s : State} (line : Nat) (hs : Sound inv queue s) :
    Sound inv queue (State.readDoorbell s line) := by
  unfold State.readDoorbell
  repeat' with_reducible first | assumption | apply sound_ite | apply sound_emit | simp only [sound_update]

theorem sound_doorbellSnoop (line : Nat) {s : State} (hs : Sound inv queue s) :
    Sound inv queue (doorbellSnoop line s) := by
  unfold doorbellSnoop
  repeat' with_reducible first | assumption | apply sound_ite | apply sound_readDoorbell | simp only [sound_update]

theorem gives_execDoorbellSnoop (line : Nat) {s : State} (hs : Sound inv queue s) :
    ∃ t, execDoorbellSnoop line s = .next t ∧ Sound inv queue t := by
  exact ⟨_, rfl, sound_doorbellSnoop (hs := hs) ..⟩

theorem sound_doorbellPoll (line : Nat) {s : State} (hs : Sound inv queue s) :
    Sound inv queue (doorbellPoll line s) := by
  unfold doorbellPoll
  repeat' with_reducible first | assumption | apply sound_ite | apply sound_readDoorbell

theorem gives_execDoorbellPoll (line : Nat) {s : State} (hs : Sound inv queue s) :
    ∃ t, execDoorbellPoll line s = .next t ∧ Sound inv queue t := by
  exact ⟨_, rfl, sound_doorbellPoll (hs := hs) ..⟩

theorem sound_seeWord {s : State} (r v : Nat) (hs : Sound inv queue s) :
    Sound inv queue (State.seeWord s r v) := by
  unfold State.seeWord
  repeat' with_reducible first | assumption | apply sound_ite | apply sound_setRing | apply sound_ringError

theorem sound_doorbellReturn (line : Nat) (data : List Byte) (ok : Bool) {s : State} (hs : Sound inv queue s) :
    Sound inv queue (doorbellReturn line data ok s) := by
  unfold doorbellReturn
  repeat' with_reducible first
    | assumption | intro _ | apply sound_ite | apply sound_seeWord | apply sound_foldl | simp only [sound_update]

theorem gives_execDoorbellLineReturn (line : Nat) (data : List Byte) (ok : Bool) {s : State} (hs : Sound inv queue s) :
    ∃ t, execDoorbellLineReturn line data ok s = .next t ∧ Sound inv queue t := by
  exact ⟨_, rfl, sound_doorbellReturn (hs := hs) ..⟩

theorem sound_ringFetch {s : State} (hs : Sound inv queue s) :
    Sound inv queue (ringFetch s) := by
  unfold ringFetch
  repeat' with_reducible first | assumption | apply sound_emit | apply sound_setRing | simp only [sound_update] | split

theorem gives_execRingFetch {s : State} (hs : Sound inv queue s) :
    ∃ t, execRingFetch s = .next t ∧ Sound inv queue t := by
  exact ⟨_, rfl, sound_ringFetch (hs := hs) ..⟩

theorem sound_descriptorReturn (r : Nat) (data : List Byte) (ok : Bool) {s : State} (hs : Sound inv queue s) :
    Sound inv queue (descriptorReturn r data ok s) := by
  unfold descriptorReturn
  repeat' with_reducible first
    | assumption | apply sound_complete | apply sound_setRing | apply sound_ringError | simp only [sound_update]
    | split

theorem gives_execDescriptorReturn (r : Nat) (data : List Byte) (ok : Bool) {s : State} (hs : Sound inv queue s) :
    ∃ t, execDescriptorReturn r data ok s = .next t ∧ Sound inv queue t := by
  exact ⟨_, rfl, sound_descriptorReturn (hs := hs) ..⟩

theorem sound_startCmd {s t : State} (h : Sound inv queue s) {r op : Nat} {c : Cmd} (hc : s.startCmd r op = some (c, t)) :
    Sound inv queue t := by
  unfold State.startCmd at hc
  split at hc
  · cases hc
  · split at hc
    · cases hc
      exact sound_update.mpr h
    · cases hc

theorem gives_execRingNop (r : Nat) {s : State} (hs : Sound inv queue s) :
    ∃ t, execRingNop r s = .next t ∧ Sound inv queue t := by
  refine ⟨_, rfl, ?_⟩
  repeat' with_reducible first | assumption | apply sound_complete | refine sound_startCmd ?_ ‹_ = some (_, _)› | split

theorem sound_beginMover {s : State} (m : Fin 16) (hs : Sound inv queue s) :
    Sound inv queue (State.beginMover s m) := by
  unfold State.beginMover
  repeat' with_reducible first | assumption | simp only [sound_update] | split

theorem sound_queueMover {s : State} (m : Fin 16) (j : MoverJob) (hs : Sound inv queue s) :
    Sound inv queue (State.queueMover s m j) := by
  unfold State.queueMover
  repeat' with_reducible first | assumption | apply sound_beginMover | simp only [sound_update]

theorem sound_startDma (r : Nat) {s : State} (hs : Sound inv queue s) :
    Sound inv queue (startDma r s) := by
  unfold startDma
  repeat' with_reducible first
    | assumption | apply sound_queueMover | refine sound_startCmd ?_ ‹_ = some (_, _)› | simp only [sound_update]
    | split

theorem gives_execDma (r : Nat) {s : State} (hs : Sound inv queue s) :
    ∃ t, execDma r s = .next t ∧ Sound inv queue t := by
  exact ⟨_, rfl, sound_startDma (hs := hs) ..⟩

theorem sound_dmaRun {s : State} (b : List Byte) (v : HostView) (hs : Sound inv queue s) :
    Sound inv queue (State.dmaRun s b v).1 := by
  unfold State.dmaRun
  repeat' with_reducible first | assumption | apply sound_atomic | apply sound_moveRows | simp only [sound_update] | split

theorem sound_moverTiles {s : State} (m : Nat) (b : List Byte) (hs : Sound inv queue s) :
    Sound inv queue (State.moverTiles s m b) := by
  unfold State.moverTiles
  exact sound_sbEnter (hs := hs) ..

theorem sound_endHelper {s : State} (cd id status : Nat) (hs : Sound inv queue s) :
    Sound inv queue (State.endHelper s cd id status) := by
  unfold State.endHelper
  repeat' with_reducible first | assumption | intro _ | apply sound_updDie | apply p0_putOp | split

theorem sound_acceptHelperDma (m : Fin 16) (host : HostData) {s : State} (hs : Sound inv queue s) :
    Sound inv queue (acceptHelperDma m host s) := by
  unfold acceptHelperDma
  repeat' with_reducible first
    | assumption | intro _ | apply sound_updDie | apply p0_putOp | apply sound_endHelper | simp only [sound_update]
    | split

theorem sound_dmaTransferEnd (m : Fin 16) (host : HostData) {s : State} (hs : Sound inv queue s) :
    Sound inv queue (dmaTransferEnd m host s) := by
  unfold dmaTransferEnd
  repeat' with_reducible first
    | assumption | apply sound_complete | apply sound_sbDrop | apply sound_beginMover | apply sound_dmaRun
    | apply sound_moverTiles | apply sound_endHelper | apply sound_acceptHelperDma | simp only [sound_update] | split

theorem gives_execDmaTransferEnd (m : Fin 16) (host : HostData) (hostOk : Bool) {s : State} (hs : Sound inv queue s) :
    ∃ t, execDmaTransferEnd m host hostOk s = .next t ∧ Sound inv queue t := by
  exact ⟨_, rfl, sound_dmaTransferEnd (hs := hs) ..⟩

theorem sound_writeCmd (r : Nat) {s : State} (hs : Sound inv queue s) :
    Sound inv queue (writeCmd r s) := by
  unfold writeCmd
  repeat' with_reducible first
    | assumption | apply sound_ite | apply sound_write | apply sound_complete | apply sound_sbDrop
    | apply sound_sbEnter | refine sound_startCmd ?_ ‹_ = some (_, _)› | split

theorem gives_execWrite (r : Nat) {s : State} (hs : Sound inv queue s) :
    ∃ t, execWrite r s = .next t ∧ Sound inv queue t := by
  exact ⟨_, rfl, sound_writeCmd (hs := hs) ..⟩

theorem gives_execStartProgram (r : Nat) {s : State} (hs : Sound inv queue s) :
    ∃ t, execStartProgram r s = .next t ∧ Sound inv queue t := by
  refine ⟨_, rfl, ?_⟩
  repeat' with_reducible first
    | assumption | intro _ | apply sound_ite | apply sound_updDie | apply sound_complete | apply p0_start
    | refine sound_startCmd ?_ ‹_ = some (_, _)› | split

theorem sound_stopProgram (r : Nat) (abort : Bool) {s : State} (hs : Sound inv queue s) :
    Sound inv queue (stopProgram r abort s) := by
  unfold stopProgram
  repeat' with_reducible first
    | assumption | intro _ | apply sound_ite | apply sound_updDie | apply sound_complete | apply p0_stop
    | refine sound_startCmd ?_ ‹_ = some (_, _)› | split

theorem gives_execStopDrain (r : Nat) {s : State} (hs : Sound inv queue s) :
    ∃ t, execStopDrain r s = .next t ∧ Sound inv queue t := by
  exact ⟨_, rfl, sound_stopProgram (hs := hs) ..⟩

theorem gives_execStopAbort (r : Nat) {s : State} (hs : Sound inv queue s) :
    ∃ t, execStopAbort r s = .next t ∧ Sound inv queue t := by
  exact ⟨_, rfl, sound_stopProgram (hs := hs) ..⟩

theorem sound_showStaging {s : State} (hs : Sound inv queue s) :
    Sound inv queue (State.showStaging s) := by
  unfold State.showStaging
  repeat' with_reducible first | assumption | apply sound_setReg | simp only [sound_update]

theorem sound_postDone {s : State} (e : Entry) (hs : Sound inv queue s) :
    Sound inv queue (State.postDone s e) := by
  unfold State.postDone
  repeat' with_reducible first | assumption | apply sound_finishOp | split

theorem sound_completionAccept (src : Nat) {s : State} (hs : Sound inv queue s) :
    Sound inv queue (completionAccept src s) := by
  unfold completionAccept
  repeat' with_reducible first
    | assumption | apply sound_countReg | apply sound_showStaging | apply sound_postDone | simp only [sound_update]
    | split

theorem gives_execCompletionAccept (src : Nat) {s : State} (hs : Sound inv queue s) :
    ∃ t, execCompletionAccept src s = .next t ∧ Sound inv queue t := by
  exact ⟨_, rfl, sound_completionAccept (hs := hs) ..⟩

theorem sound_sendMsix {s : State} (v : Nat) (hs : Sound inv queue s) :
    Sound inv queue (State.sendMsix s v) := by
  unfold State.sendMsix
  repeat' with_reducible first | assumption | apply sound_ite | apply sound_emit | simp only [sound_update]

theorem sound_ringIrq {s : State} (r : Nat) (hs : Sound inv queue s) :
    Sound inv queue (State.ringIrq s r) := by
  unfold State.ringIrq
  repeat' with_reducible first | assumption | apply sound_ite | apply sound_setRing | apply sound_sendMsix

theorem sound_writeEntry {s : State} (r : Nat) (bs : List Byte) (hs : Sound inv queue s) :
    Sound inv queue (State.writeEntry s r bs) := by
  unfold State.writeEntry
  repeat' with_reducible first | assumption | apply sound_emit

theorem sound_unstage {s : State} (e : Entry) (hs : Sound inv queue s) :
    Sound inv queue (State.unstage s e) := by
  unfold State.unstage
  repeat' with_reducible first | assumption | apply sound_showStaging | simp only [sound_update]

theorem sound_completionWrite (r : Nat) {s : State} (hs : Sound inv queue s) :
    Sound inv queue (completionWrite r s) := by
  unfold completionWrite
  repeat' with_reducible first
    | assumption | apply sound_setRing | apply sound_ringIrq | apply sound_writeEntry | apply sound_unstage | split

theorem gives_execCompletionWrite (r : Nat) {s : State} (hs : Sound inv queue s) :
    ∃ t, execCompletionWrite r s = .next t ∧ Sound inv queue t := by
  exact ⟨_, rfl, sound_completionWrite (hs := hs) ..⟩

theorem sound_eventWrite (r : Nat) {s : State} (hs : Sound inv queue s) :
    Sound inv queue (eventWrite r s) := by
  unfold eventWrite
  repeat' with_reducible first
    | assumption | apply sound_ite | apply sound_setRing | apply sound_postDone | apply sound_ringIrq
    | apply sound_writeEntry | apply sound_unstage | split

theorem gives_execEventWrite (r : Nat) {s : State} (hs : Sound inv queue s) :
    ∃ t, execEventWrite r s = .next t ∧ Sound inv queue t := by
  exact ⟨_, rfl, sound_eventWrite (hs := hs) ..⟩

theorem sound_interruptTimer (r : Nat) {s : State} (hs : Sound inv queue s) :
    Sound inv queue (interruptTimer r s) := by
  unfold interruptTimer
  repeat' with_reducible first | assumption | apply sound_ite | apply sound_setRing | apply sound_sendMsix

theorem gives_execInterruptTimer (r : Nat) {s : State} (hs : Sound inv queue s) :
    ∃ t, execInterruptTimer r s = .next t ∧ Sound inv queue t := by
  exact ⟨_, rfl, sound_interruptTimer (hs := hs) ..⟩

theorem sound_sendPending {s : State} (hs : Sound inv queue s) :
    Sound inv queue (State.sendPending s) := by
  unfold State.sendPending
  repeat' with_reducible first
    | assumption | intro _ | apply sound_ite | apply sound_sendMsix | apply sound_foldl | simp only [sound_update]

theorem sound_msixUnmask (v addr data : Nat) (mask : Bool) {s : State} (hs : Sound inv queue s) :
    Sound inv queue (msixUnmask v addr data mask s) := by
  unfold msixUnmask
  repeat' with_reducible first | assumption | apply sound_ite | apply sound_sendPending | simp only [sound_update]

theorem gives_execMsixUnmask (v : MsixWrite) {s : State} (hs : Sound inv queue s) :
    ∃ t, execMsixUnmask v s = .next t ∧ Sound inv queue t := by
  exact ⟨_, rfl, sound_msixUnmask (hs := hs) ..⟩

theorem sound_ringEnable {s : State} (hs : Sound inv queue s) :
    Sound inv queue (ringEnable s) := by
  unfold ringEnable
  repeat' with_reducible first | assumption | apply sound_ite | apply sound_setRing | apply sound_readDoorbell

theorem gives_execRingEnable {s : State} (hs : Sound inv queue s) :
    ∃ t, execRingEnable s = .next t ∧ Sound inv queue t := by
  exact ⟨_, rfl, sound_ringEnable (hs := hs) ..⟩

theorem sound_abortRing {s : State} (r : Nat) (hs : Sound inv queue s) :
    Sound inv queue (State.abortRing s r) := by
  unfold State.abortRing
  repeat' with_reducible first | assumption | intro _ | apply sound_complete | apply sound_foldl

theorem sound_ringDisable (abort : Bool) {s : State} (hs : Sound inv queue s) :
    Sound inv queue (ringDisable abort s) := by
  unfold ringDisable
  repeat' with_reducible first | assumption | apply sound_ite | apply sound_orReg | apply sound_setRing | apply sound_abortRing

theorem gives_execRingDisableDrain {s : State} (hs : Sound inv queue s) :
    ∃ t, execRingDisableDrain s = .next t ∧ Sound inv queue t := by
  exact ⟨_, rfl, sound_ringDisable (hs := hs) ..⟩

theorem gives_execRingDisableAbort {s : State} (hs : Sound inv queue s) :
    ∃ t, execRingDisableAbort s = .next t ∧ Sound inv queue t := by
  exact ⟨_, rfl, sound_ringDisable (hs := hs) ..⟩

theorem sound_ringDisableComplete (r : Nat) {s : State} (hs : Sound inv queue s) :
    Sound inv queue (ringDisableComplete r s) := by
  unfold ringDisableComplete
  repeat' with_reducible first | assumption | apply sound_ite | apply sound_setRing | simp only [sound_update]

theorem gives_execRingDisableComplete (r : Nat) {s : State} (hs : Sound inv queue s) :
    ∃ t, execRingDisableComplete r s = .next t ∧ Sound inv queue t := by
  exact ⟨_, rfl, sound_ringDisableComplete (hs := hs) ..⟩

theorem sound_ringConfigWrite (off v : Nat) {s : State} (hs : Sound inv queue s) :
    Sound inv queue (ringConfigWrite off v s) := by
  unfold ringConfigWrite
  repeat' with_reducible first
    | assumption | apply sound_ite | apply sound_setReg | apply sound_orReg | apply sound_setRing | split

theorem gives_execRingConfigWrite (off v : Nat) {s : State} (hs : Sound inv queue s) :
    ∃ t, execRingConfigWrite off v s = .next t ∧ Sound inv queue t := by
  exact ⟨_, rfl, sound_ringConfigWrite (hs := hs) ..⟩

theorem gives_execBmeClear {s : State} (hs : Sound inv queue s) :
    ∃ t, execBmeClear s = .next t ∧ Sound inv queue t := by
  refine ⟨_, rfl, ?_⟩
  repeat' with_reducible first
    | assumption | apply sound_ite | apply sound_orReg | apply sound_andNotReg | simp only [sound_update]

theorem sound_readAllDoorbells {s : State} (hs : Sound inv queue s) :
    Sound inv queue (State.readAllDoorbells s) := by
  unfold State.readAllDoorbells
  repeat' with_reducible first
    | assumption | apply sound_readDoorbell | apply sound_sendPending | apply sound_foldl | simp only [sound_update]

theorem gives_execBmeSet {s : State} (hs : Sound inv queue s) :
    ∃ t, execBmeSet s = .next t ∧ Sound inv queue t := by
  refine ⟨_, rfl, ?_⟩
  repeat' with_reducible first
    | assumption | apply sound_ite | apply sound_orReg | apply sound_readAllDoorbells | simp only [sound_update]

theorem p0_resetStop {d : Die} (hs : P0 inv d) :
    P0 inv (Die.resetStop d) := by
  unfold Die.resetStop
  repeat' with_reducible first | assumption | apply p0_ite | apply p0_stop

theorem sound_hostReset (kind : Nat) {s : State} (hs : Sound inv queue s) :
    Sound inv queue (hostReset kind s) := by
  unfold hostReset
  repeat' with_reducible first
    | assumption | apply sound_ite | apply sound_andNotReg | apply sound_showStaging | apply sound_postDone
    | apply p0_resetStop | apply sound_foldl | apply sound_update_dies | simp only [sound_update]

theorem gives_execFunctionLevelReset {s : State} (hs : Sound inv queue s) :
    ∃ t, execFunctionLevelReset s = .next t ∧ Sound inv queue t := by
  exact ⟨_, rfl, sound_hostReset (hs := hs) ..⟩

theorem gives_execCxlReset {s : State} (hs : Sound inv queue s) :
    ∃ t, execCxlReset s = .next t ∧ Sound inv queue t := by
  exact ⟨_, rfl, sound_hostReset (hs := hs) ..⟩

theorem sound_hostResetComplete {s : State} (hs : Sound inv queue s) :
    Sound inv queue (hostResetComplete s) := by
  unfold hostResetComplete
  repeat' with_reducible first | assumption | apply sound_ite | simp only [sound_update]

theorem gives_execHostResetComplete {s : State} (hs : Sound inv queue s) :
    ∃ t, execHostResetComplete s = .next t ∧ Sound inv queue t := by
  exact ⟨_, rfl, sound_hostResetComplete (hs := hs) ..⟩

theorem sound_linkLoss {s : State} (hs : Sound inv queue s) :
    Sound inv queue (linkLoss s) := by
  unfold linkLoss
  repeat' with_reducible first
    | assumption | apply sound_ite | apply sound_setReg | apply sound_orReg | simp only [sound_update]

theorem gives_execHostLinkLoss {s : State} (hs : Sound inv queue s) :
    ∃ t, execHostLinkLoss s = .next t ∧ Sound inv queue t := by
  exact ⟨_, rfl, sound_linkLoss (hs := hs) ..⟩

theorem gives_execPerstAssert {s : State} (hs : Sound inv queue s) :
    ∃ t, execPerstAssert s = .next t ∧ Sound inv queue t := by
  refine ⟨_, rfl, ?_⟩
  repeat' with_reducible first | assumption | apply sound_linkLoss | simp only [sound_update]

theorem gives_execPerstRelease {s : State} (hs : Sound inv queue s) :
    ∃ t, execPerstRelease s = .next t ∧ Sound inv queue t := by
  refine ⟨_, rfl, ?_⟩
  repeat' with_reducible first | assumption | apply sound_ite | apply sound_hostReset | simp only [sound_update]

theorem sound_linkBack {s : State} (hs : Sound inv queue s) :
    Sound inv queue (State.linkBack s) := by
  unfold State.linkBack
  repeat' with_reducible first | assumption | apply sound_log | apply sound_event | apply sound_readAllDoorbells

theorem gives_execHostLinkRestore {s : State} (hs : Sound inv queue s) :
    ∃ t, execHostLinkRestore s = .next t ∧ Sound inv queue t := by
  refine ⟨_, rfl, ?_⟩
  repeat' with_reducible first
    | assumption | apply sound_ite | apply sound_setReg | apply sound_linkBack | simp only [sound_update]

theorem sound_linkTrained (width rate : Nat) (cache mem : Bool) (hdm : Option Nat) {s : State} (hs : Sound inv queue s) :
    Sound inv queue (linkTrained width rate cache mem hdm s) := by
  unfold linkTrained
  repeat' with_reducible first
    | assumption | apply sound_ite | apply sound_setReg | apply sound_readAllDoorbells | apply sound_linkBack
    | simp only [sound_update]

theorem gives_execCxlLinkTrainingDone (width rate : Nat) (cache : Bool) (mem : CxlMem) {s : State} (hs : Sound inv queue s) :
    ∃ t, execCxlLinkTrainingDone width rate cache mem s = .next t ∧ Sound inv queue t := by
  cases mem <;> exact ⟨_, rfl, sound_linkTrained _ _ _ _ _ hs⟩

theorem gives_execDoeDiscovery (index : Nat) {s : State} (hs : Sound inv queue s) :
    ∃ t, execDoeDiscovery index s = .next t ∧ Sound inv queue t := by
  refine ⟨_, rfl, ?_⟩
  repeat' with_reducible first | assumption | apply sound_ite | apply sound_emit

theorem gives_execCdatRead {s : State} (hs : Sound inv queue s) :
    ∃ t, execCdatRead s = .next t ∧ Sound inv queue t := by
  refine ⟨_, rfl, ?_⟩
  repeat' with_reducible first | assumption | apply sound_ite | apply sound_emit

/-! ### Collective -/

theorem sound_putColl {s : State} (c : Coll) (hs : Sound inv queue s) :
    Sound inv queue (State.putColl s c) := by
  unfold State.putColl
  exact sound_update.mpr hs

theorem sound_collEnd {s : State} (c : Coll) (outcome : Nat) (poisoned : Bool) (hs : Sound inv queue s) :
    Sound inv queue (State.collEnd s c outcome poisoned) := by
  unfold State.collEnd
  repeat' with_reducible first
    | assumption | apply sound_ite | apply sound_countReg | apply sound_freeBytes | apply sound_sbDrop
    | apply sound_putBytes | apply sound_endHelper | simp only [sound_update]

theorem sound_acceptColl (opc : Nat) (cd : Cd) (id : Nat) (host : HostData) {s : State} (hs : Sound inv queue s) :
    Sound inv queue (acceptColl opc cd id host s) := by
  unfold acceptColl
  repeat' with_reducible first
    | assumption | intro _ | apply sound_updDie | apply p0_putOp | apply sound_endHelper | apply sound_collEnd
    | simp only [sound_update] | split

theorem gives_execAllReduce (cd : Cd) (h : HelperTake) {s : State} (hs : Sound inv queue s) :
    ∃ t, execAllReduce cd h s = .next t ∧ Sound inv queue t := by
  exact ⟨_, rfl, sound_acceptColl (hs := hs) ..⟩

theorem gives_execReduceScatter (cd : Cd) (h : HelperTake) {s : State} (hs : Sound inv queue s) :
    ∃ t, execReduceScatter cd h s = .next t ∧ Sound inv queue t := by
  exact ⟨_, rfl, sound_acceptColl (hs := hs) ..⟩

theorem gives_execAllGather (cd : Cd) (h : HelperTake) {s : State} (hs : Sound inv queue s) :
    ∃ t, execAllGather cd h s = .next t ∧ Sound inv queue t := by
  exact ⟨_, rfl, sound_acceptColl (hs := hs) ..⟩

theorem gives_execBroadcast (cd : Cd) (h : HelperTake) {s : State} (hs : Sound inv queue s) :
    ∃ t, execBroadcast cd h s = .next t ∧ Sound inv queue t := by
  exact ⟨_, rfl, sound_acceptColl (hs := hs) ..⟩

theorem gives_execReduce (cd : Cd) (h : HelperTake) {s : State} (hs : Sound inv queue s) :
    ∃ t, execReduce cd h s = .next t ∧ Sound inv queue t := by
  exact ⟨_, rfl, sound_acceptColl (hs := hs) ..⟩

theorem gives_execShift (cd : Cd) (h : HelperTake) {s : State} (hs : Sound inv queue s) :
    ∃ t, execShift cd h s = .next t ∧ Sound inv queue t := by
  exact ⟨_, rfl, sound_acceptColl (hs := hs) ..⟩

theorem gives_execPermutation (cd : Cd) (h : HelperTake) {s : State} (hs : Sound inv queue s) :
    ∃ t, execPermutation cd h s = .next t ∧ Sound inv queue t := by
  exact ⟨_, rfl, sound_acceptColl (hs := hs) ..⟩

theorem gives_execPitch (cd : Cd) (h : HelperTake) {s : State} (hs : Sound inv queue s) :
    ∃ t, execPitch cd h s = .next t ∧ Sound inv queue t := by
  exact ⟨_, rfl, sound_acceptColl (hs := hs) ..⟩

theorem gives_execPaceGroup (cd : Cd) (h : HelperTake) {s : State} (hs : Sound inv queue s) :
    ∃ t, execPaceGroup cd h s = .next t ∧ Sound inv queue t := by
  exact ⟨_, rfl, sound_acceptColl (hs := hs) ..⟩

theorem sound_collAbort {s : State} (c : Coll) (outcome : Nat) (hs : Sound inv queue s) :
    Sound inv queue (State.collAbort s c outcome) := by
  unfold State.collAbort
  repeat' with_reducible first | assumption | intro _ | apply sound_sendFlow | apply sound_collEnd | apply sound_foldl

theorem sound_collFail {s : State} (id : Nat) (hs : Sound inv queue s) :
    Sound inv queue (State.collFail s id) := by
  unfold State.collFail
  repeat' with_reducible first | assumption | apply sound_collAbort | split

theorem sound_collMove {s : State} (h : Sound inv queue s) {c : Coll} {m : CMove} {r : State × Coll}
    (hr : s.collMove c m = some r) : Sound inv queue r.1 := by
  unfold State.collMove at hr
  dsimp only at hr
  split at hr
  · cases hr
    exact sound_sendAll _ _ h
  · split at hr
    · cases hr
    · split at hr
      · cases hr
        exact sound_update.mpr h
      · split at hr <;>
        · cases hr
          exact sound_update.mpr h
  · cases hr
    exact h

theorem sound_collMoves {s : State} (h : Sound inv queue s) (c : Coll) (l : List CMove) :
    Sound inv queue (s.collMoves c l).1 := by
  induction l generalizing s c with
  | nil => exact h
  | cons m l ih =>
    unfold State.collMoves
    dsimp only
    repeat' first | exact h | exact sound_putColl _ h |
      exact ih (sound_collMove (sound_putColl _ h) ‹_ = some _›) _ | split

theorem sound_collDone {s : State} (c : Coll) (hs : Sound inv queue s) :
    Sound inv queue (State.collDone s c) := by
  unfold State.collDone
  repeat' with_reducible first | assumption | intro _ | apply sound_putBytesAt | apply sound_collEnd | apply sound_foldl_pair

theorem sound_sendChecks {s : State} (c : Coll) (hs : Sound inv queue s) :
    Sound inv queue (State.sendChecks s c) := by
  unfold State.sendChecks
  repeat' with_reducible first | assumption | intro _ | apply sound_sendFlow | apply sound_foldl

theorem sound_takePace {s : State} (pace reason : Nat) (hs : Sound inv queue s) :
    Sound inv queue (State.takePace s pace reason) := by
  unfold State.takePace
  repeat' with_reducible first | assumption | apply sound_setReg | apply sound_setpoints | simp only [sound_update]

theorem sound_pitchDone {s : State} (c : Coll) (d : PitchData) (hs : Sound inv queue s) :
    Sound inv queue (State.pitchDone s c d) := by
  unfold State.pitchDone
  repeat' with_reducible first
    | assumption | intro _ | apply sound_ite | apply sound_sendFlow | apply sound_trigger | apply sound_collEnd
    | apply sound_takePace | apply sound_foldl | apply sound_update_dies | simp only [sound_update]
    | simp only [p0_update]

theorem sound_pitchGo {s : State} (c : Coll) (hs : Sound inv queue s) (fuel : Nat) :
    Sound inv queue (State.pitchGo s c fuel) := by
  induction fuel generalizing s c with
  | zero =>
    unfold State.pitchGo
    repeat' with_reducible first
      | assumption | intro _ | apply sound_ite | apply p0_ite | apply sound_sendFlow | apply sound_putColl
      | apply sound_pitchDone | simp only [sound_update] | simp only [p0_update] | split
  | succ n ih =>
    unfold State.pitchGo
    repeat' with_reducible first
      | assumption | apply ih | apply sound_sendFlow | apply sound_putColl | apply sound_pitchDone
      | simp only [sound_update] | split

theorem sound_permGo {s : State} (c : Coll) (hs : Sound inv queue s) (fuel : Nat) :
    Sound inv queue (State.permGo s c fuel) := by
  induction fuel generalizing s c with
  | zero =>
    unfold State.permGo
    repeat' with_reducible first
      | assumption | intro _ | apply sound_ite | apply p0_ite | apply sound_sendAll | apply sound_putColl
      | apply sound_collEnd | simp only [sound_update] | simp only [p0_update] | split
  | succ n ih =>
    unfold State.permGo
    repeat' with_reducible first
      | assumption | apply ih | apply sound_ite | apply sound_sendAll | apply sound_putColl | apply sound_collEnd
      | split

theorem sound_collAck {s : State} (id entry : Nat) (hs : Sound inv queue s) :
    Sound inv queue (State.collAck s id entry) := by
  unfold State.collAck
  repeat' with_reducible first | assumption | apply sound_permGo | split

theorem sound_landPut {s : State} (p : Packet) (hs : Sound inv queue s) :
    Sound inv queue (State.landPut s p).1 := by
  unfold State.landPut
  repeat' with_reducible first | assumption | apply sound_putBytesAt | simp only [sound_update] | split

theorem sound_collRun {s : State} (c : Coll) (hs : Sound inv queue s) :
    Sound inv queue (State.collRun s c) := by
  unfold State.collRun
  repeat' with_reducible first
    | assumption | apply sound_putColl | apply sound_collAbort | apply sound_collMoves | apply sound_collDone
    | apply sound_pitchGo | apply sound_permGo | simp only [sound_update] | split

theorem sound_collOn {s : State} (id : Nat) (hs : Sound inv queue s) :
    Sound inv queue (State.collOn s id) := by
  unfold State.collOn
  repeat' with_reducible first | assumption | apply sound_collRun | split

theorem sound_collWake {s : State} (tag : Nat) (hs : Sound inv queue s) :
    Sound inv queue (State.collWake s tag) := by
  unfold State.collWake
  repeat' with_reducible first | assumption | apply sound_collOn | apply sound_foldl

theorem sound_collBegin {s : State} (c : Coll) (host : HostData) (hs : Sound inv queue s) :
    Sound inv queue (State.collBegin s c host) := by
  unfold State.collBegin
  repeat' with_reducible first
    | assumption | apply sound_ite | apply sound_sbDrop | apply sound_sbEnter | apply sound_askHost
    | apply sound_endHelper | apply sound_putColl | apply sound_collEnd | apply sound_sendChecks | apply sound_collRun
    | simp only [sound_update]

theorem sound_collStart (eng : Fin 4) (host : HostData) {s : State} (hs : Sound inv queue s) :
    Sound inv queue (collStart eng host s) := by
  unfold collStart
  repeat' with_reducible first
    | assumption | apply sound_collOn | apply sound_collBegin | apply sound_foldl | simp only [sound_update] | split

theorem gives_execCollStart (eng : Fin 4) (host : HostData) (hostOk : Bool) {s : State} (hs : Sound inv queue s) :
    ∃ t, execCollStart eng host hostOk s = .next t ∧ Sound inv queue t := by
  exact ⟨_, rfl, sound_collStart (hs := hs) ..⟩

theorem sound_keepColl {s : State} (p : Packet) (hs : Sound inv queue s) :
    Sound inv queue (State.keepColl s p) := by
  unfold State.keepColl
  repeat' with_reducible first | assumption | apply sound_collWake | simp only [sound_update]

theorem gives_execCollCheck (q : Fin 9) {s : State} (hs : Sound inv queue s) :
    ∃ t, execCollCheck q s = .next t ∧ Sound inv queue t := by
  refine ⟨_, rfl, ?_⟩
  repeat' with_reducible first | assumption | intro _ | apply sound_ite | apply sound_takePacket | apply sound_keepColl

theorem gives_execCollStreamPacket (q : Fin 9) (base : Nat) {s : State} (hs : Sound inv queue s) :
    ∃ t, execCollStreamPacket q base s = .next t ∧ Sound inv queue t := by
  refine ⟨_, rfl, ?_⟩
  repeat' with_reducible first | assumption | intro _ | apply sound_takePacket | apply sound_keepColl

theorem sound_takeAbort (p : Packet) {s : State} (hs : Sound inv queue s) :
    Sound inv queue (takeAbort p s) := by
  unfold takeAbort
  repeat' with_reducible first | assumption | apply sound_collAbort | split

theorem gives_execAbortPacket (q : Fin 9) {s : State} (hs : Sound inv queue s) :
    ∃ t, execAbortPacket q s = .next t ∧ Sound inv queue t := by
  refine ⟨_, rfl, ?_⟩
  repeat' with_reducible first | assumption | apply sound_takePacket | apply sound_takeAbort

theorem sound_takePermData (p : Packet) {s : State} (hs : Sound inv queue s) :
    Sound inv queue (takePermData p s) := by
  unfold takePermData
  repeat' with_reducible first | assumption | apply sound_landPut | apply sound_collWake | simp only [sound_update]

theorem gives_execPermutationData (q : Fin 9) {s : State} (hs : Sound inv queue s) :
    ∃ t, execPermutationData q s = .next t ∧ Sound inv queue t := by
  refine ⟨_, rfl, ?_⟩
  repeat' with_reducible first | assumption | apply sound_takePacket | apply sound_takePermData

theorem gives_execPitchArrival (q : Fin 9) {s : State} (hs : Sound inv queue s) :
    ∃ t, execPitchArrival q s = .next t ∧ Sound inv queue t := by
  refine ⟨_, rfl, ?_⟩
  repeat' with_reducible first | assumption | intro _ | apply sound_ite | apply sound_takePacket | apply sound_keepColl

theorem gives_execPitchRelease (q : Fin 9) {s : State} (hs : Sound inv queue s) :
    ∃ t, execPitchRelease q s = .next t ∧ Sound inv queue t := by
  refine ⟨_, rfl, ?_⟩
  repeat' with_reducible first | assumption | intro _ | apply sound_takePacket | apply sound_keepColl

theorem sound_sendPace {s : State} (pace reason dur : Nat) (hs : Sound inv queue s) :
    Sound inv queue (State.sendPace s pace reason dur) := by
  unfold State.sendPace
  repeat' with_reducible first | assumption | apply sound_countReg | apply sound_sendFlow | split

theorem sound_relayPace {s : State} (body : List Byte) (hs : Sound inv queue s) :
    Sound inv queue (State.relayPace s body) := by
  unfold State.relayPace
  repeat' with_reducible first | assumption | intro _ | apply sound_sendFlow | apply sound_foldl | split

theorem sound_takePaceRequest (p : Packet) {s : State} (hs : Sound inv queue s) :
    Sound inv queue (takePaceRequest p s) := by
  unfold takePaceRequest
  repeat' with_reducible first
    | assumption | apply sound_ite | apply sound_takePace | apply sound_relayPace | simp only [sound_update]

theorem gives_execPaceRequest (q : Fin 9) {s : State} (hs : Sound inv queue s) :
    ∃ t, execPaceRequest q s = .next t ∧ Sound inv queue t := by
  refine ⟨_, rfl, ?_⟩
  repeat' with_reducible first | assumption | intro _ | apply sound_ite | apply sound_takePacket | apply sound_takePaceRequest

theorem sound_takePaceNotice (p : Packet) {s : State} (hs : Sound inv queue s) :
    Sound inv queue (takePaceNotice p s) := by
  unfold takePaceNotice
  repeat' with_reducible first
    | assumption | apply sound_ite | apply sound_countReg | apply sound_takePace | apply sound_relayPace

theorem gives_execPaceNotice (q : Fin 9) {s : State} (hs : Sound inv queue s) :
    ∃ t, execPaceNotice q s = .next t ∧ Sound inv queue t := by
  refine ⟨_, rfl, ?_⟩
  repeat' with_reducible first | assumption | apply sound_takePacket | apply sound_takePaceNotice

theorem sound_abortAll {s : State} (hs : Sound inv queue s) :
    Sound inv queue (abortAll s) := by
  unfold abortAll
  repeat' with_reducible first | assumption | intro _ | apply sound_collAbort | apply sound_foldl

theorem gives_execCollCmdAbort {s : State} (hs : Sound inv queue s) :
    ∃ t, execCollCmdAbort s = .next t ∧ Sound inv queue t := by
  refine ⟨_, rfl, ?_⟩
  repeat' with_reducible first | assumption | apply sound_ite | apply sound_abortAll

/-! ### GristDir -/

theorem sound_foldInto {s : State} (r : List Byte) (p : RowPlace) (deltas : List Int) (bad : Bool) (hs : Sound inv queue s) :
    Sound inv queue (State.foldInto s r p deltas bad).1 := by
  unfold State.foldInto
  repeat' with_reducible first
    | assumption | apply sound_write | apply sound_poisonLine | apply sound_poisonRange | simp only [sound_update]
    | split

theorem sound_countId {s : State} (table : Nat) (r : List Byte) (p : RowPlace) (row : Nat) (hs : Sound inv queue s) :
    Sound inv queue (State.countId s table r p row) := by
  unfold State.countId
  repeat' with_reducible first | assumption | apply sound_write | simp only [sound_update] | split

theorem sound_setRegion {s : State} (table : Nat) (mirror : Bool) (k : Nat) (x : Region) (hs : Sound inv queue s) :
    Sound inv queue (State.setRegion s table mirror k x) := by
  unfold State.setRegion
  exact sound_update.mpr hs

theorem sound_findEntry {s : State} (r : List Byte) (k row h : Nat) (hs : Sound inv queue s) (fuel : Nat) :
    Sound inv queue (State.findEntry s r k row h fuel).1 := by
  induction fuel generalizing s r k row h with
  | zero =>
    unfold State.findEntry
    repeat' with_reducible first
      | assumption | intro _ | apply sound_ite | apply p0_ite | apply sound_atomic | simp only [sound_update]
      | simp only [p0_update] | split
  | succ n ih =>
    unfold State.findEntry
    repeat' with_reducible first | assumption | apply ih | apply sound_atomic | simp only [sound_update] | split

theorem sound_addDirect {s : State} (eng side step a len : Nat) (hs : Sound inv queue s) :
    Sound inv queue (State.addDirect s eng side step a len) := by
  unfold State.addDirect
  repeat' with_reducible first | assumption | simp only [sound_update] | split

theorem sound_applyDirect {s : State} (table : Nat) (mirror : Bool) (r : List Byte) (step row : Nat) (q : List Int)
    (bad : Bool) (hs : Sound inv queue s) :
    Sound inv queue (State.applyDirect s table mirror r step row q bad).1 := by
  unfold State.applyDirect
  repeat' with_reducible first
    | assumption | apply sound_ite | apply sound_countReg | apply sound_foldInto | apply sound_addDirect

theorem sound_addDeltas {s : State} (a j : Nat) (qs : List (Int × Bool)) (hs : Sound inv queue s) :
    Sound inv queue (State.addDeltas s a j qs) := by
  unfold State.addDeltas
  repeat' with_reducible first
    | assumption | intro _ | apply sound_ite | apply sound_poisonLine | apply sound_atomic | apply sound_foldl

theorem sound_foldEntry {s : State} (table : Nat) (r : List Byte) (v a : Nat) (hs : Sound inv queue s) :
    Sound inv queue (State.foldEntry s table r v a).1 := by
  unfold State.foldEntry
  repeat' with_reducible first
    | assumption | intro _ | apply sound_write | apply sound_foldInto | apply sound_foldl | simp only [sound_update]
    | split

theorem sound_foldRegion {s : State} (table : Nat) (r : List Byte) (k step : Nat) (hs : Sound inv queue s) :
    Sound inv queue (State.foldRegion s table r k step).1 := by
  unfold State.foldRegion
  repeat' with_reducible first | assumption | intro _ | apply sound_foldEntry | apply sound_foldl_pair

/-! ### GristServe -/

theorem sound_gristReply {s : State} (bd dst tag chunk : Nat) (elems : List Nat) (flags pooled : Nat) (hs : Sound inv queue s) :
    Sound inv queue (State.gristReply s bd dst tag chunk elems flags pooled) := by
  unfold State.gristReply
  exact sound_sendFlow (hs := hs) ..

theorem sound_takeLookup (p : Packet) {s : State} (hs : Sound inv queue s) :
    Sound inv queue (takeLookup p s) := by
  unfold takeLookup
  repeat' with_reducible first
    | assumption | intro _ | apply sound_countReg | apply sound_countId | apply sound_gristReply | apply sound_foldl
    | simp only [sound_update] | split

theorem gives_execGristLookupRequest (q : Fin 9) {s : State} (hs : Sound inv queue s) :
    ∃ t, execGristLookupRequest q s = .next t ∧ Sound inv queue t := by
  refine ⟨_, rfl, ?_⟩
  repeat' with_reducible first | assumption | intro _ | apply sound_ite | apply sound_takePacket | apply sound_takeLookup

theorem sound_dropServe {s : State} (g : GServe) (hs : Sound inv queue s) :
    Sound inv queue (State.dropServe s g) := by
  unfold State.dropServe
  exact sound_update.mpr hs

theorem sound_putServe {s : State} (g : GServe) (hs : Sound inv queue s) :
    Sound inv queue (State.putServe s g) := by
  unfold State.putServe
  repeat' with_reducible first | assumption | apply sound_dropServe | simp only [sound_update]

theorem sound_ackServe {s : State} (g : GServe) (hs : Sound inv queue s) :
    Sound inv queue (State.ackServe s g) := by
  unfold State.ackServe
  repeat' with_reducible first | assumption | apply sound_gristReply | apply sound_dropServe

theorem sound_refuseServe {s : State} (g : GServe) (flag : Nat) (hs : Sound inv queue s) :
    Sound inv queue (State.refuseServe s g flag) := by
  unfold State.refuseServe
  repeat' with_reducible first | assumption | apply sound_gristReply | apply sound_putServe

theorem sound_closeServe {s : State} (r : List Byte) (g : GServe) (hs : Sound inv queue s) :
    Sound inv queue (State.closeServe s r g) := by
  unfold State.closeServe
  repeat' with_reducible first
    | assumption | apply sound_sendAll | apply sound_putServe | apply sound_ackServe | simp only [sound_update]
    | split

theorem sound_claimAll {s : State} (r : List Byte) (k : Nat) (hs : Sound inv queue s) (fuel : List (Nat × Nat)) :
    Sound inv queue (State.claimAll s r k fuel).1 := by
  induction fuel generalizing s r k with
  | nil =>
    unfold State.claimAll
    repeat' with_reducible first
      | assumption | intro _ | apply sound_findEntry | simp only [sound_update] | simp only [p0_update] | split
  | cons x l ih =>
    unfold State.claimAll
    repeat' with_reducible first | assumption | apply ih | apply sound_findEntry

theorem sound_takeUpdateIds (p : Packet) {s : State} (hs : Sound inv queue s) :
    Sound inv queue (takeUpdateIds p s) := by
  unfold takeUpdateIds
  repeat' with_reducible first
    | assumption | apply sound_countReg | apply sound_setRegion | apply sound_putServe | apply sound_refuseServe
    | apply sound_claimAll | simp only [sound_update] | split

theorem gives_execGristUpdateIds (q : Fin 9) {s : State} (hs : Sound inv queue s) :
    ∃ t, execGristUpdateIds q s = .next t ∧ Sound inv queue t := by
  refine ⟨_, rfl, ?_⟩
  repeat' with_reducible first | assumption | apply sound_takePacket | apply sound_takeUpdateIds

theorem sound_finishUpdate {s : State} (r : List Byte) (g : GServe) (hs : Sound inv queue s) :
    Sound inv queue (State.finishUpdate s r g) := by
  unfold State.finishUpdate
  repeat' with_reducible first
    | assumption | intro _ | apply sound_atomic | apply sound_applyDirect | apply sound_closeServe
    | apply sound_foldl_pair | split

theorem sound_takeChunk (p : Packet) {s : State} (hs : Sound inv queue s) :
    Sound inv queue (takeChunk p s) := by
  unfold takeChunk
  repeat' with_reducible first
    | assumption | intro _ | apply sound_ite | apply sound_addDeltas | apply sound_dropServe | apply sound_putServe
    | apply sound_finishUpdate | apply sound_foldl | split

theorem gives_execGristGradientChunk (q : Fin 9) {s : State} (hs : Sound inv queue s) :
    ∃ t, execGristGradientChunk q s = .next t ∧ Sound inv queue t := by
  refine ⟨_, rfl, ?_⟩
  repeat' with_reducible first | assumption | apply sound_takePacket | apply sound_takeChunk

theorem sound_takeMigrated (row : Nat) (hot : Option Nat) (p : Packet) {s : State} (hs : Sound inv queue s) :
    Sound inv queue (takeMigrated row hot p s) := by
  unfold takeMigrated
  repeat' with_reducible first
    | assumption | apply sound_countReg | apply sound_putBytesAt | apply sound_gristReply | apply sound_dropServe
    | apply sound_putServe | apply sound_ackServe | apply sound_refuseServe | apply sound_closeServe
    | simp only [sound_update] | split

theorem gives_execGristMigratedRow (q : Fin 9) (row : Nat) (hot : Option Nat) {s : State} (hs : Sound inv queue s) :
    ∃ t, execGristMigratedRow q row hot s = .next t ∧ Sound inv queue t := by
  refine ⟨_, rfl, ?_⟩
  repeat' with_reducible first | assumption | apply sound_takePacket | apply sound_takeMigrated

theorem sound_partnerReply {s : State} (g : GServe) (flags : Nat) (hs : Sound inv queue s) :
    Sound inv queue (State.partnerReply s g flags) := by
  unfold State.partnerReply
  repeat' with_reducible first | assumption | apply sound_ite | apply sound_putServe | apply sound_ackServe

theorem sound_forwardAgain {s : State} (g : GServe) (tag : Nat) (hs : Sound inv queue s) :
    Sound inv queue (State.forwardAgain s g tag) := by
  unfold State.forwardAgain
  repeat' with_reducible first | assumption | apply sound_sendAll | apply sound_putServe | apply sound_ackServe | split

/-! ### Grist -/

theorem sound_putJob {s : State} (j : GJob) (hs : Sound inv queue s) :
    Sound inv queue (State.putJob s j) := by
  unfold State.putJob
  exact sound_update.mpr hs

theorem sound_sendGroup {s : State} (x : GJob × GGroup) (hs : Sound inv queue s) :
    Sound inv queue (State.sendGroup s x) := by
  unfold State.sendGroup
  repeat' with_reducible first | assumption | apply sound_sendAll | apply sound_putJob | split

theorem sound_sendGroups {s : State} (hs : Sound inv queue s) (fuel : List (GJob × GGroup)) :
    Sound inv queue (State.sendGroups s fuel) := by
  induction fuel generalizing s with
  | nil =>
    unfold State.sendGroups
    repeat' with_reducible first
      | assumption | intro _ | apply sound_ite | apply p0_ite | apply sound_sendGroup | simp only [sound_update]
      | simp only [p0_update] | split
  | cons x l ih =>
    unfold State.sendGroups
    repeat' with_reducible first | assumption | apply ih | apply sound_ite | apply sound_sendGroup

theorem sound_gristPump {s : State} (bd : Nat) (hs : Sound inv queue s) :
    Sound inv queue (State.gristPump s bd) := by
  unfold State.gristPump
  exact sound_sendGroups (hs := hs) ..

theorem sound_addJob {s : State} (j : GJob) (hs : Sound inv queue s) :
    Sound inv queue (State.addJob s j) := by
  unfold State.addJob
  exact sound_update.mpr hs

theorem sound_acceptGrist (c : Nat) (cd : Cd) (id : Nat) (host : HostData) (f : GJob → State → State) {s : State}
    (hs : Sound inv queue s) (hf : ∀ x u, Sound inv queue u → Sound inv queue (f x u)) :
    Sound inv queue (acceptGrist c cd id host f s) := by
  unfold acceptGrist
  repeat' with_reducible first
    | assumption | intro _ | apply sound_ite | apply sound_updDie | apply p0_putOp | apply sound_sbEnter
    | apply sound_endHelper | apply sound_addJob | apply hf | split

theorem sound_beginRequests (host : HostData) (j : GJob) {s : State} (hs : Sound inv queue s) :
    Sound inv queue (beginRequests host j s) := by
  unfold beginRequests
  repeat' with_reducible first
    | assumption | apply sound_countReg | apply sound_gristPump | apply sound_addJob | simp only [sound_update]

theorem gives_execLookUp (cd : Cd) (id : Nat) (host : HostData) (hostOk : Bool) {s : State} (hs : Sound inv queue s) :
    ∃ t, execLookUp cd id host hostOk s = .next t ∧ Sound inv queue t := by
  refine ⟨_, rfl, ?_⟩
  repeat' with_reducible first | assumption | apply sound_acceptGrist | apply sound_beginRequests

theorem gives_execUpdate (cd : Cd) (id : Nat) (host : HostData) (hostOk : Bool) {s : State} (hs : Sound inv queue s) :
    ∃ t, execUpdate cd id host hostOk s = .next t ∧ Sound inv queue t := by
  refine ⟨_, rfl, ?_⟩
  repeat' with_reducible first | assumption | apply sound_acceptGrist | apply sound_beginRequests

theorem sound_stepSeen {s : State} (step : Nat) (hs : Sound inv queue s) :
    Sound inv queue (State.stepSeen s step) := by
  unfold State.stepSeen
  repeat' with_reducible first
    | assumption | apply sound_ite | apply sound_orReg | apply sound_fieldReg | simp only [sound_update]

theorem sound_beginFold (j : GJob) {s : State} (hs : Sound inv queue s) :
    Sound inv queue (beginFold j s) := by
  unfold beginFold
  repeat' with_reducible first
    | assumption | apply sound_ite | apply sound_setRegion | apply sound_addJob | apply sound_stepSeen

theorem gives_execFold (cd : Cd) (h : HelperTake) {s : State} (hs : Sound inv queue s) :
    ∃ t, execFold cd h s = .next t ∧ Sound inv queue t := by
  refine ⟨_, rfl, ?_⟩
  repeat' with_reducible first | assumption | apply sound_acceptGrist | apply sound_beginFold

theorem sound_foldEnd (job : Nat) {s : State} (hs : Sound inv queue s) :
    Sound inv queue (foldEnd job s) := by
  unfold foldEnd
  repeat' with_reducible first
    | assumption | apply sound_setRegion | apply sound_foldRegion | apply sound_putJob | apply sound_stepSeen
    | simp only [sound_update] | split

theorem gives_execFoldEnd (job : Nat) {s : State} (hs : Sound inv queue s) :
    ∃ t, execFoldEnd job s = .next t ∧ Sound inv queue t := by
  exact ⟨_, rfl, sound_foldEnd (hs := hs) ..⟩

theorem sound_writeRecord {s : State} (j : GJob) (off : Nat) (bs : List Byte) (hs : Sound inv queue s) :
    Sound inv queue (State.writeRecord s j off bs) := by
  unfold State.writeRecord
  repeat' with_reducible first | assumption | apply sound_write

theorem sound_beginSwitch (j : GJob) {s : State} (hs : Sound inv queue s) :
    Sound inv queue (beginSwitch j s) := by
  unfold beginSwitch
  repeat' with_reducible first | assumption | apply sound_ite | apply sound_addJob | apply sound_writeRecord

theorem gives_execVersionSwitch (cd : Cd) (h : HelperTake) {s : State} (hs : Sound inv queue s) :
    ∃ t, execVersionSwitch cd h s = .next t ∧ Sound inv queue t := by
  refine ⟨_, rfl, ?_⟩
  repeat' with_reducible first | assumption | apply sound_acceptGrist | apply sound_beginSwitch

theorem sound_beginRelease (j : GJob) {s : State} (hs : Sound inv queue s) :
    Sound inv queue (beginRelease j s) := by
  unfold beginRelease
  repeat' with_reducible first | assumption | apply sound_ite | apply sound_addJob | apply sound_writeRecord

theorem gives_execVersionRelease (cd : Cd) (h : HelperTake) {s : State} (hs : Sound inv queue s) :
    ∃ t, execVersionRelease cd h s = .next t ∧ Sound inv queue t := by
  refine ⟨_, rfl, ?_⟩
  repeat' with_reducible first | assumption | apply sound_acceptGrist | apply sound_beginRelease

theorem sound_beginSkew (j : GJob) {s : State} (hs : Sound inv queue s) :
    Sound inv queue (beginSkew j s) := by
  unfold beginSkew
  repeat' with_reducible first
    | assumption | apply sound_ite | apply sound_write | apply sound_putBytes | apply sound_addJob
    | simp only [sound_update]

theorem gives_execSkewReport (cd : Cd) (h : HelperTake) {s : State} (hs : Sound inv queue s) :
    ∃ t, execSkewReport cd h s = .next t ∧ Sound inv queue t := by
  refine ⟨_, rfl, ?_⟩
  repeat' with_reducible first | assumption | apply sound_acceptGrist | apply sound_beginSkew

theorem sound_beginMigrate (host : HostData) (j : GJob) {s : State} (hs : Sound inv queue s) :
    Sound inv queue (beginMigrate host j s) := by
  unfold beginMigrate
  repeat' with_reducible first
    | assumption | apply sound_ite | apply sound_gristPump | apply sound_addJob | apply sound_foldl
    | simp only [sound_update]

theorem gives_execMigrateOut (cd : Cd) (id : Nat) (host : HostData) (hostOk : Bool) {s : State} (hs : Sound inv queue s) :
    ∃ t, execMigrateOut cd id host hostOk s = .next t ∧ Sound inv queue t := by
  refine ⟨_, rfl, ?_⟩
  repeat' with_reducible first | assumption | apply sound_acceptGrist | apply sound_beginMigrate

theorem sound_installOne {s : State} (mirror : Bool) (e : PlanEnt) (hs : Sound inv queue s) :
    Sound inv queue (State.installOne s mirror e).1 := by
  unfold State.installOne
  repeat' with_reducible first | assumption | apply sound_write | simp only [sound_update] | split

theorem sound_beginInstall (host : HostData) (j : GJob) {s : State} (hs : Sound inv queue s) :
    Sound inv queue (beginInstall host j s) := by
  unfold beginInstall
  repeat' with_reducible first
    | assumption | intro _ | apply sound_fieldReg | apply sound_addJob | apply sound_installOne
    | apply sound_foldl_pair

theorem gives_execInstallOverrides (cd : Cd) (id : Nat) (host : HostData) (hostOk : Bool) {s : State} (hs : Sound inv queue s) :
    ∃ t, execInstallOverrides cd id host hostOk s = .next t ∧ Sound inv queue t := by
  refine ⟨_, rfl, ?_⟩
  repeat' with_reducible first | assumption | apply sound_acceptGrist | apply sound_beginInstall

theorem sound_takeGristReply (p : Packet) {s : State} (hs : Sound inv queue s) :
    Sound inv queue (takeGristReply p s) := by
  unfold takeGristReply
  repeat' with_reducible first
    | assumption | apply sound_partnerReply | apply sound_putJob | apply sound_gristPump | simp only [sound_update]
    | split

theorem gives_execGristReply (q : Fin 9) {s : State} (hs : Sound inv queue s) :
    ∃ t, execGristReply q s = .next t ∧ Sound inv queue t := by
  refine ⟨_, rfl, ?_⟩
  repeat' with_reducible first | assumption | apply sound_takePacket | apply sound_takeGristReply

theorem sound_busyRetry (tag : Nat) {s : State} (hs : Sound inv queue s) :
    Sound inv queue (busyRetry tag s) := by
  unfold busyRetry
  repeat' with_reducible first | assumption | apply sound_sendAll | apply sound_forwardAgain | apply sound_putJob | split

theorem gives_execGristBusyRetry (tag : Nat) {s : State} (hs : Sound inv queue s) :
    ∃ t, execGristBusyRetry tag s = .next t ∧ Sound inv queue t := by
  exact ⟨_, rfl, sound_busyRetry (hs := hs) ..⟩

theorem sound_gristFail {s : State} (tag : Nat) (hs : Sound inv queue s) :
    Sound inv queue (State.gristFail s tag) := by
  unfold State.gristFail
  repeat' with_reducible first | assumption | apply sound_ackServe | apply sound_putJob | apply sound_gristPump | split

theorem sound_writeBag {s : State} (j : GJob) (k : Nat) (hs : Sound inv queue s) :
    Sound inv queue (State.writeBag s j k).1 := by
  unfold State.writeBag
  exact sound_putBytes (hs := hs) ..

theorem sound_gristComplete (job : Nat) {s : State} (hs : Sound inv queue s) :
    Sound inv queue (gristComplete job s) := by
  unfold gristComplete
  repeat' with_reducible first
    | assumption | intro _ | apply sound_sbDrop | apply sound_putBytes | apply sound_endHelper | apply sound_writeBag
    | apply sound_foldl_pair | simp only [sound_update] | split

theorem gives_execGristComplete (job : Nat) {s : State} (hs : Sound inv queue s) :
    ∃ t, execGristComplete job s = .next t ∧ Sound inv queue t := by
  exact ⟨_, rfl, sound_gristComplete (hs := hs) ..⟩

theorem sound_gristCtrlWrite (off v : Nat) {s : State} (hs : Sound inv queue s) :
    Sound inv queue (gristCtrlWrite off v s) := by
  unfold gristCtrlWrite
  repeat' with_reducible first | assumption | apply sound_ite | apply sound_setReg | apply sound_orReg | split

theorem gives_execGristCtrlWrite (off v : Nat) {s : State} (hs : Sound inv queue s) :
    ∃ t, execGristCtrlWrite off v s = .next t ∧ Sound inv queue t := by
  exact ⟨_, rfl, sound_gristCtrlWrite (hs := hs) ..⟩

/-! ### Tile -/

theorem sound_issueTile (cd : Cd) (w : IWord) (op : Nat) (av : Nat → Die → List Nat) {s : State} (hs : Sound inv queue s) :
    Sound inv queue (issueTile cd w op av s) := by
  unfold issueTile
  repeat' with_reducible first
    | assumption | intro _ | apply p0_ite | apply p0_advance | apply sound_issueAdmDie | apply p0_push
    | simp only [p0_update]

theorem gives_execLoadCharge (cd : Cd) (w : IWord) {s : State} (hs : Sound inv queue s) :
    ∃ t, execLoadCharge cd w s = .next t ∧ Sound inv queue t := by
  exact ⟨_, rfl, sound_issueTile (hs := hs) ..⟩

theorem gives_execPass (cd : Cd) (w : IWord) {s : State} (hs : Sound inv queue s) :
    ∃ t, execPass cd w s = .next t ∧ Sound inv queue t := by
  exact ⟨_, rfl, sound_issueTile (hs := hs) ..⟩

theorem gives_execTileAdd (cd : Cd) (w : IWord) {s : State} (hs : Sound inv queue s) :
    ∃ t, execTileAdd cd w s = .next t ∧ Sound inv queue t := by
  exact ⟨_, rfl, sound_issueTile (hs := hs) ..⟩

theorem gives_execTileZero (cd : Cd) (w : IWord) {s : State} (hs : Sound inv queue s) :
    ∃ t, execTileZero cd w s = .next t ∧ Sound inv queue t := by
  exact ⟨_, rfl, sound_issueTile (hs := hs) ..⟩

theorem gives_execElementWisePass (cd : Cd) (w : IWord) {s : State} (hs : Sound inv queue s) :
    ∃ t, execElementWisePass cd w s = .next t ∧ Sound inv queue t := by
  refine ⟨_, rfl, ?_⟩
  repeat' with_reducible first
    | assumption | intro _ | apply p0_ite | apply p0_fail | apply p0_advance | apply sound_issueAdmDie | apply p0_push
    | simp only [p0_update]

theorem p0_setTun {d : Die} (j : Fin 12) (t : Tun) (hs : P0 inv d) :
    P0 inv (Die.setTun d j t) := by
  unfold Die.setTun
  exact p0_update.mpr hs

theorem p0_endOp {d : Die} (o : Op) (status : Nat) (hs : P0 inv d) :
    P0 inv (Die.endOp d o status) := by
  unfold Die.endOp
  exact p0_update.mpr hs

theorem p0_reload {d : Die} (o : Op) (id : Nat) (j : Fin 12) (hs : P0 inv d) :
    P0 inv (Die.reload d o id j) := by
  unfold Die.reload
  exact p0_update.mpr hs

theorem p0_beginPass {d : Die} (o : Op) (j : Fin 12) (id : Nat) (swap : Bool) (hs : P0 inv d) :
    P0 inv (Die.beginPass d o j id swap) := by
  unfold Die.beginPass
  exact p0_update.mpr hs

theorem p0_takeTile {d : Die} (o : Op) (hs : P0 inv d) :
    P0 inv (Die.takeTile d o) := by
  unfold Die.takeTile
  repeat' with_reducible first | assumption | apply p0_ite | simp only [p0_update]

theorem sound_takeImage {s : State} (cd : Cd) (o : Op) (hs : Sound inv queue s) :
    Sound inv queue (State.takeImage s cd o) := by
  unfold State.takeImage
  repeat' with_reducible first | assumption | apply sound_ite | apply sound_sbMove

theorem sound_tunStart (cd : Cd) (j : Fin 12) {s : State} (hs : Sound inv queue s) :
    Sound inv queue (tunStart cd j s) := by
  unfold tunStart
  repeat' with_reducible first
    | assumption | intro _ | apply sound_setDie | apply sound_updDie | apply p0_putOp | apply p0_setTun
    | apply p0_endOp | apply p0_reload | apply p0_beginPass | apply p0_takeTile | apply sound_takeImage
    | apply sound_die | simp only [p0_update] | split

theorem gives_execTunOpStart (cd : Cd) (j : Fin 12) {s : State} (hs : Sound inv queue s) :
    ∃ t, execTunOpStart cd j s = .next t ∧ Sound inv queue t := by
  exact ⟨_, rfl, sound_tunStart (hs := hs) ..⟩

theorem sound_loadComplete (cd : Cd) (j : Fin 12) {s : State} (hs : Sound inv queue s) :
    Sound inv queue (loadComplete cd j s) := by
  unfold loadComplete
  repeat' with_reducible first
    | assumption | apply sound_setDie | apply p0_setTun | apply p0_endOp | apply sound_die | simp only [sound_update]
    | split

theorem gives_execLoadChargeComplete (cd : Cd) (j : Fin 12) {s : State} (hs : Sound inv queue s) :
    ∃ t, execLoadChargeComplete cd j s = .next t ∧ Sound inv queue t := by
  exact ⟨_, rfl, sound_loadComplete (hs := hs) ..⟩

theorem gives_execTunIdleExpire (cd : Cd) (j : Fin 12) {s : State} (hs : Sound inv queue s) :
    ∃ t, execTunIdleExpire cd j s = .next t ∧ Sound inv queue t := by
  refine ⟨_, rfl, ?_⟩
  repeat' with_reducible first | assumption | intro _ | apply sound_updDie | apply p0_setTun

theorem gives_execTunStartOffsetExpire (cd : Cd) (j : Fin 12) {s : State} (hs : Sound inv queue s) :
    ∃ t, execTunStartOffsetExpire cd j s = .next t ∧ Sound inv queue t := by
  refine ⟨_, rfl, ?_⟩
  repeat' with_reducible first | assumption | intro _ | apply p0_ite | apply sound_updDie | apply p0_setTun

theorem sound_tileLine {s : State} (cd : Cd) (t row c lo hi : Nat) (elems : Nat → X128) (bad : Bool) (hs : Sound inv queue s) :
    Sound inv queue (State.tileLine s cd t row c lo hi elems bad) := by
  unfold State.tileLine
  repeat' with_reducible first | assumption | apply sound_ite | apply sound_write | apply sound_poisonLine

theorem sound_tileRow {s : State} (cd : Cd) (t row lo hi : Nat) (elems : Nat → X128) (bad acc : Bool) (hs : Sound inv queue s) :
    Sound inv queue (State.tileRow s cd t row lo hi elems bad acc) := by
  unfold State.tileRow
  repeat' with_reducible first | assumption | intro _ | apply sound_ite | apply sound_tileLine | apply sound_foldl

theorem sound_summaryRow {s : State} (cd : Cd) (t row lo hi : Nat) (strict bad : Bool) (hs : Sound inv queue s) :
    Sound inv queue (State.summaryRow s cd t row lo hi strict bad) := by
  unfold State.summaryRow
  repeat' with_reducible first | assumption | apply sound_ite | apply sound_write | apply sound_poisonLine

theorem sound_retireTun {s : State} (cd : Cd) (j : Fin 12) (row : Nat) (hs : Sound inv queue s) :
    Sound inv queue (State.retireTun s cd j row) := by
  unfold State.retireTun
  repeat' with_reducible first
    | assumption | intro _ | apply sound_updDie | apply sound_log | apply sound_event | apply sound_depStatus
    | simp only [p0_update]

theorem sound_rowFailed {s : State} (cd : Cd) (j : Fin 12) (o : Op) (hs : Sound inv queue s) :
    Sound inv queue (State.rowFailed s cd j o) := by
  unfold State.rowFailed
  repeat' with_reducible first
    | assumption | apply sound_ite | apply sound_setDie | apply sound_log | apply p0_putOp | apply p0_setTun
    | apply sound_retireTun | apply sound_die

theorem sound_rowDone {s : State} (cd : Cd) (o : Op) (rows : Nat) (bad : Bool) (hs : Sound inv queue s) :
    Sound inv queue (State.rowDone s cd o rows bad) := by
  unfold State.rowDone
  repeat' with_reducible first | assumption | intro _ | apply p0_ite | apply sound_updDie | apply p0_putOp | apply p0_endOp

theorem sound_addRow {s : State} (cd : Cd) (o : Op) (hs : Sound inv queue s) :
    Sound inv queue (State.addRow s cd o) := by
  unfold State.addRow
  exact sound_tileRow (hs := hs) ..

theorem sound_rowVerdict (cd : Cd) (j : Fin 12) (fault : TunFault) {s : State} (hs : Sound inv queue s) :
    Sound inv queue (rowVerdict cd j fault s) := by
  unfold rowVerdict
  repeat' with_reducible first
    | assumption | intro _ | apply sound_setDie | apply sound_updDie | apply sound_write | apply p0_setTun
    | apply sound_tileRow | apply sound_summaryRow | apply sound_rowFailed | apply sound_rowDone | apply sound_addRow
    | apply sound_die | simp only [sound_update] | split

theorem gives_execTunRowVerdict (cd : Cd) (j : Fin 12) (fault : TunFault) {s : State} (hs : Sound inv queue s) :
    ∃ t, execTunRowVerdict cd j fault s = .next t ∧ Sound inv queue t := by
  exact ⟨_, rfl, sound_rowVerdict (hs := hs) ..⟩

theorem sound_tunComplete (cd : Cd) (j : Fin 12) {s : State} (hs : Sound inv queue s) :
    Sound inv queue (tunComplete cd j s) := by
  unfold tunComplete
  repeat' with_reducible first
    | assumption | apply sound_setDie | apply p0_finish | apply sound_sbDrop | apply sound_die
    | simp only [sound_update] | split

theorem gives_execTunOpComplete (cd : Cd) (j : Fin 12) {s : State} (hs : Sound inv queue s) :
    ∃ t, execTunOpComplete cd j s = .next t ∧ Sound inv queue t := by
  exact ⟨_, rfl, sound_tunComplete (hs := hs) ..⟩

theorem sound_remapTun (cd : Cd) (j : Fin 12) {s : State} (hs : Sound inv queue s) :
    Sound inv queue (remapTun cd j s) := by
  unfold remapTun
  repeat' with_reducible first
    | assumption | intro _ | apply sound_setDie | apply p0_fail | apply p0_finish | apply sound_sbDrop
    | apply sound_die | apply sound_foldl | apply p0_foldl | simp only [p0_update] | split

theorem gives_execSeqRemapTun (cd : Cd) (j : Fin 12) {s : State} (hs : Sound inv queue s) :
    ∃ t, execSeqRemapTun cd j s = .next t ∧ Sound inv queue t := by
  exact ⟨_, rfl, sound_remapTun (hs := hs) ..⟩

/-! ### Move -/

theorem sound_issueMove (cd : Cd) (w : IWord) (op : Nat) {s : State} (hs : Sound inv queue s) :
    Sound inv queue (issueMove cd w op s) := by
  unfold issueMove
  repeat' with_reducible first
    | assumption | intro _ | apply p0_ite | apply p0_advance | apply sound_issueAdmDie | apply p0_push
    | simp only [p0_update]

theorem gives_execCopy (cd : Cd) (w : IWord) {s : State} (hs : Sound inv queue s) :
    ∃ t, execCopy cd w s = .next t ∧ Sound inv queue t := by
  exact ⟨_, rfl, sound_issueMove (hs := hs) ..⟩

theorem gives_execPut (cd : Cd) (w : IWord) {s : State} (hs : Sound inv queue s) :
    ∃ t, execPut cd w s = .next t ∧ Sound inv queue t := by
  exact ⟨_, rfl, sound_issueMove (hs := hs) ..⟩

theorem gives_execGet (cd : Cd) (w : IWord) {s : State} (hs : Sound inv queue s) :
    ∃ t, execGet cd w s = .next t ∧ Sound inv queue t := by
  exact ⟨_, rfl, sound_issueMove (hs := hs) ..⟩

theorem sound_issueHelper (cd : Cd) (w : IWord) (op : Nat) (hand : Nat → State → State) {s : State}
    (hs : Sound inv queue s) (hhand : ∀ x u, Sound inv queue u → Sound inv queue (hand x u)) :
    Sound inv queue (issueHelper cd w op hand s) := by
  unfold issueHelper
  repeat' with_reducible first
    | assumption | intro _ | apply sound_ite | apply sound_setDie | apply p0_advance | apply sound_issueAdm
    | apply p0_push | apply sound_die | apply hhand | simp only [p0_update]

theorem gives_execHelperDma (cd : Cd) (w : IWord) {s : State} (hs : Sound inv queue s) :
    ∃ t, execHelperDma cd w s = .next t ∧ Sound inv queue t := by
  refine ⟨_, rfl, ?_⟩
  repeat' with_reducible first | assumption | intro _ | apply sound_queueMover | apply sound_issueHelper

theorem gives_execHelperCollective (cd : Cd) (w : IWord) {s : State} (hs : Sound inv queue s) :
    ∃ t, execHelperCollective cd w s = .next t ∧ Sound inv queue t := by
  refine ⟨_, rfl, ?_⟩
  repeat' with_reducible first | assumption | intro _ | apply sound_issueHelper

theorem gives_execHelperGrist (cd : Cd) (w : IWord) {s : State} (hs : Sound inv queue s) :
    ∃ t, execHelperGrist cd w s = .next t ∧ Sound inv queue t := by
  refine ⟨_, rfl, ?_⟩
  repeat' with_reducible first | assumption | intro _ | apply sound_issueHelper

theorem sound_helperComplete (cd : Cd) (id : Nat) {s : State} (hs : Sound inv queue s) :
    Sound inv queue (helperComplete cd id s) := by
  unfold helperComplete
  repeat' with_reducible first | assumption | intro _ | apply sound_updDie | apply p0_finish | split

theorem gives_execHelperComplete (cd : Cd) (id : Nat) {s : State} (hs : Sound inv queue s) :
    ∃ t, execHelperComplete cd id s = .next t ∧ Sound inv queue t := by
  exact ⟨_, rfl, sound_helperComplete (hs := hs) ..⟩

theorem sound_sendGets {s : State} (cd : Nat) (o : Op) (hs : Sound inv queue s) (fuel : Nat) :
    Sound inv queue (State.sendGets s cd o fuel) := by
  induction fuel generalizing s cd o with
  | zero =>
    unfold State.sendGets
    repeat' with_reducible first
      | assumption | intro _ | apply sound_ite | apply p0_ite | apply sound_updDie | apply p0_putOp
      | apply sound_sendFlow | apply sound_die | simp only [sound_update] | simp only [p0_update] | split
  | succ n ih =>
    unfold State.sendGets
    repeat' with_reducible first
      | assumption | apply ih | intro _ | apply sound_updDie | apply p0_putOp | apply sound_sendFlow | split

theorem sound_sendMove (cd : Cd) (o : Op) (host : HostData) {s : State} (hs : Sound inv queue s) :
    Sound inv queue (sendMove cd o host s) := by
  unfold sendMove
  repeat' with_reducible first
    | assumption | intro _ | apply sound_ite | apply sound_updDie | apply p0_putOp | apply sound_sendAll
    | apply sound_askHost | apply sound_sendGets | apply sound_foldl

theorem sound_movementStart (cd : Cd) (e : Fin 4) (host : HostData) {s : State} (hs : Sound inv queue s) :
    Sound inv queue (movementStart cd e host s) := by
  unfold movementStart
  repeat' with_reducible first
    | assumption | apply sound_ite | apply sound_setDie | apply p0_putOp | apply sound_sbMove | apply sound_sendMove
    | apply sound_die | split

theorem gives_execMovementStart (cd : Cd) (e : EngineTake) {s : State} (hs : Sound inv queue s) :
    ∃ t, execMovementStart cd e s = .next t ∧ Sound inv queue t := by
  exact ⟨_, rfl, sound_movementStart (hs := hs) ..⟩

theorem sound_endMove {s : State} (cd : Cd) (o : Op) (status : Nat) (hs : Sound inv queue s) :
    Sound inv queue (State.endMove s cd o status) := by
  unfold State.endMove
  repeat' with_reducible first | assumption | intro _ | apply sound_updDie | apply p0_finish | apply sound_sbDrop

theorem sound_movementComplete (cd : Cd) (id : Nat) (remote : Bool) (host : HostData) {s : State} (hs : Sound inv queue s) :
    Sound inv queue (movementComplete cd id remote host s) := by
  unfold movementComplete
  repeat' with_reducible first | assumption | apply sound_moveRows | apply sound_endMove | split

theorem gives_execMovementComplete (cd : Cd) (id : Nat) (remote : Bool) (host : HostData) (hostOk : Bool) {s : State}
    (hs : Sound inv queue s) :
    ∃ t, execMovementComplete cd id remote host hostOk s = .next t ∧ Sound inv queue t := by
  exact ⟨_, rfl, sound_movementComplete (hs := hs) ..⟩

/-! ### Delivery -/

theorem sound_takePut (p : Packet) {s : State} (hs : Sound inv queue s) :
    Sound inv queue (takePut p s) := by
  unfold takePut
  repeat' with_reducible first | assumption | apply sound_ite | apply sound_countReg | apply sound_landPut

theorem gives_execPutPacket (q : Fin 9) {s : State} (hs : Sound inv queue s) :
    ∃ t, execPutPacket q s = .next t ∧ Sound inv queue t := by
  refine ⟨_, rfl, ?_⟩
  repeat' with_reducible first | assumption | apply sound_takePacket | apply sound_takePut

theorem sound_getReplies {s : State} (p : Packet) (host : HostData) (hs : Sound inv queue s) :
    Sound inv queue (State.getReplies s p host).2 := by
  unfold State.getReplies
  repeat' with_reducible first | assumption | apply sound_ite | apply sound_freeBytes

theorem sound_answerGet (host : HostData) (p : Packet) {s : State} (hs : Sound inv queue s) :
    Sound inv queue (answerGet host p s) := by
  unfold answerGet
  repeat' with_reducible first
    | assumption | apply sound_ite | apply sound_sendAll | apply sound_askHost | apply sound_getReplies

theorem sound_takeGet (host : HostData) (p : Packet) {s : State} (hs : Sound inv queue s) :
    Sound inv queue (takeGet host p s) := by
  unfold takeGet
  repeat' with_reducible first | assumption | apply sound_ite | apply sound_answerGet | simp only [sound_update]

theorem sound_serveGets (host : HostData) {s : State} (hs : Sound inv queue s) :
    Sound inv queue (serveGets host s) := by
  unfold serveGets
  repeat' with_reducible first | assumption | intro _ | apply sound_takeGet | apply sound_foldl | simp only [sound_update]

theorem gives_execGetRequest (q : Fin 9) (host : HostData) (hostOk : Bool) {s : State} (hs : Sound inv queue s) :
    ∃ t, execGetRequest q host hostOk s = .next t ∧ Sound inv queue t := by
  refine ⟨_, rfl, ?_⟩
  repeat' with_reducible first | assumption | apply sound_takePacket | apply sound_takeGet | apply sound_serveGets

theorem sound_takeGetReply (p : Packet) {s : State} (hs : Sound inv queue s) :
    Sound inv queue (takeGetReply p s) := by
  unfold takeGetReply
  repeat' with_reducible first | assumption | apply sound_landPut | apply sound_sendGets | simp only [sound_update] | split

theorem gives_execGetReply (q : Fin 9) {s : State} (hs : Sound inv queue s) :
    ∃ t, execGetReply q s = .next t ∧ Sound inv queue t := by
  refine ⟨_, rfl, ?_⟩
  repeat' with_reducible first | assumption | apply sound_takePacket | apply sound_takeGetReply

theorem sound_takeAtomic (p : Packet) {s : State} (hs : Sound inv queue s) :
    Sound inv queue (takeAtomic p s) := by
  unfold takeAtomic
  repeat' with_reducible first | assumption | apply sound_ite | apply sound_atomReply | simp only [sound_update]

theorem gives_execAtomicRequest (q : Fin 9) {s : State} (hs : Sound inv queue s) :
    ∃ t, execAtomicRequest q s = .next t ∧ Sound inv queue t := by
  refine ⟨_, rfl, ?_⟩
  repeat' with_reducible first | assumption | apply sound_takePacket | apply sound_takeAtomic

theorem sound_takeAtomicReply (p : Packet) {s : State} (hs : Sound inv queue s) :
    Sound inv queue (takeAtomicReply p s) := by
  unfold takeAtomicReply
  repeat' with_reducible first | assumption | apply sound_finishOp | simp only [sound_update] | split

theorem gives_execAtomicReply (q : Fin 9) {s : State} (hs : Sound inv queue s) :
    ∃ t, execAtomicReply q s = .next t ∧ Sound inv queue t := by
  refine ⟨_, rfl, ?_⟩
  repeat' with_reducible first | assumption | apply sound_takePacket | apply sound_takeAtomicReply

theorem sound_ackOwner {s : State} (o : Owner) (hs : Sound inv queue s) :
    Sound inv queue (State.ackOwner s o) := by
  unfold State.ackOwner
  repeat' with_reducible first
    | assumption | intro _ | apply sound_updDie | apply p0_putOp | apply sound_cellarAck | apply sound_collAck | split

theorem sound_failOwner {s : State} (o : Owner) (hs : Sound inv queue s) :
    Sound inv queue (State.failOwner s o) := by
  unfold State.failOwner
  repeat' with_reducible first
    | assumption | intro _ | apply sound_updDie | apply p0_putOp | apply sound_finishOp | apply sound_cellarFail
    | apply sound_collFail | apply sound_gristFail | simp only [sound_update] | split

theorem sound_refill {s : State} (dst flow : Nat) (hs : Sound inv queue s) (fuel : Nat) :
    Sound inv queue (State.refill s dst flow fuel) := by
  induction fuel generalizing s dst flow with
  | zero =>
    unfold State.refill
    repeat' with_reducible first
      | assumption | intro _ | apply sound_ite | apply p0_ite | apply sound_inject | simp only [sound_update]
      | simp only [p0_update] | split
  | succ n ih =>
    unfold State.refill
    repeat' with_reducible first | assumption | apply ih | apply sound_inject | simp only [sound_update] | split

theorem sound_refillAll {s : State} (bd : Fin 4) (hs : Sound inv queue s) :
    Sound inv queue (State.refillAll s bd) := by
  unfold State.refillAll
  repeat' with_reducible first | assumption | intro _ | apply sound_refill | apply sound_foldl

theorem sound_failFlow {s : State} (dst flow : Nat) (hs : Sound inv queue s) :
    Sound inv queue (State.failFlow s dst flow) := by
  unfold State.failFlow
  repeat' with_reducible first
    | assumption | apply sound_countReg | apply sound_log | apply sound_fabEvent | apply sound_failOwner
    | apply sound_refillAll | apply sound_foldl | simp only [sound_update] | split

theorem sound_takeRecord {s : State} (peer : Nat) (b : List Byte) (hs : Sound inv queue s) :
    Sound inv queue (State.takeRecord s peer b) := by
  unfold State.takeRecord
  repeat' with_reducible first
    | assumption | intro _ | apply sound_ackOwner | apply sound_refillAll | apply sound_failFlow | apply sound_foldl
    | simp only [sound_update] | split

theorem sound_takeAck (p : Packet) {s : State} (hs : Sound inv queue s) :
    Sound inv queue (takeAck p s) := by
  unfold takeAck
  repeat' with_reducible first | assumption | intro _ | apply sound_takeRecord | apply sound_foldl

theorem gives_execAckPacket (q : Fin 9) {s : State} (hs : Sound inv queue s) :
    ∃ t, execAckPacket q s = .next t ∧ Sound inv queue t := by
  refine ⟨_, rfl, ?_⟩
  repeat' with_reducible first | assumption | apply sound_takePacket | apply sound_takeAck

theorem sound_ackDelay (src flow : Nat) {s : State} (hs : Sound inv queue s) :
    Sound inv queue (ackDelay src flow s) := by
  unfold ackDelay
  repeat' with_reducible first | assumption | apply sound_sendAck | apply sound_putRx | simp only [sound_update] | split

theorem gives_execAckDelayExpire (src flow : Nat) {s : State} (hs : Sound inv queue s) :
    ∃ t, execAckDelayExpire src flow s = .next t ∧ Sound inv queue t := by
  exact ⟨_, rfl, sound_ackDelay (hs := hs) ..⟩

theorem sound_retransmit (dst flow seq : Nat) {s : State} (hs : Sound inv queue s) :
    Sound inv queue (retransmit dst flow seq s) := by
  unfold retransmit
  repeat' with_reducible first
    | assumption | apply sound_countReg | apply sound_inject | apply sound_failFlow | simp only [sound_update] | split

theorem gives_execRetransmitTimeout (dst flow seq : Nat) {s : State} (hs : Sound inv queue s) :
    ∃ t, execRetransmitTimeout dst flow seq s = .next t ∧ Sound inv queue t := by
  exact ⟨_, rfl, sound_retransmit (hs := hs) ..⟩

theorem sound_senderIdle (dst flow : Nat) {s : State} (hs : Sound inv queue s) :
    Sound inv queue (senderIdle dst flow s) := by
  unfold senderIdle
  repeat' with_reducible first | assumption | simp only [sound_update] | split

theorem gives_execSenderFlowIdle (dst flow : Nat) {s : State} (hs : Sound inv queue s) :
    ∃ t, execSenderFlowIdle dst flow s = .next t ∧ Sound inv queue t := by
  exact ⟨_, rfl, sound_senderIdle (hs := hs) ..⟩

theorem sound_receiverIdle (src flow : Nat) {s : State} (hs : Sound inv queue s) :
    Sound inv queue (receiverIdle src flow s) := by
  unfold receiverIdle
  exact sound_update.mpr hs

theorem gives_execReceiverFlowIdle (src flow : Nat) {s : State} (hs : Sound inv queue s) :
    ∃ t, execReceiverFlowIdle src flow s = .next t ∧ Sound inv queue t := by
  refine ⟨_, rfl, ?_⟩
  exact sound_update.mpr hs

theorem sound_fabRdCtrlWrite (v : Nat) {s : State} (hs : Sound inv queue s) :
    Sound inv queue (fabRdCtrlWrite v s) := by
  unfold fabRdCtrlWrite
  repeat' with_reducible first | assumption | apply sound_ite | apply sound_setReg | apply sound_orReg | split

theorem gives_execFabRdCtrlWrite (v : Nat) {s : State} (hs : Sound inv queue s) :
    ∃ t, execFabRdCtrlWrite v s = .next t ∧ Sound inv queue t := by
  exact ⟨_, rfl, sound_fabRdCtrlWrite (hs := hs) ..⟩

theorem sound_memLayoutWrite (off v : Nat) {s : State} (hs : Sound inv queue s) :
    Sound inv queue (memLayoutWrite off v s) := by
  unfold memLayoutWrite
  repeat' with_reducible first | assumption | apply sound_ite | apply sound_setReg | apply sound_orReg

theorem gives_execMemLayoutWrite (off v : Nat) {s : State} (hs : Sound inv queue s) :
    ∃ t, execMemLayoutWrite off v s = .next t ∧ Sound inv queue t := by
  exact ⟨_, rfl, sound_memLayoutWrite (hs := hs) ..⟩

/-! ### Sparge -/

theorem sound_issueVec (cd : Cd) (w : IWord) (op : Nat) {s : State} (hs : Sound inv queue s) :
    Sound inv queue (issueVec cd w op s) := by
  unfold issueVec
  repeat' with_reducible first
    | assumption | intro _ | apply p0_ite | apply p0_fail | apply p0_advance | apply sound_issueAdmDie | apply p0_push
    | simp only [p0_update]

theorem gives_execSpargeConv (cd : Cd) (w : IWord) {s : State} (hs : Sound inv queue s) :
    ∃ t, execSpargeConv cd w s = .next t ∧ Sound inv queue t := by
  exact ⟨_, rfl, sound_issueVec (hs := hs) ..⟩

theorem gives_execSpargeAdd (cd : Cd) (w : IWord) {s : State} (hs : Sound inv queue s) :
    ∃ t, execSpargeAdd cd w s = .next t ∧ Sound inv queue t := by
  exact ⟨_, rfl, sound_issueVec (hs := hs) ..⟩

theorem gives_execSpargeSub (cd : Cd) (w : IWord) {s : State} (hs : Sound inv queue s) :
    ∃ t, execSpargeSub cd w s = .next t ∧ Sound inv queue t := by
  exact ⟨_, rfl, sound_issueVec (hs := hs) ..⟩

theorem gives_execSpargeMul (cd : Cd) (w : IWord) {s : State} (hs : Sound inv queue s) :
    ∃ t, execSpargeMul cd w s = .next t ∧ Sound inv queue t := by
  exact ⟨_, rfl, sound_issueVec (hs := hs) ..⟩

theorem gives_execSpargeFma (cd : Cd) (w : IWord) {s : State} (hs : Sound inv queue s) :
    ∃ t, execSpargeFma cd w s = .next t ∧ Sound inv queue t := by
  exact ⟨_, rfl, sound_issueVec (hs := hs) ..⟩

theorem gives_execSpargeMin (cd : Cd) (w : IWord) {s : State} (hs : Sound inv queue s) :
    ∃ t, execSpargeMin cd w s = .next t ∧ Sound inv queue t := by
  exact ⟨_, rfl, sound_issueVec (hs := hs) ..⟩

theorem gives_execSpargeMax (cd : Cd) (w : IWord) {s : State} (hs : Sound inv queue s) :
    ∃ t, execSpargeMax cd w s = .next t ∧ Sound inv queue t := by
  exact ⟨_, rfl, sound_issueVec (hs := hs) ..⟩

theorem gives_execSpargeAbs (cd : Cd) (w : IWord) {s : State} (hs : Sound inv queue s) :
    ∃ t, execSpargeAbs cd w s = .next t ∧ Sound inv queue t := by
  exact ⟨_, rfl, sound_issueVec (hs := hs) ..⟩

theorem gives_execSpargeNeg (cd : Cd) (w : IWord) {s : State} (hs : Sound inv queue s) :
    ∃ t, execSpargeNeg cd w s = .next t ∧ Sound inv queue t := by
  exact ⟨_, rfl, sound_issueVec (hs := hs) ..⟩

theorem gives_execSpargeClamp (cd : Cd) (w : IWord) {s : State} (hs : Sound inv queue s) :
    ∃ t, execSpargeClamp cd w s = .next t ∧ Sound inv queue t := by
  exact ⟨_, rfl, sound_issueVec (hs := hs) ..⟩

theorem gives_execSpargeSelect (cd : Cd) (w : IWord) {s : State} (hs : Sound inv queue s) :
    ∃ t, execSpargeSelect cd w s = .next t ∧ Sound inv queue t := by
  exact ⟨_, rfl, sound_issueVec (hs := hs) ..⟩

theorem gives_execSpargeCmpGt (cd : Cd) (w : IWord) {s : State} (hs : Sound inv queue s) :
    ∃ t, execSpargeCmpGt cd w s = .next t ∧ Sound inv queue t := by
  exact ⟨_, rfl, sound_issueVec (hs := hs) ..⟩

theorem gives_execSpargeCmpGe (cd : Cd) (w : IWord) {s : State} (hs : Sound inv queue s) :
    ∃ t, execSpargeCmpGe cd w s = .next t ∧ Sound inv queue t := by
  exact ⟨_, rfl, sound_issueVec (hs := hs) ..⟩

theorem gives_execSpargeCmpEq (cd : Cd) (w : IWord) {s : State} (hs : Sound inv queue s) :
    ∃ t, execSpargeCmpEq cd w s = .next t ∧ Sound inv queue t := by
  exact ⟨_, rfl, sound_issueVec (hs := hs) ..⟩

theorem gives_execIadd (cd : Cd) (w : IWord) {s : State} (hs : Sound inv queue s) :
    ∃ t, execIadd cd w s = .next t ∧ Sound inv queue t := by
  exact ⟨_, rfl, sound_issueVec (hs := hs) ..⟩

theorem gives_execIsub (cd : Cd) (w : IWord) {s : State} (hs : Sound inv queue s) :
    ∃ t, execIsub cd w s = .next t ∧ Sound inv queue t := by
  exact ⟨_, rfl, sound_issueVec (hs := hs) ..⟩

theorem gives_execImul (cd : Cd) (w : IWord) {s : State} (hs : Sound inv queue s) :
    ∃ t, execImul cd w s = .next t ∧ Sound inv queue t := by
  exact ⟨_, rfl, sound_issueVec (hs := hs) ..⟩

theorem gives_execIand (cd : Cd) (w : IWord) {s : State} (hs : Sound inv queue s) :
    ∃ t, execIand cd w s = .next t ∧ Sound inv queue t := by
  exact ⟨_, rfl, sound_issueVec (hs := hs) ..⟩

theorem gives_execIor (cd : Cd) (w : IWord) {s : State} (hs : Sound inv queue s) :
    ∃ t, execIor cd w s = .next t ∧ Sound inv queue t := by
  exact ⟨_, rfl, sound_issueVec (hs := hs) ..⟩

theorem gives_execIxor (cd : Cd) (w : IWord) {s : State} (hs : Sound inv queue s) :
    ∃ t, execIxor cd w s = .next t ∧ Sound inv queue t := by
  exact ⟨_, rfl, sound_issueVec (hs := hs) ..⟩

theorem gives_execIshl (cd : Cd) (w : IWord) {s : State} (hs : Sound inv queue s) :
    ∃ t, execIshl cd w s = .next t ∧ Sound inv queue t := by
  exact ⟨_, rfl, sound_issueVec (hs := hs) ..⟩

theorem gives_execIshr (cd : Cd) (w : IWord) {s : State} (hs : Sound inv queue s) :
    ∃ t, execIshr cd w s = .next t ∧ Sound inv queue t := by
  exact ⟨_, rfl, sound_issueVec (hs := hs) ..⟩

theorem gives_execRecip (cd : Cd) (w : IWord) {s : State} (hs : Sound inv queue s) :
    ∃ t, execRecip cd w s = .next t ∧ Sound inv queue t := by
  exact ⟨_, rfl, sound_issueVec (hs := hs) ..⟩

theorem gives_execDiv (cd : Cd) (w : IWord) {s : State} (hs : Sound inv queue s) :
    ∃ t, execDiv cd w s = .next t ∧ Sound inv queue t := by
  exact ⟨_, rfl, sound_issueVec (hs := hs) ..⟩

theorem gives_execSqrt (cd : Cd) (w : IWord) {s : State} (hs : Sound inv queue s) :
    ∃ t, execSqrt cd w s = .next t ∧ Sound inv queue t := by
  exact ⟨_, rfl, sound_issueVec (hs := hs) ..⟩

theorem gives_execRsqrt (cd : Cd) (w : IWord) {s : State} (hs : Sound inv queue s) :
    ∃ t, execRsqrt cd w s = .next t ∧ Sound inv queue t := by
  exact ⟨_, rfl, sound_issueVec (hs := hs) ..⟩

theorem gives_execExp (cd : Cd) (w : IWord) {s : State} (hs : Sound inv queue s) :
    ∃ t, execExp cd w s = .next t ∧ Sound inv queue t := by
  exact ⟨_, rfl, sound_issueVec (hs := hs) ..⟩

theorem gives_execExp2 (cd : Cd) (w : IWord) {s : State} (hs : Sound inv queue s) :
    ∃ t, execExp2 cd w s = .next t ∧ Sound inv queue t := by
  exact ⟨_, rfl, sound_issueVec (hs := hs) ..⟩

theorem gives_execLog (cd : Cd) (w : IWord) {s : State} (hs : Sound inv queue s) :
    ∃ t, execLog cd w s = .next t ∧ Sound inv queue t := by
  exact ⟨_, rfl, sound_issueVec (hs := hs) ..⟩

theorem gives_execLog2 (cd : Cd) (w : IWord) {s : State} (hs : Sound inv queue s) :
    ∃ t, execLog2 cd w s = .next t ∧ Sound inv queue t := by
  exact ⟨_, rfl, sound_issueVec (hs := hs) ..⟩

theorem gives_execTanh (cd : Cd) (w : IWord) {s : State} (hs : Sound inv queue s) :
    ∃ t, execTanh cd w s = .next t ∧ Sound inv queue t := by
  exact ⟨_, rfl, sound_issueVec (hs := hs) ..⟩

theorem gives_execSigmoid (cd : Cd) (w : IWord) {s : State} (hs : Sound inv queue s) :
    ∃ t, execSigmoid cd w s = .next t ∧ Sound inv queue t := by
  exact ⟨_, rfl, sound_issueVec (hs := hs) ..⟩

theorem gives_execErf (cd : Cd) (w : IWord) {s : State} (hs : Sound inv queue s) :
    ∃ t, execErf cd w s = .next t ∧ Sound inv queue t := by
  exact ⟨_, rfl, sound_issueVec (hs := hs) ..⟩

theorem gives_execSin (cd : Cd) (w : IWord) {s : State} (hs : Sound inv queue s) :
    ∃ t, execSin cd w s = .next t ∧ Sound inv queue t := by
  exact ⟨_, rfl, sound_issueVec (hs := hs) ..⟩

theorem gives_execCos (cd : Cd) (w : IWord) {s : State} (hs : Sound inv queue s) :
    ∃ t, execCos cd w s = .next t ∧ Sound inv queue t := by
  exact ⟨_, rfl, sound_issueVec (hs := hs) ..⟩

theorem gives_execRowSum (cd : Cd) (w : IWord) {s : State} (hs : Sound inv queue s) :
    ∃ t, execRowSum cd w s = .next t ∧ Sound inv queue t := by
  exact ⟨_, rfl, sound_issueVec (hs := hs) ..⟩

theorem gives_execRowMax (cd : Cd) (w : IWord) {s : State} (hs : Sound inv queue s) :
    ∃ t, execRowMax cd w s = .next t ∧ Sound inv queue t := by
  exact ⟨_, rfl, sound_issueVec (hs := hs) ..⟩

theorem gives_execRowMin (cd : Cd) (w : IWord) {s : State} (hs : Sound inv queue s) :
    ∃ t, execRowMin cd w s = .next t ∧ Sound inv queue t := by
  exact ⟨_, rfl, sound_issueVec (hs := hs) ..⟩

theorem gives_execColSum (cd : Cd) (w : IWord) {s : State} (hs : Sound inv queue s) :
    ∃ t, execColSum cd w s = .next t ∧ Sound inv queue t := by
  exact ⟨_, rfl, sound_issueVec (hs := hs) ..⟩

theorem gives_execColMax (cd : Cd) (w : IWord) {s : State} (hs : Sound inv queue s) :
    ∃ t, execColMax cd w s = .next t ∧ Sound inv queue t := by
  exact ⟨_, rfl, sound_issueVec (hs := hs) ..⟩

theorem gives_execS64Add (cd : Cd) (w : IWord) {s : State} (hs : Sound inv queue s) :
    ∃ t, execS64Add cd w s = .next t ∧ Sound inv queue t := by
  exact ⟨_, rfl, sound_issueVec (hs := hs) ..⟩

theorem p0_takeTiles {d : Die} (o : Op) (hs : P0 inv d) :
    P0 inv (Die.takeTiles d o) := by
  unfold Die.takeTiles
  repeat' with_reducible first | assumption | apply p0_ite | simp only [p0_update]

theorem sound_putPiece {s : State} (cd : Cd) (o : Op) (r : Nat) (p : Piece) (hs : Sound inv queue s) :
    Sound inv queue (State.putPiece s cd o r p) := by
  unfold State.putPiece
  repeat' with_reducible first | assumption | apply sound_ite | apply sound_putBytes

theorem sound_Stream.from (t : Stream) {s0 s : State} (hs : Sound inv queue s0) (hs : Sound inv queue s) :
    Sound inv queue (Stream.from t s0 s) := by
  unfold Stream.from
  repeat' with_reducible first | assumption | apply sound_ite

theorem sound_Work.put {k : Work} (cd : Cd) (o : Op) (r : Nat) (ps : List Piece) (hs : Sound inv queue k.st) :
    Sound inv queue (Work.put k cd o r ps).st := by
  unfold Work.put
  repeat' with_reducible first | assumption | intro _ | apply sound_putPiece | apply sound_work_foldl

theorem sound_Work.take {k : Work} (cd : Cd) (o : Op) (r : Nat) (ps : Option (List Piece)) (f : List Piece → List Piece)
    (hs : Sound inv queue k.st) :
    Sound inv queue (Work.take k cd o r ps f).st := by
  unfold Work.take
  repeat' with_reducible first | assumption | apply sound_Work.put | split

theorem sound_vecRun {s : State} (cd : Cd) (o : Op) (sum : Summary) (upto : Nat) (hs : Sound inv queue s) :
    Sound inv queue (State.vecRun s cd o sum upto).st := by
  unfold State.vecRun
  repeat' with_reducible first
    | assumption | intro _ | apply sound_Work.take | apply sound_work_foldl | simp only [sound_update] | split

theorem p0_setSpu {d : Die} (u : Fin 12) (x : Sparge) (hs : P0 inv d) :
    P0 inv (Die.setSpu d u x) := by
  unfold Die.setSpu
  exact p0_update.mpr hs

theorem sound_spargeStart (cd : Cd) (u : Fin 12) {s : State} (hs : Sound inv queue s) :
    Sound inv queue (spargeStart cd u s) := by
  unfold spargeStart
  repeat' with_reducible first
    | assumption | apply sound_setDie | apply p0_putOp | apply p0_takeTiles | apply sound_die | simp only [p0_update]
    | split

theorem gives_execSpargeStart (cd : Cd) (u : Fin 12) {s : State} (hs : Sound inv queue s) :
    ∃ t, execSpargeStart cd u s = .next t ∧ Sound inv queue t := by
  exact ⟨_, rfl, sound_spargeStart (hs := hs) ..⟩

theorem sound_vecKeep {k : Work} (cd : Cd) (u : Fin 12) (o : Op) (hs : Sound inv queue k.st) :
    Sound inv queue (State.vecKeep k cd u o) := by
  unfold State.vecKeep
  repeat' with_reducible first
    | assumption | intro _ | apply sound_updDie | apply p0_putOp | apply p0_setSpu | simp only [p0_update]

theorem sound_retireVec {s : State} (cd : Cd) (u : Fin 12) (row : Nat) (hs : Sound inv queue s) :
    Sound inv queue (State.retireVec s cd u row) := by
  unfold State.retireVec
  repeat' with_reducible first
    | assumption | intro _ | apply sound_updDie | apply sound_log | apply sound_event | apply sound_depStatus
    | simp only [p0_update]

theorem sound_spargeFail (cd : Cd) (u : Fin 12) (row : Nat) {s : State} (hs : Sound inv queue s) :
    Sound inv queue (spargeFail cd u row s) := by
  unfold spargeFail
  repeat' with_reducible first
    | assumption | intro _ | apply sound_updDie | apply sound_log | apply sound_vecRun | apply p0_setSpu
    | apply sound_vecKeep | apply sound_retireVec | simp only [sound_update] | split

theorem gives_execSpargeCheckFail (cd : Cd) (u : Fin 12) (row : Nat) {s : State} (hs : Sound inv queue s) :
    ∃ t, execSpargeCheckFail cd u row s = .next t ∧ Sound inv queue t := by
  exact ⟨_, rfl, sound_spargeFail (hs := hs) ..⟩

theorem sound_spargeComplete (cd : Cd) (u : Fin 12) {s : State} (hs : Sound inv queue s) :
    Sound inv queue (spargeComplete cd u s) := by
  unfold spargeComplete
  repeat' with_reducible first
    | assumption | intro _ | apply sound_setDie | apply sound_updDie | apply p0_finish | apply sound_vecRun
    | apply sound_vecKeep | apply sound_die | simp only [p0_update] | split

theorem gives_execSpargeComplete (cd : Cd) (u : Fin 12) {s : State} (hs : Sound inv queue s) :
    ∃ t, execSpargeComplete cd u s = .next t ∧ Sound inv queue t := by
  exact ⟨_, rfl, sound_spargeComplete (hs := hs) ..⟩

theorem sound_slotUpdate (cd : Cd) (u : Fin 12) {s : State} (hs : Sound inv queue s) :
    Sound inv queue (slotUpdate cd u s) := by
  unfold slotUpdate
  repeat' with_reducible first
    | assumption | apply sound_setDie | apply p0_finish | apply sound_die | simp only [p0_update] | split

theorem gives_execSummarySlotUpdate (cd : Cd) (u : Fin 12) {s : State} (hs : Sound inv queue s) :
    ∃ t, execSummarySlotUpdate cd u s = .next t ∧ Sound inv queue t := by
  exact ⟨_, rfl, sound_slotUpdate (hs := hs) ..⟩

theorem sound_remapVec (cd : Cd) (u : Fin 12) {s : State} (hs : Sound inv queue s) :
    Sound inv queue (remapVec cd u s) := by
  unfold remapVec
  repeat' with_reducible first
    | assumption | intro _ | apply sound_setDie | apply p0_fail | apply p0_finish | apply sound_die | apply p0_foldl
    | simp only [p0_update] | split

theorem gives_execSeqRemapSparge (cd : Cd) (u : Fin 12) {s : State} (hs : Sound inv queue s) :
    ∃ t, execSeqRemapSparge cd u s = .next t ∧ Sound inv queue t := by
  exact ⟨_, rfl, sound_remapVec (hs := hs) ..⟩

/-! ### Dependability -/

theorem sound_lostFlag {s : State} (hs : Sound inv queue s) :
    Sound inv queue (State.lostFlag s) := by
  unfold State.lostFlag
  exact sound_atomic (hs := hs) ..

theorem sound_lostAdd (coord : Nat) {s : State} (hs : Sound inv queue s) :
    Sound inv queue (lostAdd coord s) := by
  unfold lostAdd
  repeat' with_reducible first
    | assumption | apply sound_ite | apply sound_setReg | apply sound_orReg | apply sound_write | apply sound_abortAll
    | apply sound_lostFlag

theorem gives_execLostAdd (coord : Nat) {s : State} (hs : Sound inv queue s) :
    ∃ t, execLostAdd coord s = .next t ∧ Sound inv queue t := by
  exact ⟨_, rfl, sound_lostAdd (hs := hs) ..⟩

theorem sound_lostRemove (coord : Nat) {s : State} (hs : Sound inv queue s) :
    Sound inv queue (lostRemove coord s) := by
  unfold lostRemove
  repeat' with_reducible first | assumption | apply sound_ite | apply sound_setReg | apply sound_write | apply sound_lostFlag

theorem gives_execLostRemove (coord : Nat) {s : State} (hs : Sound inv queue s) :
    ∃ t, execLostRemove coord s = .next t ∧ Sound inv queue t := by
  exact ⟨_, rfl, sound_lostRemove (hs := hs) ..⟩

theorem gives_execLostClear {s : State} (hs : Sound inv queue s) :
    ∃ t, execLostClear s = .next t ∧ Sound inv queue t := by
  refine ⟨_, rfl, ?_⟩
  repeat' with_reducible first | assumption | apply sound_ite | apply sound_setReg | apply sound_lostFlag

theorem sound_freeChoice {s : State} (hs : Sound inv queue s) :
    Sound inv queue (State.freeChoice s).2 := by
  unfold State.freeChoice
  exact sound_update.mpr hs

theorem sound_freeRange {s : State} (a n : Nat) (hs : Sound inv queue s) :
    Sound inv queue (State.freeRange s a n) := by
  unfold State.freeRange
  repeat' with_reducible first | assumption | apply sound_write | apply sound_freeBytes

theorem sound_maybeLines {s : State} (wins : List Nat) (src dst n : Nat) (hs : Sound inv queue s) (fuel : Nat) :
    Sound inv queue (State.maybeLines s wins src dst n fuel) := by
  induction fuel generalizing s wins src dst n with
  | zero =>
    unfold State.maybeLines
    repeat' with_reducible first
      | assumption | intro _ | apply sound_ite | apply p0_ite | apply sound_freeBytes | apply sound_putChunk
      | apply sound_freeChoice | simp only [sound_update] | simp only [p0_update] | split
  | succ n ih =>
    unfold State.maybeLines
    repeat' with_reducible first
      | assumption | apply ih | apply sound_ite | apply sound_freeBytes | apply sound_putChunk
      | apply sound_freeChoice

theorem sound_maybeCopy {s : State} (o : Op) (hs : Sound inv queue s) :
    Sound inv queue (State.maybeCopy s o) := by
  unfold State.maybeCopy
  repeat' with_reducible first | assumption | intro _ | apply sound_maybeLines | apply sound_foldl

theorem sound_maybeTile {s : State} (cd : Cd) (o : Op) (hs : Sound inv queue s) :
    Sound inv queue (State.maybeTile s cd o) := by
  unfold State.maybeTile
  repeat' with_reducible first | assumption | intro _ | apply sound_ite | apply sound_freeRange | apply sound_foldl

theorem sound_maybeVec {s : State} (cd : Cd) (o : Op) (hs : Sound inv queue s) :
    Sound inv queue (State.maybeVec s cd o) := by
  unfold State.maybeVec
  repeat' with_reducible first | assumption | intro _ | apply sound_ite | apply sound_freeRange | apply sound_foldl

theorem sound_maybeOp (cd : Cd) {s : State} (o : Op) (hs : Sound inv queue s) :
    Sound inv queue (State.maybeOp cd s o) := by
  unfold State.maybeOp
  repeat' with_reducible first
    | assumption | apply sound_ite | apply sound_maybeCopy | apply sound_maybeTile | apply sound_maybeVec

theorem sound_maybeAtomics {s : State} (cd : Nat) (hs : Sound inv queue s) (fuel : List HomeReq) :
    Sound inv queue (State.maybeAtomics s cd fuel).1 := by
  induction fuel generalizing s cd with
  | nil =>
    unfold State.maybeAtomics
    repeat' with_reducible first
      | assumption | intro _ | apply sound_ite | apply p0_ite | apply sound_freeChoice | simp only [sound_update]
      | simp only [p0_update] | split
  | cons x l ih =>
    unfold State.maybeAtomics
    repeat' with_reducible first | assumption | apply ih | apply sound_freeChoice | split

theorem sound_maybeStore {s : State} (cd : Cd) (hs : Sound inv queue s) :
    Sound inv queue (State.maybeStore s cd) := by
  unfold State.maybeStore
  repeat' with_reducible first
    | assumption | apply sound_ite | apply sound_write | apply sound_emit | apply sound_freeChoice | split

theorem sound_fence {s : State} (cd : Cd) (cause : Nat) (hs : Sound inv queue s) :
    Sound inv queue (State.fence s cd cause) := by
  unfold State.fence
  repeat' with_reducible first
    | assumption | intro _ | apply sound_setDie | apply p0_off | apply sound_log | apply sound_event
    | apply sound_complete | apply sound_depStatus | apply p0_finish | apply sound_setHafDie | apply sound_sbDrop
    | apply sound_maybeOp | apply sound_maybeAtomics | apply sound_maybeStore | apply sound_die | apply sound_foldl
    | apply p0_foldl | simp only [sound_update] | split

theorem sound_fenceLink {s : State} (k cause : Nat) (hs : Sound inv queue s) :
    Sound inv queue (State.fenceLink s k cause) := by
  unfold State.fenceLink
  repeat' with_reducible first
    | assumption | apply sound_ite | apply sound_event | apply sound_setHafDie | apply sound_portDown
    | simp only [sound_update]

theorem sound_deviceLoss {s : State} (die cause : Nat) (hs : Sound inv queue s) :
    Sound inv queue (State.deviceLoss s die cause) := by
  unfold State.deviceLoss
  repeat' with_reducible first | assumption | apply sound_deviceFail | apply sound_event

theorem sound_clockLoss (die : Nat) {s : State} (hs : Sound inv queue s) :
    Sound inv queue (clockLoss die s) := by
  unfold clockLoss
  repeat' with_reducible first | assumption | apply sound_fence | apply sound_fenceLink | apply sound_deviceLoss | split

theorem gives_execClockLoss (die : Nat) {s : State} (hs : Sound inv queue s) :
    ∃ t, execClockLoss die s = .next t ∧ Sound inv queue t := by
  exact ⟨_, rfl, sound_clockLoss (hs := hs) ..⟩

theorem gives_execComputeDieReset (cd : Cd) {s : State} (hs : Sound inv queue s) :
    ∃ t, execComputeDieReset cd s = .next t ∧ Sound inv queue t := by
  refine ⟨_, rfl, ?_⟩
  repeat' with_reducible first | assumption | apply sound_ite | apply sound_fence

theorem sound_logWrite {s : State} (hs : Sound inv queue s) :
    Sound inv queue (logWrite s) := by
  unfold logWrite
  repeat' with_reducible first
    | assumption | apply sound_orReg | apply sound_countReg | apply sound_write | simp only [sound_update] | split

theorem gives_execLogWrite {s : State} (hs : Sound inv queue s) :
    ∃ t, execLogWrite s = .next t ∧ Sound inv queue t := by
  exact ⟨_, rfl, sound_logWrite (hs := hs) ..⟩

theorem sound_watchdogRestart {s : State} (hs : Sound inv queue s) :
    Sound inv queue (watchdogRestart s) := by
  unfold watchdogRestart
  repeat' with_reducible first | assumption | apply sound_ite | apply sound_updDep

theorem gives_execWatchdogRestart {s : State} (hs : Sound inv queue s) :
    ∃ t, execWatchdogRestart s = .next t ∧ Sound inv queue t := by
  exact ⟨_, rfl, sound_watchdogRestart (hs := hs) ..⟩

theorem sound_wdogExpire {s : State} (hs : Sound inv queue s) :
    Sound inv queue (State.wdogExpire s) := by
  unfold State.wdogExpire
  repeat' with_reducible first | assumption | apply sound_ite | apply sound_event | apply sound_depStatus | apply sound_updDep

/-! ### Energy -/

theorem sound_updLed {s : State} (f : LedSt → LedSt) (hs : Sound inv queue s) :
    Sound inv queue (State.updLed s f) := by
  unfold State.updLed
  exact sound_update.mpr hs

theorem sound_measureQuad {s : State} (k : Fin 4) (hs : Sound inv queue s) :
    Sound inv queue (State.measureQuad s k) := by
  unfold State.measureQuad
  exact sound_update.mpr hs

theorem sound_railTick {s : State} (k : Fin 4) (r : Nat) (hs : Sound inv queue s) :
    Sound inv queue (State.railTick s k r) := by
  unfold State.railTick
  exact sound_update.mpr hs

theorem sound_readTemps {s : State} (temps : Readings) (hs : Sound inv queue s) :
    Sound inv queue (State.readTemps s temps) := by
  unfold State.readTemps
  repeat' with_reducible first | assumption | apply sound_setReg | apply sound_updLed

theorem sound_creditQuad {s : State} (k : Fin 4) (hs : Sound inv queue s) :
    Sound inv queue (State.creditQuad s k) := by
  unfold State.creditQuad
  repeat' with_reducible first | assumption | intro _ | apply sound_updLed | apply sound_foldl

theorem sound_throttleEvent {s : State} (r dur : Nat) (hs : Sound inv queue s) :
    Sound inv queue (State.throttleEvent s r dur) := by
  unfold State.throttleEvent
  exact sound_event (hs := hs) ..

theorem sound_endEpisode {s : State} (e : Episode) (hs : Sound inv queue s) :
    Sound inv queue (State.endEpisode s e) := by
  unfold State.endEpisode
  repeat' with_reducible first | assumption | apply sound_updLed | apply sound_throttleEvent

theorem sound_actTick {s : State} (r : Nat) (hs : Sound inv queue s) :
    Sound inv queue (State.actTick s r) := by
  unfold State.actTick
  repeat' with_reducible first
    | assumption | apply sound_orReg | apply sound_countReg | apply sound_updLed | apply sound_throttleEvent
    | apply sound_endEpisode | simp only [sound_update] | split

theorem sound_throttleEpisodeEnd (r : Nat) {s : State} (hs : Sound inv queue s) :
    Sound inv queue (throttleEpisodeEnd r s) := by
  unfold throttleEpisodeEnd
  repeat' with_reducible first | assumption | apply sound_endEpisode | split

theorem gives_execThrottleEpisodeEnd (r : Nat) {s : State} (hs : Sound inv queue s) :
    ∃ t, execThrottleEpisodeEnd r s = .next t ∧ Sound inv queue t := by
  exact ⟨_, rfl, sound_throttleEpisodeEnd (hs := hs) ..⟩

theorem sound_ledgerTick (temps : Readings) {s : State} (hs : Sound inv queue s) :
    Sound inv queue (ledgerTick temps s) := by
  unfold ledgerTick
  repeat' with_reducible first
    | assumption | intro _ | apply sound_ite | apply sound_setReg | apply sound_updLed | apply sound_measureQuad
    | apply sound_railTick | apply sound_readTemps | apply sound_creditQuad | apply sound_actTick | apply sound_foldl

theorem gives_execLedgerTick (temps : Readings) {s : State} (hs : Sound inv queue s) :
    ∃ t, execLedgerTick temps s = .next t ∧ Sound inv queue t := by
  exact ⟨_, rfl, sound_ledgerTick (hs := hs) ..⟩

theorem sound_gyleQuad {s : State} (k : Fin 4) (hs : Sound inv queue s) :
    Sound inv queue (State.gyleQuad s k) := by
  unfold State.gyleQuad
  repeat' with_reducible first | assumption | apply sound_setReg | apply sound_updLed

theorem sound_gyleEnd {s : State} (hs : Sound inv queue s) :
    Sound inv queue (gyleEnd s) := by
  unfold gyleEnd
  repeat' with_reducible first
    | assumption | apply sound_ite | apply sound_orReg | apply sound_fieldReg | apply sound_setpoints
    | apply sound_sendPace | apply sound_updLed | apply sound_gyleQuad | apply sound_foldl

theorem gives_execGyleEnd {s : State} (hs : Sound inv queue s) :
    ∃ t, execGyleEnd s = .next t ∧ Sound inv queue t := by
  exact ⟨_, rfl, sound_gyleEnd (hs := hs) ..⟩

theorem sound_admissionGrant (cd : Cd) {s : State} (hs : Sound inv queue s) :
    Sound inv queue (admissionGrant cd s) := by
  unfold admissionGrant
  repeat' with_reducible first | assumption | intro _ | apply sound_updDie | apply sound_debit | simp only [p0_update] | split

theorem gives_execAdmissionGrant (cd : Cd) {s : State} (hs : Sound inv queue s) :
    ∃ t, execAdmissionGrant cd s = .next t ∧ Sound inv queue t := by
  exact ⟨_, rfl, sound_admissionGrant (hs := hs) ..⟩

theorem gives_execRailHardLimit (k : Bd) (rail : Fin 4) {s : State} (hs : Sound inv queue s) :
    ∃ t, execRailHardLimit k rail s = .next t ∧ Sound inv queue t := by
  refine ⟨_, rfl, ?_⟩
  repeat' with_reducible first | assumption | apply sound_ite | apply sound_updLed

theorem sound_droopDetect (cd : Cd) {s : State} (hs : Sound inv queue s) :
    Sound inv queue (droopDetect cd s) := by
  unfold droopDetect
  repeat' with_reducible first | assumption | apply sound_ite | apply sound_fieldReg | apply sound_updLed

theorem gives_execDroopDetect (cd : Cd) {s : State} (hs : Sound inv queue s) :
    ∃ t, execDroopDetect cd s = .next t ∧ Sound inv queue t := by
  exact ⟨_, rfl, sound_droopDetect (hs := hs) ..⟩

theorem gives_execDroopRecover (cd : Cd) {s : State} (hs : Sound inv queue s) :
    ∃ t, execDroopRecover cd s = .next t ∧ Sound inv queue t := by
  refine ⟨_, rfl, ?_⟩
  exact sound_update.mpr hs

theorem sound_spreadHoldExpire (cd : Cd) {s : State} (hs : Sound inv queue s) :
    Sound inv queue (spreadHoldExpire cd s) := by
  unfold spreadHoldExpire
  repeat' with_reducible first | assumption | intro _ | apply sound_ite | apply sound_updDie | simp only [p0_update]

theorem gives_execSpreadHoldExpire (cd : Cd) {s : State} (hs : Sound inv queue s) :
    ∃ t, execSpreadHoldExpire cd s = .next t ∧ Sound inv queue t := by
  exact ⟨_, rfl, sound_spreadHoldExpire (hs := hs) ..⟩

theorem sound_ageingCheck (cd : Cd) (slack : Nat) {s : State} (hs : Sound inv queue s) :
    Sound inv queue (ageingCheck cd slack s) := by
  unfold ageingCheck
  repeat' with_reducible first
    | assumption | apply sound_ite | apply sound_orReg | apply sound_fieldReg | apply sound_setpoints
    | apply sound_updLed | simp only [sound_update]

theorem gives_execAgeingCheck (cd : Cd) (slack : Nat) {s : State} (hs : Sound inv queue s) :
    ∃ t, execAgeingCheck cd slack s = .next t ∧ Sound inv queue t := by
  exact ⟨_, rfl, sound_ageingCheck (hs := hs) ..⟩

theorem sound_brakeAssert (land : Bool) {s : State} (hs : Sound inv queue s) :
    Sound inv queue (brakeAssert land s) := by
  unfold brakeAssert
  repeat' with_reducible first | assumption | apply sound_ite | apply sound_orReg | apply sound_setpoints | apply sound_updLed

theorem gives_execBrakeAssert (land : Bool) {s : State} (hs : Sound inv queue s) :
    ∃ t, execBrakeAssert land s = .next t ∧ Sound inv queue t := by
  exact ⟨_, rfl, sound_brakeAssert (hs := hs) ..⟩

theorem sound_brakeCauseEnd (land : Bool) {s : State} (hs : Sound inv queue s) :
    Sound inv queue (brakeCauseEnd land s) := by
  unfold brakeCauseEnd
  exact sound_update.mpr hs

theorem gives_execPwrBrakeNRelease (land : Bool) {s : State} (hs : Sound inv queue s) :
    ∃ t, execPwrBrakeNRelease land s = .next t ∧ Sound inv queue t := by
  refine ⟨_, rfl, ?_⟩
  exact sound_update.mpr hs

theorem sound_brakeRelease {s : State} (hs : Sound inv queue s) :
    Sound inv queue (brakeRelease s) := by
  unfold brakeRelease
  repeat' with_reducible first
    | assumption | apply sound_ite | apply sound_andNotReg | apply sound_setpoints | apply sound_updLed

theorem gives_execBrakeRelease {s : State} (hs : Sound inv queue s) :
    ∃ t, execBrakeRelease s = .next t ∧ Sound inv queue t := by
  exact ⟨_, rfl, sound_brakeRelease (hs := hs) ..⟩

theorem sound_thermalCapStep (k : Bd) {s : State} (hs : Sound inv queue s) :
    Sound inv queue (thermalCapStep k s) := by
  unfold thermalCapStep
  repeat' with_reducible first | assumption | apply sound_setpoints | apply sound_updLed

theorem gives_execThermalCapStep (k : Bd) {s : State} (hs : Sound inv queue s) :
    ∃ t, execThermalCapStep k s = .next t ∧ Sound inv queue t := by
  refine ⟨_, rfl, ?_⟩
  repeat' with_reducible first | assumption | apply sound_ite | apply sound_thermalCapStep

theorem sound_refclkLoss (clk : Fin 3) {s : State} (hs : Sound inv queue s) :
    Sound inv queue (refclkLoss clk s) := by
  unfold refclkLoss
  repeat' with_reducible first | assumption | apply sound_ite | apply sound_orReg | simp only [sound_update]

theorem gives_execRefclkLoss (clk : Fin 3) {s : State} (hs : Sound inv queue s) :
    ∃ t, execRefclkLoss clk s = .next t ∧ Sound inv queue t := by
  exact ⟨_, rfl, sound_refclkLoss (hs := hs) ..⟩

theorem sound_loadEst {s : State} (hs : Sound inv queue s) :
    Sound inv queue (loadEst s) := by
  unfold loadEst
  repeat' with_reducible first | assumption | apply sound_ite | apply sound_orReg | apply sound_andNotReg | apply sound_updLed

theorem gives_execLoadEst {s : State} (hs : Sound inv queue s) :
    ∃ t, execLoadEst s = .next t ∧ Sound inv queue t := by
  exact ⟨_, rfl, sound_loadEst (hs := hs) ..⟩

/-! ### Hafel -/

theorem sound_boundaryFail {s : State} (die : Nat) (hs : Sound inv queue s) :
    Sound inv queue (State.boundaryFail s die) := by
  unfold State.boundaryFail
  repeat' with_reducible first | assumption | apply sound_fence | apply sound_fenceLink | apply sound_deviceLoss | split

theorem sound_retire {s : State} (die dir bundle : Nat) (hs : Sound inv queue s) :
    Sound inv queue (State.retire s die dir bundle) := by
  unfold State.retire
  repeat' with_reducible first
    | assumption | apply sound_ite | apply sound_setBundle | apply sound_setHafDie | apply sound_boundaryFail

theorem sound_resend {s : State} (key : Nat) (hs : Sound inv queue s) :
    Sound inv queue (State.resend s key) := by
  unfold State.resend
  repeat' with_reducible first | assumption | intro _ | apply sound_emit | apply sound_foldl

theorem sound_spareTestEnd (die dir bundle : Nat) (ok : Bool) {s : State} (hs : Sound inv queue s) :
    Sound inv queue (spareTestEnd die dir bundle ok s) := by
  unfold spareTestEnd
  repeat' with_reducible first
    | assumption | apply sound_ite | apply sound_setBundle | apply sound_setHafDie | apply sound_pump
    | apply sound_boundaryFail | apply sound_resend

theorem gives_execSpareBundleTestEnd (die dir bundle : Nat) (ok : Bool) {s : State} (hs : Sound inv queue s) :
    ∃ t, execSpareBundleTestEnd die dir bundle ok s = .next t ∧ Sound inv queue t := by
  exact ⟨_, rfl, sound_spareTestEnd (hs := hs) ..⟩

theorem sound_sendRecord {s : State} (key : Nat) (nak : Bool) (credits : Nat) (hs : Sound inv queue s) :
    Sound inv queue (State.sendRecord s key nak credits) := by
  unfold State.sendRecord
  exact sound_sendFlit (hs := hs) ..

theorem sound_flitFail {s : State} (die dir bundle : Nat) (crcBad : Bool) (hs : Sound inv queue s) :
    Sound inv queue (State.flitFail s die dir bundle crcBad) := by
  unfold State.flitFail
  repeat' with_reducible first
    | assumption | apply sound_ite | apply sound_setBundle | apply sound_setHafDie | apply sound_retire
    | apply sound_sendRecord

theorem sound_flitOk {s : State} (key : Nat) (hs : Sound inv queue s) :
    Sound inv queue (State.flitOk s key) := by
  unfold State.flitOk
  repeat' with_reducible first | assumption | apply sound_setBundle | apply sound_sendRecord

theorem sound_takeFlit {s : State} (die dir bundle : Nat) (flit : List Byte) (kind : Nat)
    (f : Nat → List Byte → State → State) (hs : Sound inv queue s) (hf : ∀ x y u, Sound inv queue u → Sound inv queue (f x y u)) :
    Sound inv queue (State.takeFlit s die dir bundle flit kind f) := by
  unfold State.takeFlit
  repeat' with_reducible first | assumption | apply sound_ite | apply sound_flitFail | apply sound_flitOk | apply hf

theorem sound_flitCrcFailure (die dir bundle : Nat) (flit : List Byte) {s : State} (hs : Sound inv queue s) :
    Sound inv queue (flitCrcFailure die dir bundle flit s) := by
  unfold flitCrcFailure
  repeat' with_reducible first | assumption | apply sound_ite | apply sound_flitFail

theorem gives_execFlitCrcFailure (die dir bundle : Nat) (flit : List Byte) {s : State} (hs : Sound inv queue s) :
    ∃ t, execFlitCrcFailure die dir bundle flit s = .next t ∧ Sound inv queue t := by
  exact ⟨_, rfl, sound_flitCrcFailure (hs := hs) ..⟩

theorem sound_takeFlitRead (key : Nat) (flit : List Byte) {s : State} (hs : Sound inv queue s) :
    Sound inv queue (takeFlitRead key flit s) := by
  unfold takeFlitRead
  exact sound_homeArrive (hs := hs) ..

theorem gives_execFlitReadRequest (die dir bundle : Nat) (flit : List Byte) {s : State} (hs : Sound inv queue s) :
    ∃ t, execFlitReadRequest die dir bundle flit s = .next t ∧ Sound inv queue t := by
  refine ⟨_, rfl, ?_⟩
  repeat' with_reducible first | assumption | apply sound_takeFlit | apply sound_takeFlitRead

theorem sound_keepWant (key : Nat) (flit : List Byte) {s : State} (hs : Sound inv queue s) :
    Sound inv queue (keepWant key flit s) := by
  unfold keepWant
  exact sound_update.mpr hs

theorem sound_flitLine (key : Nat) (flit : List Byte) {s : State} (hs : Sound inv queue s) :
    Sound inv queue (flitLine key flit s) := by
  unfold flitLine
  repeat' with_reducible first
    | assumption | apply sound_emit | apply sound_setBundle | apply sound_homeArrive | simp only [sound_update]
    | split

theorem gives_execFlitWriteRequest (die dir bundle : Nat) (flit line : List Byte) {s : State} (hs : Sound inv queue s) :
    ∃ t, execFlitWriteRequest die dir bundle flit line s = .next t ∧ Sound inv queue t := by
  refine ⟨_, rfl, ?_⟩
  repeat' with_reducible first | assumption | apply sound_takeFlit | apply sound_keepWant | apply sound_flitLine

theorem gives_execFlitLine (die dir bundle : Nat) (flit : List Byte) {s : State} (hs : Sound inv queue s) :
    ∃ t, execFlitLine die dir bundle flit s = .next t ∧ Sound inv queue t := by
  refine ⟨_, rfl, ?_⟩
  repeat' with_reducible first | assumption | apply sound_takeFlit | apply sound_flitLine

theorem sound_flitAtomic (die key : Nat) (flit : List Byte) {s : State} (hs : Sound inv queue s) :
    Sound inv queue (flitAtomic die key flit s) := by
  unfold flitAtomic
  repeat' with_reducible first | assumption | apply sound_ite | apply sound_sendCompletion | simp only [sound_update]

theorem gives_execFlitAtomicRequest (die dir bundle : Nat) (flit : List Byte) {s : State} (hs : Sound inv queue s) :
    ∃ t, execFlitAtomicRequest die dir bundle flit s = .next t ∧ Sound inv queue t := by
  refine ⟨_, rfl, ?_⟩
  repeat' with_reducible first | assumption | apply sound_takeFlit | apply sound_flitAtomic

theorem sound_flitCompletion (key : Nat) (flit : List Byte) {s : State} (hs : Sound inv queue s) :
    Sound inv queue (flitCompletion key flit s) := by
  unfold flitCompletion
  repeat' with_reducible first | assumption | apply sound_ite | apply sound_emit | apply sound_keepWant

theorem gives_execFlitCompletion (die dir bundle : Nat) (flit : List Byte) {s : State} (hs : Sound inv queue s) :
    ∃ t, execFlitCompletion die dir bundle flit s = .next t ∧ Sound inv queue t := by
  refine ⟨_, rfl, ?_⟩
  repeat' with_reducible first | assumption | apply sound_takeFlit | apply sound_flitCompletion

theorem sound_flitSlotPart (die dir bundle : Nat) (_key : Nat) (flit : List Byte) {s : State} (hs : Sound inv queue s) :
    Sound inv queue (flitSlotPart die dir bundle _key flit s) := by
  unfold flitSlotPart
  repeat' with_reducible first | assumption | apply sound_elasticIn | apply sound_sendSlot | simp only [sound_update] | split

theorem gives_execFlitSlotPart (die dir bundle : Nat) (flit : List Byte) {s : State} (hs : Sound inv queue s) :
    ∃ t, execFlitSlotPart die dir bundle flit s = .next t ∧ Sound inv queue t := by
  refine ⟨_, rfl, ?_⟩
  repeat' with_reducible first | assumption | apply sound_ite | apply sound_takeFlit | apply sound_flitSlotPart

theorem sound_ackRecord {s : State} (die dir r : Nat) (hs : Sound inv queue s) :
    Sound inv queue (State.ackRecord s die dir r) := by
  unfold State.ackRecord
  repeat' with_reducible first | assumption | apply sound_ite | apply sound_setBundle | apply sound_pump | apply sound_resend

theorem sound_flitAck (die dir n : Nat) (_key : Nat) (flit : List Byte) {s : State} (hs : Sound inv queue s) :
    Sound inv queue (flitAck die dir n _key flit s) := by
  unfold flitAck
  repeat' with_reducible first | assumption | intro _ | apply sound_ackRecord | apply sound_foldl

theorem gives_execFlitAck (die dir bundle : Nat) (n : Fin 17) (flit : List Byte) {s : State} (hs : Sound inv queue s) :
    ∃ t, execFlitAck die dir bundle n flit s = .next t ∧ Sound inv queue t := by
  refine ⟨_, rfl, ?_⟩
  repeat' with_reducible first | assumption | apply sound_takeFlit | apply sound_flitAck

/-! ### Boot -/

theorem sound_updBoot {s : State} (f : BootSt → BootSt) (hs : Sound inv queue s) :
    Sound inv queue (State.updBoot s f) := by
  unfold State.updBoot
  exact sound_update.mpr hs

theorem sound_boardFlash {s : State} (board : HostData) (hs : Sound inv queue s) :
    Sound inv queue (State.boardFlash s board) := by
  unfold State.boardFlash
  exact sound_update.mpr hs

theorem sound_phase {s : State} (n : Nat) (hs : Sound inv queue s) :
    Sound inv queue (State.phase s n) := by
  unfold State.phase
  exact sound_update.mpr hs

theorem sound_halt {s : State} (code : Nat) (hs : Sound inv queue s) :
    Sound inv queue (State.halt s code) := by
  unfold State.halt
  repeat' with_reducible first | assumption | apply sound_orReg | apply sound_fieldReg | apply sound_updBoot | apply sound_phase

theorem sound_powerOff {s : State} (hs : Sound inv queue s) : Sound inv queue s.powerOff :=
  sound_fresh hs.pending rfl rfl

theorem sound_coldReset {s : State} (expiries : Nat) (hs : Sound inv queue s) : Sound inv queue (s.coldReset expiries) := by
  unfold State.coldReset
  dsimp only
  repeat' with_reducible first | apply sound_ite | apply sound_brakeAssert | apply sound_updBoot | apply sound_depStatus |
    apply sound_fieldReg
  all_goals exact sound_fresh hs.pending rfl rfl

theorem sound_loadPart {s : State} (copy : Nat) (hs : Sound inv queue s) :
    Sound inv queue (State.loadPart s copy) := by
  unfold State.loadPart
  repeat' with_reducible first
    | assumption | intro _ | apply sound_setReg | apply sound_orReg | apply sound_updBoot | apply sound_foldl

theorem sound_wearEntry {s : State} (e : List Byte) (hs : Sound inv queue s) :
    Sound inv queue (State.wearEntry s e) := by
  unfold State.wearEntry
  repeat' with_reducible first | assumption | apply sound_fieldReg | apply sound_updBoot | split

theorem sound_replayBlock {s : State} (a : Nat) (hs : Sound inv queue s) :
    Sound inv queue (State.replayBlock s a) := by
  unfold State.replayBlock
  repeat' with_reducible first | assumption | intro _ | apply sound_wearEntry | apply sound_foldl

theorem sound_replayWear {s : State} (hs : Sound inv queue s) :
    Sound inv queue (State.replayWear s) := by
  unfold State.replayWear
  repeat' with_reducible first
    | assumption | intro _ | apply sound_setReg | apply sound_updBoot | apply sound_replayBlock | apply sound_foldl

theorem sound_loadSlot {s : State} (slot : Fin 2) (r : Nat × Nat) (hs : Sound inv queue s) :
    Sound inv queue (State.loadSlot s slot r) := by
  unfold State.loadSlot
  repeat' with_reducible first | assumption | apply sound_ite | apply sound_orReg | apply sound_updBoot

theorem sound_loadSupplements {s : State} (hs : Sound inv queue s) :
    Sound inv queue (State.loadSupplements s) := by
  unfold State.loadSupplements
  repeat' with_reducible first | assumption | apply sound_loadSlot | simp only [sound_update] | split

theorem sound_stewardRestartDone {s : State} (hs : Sound inv queue s) :
    Sound inv queue (stewardRestartDone s) := by
  unfold stewardRestartDone
  repeat' with_reducible first
    | assumption | apply sound_ite | apply sound_andNotReg | apply sound_countReg | apply sound_log
    | apply sound_event | apply sound_updDep | apply sound_updBoot | apply sound_loadSupplements

theorem gives_execStewardRestartDone {s : State} (hs : Sound inv queue s) :
    ∃ t, execStewardRestartDone s = .next t ∧ Sound inv queue t := by
  exact ⟨_, rfl, sound_stewardRestartDone (hs := hs) ..⟩

theorem sound_mapSpare {s : State} (x : Nat × Nat × Nat × Nat) (hs : Sound inv queue s) :
    Sound inv queue (State.mapSpare s x) := by
  unfold State.mapSpare
  repeat' with_reducible first | assumption | apply sound_ite | apply sound_fieldReg | simp only [sound_update]

theorem sound_testStack {s : State} (j : Nat) (hs : Sound inv queue s) :
    Sound inv queue (State.testStack s j).1 := by
  unfold State.testStack
  repeat' with_reducible first
    | assumption | intro _ | apply sound_substitute | apply sound_beyondRepair | apply sound_foldl_pair
    | simp only [sound_update] | split

theorem p0_testUnits {d : Die} (boots cd : Nat) (hs : P0 inv d) :
    P0 inv (Die.testUnits d boots cd) := by
  unfold Die.testUnits
  exact p0_update.mpr hs

theorem sound_step15 {s : State} (hs : Sound inv queue s) :
    Sound inv queue (State.step15 s) := by
  unfold State.step15
  repeat' with_reducible first
    | assumption | intro _ | apply sound_ite | apply sound_updDie | apply sound_updBoot | apply sound_phase
    | apply sound_halt | apply sound_mapSpare | apply sound_testStack | apply p0_testUnits | apply sound_foldl
    | apply sound_foldl_pair

theorem sound_becomeReady {s : State} (hs : Sound inv queue s) :
    Sound inv queue (State.becomeReady s) := by
  unfold State.becomeReady
  repeat' with_reducible first | assumption | apply sound_setReg | apply sound_orReg | apply sound_updBoot | apply sound_phase

theorem sound_memoryInitDone {s : State} (tier : Fin 3) (quad : Bd) (hs : Sound inv queue s) :
    Sound inv queue (memoryInitDone tier quad s) := by
  unfold memoryInitDone
  dsimp only
  have hzero : Sound inv queue { s with
      mem := s.mem.filter (fun c => tierBit c.1 != 4 * tier.val + quad.val)
      poison := s.poison.filter (fun l => tierBit (l * 64) != 4 * tier.val + quad.val) } :=
    ⟨hs.pending, fun i => Memory.wf_filter _ (hs.mem i), hs.dies⟩
  split
  · exact hs
  · exact sound_ite (sound_becomeReady (sound_orReg _ _ hzero)) (sound_orReg _ _ hzero)

theorem gives_execMemoryInitDone (tier : Fin 3) (quad : Bd) {s : State} (hs : Sound inv queue s) :
    ∃ t, execMemoryInitDone tier quad s = .next t ∧ Sound inv queue t := by
  exact ⟨_, rfl, sound_memoryInitDone (hs := hs) ..⟩

theorem sound_selectDie {s : State} (die : Nat) (hs : Sound inv queue s) :
    Sound inv queue (State.selectDie s die) := by
  unfold State.selectDie
  repeat' with_reducible first | assumption | apply sound_ite | apply sound_emit | apply sound_setHafDie

theorem sound_testWires {s : State} (die : Nat) (hs : Sound inv queue s) :
    Sound inv queue (State.testWires s die) := by
  unfold State.testWires
  repeat' with_reducible first | assumption | apply sound_ite | apply sound_setHafDie

theorem sound_bootFence {s : State} (die : Nat) (hs : Sound inv queue s) :
    Sound inv queue (State.bootFence s die) := by
  unfold State.bootFence
  repeat' with_reducible first
    | assumption | intro _ | apply sound_orReg | apply sound_updDie | apply sound_depStatus | simp only [p0_update]
    | split

theorem sound_loseStage {s : State} (j : Cd) (hs : Sound inv queue s) :
    Sound inv queue (State.loseStage s j) := by
  unfold State.loseStage
  repeat' with_reducible first
    | assumption | apply sound_ite | apply sound_andNotReg | apply sound_deviceFail | apply sound_log
    | apply sound_depStatus | apply sound_updLed

theorem sound_step14 {s : State} (hs : Sound inv queue s) :
    Sound inv queue (State.step14 s) := by
  unfold State.step14
  repeat' with_reducible first
    | assumption | intro _ | apply sound_ite | apply sound_updBoot | apply sound_halt | apply sound_step15
    | apply sound_testWires | apply sound_bootFence | apply sound_loseStage | apply sound_foldl

theorem sound_mgmtFrame (die kind : Nat) (body : List Byte) (crc : Nat) {s : State} (hs : Sound inv queue s) :
    Sound inv queue (mgmtFrame die kind body crc s) := by
  unfold mgmtFrame
  repeat' with_reducible first
    | assumption | apply sound_ite | apply sound_emit | apply sound_setHafDie | apply sound_selectDie
    | apply sound_step14 | apply sound_foldl

theorem gives_execMgmtFrame (die kind : Nat) (body : List Byte) (crc : Nat) {s : State} (hs : Sound inv queue s) :
    ∃ t, execMgmtFrame die kind body crc s = .next t ∧ Sound inv queue t := by
  refine ⟨_, rfl, ?_⟩
  repeat' with_reducible first | assumption | apply sound_step14 | apply sound_mgmtFrame

theorem sound_selectionTimeout (die : Nat) {s : State} (hs : Sound inv queue s) :
    Sound inv queue (selectionTimeout die s) := by
  unfold selectionTimeout
  repeat' with_reducible first | assumption | apply sound_ite | apply sound_setHafDie | apply sound_step14

theorem gives_execSelectionEchoTimeout (die : Nat) {s : State} (hs : Sound inv queue s) :
    ∃ t, execSelectionEchoTimeout die s = .next t ∧ Sound inv queue t := by
  exact ⟨_, rfl, sound_selectionTimeout (hs := hs) ..⟩

theorem sound_step11 {s : State} (hs : Sound inv queue s) :
    Sound inv queue (State.step11 s) := by
  unfold State.step11
  repeat' with_reducible first
    | assumption | apply sound_ite | apply sound_orReg | apply sound_phase | apply sound_replayWear
    | apply sound_loadSupplements | simp only [sound_update]

theorem sound_step7 {s : State} (hs : Sound inv queue s) :
    Sound inv queue (State.step7 s) := by
  unfold State.step7
  repeat' with_reducible first
    | assumption | apply sound_phase | apply sound_halt | apply sound_loadPart | apply sound_step11
    | simp only [sound_update] | split

theorem sound_step6 {s : State} (hs : Sound inv queue s) :
    Sound inv queue (State.step6 s) := by
  unfold State.step6
  repeat' with_reducible first | assumption | apply sound_ite | apply sound_step7

theorem sound_step5 {s : State} (hs : Sound inv queue s) :
    Sound inv queue (State.step5 s) := by
  unfold State.step5
  repeat' with_reducible first | assumption | apply sound_ite | apply sound_updBoot | apply sound_halt

theorem sound_bootGo {s : State} (hs : Sound inv queue s) :
    Sound inv queue (State.bootGo s) := by
  unfold State.bootGo
  repeat' with_reducible first | assumption | apply sound_step6 | apply sound_step5

theorem sound_powerOn (board : HostData) {s : State} (hs : Sound inv queue s) :
    Sound inv queue (powerOn board s) := by
  unfold powerOn
  repeat' with_reducible first
    | assumption | apply sound_ite | apply sound_brakeAssert | apply sound_updBoot | apply sound_boardFlash

theorem gives_execPowerOn (board : HostData) {s : State} (hs : Sound inv queue s) :
    ∃ t, execPowerOn board s = .next t ∧ Sound inv queue t := by
  exact ⟨_, rfl, sound_powerOn (hs := hs) ..⟩

theorem gives_execInputOutOfRange {s : State} (hs : Sound inv queue s) :
    ∃ t, execInputOutOfRange s = .next t ∧ Sound inv queue t := by
  refine ⟨_, rfl, ?_⟩
  repeat' with_reducible first | assumption | apply sound_ite | apply sound_powerOff

theorem gives_execInputBelow30V {s : State} (hs : Sound inv queue s) :
    ∃ t, execInputBelow30V s = .next t ∧ Sound inv queue t := by
  refine ⟨_, rfl, ?_⟩
  repeat' with_reducible first | assumption | apply sound_ite | apply sound_updBoot | apply sound_powerOff

theorem sound_thermalTrip (cls celsius : Nat) {s : State} (hs : Sound inv queue s) :
    Sound inv queue (thermalTrip cls celsius s) := by
  unfold thermalTrip
  repeat' with_reducible first | assumption | apply sound_ite | apply sound_updBoot | apply sound_powerOff

theorem gives_execThermalTrip (cls celsius : Nat) {s : State} (hs : Sound inv queue s) :
    ∃ t, execThermalTrip cls celsius s = .next t ∧ Sound inv queue t := by
  exact ⟨_, rfl, sound_thermalTrip (hs := hs) ..⟩

theorem sound_coldResetCmd {s : State} (hs : Sound inv queue s) :
    Sound inv queue (coldResetCmd s) := by
  unfold coldResetCmd
  repeat' with_reducible first | assumption | apply sound_ite | apply sound_updBoot | apply sound_coldReset

theorem gives_execColdReset {s : State} (hs : Sound inv queue s) :
    ∃ t, execColdReset s = .next t ∧ Sound inv queue t := by
  exact ⟨_, rfl, sound_coldResetCmd (hs := hs) ..⟩

theorem sound_sysResetRelease (board : HostData) {s : State} (hs : Sound inv queue s) :
    Sound inv queue (sysResetRelease board s) := by
  unfold sysResetRelease
  repeat' with_reducible first
    | assumption | apply sound_ite | apply sound_updBoot | apply sound_boardFlash | apply sound_bootGo

theorem gives_execSysResetRelease (board : HostData) {s : State} (hs : Sound inv queue s) :
    ∃ t, execSysResetRelease board s = .next t ∧ Sound inv queue t := by
  exact ⟨_, rfl, sound_sysResetRelease (hs := hs) ..⟩

theorem gives_execReferenceClockValid (clk : Fin 3) {s : State} (hs : Sound inv queue s) :
    ∃ t, execReferenceClockValid clk s = .next t ∧ Sound inv queue t := by
  refine ⟨_, rfl, ?_⟩
  repeat' with_reducible first | assumption | apply sound_updBoot | apply sound_bootGo

theorem sound_watchdogExpire (exchange : Bool) {s : State} (hs : Sound inv queue s) :
    Sound inv queue (watchdogExpire exchange s) := by
  unfold watchdogExpire
  repeat' with_reducible first
    | assumption | apply sound_ite | apply sound_wdogExpire | apply sound_halt | apply sound_coldReset
    | apply sound_bootGo | simp only [sound_update]

theorem gives_execWatchdogExpire (exchange : Bool) {s : State} (hs : Sound inv queue s) :
    ∃ t, execWatchdogExpire exchange s = .next t ∧ Sound inv queue t := by
  exact ⟨_, rfl, sound_watchdogExpire (hs := hs) ..⟩

theorem sound_powerStageFrame (j : Cd) (readings : List Nat) (fault : Bool) {s : State} (hs : Sound inv queue s) :
    Sound inv queue (powerStageFrame j readings fault s) := by
  unfold powerStageFrame
  repeat' with_reducible first
    | assumption | apply sound_ite | apply sound_updLed | apply sound_updBoot | apply sound_loseStage
    | apply sound_bootGo

theorem gives_execPowerStageFrame (j : Cd) (readings : List Nat) (fault : Bool) {s : State} (hs : Sound inv queue s) :
    ∃ t, execPowerStageFrame j readings fault s = .next t ∧ Sound inv queue t := by
  exact ⟨_, rfl, sound_powerStageFrame (hs := hs) ..⟩

theorem sound_powerStageTimeout (j : Cd) (rail : Bool) {s : State} (hs : Sound inv queue s) :
    Sound inv queue (powerStageTimeout j rail s) := by
  unfold powerStageTimeout
  repeat' with_reducible first | assumption | apply sound_ite | apply sound_halt | apply sound_loseStage | apply sound_bootGo

theorem gives_execPowerStageTimeout (j : Cd) (rail : Bool) {s : State} (hs : Sound inv queue s) :
    ∃ t, execPowerStageTimeout j rail s = .next t ∧ Sound inv queue t := by
  exact ⟨_, rfl, sound_powerStageTimeout (hs := hs) ..⟩

theorem sound_tapInstruction (code : Nat) {s : State} (hs : Sound inv queue s) :
    Sound inv queue (tapInstruction code s) := by
  unfold tapInstruction
  repeat' with_reducible first | assumption | apply sound_ite | apply sound_updBoot | apply sound_bootGo

theorem gives_execTapInstruction (code : Nat) {s : State} (hs : Sound inv queue s) :
    ∃ t, execTapInstruction code s = .next t ∧ Sound inv queue t := by
  exact ⟨_, rfl, sound_tapInstruction (hs := hs) ..⟩

/-! ### Identity -/

theorem sound_signed {s : State} (bs : List Byte) (hs : Sound inv queue s) :
    Sound inv queue (State.signed s bs).2 := by
  unfold State.signed
  exact sound_update.mpr hs

theorem sound_wearBlock {s : State} (entries : List (List Byte)) (hs : Sound inv queue s) :
    Sound inv queue (State.wearBlock s entries) := by
  unfold State.wearBlock
  repeat' with_reducible first | assumption | apply sound_emit | apply sound_updBoot | apply sound_signed

theorem sound_wearBlocks {s : State} (entries : List (List Byte)) (hs : Sound inv queue s) (fuel : Nat) :
    Sound inv queue (State.wearBlocks s entries fuel) := by
  induction fuel generalizing s entries with
  | zero =>
    unfold State.wearBlocks
    repeat' with_reducible first
      | assumption | intro _ | apply sound_ite | apply p0_ite | apply sound_Work.take | apply sound_wearBlock
      | simp only [sound_update] | simp only [p0_update] | split
  | succ n ih =>
    unfold State.wearBlocks
    repeat' with_reducible first | assumption | apply ih | apply sound_ite | apply sound_wearBlock

theorem sound_compact {s : State} (hs : Sound inv queue s) :
    Sound inv queue (State.compact s) := by
  unfold State.compact
  repeat' with_reducible first | assumption | apply sound_ite | apply sound_emit | apply sound_updBoot | apply sound_wearBlocks

theorem sound_wearRecordWrite {s : State} (hs : Sound inv queue s) :
    Sound inv queue (wearRecordWrite s) := by
  unfold wearRecordWrite
  repeat' with_reducible first
    | assumption | apply sound_ite | apply sound_wearBlocks | apply sound_compact | simp only [sound_update]

theorem gives_execWearRecordWrite {s : State} (hs : Sound inv queue s) :
    ∃ t, execWearRecordWrite s = .next t ∧ Sound inv queue t := by
  exact ⟨_, rfl, sound_wearRecordWrite (hs := hs) ..⟩

theorem gives_execServiceHours {s : State} (hs : Sound inv queue s) :
    ∃ t, execServiceHours s = .next t ∧ Sound inv queue t := by
  refine ⟨_, rfl, ?_⟩
  repeat' with_reducible first | assumption | apply sound_ite | apply sound_updBoot

theorem sound_respond {s : State} (code status : Nat) (body : List Byte) (hs : Sound inv queue s) :
    Sound inv queue (State.respond s code status body) := by
  unfold State.respond
  exact sound_update.mpr hs

theorem sound_attest {s : State} (code len : Nat) (req : List Byte) (f : State → State) (hs : Sound inv queue s)
    (hf : ∀  u, Sound inv queue u → Sound inv queue (f  u)) :
    Sound inv queue (State.attest s code len req f) := by
  unfold State.attest
  repeat' with_reducible first | assumption | apply sound_ite | apply sound_respond | apply hf

theorem gives_execGetCertificates (req : List Byte) {s : State} (hs : Sound inv queue s) :
    ∃ t, execGetCertificates req s = .next t ∧ Sound inv queue t := by
  refine ⟨_, rfl, ?_⟩
  repeat' with_reducible first | assumption | intro _ | apply sound_respond | apply sound_attest

theorem gives_execMeasure (req : List Byte) {s : State} (hs : Sound inv queue s) :
    ∃ t, execMeasure req s = .next t ∧ Sound inv queue t := by
  refine ⟨_, rfl, ?_⟩
  repeat' with_reducible first | assumption | intro _ | apply sound_emit | apply sound_signed | apply sound_attest

theorem gives_execExtend (req : List Byte) {s : State} (hs : Sound inv queue s) :
    ∃ t, execExtend req s = .next t ∧ Sound inv queue t := by
  refine ⟨_, rfl, ?_⟩
  repeat' with_reducible first | assumption | intro _ | apply sound_updBoot | apply sound_respond | apply sound_attest

theorem gives_execReservedAttestationCode (code : Nat) {s : State} (hs : Sound inv queue s) :
    ∃ t, execReservedAttestationCode code s = .next t ∧ Sound inv queue t := by
  refine ⟨_, rfl, ?_⟩
  repeat' with_reducible first | assumption | apply sound_ite | apply sound_respond

theorem gives_execDoeAbort {s : State} (hs : Sound inv queue s) :
    ∃ t, execDoeAbort s = .next t ∧ Sound inv queue t := by
  refine ⟨_, rfl, ?_⟩
  exact sound_update.mpr hs

/-! ### Board -/

theorem sound_counterLoRead (energy : Bool) {s : State} (hs : Sound inv queue s) :
    Sound inv queue (counterLoRead energy s) := by
  unfold counterLoRead
  repeat' with_reducible first | assumption | apply sound_ite | apply sound_emit | simp only [sound_update]

theorem gives_execCounterLoRead (energy : Bool) {s : State} (hs : Sound inv queue s) :
    ∃ t, execCounterLoRead energy s = .next t ∧ Sound inv queue t := by
  exact ⟨_, rfl, sound_counterLoRead (hs := hs) ..⟩

theorem sound_written {s : State} (off old : Nat) (hs : Sound inv queue s) :
    Sound inv queue (State.written s off old) := by
  unfold State.written
  repeat' with_reducible first | assumption | apply sound_ite | apply sound_setTiming | simp only [sound_update]

theorem sound_registerWrite (off v : Nat) {s : State} (hs : Sound inv queue s) :
    Sound inv queue (registerWrite off v s) := by
  unfold registerWrite
  repeat' with_reducible first | assumption | apply sound_setReg | apply sound_written | split

theorem gives_execRegisterWrite (off v : Nat) {s : State} (hs : Sound inv queue s) :
    ∃ t, execRegisterWrite off v s = .next t ∧ Sound inv queue t := by
  exact ⟨_, rfl, sound_registerWrite (hs := hs) ..⟩

theorem sound_bmRead {s : State} (o : Nat) (hs : Sound inv queue s) :
    Sound inv queue (State.bmRead s o) := by
  unfold State.bmRead
  repeat' with_reducible first | assumption | apply sound_ite | apply sound_emit

theorem gives_execBmReadBootStatus {s : State} (hs : Sound inv queue s) :
    ∃ t, execBmReadBootStatus s = .next t ∧ Sound inv queue t := by
  exact ⟨_, rfl, sound_bmRead (hs := hs) ..⟩

theorem gives_execBmReadEngStatus {s : State} (hs : Sound inv queue s) :
    ∃ t, execBmReadEngStatus s = .next t ∧ Sound inv queue t := by
  exact ⟨_, rfl, sound_bmRead (hs := hs) ..⟩

theorem gives_execBmReadEngGrant {s : State} (hs : Sound inv queue s) :
    ∃ t, execBmReadEngGrant s = .next t ∧ Sound inv queue t := by
  exact ⟨_, rfl, sound_bmRead (hs := hs) ..⟩

theorem gives_execBmReadEngTempMax {s : State} (hs : Sound inv queue s) :
    ∃ t, execBmReadEngTempMax s = .next t ∧ Sound inv queue t := by
  exact ⟨_, rfl, sound_bmRead (hs := hs) ..⟩

theorem gives_execBmReadEngQpower (k : Bd) {s : State} (hs : Sound inv queue s) :
    ∃ t, execBmReadEngQpower k s = .next t ∧ Sound inv queue t := by
  exact ⟨_, rfl, sound_bmRead (hs := hs) ..⟩

theorem gives_execBmReadDepStatus {s : State} (hs : Sound inv queue s) :
    ∃ t, execBmReadDepStatus s = .next t ∧ Sound inv queue t := by
  exact ⟨_, rfl, sound_bmRead (hs := hs) ..⟩

theorem gives_execBmReadDevId {s : State} (hs : Sound inv queue s) :
    ∃ t, execBmReadDevId s = .next t ∧ Sound inv queue t := by
  exact ⟨_, rfl, sound_bmRead (hs := hs) ..⟩

theorem gives_execBmReadBmStatus {s : State} (hs : Sound inv queue s) :
    ∃ t, execBmReadBmStatus s = .next t ∧ Sound inv queue t := by
  exact ⟨_, rfl, sound_bmRead (hs := hs) ..⟩

theorem gives_execBmReadBmAlertEn {s : State} (hs : Sound inv queue s) :
    ∃ t, execBmReadBmAlertEn s = .next t ∧ Sound inv queue t := by
  exact ⟨_, rfl, sound_bmRead (hs := hs) ..⟩

theorem gives_execBmReadEngEnergyLo {s : State} (hs : Sound inv queue s) :
    ∃ t, execBmReadEngEnergyLo s = .next t ∧ Sound inv queue t := by
  refine ⟨_, rfl, ?_⟩
  repeat' with_reducible first | assumption | apply sound_ite | apply sound_emit | simp only [sound_update]

theorem gives_execBmReadEngEnergyHi {s : State} (hs : Sound inv queue s) :
    ∃ t, execBmReadEngEnergyHi s = .next t ∧ Sound inv queue t := by
  refine ⟨_, rfl, ?_⟩
  repeat' with_reducible first | assumption | apply sound_ite | apply sound_emit

theorem sound_bmWriteGrant (v : Nat) {s : State} (hs : Sound inv queue s) :
    Sound inv queue (bmWriteGrant v s) := by
  unfold bmWriteGrant
  repeat' with_reducible first | assumption | apply sound_ite | apply sound_setReg | apply sound_orReg | apply sound_emit

theorem gives_execBmWriteEngGrant (v : Nat) {s : State} (hs : Sound inv queue s) :
    ∃ t, execBmWriteEngGrant v s = .next t ∧ Sound inv queue t := by
  exact ⟨_, rfl, sound_bmWriteGrant (hs := hs) ..⟩

theorem gives_execBmClearStatus (v : Nat) {s : State} (hs : Sound inv queue s) :
    ∃ t, execBmClearStatus v s = .next t ∧ Sound inv queue t := by
  refine ⟨_, rfl, ?_⟩
  repeat' with_reducible first | assumption | apply sound_ite | apply sound_andNotReg

theorem gives_execBmWriteBmAlertEn (v : Nat) {s : State} (hs : Sound inv queue s) :
    ∃ t, execBmWriteBmAlertEn v s = .next t ∧ Sound inv queue t := by
  refine ⟨_, rfl, ?_⟩
  repeat' with_reducible first | assumption | apply sound_ite | apply sound_setReg

theorem gives_execBmAlertResponse {s : State} (hs : Sound inv queue s) :
    ∃ t, execBmAlertResponse s = .next t ∧ Sound inv queue t := by
  refine ⟨_, rfl, ?_⟩
  repeat' with_reducible first | assumption | apply sound_ite | apply sound_emit

theorem sound_bmNack (pec : Bool) {s : State} (hs : Sound inv queue s) :
    Sound inv queue (bmNack pec s) := by
  unfold bmNack
  repeat' with_reducible first | assumption | apply sound_ite | apply sound_fieldReg | apply sound_emit

theorem gives_execBmNack (pec : Bool) {s : State} (hs : Sound inv queue s) :
    ∃ t, execBmNack pec s = .next t ∧ Sound inv queue t := by
  exact ⟨_, rfl, sound_bmNack (hs := hs) ..⟩

/-! ### Tick -/

theorem sound_idleTick {s : State} (hs : Sound inv queue s) :
    Sound inv queue (idleTick s) := by
  unfold idleTick
  repeat' with_reducible first
    | assumption | intro _ | apply sound_ite | apply sound_homeDrain | apply sound_update_dies | simp only [p0_update]

end Sys2Proof.Proofs.Kept
end

section
/-! PROOF. Every command, and every step, keeps the queue, the canonical form of memory and p0 at 1. -/

namespace Sys2Proof.Proofs.Kept

open Sys2Proof.Machine Sys2Proof.Claims Sys2Proof.Safety

/-- Every command answers a next state and keeps what is kept. -/
theorem exec_sound {inv : Prop} {queue : List Instr} {s : State} (i : Instr) (hs : Sound inv queue s) :
    ∃ t, exec i s = .next t ∧ Sound inv queue t := by
  cases i with
  | nop cd w => exact gives_execNop cd w hs
  | add cd w => exact gives_execAdd cd w hs
  | sub cd w => exact gives_execSub cd w hs
  | mul cd w => exact gives_execMul cd w hs
  | and cd w => exact gives_execAnd cd w hs
  | or cd w => exact gives_execOr cd w hs
  | xor cd w => exact gives_execXor cd w hs
  | shl cd w => exact gives_execShl cd w hs
  | shr cd w => exact gives_execShr cd w hs
  | sra cd w => exact gives_execSra cd w hs
  | li cd w => exact gives_execLi cd w hs
  | fadd cd w => exact gives_execFadd cd w hs
  | fmul cd w => exact gives_execFmul cd w hs
  | itof cd w => exact gives_execItof cd w hs
  | ftoi cd w => exact gives_execFtoi cd w hs
  | cmpEq cd w => exact gives_execCmpEq cd w hs
  | cmpNe cd w => exact gives_execCmpNe cd w hs
  | cmpLt cd w => exact gives_execCmpLt cd w hs
  | cmpGe cd w => exact gives_execCmpGe cd w hs
  | cmpLtu cd w => exact gives_execCmpLtu cd w hs
  | fcmpLt cd w => exact gives_execFcmpLt cd w hs
  | fcmpGe cd w => exact gives_execFcmpGe cd w hs
  | pand cd w => exact gives_execPand cd w hs
  | por cd w => exact gives_execPor cd w hs
  | pnot cd w => exact gives_execPnot cd w hs
  | ali cd w => exact gives_execAli cd w hs
  | aadd cd w => exact gives_execAadd cd w hs
  | ald cd w => exact gives_execAld cd w hs
  | ast cd w => exact gives_execAst cd w hs
  | ld cd w => exact gives_execLd cd w hs
  | st cd w => exact gives_execSt cd w hs
  | scalarAccessComplete cd host hostOk => exact gives_execScalarAccessComplete cd host hostOk hs
  | sumrd cd w => exact gives_execSumrd cd w hs
  | sumpred cd w => exact gives_execSumpred cd w hs
  | cntrd cd w => exact gives_execCntrd cd w hs
  | cnterr cd w => exact gives_execCnterr cd w hs
  | cntset cd w => exact gives_execCntset cd w hs
  | whoami cd w => exact gives_execWhoami cd w hs
  | clock cd w => exact gives_execClock cd w hs
  | br cd w => exact gives_execBr cd w hs
  | call cd w => exact gives_execCall cd w hs
  | jr cd w => exact gives_execJr cd w hs
  | loop cd w => exact gives_execLoop cd w hs
  | halt cd w => exact gives_execHalt cd w hs
  | haltComplete cd => exact gives_execHaltComplete cd hs
  | loadCharge cd w => exact gives_execLoadCharge cd w hs
  | pass cd w => exact gives_execPass cd w hs
  | elementWisePass cd w => exact gives_execElementWisePass cd w hs
  | tileAdd cd w => exact gives_execTileAdd cd w hs
  | tileZero cd w => exact gives_execTileZero cd w hs
  | scoreboardGrant cd tile => exact gives_execScoreboardGrant cd tile hs
  | tunOpStart cd j => exact gives_execTunOpStart cd j hs
  | loadChargeComplete cd j => exact gives_execLoadChargeComplete cd j hs
  | tunIdleExpire cd j => exact gives_execTunIdleExpire cd j hs
  | tunStartOffsetExpire cd j => exact gives_execTunStartOffsetExpire cd j hs
  | tunRowVerdict cd j fault => exact gives_execTunRowVerdict cd j fault hs
  | tunOpComplete cd j => exact gives_execTunOpComplete cd j hs
  | seqRemapTun cd j => exact gives_execSeqRemapTun cd j hs
  | spargeConv cd w => exact gives_execSpargeConv cd w hs
  | spargeAdd cd w => exact gives_execSpargeAdd cd w hs
  | spargeSub cd w => exact gives_execSpargeSub cd w hs
  | spargeMul cd w => exact gives_execSpargeMul cd w hs
  | spargeFma cd w => exact gives_execSpargeFma cd w hs
  | spargeMin cd w => exact gives_execSpargeMin cd w hs
  | spargeMax cd w => exact gives_execSpargeMax cd w hs
  | spargeAbs cd w => exact gives_execSpargeAbs cd w hs
  | spargeNeg cd w => exact gives_execSpargeNeg cd w hs
  | spargeClamp cd w => exact gives_execSpargeClamp cd w hs
  | spargeSelect cd w => exact gives_execSpargeSelect cd w hs
  | spargeCmpGt cd w => exact gives_execSpargeCmpGt cd w hs
  | spargeCmpGe cd w => exact gives_execSpargeCmpGe cd w hs
  | spargeCmpEq cd w => exact gives_execSpargeCmpEq cd w hs
  | iadd cd w => exact gives_execIadd cd w hs
  | isub cd w => exact gives_execIsub cd w hs
  | imul cd w => exact gives_execImul cd w hs
  | iand cd w => exact gives_execIand cd w hs
  | ior cd w => exact gives_execIor cd w hs
  | ixor cd w => exact gives_execIxor cd w hs
  | ishl cd w => exact gives_execIshl cd w hs
  | ishr cd w => exact gives_execIshr cd w hs
  | recip cd w => exact gives_execRecip cd w hs
  | div cd w => exact gives_execDiv cd w hs
  | sqrt cd w => exact gives_execSqrt cd w hs
  | rsqrt cd w => exact gives_execRsqrt cd w hs
  | exp cd w => exact gives_execExp cd w hs
  | exp2 cd w => exact gives_execExp2 cd w hs
  | log cd w => exact gives_execLog cd w hs
  | log2 cd w => exact gives_execLog2 cd w hs
  | tanh cd w => exact gives_execTanh cd w hs
  | sigmoid cd w => exact gives_execSigmoid cd w hs
  | erf cd w => exact gives_execErf cd w hs
  | sin cd w => exact gives_execSin cd w hs
  | cos cd w => exact gives_execCos cd w hs
  | rowSum cd w => exact gives_execRowSum cd w hs
  | rowMax cd w => exact gives_execRowMax cd w hs
  | rowMin cd w => exact gives_execRowMin cd w hs
  | colSum cd w => exact gives_execColSum cd w hs
  | colMax cd w => exact gives_execColMax cd w hs
  | s64Add cd w => exact gives_execS64Add cd w hs
  | spargeStart cd u => exact gives_execSpargeStart cd u hs
  | spargeCheckFail cd u row => exact gives_execSpargeCheckFail cd u row hs
  | spargeComplete cd u => exact gives_execSpargeComplete cd u hs
  | summarySlotUpdate cd u => exact gives_execSummarySlotUpdate cd u hs
  | seqRemapSparge cd u => exact gives_execSeqRemapSparge cd u hs
  | copy cd w => exact gives_execCopy cd w hs
  | put cd w => exact gives_execPut cd w hs
  | get cd w => exact gives_execGet cd w hs
  | movementStart cd e => exact gives_execMovementStart cd e hs
  | movementComplete cd id remote host hostOk => exact gives_execMovementComplete cd id remote host hostOk hs
  | helperDma cd w => exact gives_execHelperDma cd w hs
  | helperCollective cd w => exact gives_execHelperCollective cd w hs
  | helperGrist cd w => exact gives_execHelperGrist cd w hs
  | helperComplete cd id => exact gives_execHelperComplete cd id hs
  | waitCnt cd w => exact gives_execWaitCnt cd w hs
  | flagAdd cd w => exact gives_execFlagAdd cd w hs
  | flagWait cd w => exact gives_execFlagWait cd w hs
  | flagWaitRecheck cd => exact gives_execFlagWaitRecheck cd hs
  | semAcq cd w => exact gives_execSemAcq cd w hs
  | semAcqReply cd => exact gives_execSemAcqReply cd hs
  | semWakeTimeout cd => exact gives_execSemWakeTimeout cd hs
  | semRetryTimer cd => exact gives_execSemRetryTimer cd hs
  | semRel cd w => exact gives_execSemRel cd w hs
  | fence cd w => exact gives_execFence cd w hs
  | post cd w => exact gives_execPost cd w hs
  | orderedRelease cd id => exact gives_execOrderedRelease cd id hs
  | seqStallEnd cd => exact gives_execSeqStallEnd cd hs
  | waitLimitExpire cd id => exact gives_execWaitLimitExpire cd id hs
  | faultSettle cd => exact gives_execFaultSettle cd hs
  | icacheFill cd => exact gives_execIcacheFill cd hs
  | startProgram r => exact gives_execStartProgram r hs
  | stopDrain r => exact gives_execStopDrain r hs
  | stopAbort r => exact gives_execStopAbort r hs
  | stopComplete cd => exact gives_execStopComplete cd hs
  | homeRead addr err => exact gives_execHomeRead addr err hs
  | homeWrite addr data mark => exact gives_execHomeWrite addr data mark hs
  | laneTestEnd stack channel lanes err => exact gives_execLaneTestEnd stack channel lanes err hs
  | add64 idx => exact gives_execAdd64 idx hs
  | fetchAdd64 idx => exact gives_execFetchAdd64 idx hs
  | add64Sat idx => exact gives_execAdd64Sat idx hs
  | swap64 idx => exact gives_execSwap64 idx hs
  | cas64 idx => exact gives_execCas64 idx hs
  | semAcquire idx => exact gives_execSemAcquire idx hs
  | semRelease idx => exact gives_execSemRelease idx hs
  | atomicBufferWriteback addr => exact gives_execAtomicBufferWriteback addr hs
  | memoryInitDone tier quad => exact gives_execMemoryInitDone tier quad hs
  | scrubRead u err => exact gives_execScrubRead u err hs
  | cxlMemRequest isWrite hpa data => exact gives_execCxlMemRequest isWrite hpa data hs
  | memLayoutWrite off v => exact gives_execMemLayoutWrite off v hs
  | memScrubWrite v => exact gives_execMemScrubWrite v hs
  | lookUp cd id host hostOk => exact gives_execLookUp cd id host hostOk hs
  | update cd id host hostOk => exact gives_execUpdate cd id host hostOk hs
  | fold cd h => exact gives_execFold cd h hs
  | foldEnd job => exact gives_execFoldEnd job hs
  | versionSwitch cd h => exact gives_execVersionSwitch cd h hs
  | versionRelease cd h => exact gives_execVersionRelease cd h hs
  | skewReport cd h => exact gives_execSkewReport cd h hs
  | migrateOut cd id host hostOk => exact gives_execMigrateOut cd id host hostOk hs
  | installOverrides cd id host hostOk => exact gives_execInstallOverrides cd id host hostOk hs
  | gristLookupRequest q => exact gives_execGristLookupRequest q hs
  | gristUpdateIds q => exact gives_execGristUpdateIds q hs
  | gristGradientChunk q => exact gives_execGristGradientChunk q hs
  | gristMigratedRow q row hot => exact gives_execGristMigratedRow q row hot hs
  | gristReply q => exact gives_execGristReply q hs
  | gristBusyRetry tag => exact gives_execGristBusyRetry tag hs
  | gristComplete job => exact gives_execGristComplete job hs
  | gristCtrlWrite off v => exact gives_execGristCtrlWrite off v hs
  | portEnable p => exact gives_execPortEnable p hs
  | portDisable p => exact gives_execPortDisable p hs
  | portSignalDetect p lanes => exact gives_execPortSignalDetect p lanes hs
  | portTrainingDone p lanes => exact gives_execPortTrainingDone p lanes hs
  | identitySlot p coord nport lanes => exact gives_execIdentitySlot p coord nport lanes hs
  | identitySendTimer p => exact gives_execIdentitySendTimer p hs
  | portTestEnd p ok => exact gives_execPortTestEnd p ok hs
  | goSlot p => exact gives_execGoSlot p hs
  | bringupStepTimeout p => exact gives_execBringupStepTimeout p hs
  | routerRound => exact gives_execRouterRound hs
  | slotReceive p lanes crc badLanes => exact gives_execSlotReceive p lanes crc badLanes hs
  | laneLockLoss p lane => exact gives_execLaneLockLoss p lane hs
  | laneDropSlot p lanes => exact gives_execLaneDropSlot p lanes hs
  | faultDetectExpire p => exact gives_execFaultDetectExpire p hs
  | timingPortLost => exact gives_execTimingPortLost hs
  | validate v => exact gives_execValidate v hs
  | invalidate v => exact gives_execInvalidate v hs
  | injectEpochWrite v => exact gives_execInjectEpochWrite v hs
  | rtHoldExpire => exact gives_execRtHoldExpire hs
  | putPacket q => exact gives_execPutPacket q hs
  | getRequest q host hostOk => exact gives_execGetRequest q host hostOk hs
  | getReply q => exact gives_execGetReply q hs
  | atomicRequest q => exact gives_execAtomicRequest q hs
  | atomicReply q => exact gives_execAtomicReply q hs
  | wake q => exact gives_execWake q hs
  | ackPacket q => exact gives_execAckPacket q hs
  | ackDelayExpire src flow => exact gives_execAckDelayExpire src flow hs
  | retransmitTimeout dst flow seq => exact gives_execRetransmitTimeout dst flow seq hs
  | senderFlowIdle dst flow => exact gives_execSenderFlowIdle dst flow hs
  | receiverFlowIdle src flow => exact gives_execReceiverFlowIdle src flow hs
  | congestionMapPeriod => exact gives_execCongestionMapPeriod hs
  | fabRdCtrlWrite v => exact gives_execFabRdCtrlWrite v hs
  | allReduce cd h => exact gives_execAllReduce cd h hs
  | reduceScatter cd h => exact gives_execReduceScatter cd h hs
  | allGather cd h => exact gives_execAllGather cd h hs
  | broadcast cd h => exact gives_execBroadcast cd h hs
  | reduce cd h => exact gives_execReduce cd h hs
  | shift cd h => exact gives_execShift cd h hs
  | permutation cd h => exact gives_execPermutation cd h hs
  | pitch cd h => exact gives_execPitch cd h hs
  | paceGroup cd h => exact gives_execPaceGroup cd h hs
  | collStart eng host hostOk => exact gives_execCollStart eng host hostOk hs
  | collCheck q => exact gives_execCollCheck q hs
  | collStreamPacket q base => exact gives_execCollStreamPacket q base hs
  | abortPacket q => exact gives_execAbortPacket q hs
  | permutationData q => exact gives_execPermutationData q hs
  | pitchArrival q => exact gives_execPitchArrival q hs
  | pitchRelease q => exact gives_execPitchRelease q hs
  | paceRequest q => exact gives_execPaceRequest q hs
  | paceNotice q => exact gives_execPaceNotice q hs
  | collCmdAbort => exact gives_execCollCmdAbort hs
  | doorbellSnoop line => exact gives_execDoorbellSnoop line hs
  | doorbellPoll line => exact gives_execDoorbellPoll line hs
  | doorbellLineReturn line data ok => exact gives_execDoorbellLineReturn line data ok hs
  | ringFetch => exact gives_execRingFetch hs
  | descriptorReturn r data ok => exact gives_execDescriptorReturn r data ok hs
  | ringNop r => exact gives_execRingNop r hs
  | dma r => exact gives_execDma r hs
  | dmaTransferEnd m host hostOk => exact gives_execDmaTransferEnd m host hostOk hs
  | write r => exact gives_execWrite r hs
  | completionAccept src => exact gives_execCompletionAccept src hs
  | completionWrite r => exact gives_execCompletionWrite r hs
  | eventWrite r => exact gives_execEventWrite r hs
  | interruptTimer r => exact gives_execInterruptTimer r hs
  | msixUnmask v => exact gives_execMsixUnmask v hs
  | ringEnable => exact gives_execRingEnable hs
  | ringDisableDrain => exact gives_execRingDisableDrain hs
  | ringDisableAbort => exact gives_execRingDisableAbort hs
  | ringDisableComplete r => exact gives_execRingDisableComplete r hs
  | ringConfigWrite off v => exact gives_execRingConfigWrite off v hs
  | bmeClear => exact gives_execBmeClear hs
  | bmeSet => exact gives_execBmeSet hs
  | functionLevelReset => exact gives_execFunctionLevelReset hs
  | cxlReset => exact gives_execCxlReset hs
  | hostResetComplete => exact gives_execHostResetComplete hs
  | hostLinkLoss => exact gives_execHostLinkLoss hs
  | hostLinkRestore => exact gives_execHostLinkRestore hs
  | perstAssert => exact gives_execPerstAssert hs
  | perstRelease => exact gives_execPerstRelease hs
  | lostAdd coord => exact gives_execLostAdd coord hs
  | lostRemove coord => exact gives_execLostRemove coord hs
  | lostClear => exact gives_execLostClear hs
  | unload => exact gives_execUnload hs
  | reseed => exact gives_execReseed hs
  | cancel => exact gives_execCancel hs
  | depConfigWrite off v => exact gives_execDepConfigWrite off v hs
  | digestDeferredStart => exact gives_execDigestDeferredStart hs
  | primaryDigestDone => exact gives_execPrimaryDigestDone hs
  | mirrorDigestDone => exact gives_execMirrorDigestDone hs
  | digestPacket q => exact gives_execDigestPacket q hs
  | verdictPacket q => exact gives_execVerdictPacket q hs
  | digestTimeout => exact gives_execDigestTimeout hs
  | lineRequest q => exact gives_execLineRequest q hs
  | linesPacket q => exact gives_execLinesPacket q hs
  | directListPacket q => exact gives_execDirectListPacket q hs
  | doneReconciliation q => exact gives_execDoneReconciliation q hs
  | doneUnload q => exact gives_execDoneUnload q hs
  | doneReseed q => exact gives_execDoneReseed q hs
  | receiveDigestDone => exact gives_execReceiveDigestDone hs
  | unloadTimeout => exact gives_execUnloadTimeout hs
  | clockLoss die => exact gives_execClockLoss die hs
  | logWrite => exact gives_execLogWrite hs
  | watchdogRestart => exact gives_execWatchdogRestart hs
  | watchdogExpire exchange => exact gives_execWatchdogExpire exchange hs
  | stewardRestartDone => exact gives_execStewardRestartDone hs
  | powerStageFrame j readings fault => exact gives_execPowerStageFrame j readings fault hs
  | powerStageTimeout j rail => exact gives_execPowerStageTimeout j rail hs
  | ledgerTick temps => exact gives_execLedgerTick temps hs
  | gyleEnd => exact gives_execGyleEnd hs
  | throttleEpisodeEnd r => exact gives_execThrottleEpisodeEnd r hs
  | admissionGrant cd => exact gives_execAdmissionGrant cd hs
  | railHardLimit k rail => exact gives_execRailHardLimit k rail hs
  | droopDetect cd => exact gives_execDroopDetect cd hs
  | droopRecover cd => exact gives_execDroopRecover cd hs
  | spreadHoldExpire cd => exact gives_execSpreadHoldExpire cd hs
  | ageingCheck cd slack => exact gives_execAgeingCheck cd slack hs
  | brakeAssert land => exact gives_execBrakeAssert land hs
  | brakeRelease => exact gives_execBrakeRelease hs
  | thermalCapStep k => exact gives_execThermalCapStep k hs
  | thermalTrip cls celsius => exact gives_execThermalTrip cls celsius hs
  | refclkLoss clk => exact gives_execRefclkLoss clk hs
  | inputOutOfRange => exact gives_execInputOutOfRange hs
  | loadEst => exact gives_execLoadEst hs
  | powerOn board => exact gives_execPowerOn board hs
  | coldReset => exact gives_execColdReset hs
  | sysResetRelease board => exact gives_execSysResetRelease board hs
  | wearRecordWrite => exact gives_execWearRecordWrite hs
  | serviceHours => exact gives_execServiceHours hs
  | getCertificates req => exact gives_execGetCertificates req hs
  | measure req => exact gives_execMeasure req hs
  | extend req => exact gives_execExtend req hs
  | doeAbort => exact gives_execDoeAbort hs
  | flitReadRequest die dir bundle flit => exact gives_execFlitReadRequest die dir bundle flit hs
  | flitWriteRequest die dir bundle flit line => exact gives_execFlitWriteRequest die dir bundle flit line hs
  | flitAtomicRequest die dir bundle flit => exact gives_execFlitAtomicRequest die dir bundle flit hs
  | flitLine die dir bundle flit => exact gives_execFlitLine die dir bundle flit hs
  | flitCompletion die dir bundle flit => exact gives_execFlitCompletion die dir bundle flit hs
  | flitSlotPart die dir bundle flit => exact gives_execFlitSlotPart die dir bundle flit hs
  | flitAck die dir bundle n flit => exact gives_execFlitAck die dir bundle n flit hs
  | spareBundleTestEnd die dir bundle ok => exact gives_execSpareBundleTestEnd die dir bundle ok hs
  | mgmtFrame die kind body crc => exact gives_execMgmtFrame die kind body crc hs
  | selectionEchoTimeout die => exact gives_execSelectionEchoTimeout die hs
  | tapInstruction code => exact gives_execTapInstruction code hs
  | bmReadBootStatus => exact gives_execBmReadBootStatus hs
  | bmReadEngStatus => exact gives_execBmReadEngStatus hs
  | bmReadEngGrant => exact gives_execBmReadEngGrant hs
  | bmWriteEngGrant v => exact gives_execBmWriteEngGrant v hs
  | bmReadEngTempMax => exact gives_execBmReadEngTempMax hs
  | bmReadEngQpower k => exact gives_execBmReadEngQpower k hs
  | bmReadEngEnergyLo => exact gives_execBmReadEngEnergyLo hs
  | bmReadEngEnergyHi => exact gives_execBmReadEngEnergyHi hs
  | bmReadDepStatus => exact gives_execBmReadDepStatus hs
  | bmReadDevId => exact gives_execBmReadDevId hs
  | bmReadBmStatus => exact gives_execBmReadBmStatus hs
  | bmClearStatus v => exact gives_execBmClearStatus v hs
  | bmReadBmAlertEn => exact gives_execBmReadBmAlertEn hs
  | bmWriteBmAlertEn v => exact gives_execBmWriteBmAlertEn v hs
  | bmAlertResponse => exact gives_execBmAlertResponse hs
  | counterLoRead energy => exact gives_execCounterLoRead energy hs
  | registerWrite off v => exact gives_execRegisterWrite off v hs
  | reservedCodeInstruction cd w => exact gives_execReservedCodeInstruction cd w hs
  | computeDieReset cd => exact gives_execComputeDieReset cd hs
  | referenceClockValid clk => exact gives_execReferenceClockValid clk hs
  | slotClockLocked => exact gives_execSlotClockLocked hs
  | cxlLinkTrainingDone width rate cache mem => exact gives_execCxlLinkTrainingDone width rate cache mem hs
  | doeDiscovery index => exact gives_execDoeDiscovery index hs
  | cdatRead => exact gives_execCdatRead hs
  | reservedAttestationCode code => exact gives_execReservedAttestationCode code hs
  | bmNack pec => exact gives_execBmNack pec hs
  | flitCrcFailure die dir bundle flit => exact gives_execFlitCrcFailure die dir bundle flit hs
  | inputBelow30V => exact gives_execInputBelow30V hs
  | pwrBrakeNRelease land => exact gives_execPwrBrakeNRelease land hs

/-- With no invariant asked for, what is kept is the queue. -/
theorem sound_of_queue {queue : List Instr} {s : State} (h : s.pending = queue) : Sound False queue s :=
  ⟨h, False.elim, fun _ i => i.elim⟩

theorem sound_of_invariants {s : State} (h : MemCanonical s ∧ P0True s) : Sound True s.pending s :=
  ⟨rfl, fun _ => h.1, fun cd _ => h.2 cd⟩

theorem Sound.invariants {queue : List Instr} {s : State} (h : Sound True queue s) : MemCanonical s ∧ P0True s :=
  ⟨h.mem trivial, fun cd => h.dies cd trivial⟩

theorem exec_keepsQueue : ExecKeepsQueue := by
  intro c s t ht
  obtain ⟨u, hu, su⟩ := exec_sound c (sound_of_queue (s := s) rfl)
  obtain rfl : u = t := Host.Outcome.next.inj (hu.symm.trans ht)
  exact su.pending

theorem exec_completes : EveryCommandCompletes := by
  intro c s
  obtain ⟨t, ht, -⟩ := exec_sound c (sound_of_queue (s := s) rfl)
  exact ⟨t, ht⟩

/-- Settles O57, by the lemma of each command. -/
theorem everyCommand : Obligations.EveryCommand := ⟨exec_keepsQueue, exec_completes⟩

/-- Settles O59: a step is a command or the passing of a nanosecond, and each keeps the invariants. -/
theorem stepKeepsInvariants : Obligations.StepKeepsInvariants := by
  intro s t hs ht
  cases hp : s.pending with
  | nil =>
    rw [step_nil hp] at ht
    obtain rfl : idleTick s = t := Host.Outcome.next.inj ht
    exact (sound_idleTick (sound_of_invariants hs)).invariants
  | cons c rest =>
    rw [step_cons hp] at ht
    have h0 : Sound True rest { s with pending := rest } :=
      ⟨rfl, (sound_of_invariants hs).mem, (sound_of_invariants hs).dies⟩
    obtain ⟨u, hu, su⟩ := exec_sound c h0
    obtain rfl : u = t := Host.Outcome.next.inj (hu.symm.trans ht)
    exact su.invariants

end Sys2Proof.Proofs.Kept
end

section
/-! PROOF. The state at reset. -/

namespace Sys2Proof.Proofs.AtReset

open Sys2Proof.Machine Sys2Proof.Claims Sys2Proof.Safety

theorem die_reset (cd : Cd) : State.reset.die cd = .reset := by
  simp only [State.die, State.reset, Fin.getElem_fin, Vector.getElem_replicate]

/-- Settles O58, by the values of the reset state. -/
theorem resetState : Obligations.ResetState := by
  refine ⟨rfl, rfl, rfl, fun o => rfl, by decide, rfl, rfl, rfl, by decide, rfl, rfl, rfl, fun cd => ?_, fun p => ?_, rfl, fun cd => ?_⟩
  · rw [die_reset]; exact ⟨rfl, rfl⟩
  · revert p; decide
  · rw [die_reset]; rfl

end Sys2Proof.Proofs.AtReset
end

section
/-! PROOF. The line code: a line followed by its check bytes has four zero syndromes, so it decodes to the line. -/

namespace Sys2Proof.Proofs.LineCode

open Sys2Proof.Machine

/-! ### Multiplication by powers of α -/

theorem gfX_eq {a : Nat} (h : a < 256) : gfX a = a <<< 1 ^^^ if a.testBit 7 then 0x11D else 0 := by
  revert a
  decide +kernel

theorem gfX_lt {a : Nat} (h : a < 256) : gfX a < 256 := by
  revert a
  decide +kernel

/-- Multiplication by α is additive: it shifts, and reduces by the polynomial where bit 7 is set. -/
theorem gfX_xor {a b : Nat} (ha : a < 256) (hb : b < 256) : gfX (a ^^^ b) = gfX a ^^^ gfX b := by
  rw [gfX_eq ha, gfX_eq hb, gfX_eq (Nat.xor_lt_two_pow (n := 8) ha hb), Nat.shiftLeft_xor_distrib, Nat.testBit_xor]
  cases a.testBit 7 <;> cases b.testBit 7 <;> simp [Nat.xor_comm, Nat.xor_left_comm, Nat.xor_assoc]

/-- Multiplication by α^i. -/
def mulPow (i a : Nat) : Nat := gfX^[i] a

theorem mulPow_lt (i : Nat) {a : Nat} (h : a < 256) : mulPow i a < 256 := by
  induction i generalizing a with
  | zero => exact h
  | succ i ih => exact ih (gfX_lt h)

theorem mulPow_xor (i : Nat) {a b : Nat} (ha : a < 256) (hb : b < 256) : mulPow i (a ^^^ b) = mulPow i a ^^^ mulPow i b := by
  induction i generalizing a b with
  | zero => rfl
  | succ i ih => exact (congrArg (mulPow i) (gfX_xor ha hb)).trans (ih (gfX_lt ha) (gfX_lt hb))

theorem mulPow_add (i j a : Nat) : mulPow i (mulPow j a) = mulPow (i + j) a := (Function.iterate_add_apply gfX i j a).symm

/-- The second factor of a syndrome is a single bit, so the product is the power's. -/
theorem gfMul_pow {i : Nat} (hi : i < 4) (a : Nat) : gfMul a ((List.range i).foldl (fun x _ => gfX x) 1) = mulPow i a := by
  interval_cases i <;> simp [gfMul, List.range_succ, mulPow, gfX, bitAt]

/-- The generator's value at α^i is 0, so f times it is. -/
theorem gfGen_root {i : Nat} (hi : i < 4) {f : Nat} (hf : f < 256) :
    mulPow (4 * i) f = mulPow (3 * i) (gfMul f 15) ^^^ mulPow (2 * i) (gfMul f 54) ^^^ mulPow i (gfMul f 120) ^^^ gfMul f 64 := by
  revert f i
  decide +kernel

theorem gfMul_gen_lt {f g : Nat} (hf : f < 256) (hg : g ∈ gfGen) : gfMul f g < 256 := by
  have all : ∀ f < 256, ∀ g ∈ gfGen, gfMul f g < 256 := by decide +kernel
  exact all f hf g hg

/-! ### The remainder and the value at a root -/

/-- One byte of the division by the generator. -/
def remStep (r : List Nat) (b : Byte) : List Nat :=
  (List.range 4).map (fun i => r.getD (i + 1) 0 ^^^ gfMul (b.toNat ^^^ r.getD 0 0) (gfGen.getD i 0))

theorem rsCheck_eq (line : List Byte) : rsCheck line = (line.foldl remStep [0, 0, 0, 0]).map (BitVec.ofNat 8) := rfl

/-- One byte of the evaluation at α^i. -/
def evalStep (i v : Nat) (b : Byte) : Nat := mulPow i v ^^^ b.toNat

theorem rsSyndrome_eq {i : Nat} (hi : i < 4) (cw : List Byte) : rsSyndrome cw i = cw.foldl (evalStep i) 0 := by
  simp only [rsSyndrome, gfMul_pow hi]
  rfl

/-- The value at α^i of what is divided, times α^4i, is the value of the remainder. -/
structure Agrees (i v : Nat) (r : List Nat) : Prop where
  value : v < 256
  rem : ∃ a b c d, r = [a, b, c, d] ∧ (a < 256 ∧ b < 256 ∧ c < 256 ∧ d < 256) ∧
    mulPow (4 * i) v = mulPow (3 * i) a ^^^ mulPow (2 * i) b ^^^ mulPow i c ^^^ d

theorem xor_byte_lt {a b : Nat} (ha : a < 256) (hb : b < 256) : a ^^^ b < 256 := Nat.xor_lt_two_pow (n := 8) ha hb

theorem remStep_four (a b c d : Nat) (x : Byte) : remStep [a, b, c, d] x =
    [b ^^^ gfMul (x.toNat ^^^ a) 15, c ^^^ gfMul (x.toNat ^^^ a) 54, d ^^^ gfMul (x.toNat ^^^ a) 120, gfMul (x.toNat ^^^ a) 64] := by
  simp [remStep, List.range_succ, gfGen]

theorem agrees_step {i v : Nat} {r : List Nat} (hi : i < 4) (h : Agrees i v r) (x : Byte) :
    Agrees i (evalStep i v x) (remStep r x) := by
  obtain ⟨hv, a, b, c, d, rfl, ⟨ha, hb, hc, hd⟩, hval⟩ := h
  have hx : x.toNat < 256 := x.isLt
  have hf := xor_byte_lt hx ha
  have g1 := gfMul_gen_lt hf (g := 15) (by decide)
  have g2 := gfMul_gen_lt hf (g := 54) (by decide)
  have g3 := gfMul_gen_lt hf (g := 120) (by decide)
  have g4 := gfMul_gen_lt hf (g := 64) (by decide)
  have bound (j : Nat) {y : Nat} (hy : y < 256) : mulPow j y < 256 := mulPow_lt j hy
  -- the value moves up by one power of α
  have hv' : mulPow (4 * i) (mulPow i v) = mulPow (4 * i) a ^^^ mulPow (3 * i) b ^^^ mulPow (2 * i) c ^^^ mulPow i d := by
    rw [mulPow_add, Nat.add_comm, ← mulPow_add, hval,
      mulPow_xor i (xor_byte_lt (xor_byte_lt (bound _ ha) (bound _ hb)) (bound _ hc)) hd,
      mulPow_xor i (xor_byte_lt (bound _ ha) (bound _ hb)) (bound _ hc), mulPow_xor i (bound _ ha) (bound _ hb)]
    simp only [mulPow_add]
    ring_nf
  refine ⟨xor_byte_lt (mulPow_lt i hv) hx, _, _, _, _, remStep_four a b c d x,
    ⟨xor_byte_lt hb g1, xor_byte_lt hc g2, xor_byte_lt hd g3, g4⟩, ?_⟩
  -- what the leading coefficient brings in is what the generator's root takes out
  have hroot := gfGen_root hi hf
  rw [mulPow_xor _ hx ha] at hroot
  rw [evalStep, mulPow_xor _ (bound i hv) hx, hv', mulPow_xor _ hb g1, mulPow_xor _ hc g2, mulPow_xor _ hd g3]
  calc _ = mulPow (3 * i) b ^^^ mulPow (2 * i) c ^^^ mulPow i d ^^^ (mulPow (4 * i) x.toNat ^^^ mulPow (4 * i) a) := by ac_rfl
    _ = _ := by rw [hroot]; ac_rfl

theorem agrees_foldl {i v : Nat} {r : List Nat} (hi : i < 4) (h : Agrees i v r) (line : List Byte) :
    Agrees i (line.foldl (evalStep i) v) (line.foldl remStep r) := by
  induction line generalizing v r with
  | nil => exact h
  | cons x line ih => exact ih (agrees_step hi h x)

theorem agrees_zero (i : Nat) : Agrees i 0 [0, 0, 0, 0] := by
  have hz (j : Nat) : mulPow j 0 = 0 := by
    induction j with
    | zero => rfl
    | succ j ih => exact ih
  exact ⟨by decide, 0, 0, 0, 0, rfl, by decide, by simp [hz]⟩

/-- The check bytes, as the last four, bring the value at each root to 0. -/
theorem rsSyndrome_append_rsCheck {i : Nat} (hi : i < 4) (line : List Byte) : rsSyndrome (line ++ rsCheck line) i = 0 := by
  obtain ⟨hv, a, b, c, d, hr, ⟨ha, hb, hc, hd⟩, hval⟩ := agrees_foldl hi (agrees_zero i) line
  have bound (j : Nat) {y : Nat} (hy : y < 256) : mulPow j y < 256 := mulPow_lt j hy
  rw [rsSyndrome_eq hi, List.foldl_append, rsCheck_eq, hr]
  generalize line.foldl (evalStep i) 0 = v at hv hval
  simp only [List.map_cons, List.map_nil, List.foldl_cons, List.foldl_nil, evalStep, BitVec.toNat_ofNat,
    Nat.mod_eq_of_lt (show a < 2 ^ 8 from ha), Nat.mod_eq_of_lt (show b < 2 ^ 8 from hb),
    Nat.mod_eq_of_lt (show c < 2 ^ 8 from hc), Nat.mod_eq_of_lt (show d < 2 ^ 8 from hd)]
  have h1 := xor_byte_lt (bound i hv) ha
  have h2 := xor_byte_lt (bound i h1) hb
  rw [mulPow_xor i (bound i h2) hc, mulPow_xor i (bound i h1) hb, mulPow_xor i (bound i (bound i h1)) (bound i hb),
    mulPow_xor i (bound i hv) ha, mulPow_xor i (bound i (bound i hv)) (bound i ha),
    mulPow_xor i (bound i (bound i (bound i hv))) (bound i (bound i ha))]
  simp only [mulPow_add, show i + i = 2 * i by omega, show i + 2 * i = 3 * i by omega,
    show i + 3 * i = 4 * i by omega]
  calc _ = mulPow (4 * i) v ^^^ (mulPow (3 * i) a ^^^ mulPow (2 * i) b ^^^ mulPow i c ^^^ d) := by ac_rfl
    _ = 0 := by rw [hval, Nat.xor_self]

theorem length_rsCheck (line : List Byte) : (rsCheck line).length = 4 := by
  obtain ⟨-, a, b, c, d, hr, -⟩ := agrees_foldl (by decide) (agrees_zero 0) line
  rw [rsCheck_eq, hr]
  rfl

/-- Settles O55: all four syndromes are zero, so decoding takes the first 64 bytes. -/
theorem lineCodeDecodes : Obligations.LineCodeDecodes := by
  intro line hlen
  have hsyn : (List.range 4).map (rsSyndrome (line ++ rsCheck line)) = [0, 0, 0, 0] := by
    simp [List.range_succ, rsSyndrome_append_rsCheck]
  rw [rsDecode, if_pos hsyn, List.take_left' hlen]

end Sys2Proof.Proofs.LineCode
end

section
/-! PROOF. Sending on a flow: what the flow and the other flows hold after it. -/

namespace Sys2Proof.Proofs.Flows

open Sys2Proof.Machine Sys2Proof.Claims

/-! ### The flows a sender holds -/

theorem txFind_txPut_self (l : List TxFlow) (f : TxFlow) : txFind (txPut l f) f.dst f.flow = some f := by
  induction l with
  | nil => simp [txFind, txPut]
  | cons g l ih =>
    by_cases h : g.dst = f.dst ∧ g.flow = f.flow
    · simp [txFind, txPut, h]
    · rw [txPut, if_neg h, txFind, List.find?_cons_of_neg (by simpa using h)]
      exact ih

theorem txFind_txPut_ne (l : List TxFlow) {f : TxFlow} {d g : Nat} (hne : d ≠ f.dst ∨ g ≠ f.flow) :
    txFind (txPut l f) d g = txFind l d g := by
  have hf : ¬(f.dst = d ∧ f.flow = g) := fun h => hne.elim (· h.1.symm) (· h.2.symm)
  induction l with
  | nil => simpa [txFind, txPut] using hf
  | cons x l ih =>
    by_cases hx : x.dst = f.dst ∧ x.flow = f.flow
    · rw [txPut, if_pos hx, txFind, txFind, List.find?_cons_of_neg (by simpa using hf),
        List.find?_cons_of_neg (by simpa [hx] using hf)]
    · rw [txPut, if_neg hx, txFind, txFind, List.find?_cons, List.find?_cons]
      split
      · rfl
      · exact ih

/-- Putting a flow in its layer changes what no other flow of any layer holds. -/
theorem txFind_set_ne (tx : Vector (List TxFlow) 4) {f : TxFlow} {d g : Nat} (hne : d ≠ f.dst ∨ g ≠ f.flow) (bd : Fin 4) :
    txFind (tx.set bd (txPut tx[bd] f))[flowBd g] d g = txFind tx[flowBd g] d g := by
  by_cases hb : bd = flowBd g
  · subst hb
    simpa using txFind_txPut_ne _ hne
  · rw [Fin.getElem_fin, Vector.getElem_set_ne _ _ (fun h => hb (Fin.ext h)), Fin.getElem_fin]

/-! ### Injection -/

@[simp] theorem inject_tx (s : State) (bd : Fin 4) (p : Packet) : (s.inject bd p).fab.tx = s.fab.tx := by
  unfold State.inject
  split <;> rfl

theorem inject_inj {s : State} {p : Packet} (h : p.dst ≠ s.selfCoord) (bd : Fin 4) :
    (s.inject bd p).fab.inj = s.fab.inj.set bd (s.fab.inj[bd] ++ [p]) := by
  rw [State.inject, if_neg h]

@[simp] theorem inject_mem (s : State) (bd : Fin 4) (p : Packet) : (s.inject bd p).mem = s.mem := by
  unfold State.inject
  split <;> rfl

/-! ### Sending -/

/-- The flow a packet goes out on, a new one where the sender holds none. -/
def flowFor (s : State) (p : Packet) : TxFlow := (txOf s p.dst p.flow).getD ⟨p.dst, p.flow, 0, [], [], false⟩

/-- The packet as it is sent: numbered, and marked while the flow is not acknowledged. -/
def numbered (s : State) (p : Packet) : Packet := { p with seq := (flowFor s p).next % 2 ^ 24, opened := !(flowFor s p).opened }

/-- Room in the window and in the store, behind an empty backlog. -/
def Room (s : State) (p : Packet) : Prop :=
  (flowFor s p).unacked.length < fld (s.reg 0x401C) 0 7 ∧ (flowFor s p).backlog = [] ∧ txStored s.fab.tx[flowBd p.flow] < 16384

/-- The state with a flow of the packet's layer put back. -/
def withFlow (s : State) (p : Packet) (f : TxFlow) : State :=
  { s with fab := { s.fab with tx := s.fab.tx.set (flowBd p.flow) (txPut s.fab.tx[flowBd p.flow] f) } }

/-- The flow after a packet that had room, and after one that waits behind. -/
def flowSent (s : State) (p : Packet) (ow : Owner) : TxFlow := { flowFor s p with
  next := ((flowFor s p).next + 1) % 2 ^ 24, unacked := (flowFor s p).unacked ++ [⟨numbered s p, ow, 0⟩] }

def flowBehind (s : State) (p : Packet) (ow : Owner) : TxFlow := { flowFor s p with
  next := ((flowFor s p).next + 1) % 2 ^ 24, backlog := (flowFor s p).backlog ++ [⟨numbered s p, ow, 0⟩] }

theorem sendFlow_of_room {s : State} {p : Packet} (h : Room s p) (ow : Owner) :
    s.sendFlow p ow = (withFlow s p (flowSent s p ow)).inject (flowBd p.flow) (numbered s p) := by
  simp only [State.sendFlow]
  rw [if_pos, if_pos]
  · rfl
  · simpa [Room, flowFor, txOf, and_assoc] using h
  · simpa [Room, flowFor, txOf, and_assoc] using h

theorem sendFlow_of_no_room {s : State} {p : Packet} (h : ¬Room s p) (ow : Owner) :
    s.sendFlow p ow = withFlow s p (flowBehind s p ow) := by
  simp only [State.sendFlow]
  rw [if_neg, if_neg]
  · rfl
  · simpa [Room, flowFor, txOf, and_imp] using h
  · simpa [Room, flowFor, txOf, and_imp] using h

theorem txOf_withFlow_self (s : State) {p : Packet} {f : TxFlow} (hd : f.dst = p.dst) (hf : f.flow = p.flow) :
    txOf (withFlow s p f) p.dst p.flow = some f := by
  have h := txFind_txPut_self s.fab.tx[flowBd p.flow] f
  rw [hd, hf] at h
  simpa [txOf, withFlow] using h

theorem txOf_withFlow_ne (s : State) {p : Packet} {f : TxFlow} (hd : f.dst = p.dst) (hf : f.flow = p.flow) {d g : Nat}
    (hne : d ≠ p.dst ∨ g ≠ p.flow) : txOf (withFlow s p f) d g = txOf s d g :=
  txFind_set_ne s.fab.tx (by rwa [hd, hf]) _

/-- Settles O25, with room and without. -/
theorem flowSendsInOrder : Obligations.FlowSendsInOrder := by
  intro s p ow f q room hf
  by_cases hr : Room s p
  · rw [sendFlow_of_room hr]
    have hself := txOf_withFlow_self s (f := flowSent s p ow) hf.1 hf.2
    refine ⟨fun _ => ⟨by rw [txOf, inject_tx]; exact hself, fun hq => ?_⟩, fun h => absurd hr h, fun d g h => ?_, by simp [withFlow]⟩
    · rw [inject_inj (by exact hq)]
      exact Vector.getElem_set_self _
    · rw [txOf, inject_tx]
      exact txOf_withFlow_ne s (f := flowSent s p ow) hf.1 hf.2 h
  · rw [sendFlow_of_no_room hr]
    exact ⟨fun h => absurd h hr, fun _ => ⟨txOf_withFlow_self s (f := flowBehind s p ow) hf.1 hf.2, rfl⟩,
      fun d g h => txOf_withFlow_ne s (f := flowBehind s p ow) hf.1 hf.2 h, rfl⟩

end Sys2Proof.Proofs.Flows
end

section
/-! PROOF. Routing: each productive port leads one hop nearer. -/

namespace Sys2Proof.Proofs.Routing

open Sys2Proof.Machine Sys2Proof.Claims Sys2Proof.Proofs.BitFields

theorem mem_productive {t : RTable} (h : t.excs = []) {dst q : Nat} : q ∈ productive t dst ↔ ∃ a < 4, q ∈ axisPorts t dst a := by
  simp [productive, h]

/-- A port of an axis is 2 or 2 + 1 of it, on the side the distance says. -/
theorem mem_axisPorts {t : RTable} {dst a q : Nat} : q ∈ axisPorts t dst a ↔ t.extent a ≠ 1 ∧ axisDist t dst a ≠ 0 ∧
    (q = 2 * a ∧ 2 * axisDist t dst a ≤ t.extent a ∨ q = 2 * a + 1 ∧ t.extent a ≤ 2 * axisDist t dst a) := by
  unfold axisPorts
  by_cases h0 : t.extent a = 1 ∨ axisDist t dst a = 0
  · simp only [if_pos h0, List.not_mem_nil, false_iff]
    tauto
  · obtain ⟨hx, hd⟩ := not_or.mp h0
    simp only [if_neg h0]
    split_ifs <;> simp only [List.mem_cons, List.not_mem_nil, or_false] <;> omega

/-- Axis a of a table: the device and the destination lie in the extent, and its component has the axis's width. -/
theorem extent_bounds {t : RTable} (h : TableOk t) {a : Nat} (ha : a < 4) :
    1 ≤ t.extent a ∧ t.extent a ≤ 2 ^ (if a = 3 then 4 else 5) ∧ coordAxis t.self a < t.extent a := by
  have hh := h ⟨a, ha⟩
  have he : t.extent a = t.ext[(⟨a, ha⟩ : Fin 4)] := by simp [RTable.extent, Nat.mod_eq_of_lt ha]
  rw [he]
  refine ⟨hh.1, hh.2.1.trans_eq ?_, hh.2.2⟩
  by_cases h3 : a = 3
  · subst h3; rfl
  · rw [if_neg h3, if_neg (fun c => h3 (congrArg Fin.val c))]; rfl

theorem coordAxis_setAxis {c a v : Nat} (hv : v < 2 ^ (if a = 3 then 4 else 5)) : coordAxis (setAxis c a v) a = v := by
  rw [coordAxis, setAxis, fld_setFld_self, Nat.mod_eq_of_lt hv]

/-- The distance from m to d going up around an axis of extent x. -/
def ringDist (x m d : Nat) : Nat := if m ≤ d then d - m else d + x - m

theorem axisDist_eq {t : RTable} {dst a m : Nat} (hm : coordAxis t.self a = m) (hs : m < t.extent a)
    (hd : coordAxis dst a < t.extent a) : axisDist t dst a = ringDist (t.extent a) m (coordAxis dst a) := by
  rw [axisDist, hm, Nat.mod_eq_of_lt hs, ringDist]
  split
  · rw [show coordAxis dst a + t.extent a - m = coordAxis dst a - m + t.extent a by omega, Nat.add_mod_right,
      Nat.mod_eq_of_lt (by omega)]
  · exact Nat.mod_eq_of_lt (by omega)

/-- One hop up shortens a distance up of at most half the way round. -/
theorem ringDist_up {x m d : Nat} (hm : m < x) (hd : d < x) (h0 : ringDist x m d ≠ 0) (h : 2 * ringDist x m d ≤ x) :
    min (ringDist x ((m + 1) % x) d) (x - ringDist x ((m + 1) % x) d) + 1 = min (ringDist x m d) (x - ringDist x m d) := by
  have hnext : (m + 1) % x = if m + 1 = x then 0 else m + 1 := by
    split
    · simp [*]
    · exact Nat.mod_eq_of_lt (by omega)
  rw [hnext]
  simp only [ringDist] at *
  split_ifs at * <;> omega

/-- One hop down shortens a distance up of at least half the way round. -/
theorem ringDist_down {x m d : Nat} (hm : m < x) (hd : d < x) (h : x ≤ 2 * ringDist x m d) :
    min (ringDist x ((m + x - 1) % x) d) (x - ringDist x ((m + x - 1) % x) d) + 1 = min (ringDist x m d) (x - ringDist x m d) := by
  have hnext : (m + x - 1) % x = if m = 0 then x - 1 else m - 1 := by
    split
    · subst m; rw [Nat.zero_add]; exact Nat.mod_eq_of_lt (by omega)
    · rw [show m + x - 1 = m - 1 + x by omega, Nat.add_mod_right, Nat.mod_eq_of_lt (by omega)]
  rw [hnext]
  simp only [ringDist] at *
  split_ifs at * <;> omega

/-- Settles O30: along the port's axis the nearer way round shortens by one. -/
theorem productivePortsApproach : Obligations.ProductivePortsApproach := by
  intro t dst p c n hok hexc _ _ hdst hp hn
  obtain ⟨a, ha, hq⟩ := (mem_productive hexc).mp hp
  obtain ⟨hx1, hd0, hside⟩ := mem_axisPorts.mp hq
  have hpa : p.val / 2 = a := by omega
  obtain ⟨-, hw, hs⟩ := extent_bounds hok ha
  have hd : coordAxis dst a < t.extent a := by simpa [RTable.extent, Nat.mod_eq_of_lt ha] using hdst ⟨a, ha⟩
  have hx : 0 < t.extent a := by omega
  simp only [expectNeighbour, hpa, if_neg hx1, Option.some.injEq, Prod.mk.injEq] at hn
  obtain ⟨rfl, -⟩ := hn
  rw [axisDist_eq rfl hs hd] at hd0 hside
  have moved {v : Nat} (hv : v < t.extent a) : axisDist { t with self := setAxis t.self a v } dst a =
      ringDist (t.extent a) v (coordAxis dst a) := axisDist_eq (coordAxis_setAxis (hv.trans_le hw)) hv hd
  rw [hpa, remaining, remaining, axisDist_eq rfl hs hd]
  obtain ⟨hp, hle⟩ | ⟨hp, hle⟩ := hside
  · rw [if_pos (by omega), moved (Nat.mod_lt _ hx)]
    exact ringDist_up hs hd hd0 hle
  · rw [if_neg (by omega), moved (Nat.mod_lt _ hx)]
    exact ringDist_down hs hd hle

end Sys2Proof.Proofs.Routing
end

section
/-! PROOF. A step on an empty queue: no read or write that its home could perform waits afterwards. -/

namespace Sys2Proof.Proofs.IdleStep

open Sys2Proof.Machine Sys2Proof.Claims

/-! ### What serving a request leaves in the homes' queue -/

theorem log_homeQ (s : State) (c1 c2 die unit detail addr : Nat) : (s.log c1 c2 die unit detail addr).homeQ = s.homeQ := by
  obtain ⟨q, r, h⟩ := s.log_rest c1 c2 die unit detail addr
  rw [h]

theorem event_homeQ (s : State) (ty src : Nat) (p : List (Nat × Nat × Nat)) : (s.event ty src p).homeQ = s.homeQ := by
  obtain ⟨q, h⟩ := s.event_rest ty src p
  rw [h]

theorem sendFlit_homeQ (s : State) (key : Nat) (body : List Byte) : (s.sendFlit key body).homeQ = s.homeQ := by
  obtain ⟨b, o, h⟩ := s.sendFlit_rest key body
  rw [h]

theorem writeLine_homeQ (s : State) (a : Nat) (bs : List Byte) : (s.writeLine a bs).homeQ = s.homeQ := by
  unfold State.writeLine
  repeat' split
  all_goals rfl

theorem poisonLine_homeQ (s : State) (a : Nat) : (s.poisonLine a).homeQ = s.homeQ := by
  unfold State.poisonLine
  split <;> rfl

theorem corrected_homeQ (s : State) (l : Nat) : (s.corrected l).homeQ = s.homeQ := by
  unfold State.corrected
  dsimp only
  split <;> split
  all_goals simp only [log_homeQ, State.countReg_homeQ]

theorem newPoison_homeQ (s : State) (l : Nat) : (s.newPoison l).homeQ = s.homeQ := by
  unfold State.newPoison
  rw [event_homeQ, log_homeQ, State.countReg_homeQ]

theorem readHome_homeQ (s : State) (l : Nat) (err : List Byte) (b : Bool) : (s.readHome l err b).homeQ = s.homeQ := by
  have give (t : State) : (if b then t.deliver l else t).homeQ = t.homeQ := by
    split <;> rfl
  unfold State.readHome
  dsimp only
  split
  · exact give s
  · split
    · exact give s
    · split
      · rw [give, corrected_homeQ]
      · split
        · simp only [State.countReg_homeQ]
        · rw [give, newPoison_homeQ, State.countReg_homeQ]

theorem sendCompletion_homeQ (s : State) (key tag status word : Nat) (line : Option (List Byte × Bool)) :
    (s.sendCompletion key tag status word line).homeQ = s.homeQ := by
  unfold State.sendCompletion
  cases line <;> simp only [sendFlit_homeQ]

theorem flitRead_homeQ (s : State) (key : Nat) (flit : List Byte) : (s.flitRead key flit).homeQ = s.homeQ := by
  unfold State.flitRead
  dsimp only
  split <;> exact sendCompletion_homeQ ..

theorem flitWrite_homeQ (s : State) (key : Nat) (req line : List Byte) (poison : Bool) :
    (s.flitWrite key req line poison).homeQ = s.homeQ := by
  unfold State.flitWrite
  dsimp only
  repeat' split
  all_goals simp only [sendCompletion_homeQ, writeLine_homeQ, poisonLine_homeQ]

theorem homeServe_homeQ (s : State) (r : HomeReq) : (s.homeServe r).homeQ = s.homeQ := by
  unfold State.homeServe
  repeat' split
  all_goals simp only [readHome_homeQ, poisonLine_homeQ, writeLine_homeQ, State.emit_homeQ, flitRead_homeQ, flitWrite_homeQ]

/-! ### Draining -/

/-- The next request is one of the queue. -/
theorem homeNext_lt {s : State} {i : Nat} {r : HomeReq} (h : s.homeNext = some (i, r)) : i < s.homeQ.length := by
  have hm := List.of_mem_zip (List.mem_of_find?_eq_some h)
  exact List.mem_range.mp hm.1

theorem homeNext_of_empty {s : State} (h : s.homeQ = []) : s.homeNext = none := by
  simp [State.homeNext, h]

/-- Each turn takes one request away and brings none, so as many turns as requests leave none that could be performed. -/
theorem homeNext_homeDrain {n : Nat} {s : State} (h : s.homeQ.length ≤ n) : (s.homeDrain n).homeNext = none := by
  induction n generalizing s with
  | zero => exact homeNext_of_empty (List.length_eq_zero_iff.mp (Nat.le_zero.mp h))
  | succ n ih =>
    rw [State.homeDrain]
    split
    · assumption
    · rename_i i r hn
      refine ih ?_
      have hi := homeNext_lt hn
      rw [homeServe_homeQ]
      change (s.homeQ.eraseIdx i).length ≤ n
      rw [List.length_eraseIdx_of_lt hi]
      omega

theorem homeDrain_of_none {s : State} (h : s.homeNext = none) (n : Nat) : s.homeDrain n = s := by
  cases n with
  | zero => rfl
  | succ n => rw [State.homeDrain, h]

/-- What a nanosecond changes besides: clocks and counts of time, which no home asks. -/
theorem homeNext_congr {s t : State} (hq : t.homeQ = s.homeQ) (hr : t.regs = s.regs) (hm : t.memc = s.memc)
    (hf : t.boot.failed = s.boot.failed) (hd : ∀ i : Cd, (t.die i).sb = (s.die i).sb) : t.homeNext = s.homeNext := by
  have hloc : t.loc = s.loc := HomeLocations.loc_congr (fun o _ => State.reg_of_regs hr o) hf
  have hopen (a : Nat) : t.homeOpen a = s.homeOpen a := by
    simp only [State.homeOpen, hloc, State.tierReady, State.underTest, State.reg_of_regs hr, hm]
  have hheld (w : Nat) : t.sbHeld w = s.sbHeld w := by simp only [State.sbHeld, hd]
  simp only [State.homeNext, hq, hopen, hheld]

/-- Settles O56: by the queue's front, or by the drain of the homes' queue. -/
theorem stepTakesFront : Obligations.StepTakesFront := by
  refine ⟨fun c rest s h => step_cons h, fun s h => ⟨idleTick s, step_nil h, rfl, fun hp => ?_, fun hp => ?_, fun hn => ?_⟩⟩
  · rw [idleTick, if_pos hp]
  · have hp' : ¬s.boot.powered = false := by simp [hp]
    rw [idleTick, if_neg hp', ← homeNext_homeDrain (le_refl s.homeQ.length)]
    refine homeNext_congr rfl rfl rfl rfl fun i => ?_
    simp [State.die]
  · by_cases hp : s.boot.powered = false
    · rw [idleTick, if_pos hp]
      exact ⟨rfl, rfl, rfl, rfl, rfl, rfl, fun c => absurd (hp.symm.trans c) Bool.false_ne_true⟩
    · rw [idleTick, if_neg hp]
      simp [homeDrain_of_none hn]

end Sys2Proof.Proofs.IdleStep
end

section
/-! PROOF. Fields of byte strings, and what an event and a completion hold. -/

namespace Sys2Proof.Proofs.ByteFields

open Sys2Proof.Machine Sys2Proof.Claims Sys2Proof.Proofs.MemoryAccess

/-! ### Fields of byte strings -/

@[simp] theorem length_sliceB (bs : List Byte) (off n : Nat) : (sliceB bs off n).length = n := by simp [sliceB]

@[simp] theorem length_putB {bs : List Byte} {off n : Nat} (h : off + n ≤ bs.length) (v : Nat) :
    (putB bs off n v).length = bs.length := by
  simp [putB, length_natLE]
  omega

theorem getD_putB {bs : List Byte} {off n : Nat} (h : off + n ≤ bs.length) (v i : Nat) :
    (putB bs off n v).getD i 0 = if off ≤ i ∧ i < off + n then (natLE n v).getD (i - off) 0 else bs.getD i 0 := by
  have hm : (bs.take off).length = off := by simp; omega
  unfold putB
  simp only [List.getD_eq_getElem?_getD, List.append_assoc]
  rcases Nat.lt_or_ge i off with h1 | h1
  · rw [List.getElem?_append_left (by omega), List.getElem?_take_of_lt h1, if_neg (by omega)]
  · rw [List.getElem?_append_right (by omega), hm]
    rcases Nat.lt_or_ge i (off + n) with h2 | h2
    · rw [List.getElem?_append_left (by simp; omega), if_pos ⟨h1, h2⟩]
    · rw [List.getElem?_append_right (by simp; omega), length_natLE, List.getElem?_drop, if_neg (by omega),
        show off + n + (i - off - n) = i by omega]

theorem sliceB_congr {bs cs : List Byte} {off n : Nat} (h : ∀ i, off ≤ i → i < off + n → bs.getD i 0 = cs.getD i 0) :
    sliceB bs off n = sliceB cs off n :=
  List.map_congr_left fun i hi => h _ (by omega) (by have := List.mem_range.mp hi; omega)

theorem sliceB_whole (bs : List Byte) : sliceB bs 0 bs.length = bs := by
  refine List.ext_getElem (by simp) fun i h1 h2 => ?_
  simp [sliceB, h2]

theorem fieldB_putB_self {bs : List Byte} {off n : Nat} (h : off + n ≤ bs.length) (v : Nat) :
    fieldB (putB bs off n v) off n = v % 2 ^ (8 * n) := by
  have hs : sliceB (putB bs off n v) off n = natLE n v := by
    refine List.ext_getElem (by simp [length_natLE]) fun i h1 h2 => ?_
    rw [length_sliceB] at h1
    simp only [sliceB, List.getElem_map, List.getElem_range, getD_putB h]
    rw [if_pos (by omega), Nat.add_sub_cancel_left, List.getD_eq_getElem _ _ h2]
  rw [fieldB, hs, leNat_natLE, pow_mul]; rfl

theorem fieldB_putB_disjoint {bs : List Byte} {off n off' n' : Nat} (h : off + n ≤ bs.length)
    (hd : off' + n' ≤ off ∨ off + n ≤ off') (v : Nat) : fieldB (putB bs off n v) off' n' = fieldB bs off' n' := by
  rw [fieldB, fieldB, sliceB_congr fun i h1 h2 => ?_]
  rw [getD_putB h, if_neg (by omega)]

theorem fieldB_zeroB (len off n : Nat) : fieldB (zeroB len) off n = 0 := by
  have hz (i : Nat) : (zeroB len).getD i 0 = 0 := by
    simp only [zeroB, List.getD_eq_getElem?_getD, List.getElem?_replicate]
    split <;> rfl
  have hl (k : Nat) : leNat (List.replicate k 0) = 0 := by
    induction k with
    | zero => rfl
    | succ k ih => rw [List.replicate_succ, leNat, ih]; rfl
  have hs : sliceB (zeroB len) off n = List.replicate n 0 :=
    List.ext_getElem (by simp) fun i h1 h2 => by simp only [sliceB, List.getElem_map, hz, List.getElem_replicate]
  rw [fieldB, hs, hl]

theorem leNat_lt (bs : List Byte) : leNat bs < 256 ^ bs.length := by
  induction bs with
  | nil => exact Nat.one_pos
  | cons b bs ih =>
    have hb : b.toNat < 256 := b.isLt
    rw [leNat, List.length_cons, pow_succ]
    omega

theorem fieldB_lt (bs : List Byte) (off n : Nat) : fieldB bs off n < 2 ^ (8 * n) := by
  have h := leNat_lt (sliceB bs off n)
  rw [length_sliceB] at h
  rwa [pow_mul]

/-! ### Several fields put one after another -/

/-- Fields put in 64 bytes: offset, length and value. -/
def putAll (b : List Byte) (l : List (Nat × Nat × Nat)) : List Byte := l.foldl (fun b p => putB b p.1 p.2.1 p.2.2) b

/-- Two fields share no byte. -/
def Apart (x y : Nat × Nat × Nat) : Prop := x.1 + x.2.1 ≤ y.1 ∨ y.1 + y.2.1 ≤ x.1

/-- The fields lie in 64 bytes. -/
def Fit (l : List (Nat × Nat × Nat)) : Prop := ∀ x ∈ l, x.1 + x.2.1 ≤ 64

theorem Fit.tail {x : Nat × Nat × Nat} {l : List (Nat × Nat × Nat)} (h : Fit (x :: l)) : Fit l := fun y hy => h y (.tail _ hy)

theorem length_putAll {b : List Byte} (hb : b.length = 64) {l : List (Nat × Nat × Nat)} (h : Fit l) : (putAll b l).length = 64 := by
  induction l generalizing b with
  | nil => exact hb
  | cons x l ih => exact ih ((length_putB (hb ▸ h x (.head _)) _).trans hb) h.tail

theorem fieldB_putAll_of_apart {b : List Byte} (hb : b.length = 64) {l : List (Nat × Nat × Nat)} (h : Fit l) {off n : Nat}
    (hd : ∀ x ∈ l, Apart (off, n, 0) x) : fieldB (putAll b l) off n = fieldB b off n := by
  induction l generalizing b with
  | nil => rfl
  | cons x l ih =>
    have hx : x.1 + x.2.1 ≤ b.length := hb ▸ h x (.head _)
    exact (ih ((length_putB hx _).trans hb) h.tail fun y hy => hd y (.tail _ hy)).trans
      (fieldB_putB_disjoint hx (hd x (.head _)) _)

/-- A field put among others apart from it reads as put. -/
theorem fieldB_putAll {b : List Byte} (hb : b.length = 64) {l : List (Nat × Nat × Nat)} (h : Fit l) (hp : l.Pairwise Apart)
    {off n v : Nat} (hm : (off, n, v) ∈ l) : fieldB (putAll b l) off n = v % 2 ^ (8 * n) := by
  induction l generalizing b with
  | nil => exact absurd hm (List.not_mem_nil)
  | cons x l ih =>
    have hx : x.1 + x.2.1 ≤ b.length := hb ▸ h x (.head _)
    have hlen := (length_putB hx x.2.2).trans hb
    obtain ⟨hxl, hp'⟩ := List.pairwise_cons.mp hp
    rcases List.mem_cons.mp hm with rfl | hm
    · exact (fieldB_putAll_of_apart hlen h.tail hxl).trans (fieldB_putB_self hx v)
    · exact ih hlen h.tail hp' hm

theorem length_zeroB (n : Nat) : (zeroB n).length = n := by simp [zeroB]

/-! ### Events -/

/-- The fields of an event (Table 10-11). -/
def eventFields (ty src time : Nat) (payload : List (Nat × Nat × Nat)) : List (Nat × Nat × Nat) :=
  (0, 2, ty) :: (2, 1, src) :: (8, 8, time) :: payload

/-- The pieces of a payload lie behind the event's own fields, apart from each other. -/
def PayloadFits (payload : List (Nat × Nat × Nat)) : Prop :=
  (∀ x ∈ payload, 16 ≤ x.1 ∧ x.1 + x.2.1 ≤ 64) ∧ payload.Pairwise Apart

section
variable {payload : List (Nat × Nat × Nat)} (h : PayloadFits payload) (ty src time : Nat)
include h

theorem fit_eventFields : Fit (eventFields ty src time payload) := by
  simp only [Fit, eventFields, List.forall_mem_cons]
  exact ⟨by omega, by omega, by omega, fun x hx => (h.1 x hx).2⟩

theorem apart_eventFields : (eventFields ty src time payload).Pairwise Apart := by
  have hb (x : Nat × Nat × Nat) (hx : x ∈ payload) : 16 ≤ x.1 := (h.1 x hx).1
  simp only [eventFields, List.pairwise_cons, List.forall_mem_cons, Apart]
  exact ⟨⟨by omega, by omega, fun x hx => .inl (by have := hb x hx; omega)⟩,
    ⟨by omega, fun x hx => .inl (by have := hb x hx; omega)⟩, fun x hx => .inl (hb x hx), h.2⟩

theorem fieldB_eventBytes {off n v : Nat} (hm : (off, n, v) ∈ eventFields ty src time payload) :
    fieldB (eventBytes ty src time payload) off n = v % 2 ^ (8 * n) :=
  fieldB_putAll (length_zeroB 64) (fit_eventFields h ty src time) (apart_eventFields h ty src time) hm

theorem isEvent_eventBytes : IsEvent ⟨src, none, true, eventBytes ty src time payload, false, 0, none⟩ ty src time :=
  ⟨rfl, rfl, rfl, length_putAll (length_zeroB 64) (fit_eventFields h ty src time),
    fieldB_eventBytes h ty src time (.head _), fieldB_eventBytes h ty src time (.tail _ (.head _)),
    fieldB_eventBytes h ty src time (.tail _ (.tail _ (.head _)))⟩

end

/-! ### Completions -/

/-- The fields of a completion (Table 10-8). -/
def completionFields (src : Nat) (c : Cmd) (status x1 x2 : Nat) : List (Nat × Nat × Nat) :=
  [(0, 4, fieldB c.bytes 4 4), (4, 2, c.ring), (6, 1, fieldB c.bytes 0 1), (7, 1, status), (8, 4, c.idx), (16, 1, src),
    (20, 8, x1), (28, 8, x2)]

/-- The completion entry of a command. -/
def completion (src : Nat) (c : Cmd) (status x1 x2 : Nat) : Entry :=
  ⟨src, some c.cring, false, putAll (zeroB 64) (completionFields src c status x1 x2), bitAt (fieldB c.bytes 1 1) 1, c.ring, none⟩

theorem isCompletion_completion (src : Nat) (c : Cmd) (status x1 x2 : Nat) :
    IsCompletion (completion src c status x1 x2) c src status x1 x2 := by
  have hfit : Fit (completionFields src c status x1 x2) := by simp [Fit, completionFields]
  have hap : (completionFields src c status x1 x2).Pairwise Apart := by simp [completionFields, Apart]
  have field {off n v : Nat} (hm : (off, n, v) ∈ completionFields src c status x1 x2) :=
    fieldB_putAll (length_zeroB 64) hfit hap hm
  refine ⟨rfl, rfl, rfl, length_putAll (length_zeroB 64) hfit, ?_, field ?_, ?_, field ?_, field ?_, field ?_, field ?_, field ?_⟩
  · exact (field (by simp [completionFields])).trans (Nat.mod_eq_of_lt (fieldB_lt _ _ _))
  · simp [completionFields]
  · exact (field (by simp [completionFields])).trans (Nat.mod_eq_of_lt (fieldB_lt _ _ _))
  all_goals simp [completionFields]

/-! ### What is held for the host -/

/-- The entries held, with one more unless a reset discards it (R357, R364). -/
def holding (h : HostSt) (e : Entry) : HostSt := if h.resetting = 0 then { h with heldQ := h.heldQ ++ [e] } else h

theorem hold_eq (s : State) (e : Entry) : s.hold e = { s with host := holding s.host e } := by
  unfold State.hold holding
  split <;> rfl

theorem holding_heldQ {h : HostSt} (hr : h.resetting = 0) (e : Entry) : (holding h e).heldQ = h.heldQ ++ [e] := by
  rw [holding, if_pos hr]

theorem event_eq (s : State) (ty src : Nat) (p : List (Nat × Nat × Nat)) :
    s.event ty src p = { s with host := holding s.host ⟨src, none, true, eventBytes ty src s.time p, false, 0, none⟩ } :=
  hold_eq _ _

/-- The command is no longer among those outstanding. -/
def without (h : HostSt) (c : Cmd) : HostSt := { h with cmds := h.cmds.filter (fun d => !(d.ring == c.ring && d.idx == c.idx)) }

theorem complete_eq (s : State) (src : Nat) (c : Cmd) (status x1 x2 : Nat) :
    s.complete src c status x1 x2 = { s with host := holding (without s.host c) (completion src c status x1 x2) } :=
  hold_eq _ _

/-! ### The error log and the dependability status -/

/-- The queue of log entries, with one more while 256 do not wait (R370). -/
def logAfter (s : State) (cls dieCls die unit detail addr : Nat) : List LogRec :=
  if s.logQ.length < 256 then s.logQ ++ [⟨s.time, cls, dieCls, die, unit, detail, addr⟩] else s.logQ

/-- The registers after it: a lost entry is counted. -/
def logRegs (s : State) : List (Nat × Nat) :=
  if s.logQ.length < 256 then s.regs else ((s.orReg 0x704C 4).countReg 0x7054 1).regs

theorem log_eq (s : State) (cls dieCls die unit detail addr : Nat) :
    s.log cls dieCls die unit detail addr =
      { s with logQ := logAfter s cls dieCls die unit detail addr, regs := logRegs s } := by
  unfold State.log logAfter logRegs
  split <;> rfl

theorem logAfter_of_room {s : State} (h : s.logQ.length < 256) (cls dieCls die unit detail addr : Nat) :
    logAfter s cls dieCls die unit detail addr = s.logQ ++ [⟨s.time, cls, dieCls, die, unit, detail, addr⟩] := if_pos h

theorem depStatus_eq (s : State) (bits : Nat) : s.depStatus bits = { s with regs := (s.depStatus bits).regs } := by
  obtain ⟨r, h⟩ := s.depStatus_rest bits
  rw [h]

theorem reg_depStatus_ne (s : State) {o : Nat} (bits : Nat) (h : o ≠ 0x7000) (h' : o ≠ 0x30) :
    (s.depStatus bits).reg o = s.reg o := by
  unfold State.depStatus
  dsimp only
  split
  · rw [State.orReg, State.reg_setReg_ne _ _ h', State.orReg, State.reg_setReg_ne _ _ h]
  · rw [State.orReg, State.reg_setReg_ne _ _ h]

theorem testBit_depStatus (s : State) (bits : Nat) {i : Nat} (hi : i < 32) :
    ((s.depStatus bits).reg 0x7000).testBit i = ((s.reg 0x7000).testBit i || bits.testBit i) := by
  unfold State.depStatus
  dsimp only
  split
  · rw [State.orReg, State.reg_setReg_ne _ _ (by decide)]
    exact Registers.testBit_orReg _ _ hi
  · exact Registers.testBit_orReg _ _ hi

theorem reg_log_ne (s : State) {o : Nat} (cls dieCls die unit detail addr : Nat) (h : o ≠ 0x704C) (h' : o ≠ 0x7054) :
    (s.log cls dieCls die unit detail addr).reg o = s.reg o := by
  unfold State.log
  split
  · rfl
  · rw [State.countReg, State.reg_setReg_ne _ _ h', State.orReg, State.reg_setReg_ne _ _ h]

/-- A field of a register's word. -/
theorem fld_mod_word (x lo n : Nat) (h : lo + n ≤ 32) : fld (x % 2 ^ 32) lo n = fld x lo n :=
  Nat.eq_of_testBit_eq fun j => by
    rw [BitFields.testBit_fld, BitFields.testBit_fld, Nat.testBit_mod_two_pow]
    by_cases hj : j < n
    · simp [hj, show lo + j < 32 by omega]
    · simp [hj]

/-! ### Events of the fabric -/

theorem eventBoth_eq (s : State) (ty src : Nat) (p : List (Nat × Nat × Nat)) :
    s.eventBoth ty src p = { s with
      out := .maltster ty (eventBytes ty src s.time p) :: s.out
      host := holding s.host ⟨src, none, true, eventBytes ty src s.time p, false, 0, none⟩ } :=
  event_eq _ _ _ _

/-- The payload of a fabric event. -/
def fabPayload (bits port : Nat) : List (Nat × Nat × Nat) := [(16, 4, bits), (20, 1, port)]

theorem fabEvent_eq (s : State) (bits port : Nat) :
    s.fabEvent bits port = { s with
      regs := (s.orReg 0x4014 bits).regs
      out := .maltster 4 (eventBytes 4 29 s.time (fabPayload bits port)) :: s.out
      host := holding s.host ⟨29, none, true, eventBytes 4 29 s.time (fabPayload bits port), false, 0, none⟩ } :=
  eventBoth_eq _ _ _ _

end Sys2Proof.Proofs.ByteFields
end

section
/-! PROOF. Ports: bring-up, link events and the slot clock. -/

namespace Sys2Proof.Proofs.Ports

open Sys2Proof.Machine Sys2Proof.Claims Sys2Proof.Proofs.ByteFields Sys2Proof.Proofs.Registers Sys2Proof.Proofs.BitFields

/-! ### A port's record -/

@[simp] theorem port_setPort_self (s : State) (p : Port) (x : PortSt) : (s.setPort p x).port p = x := by
  simp [State.port, State.setPort]

theorem port_setPort_ne (s : State) {p o : Port} (h : o ≠ p) (x : PortSt) : (s.setPort p x).port o = s.port o := by
  simp [State.port, State.setPort, Fin.val_ne_of_ne (Ne.symm h)]

@[simp] theorem setPort_setPort (s : State) (p : Port) (x y : PortSt) : (s.setPort p x).setPort p y = s.setPort p y := by
  simp [State.setPort]

@[simp] theorem port_emit (s : State) (p : Port) (e : Emit) : (s.emit e).port p = s.port p := rfl

@[simp] theorem port_setReg (s : State) (p : Port) (o v : Nat) : (s.setReg o v).port p = s.port p := rfl

/-! ### A port that goes down, degrades or meets another neighbour -/

section
variable (s : State) (p : Port)

theorem port_fabEvent (bits port : Nat) : (s.fabEvent bits port).port p = s.port p := by rw [fabEvent_eq]; rfl

theorem testBit_fabEvent (bits port : Nat) {i : Nat} (hi : i < 32) :
    ((s.fabEvent bits port).reg 0x4014).testBit i = ((s.reg 0x4014).testBit i || bits.testBit i) := by
  rw [fabEvent_eq]
  exact testBit_orReg s bits hi

/-- What the loss of a port leaves, whatever it goes to: the port, its fabric event, its log record and the degraded mark. -/
structure Lost (t : State) (x : PortSt) (bit : Nat) (r : LogRec) : Prop where
  port : t.fab.ports[p] = x
  mem : t.mem = s.mem
  out : ∃ b, t.out = .maltster 0x0004 b :: s.out
  event : bitAt (t.reg 0x4014) bit = true
  log : s.logQ.length < 256 → t.logQ = s.logQ ++ [r]
  degraded : bitAt (t.reg 0x7000) 0 = true

/-- Down and degrade are the same steps with other values. -/
theorem lost_of_steps (x : PortSt) (bit cls unit detail : Nat) (hb : bit < 32) :
    Lost s p ((((s.setPort p x).fabEvent (2 ^ bit) p.val).log cls 4 p.val unit detail 0).depStatus 1) x bit
      ⟨s.time, cls, 4, p.val, unit, detail, 0⟩ := by
  constructor
  · rw [depStatus_eq, log_eq, fabEvent_eq]
    simp [State.setPort]
  · rw [depStatus_eq, log_eq, fabEvent_eq]
    rfl
  · rw [depStatus_eq, log_eq, fabEvent_eq]
    exact ⟨_, rfl⟩
  · rw [reg_depStatus_ne _ _ (by decide) (by decide), reg_log_ne _ _ _ _ _ _ _ (by decide) (by decide), bitAt_eq_testBit,
      testBit_fabEvent _ _ _ hb, Nat.testBit_two_pow_self, Bool.or_true]
  · intro h
    rw [depStatus_eq, log_eq, fabEvent_eq]
    exact logAfter_of_room h ..
  · rw [bitAt_eq_testBit, testBit_depStatus _ _ (by decide)]
    simp

theorem lost_portDown (cause : Nat) : Lost s p (s.portDown p cause)
    { (s.port p).enter 8 with downs := (s.port p).downs + 1 } 2 ⟨s.time, 10, 4, p.val, p.val, cause, 0⟩ :=
  lost_of_steps s p _ 2 10 p.val cause (by decide)

theorem lost_portDegrade (lanes lost : Nat) : Lost s p (s.portDegrade p lanes lost)
    { s.port p with state := 6, lanes := lanes, laneDrops := (s.port p).laneDrops + 1 } 3 ⟨s.time, 9, 4, p.val, lost, 6, 0⟩ :=
  lost_of_steps s p _ 3 9 lost 6 (by decide)

end

/-! ### Bring-up -/

theorem portFenced_false {s : State} {p : Port} (hb : s.boot.failed = false) (hh : (s.hafDie (80 + p.val)).state < 4) :
    s.portFenced p = false := by
  simp only [State.portFenced, hb, Bool.false_or, Bool.or_eq_false_iff, beq_eq_false_iff_ne]
  omega

@[simp] theorem reg_setPort (s : State) (p : Port) (x : PortSt) (o : Nat) : (s.setPort p x).reg o = s.reg o := rfl

theorem portGo_of_waits {s : State} {p : Port} (h : ((s.port p).goSent && (s.port p).goRecv) = false) : s.portGo p = s := by
  simp [State.portGo, h]

theorem portGo_of_four {s : State} {p : Port} (h : ((s.port p).goSent && (s.port p).goRecv) = true) (hl : (s.port p).lanes = 15) :
    s.portGo p = s.setPort p { (s.port p).enter 5 with lanes := 15 } := by
  have h4 : laneCount 15 = 4 := by decide
  simp [State.portGo, h, hl, h4]

theorem portEnable_eq {s : State} {p : Port} (hr : s.ready = true) (h0 : s.reg (portCtrl p) = 0) :
    portEnable p s = if s.portFenced p then s.setReg (portCtrl p) 1
      else (s.setReg (portCtrl p) 1).setPort p (restarted (s.port p) 1 0) := if_pos ⟨hr, h0⟩

theorem portDisable_eq {s : State} {p : Port} (hr : s.ready = true) :
    portDisable p s = if s.portFenced p then s.setReg (portCtrl p) 0
      else (s.setReg (portCtrl p) 0).setPort p (restarted (s.port p) 0 0) := if_neg (by simp [hr])

/-- An identity slot that names the neighbour the table expects, and one that does not. -/
theorem identitySlot_match {s : State} {p : Port} {t : RTable} {c n m : Nat} (hx : (s.port p).state = 3)
    (ht : s.table (fld (s.reg 0x4000) 8 2) = some t) (hc : c < 2 ^ 20) (hn : expectNeighbour t p = some (c, n))
    (hl : Lanes3 ((s.port p).lanes &&& m)) :
    identitySlot p c n m s = s.setPort p { s.port p with state := 4, lanes := (s.port p).lanes &&& m, neighbour := c } := by
  have ht' : ∀ y, (s.setPort p y).table (s.setPort p y).injectEpoch = some t := fun _ => ht
  rw [Lanes3] at hl
  simp only [identitySlot, hx, Nat.mod_eq_of_lt hc]
  simp [PortSt.up, ht', hn, hl]

theorem identitySlot_mismatch {s : State} {p : Port} {t : RTable} {c n m : Nat} (hx : (s.port p).state = 3)
    (ht : s.table (fld (s.reg 0x4000) 8 2) = some t) (hn : expectNeighbour t p ≠ some (c, n)) :
    identitySlot p c n m s = (s.setPort p { s.port p with neighbour := c % 2 ^ 20 }).portMismatch p := by
  have ht' : ∀ y, (s.setPort p y).table (s.setPort p y).injectEpoch = some t := fun _ => ht
  simp only [identitySlot, hx]
  simp [PortSt.up, ht', hn]

theorem portBringUp : PortBringUp := by
  intro s p x
  refine ⟨fun hr h0 hb hh => ?_, fun hr hb hh => ?_, fun hr h0 hh => ?_, fun m hx hl => ?_, fun m hx hl => ?_,
    fun t c n m hx ht hc hn hl => ?_, fun t c n m hx ht hn => ?_, fun hx => ?_, fun hx hg ht => ?_, fun hx h12 h19 => ?_,
    fun hx hg => ?_, fun hx hg hl => ?_, fun h1 h4 => ?_⟩
  · refine ⟨_, congrArg Host.Outcome.next ((portEnable_eq hr h0).trans (if_neg (by simp [portFenced_false hb hh]))),
      port_setPort_self _ _ _, State.reg_setReg_self _ _ _, rfl, fun o ho => port_setPort_ne _ ho _⟩
  · refine ⟨_, congrArg Host.Outcome.next ((portDisable_eq hr).trans (if_neg (by simp [portFenced_false hb hh]))),
      port_setPort_self _ _ _, State.reg_setReg_self _ _ _, rfl⟩
  · refine ⟨_, congrArg Host.Outcome.next ((portEnable_eq hr h0).trans (if_pos (by simp [State.portFenced, hh]))), rfl,
      State.reg_setReg_self _ _ _, rfl⟩
  · exact congrArg Host.Outcome.next (if_pos ⟨hx, hl⟩)
  · exact congrArg Host.Outcome.next (if_pos ⟨hx, hl⟩)
  · exact congrArg Host.Outcome.next (identitySlot_match hx ht hc hn hl)
  · refine ⟨_, congrArg Host.Outcome.next (identitySlot_mismatch hx ht hn), ?_⟩
    rw [State.portMismatch, fabEvent_eq]
    refine ⟨?_, ?_, ?_, rfl⟩
    · simp [State.setPort, State.port, PortSt.enter]
    · simp [State.setPort, State.port, PortSt.enter]; rfl
    · rw [bitAt_eq_testBit]
      exact (testBit_orReg _ _ (by decide)).trans (by rw [show Nat.testBit 2 1 = true by decide, Bool.or_true])
  · exact congrArg Host.Outcome.next (if_pos hx)
  · have hx' : (s.port p).state = 4 := hx
    have hg' : (s.port p).goRecv = false := hg
    refine congrArg Host.Outcome.next ((if_pos ⟨hx, by rw [ht, Bool.true_or]⟩).trans ?_)
    rw [if_pos rfl, portGo_of_waits (by simp [hg'])]
    rfl
  · exact congrArg Host.Outcome.next (if_neg fun h => by simp [h19, State.timingRoot, h12] at h)
  · have hg' : (s.port p).goSent = false := hg
    refine congrArg Host.Outcome.next ((if_pos hx).trans ?_)
    rw [portGo_of_waits (by simp [hg'])]
    rfl
  · have hg' : (s.port p).goSent = true := hg
    have hl' : (s.port p).lanes = 15 := hl
    refine ⟨_, congrArg Host.Outcome.next ((if_pos hx).trans (portGo_of_four (by simp [hg']) (by simp [hl']))), ?_, rfl, rfl⟩
    exact (port_setPort_self _ _ _).trans (by rw [port_setPort_self]; rfl)
  · exact congrArg Host.Outcome.next (if_pos ⟨h1, h4⟩)

/-! ### Link events -/

theorem up_iff {x : PortSt} : x.up = true ↔ x.state = 5 ∨ x.state = 6 := by simp [PortSt.up]

theorem laneLoss_of_four {s : State} {p : Port} (l : Fin 4) (hx : (s.port p).state = 5) (hl : (s.port p).lanes = 15) :
    laneLoss p l s = (s.emit (.portSlot p.val 3 (15 - 2 ^ l.val))).portDegrade p (15 - 2 ^ l.val) l.val := by
  have hb : bitAt 15 l.val = true := by revert l; decide
  simp [laneLoss, hl, hb, hx]

theorem laneCount_and_ne {m : Nat} (h : laneCount (15 &&& m) = 3) : 15 &&& m ≠ 15 := fun e => by
  rw [e] at h
  exact absurd h (by decide)

theorem laneDrop_of_four {s : State} {p : Port} {m : Nat} (hx : (s.port p).state = 5) (hl : (s.port p).lanes = 15)
    (h3 : laneCount (15 &&& m) = 3) : ∃ u, laneDrop p m s = (s.emit (.portSlot p.val 3 (15 &&& m))).portDegrade p (15 &&& m) u :=
  ⟨_, by simp [laneDrop, PortSt.up, hx, hl, h3, laneCount_and_ne h3]; rfl⟩

theorem lanesOf_pow (l : Fin 4) : lanesOf (2 ^ l.val) = [l.val] := by
  revert l
  decide

theorem find_lane (l : Fin 4) : (List.finRange 4).find? (fun i => decide (i = l)) = some l := by
  revert l
  decide

/-- Nine codewords of one lane within 1 ms drop it. -/
theorem badCodewords_of_ninth {s : State} {p : Port} (l : Fin 4) (hw : (s.port p).badWords = List.replicate 8 (l.val, s.time)) :
    s.badCodewords p (2 ^ l.val) = laneLoss p l (s.setPort p { s.port p with badWords := [] }) := by
  have hlanes : lanesOf (2 ^ l.val) = [l.val] := lanesOf_pow l
  have hfind : (List.finRange 4).find? (fun i => decide (i = l)) = some l := find_lane l
  have hwords : (s.port p).badWords.filter (fun w => decide (s.time < w.2 + 1000000)) ++ (lanesOf (2 ^ l.val)).map (fun i => (i, s.time)) =
      List.replicate 9 (l.val, s.time) := by
    simp [hw, hlanes, List.replicate_succ]
  have hover (i : Fin 4) : decide (8 < ((List.replicate 9 (l.val, s.time)).filter (fun w => w.1 == i.val)).length) = decide (i = l) := by
    by_cases h : i = l
    · simp [h]
    · have h' : l.val ≠ i.val := fun e => h (Fin.ext e.symm)
      simp [h, h']
  have hnone : (List.replicate 9 (l.val, s.time)).filter (fun w => w.1 != l.val) = [] := by simp
  simp only [State.badCodewords, hwords, hover, hfind, hnone, setPort_setPort]

theorem slotReceive_of_bad {s : State} {p : Port} {m : Fin 16} (hu : (s.port p).up = true) (hm : m.val ≠ 0) (ls : List (List Byte))
    (crc : Nat) : slotReceive p ls crc m s =
      (s.setPort p { s.port p with discarded := (s.port p).discarded + 1 }).badCodewords p m.val := by
  simp [slotReceive, hu, hm]

/-! ### The slot clock -/

theorem timingFrom_lt {s : State} {i k : Nat} (h : s.timingFrom i = some k) : k < 3 :=
  List.mem_range.mp (List.mem_of_find?_eq_some h)

section
variable (s : State) (i : Option Nat)

theorem reg_setTiming : (s.setTiming i).reg 0x4028 =
    setFld (setFld (s.reg 0x4028) 16 3 (i.getD 7)) 19 1 (if i.isSome then 1 else 0) % 2 ^ 32 := State.reg_setReg_self _ _ _

theorem setTiming_current (hi : i.getD 7 < 8) : fld ((s.setTiming i).reg 0x4028) 16 3 = i.getD 7 := by
  rw [reg_setTiming, fld_mod_word _ _ _ (by decide), fld_setFld_of_disjoint (.inl (by decide)), fld_setFld_self]
  exact Nat.mod_eq_of_lt hi

theorem setTiming_locked : bitAt ((s.setTiming i).reg 0x4028) 19 = i.isSome := by
  rw [bitAt_eq_testBit, reg_setTiming, Nat.testBit_mod_two_pow, testBit_setFld]
  cases i <;> simp

theorem setTiming_list : fld ((s.setTiming i).reg 0x4028) 0 13 = fld (s.reg 0x4028) 0 13 := by
  rw [reg_setTiming, fld_mod_word _ _ _ (by decide), fld_setFld_of_disjoint (.inl (by decide)),
    fld_setFld_of_disjoint (.inl (by decide))]

end

theorem portLinkEvents : PortLinkEvents := by
  intro s p x
  refine ⟨fun l hx hl => ?_, fun l hx hb hq => ?_, fun m hx hl h3 => ?_, fun m hx hne h3 => ?_, fun hx hq => ?_,
    fun l m ls crc hx hl hm hw => ?_, fun i h12 hi => ?_, fun c h12 hc hc3 hs => ?_⟩
  · have h := lost_portDegrade (s.emit (.portSlot p.val 3 (15 - 2 ^ l.val))) p (15 - 2 ^ l.val) l.val
    exact ⟨_, congrArg Host.Outcome.next (laneLoss_of_four l hx hl), h.port, h.out, h.event, h.mem⟩
  · have h := lost_portDown s p 0
    have hx' : (s.port p).state = 6 := hx
    have hb' : bitAt (s.port p).lanes l.val = true := hb
    refine ⟨_, congrArg Host.Outcome.next (show laneLoss p l s = s.portDown p 0 by simp [laneLoss, hx', hb']), ?_, ?_, h.log hq,
      h.out, h.event, h.degraded, h.mem⟩
    · rw [h.port]; rfl
    · rw [h.port]; rfl
  · obtain ⟨u, hu⟩ := laneDrop_of_four hx hl h3
    have h := lost_portDegrade (s.emit (.portSlot p.val 3 (15 &&& m))) p (15 &&& m) u
    exact ⟨_, congrArg Host.Outcome.next hu, h.port, h.mem⟩
  · have h := lost_portDown s p 0
    have hu : (s.port p).up = true := up_iff.mpr hx
    have hne' : (s.port p).lanes &&& m ≠ (s.port p).lanes := hne
    have h3' : laneCount ((s.port p).lanes &&& m) < 3 := h3
    exact ⟨_, congrArg Host.Outcome.next (show laneDrop p m s = s.portDown p 0 by simp [laneDrop, hu, hne', h3']),
      by rw [h.port]; rfl, h.mem⟩
  · have h := lost_portDown s p 1
    have hu : (s.port p).up = true := up_iff.mpr hx
    exact ⟨_, congrArg Host.Outcome.next (if_pos hu), by rw [h.port]; rfl, h.log hq, h.event, h.mem⟩
  · have hu : (s.port p).up = true := up_iff.mpr (.inl hx)
    have hm0 : m.val ≠ 0 := by rw [hm]; positivity
    have hx' : (s.port p).state = 5 := hx
    have hl' : (s.port p).lanes = 15 := hl
    have hstep : slotReceive p ls crc m s = ((s.setPort p { s.port p with
        discarded := (s.port p).discarded + 1, badWords := [] }).emit (.portSlot p.val 3 (15 - 2 ^ l.val))).portDegrade p
          (15 - 2 ^ l.val) l.val := by
      rw [slotReceive_of_bad hu hm0, hm, badCodewords_of_ninth l (by rw [port_setPort_self]; exact hw), port_setPort_self,
        setPort_setPort, laneLoss_of_four l (by rw [port_setPort_self]; exact hx) (by rw [port_setPort_self]; exact hl)]
    have h := lost_portDegrade ((s.setPort p { s.port p with
        discarded := (s.port p).discarded + 1, badWords := [] }).emit (.portSlot p.val 3 (15 - 2 ^ l.val))) p (15 - 2 ^ l.val) l.val
    refine ⟨_, congrArg Host.Outcome.next hstep, by rw [h.port], by rw [h.port], ?_, h.mem⟩
    rw [h.port, port_emit, port_setPort_self]
    rfl
  · have hi3 := timingFrom_lt hi
    have hstep : slotClockLocked s = s.setTiming (some i) := by simp [slotClockLocked, h12, hi]
    exact ⟨_, congrArg Host.Outcome.next hstep, setTiming_current s (some i) (by simp; omega), setTiming_locked s (some i),
      setTiming_list s _, rfl⟩
  · have hstep : timingLost s = s.setTiming (s.timingFrom (c + 1)) := by
      subst hc
      simp [timingLost, h12, hc3, hs]
    refine ⟨_, congrArg Host.Outcome.next hstep, setTiming_current s _ ?_, setTiming_locked s _, rfl⟩
    cases h : s.timingFrom (c + 1) with
    | none => decide
    | some k => exact (timingFrom_lt h).trans (by decide)

/-- Settles O28, by the steps of bring-up and of the link's events. -/
theorem portLife : Obligations.PortLife := ⟨portBringUp, portLinkEvents⟩

end Sys2Proof.Proofs.Ports
end

section
/-! PROOF. The slots of a port, and a slot round with one arrival. -/

namespace Sys2Proof.Proofs.SlotRounds

open Sys2Proof.Machine Sys2Proof.Claims Sys2Proof.Proofs.Ports Sys2Proof.Proofs.Registers

/-! ### Striping over lanes (R268) -/

/-- Lane i of l carries one byte of each full turn, and one of the last turn while it lasts. -/
theorem cdiv_sub_eq {l i n : Nat} (hl : 0 < l) (hi : i < l) : cdiv (n - i) l = n / l + if i < n % l then 1 else 0 := by
  have hn := Nat.div_add_mod n l
  have hr := Nat.mod_lt n hl
  rw [cdiv]
  generalize n / l = q at hn ⊢
  split
  next h =>
    rw [show n - i + l - 1 = n % l - i - 1 + l * (q + 1) by rw [Nat.mul_succ]; omega, Nat.add_mul_div_left _ _ hl,
      Nat.div_eq_of_lt (by omega), Nat.zero_add]
  next h =>
    rcases Nat.eq_zero_or_pos q with rfl | hq
    · rw [Nat.div_eq_of_lt (by omega)]
    · have : l ≤ l * q := Nat.le_mul_of_pos_right l hq
      rw [show n - i + l - 1 = n % l + l - i - 1 + l * q by omega, Nat.add_mul_div_left _ _ hl,
        Nat.div_eq_of_lt (by omega), Nat.zero_add, Nat.add_zero]

theorem sum_turns (q r l : Nat) : ((List.range l).map (fun i => q + if i < r then 1 else 0)).sum = l * q + min r l := by
  induction l with
  | zero => simp
  | succ l ih =>
    rw [List.range_succ, List.map_append, List.sum_append, ih, Nat.succ_mul]
    simp only [List.map_cons, List.map_nil, List.sum_cons, List.sum_nil]
    split <;> omega

theorem length_stripe (l : Nat) (bs : List Byte) : (stripe l bs).length = l := by simp [stripe]

theorem total_stripe {l : Nat} (hl : 0 < l) (bs : List Byte) : (stripe l bs).foldl (fun t x => t + x.length) 0 = bs.length := by
  have hsum (ls : List (List Byte)) (n : Nat) : ls.foldl (fun t x => t + x.length) n = n + (ls.map List.length).sum := by
    induction ls generalizing n with
    | nil => rfl
    | cons x ls ih => rw [List.foldl_cons, ih, List.map_cons, List.sum_cons, Nat.add_assoc]
  have hlen : (stripe l bs).map List.length = (List.range l).map (fun i => bs.length / l + if i < bs.length % l then 1 else 0) := by
    rw [stripe, List.map_map]
    refine List.map_congr_left fun i hi => ?_
    simp [cdiv_sub_eq hl (List.mem_range.mp hi)]
  rw [hsum, hlen, sum_turns, Nat.zero_add, Nat.min_eq_left (Nat.mod_lt _ hl).le, Nat.div_add_mod]

/-- Byte i travels on lane i mod l, in its turn. -/
theorem stripe_byte {l i : Nat} (hl : 0 < l) {bs : List Byte} (hi : i < bs.length) :
    ((stripe l bs).getD (i % l) []).getD (i / l) 0 = bs.getD i 0 := by
  have hlane := Nat.mod_lt i hl
  have hturn : i / l < cdiv (bs.length - i % l) l := by
    rw [cdiv, Nat.lt_div_iff_mul_lt hl]
    have := Nat.div_add_mod i l
    rw [Nat.mul_comm] at this
    omega
  simp [stripe, List.getD_eq_getElem?_getD, hlane, hturn, Nat.div_add_mod]

theorem unstripe_stripe {l : Nat} (hl : 0 < l) (bs : List Byte) : unstripe (stripe l bs) = bs := by
  rw [unstripe, total_stripe hl, length_stripe]
  refine List.ext_getElem (by simp) fun i h1 h2 => ?_
  simp only [List.getElem_map, List.getElem_range, stripe_byte hl h2]
  exact List.getD_eq_getElem _ _ h2

/-! ### Receiving a slot -/

theorem slotReceive_good {s : State} {p : Port} {ls : List (List Byte)} (hx : (s.port p).up = true)
    (hl : ls.length = laneCount (s.port p).lanes) (ht : 2 ≤ (packetOf (sliceB (unstripe ls) 0 272)).type)
    (he : (s.port p).elastic.length < 8) : slotReceive p ls (crc32c (sliceB (unstripe ls) 0 272)) 0 s =
      s.setPort p { s.port p with elastic := (s.port p).elastic ++ [packetOf (sliceB (unstripe ls) 0 272)] } := by
  have h0 : (packetOf (sliceB (unstripe ls) 0 272)).type ≠ 0 := by omega
  have h1 : (packetOf (sliceB (unstripe ls) 0 272)).type ≠ 1 := by omega
  have h8 : ¬8 ≤ (s.port p).elastic.length := by omega
  simp [slotReceive, hx, hl, h0, h1, State.elasticIn, h8]

/-- The first uncorrectable codewords of a port drop no lane. -/
theorem badCodewords_of_first {s : State} {p : Port} (hw : (s.port p).badWords = []) (m : Fin 16) :
    s.badCodewords p m.val = s.setPort p { s.port p with badWords := (lanesOf m.val).map (fun i => (i, s.time)) } := by
  have hlen : (lanesOf m.val).length ≤ 4 := (List.length_filter_le _ _).trans (by simp)
  have hfew (i : Fin 4) : ¬8 < (((lanesOf m.val).map (fun i => (i, s.time))).filter (fun w => w.1 == i.val)).length := by
    have := List.length_filter_le (fun w : Nat × Nat => w.1 == i.val) ((lanesOf m.val).map (fun i => (i, s.time)))
    rw [List.length_map] at this
    omega
  have hnone : (List.finRange 4).find? (fun i => decide (8 <
      (((lanesOf m.val).map (fun i => (i, s.time))).filter (fun w => w.1 == i.val)).length)) = none := by
    simp only [hfew, decide_false]
    rfl
  simp only [State.badCodewords, hw, List.filter_nil, List.nil_append, hnone]

theorem slotReceive_bad {s : State} {p : Port} {ls : List (List Byte)} {crc : Nat} {bad : Fin 16} (hx : (s.port p).up = true)
    (hb : bad ≠ 0 ∨ crc ≠ crc32c (sliceB (unstripe ls) 0 272)) : slotReceive p ls crc bad s =
      (s.setPort p { s.port p with discarded := (s.port p).discarded + 1 }).badCodewords p bad.val := by
  have hfail : bad.val ≠ 0 ∨ ls.length ≠ laneCount (s.port p).lanes ∨ crc32c (sliceB (unstripe ls) 0 272) ≠ crc :=
    hb.imp (fun h e => h (Fin.ext e)) (fun h => .inr h.symm)
  simp only [slotReceive, hx, Bool.not_true, Bool.false_eq_true, if_false]
  rw [if_pos hfail]

/-! ### A round with one arrival -/

/-- The state with other records of its ports. -/
def withPorts (s : State) (v : Vector PortSt 8) : State := { s with fab := { s.fab with ports := v } }

/-- Counting the rounds a port is not up leaves everything else of every port. -/
def NotUpAlone (s t : State) : Prop := ∃ v : Vector PortSt 8, t = withPorts s v ∧ ∀ o : Port, ∃ n, v[o] = { s.fab.ports[o] with notUp := n }

theorem notUpAlone_countNotUp {s t : State} (h : NotUpAlone s t) (p : Nat) : NotUpAlone s (t.countNotUp p) := by
  obtain ⟨v, rfl, hv⟩ := h
  simp only [State.countNotUp]
  split
  · exact ⟨v, rfl, hv⟩
  · refine ⟨_, rfl, fun o => ?_⟩
    by_cases ho : o = portOf p
    · obtain ⟨n, hn⟩ := hv o
      subst ho
      exact ⟨_, (Vector.getElem_set_self _).trans (congrArg (fun x : PortSt => { x with notUp := x.notUp + 1 }) hn)⟩
    · obtain ⟨n, hn⟩ := hv o
      exact ⟨n, (Vector.getElem_set_ne _ _ (fun e => ho (Fin.ext e.symm))).trans hn⟩

theorem notUpAlone_foldl (l : List Nat) {s t : State} (h : NotUpAlone s t) : NotUpAlone s (l.foldl State.countNotUp t) := by
  induction l generalizing t with
  | nil => exact h
  | cons p l ih => exact ih (notUpAlone_countNotUp h p)

theorem foldl_takeArrival_idle {r : State × List (Nat × Packet)} {l : List Nat}
    (h : ∀ o ∈ l, (r.1.port (portOf o)).elastic = []) : l.foldl takeArrival r = r := by
  induction l with
  | nil => rfl
  | cons o l ih =>
    have ho : takeArrival r o = r := by
      simp only [takeArrival, h o (.head _)]
      split <;> rfl
    rw [List.foldl_cons, ho]
    exact ih fun x hx => h x (.tail _ hx)

theorem portOf_val (p : Port) : portOf p.val = p := Fin.ext (Nat.mod_eq_of_lt p.isLt)

/-- With one slot waiting, the round takes it, a hop older, off its port, and changes no port's lanes. -/
theorem arrivals_of_one {s : State} {p : Port} {k : Packet} {rest : List Packet} (h : OneArrival s p k rest) :
    ∃ v : Vector PortSt 8, (List.range 8).foldl takeArrival ((List.range 8).foldl State.countNotUp s, []) =
      (withPorts s v, [(p.val, aged k)]) ∧ v[p].elastic = rest ∧ ∀ o : Port, v[o].lanes = s.fab.ports[o].lanes := by
  obtain ⟨hr, htr, hel, hidle, hinj, hcls⟩ := h
  obtain ⟨v, hv, hports⟩ := notUpAlone_foldl (List.range 8) (s := s) (t := s) ⟨s.fab.ports, rfl, fun o => ⟨_, rfl⟩⟩
  rw [hv]
  obtain ⟨l1, l2, hl⟩ := List.append_of_mem (List.mem_range.mpr p.isLt)
  have hnd : (l1 ++ p.val :: l2).Nodup := hl ▸ List.nodup_range
  have hport (o : Port) : (withPorts s v).port o = v[o] := rfl
  have empty {o : Port} (ho : o ≠ p) : v[o].elastic = [] := by
    obtain ⟨n, hn⟩ := hports o
    rw [hn]; exact hidle o ho
  have mem8 {o : Nat} (ho : o ∈ l1 ++ p.val :: l2) : o < 8 := List.mem_range.mp (hl ▸ ho)
  have away {o : Nat} (ho : o ∈ l1 ∨ o ∈ l2) : portOf o ≠ p := by
    have h8 : o < 8 := mem8 (by rcases ho with ho | ho <;> simp [ho])
    intro e
    have hop : o = p.val := (Nat.mod_eq_of_lt h8).symm.trans (congrArg Fin.val e)
    have := (List.nodup_middle.mp hnd)
    rw [List.nodup_cons] at this
    exact this.1 (hop ▸ List.mem_append.mpr ho)
  obtain ⟨n, hn⟩ := hports p
  have htr' : (withPorts s v).transmits p.val = true := by
    rw [State.transmits, portOf_val] at htr ⊢
    rw [hport, hn]; exact htr
  have hel' : ((withPorts s v).port p).elastic = k :: rest := by rw [hport, hn]; exact hel
  have htake : takeArrival (withPorts s v, []) p.val = ((withPorts s v).setPort p { v[p] with
      elastic := rest, arrived := v[p].arrived + 1, arrDefl := v[p].arrDefl + (if k.deflected then 1 else 0) },
      [(p.val, aged k)]) := by
    simp only [takeArrival, htr', portOf_val, hel']
    rfl
  have hfirst : l1.foldl takeArrival (withPorts s v, []) = (withPorts s v, []) :=
    foldl_takeArrival_idle fun o ho => empty (away (.inl ho))
  rw [hl, List.foldl_append, hfirst, List.foldl_cons, htake, foldl_takeArrival_idle fun o ho => by
    rw [port_setPort_ne _ (away (.inr ho))]
    exact empty (away (.inr ho))]
  refine ⟨_, rfl, by simp, fun o => ?_⟩
  obtain ⟨m, hm⟩ := hports o
  by_cases ho : o = p
  · subst ho
    exact (congrArg PortSt.lanes (Vector.getElem_set_self _)).trans (by rw [hn])
  · exact (congrArg PortSt.lanes (Vector.getElem_set_ne _ _ (fun e => ho (Fin.ext e.symm)))).trans (by
      rw [show (withPorts s v).fab.ports[o.val] = v[o] from rfl, hm])

theorem sendSlot_out (s : State) (p : Nat) (bs : List Byte) : ∃ e, s.sendSlot p bs = s.emit e := ⟨_, rfl⟩

/-- Slots sent in the end add to what leaves the package. -/
theorem foldl_sendSlot (l : List Nat) (s : State) (bs : List Byte) :
    ∃ o, l.foldl (fun t p => t.sendSlot p bs) s = { s with out := o ++ s.out } := by
  induction l generalizing s with
  | nil => exact ⟨[], rfl⟩
  | cons p l ih =>
    obtain ⟨e, he⟩ := sendSlot_out s p bs
    obtain ⟨o, ho⟩ := ih (s.sendSlot p bs)
    exact ⟨o ++ [e], by rw [List.foldl_cons, ho, he]; simp [State.emit]⟩

theorem foldl_routeLayer_idle {r : State × List Nat × Bool} (h : ∀ b : Fin 4, r.1.fab.inj[b] = []) (l : List Nat) :
    l.foldl routeLayer r = r := by
  induction l with
  | nil => rfl
  | cons i l ih =>
    have hi : routeLayer r i = r := by
      simp only [routeLayer, h]
      rfl
    rw [List.foldl_cons, hi, ih]

/-- A round with one arrival and nothing to inject routes that arrival, sends idle slots, and counts itself. -/
theorem routerRound_of_one {s : State} {p : Port} {k : Packet} {rest : List Packet} (h : OneArrival s p k rest) :
    ∃ v : Vector PortSt 8, v[p].elastic = rest ∧ (∀ o : Port, v[o].lanes = s.fab.ports[o].lanes) ∧
      ∀ r, routeArrival (withPorts s v, (List.range 8).filter s.transmits, false) (p.val, aged k) = r →
        r.1.fab.inj = s.fab.inj → ∃ o a b, execRouterRound s = .next { r.1 with out := o ++ r.1.out, fab := r.1.fab.endRound a b } := by
  obtain ⟨v, hv, hrest, hlanes⟩ := arrivals_of_one h
  refine ⟨v, hrest, hlanes, fun r hr hinj => ?_⟩
  obtain ⟨o, ho⟩ := foldl_sendSlot r.2.1 r.1 (zeroB 272)
  refine ⟨o, r.2.2, false, ?_⟩
  have hsort : sortBy arrivalBefore [(p.val, aged k)] = [(p.val, aged k)] := rfl
  rw [execRouterRound, if_pos h.1, routerRound]
  simp only [hv, hsort, List.foldl_cons, List.foldl_nil, hr]
  rw [foldl_routeLayer_idle (r := (r.1, r.2.1, false)) (fun b => by rw [hinj]; exact h.2.2.2.2.1 b), State.endRound]
  simp only [ho]

theorem ejectPath_of_room {s : State} {p : Port} {q : Fin 9} (hq : q.val = p.val / 2 * 2) (hroom : s.fab.eject[q].length < 64) :
    s.ejectPath p.val = some q := by
  have h8 : p.val / 2 * 2 % 8 = q.val := by omega
  have hr : decide ((s.fab.eject[p.val / 2 * 2 % 8]'(by omega)).length < 64) = true := by simpa [h8] using hroom
  simp only [State.ejectPath, List.cons_append, List.find?_cons, hr, Option.map_some]
  exact congrArg some (Fin.ext h8)

/-- The one arrival of a round: ejected, sent on its one productive port, or discarded. -/
theorem routeArrival_eject {s : State} {free : List Nat} {p : Port} {q : Fin 9} {k : Packet} (hc : k.cls ≠ 3)
    (hd : k.dst = s.selfCoord) (hq : q.val = p.val / 2 * 2) (hroom : s.fab.eject[q].length < 64) :
    routeArrival (s, free, false) (p.val, k) =
      ({ s with fab := { s.fab with eject := s.fab.eject.set q (s.fab.eject[q] ++ [(k, false)]) } }, free, false) := by
  simp only [routeArrival, if_neg hc, if_pos hd, ejectPath_of_room hq hroom]

theorem routeArrival_send {s : State} {free : List Nat} {p : Port} {k : Packet} {rt : RTable} {o : Nat} (hc : k.cls ≠ 3)
    (hd : k.dst ≠ s.selfCoord) (ha : ¬k.hop ≤ k.age) (ht : s.table k.epoch = some rt) (hp : productive rt k.dst = [o])
    (ho : o ∈ free) : routeArrival (s, free, false) (p.val, k) = (s.transmit o k, free.erase o, false) := by
  have hone (arr : Option Nat) : preferProductive rt k.dst arr [o] = o := by
    simp only [preferProductive, List.find?_cons, List.find?_nil]
    split
    next h => split at h <;> simp_all
    next => simp
  simp [routeArrival, hc, hd, ha, ht, hp, ho, hone]

theorem routeArrival_discard {s : State} {free : List Nat} {p : Port} {k : Packet} (hc : k.cls ≠ 3) (hd : k.dst ≠ s.selfCoord)
    (ha : k.hop ≤ k.age) : routeArrival (s, free, false) (p.val, k) =
      (({ s with fab := { s.fab with mapHop := s.fab.mapHop + 1 } }).countReg 0x4080 1, free, false) := by
  simp only [routeArrival, if_neg hc, if_neg hd, if_pos ha]

/-- Sending counts the slot on its port, and changes neither its lanes nor what waits there. -/
theorem transmit_lanes {s : State} {v : Vector PortSt 8} (h : ∀ o : Port, v[o].lanes = s.fab.ports[o].lanes) (o : Nat) :
    (((withPorts s v).setPort (portOf o) { v[portOf o] with sent := v[portOf o].sent + 1 }).port (portOf o)).lanes =
      s.fab.ports[portOf o].lanes := by
  rw [port_setPort_self]
  exact h _

theorem transmit_elastic {s : State} (v : Vector PortSt 8) (p : Port) (o : Nat) :
    (((withPorts s v).setPort (portOf o) { v[portOf o] with sent := v[portOf o].sent + 1 }).port p).elastic = v[p].elastic := by
  by_cases h : p = portOf o
  · subst h
    rw [port_setPort_self]
  · rw [port_setPort_ne _ h]
    rfl

/-- Settles O29, by the striping of slots, by their checks, and by the round with one arrival. -/
theorem routerRoundMoves : Obligations.RouterRoundMoves := by
  intro s p
  refine ⟨fun l bs hl => ⟨unstripe_stripe hl bs, fun i hi => stripe_byte hl hi⟩, fun ls k hx hl hk ht he => ?_,
    fun ls crc bad hx hw hb => ?_, fun k rest h hdst q hq hroom => ?_, fun k rest rt o h hdst hage ht hprod ho htr => ?_,
    fun k rest h hdst hage => ?_⟩
  · subst hk
    exact congrArg Host.Outcome.next (slotReceive_good (up_iff.mpr (.inl hx)) hl ht he)
  · refine congrArg Host.Outcome.next ((slotReceive_bad (up_iff.mpr (.inl hx)) hb).trans ?_)
    rw [badCodewords_of_first (by rw [port_setPort_self]; exact hw), port_setPort_self, setPort_setPort]
    rfl
  · obtain ⟨v, hrest, -, hround⟩ := routerRound_of_one h
    obtain ⟨-, -, -, -, -, hcls⟩ := h
    obtain ⟨e, a, b, hgives⟩ := hround _ (routeArrival_eject (s := withPorts s v) (k := aged k) hcls hdst hq hroom) rfl
    exact ⟨_, hgives, Vector.getElem_set_self _, hrest, rfl, rfl⟩
  · obtain ⟨v, hrest, hlanes, hround⟩ := routerRound_of_one h
    obtain ⟨-, -, -, -, -, hcls⟩ := h
    have hfree : o ∈ (List.range 8).filter s.transmits := List.mem_filter.mpr ⟨List.mem_range.mpr ho, htr⟩
    obtain ⟨e, a, b, hgives⟩ := hround _ (routeArrival_send (s := withPorts s v) (k := aged k) hcls hdst (by dsimp only; omega) ht hprod hfree) rfl
    refine ⟨_, hgives, rfl, List.mem_append_right _ (List.mem_cons.mpr (.inl ?_)), ?_, rfl, rfl⟩
    · exact (congrArg (fun l => Emit.slot o ((lanesOf l).zip (stripe (lanesOf l).length (packetBytes (aged k))))
        (crc32c (packetBytes (aged k)))) (transmit_lanes hlanes o)).symm
    · exact (transmit_elastic v p o).trans hrest
  · obtain ⟨v, hrest, -, hround⟩ := routerRound_of_one h
    obtain ⟨-, -, -, -, -, hcls⟩ := h
    obtain ⟨e, a, b, hgives⟩ := hround _ (routeArrival_discard (s := withPorts s v) (k := aged k) hcls hdst hage) rfl
    exact ⟨_, hgives, reg_countReg_self _ _, rfl, hrest, rfl⟩

end Sys2Proof.Proofs.SlotRounds
end

section
/-! PROOF. Routing tables, the inject epoch, and congestion maps. -/

namespace Sys2Proof.Proofs.RouteTables

open Sys2Proof.Machine Sys2Proof.Claims Sys2Proof.Proofs.ByteFields Sys2Proof.Proofs.Registers Sys2Proof.Proofs.BitFields
  Sys2Proof.Proofs.MemoryAccess

theorem tableSlot_eq (s : State) (i : Fin 2) : s.tableSlot i.val = s.fab.tables[i] := by
  match i with
  | 0 => rfl
  | 1 => rfl

theorem tables_setTable_self (s : State) (i : Fin 2) (t : RTable) : (s.setTable i.val t).fab.tables[i] = t := by
  have h : i.val % 2 = i.val := Nat.mod_eq_of_lt i.isLt
  simp [State.setTable, h]

theorem tables_setTable_ne (s : State) {i j : Fin 2} (h : j ≠ i) (t : RTable) :
    (s.setTable i.val t).fab.tables[j] = s.fab.tables[j] := by
  have hi : i.val % 2 = i.val := Nat.mod_eq_of_lt i.isLt
  have hne : i.val ≠ j.val := fun e => h (Fin.ext e.symm)
  simp [State.setTable, hi, hne]

/-- A refused command leaves the tables and memory, and shows the table flag. -/
theorem rtRejected_rest (s : State) : s.rtRejected.fab = s.fab ∧ s.rtRejected.mem = s.mem ∧ bitAt (s.rtRejected.reg 0x4014) 0 = true := by
  rw [State.rtRejected, fabEvent_eq]
  refine ⟨rfl, rfl, ?_⟩
  rw [bitAt_eq_testBit]
  exact (testBit_orReg s 1 (by decide)).trans (by rw [show Nat.testBit 1 0 = true by decide, Bool.or_true])

theorem length_mapBytes (s : State) : s.mapBytes.length = 256 := by
  have hport (x : PortSt) : (portCounts x).length = 24 := by simp [portCounts]
  have hports : (s.fab.ports.toList.flatMap portCounts).length = 192 := by
    rw [List.length_flatMap]
    simp [hport]
  simp [State.mapBytes, hports, zeroB]

theorem mapBytes_take (s : State) : s.mapBytes.take 4 = natLE 4 s.fab.mapSeq := by
  simp only [State.mapBytes, List.append_assoc]
  exact List.take_left' (length_natLE 4 _)

/-- The other slot does not hold the epoch that is loaded. -/
theorem slotHolds_false {t : RTable} {e : Nat} (h : t.valid = false ∨ t.epoch ≠ e) : (t.valid && t.epoch == e) = false := by
  rcases h with h | h <;> simp [h]

theorem fld_hop_epoch {hop e : Nat} (h : hop < 2 ^ 8) (he : e < 4) :
    fld (hop + e * 2 ^ 8) 8 2 = e ∧ fld (hop + e * 2 ^ 8) 0 8 = hop := by
  simp only [fld, Nat.shiftRight_eq_div_pow]
  omega

/-- The fabric's state has no part in a byte's home. -/
theorem byte_withFab (s : State) (f : FabSt) (x : Nat) : State.byte { s with fab := f } x = s.byte x := rfl

/-- A change of the inject epoch to one a slot holds starts the hold of a slot. -/
theorem injectEpochWrite_taken {s : State} {v : Nat} (hr : s.ready = true) (hn : (s.table (fld v 8 2)).isNone = false)
    (he : fld v 8 2 ≠ s.injectEpoch) (hhop : fld v 0 8 ≠ 0) : ∃ slot, injectEpochWrite v s =
      { s.setReg 0x4000 (fld v 0 8 + fld v 8 2 * 2 ^ 8) with fab := { s.fab with hold := some slot } } := by
  refine ⟨if s.fab.tables[0].valid && s.fab.tables[0].epoch == s.injectEpoch then 0
    else if s.fab.tables[1].valid && s.fab.tables[1].epoch == s.injectEpoch then 1 else 2, ?_⟩
  simp only [injectEpochWrite, hr, hn, if_neg he, if_neg hhop, Bool.true_eq_false, Bool.false_eq_true, if_false,
    State.setReg_fab]

/-- Settles O31, command by command. -/
theorem routingTables : Obligations.RoutingTables := by
  intro s i e hr a cmd
  refine ⟨fun v ⟨hvi, hve⟩ h3 h4 hlock hother hmap hpois => ⟨fun hgood => ?_, fun hbad => ?_⟩, fun v ⟨hvi, hve⟩ h4 h3 hlock => ?_,
    fun v ⟨hvi, hve⟩ h4 h3 hlock => ?_, fun v hve hhop => ⟨fun hsome hne => ?_, fun hnone => ?_⟩, rfl,
    fun b hctl hno hb hmap hpois => ?_⟩
  · have hstep : validate v s = s.setTable i.val (tableOf (s.bytes a 4096) e.val) := by
      simp only [validate, hvi, hve]
      rw [if_neg (by simp [hr, h3]), if_neg]
      simp only [h4, hlock, slotHolds_false hother, show s.rangeMapped (s.regPair 0x400C % 2 ^ 48 + 4096 * i.val) 4096 = true from hmap,
        show s.rangePoisoned (s.regPair 0x400C % 2 ^ 48 + 4096 * i.val) 4096 = false from hpois,
        show blockBad (s.bytes (s.regPair 0x400C % 2 ^ 48 + 4096 * i.val) 4096) = false from hgood]
      simp
    have hself := tables_setTable_self s i (tableOf (s.bytes a 4096) e.val)
    refine ⟨_, congrArg Host.Outcome.next hstep, by rw [hself]; rfl, by rw [hself]; rfl, by rw [hself]; rfl, fun x => ?_, rfl, rfl,
      fun j hj => tables_setTable_ne s hj _⟩
    rw [hself]
    simp [tableOf]
  · have hstep : validate v s = s.rtRejected := by
      simp only [validate, hvi, hve]
      rw [if_neg (by simp [hr, h3]), if_pos]
      exact .inr (.inr (.inr (.inr (.inr hbad))))
    obtain ⟨hf, hm, hb⟩ := rtRejected_rest s
    exact ⟨_, congrArg Host.Outcome.next hstep, by rw [hf], hb, hm⟩
  · have hstep : invalidate v s = s.setTable i.val .empty := by
      simp [invalidate, hvi, hr, h3, h4, hlock]
    exact ⟨_, congrArg Host.Outcome.next hstep, by rw [tables_setTable_self]; rfl, rfl, rfl⟩
  · have hstep : invalidate v s = s.rtRejected := by
      simp [invalidate, hvi, hr, h4, hlock]
    obtain ⟨hf, hm, hb⟩ := rtRejected_rest s
    exact ⟨_, congrArg Host.Outcome.next hstep, by rw [hf], hb⟩
  · have he : fld v 8 2 ≠ s.injectEpoch := hve ▸ hne
    have hnn : (s.table (fld v 8 2)).isNone = false := by
      rw [hve]; exact Option.isNone_eq_false_iff.mpr hsome
    obtain ⟨hep, hop⟩ := fld_hop_epoch (Completions.fld_lt v 0 8) e.isLt
    obtain ⟨slot, hstep⟩ := injectEpochWrite_taken hr hnn he hhop
    refine ⟨_, congrArg Host.Outcome.next hstep, ?_, ?_, rfl, rfl, rfl⟩
    · exact (congrArg (fld · 8 2) (State.reg_setReg_self _ _ _)).trans ((fld_mod_word _ _ _ (by decide)).trans (by rw [hve]; exact hep))
    · exact (congrArg (fld · 0 8) (State.reg_setReg_self _ _ _)).trans ((fld_mod_word _ _ _ (by decide)).trans (by rw [hve]; exact hop))
  · have hnn : (s.table (fld v 8 2)).isNone = true := by rw [hve, hnone]; rfl
    have hstep : injectEpochWrite v s = (s.fieldReg 0x4000 0 8 (fld v 0 8)).rtRejected := by
      simp only [injectEpochWrite, hr, hnn, if_neg hhop, Bool.true_eq_false, if_false, if_true]
    obtain ⟨hf, -, hb⟩ := rtRejected_rest (s.fieldReg 0x4000 0 8 (fld v 0 8))
    refine ⟨_, congrArg Host.Outcome.next hstep, ?_, hb, hf⟩
    rw [State.rtRejected, fabEvent_eq]
    refine (congrArg (fld · 8 2) (reg_orReg_ne (s.fieldReg 0x4000 0 8 (fld v 0 8)) 1 (by decide))).trans ?_
    rw [State.fieldReg, State.reg_setReg_self, fld_mod_word _ _ _ (by decide), fld_setFld_of_disjoint (.inr (by decide))]
  · have hc : Clear s b s.mapBytes.length := clear_of_plain (by rw [length_mapBytes]; exact ⟨hmap, hpois⟩)
    have hst := stored_write hc
    have hstep : congestionMap s = { s.write b s.mapBytes with fab :=
        { (s.write b s.mapBytes).fab.clearMap with mapSeq := ((s.write b s.mapBytes).fab.mapSeq + 1) % 2 ^ 32 } } := by
      subst hb
      simp only [congestionMap, hr, hctl, hno, Bool.true_eq_false, or_self, if_false, Bool.false_eq_true]
    obtain ⟨⟨m, hm⟩, -⟩ := id hst
    refine ⟨_, congrArg Host.Outcome.next hstep, ?_, ?_, ?_, rfl, fun p => ?_⟩
    · have h4 := hst.bytes_inside (k := 0) (n := 4) (by rw [length_mapBytes]; decide)
      rw [List.drop_zero, mapBytes_take] at h4
      exact (bytes_congr fun x _ _ => byte_withFab _ _ x).trans h4
    · have ho := hst.onlyBytes
      rw [length_mapBytes] at ho
      exact fun x hx => (byte_withFab _ _ x).trans (ho x hx)
    · rw [hm]
    · simp [FabSt.clearMap]

end Sys2Proof.Proofs.RouteTables
end

section
/-! PROOF. Caps, setpoints and power stages. -/

namespace Sys2Proof.Proofs.Setpoints

open Sys2Proof.Machine Sys2Proof.Claims Sys2Proof.Proofs.ByteFields Sys2Proof.Proofs.Registers Sys2Proof.Proofs.BitFields
  Sys2Proof.Proofs.MemoryAccess

/-! ### Setpoints -/

theorem setpoint_of_led {s t : State} (h : t.led = s.led) (i : Fin 12) : t.setpoint i = s.setpoint i := by
  simp only [State.setpoint, State.caps, h]

theorem foldl_min_le (l : List (Nat × Nat)) (m : Nat) : l.foldl (fun m c => min m c.2) m ≤ m := by
  induction l generalizing m with
  | nil => exact le_rfl
  | cons c l ih => exact (ih _).trans (min_le_left _ _)

theorem setpoint_bounds (s : State) (i : Fin 12) : 16 ≤ s.setpoint i ∧ s.setpoint i ≤ 64 :=
  ⟨le_max_left _ _, max_le (by decide) (foldl_min_le _ _)⟩

theorem setpoint_of_brake {s : State} (h : s.led.brake = true) (i : Fin 12) : s.setpoint i = 16 := by
  refine le_antisymm (max_le le_rfl ?_) (setpoint_bounds s i).1
  rw [State.caps, if_pos h, List.foldl_append]
  exact min_le_right _ _

/-- The shown setpoint of one die after another. -/
theorem foldl_setpoints (l : List (Fin 12)) (s : State) :
    let t := l.foldl (fun t i => t.fieldReg (0x8040 + 4 * i.val) 0 7 (t.setpoint i)) s
    (∃ r, t = { s with regs := r }) ∧ (∀ o, (∀ i ∈ l, o ≠ 0x8040 + 4 * i.val) → t.reg o = s.reg o) ∧
      ∀ i ∈ l, fld (t.reg (0x8040 + 4 * i.val)) 0 7 = s.setpoint i := by
  induction l generalizing s with
  | nil => exact ⟨⟨_, rfl⟩, fun _ _ => rfl, fun i hi => absurd hi List.not_mem_nil⟩
  | cons k l ih =>
    obtain ⟨⟨r, hr⟩, hne, hself⟩ := ih (s.fieldReg (0x8040 + 4 * k.val) 0 7 (s.setpoint k))
    have hsp (i : Fin 12) := setpoint_of_led (s := s) (t := s.fieldReg (0x8040 + 4 * k.val) 0 7 (s.setpoint k)) rfl i
    refine ⟨⟨r, hr⟩, fun o ho => ?_, fun i hi => ?_⟩
    · exact (hne o fun i hi => ho i (.tail _ hi)).trans (State.reg_setReg_ne _ _ (ho k (.head _)))
    · by_cases hil : i ∈ l
      · exact (hself i hil).trans (hsp i)
      · obtain rfl : i = k := (List.mem_cons.mp hi).resolve_right hil
        have hkeep := hne (0x8040 + 4 * i.val) fun j hj e => hil (by
          have : i = j := Fin.ext (by omega)
          exact this ▸ hj)
        rw [List.foldl_cons, hkeep, State.fieldReg, State.reg_setReg_self, fld_mod_word _ _ _ (by decide), fld_setFld_self]
        exact Nat.mod_eq_of_lt ((setpoint_bounds s i).2.trans_lt (by decide))

section
variable (s : State)

theorem setpoints_eq : s.setpoints = { s with regs := s.setpoints.regs } := by
  obtain ⟨r, hr⟩ := (foldl_setpoints (List.finRange 12) s).1
  rw [State.setpoints, hr]

theorem reg_setpoints_ne {o : Nat} (h : ∀ i : Fin 12, o ≠ 0x8040 + 4 * i.val) : s.setpoints.reg o = s.reg o :=
  (foldl_setpoints (List.finRange 12) s).2.1 o fun i _ => h i

theorem fld_setpoints (i : Fin 12) : fld (s.setpoints.reg (0x8040 + 4 * i.val)) 0 7 = s.setpoint i :=
  (foldl_setpoints (List.finRange 12) s).2.2 i (List.mem_finRange i)

theorem setpointsShown_setpoints : SetpointsShown s.setpoints := fun i => by
  rw [setpoint_of_led (s := s) (by rw [setpoints_eq]), fld_setpoints]
  exact ⟨rfl, setpoint_bounds s i⟩

/-- The register of the ledger's status is no die's. -/
theorem reg_setpoints_status : s.setpoints.reg 0x8000 = s.reg 0x8000 := reg_setpoints_ne s fun i => by omega

end

/-! ### Bits of the ledger's status -/

theorem bitAt_orReg {s : State} {o i m : Nat} (hi : i < 32) (hm : m.testBit i = true) : bitAt ((s.orReg o m).reg o) i = true := by
  rw [bitAt_eq_testBit, testBit_orReg _ _ hi, hm, Bool.or_true]

theorem bitAt_andNotReg {s : State} {o i m : Nat} (hi : i < 32) (hm : m.testBit i = true) :
    bitAt ((s.andNotReg o m).reg o) i = false := by
  rw [bitAt_eq_testBit, testBit_andNotReg _ _ hi, hm, Bool.not_true, Bool.and_false]

/-! ### Power stages -/

theorem bootGo_of_past {s : State} (h5 : s.boot.step ≠ 5) (h6 : s.boot.step ≠ 6) : s.bootGo = s := by
  have hs : s.step5 = s := if_pos h5
  rw [State.bootGo, hs, State.step6, if_neg fun h => h6 h.1]

/-- A stage lost: out of service, without readings, logged, and the device degraded, or failed with too few left. -/
theorem loseStage_facts {s : State} {j : Cd} (hj : bitAt (s.reg 0x8000) j.val = true) (hq : s.logQ.length < 256) :
    let t := s.loseStage j
    t.boot.step = s.boot.step ∧ bitAt (t.reg 0x8000) j.val = false ∧ t.led.frames[j] = [] ∧ bitAt (t.reg 0x7000) 0 = true ∧
      t.logQ = s.logQ ++ [⟨s.time, 18, 5, j.val, 0xFF, 15, 0⟩] ∧ t.mem = s.mem := by
  have hbit : bitAt ((((s.andNotReg 0x8000 (2 ^ j.val)).log 18 5 j.val 0xFF 15 0).depStatus 1).reg 0x8000) j.val = false := by
    rw [reg_depStatus_ne _ _ (by decide) (by decide), reg_log_ne _ _ _ _ _ _ _ (by decide) (by decide)]
    exact bitAt_andNotReg (by omega) (Nat.testBit_two_pow_self)
  have hdeg : bitAt ((((s.andNotReg 0x8000 (2 ^ j.val)).log 18 5 j.val 0xFF 15 0).depStatus 1).reg 0x7000) 0 = true := by
    rw [bitAt_eq_testBit, testBit_depStatus _ _ (by decide), show Nat.testBit 1 0 = true by decide, Bool.or_true]
  have hlog : (((s.andNotReg 0x8000 (2 ^ j.val)).log 18 5 j.val 0xFF 15 0).depStatus 1).logQ =
      s.logQ ++ [⟨s.time, 18, 5, j.val, 0xFF, 15, 0⟩] := by
    rw [depStatus_eq, log_eq]
    exact logAfter_of_room hq ..
  have hrest : (((s.andNotReg 0x8000 (2 ^ j.val)).log 18 5 j.val 0xFF 15 0).depStatus 1).boot.step = s.boot.step ∧
      (((s.andNotReg 0x8000 (2 ^ j.val)).log 18 5 j.val 0xFF 15 0).depStatus 1).mem = s.mem := by
    rw [depStatus_eq, log_eq]
    exact ⟨rfl, rfl⟩
  simp only [State.loseStage, if_pos hj]
  split
  · refine ⟨hrest.1, hbit, ?_, hdeg, hlog, hrest.2⟩
    exact Vector.getElem_set_self _
  · refine ⟨hrest.1, hbit, ?_, hdeg, hlog, hrest.2⟩
    exact Vector.getElem_set_self _

/-- Settles O49, cause by cause. -/
theorem capsAndStages : Obligations.CapsAndStages := by
  intro s
  refine ⟨fun land hp => ?_, fun land => ?_, fun h1 h2 h3 => ?_, fun k hr => ?_, fun cd slack hr hd hf hfen hsl => ?_,
    fun clk hclk => ?_, fun a l hr ha hl hpl hwin => ⟨fun hz => ?_, fun hz => ?_⟩, fun j rs hp hj h5 h6 => ⟨?_, fun i hi hq => ?_⟩⟩
  · have hstep : brakeAssert land s = ((s.updLed (fun l => { l with
        brake := true, brakeIn := l.brakeIn || !land, brakePin := l.brakePin || land })).orReg 0x8000 0x4000).setpoints :=
      if_neg (by simp [hp])
    refine ⟨_, congrArg Host.Outcome.next hstep, ?_, ?_, fun i => ?_, ?_, ?_⟩
    · rw [setpoints_eq]; rfl
    · rw [reg_setpoints_status]; exact bitAt_orReg (by decide) (by decide)
    · rw [fld_setpoints]; exact setpoint_of_brake rfl i
    · rw [setpoints_eq]; rfl
    · rw [setpoints_eq]; rfl
  · refine ⟨_, rfl, rfl, rfl, ?_, rfl, rfl⟩
    cases land <;> simp [brakeCauseEnd, State.updLed]
  · refine ⟨_, congrArg Host.Outcome.next (if_pos ⟨h1, h2, h3⟩), ?_, ?_, setpointsShown_setpoints _, ?_⟩
    · rw [setpoints_eq]; rfl
    · rw [reg_setpoints_status]; exact bitAt_andNotReg (by decide) (by decide)
    · rw [setpoints_eq]; rfl
  · refine ⟨_, congrArg Host.Outcome.next (if_pos hr), setpointsShown_setpoints _, by rw [thermalCapStep, setpoints_eq]; rfl, fun hh => ?_,
      fun hh hc => ?_, fun hh hc => ?_, fun o ho => ?_⟩
    all_goals rw [thermalCapStep, setpoints_eq]
    · simp [State.updLed, hh]
    · simp [State.updLed, hh, hc]
    · simp [State.updLed, hh, hc]
    · exact Vector.getElem_set_ne k.isLt o.isLt fun e => ho (Fin.ext e.symm)
  · have hok : ¬(s.ready = false ∨ s.dep.stewardDown = true ∨ s.stewardFailed = true ∨ s.fenced cd.val = true ∨ 30 ≤ slack) := by
      simp [hr, hd, hf, hfen, hsl]
    by_cases htrim : fld (s.reg (0x8040 + 4 * cd.val)) 7 5 < 20
    · refine ⟨_, congrArg Host.Outcome.next ((if_neg hok).trans (if_pos htrim)), rfl, fun _ => ⟨?_, rfl, ?_⟩, fun h => absurd htrim (by omega)⟩
      · refine (congrArg (fld · 7 5) (State.reg_setReg_self _ _ _)).trans ?_
        rw [fld_mod_word _ _ _ (by decide), fld_setFld_self]
        exact Nat.mod_eq_of_lt (by omega)
      · exact (mem_setIns _ _ _).mpr (.inl rfl)
    · refine ⟨_, congrArg Host.Outcome.next ((if_neg hok).trans (if_neg htrim)), by rw [setpoints_eq]; rfl, fun h => absurd h htrim,
        fun _ => ⟨?_, ?_, setpointsShown_setpoints _⟩⟩
      · rw [setpoints_eq]
        exact Vector.getElem_set_self _
      · rw [reg_setpoints_status]; exact bitAt_orReg (by decide) (by decide)
  · exact ⟨_, congrArg Host.Outcome.next (if_pos hclk), Vector.getElem_set_self _, bitAt_orReg (by decide) (by decide), rfl, rfl⟩
  · subst ha hl
    have hok : (s.rangeMapped (s.regPair 0x8018 % 2 ^ 48) 128 && !s.rangePoisoned (s.regPair 0x8018 % 2 ^ 48) 128 &&
        !((winDie (s.regPair 0x8018 % 2 ^ 48)).any s.fenced) &&
        (((List.range 32).map (fun i => s.num (s.regPair 0x8018 % 2 ^ 48 + 4 * i) 4)).drop 18).all (· == 0)) = true := by
      rw [hpl.1, hpl.2, hwin, hz]; rfl
    exact ⟨_, congrArg Host.Outcome.next ((if_neg (by simp [hr])).trans (if_pos hok)), rfl,
      bitAt_andNotReg (by decide) (by decide), rfl⟩
  · subst ha hl
    have hno : ¬(s.rangeMapped (s.regPair 0x8018 % 2 ^ 48) 128 && !s.rangePoisoned (s.regPair 0x8018 % 2 ^ 48) 128 &&
        !((winDie (s.regPair 0x8018 % 2 ^ 48)).any s.fenced) &&
        (((List.range 32).map (fun i => s.num (s.regPair 0x8018 % 2 ^ 48 + 4 * i) 4)).drop 18).all (· == 0)) = true := by
      rw [hz, Bool.and_false]; exact Bool.false_ne_true
    exact ⟨_, congrArg Host.Outcome.next ((if_neg (by simp [hr])).trans (if_neg hno)), rfl,
      bitAt_orReg (by decide) (by decide), rfl⟩
  · refine ⟨_, congrArg Host.Outcome.next ((if_neg (by simp [hp, hj])).trans ((if_neg Bool.false_ne_true).trans
      (bootGo_of_past h5 h6))), Vector.getElem_set_self _, ?_, rfl, rfl⟩
    simp [State.updLed, State.updBoot]
  · obtain ⟨hstep, hlost⟩ := loseStage_facts hj hq
    have hgo : (s.loseStage j).bootGo = s.loseStage j := bootGo_of_past (hstep ▸ h5) (hstep ▸ h6)
    refine ⟨s.loseStage j, ?_, hlost⟩
    rcases List.mem_cons.mp hi with rfl | hi
    · exact congrArg Host.Outcome.next ((if_neg (by simp [hp, hj])).trans ((if_pos rfl).trans hgo))
    · obtain rfl := List.mem_singleton.mp hi
      exact congrArg Host.Outcome.next ((if_neg (by simp [hp])).trans ((if_neg fun h => h5 h.1).trans hgo))

end Sys2Proof.Proofs.Setpoints
end

section
/-! PROOF. The ledger: admission, throttles, ticks and gyles. -/

namespace Sys2Proof.Proofs.Ledger

open Sys2Proof.Machine Sys2Proof.Claims Sys2Proof.Proofs.ByteFields Sys2Proof.Proofs.Registers Sys2Proof.Proofs.BitFields
  Sys2Proof.Proofs.Setpoints

/-! ### Admission and throttles -/

theorem find_episode_reason {l : List Episode} {r : Nat} {f : Episode → Bool} {e : Episode}
    (h : l.find? (fun e => e.reason == r && f e) = some e) : e.reason = r := by
  have := List.find?_some h
  simp only [Bool.and_eq_true, beq_iff_eq] at this
  exact this.1

/-- Settles O48, event by event. -/
theorem admissionAndThrottles : Obligations.AdmissionAndThrottles := by
  intro s cd
  refine ⟨fun w hw hst had => ?_, fun w hw had => ?_, fun r e he hres => ?_, fun k rail hr => ?_, fun hr hf hs => ?_, ?_, fun h => ?_⟩
  · simp only [Gives, exec, execAdmissionGrant, admissionGrant, hw]
    rw [if_pos ⟨hst, had⟩]
  · simp only [Gives, exec, execAdmissionGrant, admissionGrant, hw]
    rw [if_neg (by simp [had])]
  · have hstep : throttleEpisodeEnd r s = s.endEpisode e := by simp only [throttleEpisodeEnd, he]
    have hfit : PayloadFits [(16, 1, e.reason), (20, 4, e.last - e.first + 1), (24, 2, s.led.own)] := by
      simp [PayloadFits, Apart]
    refine ⟨_, _, congrArg Host.Outcome.next hstep, ?_, ?_, isEvent_eventBytes hfit 0x0008 31 s.time, ?_, ?_, ?_⟩
    all_goals try rw [State.endEpisode, State.throttleEvent, event_eq]
    · rfl
    · exact holding_heldQ hres _
    · exact fieldB_eventBytes hfit _ _ _ (by simp [eventFields])
    · rfl
    · rfl
  · refine ⟨_, congrArg Host.Outcome.next (if_pos hr), ?_, rfl, rfl, rfl⟩
    have h16 : (4 * k.val + rail.val) % 16 = 4 * k.val + rail.val := Nat.mod_eq_of_lt (by omega)
    simp only [State.updLed, h16]
    exact Vector.toList_set _
  · have hok : ¬(s.ready = false ∨ s.fenced cd.val = true ∨ s.led.stretched[cd] = true) := by rw [hr, hf, hs]; decide
    refine ⟨_, congrArg Host.Outcome.next (if_neg hok), Vector.getElem_set_self _, rfl, rfl, ?_⟩
    refine (congrArg (fld · 12 20) (State.reg_setReg_self _ _ _)).trans ?_
    rw [fld_mod_word _ _ _ (by decide), fld_setFld_self]
    exact Nat.mod_eq_of_lt (by omega)
  · exact ⟨_, rfl, Vector.getElem_set_self _, fun o ho => Vector.getElem_set_ne cd.isLt o.isLt fun e => ho (Fin.ext e.symm), rfl, rfl, rfl⟩
  · exact congrArg Host.Outcome.next (if_pos h)

/-! ### The tick -/

/-- What a quadrant's share rests on is the same: the budgets' registers and stages, the baselines, the dies; and memory. -/
structure Same (s t : State) : Prop where
  base : t.led.base = s.led.base
  limited : t.led.limited = s.led.limited
  mem : t.mem = s.mem
  dies : t.dies = s.dies
  reg : ∀ o, 0x8000 ≤ o → o < 0x8018 → t.reg o = s.reg o

theorem Same.refl (s : State) : Same s s := ⟨rfl, rfl, rfl, rfl, fun _ _ _ => rfl⟩

theorem Same.trans {s t u : State} (h : Same s t) (h' : Same t u) : Same s u :=
  ⟨h'.base.trans h.base, h'.limited.trans h.limited, h'.mem.trans h.mem, h'.dies.trans h.dies,
    fun o ho ho' => (h'.reg o ho ho').trans (h.reg o ho ho')⟩

/-- The counts of ticks and of energy are the same, and the register that shows the energy. -/
structure Counts (s t : State) : Prop where
  energy : t.led.energy = s.led.energy
  tick : t.led.tick = s.led.tick
  now : t.led.now = s.led.now
  shown : t.reg 0x80B0 = s.reg 0x80B0

theorem Counts.refl (s : State) : Counts s s := ⟨rfl, rfl, rfl, rfl⟩

theorem Counts.trans {s t u : State} (h : Counts s t) (h' : Counts t u) : Counts s u :=
  ⟨h'.energy.trans h.energy, h'.tick.trans h.tick, h'.now.trans h.now, h'.shown.trans h.shown⟩

/-- All this is the same, and the credit of every die. -/
structure Spared (s t : State) : Prop where
  same : Same s t
  counts : Counts s t
  credit : t.led.credit = s.led.credit

theorem Spared.refl (s : State) : Spared s s := ⟨.refl s, .refl s, rfl⟩

theorem Spared.trans {s t u : State} (h : Spared s t) (h' : Spared t u) : Spared s u :=
  ⟨h.same.trans h'.same, h.counts.trans h'.counts, h'.credit.trans h.credit⟩

theorem spared_foldl {α : Type} {f : State → α → State} {l : List α} (hf : ∀ t, ∀ x ∈ l, Spared t (f t x)) (s : State) :
    Spared s (l.foldl f s) := by
  induction l generalizing s with
  | nil => exact .refl s
  | cons x l ih => exact (hf s x (.head _)).trans (ih (fun t y hy => hf t y (.tail _ hy)) _)

theorem spared_setReg (s : State) {o : Nat} (h : ¬(0x8000 ≤ o ∧ o < 0x8018) ∧ o ≠ 0x80B0) (v : Nat) : Spared s (s.setReg o v) :=
  ⟨⟨rfl, rfl, rfl, rfl, fun _ hq hq' => State.reg_setReg_ne _ _ fun e => h.1 (e ▸ ⟨hq, hq'⟩)⟩,
    ⟨rfl, rfl, rfl, State.reg_setReg_ne _ _ h.2.symm⟩, rfl⟩

theorem spared_orReg (s : State) {o : Nat} (h : ¬(0x8000 ≤ o ∧ o < 0x8018) ∧ o ≠ 0x80B0) (m : Nat) : Spared s (s.orReg o m) :=
  spared_setReg s h _

theorem spared_event (s : State) (ty src : Nat) (p : List (Nat × Nat × Nat)) : Spared s (s.event ty src p) := by
  rw [event_eq]
  exact ⟨⟨rfl, rfl, rfl, rfl, fun _ _ _ => rfl⟩, ⟨rfl, rfl, rfl, rfl⟩, rfl⟩

/-- The ledger's other fields. -/
theorem spared_updLed (s : State) {f : LedSt → LedSt} (hb : (f s.led).base = s.led.base) (hl : (f s.led).limited = s.led.limited)
    (he : (f s.led).energy = s.led.energy) (ht : (f s.led).tick = s.led.tick) (hn : (f s.led).now = s.led.now)
    (hc : (f s.led).credit = s.led.credit) : Spared s (s.updLed f) :=
  ⟨⟨hb, hl, rfl, rfl, fun _ _ _ => rfl⟩, ⟨he, ht, hn, rfl⟩, hc⟩

/-- An episode that ends is taken off and reported. -/
theorem spared_endEpisode (s : State) (e : Episode) : Spared s (s.endEpisode e) :=
  (spared_updLed s (f := fun l => { l with episodes := l.episodes.filter (fun x => x.reason != e.reason) })
    rfl rfl rfl rfl rfl rfl).trans (spared_event _ _ _ _)

/-- An acting reason is counted; its episode is begun, carried on or ended. -/
theorem spared_actTick (s : State) {r : Nat} (hr : r ≤ 10) : Spared s (s.actTick r) := by
  unfold State.actTick
  extract_lets u now w
  have hu : Spared s u := (spared_setReg s (by omega) _).trans (spared_updLed _ rfl rfl rfl rfl rfl rfl)
  have hw : Spared u w := by
    simp only [w]
    split
    · exact spared_endEpisode _ _
    · exact .refl u
  clear_value w
  refine (hu.trans hw).trans ?_
  split
  · apply spared_updLed <;> rfl
  · rename_i v _ _
    have hv : Spared w v :=
      (spared_updLed w (f := fun l => { l with episodes := l.episodes ++ [⟨r, now, now⟩] }) rfl rfl rfl rfl rfl rfl).trans
        (spared_event _ _ _ _)
    refine hv.trans ?_
    split
    · exact spared_orReg v (by decide) 4
    · split
      · exact spared_orReg v (by decide) 8
      · exact .refl v

theorem spared_readTemps (s : State) (temps : Readings) : Spared s (s.readTemps temps) :=
  (spared_updLed s rfl rfl rfl rfl rfl rfl).trans (spared_setReg _ (by decide) _)

theorem spared_railTick (s : State) (k : Fin 4) (r : Nat) : Spared s (s.railTick k r) := by
  unfold State.railTick
  exact spared_updLed s rfl rfl rfl rfl rfl rfl

/-- The measurement of the quadrants adds their energies. -/
theorem measured (l : List (Fin 4)) (s : State) :
    ∃ f : LedSt → LedSt, l.foldl State.measureQuad s = s.updLed f ∧
      (f s.led).energy = s.led.energy + (l.map (fun k => s.tickEnergy k.val)).sum ∧
      (f s.led).base = s.led.base ∧ (f s.led).limited = s.led.limited ∧ (f s.led).tick = s.led.tick ∧
      (f s.led).now = s.led.now ∧ (f s.led).credit = s.led.credit ∧ (f s.led).frames = s.led.frames := by
  induction l generalizing s with
  | nil => exact ⟨id, rfl, rfl, rfl, rfl, rfl, rfl, rfl, rfl⟩
  | cons k l ih =>
    obtain ⟨f, hf, he, hb, hl, ht, hn, hc, hr⟩ := ih (s.measureQuad k)
    refine ⟨fun _ => f (s.measureQuad k).led, by rw [List.foldl_cons, hf]; rfl, ?_, hb, hl, ht, hn, hc, hr⟩
    have htail : (l.map (fun k' => (s.measureQuad k).tickEnergy k'.val)) = l.map (fun k' => s.tickEnergy k'.val) := rfl
    rw [he, htail, List.map_cons, List.sum_cons, ← Nat.add_assoc]
    rfl

/-! ### Credit -/

/-- What a quadrant's budget rests on is the same. -/
theorem Same.quadBudget {s t : State} (h : Same s t) (k : Nat) : t.quadBudget k = s.quadBudget k := by
  have hreg (o : Nat) (ho : 0x8000 ≤ o ∧ o < 0x8018) : t.reg o = s.reg o := h.reg o ho.1 ho.2
  have hcap : t.capacity = s.capacity := by
    funext q
    simp only [State.capacity, State.stagesOf, h.limited, hreg 0x8000 (by decide)]
  have hweight : t.weight = s.weight := by
    funext q
    simp only [State.weight, hreg 0x8014 (by decide)]
  have hbudget : t.budget = s.budget := by
    simp only [State.budget, hcap, hreg 0x8004 (by decide), hreg 0x8008 (by decide)]
  have hcapped (p : Nat) (f : Nat) : ∀ c, t.cappedQuads p c f = s.cappedQuads p c f := by
    induction f with
    | zero => exact fun _ => rfl
    | succ f ih => exact fun c => by simp only [State.cappedQuads, hcap, hweight, ih]
  simp only [State.quadBudget, hbudget, hcapped, hcap, hweight]

/-- The dies in service of a quadrant. -/
def liveDies (s : State) (k : Fin 4) : List Cd := ((List.finRange 3).map (dieOf k)).filter (fun i => !s.fenced i.val)

theorem length_liveDies (s : State) (k : Fin 4) :
    (liveDies s k).length = ((List.finRange 3).filter (fun i => !s.fenced (dieOf k i).val)).length := by
  rw [liveDies, List.filter_map, List.length_map]
  rfl

theorem Same.share {s t : State} (h : Same s t) (k : Fin 4) : tickShare t k = tickShare s k := by
  have hf (i : Nat) : t.fenced i = s.fenced i := by rw [State.fenced, State.fenced, State.die_of_dies h.dies]
  simp only [tickShare, h.quadBudget, h.base, hf]

/-- A die's credit after its quadrant's share. -/
def credited (s : State) (k : Fin 4) (cd : Cd) : Int :=
  min (s.led.credit[cd] + tickShare s k) ((fld (s.reg 0x800C) 0 8 : Nat) * tickShare s k)

theorem foldl_credit (share bound : Int) (l : List Cd) (hl : l.Nodup) (s : State) :
    ∃ cr : Vector Int 12, l.foldl (fun t i => t.updLed (fun l => { l with
        credit := l.credit.set i (min (l.credit[i] + share) bound) })) s = s.updLed (fun l => { l with credit := cr }) ∧
      ∀ cd : Cd, cr[cd] = if cd ∈ l then min (s.led.credit[cd] + share) bound else s.led.credit[cd] := by
  induction l generalizing s with
  | nil => exact ⟨s.led.credit, rfl, fun cd => by simp⟩
  | cons i l ih =>
    obtain ⟨hi, hl⟩ := List.nodup_cons.mp hl
    obtain ⟨cr, hc, hcd⟩ := ih hl (s.updLed (fun l => { l with credit := l.credit.set i (min (l.credit[i] + share) bound) }))
    refine ⟨cr, hc, fun cd => ?_⟩
    rw [hcd]
    by_cases hcd' : cd = i
    · subst hcd'
      rw [if_neg hi, if_pos (.head _)]
      exact Vector.getElem_set_self _
    · have hkeep : (s.updLed (fun l => { l with credit := l.credit.set i (min (l.credit[i] + share) bound) })).led.credit[cd] =
          s.led.credit[cd] := Vector.getElem_set_ne i.isLt cd.isLt fun e => hcd' (Fin.ext e.symm)
      rw [hkeep]
      simp [hcd']

theorem nodup_dies (k : Fin 4) : ((List.finRange 3).map (dieOf k)).Nodup := by
  revert k
  decide

/-- A quadrant's credit goes to its own dies in service. -/
theorem creditQuad_facts (s : State) (k : Fin 4) : Same s (s.creditQuad k) ∧ Counts s (s.creditQuad k) ∧ ∀ cd : Cd,
    (s.creditQuad k).led.credit[cd] = if cd ∈ liveDies s k then credited s k cd else s.led.credit[cd] := by
  have hdies : ((List.range 3).map (fun i => cdOf (3 * k.val + i))).filter (fun i => !s.fenced i.val) = liveDies s k := rfl
  have hshare : dieShare ((s.quadBudget k.val : Int) - (s.led.base[k] : Int)) (liveDies s k).length = tickShare s k := by
    rw [length_liveDies, tickShare]
  obtain ⟨cr, hc, hcd⟩ := foldl_credit (tickShare s k) ((fld (s.reg 0x800C) 0 8 : Nat) * tickShare s k) (liveDies s k)
    ((nodup_dies k).filter _) s
  have heq : s.creditQuad k = (s.updLed (fun l => { l with credit := cr })).updLed (fun l => { l with
      bdCredit := l.bdCredit.set k (min (l.bdCredit[k] + ((s.quadBudget k.val : Int) - (s.led.base[k] : Int)) / 10)
        ((fld (s.reg 0x800C) 0 8 : Nat) * (((s.quadBudget k.val : Int) - (s.led.base[k] : Int)) / 10)))
      credited := l.credited.set k (l.credited[k] + ((s.quadBudget k.val : Int) - (s.led.base[k] : Int))) }) := by
    rw [← hc]
    simp only [State.creditQuad, hdies, hshare]
  rw [heq]
  exact ⟨⟨rfl, rfl, rfl, rfl, fun _ _ _ => rfl⟩, ⟨rfl, rfl, rfl, rfl⟩, hcd⟩

theorem liveDies_of_same {s t : State} (h : Same s t) (k : Fin 4) : liveDies t k = liveDies s k := by
  have hf (i : Nat) : t.fenced i = s.fenced i := by rw [State.fenced, State.fenced, State.die_of_dies h.dies]
  simp only [liveDies, hf]

theorem mem_liveDies {s : State} {k : Fin 4} {cd : Cd} : cd ∈ liveDies s k ↔ cd.val / 3 = k.val ∧ s.fenced cd.val = false := by
  have hdies : cd ∈ (List.finRange 3).map (dieOf k) ↔ cd.val / 3 = k.val := by
    revert k cd
    decide
  rw [liveDies, List.mem_filter, hdies, Bool.not_eq_true']

/-- The credits of the quadrants, one after another: each die is of one. -/
theorem foldl_creditQuad (l : List (Fin 4)) (hl : l.Nodup) (s : State) : Same s (l.foldl State.creditQuad s) ∧
    Counts s (l.foldl State.creditQuad s) ∧
    ∀ (k : Fin 4) (cd : Cd), cd.val / 3 = k.val → (l.foldl State.creditQuad s).led.credit[cd] =
      if k ∈ l ∧ s.fenced cd.val = false then credited s k cd else s.led.credit[cd] := by
  induction l generalizing s with
  | nil => exact ⟨.refl s, .refl s, fun k cd _ => by simp⟩
  | cons j l ih =>
    obtain ⟨hj, hl⟩ := List.nodup_cons.mp hl
    obtain ⟨hsame, hcount, hcred⟩ := creditQuad_facts s j
    obtain ⟨hsame', hcount', hcred'⟩ := ih hl (s.creditQuad j)
    refine ⟨hsame.trans hsame', hcount.trans hcount', fun k cd hk => ?_⟩
    have hf : (s.creditQuad j).fenced cd.val = s.fenced cd.val := by
      rw [State.fenced, State.fenced, State.die_of_dies hsame.dies]
    rw [List.foldl_cons, hcred' k cd hk, hf, credited, hsame.share, hsame.reg _ (by decide) (by decide), hcred]
    by_cases hjk : k = j
    · subst hjk
      simp [hj, mem_liveDies, hk]
    · have hout : ¬cd ∈ liveDies s j := fun h => hjk (Fin.ext (hk.symm.trans (mem_liveDies.mp h).1))
      simp [hout, hjk, credited]

/-! ### Settling the ledger's obligation -/

theorem ledgerTickCredits : LedgerTickCredits := by
  intro s temps hr
  obtain ⟨f, hf, he, hb, hl, ht, hn, hc, -⟩ := measured (List.finRange 4) s
  -- the state after the measurement, with its energy shown
  let m := (((s.updLed f).setReg 0x80B0 ((f s.led).energy / 10 ^ 9)).setReg 0x80B4 ((f s.led).energy / 10 ^ 9 / 2 ^ 32))
  let a := (([1, 2, 3, 4, 5, 6, 7, 8, 9, 10]).filter s.acts).foldl State.actTick m
  let b := a.updLed (fun l => { l with tick := l.tick + 1, now := l.now + 1, waited := false, held := Vector.replicate 4 false })
  let u := (List.finRange 4).foldl (fun t k => (List.range 4).foldl (fun t r => t.railTick k r) t) (b.readTemps temps)
  have hstep : ledgerTick temps s = (List.finRange 4).foldl State.creditQuad u := by
    simp only [ledgerTick, hr, Bool.true_eq_false, if_false, hf]
    rfl
  have hma : Spared m a := spared_foldl (fun t r hr => spared_actTick t (by
    have := List.mem_of_mem_filter hr
    simp at this; omega)) m
  have hbu : Spared b u := (spared_readTemps b temps).trans
    (spared_foldl (fun t k _ => spared_foldl (fun t r _ => spared_railTick t k r) t) _)
  obtain ⟨hsame, hcount, hcred⟩ := foldl_creditQuad (List.finRange 4) (List.nodup_finRange 4) u
  have hsm : Same s m := ⟨hb, hl, rfl, rfl, fun o _ ho => by
    rw [State.reg_setReg_ne _ _ (by omega), State.reg_setReg_ne _ _ (by omega)]; rfl⟩
  have hab : Same a b := ⟨rfl, rfl, rfl, rfl, fun _ _ _ => rfl⟩
  have hsu : Same s u := ((hsm.trans hma.same).trans hab).trans hbu.same
  have henergy : ((List.finRange 4).foldl State.creditQuad u).led.energy = (f s.led).energy :=
    hcount.energy.trans (hbu.counts.energy.trans hma.counts.energy)
  have hcredit : u.led.credit = s.led.credit := hbu.credit.trans (hma.credit.trans hc)
  refine ⟨_, congrArg Host.Outcome.next hstep, ?_, ?_, henergy.trans he, ?_, hsame.mem.trans hsu.mem, hsame.dies.trans hsu.dies, ?_⟩
  · exact hcount.tick.trans (hbu.counts.tick.trans (congrArg (· + 1) (hma.counts.tick.trans ht)))
  · exact hcount.now.trans (hbu.counts.now.trans (congrArg (· + 1) (hma.counts.now.trans hn)))
  · rw [henergy, hcount.shown, hbu.counts.shown]
    refine hma.counts.shown.trans ?_
    exact (State.reg_setReg_ne _ _ (by decide)).trans (State.reg_setReg_self _ _ _)
  · intro k i
    have hk : (dieOf k i).val / 3 = k.val := by
      have : (dieOf k i).val = 3 * k.val + i.val := Nat.mod_eq_of_lt (by omega)
      omega
    have hf' : u.fenced (dieOf k i).val = s.fenced (dieOf k i).val := by
      rw [State.fenced, State.fenced, State.die_of_dies hsu.dies]
    have hval := hcred k (dieOf k i) hk
    rw [hf', credited, hsu.share, hsu.reg _ (by decide) (by decide), hcredit] at hval
    exact ⟨fun hfen => hval.trans (if_pos ⟨List.mem_finRange k, hfen⟩), fun hfen => hval.trans (if_neg (by simp [hfen]))⟩

/-! ### The gyle -/

/-- The end of a gyle for the quadrants: baselines, corrections, histories and their registers. -/
theorem foldl_gyleQuad (l : List (Fin 4)) (s : State) : ∃ b c h r, l.foldl State.gyleQuad s =
    { s with led := { s.led with base := b, corr := c, history := h }, regs := r } := by
  induction l generalizing s with
  | nil => exact ⟨_, _, _, _, rfl⟩
  | cons k l ih =>
    obtain ⟨b, c, h, r, he⟩ := ih (s.gyleQuad k)
    exact ⟨b, c, h, r, he⟩

theorem sendPace_rest (s : State) (pace reason dur : Nat) : (s.sendPace pace reason dur).led = s.led ∧
    (s.sendPace pace reason dur).mem = s.mem ∧ (s.sendPace pace reason dur).dies = s.dies ∧
    ∀ o, o ≠ 0x5018 → (s.sendPace pace reason dur).reg o = s.reg o := by
  unfold State.sendPace
  split
  · rename_i b excl _
    obtain ⟨f, hf⟩ := s.sendFlow_rest (s.mkPacket ((s.groupOf b excl).globalRoot (cRoot b)) 0x0B
      (cFlow b (s.groupOf b excl).low 1 0) 20 true 0 (paceBytes 0 s.coll.lastStep pace reason dur s.selfCoord)) .none
    dsimp only
    rw [hf]
    exact ⟨rfl, rfl, rfl, fun o ho => reg_countReg_ne _ _ ho⟩
  · exact ⟨rfl, rfl, rfl, fun _ _ => rfl⟩

/-- The ledger as a gyle that ends leaves it: the counts of the gyle begin again. -/
def nextGyle (l : LedSt) (own reason : Nat) : LedSt := { l with
  own := own
  ownReason := reason
  tick := 0
  waits := Vector.replicate 12 0
  span := 0
  admitted := Vector.replicate 4 0
  spent := Vector.replicate 4 0
  credited := Vector.replicate 4 0
  measured := Vector.replicate 4 0
  idleTicks := Vector.replicate 4 0
  idleEnergy := Vector.replicate 4 0
  acted := Vector.replicate 11 0 }

/-- The own pace that a gyle's end sets. -/
def ownPace (l : LedSt) : Nat := if l.span = 0 ∨ (l.own = 1024 ∧ l.paced = false) then l.own else l.nextPace

/-- The end of a gyle: the own pace, the counts begun again, the pace and the setpoints shown. -/
theorem gyleEnd_facts {s : State} (hr : s.ready = true) (ht : 1000 ≤ s.led.tick) :
    (∃ b c h reason, (gyleEnd s).led = nextGyle { s.led with base := b, corr := c, history := h } (ownPace s.led) reason) ∧
    fld ((gyleEnd s).reg 0x8000) 16 11 = ownPace s.led % 2 ^ 11 ∧ SetpointsShown (gyleEnd s) ∧ (gyleEnd s).mem = s.mem ∧
    (gyleEnd s).dies = s.dies := by
  obtain ⟨b, c, h, r, hq⟩ := foldl_gyleQuad (List.finRange 4) s
  unfold gyleEnd
  rw [if_neg (by simp [hr, ht])]
  extract_lets q w old own reason v
  have hw : ∃ r', w = { s with led := { s.led with base := b, corr := c, history := h }, regs := r' } := by
    simp only [w, q, hq]
    split
    · exact ⟨_, rfl⟩
    · exact ⟨_, rfl⟩
  obtain ⟨r', hw⟩ := hw
  have hown : own = ownPace s.led := by
    simp only [own, old, hw]
    rfl
  have hled : v.led = nextGyle { s.led with base := b, corr := c, history := h } (ownPace s.led) reason := by
    simp only [v]
    rw [setpoints_eq, ← hown, hw]
    rfl
  have hshow : fld (v.reg 0x8000) 16 11 = ownPace s.led % 2 ^ 11 := by
    simp only [v]
    rw [reg_setpoints_status, State.fieldReg, State.reg_setReg_self, fld_mod_word _ _ _ (by decide), fld_setFld_self, hown]
  have hset : SetpointsShown v := setpointsShown_setpoints _
  have hrest : v.mem = s.mem ∧ v.dies = s.dies := by
    simp only [v]
    rw [setpoints_eq, hw]
    exact ⟨rfl, rfl⟩
  clear_value v
  split
  · obtain ⟨hl, hm, hd, hreg⟩ := sendPace_rest v own reason 0xFFFFFFFF
    refine ⟨⟨b, c, h, reason, hl.trans hled⟩, by rw [hreg _ (by decide), hshow], fun i => ?_, hm.trans hrest.1, hd.trans hrest.2⟩
    rw [hreg _ (by omega), setpoint_of_led hl]
    exact hset i
  · exact ⟨⟨b, c, h, reason, hled⟩, hshow, hset, hrest⟩

theorem foldl_min_ge {l : List Nat} {m n : Nat} (hm : n ≤ m) (hl : ∀ x ∈ l, n ≤ x) : n ≤ l.foldl min m := by
  induction l generalizing m with
  | nil => exact hm
  | cons x l ih => exact ih (le_min hm (hl x (.head _))) fun y hy => hl y (.tail _ hy)

theorem foldl_min_le' (l : List Nat) (m : Nat) : l.foldl min m ≤ m := by
  induction l generalizing m with
  | nil => exact le_rfl
  | cons x l ih => exact (ih _).trans (min_le_left _ _)

theorem nextPace_bounds {l : LedSt} (h : 256 ≤ l.own) : 256 ≤ l.nextPace ∧ l.nextPace ≤ 1024 := by
  unfold LedSt.nextPace
  split
  · omega
  · refine ⟨foldl_min_ge (by decide) fun x hx => ?_, foldl_min_le' _ _⟩
    obtain ⟨w, -, rfl⟩ := List.mem_map.mp hx
    exact le_max_left _ _

theorem gyleSetsPace : GyleSetsPace := by
  refine ⟨fun s hr ht hspan hown hp => ?_, fun s hr ht hspan hp => ?_, fun l h _ => nextPace_bounds h⟩
  · obtain ⟨⟨b, c, h, reason, hled⟩, -⟩ := gyleEnd_facts hr ht
    refine ⟨_, rfl, ?_, ?_⟩
    · rw [hled]; exact (if_pos (.inr ⟨hown, hp⟩)).trans hown
    · rw [hled]; rfl
  · obtain ⟨⟨b, c, h, reason, hled⟩, hshow, hset, hmem, hdies⟩ := gyleEnd_facts hr ht
    have hown : ownPace s.led = s.led.nextPace := if_neg fun hc => hc.elim hspan fun ⟨h1, h2⟩ =>
      hp.elim (· h1) (fun h => absurd (h.symm.trans h2) (by decide))
    rw [hown] at hled hshow
    refine ⟨_, rfl, ?_, ?_, ?_, fun k => ?_, fun i => ?_, hshow, hset, ?_, ?_, hmem, hdies⟩
    all_goals rw [hled]
    · rfl
    · rfl
    · rfl
    · exact Vector.getElem_replicate _
    · exact Vector.getElem_replicate _
    · rfl
    · rfl

/-- Settles O47, by the tick and by the gyle. -/
theorem ledgerAndPace : Obligations.LedgerAndPace := ⟨ledgerTickCredits, gyleSetsPace⟩

end Sys2Proof.Proofs.Ledger
end

section
/-! PROOF. Power, resets and the waits of start-up. -/

namespace Sys2Proof.Proofs.StartUp

open Sys2Proof.Machine Sys2Proof.Claims Sys2Proof.Proofs.ByteFields Sys2Proof.Proofs.Registers Sys2Proof.Proofs.BitFields
  Sys2Proof.Proofs.Setpoints

/-! ### Power -/

theorem unpowered_powerOff (s : State) : Unpowered s s.powerOff := ⟨rfl, rfl, rfl, rfl, rfl, rfl, rfl, rfl, rfl, rfl, rfl, rfl, rfl⟩

theorem brakeAssert_rest {s : State} (land : Bool) (h : s.boot.powered = true) :
    ∃ l r, brakeAssert land s = { s with led := l, regs := r } ∧ (brakeAssert land s).reg 0x8000 = (s.orReg 0x8000 0x4000).reg 0x8000 := by
  rw [brakeAssert, if_neg (by simp [h])]
  refine ⟨_, _, by rw [setpoints_eq]; rfl, ?_⟩
  rw [reg_setpoints_status]
  rfl

theorem fld_orReg_apart (s : State) {o lo n m : Nat} (h : lo + n ≤ 32) (hm : ∀ i, i < n → m.testBit (lo + i) = false) :
    fld ((s.orReg o m).reg o) lo n = fld (s.reg o) lo n :=
  Nat.eq_of_testBit_eq fun i => by
    rw [testBit_fld, testBit_fld]
    by_cases hi : i < n
    · rw [testBit_orReg _ _ (by omega), hm i hi, Bool.or_false]
    · simp [hi]

theorem fld_fieldReg_self (s : State) {o lo n v : Nat} (h : lo + n ≤ 32) : fld ((s.fieldReg o lo n v).reg o) lo n = v % 2 ^ n := by
  rw [State.fieldReg, State.reg_setReg_self, fld_mod_word _ _ _ h, fld_setFld_self]

theorem fld_fieldReg_apart (s : State) {o lo n lo' n' v : Nat} (h : lo + n ≤ 32) (hd : lo + n ≤ lo' ∨ lo' + n' ≤ lo) :
    fld ((s.fieldReg o lo' n' v).reg o) lo n = fld (s.reg o) lo n := by
  rw [State.fieldReg, State.reg_setReg_self, fld_mod_word _ _ _ h, fld_setFld_of_disjoint hd]

theorem reg_fieldReg_ne (s : State) {o q : Nat} (lo n v : Nat) (h : q ≠ o) : (s.fieldReg o lo n v).reg q = s.reg q :=
  s.reg_setReg_ne _ h

/-- A cold reset keeps power, the flash and the power stages in service, and nothing of memory. -/
theorem coldReset_facts (s : State) (n : Nat) : (s.coldReset n).boot.powered = true ∧ (s.coldReset n).boot.step = 6 ∧
    (s.coldReset n).ready = false ∧ (s.coldReset n).mem = [] ∧ fld ((s.coldReset n).reg 0x8000) 0 12 = fld (s.reg 0x8000) 0 12 ∧
    (s.coldReset n).boot.flash = s.boot.flash := by
  unfold State.coldReset
  extract_lets stages _ _ _ _ t0 t1 t2 t3
  have h1 : (t1.boot.powered = true ∧ t1.boot.step = 6 ∧ t1.boot.flash = s.boot.flash) ∧ t1.mem = [] ∧ t1.reg 0x1000 = 0 ∧ fld (t1.reg 0x8000) 0 12 = stages :=
    ⟨⟨rfl, rfl, rfl⟩, rfl, rfl, (fld_fieldReg_self t0 (by decide)).trans (Nat.mod_eq_of_lt (Completions.fld_lt _ _ _))⟩
  have h2 : (t2.boot.powered = true ∧ t2.boot.step = 6 ∧ t2.boot.flash = s.boot.flash) ∧ t2.mem = [] ∧ t2.reg 0x1000 = 0 ∧ fld (t2.reg 0x8000) 0 12 = stages := by
    simp only [t2]
    split
    · exact h1
    · rw [reg_depStatus_ne _ _ (by decide) (by decide), reg_depStatus_ne _ _ (by decide) (by decide), depStatus_eq]
      exact h1
  have h3 : (t3.boot.powered = true ∧ t3.boot.step = 6 ∧ t3.boot.flash = s.boot.flash) ∧ t3.mem = [] ∧ t3.reg 0x1000 = 0 ∧
      fld (t3.reg 0x8000) 0 12 = stages := by
    simp only [t3]
    split
    · exact h2
    · exact h2
  clear_value t3
  obtain ⟨⟨hp, hs, hf⟩, hm, h0, hst⟩ := h3
  have hbrake (land : Bool) : (brakeAssert land t3).boot.powered = true ∧ (brakeAssert land t3).boot.step = 6 ∧
      (brakeAssert land t3).ready = false ∧ (brakeAssert land t3).mem = [] ∧
      fld ((brakeAssert land t3).reg 0x8000) 0 12 = stages ∧ (brakeAssert land t3).boot.flash = s.boot.flash := by
    obtain ⟨l, r, heq, hreg⟩ := brakeAssert_rest land hp
    have h1000 : (brakeAssert land t3).reg 0x1000 = 0 := by
      rw [brakeAssert, if_neg (by simp [hp]), reg_setpoints_ne _ fun i => by omega]
      exact (reg_orReg_ne _ _ (by decide)).trans h0
    refine ⟨by rw [heq]; exact hp, by rw [heq]; exact hs, by rw [State.ready, h1000]; rfl, by rw [heq]; exact hm, ?_, by rw [heq]; exact hf⟩
    rw [hreg, fld_orReg_apart _ (by decide) (fun i hi => ?_), hst]
    rw [show (0x4000 : Nat) = 2 ^ 14 from rfl, Nat.testBit_two_pow]
    simp; omega
  split
  · exact hbrake false
  · split
    · exact hbrake true
    · exact ⟨hp, hs, by rw [State.ready, h0]; rfl, hm, hst, hf⟩

/-! ### A halt and the steps to step 14 -/

theorem halt_facts (s : State) {code : Nat} (hc : code < 2 ^ 8) : fld ((s.halt code).reg 0x1000) 0 4 = 8 ∧
    fld ((s.halt code).reg 0x1000) 16 8 = code ∧ bitAt ((s.halt code).reg 0x30) 1 = true := by
  have hreg : (s.halt code).reg 0x1000 = ((s.phase 8).fieldReg 0x1000 16 8 code).reg 0x1000 := reg_orReg_ne _ _ (by decide)
  rw [hreg]
  refine ⟨?_, ?_, bitAt_orReg (by decide) (by decide)⟩
  · rw [fld_fieldReg_apart _ (by decide) (.inl (by decide))]
    exact fld_fieldReg_self s (by decide)
  · exact (fld_fieldReg_self _ (by decide)).trans (Nat.mod_eq_of_lt hc)

/-- What start-up leaves as it goes on: the time, the count of starts, and that the part record is loaded. -/
structure GoesOn (s t : State) : Prop where
  time : t.time = s.time
  boots : t.boot.boots = s.boot.boots
  sysReset : t.boot.sysReset = s.boot.sysReset
  loaded : t.boot.loaded = s.boot.loaded

theorem GoesOn.refl (s : State) : GoesOn s s := ⟨rfl, rfl, rfl, rfl⟩

theorem GoesOn.trans {s t u : State} (h : GoesOn s t) (h' : GoesOn t u) : GoesOn s u :=
  ⟨h'.time.trans h.time, h'.boots.trans h.boots, h'.sysReset.trans h.sysReset, h'.loaded.trans h.loaded⟩

theorem goesOn_foldl {α : Type} {f : State → α → State} (hf : ∀ t x, GoesOn t (f t x)) (l : List α) (s : State) :
    GoesOn s (l.foldl f s) := by
  induction l generalizing s with
  | nil => exact .refl s
  | cons x l ih => exact (hf s x).trans (ih _)

theorem goesOn_setReg (s : State) (o v : Nat) : GoesOn s (s.setReg o v) := ⟨rfl, rfl, rfl, rfl⟩

theorem goesOn_updBoot (s : State) {f : BootSt → BootSt} (hb : (f s.boot).boots = s.boot.boots)
    (hr : (f s.boot).sysReset = s.boot.sysReset) (hl : (f s.boot).loaded = s.boot.loaded) : GoesOn s (s.updBoot f) :=
  ⟨rfl, hb, hr, hl⟩

theorem goesOn_wearEntry (s : State) (e : List Byte) : GoesOn s (s.wearEntry e) := by
  unfold State.wearEntry
  split
  · exact ⟨rfl, rfl, rfl, rfl⟩
  · split
    · exact ⟨rfl, rfl, rfl, rfl⟩
    · exact .refl s
  · exact ⟨rfl, rfl, rfl, rfl⟩
  · exact .refl s

theorem goesOn_replayBlock (s : State) (a : Nat) : GoesOn s (s.replayBlock a) := goesOn_foldl (fun t _ => goesOn_wearEntry t _) _ s

theorem goesOn_replayWear (s : State) : GoesOn s s.replayWear := by
  unfold State.replayWear
  extract_lets all used good seqOf sorted half next u
  have hu : GoesOn s u := goesOn_foldl (fun t x => goesOn_replayBlock t _) _ s
  clear_value u good used
  refine hu.trans (GoesOn.trans ?_ (goesOn_setReg _ _ _))
  apply goesOn_updBoot <;> rfl

theorem goesOn_loadSlot (s : State) (i : Fin 2) (r : Nat × Nat) : GoesOn s (s.loadSlot i r) := by
  unfold State.loadSlot
  extract_lets
  split
  · exact ⟨rfl, rfl, rfl, rfl⟩
  · exact ⟨rfl, rfl, rfl, rfl⟩

theorem goesOn_loadIf (s : State) (i : Fin 2) (o : Option (Nat × Nat)) : GoesOn s (Steward.loadIf s i o) := by
  cases o with
  | none => exact .refl s
  | some r => exact goesOn_loadSlot s i r

theorem goesOn_loadSupplements (s : State) : GoesOn s s.loadSupplements := by
  obtain ⟨o, heq, -⟩ := Steward.loadSupplements_eq s
  rw [heq]
  exact (goesOn_loadIf _ _ _).trans (goesOn_loadIf _ _ _)

theorem tabGet_map_range {α : Type} (d v : α) {n i : Nat} (h : i < n) : tabGet d ((List.range n).map (fun i => (i, v))) i = v := by
  have hall (l : List Nat) (hm : i ∈ l) : tabGet d (l.map (fun i => (i, v))) i = v := by
    induction l with
    | nil => exact absurd hm List.not_mem_nil
    | cons k l ih =>
      rw [List.map_cons, tabGet]
      split
      · rfl
      · exact ih ((List.mem_cons.mp hm).resolve_left fun e => by simp_all)
  exact hall _ (List.mem_range.mpr h)

theorem step11_facts (s : State) : GoesOn s s.step11 ∧ s.step11.boot.step = 14 ∧ fld (s.step11.reg 0x1000) 0 4 = 5 ∧
    ∀ i < 100, s.step11.hafDie i = { HafDie.reset with state := 1 } := by
  unfold State.step11
  extract_lets u v w
  have hphase (t : State) (n : Nat) : GoesOn t (t.phase n) := goesOn_setReg _ _ _
  have hsu : GoesOn s u := hphase s 3
  have huv : GoesOn u v := by
    simp only [v]
    split
    · exact (goesOn_setReg _ _ _).trans (goesOn_replayWear _)
    · exact .refl u
  have hvw : GoesOn v w := (hphase v 4).trans ((goesOn_loadSupplements _).trans (hphase _ 5))
  have hw := (hsu.trans huv).trans hvw
  have hreg : fld (w.reg 0x1000) 0 4 = 5 := fld_fieldReg_self _ (by decide)
  clear_value w
  exact ⟨⟨hw.time, hw.boots, hw.sysReset, hw.loaded⟩, rfl, hreg,
    fun i hi => tabGet_map_range _ _ hi⟩

/-- Loading the part record sets registers from it and says so. -/
theorem loadPart_facts (s : State) (c : Nat) : ((s.loadPart c).time = s.time ∧ (s.loadPart c).boot.boots = s.boot.boots ∧
    (s.loadPart c).boot.sysReset = s.boot.sysReset) ∧ (s.loadPart c).boot.loaded = true := by
  unfold State.loadPart
  extract_lets u v w
  have huv : GoesOn s u := (goesOn_setReg _ _ _).trans ((goesOn_setReg _ _ _).trans (goesOn_setReg _ _ _))
  have hvw : GoesOn v w := goesOn_foldl (fun t i => goesOn_setReg t _ _) _ v
  have hw := (huv.trans (goesOn_setReg u 0x3050 _)).trans hvw
  exact ⟨⟨hw.time, hw.boots, hw.sysReset⟩, rfl⟩

/-- The part record is read in the flash alone. -/
theorem pickCopy_congr {s t : State} (h : t.boot.flash = s.boot.flash) : t.pickCopy = s.pickCopy ∧ t.part = s.part := by
  have hflash : t.flash = s.flash := by
    funext a n
    simp only [State.flash, h]
  have hnum : t.flashNum = s.flashNum := by
    funext a n
    simp only [State.flashNum, hflash]
  have hpart : t.part = s.part := by
    funext c o n
    simp only [State.part, hnum]
  have hbytes : t.partBytes = s.partBytes := by
    funext c o n
    simp only [State.partBytes, hflash]
  refine ⟨?_, hpart⟩
  simp only [State.pickCopy, State.partValid, State.partPlain, State.rootKey, State.signerCert, hpart, hbytes]

/-- Step 7 for a record's copy: the time from 0, one more start, and the halt or the way to step 14. -/
theorem step7_facts (s : State) : s.step7.time = 0 ∧ s.step7.boot.sysReset = s.boot.sysReset ∧
    s.step7.boot.boots = s.boot.boots + 1 ∧
    match s.pickCopy with
    | none => fld (s.step7.reg 0x1000) 0 4 = 8 ∧ fld (s.step7.reg 0x1000) 16 8 = 1 ∧ bitAt (s.step7.reg 0x30) 1 = true ∧
      s.step7.boot.loaded = s.boot.loaded
    | some c =>
      if s.part c 0xC 4 = stepping then s.step7.boot.step = 14 ∧ s.step7.boot.loaded = true ∧ fld (s.step7.reg 0x1000) 0 4 = 5 ∧
        ∀ i < 100, s.step7.hafDie i = { HafDie.reset with state := 1 }
      else fld (s.step7.reg 0x1000) 0 4 = 8 ∧ fld (s.step7.reg 0x1000) 16 8 = 2 ∧ bitAt (s.step7.reg 0x30) 1 = true := by
  unfold State.step7
  extract_lets _ _ u
  obtain ⟨hpick, hpart⟩ := pickCopy_congr (s := s) (t := u) rfl
  have hu : u.time = 0 ∧ u.boot.sysReset = s.boot.sysReset ∧ u.boot.boots = s.boot.boots + 1 ∧ u.boot.loaded = s.boot.loaded :=
    ⟨rfl, rfl, rfl, rfl⟩
  clear_value u
  obtain ⟨ht, hs, hb, hl⟩ := hu
  rw [hpick, hpart]
  have hhalt (code : Nat) : GoesOn u (u.halt code) := ⟨rfl, rfl, rfl, rfl⟩
  cases s.pickCopy with
  | none =>
    obtain ⟨h1, h2, h3⟩ := halt_facts u (code := 1) (by decide)
    exact ⟨ht, hs, hb, h1, h2, h3, hl⟩
  | some c =>
    dsimp only
    by_cases hc : s.part c 0xC 4 = stepping
    · simp only [if_pos hc]
      obtain ⟨hload, hloaded⟩ := loadPart_facts (u.phase 2) c
      obtain ⟨hgo, h14, h5, hdies⟩ := step11_facts ((u.phase 2).loadPart c)
      exact ⟨(hgo.time.trans hload.1).trans ht, (hgo.sysReset.trans hload.2.2).trans hs, (hgo.boots.trans hload.2.1).trans hb, h14,
        hgo.loaded.trans hloaded, h5, hdies⟩
    · simp only [if_neg hc]
      obtain ⟨h1, h2, h3⟩ := halt_facts u (code := 2) (by decide)
      exact ⟨ht, hs, hb, h1, h2, h3⟩

/-- Settles O50, event by event. -/
theorem powerAndResets : Obligations.PowerAndResets := by
  intro s
  refine ⟨fun board hp ht hb => ?_, fun board ht => ?_, fun hp => ?_, fun hp => ?_, fun cls cel hp hc => ⟨fun h => ?_, fun h => ?_⟩,
    fun hp h7 => ?_, fun board hr h6 href htap => ?_, fun clk hpast => ?_, fun code hp hpast => ?_⟩
  · have hstep : powerOn board s = (s.boardFlash board).updBoot (fun b => { b with powered := true, step := 5 }) := by
      rw [powerOn, if_neg (by simp [hp, ht])]
      exact if_neg (by simp [State.boardFlash, State.updBoot, hb])
    exact ⟨_, congrArg Host.Outcome.next hstep, rfl, rfl, rfl, rfl, rfl⟩
  · exact congrArg Host.Outcome.next (if_pos (.inr ht))
  · exact ⟨_, congrArg Host.Outcome.next (if_pos hp), unpowered_powerOff s, rfl⟩
  · exact ⟨_, congrArg (fun u : State => Host.Outcome.next (u.updBoot (fun b => { b with trip := false }))) (if_pos hp),
      unpowered_powerOff s, rfl⟩
  · exact ⟨_, congrArg Host.Outcome.next (if_pos ⟨hp, hc, h⟩), unpowered_powerOff s, rfl⟩
  · exact congrArg Host.Outcome.next (if_neg fun hh => absurd hh.2.2 (by omega))
  · obtain ⟨h1, h2, h3, h4, h5, h6⟩ := coldReset_facts s 0
    exact ⟨_, congrArg Host.Outcome.next (if_neg (by simp [hp]; omega)), h1, rfl, h2, h3, h4, h5, h6⟩
  · have hstep : sysResetRelease board s = ((s.boardFlash board).updBoot (fun b => { b with sysReset := false })).step7 := by
      have h5 : ((s.boardFlash board).updBoot (fun b => { b with sysReset := false })).step5 =
          (s.boardFlash board).updBoot (fun b => { b with sysReset := false }) := if_pos (by
        show s.boot.step ≠ 5
        omega)
      rw [sysResetRelease, if_pos hr, State.bootGo, h5]
      exact if_pos ⟨h6, href, rfl, htap⟩
    obtain ⟨ht, hs, hb, hrest⟩ := step7_facts ((s.boardFlash board).updBoot (fun b => { b with sysReset := false }))
    obtain ⟨hpick, hpart⟩ := pickCopy_congr (s := s.boardFlash board)
      (t := (s.boardFlash board).updBoot (fun b => { b with sysReset := false })) rfl
    rw [hpick, hpart] at hrest
    exact ⟨_, congrArg Host.Outcome.next hstep, hs, ht, hb, hrest⟩
  · exact ⟨_, congrArg Host.Outcome.next (bootGo_of_past hpast.1 hpast.2), rfl, rfl, rfl⟩
  · have hstep : tapInstruction code s = s.updBoot (fun b => { b with tap := if code ≤ 1 ∨ b.sysReset = true then code else 0 }) := by
      rw [tapInstruction, if_neg (by simp [hp])]
      exact bootGo_of_past hpast.1 hpast.2
    exact ⟨_, congrArg Host.Outcome.next hstep, rfl, rfl, rfl⟩

/-! ### The waits -/

/-- Memory without the bytes that do not meet a test of their location. -/
theorem memGet_filter_loc (f : Nat → Bool) (m : List Host.Cell) (l : Nat) :
    memGet (m.filter (fun c => f c.1)) l = if f l then memGet m l else 0 := by
  induction m with
  | nil => simp [memGet]
  | cons c m ih =>
    obtain ⟨k, v⟩ := c
    by_cases hk : f k
    · rw [List.filter_cons_of_pos (by exact hk), memGet, memGet, ih]
      by_cases hkl : k = l
      · subst hkl; simp [hk]
      · simp [hkl]
    · rw [List.filter_cons_of_neg (by exact hk), ih, memGet]
      by_cases hkl : k = l
      · subst hkl; simp [hk]
      · simp [hkl]

/-- Step 14 waits while a die has neither echoed nor fallen below the minimum. -/
theorem step14_of_waiting {s : State} {o : Nat} (ho : o < 100) (hs : (s.hafDie o).state = 1) (he : (s.hafDie o).echoed = false) :
    s.step14 = s := by
  refine if_pos (.inr (List.any_eq_true.mpr ⟨o, List.mem_range.mpr ho, ?_⟩))
  simp [hs, he]

theorem step14_of_other_step {s : State} (h : s.boot.step ≠ 14) : s.step14 = s := if_pos (.inl h)

/-- What writing selections leaves: everything but the dies' records and what left the package, the blocks received, and a
die whose block has not arrived. -/
structure Selected (s t : State) : Prop where
  boot : t.boot = s.boot
  mem : t.mem = s.mem
  regs : t.regs = s.regs
  cap : ∀ die, (t.hafDie die).cap = (s.hafDie die).cap
  waiting : ∀ o, (s.hafDie o).cap = [] → t.hafDie o = s.hafDie o

theorem selected_setHafDie {s t : State} (h : Selected s t) {die : Nat} {d : HafDie} (hd : d.cap = (t.hafDie die).cap)
    (hne : (t.hafDie die).cap ≠ []) : Selected s (t.setHafDie die d) := by
  refine ⟨h.boot, h.mem, h.regs, fun o => ?_, fun o ho => ?_⟩
  · by_cases hod : o = die
    · subst hod
      rw [State.hafDie_setHafDie_self, hd, h.cap]
    · rw [State.hafDie_setHafDie_ne _ _ hod, h.cap]
  · have hod : o ≠ die := fun e => hne (by rw [← e, h.cap, ho])
    rw [State.hafDie_setHafDie_ne _ _ hod, h.waiting o ho]

theorem selected_selectDie {s t : State} (h : Selected s t) (die : Nat) : Selected s (t.selectDie die) := by
  unfold State.selectDie
  extract_lets d b x
  split
  next hd =>
    split
    · exact selected_setHafDie h rfl hd.2.2.1
    · have hset := selected_setHafDie h (die := die) (d := { d with asked := true, sel := x }) rfl hd.2.2.1
      exact ⟨hset.boot, hset.mem, hset.regs, hset.cap, hset.waiting⟩
  next => exact h

theorem selected_foldl (l : List Nat) {s t : State} (h : Selected s t) : Selected s (l.foldl State.selectDie t) := by
  induction l generalizing t with
  | nil => exact h
  | cons die l ih => exact ih (selected_selectDie h die)

/-- A device becomes ready: its phase, its ready bit and its pin. -/
theorem becomeReady_facts (s : State) : fld (s.becomeReady.reg 0x1000) 0 4 = 7 ∧ s.becomeReady.ready = true ∧
    bitAt (s.becomeReady.reg 0x30) 0 = true ∧ s.becomeReady.reg 0x3000 = s.reg 0x3000 := by
  have hreg : s.becomeReady.reg 0x1000 = ((s.phase 7).orReg 0x1000 16).reg 0x1000 :=
    (reg_orReg_ne _ _ (by decide)).trans (State.reg_setReg_ne _ _ (by decide))
  refine ⟨?_, ?_, bitAt_orReg (by decide) (by decide), ?_⟩
  · rw [hreg, fld_orReg_apart _ (by decide) (by decide)]
    exact fld_fieldReg_self s (by decide)
  · rw [State.ready, hreg]
    exact bitAt_orReg (by decide) (by decide)
  · exact (reg_orReg_ne _ _ (by decide)).trans ((State.reg_setReg_ne _ _ (by decide)).trans
      ((reg_orReg_ne _ _ (by decide)).trans (State.reg_setReg_ne _ _ (by decide))))

/-- Settles O51, wait by wait. -/
theorem startUpWaits : Obligations.StartUpWaits := by
  intro s
  refine ⟨fun tier quad h20 hbit => ?_, fun die kind body hp hd h14 => ?_, fun die kind body crc hcrc h14 => ?_,
    fun die body hp hd h14 h1 hcap hother => ?_, fun die h14 h1 he hother => ?_⟩
  · have hb : 4 * tier.val + quad.val < 32 := by omega
    let u := ({ s with
      mem := s.mem.filter (fun c => tierBit c.1 != 4 * tier.val + quad.val)
      poison := s.poison.filter (fun l => tierBit (l * 64) != 4 * tier.val + quad.val) }).orReg 0x3000 (2 ^ (4 * tier.val + quad.val))
    have hstep : memoryInitDone tier quad s = if u.reg 0x3000 = 0xFFF then u.becomeReady else u :=
      if_neg fun h => h.elim (· h20) (fun h => absurd (hbit.symm.trans h) (by decide))
    obtain ⟨h7, hrdy, hpin, hkeep⟩ := becomeReady_facts u
    have hmem : (if u.reg 0x3000 = 0xFFF then u.becomeReady else u).mem = u.mem := by
      split <;> rfl
    have hreg : (if u.reg 0x3000 = 0xFFF then u.becomeReady else u).reg 0x3000 = u.reg 0x3000 := by
      split
      · exact hkeep
      · rfl
    refine ⟨_, congrArg Host.Outcome.next hstep, ?_, fun l hl => ?_, fun l hl => ?_, fun hall => ?_⟩
    · rw [hreg]
      exact bitAt_orReg hb (Nat.testBit_two_pow_self)
    · rw [hmem]
      exact (memGet_filter_loc (fun x => tierBit x != 4 * tier.val + quad.val) _ _).trans (by simp [hl])
    · rw [hmem]
      exact (memGet_filter_loc (fun x => tierBit x != 4 * tier.val + quad.val) _ _).trans (by simp [hl])
    · have hfull : u.reg 0x3000 = 0xFFF := (State.reg_setReg_self _ _ _).trans (congrArg (· % 2 ^ 32) hall)
      rw [if_pos hfull]
      exact ⟨hrdy, h7, rfl, hpin⟩
  · have hstep : mgmtFrame die kind body (crc16 body) s = s.emit (.mgmt die 0 []) := by
      rw [mgmtFrame, if_neg (by simp [hp]; omega)]
      exact if_pos (.inl h14)
    exact congrArg Host.Outcome.next (by rw [hstep]; exact step14_of_other_step h14)
  · have hstep : mgmtFrame die kind body crc s = s := if_pos (.inr (.inr hcrc))
    exact congrArg Host.Outcome.next (by rw [hstep]; exact step14_of_other_step h14)
  · obtain ⟨o, ho, hne, hos, hoe, hocap⟩ := hother
    have hstep : mgmtFrame die 0 body (crc16 body) s = (List.range 100).foldl State.selectDie
        ((s.emit (.mgmt die 0 [])).setHafDie die { s.hafDie die with cap := sliceB body 0 64 }) := by
      rw [mgmtFrame, if_neg (by simp [hp]; omega)]
      refine (if_neg fun h => h.elim (· h14) (· h1)).trans (if_pos ⟨rfl, hcap⟩)
    have hsel := selected_foldl (List.range 100) (s := (s.emit (.mgmt die 0 [])).setHafDie die { s.hafDie die with cap := sliceB body 0 64 })
      ⟨rfl, rfl, rfl, fun _ => rfl, fun _ _ => rfl⟩
    have hoth : ((s.emit (.mgmt die 0 [])).setHafDie die { s.hafDie die with cap := sliceB body 0 64 }).hafDie o = s.hafDie o :=
      State.hafDie_setHafDie_ne _ _ hne
    have hwait := hsel.waiting o (by rw [hoth]; exact hocap)
    rw [hoth] at hwait
    refine ⟨_, congrArg Host.Outcome.next (by
      rw [hstep]
      exact step14_of_waiting ho (by rw [hwait]; exact hos) (by rw [hwait]; exact hoe)), ?_, hsel.boot, hsel.mem, hsel.regs⟩
    rw [hsel.cap, State.hafDie_setHafDie_self]
  · obtain ⟨o, ho, hne, hos, hoe, -⟩ := hother
    have hoth : (s.setHafDie die { s.hafDie die with state := 5 }).hafDie o = s.hafDie o := State.hafDie_setHafDie_ne _ _ hne
    exact congrArg Host.Outcome.next ((if_pos ⟨h14, h1, he⟩).trans
      (step14_of_waiting ho (by rw [hoth]; exact hos) (by rw [hoth]; exact hoe)))

end Sys2Proof.Proofs.StartUp
end

section
/-! SUPPORT. Memory by lines: an address and the line it lies in, a field of bytes read. -/

namespace Sys2Proof.Proofs.Lines

open Sys2Proof.Machine Sys2Proof.Proofs.HomeLocations Sys2Proof.Proofs.MemoryAccess

theorem loc_of_line (s : State) (a : Nat) : s.loc a = (s.loc (a / 64 * 64)).map (· + a % 64) := by
  have h := loc_line s (a := a / 64 * 64) (i := a % 64) (by omega) (by omega)
  rwa [Nat.div_add_mod' a 64] at h

theorem mapped_line (s : State) (a : Nat) : s.mapped (a / 64 * 64) = s.mapped a := by
  simp [State.mapped, loc_of_line s a]

theorem poisoned_line (s : State) (a : Nat) : s.poisoned (a / 64 * 64) = s.poisoned a := by
  unfold State.poisoned
  rw [loc_of_line s a]
  cases h : s.loc (a / 64 * 64) with
  | none => rfl
  | some l =>
    have hl : l % 64 = 0 := by
      rw [loc_mod_line h]
      omega
    have hdiv : (l + a % 64) / 64 = l / 64 := by omega
    simp [hdiv]

theorem fieldB_bytes (s : State) {a m off n : Nat} (h : off + n ≤ m) : fieldB (s.bytes a m) off n = s.num (a + off) n := by
  unfold fieldB State.num
  congr 1
  refine List.ext_getElem (by simp [sliceB, State.bytes]) fun i h1 h2 => ?_
  simp only [sliceB, List.length_map, List.length_range] at h1
  simp [sliceB, State.bytes, show off + i < m by omega, Nat.add_assoc]

/-! ### Aligned words -/

variable {s : State} {a n : Nat}

/-- An aligned word lies in one line. -/
theorem aligned_same_line (hn : n ∣ 64) (ha : a % n = 0) {x : Nat} (hlo : a ≤ x) (hhi : x < a + n) : x / 64 = a / 64 := by
  obtain ⟨k, hk⟩ := hn
  have hmod : a % 64 % n = 0 := by rw [Nat.mod_mod_of_dvd _ ⟨k, hk⟩, ha]
  obtain ⟨j, hj⟩ := Nat.dvd_of_mod_eq_zero hmod
  have hjk : j < k := by
    by_contra hle
    have := Nat.mul_le_mul_left n (not_lt.mp hle)
    omega
  have hnext := Nat.mul_le_mul_left n (Nat.succ_le_of_lt hjk)
  rw [Nat.mul_succ] at hnext
  omega

/-- A whole aligned word whose address is mapped and not poisoned. -/
theorem clear_of_aligned (hn : n ∣ 64) (ha : a % n = 0) (hm : s.mapped a = true) (hp : s.poisoned a = false) : Clear s a n := by
  obtain ⟨l, hl, hp⟩ := clear_byte_of_line ((mapped_line s a).trans hm) ((poisoned_line s a).trans hp)
  intro x hlo hhi
  have hline := aligned_same_line hn ha hlo hhi
  rw [← Nat.sub_add_cancel hlo, Nat.add_comm]
  refine ⟨l + (x - a), loc_add hl (by omega), ?_⟩
  have hmod := loc_mod_line hl
  rwa [show (l + (x - a)) / 64 = l / 64 by omega]

/-! ### Whole lines -/

/-- Bytes stored, with nothing else changed but the poison marks. -/
def Wrote (s t : State) (a : Nat) (bs : List Byte) : Prop :=
  (∃ m p, t = { s with mem := m, poison := p }) ∧ ∀ x, t.byte x = byteAfter s a bs x

theorem Wrote.nil (s : State) (a : Nat) : Wrote s s a [] := ⟨⟨s.mem, s.poison, rfl⟩, (Stored.nil s a).2⟩

theorem Wrote.loc {t : State} {bs : List Byte} (h : Wrote s t a bs) : t.loc = s.loc := by
  obtain ⟨⟨m, p, rfl⟩, -⟩ := h
  rfl

theorem Wrote.append {t u : State} {b : Nat} {bs cs : List Byte} (h : Wrote s t a bs) (hb : b = a + bs.length)
    (h' : Wrote t u b cs) : Wrote s u a (bs ++ cs) := by
  subst hb
  obtain ⟨⟨m, p, rfl⟩, hb⟩ := h
  obtain ⟨⟨m', p', rfl⟩, hc⟩ := h'
  refine ⟨⟨m', p', rfl⟩, fun x => ?_⟩
  rw [hc, byteAfter, byteAfter, List.length_append, hb, byteAfter]
  by_cases hin : a + bs.length ≤ x ∧ x < a + bs.length + cs.length
  · rw [if_pos hin, if_pos ⟨by omega, by omega⟩, List.getD_append_right _ _ _ _ (by omega), Nat.sub_sub]
  · rw [if_neg hin]
    by_cases hx : a ≤ x ∧ x < a + bs.length
    · rw [if_pos hx, if_pos ⟨hx.1, by omega⟩, List.getD_append _ _ _ _ (by omega)]
    · rw [if_neg hx, if_neg (by omega)]

theorem Wrote.onlyBytes {t : State} {bs : List Byte} (h : Wrote s t a bs) : Claims.OnlyBytes s t a bs.length := fun x hx => by
  rw [h.2, byteAfter, if_neg (by omega)]

theorem Wrote.bytes_eq {t : State} {bs : List Byte} (h : Wrote s t a bs) : t.bytes a bs.length = bs := by
  refine List.ext_getElem (by simp [State.bytes]) fun i h1 h2 => ?_
  have hx := h.2 (a + i)
  rw [byteAfter, if_pos ⟨by omega, by omega⟩, Nat.add_sub_cancel_left, List.getD_eq_getElem _ _ h2] at hx
  simpa [State.bytes] using hx

/-- A whole line stored, whether its line was poisoned or not. -/
theorem wrote_line {bs : List Byte} (hm : s.mapped a = true) (ha : a % 64 = 0) (hlen : bs.length = 64) :
    Wrote s (s.writeLine a bs) a bs := by
  obtain ⟨l, hl⟩ := Option.isSome_iff_exists.mp hm
  have hl64 : l % 64 = 0 := by rw [loc_mod_line hl, ha]
  have hbyte := byte_memPut (bs := bs) hl (by omega)
  have hput (p : List Nat) : Wrote s { s with mem := memPut s.mem l bs, poison := p } a bs := ⟨⟨_, _, rfl⟩, hbyte⟩
  unfold State.writeLine
  simp only [hl]
  split
  · rw [if_pos ⟨hlen, hl64⟩]
    exact hput _
  · exact hput s.poison

end Sys2Proof.Proofs.Lines
end

section
/-! PROOF. Instructions that wait: counters, flags, fence, and the limit of a wait (R168, R170, R177). -/

namespace Sys2Proof.Proofs.Waits

open Sys2Proof.Machine Sys2Proof.Claims Sys2Proof.Proofs.Issue Sys2Proof.Proofs.Branches Sys2Proof.Proofs.SequencerFaults
open Sys2Proof.Proofs.Registers

/-! ### Operands in the spelling of the statements -/

theorem toSigned_toNat (v : Word) : toSigned 32 v.toNat = v.toInt := by
  rw [BitVec.toInt_eq_toNat_cond]
  simp [toSigned, Nat.mod_eq_of_lt v.isLt]

theorem sext64_toNat (v : Word) : sext64 v.toNat = (v.signExtend 64).toNat := by
  rw [sext64, toSigned_toNat, BitVec.signExtend, BitVec.toNat_ofInt]
  rfl

theorem bitAt_toNat (w : IWord) (i : Nat) : bitAt w.toNat i = w.getLsbD i := by
  rw [bitAt_eq_testBit, BitVec.testBit_toNat]

theorem syncAddrOk_iff (s : State) (a n : Nat) : s.syncAddrOk a n = true ↔ a % n = 0 ∧ s.atomicHome a = true := by
  simp [State.syncAddrOk]

/-! ### Flags -/

section
variable {s : State} {cd : Cd} {c a v : Nat}

theorem flagTry_holds (hline : s.lineHeld a = false) (hpoison : s.poisoned a = false)
    (hcond : flagCond c (s.num a 8) v = true) :
    flagTry s cd c a v = s.setDie cd { s.die cd with pc := (s.die cd).pc + 16, stall := .none } := by
  simp [flagTry, hline, hpoison, hcond, Die.advance]

theorem flagTry_waits (hpoison : s.poisoned a = false) (h : s.lineHeld a = true ∨ flagCond c (s.num a 8) v = false) :
    flagTry s cd c a v = s.setDie cd { s.die cd with stall := .flagWait c a v } := by
  rcases h with h | h <;> simp [flagTry, h, hpoison]

theorem flagTry_poisoned (hline : s.lineHeld a = false) (hpoison : s.poisoned a = true) :
    flagTry s cd c a v = s.setDie cd ((s.die cd).fail 8 (s.die cd).pc.toNat 5 2 0 0) := by
  simp [flagTry, hline, hpoison]

end

section
variable {s : State} {cd : Cd} {w : IWord}

theorem ready_fail {cls op : Nat} (h : Ready s cd w cls op) (code cls' op' unit status : Nat) :
    (s.die cd).fail code (s.die cd).pc.toNat cls' op' unit status = faulted (s.die cd) code cls' op' unit status :=
  fail_of_canIssue (canIssue_of_issues h.1) ..

theorem execFlagWait_ready (h : Ready s cd w 5 2) (ha : (aReg (s.die cd) (fld w.toNat 20 4)).toNat % 8 = 0)
    (hhome : s.atomicHome (aReg (s.die cd) (fld w.toNat 20 4)).toNat = true) :
    execFlagWait cd w s = .next (flagTry s cd (fld w.toNat 29 3) (aReg (s.die cd) (fld w.toNat 20 4)).toNat
      ((sReg (s.die cd) (fld w.toNat 24 5)).signExtend 64).toNat) := by
  rw [execFlagWait, issueAll_ready h, ← sext64_toNat]
  exact congrArg _ (if_pos ((syncAddrOk_iff ..).mpr ⟨ha, hhome⟩))

theorem execFlagWait_badAddress (h : Ready s cd w 5 2)
    (hbad : ¬((aReg (s.die cd) (fld w.toNat 20 4)).toNat % 8 = 0 ∧
      s.atomicHome (aReg (s.die cd) (fld w.toNat 20 4)).toNat = true)) :
    execFlagWait cd w s = .next (s.setDie cd (faulted (s.die cd) 8 5 2 0 0)) := by
  rw [execFlagWait, issueAll_ready h, ← ready_fail h]
  exact congrArg _ (if_neg (mt (syncAddrOk_iff ..).mp hbad))

theorem execFlagWait_faults (h : Ready s cd w 5 2)
    (hbad : ¬((aReg (s.die cd) (fld w.toNat 20 4)).toNat % 8 = 0 ∧
        s.atomicHome (aReg (s.die cd) (fld w.toNat 20 4)).toNat = true) ∨
      s.lineHeld (aReg (s.die cd) (fld w.toNat 20 4)).toNat = false ∧
        s.poisoned (aReg (s.die cd) (fld w.toNat 20 4)).toNat = true) :
    execFlagWait cd w s = .next (s.setDie cd (faulted (s.die cd) 8 5 2 0 0)) := by
  by_cases hok : (aReg (s.die cd) (fld w.toNat 20 4)).toNat % 8 = 0 ∧
      s.atomicHome (aReg (s.die cd) (fld w.toNat 20 4)).toNat = true
  · obtain hbad | ⟨hline, hpoison⟩ := hbad
    · exact absurd hok hbad
    · rw [execFlagWait_ready h hok.1 hok.2, flagTry_poisoned hline hpoison, ready_fail h]
  · exact execFlagWait_badAddress h hok

/-! ### Counters and fence -/

theorem execWaitCnt_ready (h : Ready s cd w 5 0) :
    let v := if w.getLsbD 31 then fld w.toNat 32 32 else (sReg (s.die cd) (fld w.toNat 21 5)).toNat
    execWaitCnt cd w s = .next (s.setDie cd
      (if v ≤ ((s.die cd).getC (fld w.toNat 16 4)).count.toNat then (s.die cd).advance
       else { s.die cd with stall := .waitCnt (fld w.toNat 16 4) v })) := by
  rw [execWaitCnt, issueDie_ready h, bitAt_toNat]
  rfl

theorem execFence_ready (h : Ready s cd w 5 5) : execFence cd w s =
    .next (s.setDie cd (if (s.die cd).ops.isEmpty then (s.die cd).advance else { s.die cd with stall := .fence })) := by
  rw [execFence, issueDie_ready h]

/-- A wait that is neither an access nor a request under way ends where the sequencer faults. -/
theorem fail_of_waitCnt {d : Die} {c x : Nat} (hmode : d.mode = .running) (hfault : d.fault = 0) (hstall : d.stall = .waitCnt c x)
    (code pc cls op unit status : Nat) : d.fail code pc cls op unit status =
      { d with fault := code, faultPc := BitVec.ofNat 48 pc, stall := .none, faultInfo := faultWord cls op unit status } := by
  have hend : d.endWait = { d with stall := .none } := by
    unfold Die.endWait
    rw [hstall]
  unfold Die.fail
  rw [if_pos ⟨.inl hmode, hfault⟩, hend]
  rfl

end

/-- Settles O7: each wait through the equation of its command. -/
theorem waitInstructions : Obligations.WaitInstructions := by
  unfold Obligations.WaitInstructions
  intro cd w s
  dsimp only
  refine ⟨fun h hle => ?goesOn, fun h hlt => ?stalls, fun c x hst hle => ?ends, fun h ha hhome hline hp hc => ?flagHolds,
    fun h ha hhome hp hc => ?flagWaits, fun h hbad => execFlagWait_faults h hbad, fun c x y hst hline hp hc => ?again,
    fun h hops => ?fenceOn, fun h hops => ?fenceWaits, fun c x hmode hfault hst hlim => ?limit⟩
  case goesOn => exact (execWaitCnt_ready h).trans (by rw [if_pos hle]; rfl)
  case stalls => exact (execWaitCnt_ready h).trans (by rw [if_neg (by omega)])
  case ends =>
    refine congrArg Host.Outcome.next ?_
    simp [stallEnd, hst, hle, Die.advance]
  case flagHolds => exact (execFlagWait_ready h ha hhome).trans (by rw [flagTry_holds hline hp hc])
  case flagWaits => exact (execFlagWait_ready h ha hhome).trans (by rw [flagTry_waits hp hc])
  case again =>
    refine congrArg Host.Outcome.next ?_
    simp only [flagRecheck, hst]
    exact flagTry_holds hline hp hc
  case fenceOn => exact (execFence_ready h).trans (by rw [hops]; rfl)
  case fenceWaits => exact (execFence_ready h).trans (by rw [if_neg (by simpa using hops)])
  case limit =>
    refine ⟨faultWord (iCls ((s.die cd).instrAt.getD 0)) (iOp ((s.die cd).instrAt.getD 0)) (s.die cd).stallUnit 0,
      congrArg Host.Outcome.next ?_⟩
    unfold waitLimit
    rw [if_neg (by simp [hlim, hmode])]
    simp only [hst, stallTimed, if_true, fail_of_waitCnt hmode hfault hst]

end Sys2Proof.Proofs.Waits
end

section
/-! PROOF. The life of a program: reserved codes, missed lines, and how a program ends (R149, R150, R176, R183–R185). -/

namespace Sys2Proof.Proofs.ProgramEnds

open Sys2Proof.Claims hiding holding
open Sys2Proof.Machine Sys2Proof.Proofs.Branches Sys2Proof.Proofs.SequencerFaults
open Sys2Proof.Proofs.ByteFields Sys2Proof.Proofs.Lines

variable {s : State} {cd : Cd}

/-! ### Instruction lines -/

/-- A line that joins a cache which misses is the one that the next instruction is read from. -/
theorem instrAt_of_filled {d : Die} (hmiss : d.instrAt = none) (n : Nat) (line : List Byte) :
    ({ d with icache := d.icache.drop n ++ [(d.pc.toNat / 64, line)] } : Die).instrAt =
      some (fieldB line (d.pc.toNat % 64) 16) := by
  have hnone : d.icache.find? (fun l => l.1 == d.pc.toNat / 64) = none := by simpa [Die.instrAt] using hmiss
  have hdrop : (d.icache.drop n).find? (fun l => l.1 == d.pc.toNat / 64) = none :=
    List.find?_eq_none.mpr fun x hx => List.find?_eq_none.mp hnone x (List.mem_of_mem_drop hx)
  simp [Die.instrAt, List.find?_append, hdrop]

/-- A sequencer that misses its line. -/
def Misses (d : Die) : Prop := d.mode = .running ∧ d.fault = 0 ∧ d.stall = .none ∧ d.instrAt = none

theorem icacheFill_arrives (h : Misses (s.die cd)) (hm : s.mapped ((s.die cd).pc.toNat / 64 * 64) = true)
    (hp : s.poisoned ((s.die cd).pc.toNat / 64 * 64) = false) :
    icacheFill cd s = s.setDie cd { s.die cd with
      icache := (s.die cd).icache.drop ((s.die cd).icache.length - 1023) ++
        [((s.die cd).pc.toNat / 64, s.bytes ((s.die cd).pc.toNat / 64 * 64) 64)] } := by
  obtain ⟨hmode, hfault, hstall, hmiss⟩ := h
  unfold icacheFill
  simp [hmode, hfault, hstall, hmiss, hm, hp]

theorem icacheFill_unmapped (h : Misses (s.die cd)) (hm : s.mapped ((s.die cd).pc.toNat / 64 * 64) = false) :
    icacheFill cd s = s.setDie cd (faulted (s.die cd) 2 0 0 0 0) := by
  obtain ⟨hmode, hfault, hstall, hmiss⟩ := h
  have hfail : (s.die cd).fail 2 (s.die cd).pc.toNat 0 0 0 0 = faulted (s.die cd) 2 0 0 0 0 := by
    unfold Die.fail
    rw [if_pos ⟨.inl hmode, hfault⟩, endWait_of_not_stalled hstall, faulted, ← hstall]
    rfl
  unfold icacheFill
  simp [hmode, hfault, hstall, hmiss, hm, hfail]

theorem icacheFill_facts (h : Misses (s.die cd)) (ha : (s.die cd).pc.toNat % 16 = 0)
    (hm : s.mapped (s.die cd).pc.toNat = true) (hp : s.poisoned (s.die cd).pc.toNat = false) :
    ∃ t, Gives (.icacheFill cd) s t ∧ (t.die cd).instrAt = some (s.num (s.die cd).pc.toNat 16) ∧
      (t.die cd).pc = (s.die cd).pc ∧ t.mem = s.mem ∧ ∀ c : Cd, c ≠ cd → t.die c = s.die c := by
  refine ⟨_, congrArg Host.Outcome.next (icacheFill_arrives h ((mapped_line ..).trans hm) ((poisoned_line ..).trans hp)),
    ?_, ?_, rfl, fun c hc => State.die_setDie_ne s _ hc⟩
  · rw [State.die_setDie_self, instrAt_of_filled h.2.2.2, fieldB_bytes s (by omega), Nat.div_add_mod']
  · rw [State.die_setDie_self]

/-! ### Ends of a program -/

/-- A die replaced, the host's side changed and the die replaced again. -/
theorem updDie_withHost (d : Die) (h : HostSt) (f : Die → Die) :
    State.updDie { s.setDie cd d with host := h } cd f = ({ s with host := h } : State).setDie cd (f d) := by
  have hd : State.die { s.setDie cd d with host := h } cd = d := State.die_setDie_self s cd d
  rw [State.updDie, hd]
  exact State.setDie_setDie { s with host := h } cd d (f d)

theorem endStart_setDie {d : Die} {c : Cmd} (h : d.startCmd = some c) (status e f a : Nat) :
    (s.setDie cd d).endStart cd status e f a = ({ s with
      host := holding (without s.host c) (completion (1 + cd.val) c status (e + 256 * f) a) } : State).setDie cd
        { d with startCmd := none } := by
  unfold State.endStart
  rw [State.die_setDie_self, h]
  dsimp only
  rw [complete_eq]
  exact updDie_withHost ..

theorem endStop_setDie {d : Die} {c : Cmd} (h : d.stopCmds = [c]) :
    (s.setDie cd d).endStop cd = ({ s with
      host := holding (without s.host c) (completion (1 + cd.val) c 0 d.dropped 0) } : State).setDie cd
        { d with stopCmds := [] } := by
  unfold State.endStop
  rw [State.die_setDie_self, h, List.foldl_cons, List.foldl_nil, complete_eq]
  exact updDie_withHost ..

/-- The event of a sequencer's state (Table 10-12). -/
def seqEntry (s : State) (cd : Cd) (st code pc : Nat) : Entry :=
  ⟨1 + cd.val, none, true, eventBytes 2 (1 + cd.val) s.time [(16, 1, cd.val), (17, 1, st), (18, 1, code), (24, 8, pc)], false, 0,
    none⟩

theorem isEvent_seqEntry (s : State) (cd : Cd) (st code pc : Nat) :
    IsEvent (seqEntry s cd st code pc) 2 (1 + cd.val) s.time :=
  isEvent_eventBytes (by simp [PayloadFits, Apart]) ..

theorem seqEvent_setDie (d : Die) (st code pc : Nat) : (s.setDie cd d).seqEvent cd st code pc =
    ({ s with
      out := .maltster 2 (seqEntry s cd st code pc).bytes :: s.out
      host := holding s.host (seqEntry s cd st code pc) } : State).setDie cd d :=
  eventBoth_eq _ _ _ _

@[simp] theorem holding_resetting (h : HostSt) (e : Entry) : (holding h e).resetting = h.resetting := by
  unfold holding
  split <;> rfl

@[simp] theorem without_resetting (h : HostSt) (c : Cmd) : (without h c).resetting = h.resetting := rfl

@[simp] theorem without_heldQ (h : HostSt) (c : Cmd) : (without h c).heldQ = h.heldQ := rfl

theorem halts {pc : Nat} {c : Cmd} (hmode : (s.die cd).mode = .running) (hfault : (s.die cd).fault = 0)
    (hops : (s.die cd).ops = []) (hstall : (s.die cd).stall = .halt pc) (hstart : (s.die cd).startCmd = some c) :
    haltComplete cd s = ({ s with host := holding (without s.host c) (completion (1 + cd.val) c 0 0 pc) } : State).setDie cd
        { s.die cd with mode := .idle, stall := .none, startCmd := none } := by
  have hgo : ((s.die cd).mode == .running && (s.die cd).fault == 0 && (s.die cd).ops.isEmpty) = true := by
    simp [hmode, hfault, hops]
  unfold haltComplete
  simp only [hstall]
  rw [if_pos hgo]
  exact endStart_setDie (s := s) (d := { s.die cd with mode := .idle, stall := .none }) hstart 0 0 0 pc

theorem settles {c : Cmd} (hmode : (s.die cd).mode = .running) (hfault : (s.die cd).fault ≠ 0) (hops : (s.die cd).ops = [])
    (hstall : (s.die cd).stall = .none) (hstart : (s.die cd).startCmd = some c) :
    let v := seqEntry s cd 3 (s.die cd).fault (s.die cd).faultPc.toNat
    faultSettle cd s = ({ s with
      out := .maltster 2 v.bytes :: s.out
      host := holding (without (holding s.host v) c)
        (completion (1 + cd.val) c 0 (1 + 256 * (s.die cd).fault) (s.die cd).faultPc.toNat) } : State).setDie cd
        { s.die cd with mode := .faulted, startCmd := none } := by
  have hgo : ((s.die cd).mode == .running && (s.die cd).fault != 0 && (s.die cd).ops.isEmpty && (s.die cd).stall == .none) =
      true := by simp [hmode, hfault, hops, hstall]
  unfold faultSettle
  dsimp only
  rw [if_pos hgo, seqEvent_setDie]
  exact endStart_setDie (d := { s.die cd with mode := .faulted }) hstart ..

theorem stopEnds {d : Die} (hmode : d.mode = .stopping) (hops : d.ops = []) (hstall : d.stall = .none) :
    (d.mode == .stopping && d.ops.isEmpty && d.stall == .none) = true := by
  simp [hmode, hops, hstall]

theorem stops {c c' : Cmd} (hmode : (s.die cd).mode = .stopping) (hfault : (s.die cd).fault = 0) (hops : (s.die cd).ops = [])
    (hstall : (s.die cd).stall = .none) (hstart : (s.die cd).startCmd = some c) (hstop : (s.die cd).stopCmds = [c']) :
    stopComplete cd s = ({ s with
      host := holding (without (holding (without s.host c) (completion (1 + cd.val) c 0 2 0)) c')
        (completion (1 + cd.val) c' 0 (s.die cd).dropped 0) } : State).setDie cd
        { s.die cd with mode := .idle, startCmd := none, stopCmds := [] } := by
  unfold stopComplete
  dsimp only
  rw [if_pos (stopEnds hmode hops hstall), if_pos hfault, endStart_setDie (d := { s.die cd with mode := .idle }) hstart]
  exact endStop_setDie (d := { s.die cd with mode := .idle, startCmd := none }) hstop

theorem stops_faulted {c c' : Cmd} (hmode : (s.die cd).mode = .stopping) (hfault : (s.die cd).fault ≠ 0)
    (hops : (s.die cd).ops = []) (hstall : (s.die cd).stall = .none) (hstart : (s.die cd).startCmd = some c)
    (hstop : (s.die cd).stopCmds = [c']) :
    let v := seqEntry s cd 3 (s.die cd).fault (s.die cd).faultPc.toNat
    stopComplete cd s = ({ s with
      out := .maltster 2 v.bytes :: s.out
      host := holding (without (holding (without (holding s.host v) c)
          (completion (1 + cd.val) c 0 (1 + 256 * (s.die cd).fault) (s.die cd).faultPc.toNat)) c')
        (completion (1 + cd.val) c' 0 (s.die cd).dropped 0) } : State).setDie cd
        { s.die cd with mode := .faulted, startCmd := none, stopCmds := [] } := by
  unfold stopComplete
  dsimp only
  rw [if_pos (stopEnds hmode hops hstall), if_neg hfault, seqEvent_setDie, endStart_setDie (d := { s.die cd with mode := .faulted }) hstart]
  exact endStop_setDie (d := { s.die cd with mode := .faulted, startCmd := none }) hstop

/-- Settles O6: each end of a program through the state that its command leaves. -/
theorem programLife : Obligations.ProgramLife := by
  intro cd s
  refine ⟨fun w h hr => execReservedCodeInstruction_reserved h hr,
    fun hmode hfault hstall hmiss => icacheFill_facts ⟨hmode, hfault, hstall, hmiss⟩,
    fun hmode hfault hstall hmiss hm => congrArg Host.Outcome.next (icacheFill_unmapped ⟨hmode, hfault, hstall, hmiss⟩ hm),
    fun pc c hmode hfault hops hstall hstart hr => ?halt, fun c hmode hfault hops hstall hstart hr => ?settle,
    fun c c' hmode hops hstall hstart hstop hr => ⟨fun hfault => ?stop, fun hfault => ?stopFaulted⟩⟩
  case halt =>
    exact ⟨_, _, congrArg Host.Outcome.next (halts hmode hfault hops hstall hstart), State.die_setDie_self ..,
      holding_heldQ (h := without s.host c) hr _, isCompletion_completion .., rfl, rfl⟩
  case settle =>
    refine ⟨_, _, _, congrArg Host.Outcome.next (settles hmode hfault hops hstall hstart), State.die_setDie_self .., ?_,
      isEvent_seqEntry .., rfl, isCompletion_completion .., rfl⟩
    exact (holding_heldQ (by simpa using hr) _).trans (by simp [holding_heldQ hr])
  case stop =>
    refine ⟨_, _, _, congrArg Host.Outcome.next (stops hmode hfault hops hstall hstart hstop), State.die_setDie_self .., ?_,
      isCompletion_completion .., isCompletion_completion .., rfl⟩
    exact (holding_heldQ (by simpa using hr) _).trans (by simp [holding_heldQ (h := without s.host c) hr])
  case stopFaulted =>
    refine ⟨_, seqEntry s cd 3 (s.die cd).fault (s.die cd).faultPc.toNat, completion (1 + cd.val) c 0 _ _,
      completion (1 + cd.val) c' 0 _ _, congrArg Host.Outcome.next (stops_faulted hmode hfault hops hstall hstart hstop),
      State.die_setDie_self .., ?_, isEvent_seqEntry .., isCompletion_completion .., isCompletion_completion .., rfl⟩
    refine (holding_heldQ (by simpa using hr) _).trans ?_
    rw [without_heldQ, holding_heldQ (by simpa using hr), without_heldQ, holding_heldQ hr, List.append_assoc, List.append_assoc]
    rfl

end Sys2Proof.Proofs.ProgramEnds
end

section
/-! SUPPORT. The scoreboard across dies: what arriving at tiles and leaving them changes (R91, R92, R206). -/

namespace Sys2Proof.Proofs.TileEntries

open Sys2Proof.Machine

/-! ### Leaving -/

@[simp] theorem die_sbDrop (s : State) (who : Nat) (cd : Cd) :
    (s.sbDrop who).die cd = { s.die cd with sb := sbRelease (s.die cd).sb who } := by
  simp [State.sbDrop, State.die]

/-! ### Arriving -/

/-- A state that differs in the scoreboards alone. -/
def SameButTiles (s t : State) : Prop :=
  (∃ dies, t = { s with dies := dies }) ∧ ∀ c : Cd, ∃ sb, t.die c = { s.die c with sb := sb }

theorem SameButTiles.refl (s : State) : SameButTiles s s := ⟨⟨s.dies, rfl⟩, fun c => ⟨(s.die c).sb, rfl⟩⟩

theorem SameButTiles.trans {s t u : State} (h : SameButTiles s t) (h' : SameButTiles t u) : SameButTiles s u := by
  obtain ⟨⟨ds, rfl⟩, hs⟩ := h
  obtain ⟨⟨dt, rfl⟩, ht⟩ := h'
  refine ⟨⟨dt, rfl⟩, fun c => ?_⟩
  obtain ⟨sb, hsb⟩ := hs c
  obtain ⟨sb', hsb'⟩ := ht c
  exact ⟨sb', hsb'.trans (by rw [hsb])⟩

theorem sameButTiles_updDie (s : State) (cd : Cd) (f : List SbEnt → List SbEnt) :
    SameButTiles s (s.updDie cd (fun d => { d with sb := f d.sb })) := by
  refine ⟨⟨_, rfl⟩, fun c => ?_⟩
  by_cases hc : c = cd
  · subst hc
    exact ⟨_, State.die_setDie_self ..⟩
  · exact ⟨_, State.die_setDie_ne s _ hc⟩

theorem sameButTiles_foldl {α : Type} (l : List α) (f : State → α → State) (hf : ∀ s x, SameButTiles s (f s x)) (s : State) :
    SameButTiles s (l.foldl f s) := by
  induction l generalizing s with
  | nil => exact .refl s
  | cons x l ih => exact (hf s x).trans (ih _)

theorem sameButTiles_ite {s t u : State} {c : Prop} [Decidable c] (ht : SameButTiles s t) (hu : SameButTiles s u) :
    SameButTiles s (if c then t else u) := by
  split
  · exact ht
  · exact hu

theorem sameButTiles_sbMove (s : State) (who : Nat) (src dst : List (Nat × Nat)) : SameButTiles s (s.sbMove who src dst) := by
  refine .trans (sameButTiles_foldl dst _ (fun s x => ?_) s) (sameButTiles_foldl src _ (fun s x => ?_) _)
  · exact sameButTiles_updDie s _ (fun sb => sbArrive sb x.2 who .writer)
  · exact sameButTiles_ite (.refl s) (sameButTiles_updDie s _ (fun sb => sbArrive sb x.2 who .reader))

theorem sameButTiles_sbEnter (s : State) (who : Nat) (src dst : List (Nat × Nat)) : SameButTiles s (s.sbEnter who src dst) :=
  sameButTiles_ite (.refl s) (sameButTiles_sbMove ..)

theorem sbMove_nil (s : State) (who : Nat) : s.sbMove who [] [] = s := rfl

/-! ### Being at an entry -/

/-- An operation is at an entry of a die. -/
def AtEntry (s : State) (who : Nat) (c : Cd) : Prop := (s.die c).sb.any (fun e => e.who == who) = true

theorem sbHas_of_atEntry {s : State} {who : Nat} {c : Cd} (h : AtEntry s who c) : s.sbHas who = true := by
  refine List.any_eq_true.mpr ⟨c.val, List.mem_range.mpr c.isLt, ?_⟩
  have hc : cdOf c.val = c := Fin.ext (Nat.mod_eq_of_lt c.isLt)
  rwa [hc]

theorem atEntry_arrive (s : State) (cd : Cd) (tile who : Nat) (cls : SbClass) :
    AtEntry (s.updDie cd (fun d => { d with sb := sbArrive d.sb tile who cls })) who cd := by
  simp [AtEntry, State.updDie, sbArrive]

theorem atEntry_updDie {s : State} {who : Nat} {c : Cd} (h : AtEntry s who c) (cd : Cd) (tile who' : Nat) (cls : SbClass) :
    AtEntry (s.updDie cd (fun d => { d with sb := sbArrive d.sb tile who' cls })) who c := by
  unfold AtEntry at h ⊢
  by_cases hc : c = cd
  · subst hc
    simp [State.updDie, sbArrive, h]
  · rwa [State.updDie, State.die_setDie_ne s _ hc]

theorem atEntry_foldl {α : Type} {who : Nat} {c : Cd} (f : State → α → State) (hf : ∀ s x, AtEntry s who c → AtEntry (f s x) who c)
    (l : List α) {s : State} (h : AtEntry s who c) : AtEntry (l.foldl f s) who c := by
  induction l generalizing s with
  | nil => exact h
  | cons x l ih => exact ih (hf s x h)

theorem sbHas_sbMove_dst (s : State) (who : Nat) (src : List (Nat × Nat)) (x : Nat × Nat) (dst : List (Nat × Nat)) :
    (s.sbMove who src (x :: dst)).sbHas who = true := by
  refine sbHas_of_atEntry (c := cdOf x.1) (atEntry_foldl _ (fun s y h => ?_) src ?_)
  · split
    · exact h
    · exact atEntry_updDie h ..
  · exact atEntry_foldl _ (fun s y h => atEntry_updDie h ..) dst (atEntry_arrive ..)

theorem sbHas_sbMove_src (s : State) (who : Nat) (x : Nat × Nat) (src : List (Nat × Nat)) :
    (s.sbMove who (x :: src) []).sbHas who = true := by
  refine sbHas_of_atEntry (c := cdOf x.1) (atEntry_foldl _ (fun s y h => ?_) src (atEntry_arrive ..))
  exact atEntry_updDie h ..

end Sys2Proof.Proofs.TileEntries
end

section
/-! PROOF. Scalar loads and stores: the stall, the completion and the faults (R153, R342, R343). -/

namespace Sys2Proof.Proofs.ScalarAccesses

open Sys2Proof.Machine Sys2Proof.Claims Sys2Proof.Proofs.Issue Sys2Proof.Proofs.ScalarResults Sys2Proof.Proofs.TileEntries
open Sys2Proof.Proofs.Lines Sys2Proof.Proofs.MemoryAccess Sys2Proof.Proofs.SequencerFaults

/-! ### The access starts -/

/-- The state in which issue stalls on the access. -/
abbrev accessStalled (s : State) (cd : Cd) (op rd a : Nat) (h : Option Nat) : State :=
  s.setDie cd { s.die cd with stall := .access op rd a h }

/-- What an access does to the host's side: a load of a host window raises a read where the host takes requests. -/
def askHostWord (s : State) (op : Nat) (h : Option Nat) : State :=
  match h with
  | some b => if accessLoads op && s.hostOpen then s.emit (.hostRead 2 b (accessWidth op)) else s
  | none => s

/-- An access of tiles arrives there as a reader where it loads and as a writer where it stores. -/
def accessEnters (s : State) (cd : Cd) (op : Nat) (ts : List (Nat × Nat)) : State :=
  if ts = [] then s
  else s.sbMove (whoAccess cd.val) (if accessLoads op then ts else []) (if accessLoads op then [] else ts)

section
variable {s : State} {cd : Cd} {w : IWord} {op a : Nat}

theorem accessOp_ready (h : Ready s cd w 0 op) (ha : (s.die cd).accessAddr w.toNat = a) :
    accessOp cd w op s =
      askHostWord (accessEnters (accessStalled s cd op (iRd w.toNat) a (if s.mapped a then none else s.hostAddr a)) cd op
        (tileOf a).toList) op (if s.mapped a then none else s.hostAddr a) := by
  subst ha
  rw [accessOp, issueAll_ready h]
  rfl

theorem accessOp_mapped (h : Ready s cd w 0 op) (ha : (s.die cd).accessAddr w.toNat = a) (hm : s.mapped a = true) :
    accessOp cd w op s = accessEnters (accessStalled s cd op (iRd w.toNat) a none) cd op (tileOf a).toList := by
  rw [accessOp_ready h ha, hm]
  rfl

theorem accessOp_unmapped (h : Ready s cd w 0 op) (ha : (s.die cd).accessAddr w.toNat = a) (hm : s.mapped a = false)
    (ht : tileOf a = none) : accessOp cd w op s =
      askHostWord (accessStalled s cd op (iRd w.toNat) a (s.hostAddr a)) op (s.hostAddr a) := by
  rw [accessOp_ready h ha, hm, ht]
  rfl

theorem accessEnters_facts (u : State) (x : Nat × Nat) :
    SameButTiles u (accessEnters u cd op [x]) ∧ (accessEnters u cd op [x]).sbHas (whoAccess cd.val) = true := by
  unfold accessEnters
  rw [if_neg (by simp)]
  refine ⟨sameButTiles_sbMove .., ?_⟩
  cases accessLoads op
  · exact sbHas_sbMove_dst ..
  · exact sbHas_sbMove_src ..

/-- The window of the host lies beside those of the dies. -/
theorem tileOf_of_hostAddr {x : Nat} (h : s.hostAddr a = some x) : tileOf a = none := by
  have hin : 0x0F0000000000 ≤ a := by
    by_contra hlt
    have hnone : s.hostAddr a = none := if_neg (by omega)
    rw [hnone] at h
    exact absurd h (by simp)
  have hwin : winDie a = none := if_neg (by omega)
  rw [tileOf, hwin]

theorem accessLoads_iff (op : Nat) : accessLoads op = true ↔ op = 0x22 ∨ op = 0x24 := by simp [accessLoads]

theorem accessLoads_rows {r : (Cd → IWord → Instr) × Nat}
    (hr : r ∈ [(Instr.ald, 0x22), (.ast, 0x23), (.ld, 0x24), (.st, 0x25)]) (cd : Cd) (w : IWord) (s : State) :
    exec (r.1 cd w) s = .next (accessOp cd w r.2 s) ∧ ((r.2 = 0x22 ∨ r.2 = 0x24) → accessWidth r.2 = if r.2 = 0x22 then 8 else 4) := by
  simp only [List.mem_cons, List.not_mem_nil, or_false] at hr
  rcases hr with rfl | rfl | rfl | rfl <;> exact ⟨rfl, by decide⟩

end

theorem scalarAccessStalls : ScalarAccessStalls := by
  intro cd w s r hr h a stalled
  obtain ⟨hexec, hwidth⟩ := accessLoads_rows hr cd w s
  have ha : (s.die cd).accessAddr w.toNat = a := by
    rw [Die.accessAddr, sext48_fld]
  refine ⟨fun hm ht => ?_, fun hm ht => ?_, fun hm hh ht => ?_, fun b hm hh => ?_⟩
  · rw [Gives, hexec, accessOp_mapped h ha hm, ht]
    rfl
  · obtain ⟨x, hx⟩ := Option.ne_none_iff_exists'.mp ht
    obtain ⟨⟨⟨dies, hsame⟩, hdie⟩, hhas⟩ :=
      accessEnters_facts (cd := cd) (op := r.2) (accessStalled s cd r.2 (iRd w.toNat) a none) x
    obtain ⟨sb, hcd⟩ := hdie cd
    rw [State.die_setDie_self] at hcd
    refine ⟨_, hexec.trans (by rw [accessOp_mapped h ha hm, hx]; rfl), ?_, ?_, hhas, ?_, ?_⟩
    · rw [hcd]
    · rw [hcd]
    · rw [hsame]; rfl
    · rw [hsame]; rfl
  · rw [Gives, hexec, accessOp_unmapped h ha hm ht, hh]
    rfl
  · rw [Gives, hexec, accessOp_unmapped h ha hm (tileOf_of_hostAddr hh), hh]
    by_cases hload : (r.2 = 0x22 ∨ r.2 = 0x24) ∧ s.hostOpen = true
    · obtain ⟨hop, hopen⟩ := hload
      have hgo : (accessLoads r.2 && (accessStalled s cd r.2 (iRd w.toNat) a (some b)).hostOpen) = true :=
        Bool.and_eq_true_iff.mpr ⟨(accessLoads_iff _).mpr hop, hopen⟩
      rw [if_pos ⟨hop, hopen⟩, ← hwidth hop, askHostWord, if_pos hgo]
    · have hgo : ¬(accessLoads r.2 && (accessStalled s cd r.2 (iRd w.toNat) a (some b)).hostOpen) = true := by
        rwa [Bool.and_eq_true_iff, accessLoads_iff]
      rw [if_neg hload, askHostWord, if_neg hgo]

/-! ### The access completes -/

section
variable {s : State} {cd : Cd} {op rd a n : Nat} {h : Option Nat} {host : HostData}

theorem hRead_of_mapped (hm : s.mapped a = true) (hn : n ∣ 64) (ha : a % n = 0) : s.hRead host a n = s.bytes a n := by
  refine List.map_congr_left fun i hi => ?_
  have hi := List.mem_range.mp hi
  have hline := aligned_same_line hn ha (x := a + i) (by omega) (by omega)
  have hmap : s.mapped (a + i) = true := by rw [← mapped_line, hline, mapped_line, hm]
  rw [State.hByte, if_pos hmap]

/-- What the access does not fail for: it is aligned, and where its address is mapped the line is not poisoned. -/
theorem of_accessFails_eq_false (hok : s.accessFails a n h = false) :
    a % n = 0 ∧ (s.mapped a = true → s.poisoned a = false) := by
  simp only [State.accessFails, Bool.or_eq_false_iff, decide_eq_false_iff_not, not_not] at hok
  obtain ⟨halign, hrest⟩ := hok
  refine ⟨halign, fun hm => ?_⟩
  rw [if_pos hm, Bool.or_eq_false_iff] at hrest
  exact hrest.1

/-- A whole aligned word that may be accessed lies in one line that is mapped and not poisoned. -/
theorem clear_of_access (hn : n ∣ 64) (hok : s.accessFails a n h = false) (hm : s.mapped a = true) : Clear s a n := by
  obtain ⟨halign, hpoison⟩ := of_accessFails_eq_false hok
  exact clear_of_aligned hn halign hm (hpoison hm)

theorem accessFails_sbDrop (who : Nat) : (s.sbDrop who).accessFails a n h = s.accessFails a n h := by
  have hf (i : Nat) : (s.sbDrop who).fenced i = s.fenced i := by simp [State.fenced]
  simp only [State.accessFails, hf]
  rfl

/-- The die goes on. -/
abbrev goesOn (s : State) (cd : Cd) (d : Die) : State :=
  (s.sbDrop (whoAccess cd.val)).setDie cd { d with pc := d.pc + 16, stall := .none }

/-- A stored word goes to the host where the access started at a host bus address. -/
def sendHostWord (s : State) (h : Option Nat) (bs : List Byte) : State :=
  match h with
  | some b => s.emit (.hostWrite b bs)
  | none => s

theorem scalarAccess_waits (hst : (s.die cd).stall = .access op rd a h) (hw : ¬AccessFree s cd a) :
    scalarAccess cd host s = s := by
  have hgo : (s.lineHeld a || !s.sbHeld (whoAccess cd.val)) = true := by
    rw [AccessFree, not_and_or] at hw
    simpa using hw
  unfold scalarAccess
  simp only [hst]
  rw [if_pos hgo]

/-- An access that is free ends by one of four ways: it faults, loads, stores to memory or stores to the host. -/
theorem scalarAccess_free (hst : (s.die cd).stall = .access op rd a h) (hfree : AccessFree s cd a) :
    let u := s.sbDrop (whoAccess cd.val)
    let d := u.die cd
    scalarAccess cd host s =
      if s.accessFails a (accessWidth op) h || (accessLoads op && !s.hOk host a (accessWidth op)) then
        u.setDie cd ({ d with stall := .none }.fail 8 d.pc.toNat 0 op 0 0)
      else if accessLoads op then
        goesOn s cd (d.loadBytes op rd (s.hRead host a (accessWidth op)))
      else if s.mapped a then (goesOn s cd d).write a (d.storeBytes op rd)
      else sendHostWord (goesOn s cd d) h (d.storeBytes op rd) := by
  have hgo : ¬(s.lineHeld a || !s.sbHeld (whoAccess cd.val)) = true := by simp [hfree.1, hfree.2]
  intro u d
  unfold scalarAccess
  simp only [hst]
  rw [if_neg hgo]
  have hok : u.hOk host a (accessWidth op) = s.hOk host a (accessWidth op) := rfl
  have hread : u.hRead host a (accessWidth op) = s.hRead host a (accessWidth op) := rfl
  simp only [accessFails_sbDrop]
  rw [hok, hread]
  cases h <;> rfl

theorem scalarAccess_loads (hst : (s.die cd).stall = .access op rd a h) (hfree : AccessFree s cd a)
    (hload : accessLoads op = true) (hok : s.accessFails a (accessWidth op) h = false)
    (hhost : s.hOk host a (accessWidth op) = true) : scalarAccess cd host s =
      goesOn s cd (((s.sbDrop (whoAccess cd.val)).die cd).loadBytes op rd (s.hRead host a (accessWidth op))) := by
  rw [scalarAccess_free hst hfree, if_neg (by simp [hok, hhost]), if_pos hload]

theorem scalarAccess_stores (hst : (s.die cd).stall = .access op rd a h) (hfree : AccessFree s cd a)
    (hstore : accessLoads op = false) (hok : s.accessFails a (accessWidth op) h = false) (hm : s.mapped a = true) :
    let d := (s.sbDrop (whoAccess cd.val)).die cd
    scalarAccess cd host s = (goesOn s cd d).write a (d.storeBytes op rd) := by
  rw [scalarAccess_free hst hfree, if_neg (by simp [hok, hstore]), if_neg (by simp [hstore]), if_pos hm]

theorem scalarAccess_stores_host {b : Nat} (hst : (s.die cd).stall = .access op rd a (some b)) (hfree : AccessFree s cd a)
    (hstore : accessLoads op = false) (hok : s.accessFails a (accessWidth op) (some b) = false) (hm : s.mapped a = false) :
    let d := (s.sbDrop (whoAccess cd.val)).die cd
    scalarAccess cd host s = (goesOn s cd d).emit (.hostWrite b (d.storeBytes op rd)) := by
  rw [scalarAccess_free hst hfree, if_neg (by simp [hok, hstore]), if_neg (by simp [hstore]), if_neg (by simp [hm])]
  rfl

/-- The number a load reads: of memory, or as the host returned it. -/
theorem leNat_hRead (hn : n ∣ 64) (ha : a % n = 0) :
    leNat (s.hRead host a n) = if s.mapped a then s.num a n else s.hNum host a n := by
  split
  next hm => rw [hRead_of_mapped hm hn ha, State.num]
  next => rfl

/-- A word stored to memory: what its access leaves. -/
theorem stores_facts {v : Nat} (hn : n ∣ 64) (hok : s.accessFails a n h = false) (hm : s.mapped a = true)
    (hv : v < 256 ^ n) (d : Die) :
    let t := (goesOn s cd d).write a (natLE n v)
    t.dies = (goesOn s cd d).dies ∧ t.poison = s.poison ∧ t.regs = s.regs ∧ t.num a n = v ∧
      ∀ x, (x < a ∨ a + n ≤ x) → t.byte x = s.byte x := by
  have hclear : Clear (goesOn s cd d) a (natLE n v).length := by
    rw [length_natLE]
    exact (clear_of_access hn hok hm).congr rfl rfl
  have hstored := stored_write hclear
  refine ⟨?_, hstored.poison, ?_, hstored.num_eq.trans (Nat.mod_eq_of_lt hv), fun x hx => ?_⟩
  · obtain ⟨⟨m, hs⟩, -⟩ := hstored
    rw [hs]
  · obtain ⟨⟨m, hs⟩, -⟩ := hstored
    rw [hs]
    rfl
  · exact hstored.byte_outside (by rwa [length_natLE])

end

theorem scalarAccessResult : ScalarAccessResult := by
  intro cd s rd a h got hostOk host u go word
  refine ⟨fun op hst hw => congrArg Host.Outcome.next (scalarAccess_waits hst hw), fun hfree => ⟨fun hst hok hhost => ?ld,
    fun hst hok hhost => ?ald, fun hst hok hm => ?st, fun hst hok hm => ?ast, fun b hb hm => ?host⟩⟩
  case ld =>
    refine congrArg Host.Outcome.next ((scalarAccess_loads hst hfree rfl hok hhost).trans ?_)
    have hword := leNat_hRead (s := s) (host := host) (by decide) (of_accessFails_eq_false hok).1
    exact congrArg (fun v => go ((u.die cd).setS rd (BitVec.ofNat 32 v))) hword
  case ald =>
    refine congrArg Host.Outcome.next ((scalarAccess_loads hst hfree rfl hok hhost).trans ?_)
    have hword := leNat_hRead (s := s) (host := host) (by decide) (of_accessFails_eq_false hok).1
    exact congrArg (fun v => go ((u.die cd).setA rd (BitVec.ofNat 48 v))) hword
  case st =>
    have hgetS : (u.die cd).getS rd = (s.die cd).getS rd := by rw [die_sbDrop]; rfl
    refine ⟨_, congrArg Host.Outcome.next (scalarAccess_stores hst hfree rfl hok hm), ?_⟩
    rw [← hgetS]
    exact stores_facts (by decide) hok hm (BitVec.isLt _) _
  case ast =>
    have hgetA : (u.die cd).getA rd = (s.die cd).getA rd := by rw [die_sbDrop]; rfl
    refine ⟨_, congrArg Host.Outcome.next (scalarAccess_stores hst hfree rfl hok hm), ?_⟩
    rw [← hgetA]
    exact stores_facts (by decide) hok hm ((BitVec.isLt _).trans (by decide)) _
  case host =>
    subst hb
    refine ⟨fun hst hok => congrArg Host.Outcome.next ((scalarAccess_stores_host hst hfree rfl hok hm).trans ?_),
      fun hst hok => congrArg Host.Outcome.next ((scalarAccess_stores_host hst hfree rfl hok hm).trans ?_)⟩
    · have hgetS : (u.die cd).getS rd = (s.die cd).getS rd := by rw [die_sbDrop]; rfl
      rw [← hgetS]
      rfl
    · have hgetA : (u.die cd).getA rd = (s.die cd).getA rd := by rw [die_sbDrop]; rfl
      rw [← hgetA]
      rfl

theorem scalarAccessFaults : ScalarAccessFaults := by
  intro cd s op rd a h got hostOk host n hmode hfault hst hfree hbad
  have hdie := die_sbDrop s (whoAccess cd.val) cd
  have hfails : (s.accessFails a n h || (accessLoads op && !s.hOk host a n)) = true := by
    rw [Bool.or_eq_true, Bool.and_eq_true, accessLoads_iff, Bool.not_eq_true']
    exact hbad
  refine congrArg Host.Outcome.next ((scalarAccess_free hst hfree).trans ?_)
  rw [show accessWidth op = n from rfl, if_pos hfails]
  congr 1
  unfold Die.fail
  rw [if_pos ⟨.inl (by rw [hdie]; exact hmode), by rw [hdie]; exact hfault⟩]
  simp [hdie, Die.endWait]

/-- Settles O2: the access through its start, and its completion through the four ways it ends. -/
theorem scalarAccess : Obligations.ScalarAccess := ⟨scalarAccessStalls, scalarAccessResult, scalarAccessFaults⟩

end Sys2Proof.Proofs.ScalarAccesses
end

section
/-! SUPPORT. Bytes of a payload, and one packet sent on a new flow. -/

namespace Sys2Proof.Proofs.Payloads

open Sys2Proof.Machine Sys2Proof.Claims Sys2Proof.Proofs.ByteFields Sys2Proof.Proofs.Flows

/-! ### Parts of a list of bytes -/

theorem sliceB_append_left {a : List Byte} (b : List Byte) {off n : Nat} (h : off + n ≤ a.length) :
    sliceB (a ++ b) off n = sliceB a off n :=
  sliceB_congr fun i _ hi => List.getD_append _ _ _ _ (by omega)

theorem sliceB_append_right {a : List Byte} (b : List Byte) {off n : Nat} (h : a.length ≤ off) :
    sliceB (a ++ b) off n = sliceB b (off - a.length) n :=
  List.map_congr_left fun i _ => by
    rw [List.getD_append_right _ _ _ _ (by omega), Nat.sub_add_comm h]

theorem fieldB_append_left {a : List Byte} (b : List Byte) {off n : Nat} (h : off + n ≤ a.length) :
    fieldB (a ++ b) off n = fieldB a off n := congrArg leNat (sliceB_append_left b h)

theorem fieldB_append_right {a : List Byte} (b : List Byte) {off n : Nat} (h : a.length ≤ off) :
    fieldB (a ++ b) off n = fieldB b (off - a.length) n := congrArg leNat (sliceB_append_right b h)

theorem fieldB_natLE {n : Nat} (v : Nat) : fieldB (natLE n v) 0 n = v % 256 ^ n := by
  have h := sliceB_whole (natLE n v)
  rw [MemoryAccess.length_natLE] at h
  rw [fieldB, h, MemoryAccess.leNat_natLE]

theorem sliceB_sliceB (b : List Byte) {off n m k : Nat} (h : m + k ≤ n) : sliceB (sliceB b off n) m k = sliceB b (off + m) k :=
  List.map_congr_left fun i hi => by
    have hi := List.mem_range.mp hi
    have hlt : m + i < n := by omega
    simp [sliceB, hlt, Nat.add_assoc]

theorem fieldB_sliceB (b : List Byte) {off n m k : Nat} (h : m + k ≤ n) : fieldB (sliceB b off n) m k = fieldB b (off + m) k :=
  congrArg leNat (sliceB_sliceB b h)

/-- A payload as the packet carries it. -/
theorem fieldB_payload (b : List Byte) {m k : Nat} (h : m + k ≤ 256) : fieldB (sliceB b 0 256) m k = fieldB b m k := by
  rw [fieldB_sliceB b h, Nat.zero_add]

theorem sliceB_payload (b : List Byte) {m k : Nat} (h : m + k ≤ 256) : sliceB (sliceB b 0 256) m k = sliceB b m k := by
  rw [sliceB_sliceB b h, Nat.zero_add]

/-! ### One packet on a new flow -/

variable {s t : State} {dst flow : Nat}

theorem ReplyRoom.congr (h : ReplyRoom s dst flow) (htx : t.fab.tx = s.fab.tx) (hreg : t.reg 0x401C = s.reg 0x401C) :
    ReplyRoom t dst flow := by
  unfold ReplyRoom txOf
  rwa [htx, hreg]

theorem sentOne_congr {u : Packet} (h : SentOne s dst flow u) (htx : t.fab.tx = s.fab.tx) : SentOne t dst flow u := by
  unfold SentOne txOf
  rwa [htx]

@[simp] theorem sendFlow_rx (s : State) (p : Packet) (ow : Owner) : (s.sendFlow p ow).fab.rx = s.fab.rx := by
  unfold State.sendFlow
  dsimp only
  split
  · unfold State.inject
    split <;> rfl
  · rfl

/-- The first packet of a flow: number 0, with the mark that opens the flow. -/
def opening (p : Packet) : Packet := { p with seq := 0, opened := true }

theorem flowFor_of_replyRoom {p : Packet} (h : ReplyRoom s p.dst p.flow) :
    flowFor s p = ⟨p.dst, p.flow, 0, [], [], false⟩ := by
  rw [flowFor, h.1]
  rfl

theorem numbered_of_replyRoom {p : Packet} (h : ReplyRoom s p.dst p.flow) : numbered s p = opening p := by
  simp [numbered, opening, flowFor_of_replyRoom h]

/-- The packet is the flow's one, unacknowledged. -/
theorem txOf_sendFlow_of_replyRoom {p : Packet} (h : ReplyRoom s p.dst p.flow) (ow : Owner) :
    ∃ g, txOf (s.sendFlow p ow) p.dst p.flow = some g ∧ g.unacked = [⟨opening p, ow, 0⟩] := by
  have hnew := flowFor_of_replyRoom h
  have hroom : Room s p := by
    rw [Room, hnew]
    exact ⟨h.2.1, rfl, h.2.2.1⟩
  refine ⟨flowSent s p ow, ?_, ?_⟩
  · rw [sendFlow_of_room hroom, txOf, inject_tx]
    exact txOf_withFlow_self s (f := flowSent s p ow) (by rw [flowSent, hnew]) (by rw [flowSent, hnew])
  · rw [flowSent, numbered_of_replyRoom h, hnew]
    rfl

theorem sentOne_sendFlow {p : Packet} (h : ReplyRoom s p.dst p.flow) (ow : Owner) :
    SentOne (s.sendFlow p ow) p.dst p.flow (opening p) := by
  obtain ⟨g, hg, hu⟩ := txOf_sendFlow_of_replyRoom h ow
  exact ⟨g, _, hg, hu, rfl⟩

end Sys2Proof.Proofs.Payloads
end

section
/-! PROOF. Transfers of the cellar copy: how they begin and end, and the digest of what was received (R393, R394, R401). -/

namespace Sys2Proof.Proofs.Transfers

open Sys2Proof.Machine Sys2Proof.Claims Sys2Proof.Proofs.ByteFields Sys2Proof.Proofs.Registers Sys2Proof.Proofs.Setpoints
open Sys2Proof.Proofs.Payloads

variable {s t u : State}

/-! ### A transfer under way -/

/-- The last digest of the side that a transfer of a kind copies, with its step. -/
def lastOf (s : State) (kind : Nat) : Nat × List Byte := if kind = 1 then s.dep.lastM else s.dep.lastP

/-- A transfer of a kind to a device is in progress; memory, registers and the last digests are as they were. -/
def Carries (s t : State) (kind dst : Nat) : Prop :=
  (∃ tr, t.dep.transfer = some tr ∧ tr.kind = kind ∧ tr.dst = dst ∧ tr.step = (lastOf s kind).1) ∧
  t.mem = s.mem ∧ t.regs = s.regs ∧ t.dep.lastM = s.dep.lastM ∧ t.dep.lastP = s.dep.lastP

section
variable {kind dst : Nat}

theorem Carries.sendFlow (h : Carries s t kind dst) (p : Packet) (ow : Owner) : Carries s (t.sendFlow p ow) kind dst := by
  obtain ⟨f, hf⟩ := t.sendFlow_rest p ow
  rw [hf]
  exact h

/-- The engine's record of the transfer changed, but for what the transfer is. -/
theorem Carries.updDep (h : Carries s t kind dst) {f : DepSt → DepSt} (hm : (f t.dep).lastM = t.dep.lastM)
    (hp : (f t.dep).lastP = t.dep.lastP)
    (hf : ∀ tr, t.dep.transfer = some tr → ∃ tr', (f t.dep).transfer = some tr' ∧ tr'.kind = tr.kind ∧ tr'.dst = tr.dst ∧
      tr'.step = tr.step) : Carries s (t.updDep f) kind dst := by
  obtain ⟨⟨tr, htr, hkind, hdst, hstep⟩, hmem, hregs, hM, hP⟩ := h
  obtain ⟨tr', htr', hkind', hdst', hstep'⟩ := hf tr htr
  exact ⟨⟨tr', htr', hkind'.trans hkind, hdst'.trans hdst, hstep'.trans hstep⟩, hmem, hregs, hm.trans hM, hp.trans hP⟩

theorem Carries.flushDone (h : Carries s t kind dst) : Carries s t.flushDone kind dst := by
  unfold State.flushDone
  split
  · exact h
  · refine List.foldlRecOn (motive := fun u => Carries s u kind dst) t.dep.dues _ ?_ fun u hu x _ => ?_
    · exact h.updDep rfl rfl fun tr htr => ⟨tr, htr, rfl, rfl, rfl⟩
    · refine Carries.sendFlow (hu.updDep rfl rfl fun tr htr => ?_) _ _
      dsimp only
      split
      · exact ⟨{ tr with doneSent := true }, by rw [htr]; rfl, rfl, rfl, rfl⟩
      · exact ⟨tr, htr, rfl, rfl, rfl⟩

theorem Carries.sendDone (h : Carries s t kind dst) (d k step : Nat) (b : List Byte) : Carries s (t.sendDone d k step b) kind dst :=
  Carries.flushDone (h.updDep rfl rfl fun tr htr => ⟨tr, htr, rfl, rfl, rfl⟩)

theorem Carries.transferGo (h : Carries s t kind dst) (n : Nat) : Carries s (t.transferGo n) kind dst := by
  induction n generalizing t with
  | zero => exact h
  | succ n ih =>
    obtain ⟨⟨tr, htr, hkind, -, hstep⟩, -, -, hM, hP⟩ := id h
    unfold State.transferGo
    simp only [htr]
    split
    · exact h
    · split
      · refine ih (Carries.sendFlow (h.updDep rfl rfl fun tr' htr' => ?_) _ _)
        obtain rfl := Option.some.inj (htr.symm.trans htr')
        exact ⟨_, rfl, rfl, rfl, rfl⟩
      · refine Carries.sendDone (h.updDep rfl rfl fun tr' htr' => ?_) _ _ _ _
        obtain rfl := Option.some.inj (htr.symm.trans htr')
        refine ⟨_, rfl, rfl, rfl, ?_⟩
        rw [hstep, hkind, lastOf, hM, hP]

end

/-- A transfer that may begin does, and shows in DEP_STATUS. -/
theorem startTransfer_begins {kind c : Nat} (hr : s.ready = true) (hf : s.boot.failed = false) (hnone : s.dep.transfer = none)
    (hdst : (if kind = 1 then some (fld (s.reg 0x7044) 0 20) else s.partner) = some c) :
    ∃ tr, (startTransfer kind s).dep.transfer = some tr ∧ tr.kind = kind ∧ tr.dst = c ∧ tr.step = (lastOf s kind).1 ∧
      bitAt ((startTransfer kind s).reg 0x7000) 5 = true ∧ (startTransfer kind s).mem = s.mem := by
  have hgo : startTransfer kind s =
      ((s.updDep (fun d => { d with transfer := some ⟨kind, c, 0, 0, 0, (lastOf s kind).1, false, false⟩ })).orReg 0x7000 32).transferGo
        513 := by
    unfold startTransfer
    rw [if_neg (by simp [hr, hf, hnone])]
    simp only [hdst, lastOf, apply_ite Prod.fst]
  have hstart : Carries (s.orReg 0x7000 32)
      ((s.updDep (fun d => { d with transfer := some ⟨kind, c, 0, 0, 0, (lastOf s kind).1, false, false⟩ })).orReg 0x7000 32) kind c :=
    ⟨⟨_, rfl, rfl, rfl, rfl⟩, rfl, rfl, rfl, rfl⟩
  obtain ⟨⟨tr, htr, hkind, hc, hstep⟩, hmem, hregs, -, -⟩ := hstart.transferGo 513
  rw [← hgo] at htr hmem hregs
  refine ⟨tr, htr, hkind, hc, hstep, ?_, hmem⟩
  rw [State.reg_of_regs hregs]
  exact bitAt_orReg (by decide) (by decide)

/-! ### The end of a transfer -/

theorem endTransfer_facts : s.endTransfer.dep = { s.dep with
      transfer := none, dues := s.dep.dues.filter (fun x => decide (x.2.2 = 0 ∨ x.2.2 = 3)) } ∧
    bitAt (s.endTransfer.reg 0x704C) 1 = true ∧ (s.dep.rxBusy = false → bitAt (s.endTransfer.reg 0x7000) 5 = false) ∧
    s.endTransfer.mem = s.mem ∧ s.endTransfer.fab = s.fab := by
  refine ⟨rfl, ?_, fun hrx => ?_, rfl, rfl⟩
  · rw [State.endTransfer, reg_andNotReg_ne _ _ (by decide)]
    exact bitAt_orReg (by decide) (by decide)
  · rw [State.endTransfer, hrx]
    exact bitAt_andNotReg (by decide) (by decide)

theorem cancel_ends {tr : Transfer} (htr : s.dep.transfer = some tr) (hr : s.ready = true) (hd : tr.doneSent = false) :
    cancel s = s.endTransfer := by
  simp [cancel, htr, hr, hd]

theorem unloadTimeout_ends {tr : Transfer} (htr : s.dep.transfer = some tr) (hd : tr.doneAcked = true) :
    unloadTimeout s = s.endTransfer.log 13 6 0 0xFF 3 tr.dst := by
  simp [unloadTimeout, htr, hd]

/-! ### The digest of what was received -/

/-- A digest that nothing was written under is what its lanes say. -/
theorem digestRead_of_unchanged {kind : Nat} {snap : List Nat} (h : (s.digestOf kind).1 = snap) :
    s.digestRead kind snap = (digestBytes (s.digestOf kind).1, (s.digestOf kind).2, s) := by
  rw [State.digestRead, if_pos h]

theorem depFlag_rest (s : State) : ∃ m p, s.depFlag = { s with mem := m, poison := p } := by
  unfold State.depFlag State.atomic
  split
  · exact ⟨_, _, rfl⟩
  split
  · exact ⟨_, _, rfl⟩
  · exact s.write_rest (s.regPair 0x7020 % 2 ^ 48) (natLE 8 (s.num (s.regPair 0x7020 % 2 ^ 48) 8 + 1))

/-- A verdict noted touches registers and the log. -/
theorem noteVerdict_rest (s : State) (v other : Nat) :
    ∃ q r, s.noteVerdict v other = { s with logQ := q, regs := r } := by
  unfold State.noteVerdict
  split
  · exact ⟨_, _, rfl⟩
  · dsimp only
    rw [log_eq]
    split
    · obtain ⟨r, hr⟩ := State.depStatus_rest { s.orReg 0x704C 1 with
        logQ := logAfter (s.orReg 0x704C 1) 13 6 0 0xFF v other, regs := logRegs (s.orReg 0x704C 1) } 2
      exact ⟨_, _, hr⟩
    · exact ⟨_, _, rfl⟩

theorem reg_noteVerdict_ne {o : Nat} (v other : Nat) (h0 : o ≠ 0x7000) (h1 : o ≠ 0x30) (h2 : o ≠ 0x704C) (h3 : o ≠ 0x7054) :
    (s.noteVerdict v other).reg o = s.reg o := by
  unfold State.noteVerdict
  split
  · rfl
  · dsimp only
    split
    · rw [reg_depStatus_ne _ _ h0 h1, reg_log_ne _ _ _ _ _ _ _ h2 h3, reg_orReg_ne _ _ h2]
    · rw [reg_log_ne _ _ _ _ _ _ _ h2 h3, reg_orReg_ne _ _ h2]

/-- A verdict packet says which step it answers, and how. -/
theorem sentOne_sendVerdict {dst step v : Nat} (h : ReplyRoom s dst 0x3FF0) :
    ∃ u, SentOne (s.sendVerdict dst step v) dst 0x3FF0 u ∧ fieldB u.payload 0 1 = 1 ∧
      fieldB u.payload 4 4 = step % 2 ^ 32 ∧ fieldB u.payload 8 1 = v % 256 := by
  have hdst : (s.cellarPacket dst (verdictPayload step v) 9).dst = dst := Nat.mod_eq_of_lt h.2.2.2
  have hsent := sentOne_sendFlow (s := s) (p := s.cellarPacket dst (verdictPayload step v) 9) (by rw [hdst]; exact h) .none
  rw [hdst] at hsent
  refine ⟨_, hsent, ?_, ?_, ?_⟩
  · exact (fieldB_payload _ (by decide)).trans (by simp [verdictPayload, fieldB, sliceB, leNat])
  · refine (fieldB_payload _ (by decide)).trans ?_
    rw [verdictPayload, List.append_assoc, fieldB_append_right _ (by simp), fieldB_append_left _ (by simp [MemoryAccess.length_natLE])]
    exact fieldB_natLE step
  · refine (fieldB_payload _ (by decide)).trans ?_
    rw [verdictPayload, fieldB_append_right _ (by simp [MemoryAccess.length_natLE])]
    simpa [MemoryAccess.length_natLE] using fieldB_natLE (n := 1) v

theorem endReceive_facts {d : Digest} {v : Nat} {sum : List Byte} (hroom : ReplyRoom s d.sender 0x3FF0) :
    ∃ u, (s.endReceive d v sum).dep.digest = none ∧ (s.endReceive d v sum).dep.rxBusy = false ∧
      bitAt ((s.endReceive d v sum).reg 0x7000) 4 = false ∧ SentOne (s.endReceive d v sum) d.sender 0x3FF0 u ∧
      fieldB u.payload 0 1 = 1 ∧ fieldB u.payload 4 4 = d.step % 2 ^ 32 ∧ fieldB u.payload 8 1 = v % 256 := by
  have hrec : ∃ m p, s.receiveRecord d v sum = { s with mem := m, poison := p } := s.write_rest _ _
  obtain ⟨m, p, hrec⟩ := hrec
  obtain ⟨m', p', hflag⟩ := depFlag_rest (s.receiveRecord d v sum)
  obtain ⟨q, r, hnote⟩ := noteVerdict_rest (s.receiveRecord d v sum).depFlag v d.sender
  have hroom' : ReplyRoom ((s.receiveRecord d v sum).depFlag.noteVerdict v d.sender) d.sender 0x3FF0 := by
    refine ReplyRoom.congr hroom (by rw [hnote, hflag, hrec]) ?_
    rw [reg_noteVerdict_ne _ _ (by decide) (by decide) (by decide) (by decide), hflag, hrec]
    rfl
  obtain ⟨w, hsent, hfields⟩ := sentOne_sendVerdict (step := d.step) (v := v) hroom'
  refine ⟨w, rfl, rfl, ?_, sentOne_congr hsent rfl, hfields⟩
  unfold State.endReceive
  refine bitAt_andNotReg (by decide) ?_
  split <;> decide

/-- Settles O44: each transfer's beginning and end, and the verdict of what was received. -/
theorem cellarTransfers : Obligations.CellarTransfers := by
  intro s
  refine ⟨fun hr hf hnone => ?unload, fun p hr hf hnone hp => ?reseed, fun hsome => ?ignored, fun tr htr hr hd => ?cancel,
    fun tr htr hd hq => ?timeout, fun d hd hk hok hclean hsum hroom => ?received, fun off v row hr hoff hrow => ?config⟩
  case unload =>
    obtain ⟨tr, h⟩ := startTransfer_begins (kind := 1) hr hf hnone (if_pos rfl)
    exact ⟨_, tr, rfl, h⟩
  case reseed =>
    obtain ⟨tr, h⟩ := startTransfer_begins (kind := 2) hr hf hnone ((if_neg (by decide)).trans hp)
    exact ⟨_, tr, rfl, h⟩
  case ignored =>
    have hstay (kind : Nat) : startTransfer kind s = s := by
      rw [startTransfer, if_pos (.inr (.inr hsome))]
    exact ⟨congrArg Host.Outcome.next (hstay 1), congrArg Host.Outcome.next (hstay 2)⟩
  case cancel =>
    exact ⟨_, congrArg Host.Outcome.next (cancel_ends htr hr hd), endTransfer_facts⟩
  case timeout =>
    obtain ⟨hdep, hbit, -⟩ := endTransfer_facts (s := s)
    refine ⟨_, congrArg Host.Outcome.next ((unloadTimeout_ends htr hd).trans (log_eq ..)), hdep, ?_, ?_, rfl⟩
    · have hregs : logRegs s.endTransfer = s.endTransfer.regs := if_pos hq
      rwa [State.reg_of_regs (s := s.endTransfer) hregs]
    · exact logAfter_of_room (s := s.endTransfer) hq ..
  case received =>
    have hend : receiveDone s = s.endReceive { d with lost := 0 }
        (if digestBytes (s.digestOf (d.kind - 1)).1 = sliceB d.carried 0 64 then 0 else 1)
        (digestBytes (s.digestOf (d.kind - 1)).1) := by
      unfold receiveDone
      simp only [hd]
      rw [if_neg hk, if_neg (by simp [hok])]
      simp only [digestRead_of_unchanged hsum, hclean]
      rfl
    obtain ⟨w, h1, h2, h3, h4, h5, h6, h7⟩ := endReceive_facts (d := { d with lost := 0 })
      (v := if digestBytes (s.digestOf (d.kind - 1)).1 = sliceB d.carried 0 64 then 0 else 1)
      (sum := digestBytes (s.digestOf (d.kind - 1)).1) hroom
    refine ⟨_, w, congrArg Host.Outcome.next hend, h1, h2, h3, h4, h5, h6, h7.trans ?_⟩
    split <;> rfl
  case config =>
    have hgo : ¬(s.ready = false ∨ off ∉ [0x7008, 0x700C, 0x7010, 0x7014, 0x7018, 0x701C]) := by simp [hr, hoff]
    refine ⟨fun hdig htr hrx => congrArg Host.Outcome.next ?_, fun hbusy => congrArg Host.Outcome.next ?_⟩
    · rw [depConfigWrite, if_neg hgo, if_neg (by simp [hdig, htr, hrx])]
      simp only [hrow]
    · rw [depConfigWrite, if_neg hgo, if_pos hbusy]

end Sys2Proof.Proofs.Transfers
end

section
/-! SUPPORT. The cellar copy's own operations: what sending lists, ranges and done packets leaves unchanged. -/

namespace Sys2Proof.Proofs.CellarOps

open Sys2Proof.Machine Sys2Proof.Claims

/-- A state that differs in the fabric, and of the cellar's state in what is outstanding and the transfer alone. -/
def Sending (s t : State) : Prop :=
  ∃ f du sd tr ra li, t = { s with fab := f, dep := { s.dep with
    dues := du, sentDone := sd, transfer := tr, ranges := ra, lines := li } }

theorem Sending.refl (s : State) : Sending s s := ⟨_, _, _, _, _, _, rfl⟩

theorem Sending.trans {s t u : State} (h : Sending s t) (h' : Sending t u) : Sending s u := by
  obtain ⟨f, du, sd, tr, ra, li, rfl⟩ := h
  obtain ⟨f', du', sd', tr', ra', li', rfl⟩ := h'
  exact ⟨f', du', sd', tr', ra', li', rfl⟩

theorem Sending.foldl {α : Type} {f : State → α → State} (hf : ∀ t x, Sending t (f t x)) (l : List α) (s : State) :
    Sending s (l.foldl f s) := by
  induction l generalizing s with
  | nil => exact .refl s
  | cons x l ih => exact (hf s x).trans (ih _)

variable (s : State)

theorem sending_sendFlow (p : Packet) (ow : Owner) : Sending s (s.sendFlow p ow) := by
  obtain ⟨f, hf⟩ := s.sendFlow_rest p ow
  exact ⟨f, _, _, _, _, _, hf⟩

theorem sending_sendAll (ps : List Packet) (ow : Owner) : Sending s (s.sendAll ps ow) := by
  obtain ⟨f, hf⟩ := State.sendAll_rest ps s ow
  exact ⟨f, _, _, _, _, _, hf⟩

theorem sending_sendLines (ps : List Packet) : Sending s (s.sendLines ps) :=
  .trans ⟨s.fab, _, _, _, _, _, rfl⟩ (sending_sendAll _ ps _)

theorem sending_flushDone : Sending s s.flushDone := by
  unfold State.flushDone
  split
  · exact .refl s
  · exact .trans ⟨s.fab, [], _, _, _, _, rfl⟩
      (.foldl (fun t x => .trans ⟨t.fab, _, _, _, _, _, rfl⟩ (sending_sendFlow _ _ _)) _ _)

theorem sending_sendDone (dst kind step : Nat) (digest : List Byte) : Sending s (s.sendDone dst kind step digest) :=
  .trans ⟨s.fab, _, _, _, _, _, rfl⟩ (sending_flushDone _)

theorem sending_sendList (step : Nat) : Sending s (s.sendList step) := by
  unfold State.sendList
  split
  · exact .refl s
  · exact .trans (.foldl (fun t p => sending_sendFlow t _ _) _ s) (sending_sendDone _ _ _ _ _)

theorem sending_sendRanges (step : Nat) : Sending s (s.sendRanges step) := by
  unfold State.sendRanges
  split
  · exact .refl s
  · refine .trans (.foldl (fun t r => ?_) _ s) (.trans ⟨State.fab _, _, _, _, [], _, rfl⟩ (sending_sendDone _ _ _ _ _))
    split
    · exact sending_sendLines t _
    · exact .refl t

end Sys2Proof.Proofs.CellarOps
end

section
/-! PROOF. The step digest: its two sides, its timeout and record, and the trigger that waits for it (R378, R380, R383, R394). -/

namespace Sys2Proof.Proofs.StepDigests

open Sys2Proof.Machine Sys2Proof.Claims Sys2Proof.Proofs.ByteFields Sys2Proof.Proofs.Registers Sys2Proof.Proofs.Setpoints
open Sys2Proof.Proofs.Payloads Sys2Proof.Proofs.MemoryAccess Sys2Proof.Proofs.Lines Sys2Proof.Proofs.CellarOps
open Sys2Proof.Proofs.Transfers

variable {s t : State}

/-! ### The sum has eight lanes -/

theorem length_digestLanes (kind : Nat) : (s.digestOf kind).1.length = 8 := by
  unfold State.digestOf
  refine List.foldlRecOn (motive := fun acc : List Nat × List (Nat × Nat) => acc.1.length = 8) _ _ rfl fun acc hacc r _ => ?_
  refine List.foldlRecOn (motive := fun acc : List Nat × List (Nat × Nat) => acc.1.length = 8) _ _ hacc fun acc hacc l _ => ?_
  split
  · exact hacc
  · simp [digestLine]

theorem length_digestBytes (d : List Nat) : (digestBytes d).length = 8 * d.length := by
  induction d with
  | nil => rfl
  | cons x d ih =>
    rw [digestBytes, List.flatMap_cons, List.length_append, length_natLE]
    rw [digestBytes] at ih
    rw [ih, List.length_cons]
    omega

theorem sliceB_digestBytes (kind : Nat) : sliceB (digestBytes (s.digestOf kind).1) 0 64 = digestBytes (s.digestOf kind).1 := by
  have hlen : (digestBytes (s.digestOf kind).1).length = 64 := by rw [length_digestBytes, length_digestLanes]
  have h := sliceB_whole (digestBytes (s.digestOf kind).1)
  rwa [hlen] at h

/-! ### The primary side -/

theorem tryEnd_of_no_verdict {d : Digest} (hd : s.dep.digest = some d) (hpv : d.pv = none) : s.tryEnd = s := by
  unfold State.tryEnd
  simp [hd, hpv]

/-- The sum of a clean primary side goes to the partner at once. -/
theorem sendPrimary_goes {d : Digest} {p : Nat} (hd : s.dep.digest = some d) (hk : d.kind = 0) (hprim : d.prim.isSome = true)
    (hw : d.wantP = []) (hs : d.sent = false) (hp : s.partner = some p) :
    s.sendPrimary = (s.putDigest { d with sent := true }).sendFlow
      ((s.putDigest { d with sent := true }).cellarPacket p (digestPayload d.step (d.prim.getD [])) 80) .none := by
  unfold State.sendPrimary
  have hp' : (s.putDigest { d with sent := true }).partner = some p := hp
  simp only [hd]
  rw [if_pos (by simp [hk, hprim, hw, hs])]
  simp only [hp']

/-- The primary sum taken, with no line to ask for. -/
def primaryTaken (s : State) (d : Digest) : Digest :=
  { d with prim := some (digestBytes (s.digestOf 0).1), pPoison := false, wantP := [] }

theorem primaryDone_clean {d : Digest} {p : Nat} (hd : s.dep.digest = some d) (hk : d.kind = 0) (hprim : d.prim = none)
    (hclean : (s.digestOf 0).2 = []) (hsnap : (s.digestOf 0).1 = d.snapP) (hp : s.partner = some p)
    (hlist : s.listTaken = true) : primaryDone s = (s.putDigest (primaryTaken s d)).sendPrimary.tryEnd := by
  unfold primaryDone
  simp only [hd]
  rw [if_neg (by simp [hk, hprim, hlist])]
  simp only [digestRead_of_unchanged hsnap, hclean, hp, Option.isSome_some, ite_self]
  have hp' : (s.putDigest (primaryTaken s d)).partner = some p := hp
  exact congrArg (fun u => (State.sendPrimary u).tryEnd) (by
    show (match (s.putDigest (primaryTaken s d)).partner with | some p => State.requestLines _ p 0 [] | none => _) = _
    rw [hp']
    rfl)

theorem digestPayload_facts (step : Nat) (b : List Byte) :
    fieldB (sliceB (digestPayload step b) 0 256) 0 1 = 0 ∧ fieldB (sliceB (digestPayload step b) 0 256) 4 4 = step % 2 ^ 32 ∧
      sliceB (sliceB (digestPayload step b) 0 256) 16 64 = sliceB b 0 64 := by
  have hlen := length_natLE 4 step
  refine ⟨(fieldB_payload _ (by decide)).trans (by simp [digestPayload, fieldB, sliceB, leNat]),
    (fieldB_payload _ (by decide)).trans ?_, (sliceB_payload _ (by decide)).trans ?_⟩
  · rw [digestPayload, List.append_assoc, List.append_assoc, fieldB_append_right _ (by simp), fieldB_append_left _ (by simp [hlen])]
    exact fieldB_natLE step
  · rw [digestPayload, sliceB_append_right _ (by simp [hlen, zeroB])]
    have hoff : 16 - (([0, 0, 0, 0] : List Byte) ++ natLE 4 step ++ zeroB 8).length = 0 := by simp [hlen, zeroB]
    rw [hoff, sliceB_sliceB _ (by decide)]

theorem primary_sent {d : Digest} {p : Nat} (hd : s.dep.digest = some d) (hk : d.kind = 0) (hprim : d.prim = none)
    (hsent : d.sent = false) (hpv : d.pv = none) (hclean : (s.digestOf 0).2 = []) (hsnap : (s.digestOf 0).1 = d.snapP)
    (hp : s.partner = some p) (hlist : s.listTaken = true) (hroom : ReplyRoom s p 0x3FF0) :
    ∃ t u, Gives .primaryDigestDone s t ∧ t.mem = s.mem ∧
      t.dep.digest = some { d with prim := some (digestBytes (s.digestOf 0).1), pPoison := false, wantP := [], sent := true } ∧
      SentOne t p 0x3FF0 u ∧ u.type = 0x0E ∧ fieldB u.payload 0 1 = 0 ∧ fieldB u.payload 4 4 = d.step % 2 ^ 32 ∧
      sliceB u.payload 16 64 = digestBytes (s.digestOf 0).1 := by
  let d' : Digest := { primaryTaken s d with sent := true }
  let v : State := (s.putDigest (primaryTaken s d)).putDigest d'
  let pk := v.cellarPacket p (digestPayload d.step (digestBytes (s.digestOf 0).1)) 80
  have hgo : (s.putDigest (primaryTaken s d)).sendPrimary = v.sendFlow pk .none :=
    sendPrimary_goes (s := s.putDigest (primaryTaken s d)) (d := primaryTaken s d) rfl hk rfl rfl hsent hp
  have hdst : pk.dst = p := Nat.mod_eq_of_lt hroom.2.2.2
  have hone := sentOne_sendFlow (s := v) (p := pk) (by rw [hdst]; exact hroom) .none
  rw [hdst] at hone
  obtain ⟨f, hf⟩ := v.sendFlow_rest pk .none
  have hend : (v.sendFlow pk .none).tryEnd = v.sendFlow pk .none := by
    refine tryEnd_of_no_verdict (d := d') ?_ hpv
    rw [hf]
    rfl
  have hstep : primaryDone s = v.sendFlow pk .none := by
    rw [primaryDone_clean hd hk hprim hclean hsnap hp hlist, hgo, hend]
  obtain ⟨hsub, hst, hsum⟩ := digestPayload_facts d.step (digestBytes (s.digestOf 0).1)
  refine ⟨_, _, congrArg Host.Outcome.next hstep, ?_, ?_, hone, rfl, hsub, hst, hsum.trans (sliceB_digestBytes 0)⟩
  · rw [hf]; rfl
  · rw [hf]; rfl

/-! ### The mirror side -/

theorem compareWard_of_not_held (h : s.dep.held = none) : s.compareWard = s := by
  unfold State.compareWard
  rw [h]
  split
  · rename_i heq _; simp at heq
  · rfl

theorem mirror_taken {d : Digest} (hd : s.dep.digest = some d) (hk : d.kind = 0) (hmirr : d.mirr = none) (hpv : d.pv = none)
    (hsnap : (s.digestOf 1).1 = d.snapM) (hward : s.ward = none ∨ s.dep.recvDone = true) (hclean : (s.digestOf 1).2 = [])
    (hheld : s.dep.held = none) :
    mirrorDone s = s.putDigest { d with mirr := some (digestBytes (s.digestOf 1).1), mPoison := false, wantM := [] } := by
  let v := s.putDigest { d with mirr := some (digestBytes (s.digestOf 1).1), mPoison := false, wantM := [] }
  have hgo : ¬(d.kind ≠ 0 ∨ d.mirr.isSome = true ∨ (s.ward.isSome = true ∧ s.dep.recvDone = false)) := by
    rcases hward with h | h <;> simp [hk, hmirr, h]
  have hstay : v.compareWard.tryEnd = v := by
    rw [compareWard_of_not_held (s := v) hheld]
    exact tryEnd_of_no_verdict rfl hpv
  unfold mirrorDone
  simp only [hd]
  rw [if_neg hgo]
  simp only [digestRead_of_unchanged hsnap, hclean, ite_self]
  refine Eq.trans ?_ hstay
  refine congrArg (fun u => (State.compareWard u).tryEnd) ?_
  split <;> rfl

theorem mirror_waits {d : Digest} {w : Nat} (hd : s.dep.digest = some d) (hw : s.ward = some w) (hrecv : s.dep.recvDone = false) :
    mirrorDone s = s := by
  unfold mirrorDone
  simp [hd, hw, hrecv]

theorem primary_waits {d : Digest} (hd : s.dep.digest = some d) (hl : s.listTaken = false) : primaryDone s = s := by
  unfold primaryDone
  simp [hd, hl]

/-! ### The timeout -/

theorem length_digestRecord (d : Digest) (ovf : Bool) (now : Nat) : (digestRecord d ovf now).length = 256 := by
  simp [digestRecord, length_natLE, zeroB]

/-- The record begins with its step and its verdicts. -/
theorem digestRecord_facts (d : Digest) (ovf : Bool) (now : Nat) :
    fieldB (digestRecord d ovf now) 0 4 = d.step % 2 ^ 32 ∧ fieldB (digestRecord d ovf now) 4 1 = d.pv.getD 3 % 256 ∧
      fieldB (digestRecord d ovf now) 5 1 = d.mv.getD 3 % 256 := by
  have h4 := length_natLE 4 d.step
  have h1 := length_natLE 1 (d.pv.getD 3)
  have h1' := length_natLE 1 (d.mv.getD 3)
  simp only [digestRecord, List.append_assoc]
  refine ⟨?_, ?_, ?_⟩
  · rw [fieldB_append_left _ (by rw [h4])]
    exact fieldB_natLE d.step
  · rw [fieldB_append_right _ (by rw [h4]), h4, fieldB_append_left _ (by rw [h1])]
    exact fieldB_natLE (n := 1) _
  · rw [fieldB_append_right _ (by rw [h4]; decide), h4, fieldB_append_right _ (by rw [h1]), h1,
      fieldB_append_left _ (by rw [h1'])]
    exact fieldB_natLE (n := 1) _

/-- The flag's word is the only thing that raising it changes. -/
theorem byte_depFlag {x : Nat} (hx : x < s.regPair 0x7020 % 2 ^ 48 ∨ s.regPair 0x7020 % 2 ^ 48 + 8 ≤ x) :
    s.depFlag.byte x = s.byte x := by
  unfold State.depFlag State.atomic
  split
  · rfl
  split
  · rfl
  · rename_i hok hp
    rw [not_or, not_not, Bool.not_eq_false] at hok
    obtain ⟨halign, hhome⟩ := hok
    have hm : s.mapped (s.regPair 0x7020 % 2 ^ 48) = true := (Bool.and_eq_true_iff.mp hhome).1
    have hclear : Clear s (s.regPair 0x7020 % 2 ^ 48) 8 :=
      clear_of_aligned (by decide) halign hm (Bool.eq_false_iff.mpr hp)
    have hstored := stored_write (bs := natLE 8 (s.num (s.regPair 0x7020 % 2 ^ 48) 8 + 1)) (by rwa [length_natLE])
    exact hstored.byte_outside (by rwa [length_natLE])

theorem byte_noteVerdict (s : State) (v other : Nat) : (s.noteVerdict v other).byte = s.byte := by
  obtain ⟨q, r, h⟩ := noteVerdict_rest s v other
  refine byte_of_same_homes (HomeLocations.loc_congr (fun o ho => ?_) (by rw [h])) (by rw [h])
  unfold HomeLocations.LayoutReg at ho
  exact reg_noteVerdict_ne v other (by omega) (by omega) (by omega) (by omega)

theorem take_drop_eq_sliceB (bs : List Byte) {off n : Nat} (h : off + n ≤ bs.length) : (bs.drop off).take n = sliceB bs off n := by
  refine List.ext_getElem (by simp; omega) fun i h1 h2 => ?_
  simp only [length_sliceB] at h2
  simp [sliceB, show off + i < bs.length by omega]

/-- Bytes of memory that a digest's end leaves: those that the flag is not among, as the record has them. -/
theorem endDigest_facts {d : Digest} {a fl : Nat} (ha : a = s.recordOf d.step) (hfl : fl = s.regPair 0x7020 % 2 ^ 48)
    (hplain : Plain s a 256) (hapart : fl + 8 ≤ a ∨ a + 256 ≤ fl) :
    (s.endDigest d).dep.digest = none ∧ bitAt ((s.endDigest d).reg 0x7000) 4 = false ∧
      (∀ off n, off + n ≤ 256 →
        (s.endDigest d).num (a + off) n = fieldB (digestRecord d (s.overflowed d.step) s.time) off n) := by
  subst ha hfl
  let bs := digestRecord d (s.overflowed d.step) s.time
  have hlen : bs.length = 256 := length_digestRecord ..
  have hstored : Stored s (s.write (s.recordOf d.step) bs) (s.recordOf d.step) bs :=
    stored_write (by rw [hlen]; exact clear_of_plain hplain)
  have hbyte : (s.endDigest d).byte = (s.write (s.recordOf d.step) bs).depFlag.byte := by
    have hnote (u : State) (v o v' o' : Nat) : ((u.noteVerdict v o).noteVerdict v' o').byte = u.byte :=
      (byte_noteVerdict ..).trans (byte_noteVerdict ..)
    exact (byte_setReg _ (by unfold HomeLocations.LayoutReg; decide) _).trans (hnote ..)
  refine ⟨rfl, bitAt_andNotReg (by decide) (by decide), fun off n hn => ?_⟩
  have hflag (x : Nat) (hx : s.recordOf d.step ≤ x) (hx' : x < s.recordOf d.step + 256) :
      (s.endDigest d).byte x = (s.write (s.recordOf d.step) bs).byte x := by
    have hpair : (s.write (s.recordOf d.step) bs).regPair 0x7020 = s.regPair 0x7020 := by
      rw [State.regPair, State.regPair, hstored.reg, hstored.reg]
    rw [hbyte]
    exact byte_depFlag (by rw [hpair]; omega)
  rw [State.num, bytes_congr (s := s.write (s.recordOf d.step) bs) fun x hlo hhi => hflag x (by omega) (by omega),
    hstored.bytes_inside (by omega)]
  exact congrArg leNat (take_drop_eq_sliceB _ (by omega))

/-! ### The trigger -/

/-- Another state with the same memory, and the same place of the cellar's table. -/
structure SameCellar (s t : State) : Prop where
  loc : t.loc = s.loc
  mem : t.mem = s.mem
  poison : t.poison = s.poison
  base : t.regPair 0x7010 = s.regPair 0x7010

theorem SameCellar.cellarFaulty (h : SameCellar s t) : t.cellarFaulty = s.cellarFaulty := by
  have hbyte := byte_of_same_homes h.loc h.mem
  have hnum (a n : Nat) : t.num a n = s.num a n := by rw [State.num, State.num, State.bytes, State.bytes, hbyte]
  have hentry (i : Nat) : t.cellarEntry i = s.cellarEntry i := by rw [State.cellarEntry, State.cellarEntry, h.base]
  have hregion (i : Nat) : t.region i = s.region i := by simp only [State.region, hnum, hentry]
  have hregions (k : Nat) : t.regions k = s.regions k := by simp only [State.regions, hregion]
  have hbad : t.entryBad = s.entryBad := by
    funext i
    simp only [State.entryBad, hregion, hnum, hentry]
  have hmapped (a n : Nat) : t.rangeMapped a n = s.rangeMapped a n := by
    simp only [State.rangeMapped, State.mapped, h.loc]
  have hpoisoned (a n : Nat) : t.rangePoisoned a n = s.rangePoisoned a n := by
    simp only [State.rangePoisoned, State.poisoned, h.loc, h.poison]
  simp only [State.cellarFaulty, hregions, hbad, hentry, hmapped, hpoisoned]

/-- The digest that a trigger begins. -/
def begun (s u : State) (kind step sender : Nat) (carried : List Byte) (start : Nat) : Digest :=
  { newDigest kind step sender carried start with
    pv := if s.partner.isNone then some 2 else none
    mv := if s.ward.isNone then some 2 else none
    snapP := if kind = 2 then [] else (u.digestOf 0).1
    snapM := if kind = 1 then [] else (u.digestOf 1).1 }

/-- A trigger that may begin does; what a step digest sends leaves the digest as it is. -/
theorem beginDigest_facts {kind step sender : Nat} {carried : List Byte} {start : Nat}
    (hok : kind = 0 → s.cellarFaulty = false) : ∃ e, (s.beginDigest kind step sender carried start).dep.digest = some e ∧
      e.kind = kind ∧ e.step = step ∧ e.sender = sender ∧ e.carried = carried ∧ e.start = start ∧ e.prim = none ∧ e.mirr = none ∧
      (s.beginDigest kind step sender carried start).dep.queued = s.dep.queued ∧
      bitAt ((s.beginDigest kind step sender carried start).reg 0x7000) 4 = true ∧
      (s.beginDigest kind step sender carried start).mem = s.mem := by
  let v := s.orReg 0x7000 16
  have hbit : bitAt (v.reg 0x7000) 4 = true := bitAt_orReg (by decide) (by decide)
  have hsame : SameCellar s v := by
    refine ⟨HomeLocations.loc_setReg s (by unfold HomeLocations.LayoutReg; decide) _, rfl, rfl, ?_⟩
    rw [State.regPair, reg_orReg_ne _ _ (by decide), reg_orReg_ne _ _ (by decide)]
    rfl
  have hgo : ¬(kind = 0 ∧ v.cellarFaulty = true) := fun h => by
    rw [hsame.cellarFaulty, hok h.1] at h
    exact absurd h.2 (by decide)
  let e := begun s v kind step sender carried start
  have hfields : e.kind = kind ∧ e.step = step ∧ e.sender = sender ∧ e.carried = carried ∧ e.start = start ∧ e.prim = none ∧
      e.mirr = none := ⟨rfl, rfl, rfl, rfl, rfl, rfl, rfl⟩
  obtain ⟨w, hw, hsending⟩ : ∃ w : State, (w = v.putDigest e ∨ ∃ a b c, w = (v.putDigest e).updDep (fun x =>
      { x with sentDone := a, recvDone := b, listDone := c })) ∧
      Sending w (s.beginDigest kind step sender carried start) := by
    unfold State.beginDigest
    extract_lets d u u'
    rw [if_neg hgo]
    split
    · exact ⟨_, .inl rfl, .refl _⟩
    · refine ⟨_, .inr ⟨false, false, false, rfl⟩, ?_⟩
      split
      · exact .trans (sending_sendList _ _) (sending_sendRanges _ _)
      · exact sending_sendList _ _
  obtain ⟨f, du, sd, tr, ra, li, hend⟩ := hsending
  rw [hend]
  refine ⟨e, ?_⟩
  obtain rfl | ⟨a, b, c, rfl⟩ := hw
  · exact ⟨rfl, rfl, rfl, rfl, rfl, rfl, rfl, rfl, rfl, hbit, rfl⟩
  · exact ⟨rfl, rfl, rfl, rfl, rfl, rfl, rfl, rfl, rfl, hbit, rfl⟩

/-- Settles O42: each side, the timeout and the deferred trigger. -/
theorem stepDigestSides : Obligations.StepDigestSides := by
  intro s d
  refine ⟨fun p hd hk hprim hsent hpv => primary_sent hd hk hprim hsent hpv,
    fun p hd hp hl => congrArg Host.Outcome.next (primary_waits hd hl),
    fun w hd hw hrecv => congrArg Host.Outcome.next (mirror_waits hd hw hrecv),
    fun hd hk hmirr hpv hsnap hward hclean hheld =>
      ⟨_, congrArg Host.Outcome.next (mirror_taken hd hk hmirr hpv hsnap hward hclean hheld), rfl, rfl, rfl⟩,
    fun a fl hd hk ha hfl hplain hapart => ?timeout, fun hd hk => ?stays, fun k n who c at0 hd hq hok => ?deferred⟩
  case timeout =>
    let e : Digest := { d with pv := some (d.pv.getD 3), mv := some (d.mv.getD 3), wantP := [], wantM := [] }
    have hend : digestTimeout s = s.endDigest e := by
      unfold digestTimeout
      simp only [hd]
      rw [if_pos hk]
    obtain ⟨hdig, hbit, hnum⟩ := endDigest_facts (d := e) ha hfl hplain hapart
    obtain ⟨hstep, hpv, hmv⟩ := digestRecord_facts e (s.overflowed e.step) s.time
    exact ⟨_, congrArg Host.Outcome.next hend, hdig, hbit, (hnum 0 4 (by decide)).trans hstep,
      (hnum 4 1 (by decide)).trans hpv, (hnum 5 1 (by decide)).trans hmv⟩
  case stays =>
    refine congrArg Host.Outcome.next ?_
    unfold digestTimeout
    simp only [hd]
    rw [if_neg hk]
  case deferred =>
    have hgo : digestDeferred s = (s.updDep (fun x => { x with queued := none })).beginDigest k n who c at0 := by
      unfold digestDeferred
      rw [hd, hq]
    obtain ⟨e, he, hkind, hstep, hwho, hc, hat, hprim, hmirr, hqueued, hbit, hmem⟩ :=
      beginDigest_facts (s := s.updDep (fun x => { x with queued := none })) (step := n) (sender := who) (carried := c)
        (start := at0) hok
    exact ⟨_, e, congrArg Host.Outcome.next hgo, he, hkind, hstep, hwho, hc, hat, hprim, hmirr, hqueued, hbit, hmem⟩

end Sys2Proof.Proofs.StepDigests
end

section
/-! SUPPORT. A packet taken in order: what its layer does around the performing of it (R283, R294–R296). -/

namespace Sys2Proof.Proofs.Arrivals

open Sys2Proof.Machine Sys2Proof.Claims

/-! ### The flows a receiver holds -/

theorem rxFind_rxPut (l : List RxFlow) (f : RxFlow) : rxFind (rxPut l f) f.src f.flow = some f := by
  induction l with
  | nil => simp [rxFind, rxPut]
  | cons g l ih =>
    by_cases h : g.src = f.src ∧ g.flow = f.flow
    · simp [rxFind, rxPut, h]
    · rw [rxPut, if_neg h, rxFind, List.find?_cons_of_neg (by simpa using h)]
      exact ih

theorem rxFind_putRx (s : State) (bd : Fin 4) (f : RxFlow) : rxFind (s.putRx bd f).fab.rx[bd] f.src f.flow = some f := by
  simpa [State.putRx] using rxFind_rxPut s.fab.rx[bd] f

@[simp] theorem inject_rx (s : State) (bd : Fin 4) (p : Packet) : (s.inject bd p).fab.rx = s.fab.rx := by
  unfold State.inject
  split <;> rfl

theorem rxFind_of_rx {s t : State} {bd : Fin 4} {src flow : Nat} (h : t.fab.rx = s.fab.rx) :
    rxFind t.fab.rx[bd] src flow = rxFind s.fab.rx[bd] src flow := by rw [h]

/-! ### What the layer changes -/

/-- A state that differs in the packets that wait and in what the receiving layers hold alone. -/
def Layered (s t : State) : Prop :=
  ∃ rx ej inj, t = { s with fab := { s.fab with rx := rx, eject := ej, inj := inj } }

theorem Layered.refl (s : State) : Layered s s := ⟨_, _, _, rfl⟩

theorem Layered.trans {s t u : State} (h : Layered s t) (h' : Layered t u) : Layered s u := by
  obtain ⟨rx, ej, inj, rfl⟩ := h
  obtain ⟨rx', ej', inj', rfl⟩ := h'
  exact ⟨rx', ej', inj', rfl⟩

theorem layered_putRx (s : State) (bd : Fin 4) (f : RxFlow) : Layered s (s.putRx bd f) := ⟨_, s.fab.eject, s.fab.inj, rfl⟩

theorem layered_inject (s : State) (bd : Fin 4) (p : Packet) : Layered s (s.inject bd p) := by
  unfold State.inject
  split
  · exact ⟨s.fab.rx, _, s.fab.inj, rfl⟩
  · exact ⟨s.fab.rx, s.fab.eject, _, rfl⟩

theorem layered_sendAck (s : State) (bd : Fin 4) (f : RxFlow) (r : Bool) : Layered s (s.sendAck bd f r) := layered_inject ..

/-! ### The packet at the head of its queue -/

variable {s : State} {q : Fin 9} {p : Packet} {f : RxFlow}

/-- The flow after the packet it waited for. -/
def nextFlow (f : RxFlow) : RxFlow := { f with next := (f.next + 1) % 2 ^ 24 }

/-- The state as the packet is performed: it has left its queue and its flow waits for the next one. -/
def fetched (s : State) (q : Fin 9) (p : Packet) (f : RxFlow) : State := (s.popEject q).putRx (flowBd p.flow) (nextFlow f)

theorem layered_fetched (s : State) (q : Fin 9) (p : Packet) (f : RxFlow) : Layered s (fetched s q p f) :=
  .trans ⟨s.fab.rx, _, s.fab.inj, rfl⟩ (layered_putRx ..)

theorem modDiff_self (n a : Nat) : modDiff n a a = 0 := by
  have hmod : (a + 2 ^ n - a % 2 ^ n) % 2 ^ n = 0 := by
    have hsum : a + 2 ^ n - a % 2 ^ n = 2 ^ n * (a / 2 ^ n + 1) := by
      have hdiv := Nat.div_add_mod a (2 ^ n)
      rw [Nat.mul_add, Nat.mul_one]
      omega
    rw [hsum, Nat.mul_mod_right]
  simp [modDiff, toSigned, hmod]

theorem rxAccept_inOrder (h : InOrder s q p f) : (s.popEject q).rxAccept p = (fetched s q p f, true) := by
  obtain ⟨-, -, hformat, hfind, hseq, -, hmarks, hheld, -, -⟩ := h
  have hfind' : rxFind (s.popEject q).fab.rx[flowBd p.flow] p.src p.flow = some f := hfind
  simp only [State.rxAccept, hformat, hfind', State.rxAccept.rxHeld, hseq, modDiff_self, hmarks, hheld]
  simp [rxAdvance, fetched, nextFlow, hmarks, hheld]

/-- An accepted packet's flow keeps waiting for the same number. -/
theorem ackOne_facts {u : State} {g : RxFlow} (hg : rxFind u.fab.rx[flowBd p.flow] p.src p.flow = some g) (hsrc : g.src = p.src)
    (hflow : g.flow = p.flow) : Layered u (u.ackOne p) ∧
      ∃ n, rxFind (u.ackOne p).fab.rx[flowBd p.flow] p.src p.flow = some { g with unacked := n } := by
  have hput (n : Nat) : rxFind (u.putRx (flowBd p.flow) { g with unacked := n }).fab.rx[flowBd p.flow] p.src p.flow =
      some { g with unacked := n } := by
    rw [← hsrc]
    conv_lhs => arg 3; rw [← hflow]
    exact rxFind_putRx u (flowBd p.flow) { g with unacked := n }
  have hack : u.ackOne p = if 16 ≤ g.unacked + 1 ∨ ((p.type == 0x03 || p.type == 0x05) && bitAt (fieldB p.payload 12 1) 0) = true
      then (u.putRx (flowBd p.flow) { g with unacked := 0 }).sendAck (flowBd p.flow) { g with unacked := 0 } false
      else u.putRx (flowBd p.flow) { g with unacked := g.unacked + 1 } := by
    unfold State.ackOne
    simp only [hg]
  split at hack <;> rw [hack]
  · exact ⟨(layered_putRx ..).trans (layered_sendAck ..), 0, (rxFind_of_rx (inject_rx ..)).trans (hput 0)⟩
  · exact ⟨layered_putRx .., _, hput _⟩

theorem rxRelease_of_none_held {u : State} {g : RxFlow} (hg : rxFind u.fab.rx[flowBd p.flow] p.src p.flow = some g)
    (hheld : g.held = []) : u.rxRelease p = u := by
  unfold State.rxRelease
  simp only [hg, hheld, List.find?_nil]

/-- A packet in order is performed on the state that it was fetched from, then counted toward its flow's acknowledgement. -/
theorem takePacket_inOrder (h : InOrder s q p f) {sel : Packet → Bool} (hsel : sel p = true)
    {perform : Packet → State → State} (hrx : (perform p (fetched s q p f)).fab.rx = (fetched s q p f).fab.rx) :
    Layered (perform p (fetched s q p f)) (takePacket q sel perform s) ∧ TookInOrder (takePacket q sel perform s) p f := by
  have haccept := rxAccept_inOrder h
  obtain ⟨⟨rest, hq⟩, hty, -, -, -, -, hmarks, hheld, hsrc, hflow⟩ := h
  have hhead : s.head q = some (p, false) := by rw [State.head, hq, List.head?_cons]
  have hfind : rxFind (perform p (fetched s q p f)).fab.rx[flowBd p.flow] p.src p.flow = some (nextFlow f) := by
    rw [hrx, ← hsrc]
    conv_lhs => arg 3; rw [← hflow]
    exact rxFind_putRx (s.popEject q) (flowBd p.flow) (nextFlow f)
  obtain ⟨hlay, n, hack⟩ := ackOne_facts hfind hsrc hflow
  have htake : takePacket q sel perform s = (perform p (fetched s q p f)).ackOne p := by
    unfold takePacket
    rw [hhead]
    simp only [hsel, hty, haccept, Bool.not_true, Bool.false_eq_true, if_false, if_true]
    exact rxRelease_of_none_held hack hheld
  rw [htake]
  exact ⟨hlay, _, hack, rfl, hmarks⟩

end Sys2Proof.Proofs.Arrivals
end

section
/-! PROOF. Cellar packets taken in order: digests, verdicts, line requests, lines, lists and done packets (R376, R380–R382,
R386, R388, R389, R393). -/

namespace Sys2Proof.Proofs.CellarArrivals

open Sys2Proof.Machine Sys2Proof.Claims Sys2Proof.Proofs.ByteFields Sys2Proof.Proofs.Registers Sys2Proof.Proofs.Setpoints
open Sys2Proof.Proofs.Payloads Sys2Proof.Proofs.MemoryAccess Sys2Proof.Proofs.Lines Sys2Proof.Proofs.Arrivals
open Sys2Proof.Proofs.Transfers Sys2Proof.Proofs.StepDigests

variable {s u : State} {q : Fin 9} {p : Packet} {f : RxFlow}

/-- A packet of the subtype that a command takes. -/
theorem cellarIs_of {sub : Nat} (hty : p.type = 0x0E) (hsub : fieldB p.payload 0 1 = sub) : cellarIs sub p = true := by
  simp [cellarIs, hty, hsub]

/-! ### Digests and verdicts -/

theorem takeWardDigest_held {b : List Byte} {src : Nat} (hd : s.dep.digest = none) (hh : s.dep.held = none)
    (hw : s.ward = some src) : takeWardDigest src b s =
      s.updDep (fun x => { x with held := some (fieldB b 4 4, sliceB b 16 64) }) := by
  unfold takeWardDigest
  rw [if_neg (by simp [hw])]
  simp only [hd, hh]

theorem takeWardDigest_late {b : List Byte} {src : Nat} {d : Digest} (hw : s.ward = some src) (hd : s.dep.digest = some d)
    (hk : d.kind = 0) (hlate : stepAfter d.step (fieldB b 4 4) = true) :
    takeWardDigest src b s = s.sendVerdict src (fieldB b 4 4) 4 := by
  unfold takeWardDigest
  rw [if_neg (by simp [hw])]
  simp only [hd]
  rw [if_pos ⟨hk, hlate⟩]

theorem takeWardDigest_stranger {b : List Byte} {src : Nat} (hw : s.ward ≠ some src) : takeWardDigest src b s = s := by
  unfold takeWardDigest
  rw [if_pos hw]

theorem tryEnd_of_no_mirror_verdict {d : Digest} (hd : s.dep.digest = some d) (hmv : d.mv = none) : s.tryEnd = s := by
  unfold State.tryEnd
  simp [hd, hmv]

theorem takeVerdict_taken {b : List Byte} {src : Nat} {d : Digest} (ht : s.dep.transfer = none) (hd : s.dep.digest = some d)
    (hk : d.kind = 0) (hstep : d.step = fieldB b 4 4) (hp : s.partner = some src) (hsent : d.sent = true) (hpv : d.pv = none)
    (hmv : d.mv = none) : takeVerdict src b s = s.putDigest { d with pv := some (fieldB b 8 1) } := by
  unfold takeVerdict
  simp only [ht, hd]
  rw [if_neg (by decide), if_pos ⟨hk, hstep, hp, hsent, hpv⟩]
  exact tryEnd_of_no_mirror_verdict (s := s.putDigest { d with pv := some (fieldB b 8 1) }) rfl hmv

/-! ### Requests for lines -/

theorem takeLineRequest_held {b : List Byte} {src : Nat} {r : Nat × Nat × Nat × Nat}
    (hr : r = (src, fieldB b 4 2 % 128, fld (fieldB b 6 1) 0 1, fieldB b 8 8 / 64 * 64)) (hready : s.lineReady r.2.2.1 = false) :
    takeLineRequest src b s = s.updDep (fun d => { d with heldReqs := d.heldReqs ++ [r] }) := by
  unfold takeLineRequest
  rw [← hr]
  exact if_neg (by simp [hready])

theorem takeLineRequest_answered {b : List Byte} {src base len off side : Nat} (hoff : off = fieldB b 8 8 / 64 * 64)
    (hside : side = fld (fieldB b 6 1) 0 1) (hready : s.lineReady side = true)
    (hreg : s.region (if side = 0 then 128 + fieldB b 4 2 % 128 else fieldB b 4 2 % 128) = some (base, len))
    (hlen : off + 64 ≤ len) : takeLineRequest src b s =
      s.sendLines [s.linesPacket src side (fieldB b 4 2 % 128) base off 1] := by
  have hlt : side < 2 := by rw [hside]; exact Nat.mod_lt _ (by decide)
  have hsame : (if side = 0 then 0 else 1) = side := by split <;> omega
  unfold takeLineRequest
  rw [← hoff, ← hside]
  dsimp only
  rw [if_pos hready, State.answerLine]
  simp only [hreg]
  rw [if_pos hlen, hsame]

/-- A packet of one line says what it is, whose it is, and the line. -/
theorem linesPacket_facts (dst side region base off : Nat) (hside : side < 2) :
    let u := s.linesPacket dst side region base off 1
    fieldB u.payload 0 1 = 3 ∧ fieldB u.payload 1 1 = 1 ∧ fieldB u.payload 2 2 = side ∧
      sliceB u.payload 64 64 = s.bytes (base + off) 64 := by
  intro u
  have h1 := length_natLE 1 1
  have h2 := length_natLE 2 side
  have h4 := length_natLE 4 region
  have h8 := length_natLE 8 off
  have hpay : u.payload = sliceB ([3] ++ (natLE 1 1 ++ (natLE 2 side ++ (natLE 4 region ++ (natLE 8 off ++ (zeroB 48 ++
      s.bytes (base + off) (64 * 1))))))) 0 256 := by
    simp only [u, State.linesPacket, State.mkPacket, List.append_assoc]
  rw [hpay]
  refine ⟨(fieldB_payload _ (by decide)).trans rfl, (fieldB_payload _ (by decide)).trans ?_,
    (fieldB_payload _ (by decide)).trans ?_, (sliceB_payload _ (by decide)).trans ?_⟩
  · rw [fieldB_append_right _ (by decide), fieldB_append_left _ (by rw [h1]; decide)]
    exact fieldB_natLE (n := 1) 1
  · rw [fieldB_append_right _ (by decide), fieldB_append_right _ (by rw [h1]; decide), fieldB_append_left _ (by rw [h1, h2]; decide)]
    simp only [h1, List.length_singleton]
    exact (fieldB_natLE (n := 2) side).trans (Nat.mod_eq_of_lt (by omega))
  · rw [sliceB_append_right _ (by decide), sliceB_append_right _ (by rw [h1]; decide), sliceB_append_right _ (by rw [h1, h2]; decide),
      sliceB_append_right _ (by rw [h1, h2, h4]; decide), sliceB_append_right _ (by rw [h1, h2, h4, h8]; decide),
      sliceB_append_right _ (by rw [h1, h2, h4, h8]; simp [zeroB])]
    simp only [h1, h2, h4, h8, zeroB, List.length_singleton, List.length_replicate]
    have hwhole := sliceB_whole (s.bytes (base + off) (64 * 1))
    simpa [State.bytes] using hwhole

/-! ### Lines -/

theorem takeLine_no_digest (hd : s.dep.digest = none) {side region off a : Nat} {line : List Byte} (hm : s.mapped a = true) :
    s.takeLine side region off a line false = s.writeLine a line := by
  unfold State.takeLine State.putChunk
  simp only [hd]
  rw [if_pos hm, if_neg (by decide)]

theorem wrote_dep {t : State} {a : Nat} {bs : List Byte} (h : Wrote s t a bs) : t.dep = s.dep := by
  obtain ⟨⟨m, p, rfl⟩, -⟩ := h
  rfl

/-- Lines that follow one another, each written whole. -/
theorem takeLines_wrote (hd : s.dep.digest = none) {side region off a : Nat} (b : List Byte) (ha : a % 64 = 0) (n : Nat)
    (hm : ∀ i < n, s.mapped (a + 64 * i) = true) :
    Wrote s ((List.range n).foldl (fun t i => t.takeLine side region (off + 64 * i) (a + 64 * i)
      (sliceB b (64 + 64 * i) 64) false) s) a (sliceB b 64 (64 * n)) := by
  induction n with
  | zero => exact Wrote.nil s a
  | succ n ih =>
    rw [List.range_succ, List.foldl_append, List.foldl_cons, List.foldl_nil]
    have hw := ih fun i hi => hm i (by omega)
    generalize (List.range n).foldl (fun t i => t.takeLine side region (off + 64 * i) (a + 64 * i)
      (sliceB b (64 + 64 * i) 64) false) s = t at hw ⊢
    have hmap : t.mapped (a + 64 * n) = true := by
      rw [State.mapped, hw.loc]
      exact hm n (by omega)
    rw [takeLine_no_digest (by rw [wrote_dep hw]; exact hd) hmap]
    have hjoin := hw.append (by rw [length_sliceB]) (wrote_line hmap (by omega) (length_sliceB b (64 + 64 * n) 64))
    have hsplit : sliceB b 64 (64 * (n + 1)) = sliceB b 64 (64 * n) ++ sliceB b (64 + 64 * n) 64 := by
      rw [sliceB, Nat.mul_succ, List.range_add, List.map_append, List.map_map]
      congr 1
    rwa [hsplit]

theorem sides_of_no_digest (hd : s.dep.digest = none) : s.sendPrimary.compareWard.tryEnd = s := by
  have hprim : s.sendPrimary = s := by
    unfold State.sendPrimary
    simp only [hd]
  have hward : s.compareWard = s := by
    unfold State.compareWard
    simp only [hd]
  have hend : s.tryEnd = s := by
    unfold State.tryEnd
    simp only [hd]
  rw [hprim, hward, hend]

/-- The state of a device that lines are being written to. -/
def receiving (s : State) : State := (s.updDep (fun d => { d with rxBusy := true })).orReg 0x7000 32

section
variable {n side region off base len : Nat} (hn : n = fieldB p.payload 1 1) (hside : side = fieldB p.payload 2 1)
  (hregion : region = fieldB p.payload 4 2) (hoff : off = fieldB p.payload 8 8) (hlt : region < 128) (hlt' : side < 2)
  (hreg : s.region (128 * side + region) = some (base, len))

include hn hside hregion hoff hlt hlt' hreg

/-- Lines of a device that may send them, within a valid region, are written there. -/
theorem takeLines_written (h1 : 1 ≤ n) (h3 : n ≤ 3) (ho : off % 64 = 0) (hbase : base % 64 = 0) (hlen : off + 64 * n ≤ len)
    (hd : s.dep.digest = none) (hpoison : p.poison = 0) (hwho : (if side = 0 then s.partner else s.ward) = some p.src)
    (hm : ∀ i < n, s.mapped (base + off + 64 * i) = true) :
    Wrote (receiving s) (takeLines p s) (base + off) (sliceB p.payload 64 (64 * n)) := by
  have hloc : (receiving s).loc = s.loc :=
    HomeLocations.loc_setReg (s.updDep _) (by unfold HomeLocations.LayoutReg; decide) _
  have hw := takeLines_wrote (s := receiving s) hd (side := side) (region := region) (off := off) p.payload
    (a := base + off) (by omega) n fun i hi => by
      rw [State.mapped, hloc]
      exact hm i hi
  have hmark (i : Nat) : bitAt p.poison (i + 1) = false := by rw [hpoison, bitAt_eq_testBit, Nat.zero_testBit]
  have hgo : takeLines p s = ((List.range n).foldl (fun t i => t.takeLine side region (off + 64 * i) (base + off + 64 * i)
      (sliceB p.payload (64 + 64 * i) 64) false) (receiving s)).sendPrimary.compareWard.tryEnd := by
    unfold takeLines
    simp only [← hn, ← hside, ← hregion, ← hoff]
    rw [if_pos ⟨hlt, hlt'⟩]
    simp only [hreg]
    rw [if_neg (by rintro (h | h | h | h | h); exacts [h hwho, by omega, by omega, h ho, by omega])]
    simp only [hd, Option.all_none, if_true, hmark]
    rfl
  rw [hgo, sides_of_no_digest (by rw [wrote_dep hw]; exact hd)]
  exact hw

theorem takeLines_stranger (hwho : (if side = 0 then s.partner else s.ward) ≠ some p.src) : takeLines p s = s.countReg 0x7060 1 := by
  unfold takeLines
  simp only [← hn, ← hside, ← hregion, ← hoff]
  rw [if_pos ⟨hlt, hlt'⟩]
  simp only [hreg]
  rw [if_pos (.inl hwho)]

end

/-! ### Lists and done packets -/

theorem takeDone0_from_partner {src : Nat} (hp : s.partner = some src) (hd : s.dep.digest = none) :
    takeDone0 src s = s.updDep (fun x => { x with listDone := true }) := by
  unfold takeDone0
  simp only [hd, Option.bind_none]
  rw [if_pos ⟨hp, .inl trivial⟩]

theorem takeDone0_from_ward {src : Nat} (hp : s.partner ≠ some src) (hw : s.ward = some src) (hreq : s.dep.heldReqs = []) :
    takeDone0 src s = s.updDep (fun x => { x with
      recvDone := true
      digest := x.digest.map (fun d => if d.kind = 0 ∧ d.mirr = none then { d with snapM := (s.digestOf 1).1 } else d)
      heldReqs := [] }) := by
  unfold takeDone0
  dsimp only
  rw [if_neg (fun h => hp h.1), if_pos hw]
  simp [State.answerHeld, State.updDep, hreq]

theorem trigger_begins {kind step sender : Nat} {carried : List Byte} (hd : s.dep.digest = none) (hq : s.dep.queued = none) :
    s.trigger kind step sender carried = s.beginDigest kind step sender carried s.time := by
  unfold State.trigger
  rw [hd, hq]

theorem beginDigest_fab {kind step sender start : Nat} {carried : List Byte} (hk : kind ≠ 0) :
    (s.beginDigest kind step sender carried start).fab = s.fab := by
  unfold State.beginDigest
  dsimp only
  rw [if_neg (fun h => hk h.1), if_pos hk]
  rfl

/-- A packet in order, with the state that performing it leaves. -/
theorem took (h : InOrder s q p f) {sel : Packet → Bool} (hsel : sel p = true) {perform : Packet → State → State} {v : State}
    (hv : perform p (fetched s q p f) = v) (hrx : v.fab.rx = (fetched s q p f).fab.rx) :
    Layered v (takePacket q sel perform s) ∧ TookInOrder (takePacket q sel perform s) p f := by
  subst hv
  exact takePacket_inOrder h hsel hrx

theorem sentOne_of_layered {t : State} {dst flow : Nat} {x : Packet} (h : Layered s t) (hs : SentOne s dst flow x) :
    SentOne t dst flow x := by
  obtain ⟨rx, ej, inj, rfl⟩ := h
  exact sentOne_congr hs rfl

/-- Settles O43: each packet as its layer takes it in order, through what performing it does. -/
theorem cellarPackets : Obligations.CellarPackets := by
  intro s q p f h hty b
  let u := fetched s q p f
  refine ⟨fun hsub hd hh hw => ?held, fun d hsub hw hd hk hlate hroom => ?late, fun hsub hw => ?stranger,
    fun d hsub ht hd hk hstep hp hsent hpv hmv => ?verdict, fun r hsub hr hready => ?request,
    fun off side base len fl hsub hoff hside hready hreg hlen hfl hroom => ?answer,
    fun n side region off base len hsub hn hside hregion hoff hlt hlt' hreg =>
      ⟨fun h1 h3 ho hbase hlen hd hpoison hwho hm => ?lines, fun hwho => ?other⟩,
    fun hsub hp => ?list, fun hsub hkind => ⟨fun hp hd => ?done, fun hp hw hreq => ?doneWard⟩,
    fun r hr hsub hkind hd hq => ?transfer⟩
  case held =>
    obtain ⟨⟨rx, ej, inj, ht⟩, htook⟩ := took h (cellarIs_of hty hsub)
      (perform := fun p s => takeWardDigest p.src p.payload s) (takeWardDigest_held (s := u) hd hh hw) rfl
    exact ⟨_, rfl, htook, by rw [ht]; rfl, by rw [ht]; rfl⟩
  case late =>
    obtain ⟨w, hone, hfields⟩ := sentOne_sendVerdict (s := u) (step := fieldB b 4 4) (v := 4) hroom
    obtain ⟨g, hg⟩ := u.sendFlow_rest (u.cellarPacket p.src (verdictPayload (fieldB b 4 4) 4) 9) .none
    obtain ⟨hlay, htook⟩ := took h (cellarIs_of hty hsub) (perform := fun p s => takeWardDigest p.src p.payload s)
      (takeWardDigest_late (s := u) hw hd hk hlate) (sendFlow_rx ..)
    have hone' := sentOne_of_layered hlay hone
    obtain ⟨rx, ej, inj, ht⟩ := hlay
    refine ⟨_, w, rfl, htook, ?_, ?_, hone', hfields.1, hfields.2.1.trans (Nat.mod_eq_of_lt (fieldB_lt _ _ _)), hfields.2.2⟩
    · rw [ht, State.sendVerdict, hg]; rfl
    · rw [ht, State.sendVerdict, hg]; rfl
  case stranger =>
    obtain ⟨⟨rx, ej, inj, ht⟩, htook⟩ := took h (cellarIs_of hty hsub)
      (perform := fun p s => takeWardDigest p.src p.payload s) (takeWardDigest_stranger (s := u) hw) rfl
    exact ⟨_, rfl, htook, by rw [ht]; rfl, by rw [ht]; rfl⟩
  case verdict =>
    obtain ⟨⟨rx, ej, inj, ht'⟩, htook⟩ := took h (cellarIs_of hty hsub) (perform := fun p s => takeVerdict p.src p.payload s)
      (takeVerdict_taken (s := u) ht hd hk hstep hp hsent hpv hmv) rfl
    exact ⟨_, rfl, htook, by rw [ht']; rfl, by rw [ht']; rfl⟩
  case request =>
    obtain ⟨⟨rx, ej, inj, ht⟩, htook⟩ := took h (cellarIs_of hty hsub) (perform := fun p s => takeLineRequest p.src p.payload s)
      (takeLineRequest_held (s := u) hr hready) rfl
    exact ⟨_, rfl, htook, by rw [ht]; rfl, by rw [ht]; rfl⟩
  case answer =>
    let v := u.updDep (fun d => { d with lines := d.lines + 1 })
    let pk := u.linesPacket p.src side (fieldB b 4 2 % 128) base off 1
    have hdst : pk.dst = p.src := Nat.mod_eq_of_lt hroom.2.2.2
    have hflow : pk.flow = fl := hfl.symm
    have hone := sentOne_sendFlow (s := v) (p := pk) (by rw [hdst, hflow]; exact hroom) (.cellar 0)
    rw [hdst, hflow] at hone
    obtain ⟨g, hg⟩ := v.sendFlow_rest pk (.cellar 0)
    obtain ⟨hlay, htook⟩ := took h (cellarIs_of hty hsub) (perform := fun p s => takeLineRequest p.src p.payload s)
      (v := v.sendFlow pk (.cellar 0)) (takeLineRequest_answered (s := u) hoff hside hready hreg hlen) (sendFlow_rx ..)
    have hone' := sentOne_of_layered hlay hone
    obtain ⟨rx, ej, inj, ht⟩ := hlay
    have hlt : side < 2 := by rw [hside]; exact Nat.mod_lt _ (by decide)
    obtain ⟨h3, h1, h2, hline⟩ := linesPacket_facts (s := u) p.src side (fieldB b 4 2 % 128) base off hlt
    refine ⟨_, _, rfl, htook, ?_, ?_, hone', rfl, h3, h1, h2, hline⟩
    · rw [ht, hg]; rfl
    · rw [ht, hg]; rfl
  case lines =>
    have hm' (i : Nat) (hi : i < n) : u.mapped (base + off + 64 * i) = true := by
      have hall := List.all_eq_true.mp hm i (List.mem_range.mpr (by omega))
      rwa [show (base + off) / 64 * 64 = base + off by omega] at hall
    have hw := takeLines_written (s := u) hn hside hregion hoff hlt hlt' hreg h1 h3 ho hbase hlen hd hpoison hwho hm'
    obtain ⟨m, po, hv⟩ := hw.1
    obtain ⟨⟨rx, ej, inj, ht⟩, htook⟩ := took h (cellarIs_of hty hsub) (perform := takeLines) (v := takeLines p u) rfl (by rw [hv]; rfl)
    have hbytes := hw.bytes_eq
    have honly := hw.onlyBytes
    rw [length_sliceB] at hbytes honly
    have hbyte : (takePacket q (cellarIs 3) takeLines s).byte = (takeLines p u).byte := by rw [ht]; rfl
    have hsame : (receiving u).byte = s.byte :=
      byte_setReg (u.updDep _) (by unfold HomeLocations.LayoutReg; decide) _
    refine ⟨_, rfl, htook, ?_, fun x hx => ?_, ?_, ?_⟩
    · exact (bytes_congr fun x _ _ => congrFun hbyte x).trans hbytes
    · rw [hbyte, honly x hx, hsame]
    · rw [ht, hv]; rfl
    · rw [ht, hv]
      exact bitAt_orReg (s := u.updDep (fun d => { d with rxBusy := true })) (by decide) (by decide)
  case other =>
    obtain ⟨⟨rx, ej, inj, ht⟩, htook⟩ := took h (cellarIs_of hty hsub) (perform := takeLines)
      (takeLines_stranger (s := u) hn hside hregion hoff hlt hlt' hreg hwho) rfl
    refine ⟨_, rfl, htook, by rw [ht]; rfl, by rw [ht]; rfl, ?_⟩
    rw [ht]
    exact reg_countReg_self u 1
  case list =>
    have hsel : (p.type == 0x0E && decide (5 ≤ fieldB p.payload 0 1)) = true := by
      simp [hty, show fieldB p.payload 0 1 = 5 from hsub]
    have hv : (if fieldB p.payload 0 1 = 5 then takeDirectList p.src p.payload u else u) =
        u.updDep (fun d => { d with ranges := d.ranges ++ (List.range (min 15 (fieldB b 1 1))).map (fun i =>
          (fieldB b (16 + 16 * i + 5) 1, fieldB b (16 + 16 * i) 5, fieldB b (16 + 16 * i + 8) 4)) }) := by
      have hp' : ¬u.partner ≠ some p.src := not_not.mpr hp
      rw [if_pos hsub, takeDirectList, if_neg hp']
    obtain ⟨⟨rx, ej, inj, ht⟩, htook⟩ := took h (sel := fun p => p.type == 0x0E && decide (5 ≤ fieldB p.payload 0 1)) hsel
      (perform := fun p s => if fieldB p.payload 0 1 = 5 then takeDirectList p.src p.payload s else s) hv rfl
    exact ⟨_, rfl, htook, by rw [ht]; rfl, by rw [ht]; rfl⟩
  case done =>
    have hsel : (cellarIs 4 p && !doneIs 1 p && !doneIs 2 p) = true := by
      simp [cellarIs, doneIs, hty, show fieldB p.payload 0 1 = 4 from hsub, show fieldB p.payload 1 1 = 0 from hkind]
    have h0 : doneIs 0 p = true := by
      simp [cellarIs, doneIs, hty, show fieldB p.payload 0 1 = 4 from hsub, show fieldB p.payload 1 1 = 0 from hkind]
    obtain ⟨⟨rx, ej, inj, ht⟩, htook⟩ := took h (sel := fun p => cellarIs 4 p && !doneIs 1 p && !doneIs 2 p) hsel
      (perform := fun p s => if doneIs 0 p then takeDone0 p.src s else s)
      ((if_pos h0).trans (takeDone0_from_partner (s := u) hp hd)) rfl
    exact ⟨_, rfl, htook, by rw [ht]; rfl, by rw [ht]; rfl⟩
  case doneWard =>
    have hsel : (cellarIs 4 p && !doneIs 1 p && !doneIs 2 p) = true := by
      simp [cellarIs, doneIs, hty, show fieldB p.payload 0 1 = 4 from hsub, show fieldB p.payload 1 1 = 0 from hkind]
    have h0 : doneIs 0 p = true := by
      simp [cellarIs, doneIs, hty, show fieldB p.payload 0 1 = 4 from hsub, show fieldB p.payload 1 1 = 0 from hkind]
    obtain ⟨⟨rx, ej, inj, ht⟩, htook⟩ := took h (sel := fun p => cellarIs 4 p && !doneIs 1 p && !doneIs 2 p) hsel
      (perform := fun p s => if doneIs 0 p then takeDone0 p.src s else s)
      ((if_pos h0).trans (takeDone0_from_ward (s := u) hp hw hreq)) rfl
    exact ⟨_, rfl, htook, by rw [ht]; rfl, by rw [ht]; rfl, by rw [ht]; rfl, by rw [ht]; rfl, by rw [ht]; rfl, by rw [ht]; rfl⟩
  case transfer =>
    have hdone : doneIs r.2 p = true := by
      simp [cellarIs, doneIs, hty, show fieldB p.payload 0 1 = 4 from hsub, show fieldB p.payload 1 1 = r.2 from hkind]
    have hrow : r.2 ≠ 0 ∧ exec r.1 s = .next (takePacket q (doneIs r.2) (takeDone r.2) s) := by
      simp only [List.mem_cons, List.not_mem_nil, or_false] at hr
      rcases hr with rfl | rfl <;> exact ⟨by norm_num, rfl⟩
    obtain ⟨hk, hexec⟩ := hrow
    obtain ⟨e, he, hkind', hstep, hwho, hcarried, -, -, -, -, -, hmem⟩ :=
      beginDigest_facts (s := u) (kind := r.2) (step := fieldB b 4 4) (sender := p.src) (carried := sliceB b 16 64)
        (start := u.time) (fun h0 => absurd h0 hk)
    obtain ⟨⟨rx, ej, inj, ht⟩, htook⟩ := took h hdone (perform := takeDone r.2) (trigger_begins (s := u) hd hq)
      (by rw [beginDigest_fab hk])
    refine ⟨_, e, hexec, htook, ?_, ?_, hkind', hstep, hwho, hcarried⟩
    · rw [ht]; exact hmem
    · rw [ht]; exact he

end Sys2Proof.Proofs.CellarArrivals
end

section
/-! PROOF. Dies and the device lost: what fencing leaves, and what reports it (R20–R22, R395, Tables 1-7 and 11-3). -/

namespace Sys2Proof.Proofs.Fences

open Sys2Proof.Claims hiding holding
open Sys2Proof.Machine Sys2Proof.Proofs.ByteFields Sys2Proof.Proofs.Registers Sys2Proof.Proofs.Setpoints
open Sys2Proof.Proofs.TileEntries Sys2Proof.Proofs.Ports

variable {s t u : State} {cd : Cd}

/-! ### What operations in flight leave behind -/

/-- A state that differs in memory, what was emitted and what is left to chance alone. -/
def LeftBehind (s t : State) : Prop := ∃ m p o c, t = { s with mem := m, poison := p, out := o, freeCtr := c }

theorem LeftBehind.refl (s : State) : LeftBehind s s := ⟨_, _, _, _, rfl⟩

theorem LeftBehind.trans (h : LeftBehind s t) (h' : LeftBehind t u) : LeftBehind s u := by
  obtain ⟨m, p, o, c, rfl⟩ := h
  obtain ⟨m', p', o', c', rfl⟩ := h'
  exact ⟨m', p', o', c', rfl⟩

theorem LeftBehind.foldl {α : Type} {f : State → α → State} (hf : ∀ t x, LeftBehind t (f t x)) (l : List α) (s : State) :
    LeftBehind s (l.foldl f s) := by
  induction l generalizing s with
  | nil => exact .refl s
  | cons x l ih => exact (hf s x).trans (ih _)

theorem LeftBehind.ite {c : Prop} [Decidable c] (ht : LeftBehind s t) (hu : LeftBehind s u) : LeftBehind s (if c then t else u) := by
  split
  · exact ht
  · exact hu

theorem leftBehind_write (s : State) (a : Nat) (bs : List Byte) : LeftBehind s (s.write a bs) := by
  obtain ⟨m, p, h⟩ := s.write_rest a bs
  exact ⟨m, p, _, _, h⟩

theorem leftBehind_emit (s : State) (e : Emit) : LeftBehind s (s.emit e) := ⟨s.mem, s.poison, _, s.freeCtr, rfl⟩

theorem leftBehind_freeChoice (s : State) : LeftBehind s s.freeChoice.2 := ⟨s.mem, s.poison, s.out, _, rfl⟩

theorem leftBehind_freeBytes (s : State) (n : Nat) : LeftBehind s (s.freeBytes n).2 := ⟨s.mem, s.poison, s.out, _, rfl⟩

theorem leftBehind_freeRange (s : State) (a n : Nat) : LeftBehind s (s.freeRange a n) :=
  (leftBehind_freeBytes s n).trans (leftBehind_write _ _ _)

theorem leftBehind_putChunk (s : State) (wins : List Nat) (a : Nat) (bs : List Byte) (mark : Bool) :
    LeftBehind s (s.putChunk wins a bs mark).1 := by
  unfold State.putChunk
  split
  · split
    · unfold State.poisonLine
      split
      · exact .refl s
      · exact ⟨s.mem, _, s.out, s.freeCtr, rfl⟩
    · obtain ⟨m, p, h⟩ := s.writeLine_rest a bs
      exact ⟨m, p, _, _, h⟩
  · split
    · exact leftBehind_emit ..
    · exact .refl s

theorem leftBehind_maybeLines (s : State) (wins : List Nat) (src dst n k : Nat) : LeftBehind s (s.maybeLines wins src dst n k) := by
  induction k generalizing s src dst n with
  | zero => exact .refl s
  | succ k ih =>
    unfold State.maybeLines
    extract_lets c x y bs v
    split
    · exact .refl s
    · have hy : LeftBehind s y.2 := (leftBehind_freeChoice s).trans (leftBehind_freeBytes _ _)
      have hv : LeftBehind s v := .ite (hy.trans (leftBehind_putChunk ..)) hy
      exact hv.trans (ih ..)

theorem leftBehind_maybeOp (cd : Cd) (s : State) (o : Op) : LeftBehind s (s.maybeOp cd o) := by
  unfold State.maybeOp
  refine .ite (.refl s) (.ite (.foldl (fun t r => leftBehind_maybeLines ..) _ s) (.ite (.foldl (fun t i => ?_) _ s)
    (.ite ?_ (.refl s))))
  · exact .trans (leftBehind_freeRange ..) (.ite (leftBehind_freeRange ..) (.refl _))
  · unfold State.maybeVec
    exact .ite (.refl s) (.foldl (fun t r => leftBehind_freeRange ..) _ s)

theorem leftBehind_maybeStore (s : State) (cd : Cd) : LeftBehind s (s.maybeStore cd) := by
  unfold State.maybeStore
  split
  · refine .ite (.refl s) ?_
    extract_lets bs x
    have hx : LeftBehind s x.2 := leftBehind_freeChoice s
    refine .ite (.ite (hx.trans (leftBehind_write ..)) ?_) hx
    split
    · exact hx.trans (leftBehind_emit ..)
    · exact hx
  · exact .refl s

theorem leftBehind_maybeAtomics (cd : Nat) (l : List HomeReq) (s : State) : LeftBehind s (s.maybeAtomics cd l).1 := by
  induction l generalizing s with
  | nil => exact .refl s
  | cons r l ih =>
    unfold State.maybeAtomics
    extract_lets mine x y
    have hx : LeftBehind s x.2 := by
      unfold x
      split
      · exact leftBehind_freeChoice s
      · exact .refl s
    exact hx.trans (ih x.2)

/-! ### The counters -/

/-- A completion raises the counter that its operation names, by 1. -/
theorem count_finish (d : Die) (o : Op) (status : Nat) (c : Fin 16) : ((d.finish o status).cnt[c]).count =
    d.cnt[c].count + BitVec.ofNat 32 (if o.ctr.any (fun k => k % 16 == c.val) then 1 else 0) := by
  have hcnt : (d.finish o status).cnt = match o.ctr with
      | some k => d.cnt.set (k % 16) (countOne (d.cnt[k % 16]'(Nat.mod_lt _ (by decide))) status o.cls o.unit)
          (Nat.mod_lt _ (by decide))
      | none => d.cnt := by
    unfold Die.finish
    cases o.ctr <;> dsimp only <;> split <;> simp
  rw [hcnt]
  cases o.ctr with
  | none => simp
  | some k =>
    by_cases hk : k % 16 = c.val
    · simp [hk]
    · simp [hk, Vector.getElem_set_ne]

theorem count_finishAll (l : List Op) (d : Die) (c : Fin 16) : ((l.foldl (fun e o => e.finish o 6) d).cnt[c]).count =
    d.cnt[c].count + BitVec.ofNat 32 (l.filter (fun o => o.ctr.any (fun k => k % 16 == c.val))).length := by
  induction l generalizing d with
  | nil => simp
  | cons o l ih =>
    rw [List.foldl_cons, ih, count_finish, List.filter_cons, add_assoc, ← BitVec.ofNat_add]
    split <;> simp [add_comm]

/-! ### The fence -/

/-- A state whose time is the same, whose host's side discards nothing more, and whose dies differ in their scoreboards alone. -/
structure Reported (s t : State) : Prop where
  time : t.time = s.time
  resetting : t.host.resetting = s.host.resetting
  dies : ∀ c : Cd, t.die c = { s.die c with sb := (t.die c).sb }

theorem Reported.of_dies (ht : t.time = s.time) (hr : t.host.resetting = s.host.resetting) (hd : t.dies = s.dies) : Reported s t :=
  ⟨ht, hr, fun c => by rw [State.die_of_dies hd c]⟩

theorem Reported.refl (s : State) : Reported s s := .of_dies rfl rfl rfl

theorem Reported.trans (h : Reported s t) (h' : Reported t u) : Reported s u :=
  ⟨h'.time.trans h.time, h'.resetting.trans h.resetting, fun c => (h'.dies c).trans (by rw [h.dies c])⟩

theorem Reported.foldl {α : Type} {f : State → α → State} (hf : ∀ t x, Reported t (f t x)) (l : List α) (s : State) :
    Reported s (l.foldl f s) := by
  induction l generalizing s with
  | nil => exact .refl s
  | cons x l ih => exact (hf s x).trans (ih _)

theorem reported_of_leftBehind (h : LeftBehind s t) : Reported s t := by
  obtain ⟨m, p, o, c, rfl⟩ := h
  exact .of_dies rfl rfl rfl

theorem reported_sbDrop (s : State) (who : Nat) : Reported s (s.sbDrop who) :=
  ⟨rfl, rfl, fun c => by rw [die_sbDrop]⟩

theorem reported_complete (s : State) (src : Nat) (c : Cmd) (status x1 x2 : Nat) : Reported s (s.complete src c status x1 x2) := by
  obtain ⟨q, k, h⟩ := s.complete_rest src c status x1 x2
  rw [h]
  exact .of_dies rfl rfl rfl

/-- The state before the die itself goes off: its operations ended, its commands completed. -/
def settled (s : State) (cd : Cd) : State :=
  let mine := (s.die cd).ops.filter (fun o => !o.accepted)
  let u := (mine.foldl (State.maybeOp cd) s).maybeStore cd
  let h := u.maybeAtomics cd.val u.homeQ
  let u := { h.1 with homeQ := h.2, replies := h.1.replies.filter (fun r => r.1 != cd.val) }
  let u := (mine.foldl (fun t o => t.sbDrop (whoMove cd.val o.id)) u).sbDrop (whoAccess cd.val)
  let u := match (s.die cd).startCmd with | some c => u.complete (1 + cd.val) c 6 3 0 | none => u
  (s.die cd).stopCmds.foldl (fun t c => t.complete (1 + cd.val) c 6 0 0) u

theorem reported_settled (s : State) (cd : Cd) : Reported s (settled s cd) := by
  unfold settled
  extract_lets mine u1 h v1 u2 u3 u4
  have h1 : Reported s u1 :=
    reported_of_leftBehind (.trans (.foldl (fun t o => leftBehind_maybeOp cd t o) _ s) (leftBehind_maybeStore _ cd))
  have h2 : Reported u1 u2 := by
    have hr := reported_of_leftBehind (leftBehind_maybeAtomics cd.val u1.homeQ u1)
    exact ⟨hr.time, hr.resetting, hr.dies⟩
  have h3 : Reported u2 u3 := .trans (.foldl (fun t o => reported_sbDrop t _) _ _) (reported_sbDrop _ _)
  have h4 : Reported u3 u4 := by
    unfold u4
    split
    · exact reported_complete ..
    · exact .refl _
  exact ((h1.trans h2).trans (h3.trans h4)).trans (.foldl (fun t c => reported_complete ..) _ _)

/-- The die as its fence leaves it. -/
def dead (d : Die) : Die := ((d.ops.filter (fun o => !o.accepted)).foldl (fun e o => e.finish o 6) d).off

/-- The boundary's flits are discarded. -/
def cutOff (s : State) (cd : Cd) : State :=
  let u := s.setHafDie cd.val { s.hafDie cd.val with state := 4 }
  { u with haf := { u.haf with bundles := u.haf.bundles.filter (fun b => b.1 / 8192 != cd.val) } }

theorem fence_eq {cause : Nat} (h : (s.die cd).mode ≠ .fenced) : s.fence cd cause =
    (((cutOff ((settled s cd).setDie cd (dead (s.die cd))) cd).depStatus (1 + 2 ^ (8 + cd.val))).log 12 0 cd.val 0xFF cause 0).event
      0x0007 32 [(16, 1, cd.val), (17, 1, cause)] := by
  unfold State.fence
  exact if_neg h

theorem fence_of_fenced {cause : Nat} (h : (s.die cd).mode = .fenced) : s.fence cd cause = s := by
  unfold State.fence
  exact if_pos h

/-- The event of what is lost (Table 10-12). -/
def lossEntry (time die cause : Nat) : Entry :=
  ⟨32, none, true, eventBytes 7 32 time [(16, 1, die), (17, 1, cause)], false, 0, none⟩

theorem lossEntry_facts (time : Nat) {die cause : Nat} (hd : die < 256) (hc : cause < 256) :
    IsEvent (lossEntry time die cause) 7 32 time ∧ fieldB (lossEntry time die cause).bytes 16 1 = die ∧
      fieldB (lossEntry time die cause).bytes 17 1 = cause := by
  have hfits : PayloadFits [(16, 1, die), (17, 1, cause)] := by simp [PayloadFits, Apart]
  refine ⟨isEvent_eventBytes hfits .., ?_, ?_⟩
  · exact (fieldB_eventBytes hfits _ _ _ (by simp [eventFields])).trans (Nat.mod_eq_of_lt hd)
  · exact (fieldB_eventBytes hfits _ _ _ (by simp [eventFields])).trans (Nat.mod_eq_of_lt hc)

theorem statusBits : ∀ cd : Cd, (1 + 2 ^ (8 + cd.val)).testBit 0 = true ∧ (1 + 2 ^ (8 + cd.val)).testBit (8 + cd.val) = true := by
  decide

theorem fencedBy_fence {cause : Nat} (h : (s.die cd).mode ≠ .fenced) (hc : cause < 256) : FencedBy s (s.fence cd cause) cd cause := by
  have hset := reported_settled s cd
  let u := cutOff ((settled s cd).setDie cd (dead (s.die cd))) cd
  have hend : s.fence cd cause = { (u.depStatus (1 + 2 ^ (8 + cd.val))).log 12 0 cd.val 0xFF cause 0 with
      host := ByteFields.holding u.host (lossEntry u.time cd.val cause) } := by
    rw [fence_eq h, event_eq, log_eq, depStatus_eq]
    rfl
  have hdie (c : Cd) : (s.fence cd cause).die c = ((settled s cd).setDie cd (dead (s.die cd))).die c := by
    rw [hend, log_eq, depStatus_eq]
    rfl
  have hself : (s.fence cd cause).die cd = dead (s.die cd) := by rw [hdie, State.die_setDie_self]
  have hbit (i : Nat) (hi : i < 32) (hm : (1 + 2 ^ (8 + cd.val)).testBit i = true) :
      bitAt ((s.fence cd cause).reg 0x7000) i = true := by
    have hreg : (s.fence cd cause).reg 0x7000 = ((u.depStatus (1 + 2 ^ (8 + cd.val))).log 12 0 cd.val 0xFF cause 0).reg 0x7000 := by
      rw [hend]
      rfl
    rw [hreg, reg_log_ne _ _ _ _ _ _ _ (by decide) (by decide), bitAt_eq_testBit, testBit_depStatus _ _ hi, hm, Bool.or_true]
  obtain ⟨hdegraded, hnamed⟩ := statusBits cd
  refine ⟨by rw [hself]; rfl, by rw [hself]; rfl, by rw [hself]; rfl, by rw [hself]; rfl, by rw [hself]; rfl, fun c => ?_,
    hbit 0 (by decide) hdegraded, hbit _ (by omega) hnamed, fun o ho => ?_, fun hr => ?_⟩
  · rw [hself]
    refine (count_finishAll _ (s.die cd) c).trans ?_
    rw [endedOn, List.filter_filter]
    simp only [Bool.and_comm]
  · rw [hdie, State.die_setDie_ne _ _ ho]
    exact hset.dies o
  · obtain ⟨hev, hdie', hcause⟩ := lossEntry_facts s.time (die := cd.val) (by omega) hc
    have htime : u.time = s.time := hset.time
    refine ⟨_, ?_, hev, hdie', hcause⟩
    rw [hend, ← htime]
    show _ ∈ (ByteFields.holding u.host (lossEntry u.time cd.val cause)).heldQ
    have hres : u.host.resetting = 0 := hset.resetting.trans hr
    rw [holding_heldQ hres]
    simp

/-! ### Link dies and the device -/

/-- The boundary of a link die as its fence leaves it. -/
def cutLink (s : State) (k : Nat) : State :=
  let u := s.setHafDie (80 + k) { s.hafDie (80 + k) with state := 4 }
  { u with haf := { u.haf with bundles := u.haf.bundles.filter (fun b => b.1 / 8192 != 80 + k) } }

theorem fenceLink_eq {k cause : Nat} (h : (s.hafDie (80 + k)).state ≠ 4) : s.fenceLink k cause =
    ((cutLink s k).portDown (portOf k) 2).event 0x0007 32 [(16, 1, 80 + k), (17, 1, cause)] := by
  unfold State.fenceLink
  exact if_neg h

/-- The loss of a port touches no boundary, no die and no time, and adds to what is held for the host. -/
theorem portDown_rest (s : State) (p : Port) (cause : Nat) : (s.portDown p cause).haf = s.haf ∧
    (s.portDown p cause).dies = s.dies ∧ (s.portDown p cause).time = s.time ∧
    (s.portDown p cause).host.resetting = s.host.resetting := by
  obtain ⟨r, h1⟩ := State.depStatus_rest ((((s.setPort p { (s.port p).enter 8 with downs := (s.port p).downs + 1 }).fabEvent 4
    p.val).log 10 4 p.val p.val cause 0)) 1
  have hdown : s.portDown p cause = _ := h1
  obtain ⟨hq, r', o, h2⟩ := State.fabEvent_rest (s.setPort p { (s.port p).enter 8 with downs := (s.port p).downs + 1 }) 4 p.val
  rw [hdown, log_eq, h2]
  exact ⟨rfl, rfl, rfl, rfl⟩

theorem linkLost {p : Port} (hf : (s.hafDie (80 + p.val)).state ≠ 4) :
    let t := s.fenceLink p.val 0
    (t.hafDie (80 + p.val)).state = 4 ∧ t.fab.ports[p].state = 8 ∧ bitAt (t.reg 0x4014) 2 = true ∧
      bitAt (t.reg 0x7000) 0 = true ∧ t.mem = s.mem ∧ t.dies = s.dies ∧
      (s.host.resetting = 0 → ∃ e ∈ t.host.heldQ, IsEvent e 0x0007 32 s.time ∧ fieldB e.bytes 16 1 = 80 + p.val ∧
        fieldB e.bytes 17 1 = 0) := by
  intro t
  have hp : portOf p.val = p := Fin.ext (Nat.mod_eq_of_lt p.isLt)
  let u := (cutLink s p.val).portDown p 2
  have ht : t = { u with host := ByteFields.holding u.host (lossEntry u.time (80 + p.val) 0) } := by
    rw [show t = s.fenceLink p.val 0 from rfl, fenceLink_eq hf, hp, event_eq]
    rfl
  have hlost := lost_portDown (s := cutLink s p.val) (p := p) 2
  obtain ⟨hhaf, hdies, htime, hres⟩ := portDown_rest (cutLink s p.val) p 2
  rw [ht]
  refine ⟨?_, ?_, hlost.event, hlost.degraded, hlost.mem, hdies, fun hr => ?_⟩
  · have hdie : u.hafDie (80 + p.val) = (s.setHafDie (80 + p.val) { s.hafDie (80 + p.val) with state := 4 }).hafDie (80 + p.val) := by
      rw [State.hafDie, hhaf]
      rfl
    exact (congrArg HafDie.state hdie).trans (by rw [State.hafDie_setHafDie_self])
  · exact congrArg PortSt.state hlost.port
  · obtain ⟨hev, hdie, hcause⟩ := lossEntry_facts s.time (die := 80 + p.val) (cause := 0) (by omega) (by decide)
    have htime' : u.time = s.time := htime
    have hres' : u.host.resetting = 0 := hres.trans hr
    refine ⟨_, ?_, hev, hdie, hcause⟩
    rw [← htime']
    show _ ∈ (ByteFields.holding u.host (lossEntry u.time (80 + p.val) 0)).heldQ
    rw [holding_heldQ hres']
    simp

theorem deviceLost {n : Nat} (hn : n < 256) (hr : s.host.resetting = 0) :
    let t := s.deviceLoss n 0
    ∃ e, t.boot.failed = true ∧ t.host.heldQ = s.host.heldQ ++ [e] ∧ IsEvent e 0x0007 32 s.time ∧ fieldB e.bytes 16 1 = n ∧
      t.mem = s.mem ∧ (∀ a, t.loc a = none) ∧ (∀ cd : Cd, (t.die cd).mode = .fenced) ∧ (∀ p : Port, t.fab.ports[p].state = 8) := by
  intro t
  have ht : t = State.deviceFail { s with host := ByteFields.holding s.host (lossEntry s.time n 0) } := by
    rw [show t = s.deviceLoss n 0 from rfl, State.deviceLoss, event_eq]
    rfl
  obtain ⟨hev, hdie, -⟩ := lossEntry_facts s.time (die := n) (cause := 0) hn (by decide)
  refine ⟨_, by rw [ht]; rfl, ?_, hev, hdie, by rw [ht]; rfl, fun a => ?_, fun cd => ?_, fun p => ?_⟩
  · rw [ht]
    exact holding_heldQ hr _
  · rw [ht]
    exact if_pos rfl
  · rw [ht]
    simp [State.die, State.deviceFail, Die.off]
  · rw [ht]
    simp [State.deviceFail]

/-! ### The commands -/

theorem computeDieReset_gives (hready : s.ready = true) : exec (.computeDieReset cd) s = .next (s.fence cd 1) :=
  congrArg Host.Outcome.next (if_pos hready)

section
variable (hready : s.ready = true) (hf : s.boot.failed = false)
include hready hf

theorem clockLoss_compute : exec (.clockLoss cd.val) s = .next (s.fence cd 0) := by
  refine congrArg Host.Outcome.next ?_
  unfold clockLoss
  rw [if_neg (by simp [hready, hf]), dif_pos cd.isLt]

theorem clockLoss_link (p : Port) : exec (.clockLoss (80 + p.val)) s = .next (s.fenceLink p.val 0) := by
  refine congrArg Host.Outcome.next ?_
  unfold clockLoss
  rw [if_neg (by simp [hready, hf]), dif_neg (by omega), if_neg (by omega), if_pos (by omega), Nat.add_sub_cancel_left]

theorem clockLoss_base {n : Nat} (h12 : 12 ≤ n) (h80 : n < 80) : exec (.clockLoss n) s = .next (s.deviceLoss n 0) := by
  refine congrArg Host.Outcome.next ?_
  unfold clockLoss
  rw [if_neg (by simp [hready, hf]), dif_neg (by omega), if_pos h80]

end

theorem clockLoss_failed {n : Nat} (hf : s.boot.failed = true) : exec (.clockLoss n) s = .next s :=
  congrArg Host.Outcome.next (if_pos (.inr hf))

/-- Settles O45: each die's loss through what fences it. -/
theorem diesFenced : Obligations.DiesFenced := by
  intro s hready
  refine ⟨fun cd hmode => ⟨?reset, fun hf => ?clock⟩, fun cd hmode => ⟨?resetAgain, ?clockAgain⟩, fun p hf hstate => ?link,
    fun n hf h12 h80 hr => ?device, fun n hf => clockLoss_failed hf⟩
  case reset => exact ⟨_, computeDieReset_gives hready, fencedBy_fence hmode (by decide)⟩
  case clock => exact ⟨_, clockLoss_compute hready hf, fencedBy_fence hmode (by decide)⟩
  case resetAgain => exact (computeDieReset_gives hready).trans (by rw [fence_of_fenced hmode])
  case clockAgain =>
    cases hf : s.boot.failed with
    | false => exact (clockLoss_compute hready hf).trans (by rw [fence_of_fenced hmode])
    | true => exact clockLoss_failed hf
  case link => exact ⟨_, clockLoss_link hready hf p, linkLost hstate⟩
  case device =>
    obtain ⟨e, h⟩ := deviceLost (s := s) (n := n) (by omega) hr
    exact ⟨_, e, clockLoss_base hready hf h12 h80, h⟩

end Sys2Proof.Proofs.Fences
end

section
/-! PROOF. How an engine takes a grist descriptor (R163, R229, R237, R238). -/

namespace Sys2Proof.Proofs.GristAcceptance

open Sys2Proof.Machine Sys2Proof.Claims Sys2Proof.Proofs.TileEntries

theorem sbHeld_of_not_sbHas {s : State} {who : Nat} (h : s.sbHas who = false) : s.sbHeld who = true := by
  simp only [State.sbHas, List.any_eq_false] at h
  refine List.all_eq_true.mpr fun i hi => List.all_eq_true.mpr fun e he => ?_
  have hwho := List.any_eq_false.mp (Bool.eq_false_iff.mpr (h i hi)) e he
  simp_all

section
variable {s : State} {cd : Cd} {id : Nat} {o : Op} {b : List Byte} {c : Nat} {host : HostData} (f : GJob → State → State)

/-- The descriptor's instruction waits for no tile and no line. -/
theorem goes_of_gristFree {r : List Byte} (h : GristFree s cd id b r host) :
    (let t := s.sbEnter (whoMove cd.val id) (s.gristTiles b r host).1 (s.gristTiles b r host).2
     t = s ∧ ¬(t.sbHeld (whoMove cd.val id) = false ∨ (t.gristRanges b r host).1.any (fun y => t.rangeHeld y.1 y.2.1) = true)) := by
  obtain ⟨htiles, hsb, hlines⟩ := h
  have henter : s.sbEnter (whoMove cd.val id) (s.gristTiles b r host).1 (s.gristTiles b r host).2 = s := by
    simp only [State.sbEnter, htiles, sbMove_nil, ite_self]
  refine ⟨henter, ?_⟩
  simp only [henter, sbHeld_of_not_sbHas hsb, Bool.true_eq_false, false_or, List.any_eq_true, not_exists, not_and]
  exact fun y hy => by simp [hlines y hy]

theorem acceptGrist_refused (h : GristNext s cd id o b c host)
    (htable : (s.record (dTable b) (dMirror b)).isSome = true ∨ 6 ≤ c)
    (hst : s.gristStatus b ((s.record (dTable b) (dMirror b)).getD (zeroB 128)) host ≠ 0) :
    acceptGrist c cd id host f s =
      s.endHelper cd.val id (s.gristStatus b ((s.record (dTable b) (dMirror b)).getD (zeroB 128)) host) := by
  obtain ⟨hop, hcheck, rfl, hok, hcmd⟩ := h
  have hvoid : ((s.record (dTable (s.helperDesc host o)) (dMirror (s.helperDesc host o))).isNone && decide (c < 6)) = false := by
    rcases htable with h | h
    · simp [Option.isNone_eq_false_iff.mpr h]
    · simp [Nat.not_lt.mpr h]
  simp only [acceptGrist, hop, hcheck, hok, hcmd, hvoid, hst, ne_eq, not_true_eq_false, not_false_eq_true, if_true, if_false,
    Bool.false_eq_true]

theorem acceptGrist_begins (h : GristNext s cd id o b c host)
    (htable : (s.record (dTable b) (dMirror b)).isSome = true ∨ 6 ≤ c) {r : List Byte}
    (hr : (s.record (dTable b) (dMirror b)).getD (zeroB 128) = r)
    (hst : s.gristStatus b r host = 0) (hfree : GristFree s cd id b r host) :
    acceptGrist c cd id host f s = f (newJob s.grist.next cd.val id o.unit b r 0) (gristTaken s cd o b) := by
  obtain ⟨hop, hcheck, rfl, hok, hcmd⟩ := h
  have hvoid : ((s.record (dTable (s.helperDesc host o)) (dMirror (s.helperDesc host o))).isNone && decide (c < 6)) = false := by
    rcases htable with h | h
    · simp [Option.isNone_eq_false_iff.mpr h]
    · simp [Nat.not_lt.mpr h]
  obtain ⟨henter, hgo⟩ := goes_of_gristFree hfree
  rw [henter] at hgo
  have h8 : ¬(newJob s.grist.next cd.val id o.unit (s.helperDesc host o) r 0).outcome = 8 := by simp [newJob]
  simp only [acceptGrist, hop, hcheck, hok, hcmd, hvoid, hr, hst, henter, ne_eq, not_true_eq_false, if_false,
    Bool.false_eq_true, if_neg hgo, if_neg h8]

theorem acceptGrist_void (h : GristNext s cd id o b c host) (htable : s.record (dTable b) (dMirror b) = none) (hc : c < 6)
    (hst : s.cRange (dSummary b) 64 64 = 0) (hfree : GristFree s cd id b (zeroB 128) host) :
    acceptGrist c cd id host f s = (gristTaken s cd o b).addJob (newJob s.grist.next cd.val id o.unit b (zeroB 128) 8) := by
  obtain ⟨hop, hcheck, rfl, hok, hcmd⟩ := h
  obtain ⟨henter, hgo⟩ := goes_of_gristFree hfree
  rw [henter] at hgo
  have h8 : (newJob s.grist.next cd.val id o.unit (s.helperDesc host o) (zeroB 128) 8).outcome = 8 := rfl
  simp only [acceptGrist, hop, hcheck, hok, hcmd, htable, Option.isNone_none, Option.getD_none, hc, hst, henter, ne_eq,
    not_true_eq_false, if_false, if_true, Bool.false_eq_true, decide_true, Bool.and_self, if_neg hgo, if_pos h8]

theorem acceptGrist_ready {r : List Byte} (h : GristReady s cd id o b r c host) :
    acceptGrist c cd id host f s = f (newJob s.grist.next cd.val id o.unit b r 0) (gristTaken s cd o b) := by
  obtain ⟨hnext, hr, htable, hst, hfree, -⟩ := h
  exact acceptGrist_begins f hnext htable hr hst hfree

/-- An outcome other than 8, or any job that the command forms from the accepted one. -/
theorem heldWith_addJob {t : State} {j : GJob} (hid : j.id = s.grist.next) (hb : j.b = b) (hop : j.op = id) (hcd : j.cd = cd.val)
    (hjobs : t.grist.jobs = s.grist.jobs) (hnext : t.grist.next = s.grist.next) (hdies : t.dies = (gristTaken s cd o b).dies) :
    HeldWith s (t.addJob j) cd id o b j :=
  ⟨hid, hb, hop, hcd, by simp [State.addJob, hjobs], by simp [State.addJob, hnext], hdies⟩

end

end Sys2Proof.Proofs.GristAcceptance
end

section
/-! PROOF. Folds, version switches and version releases of a grist engine (R252–R255). -/

namespace Sys2Proof.Proofs.GristFolds

open Sys2Proof.Machine Sys2Proof.Claims Sys2Proof.Proofs.GristAcceptance Sys2Proof.Proofs.MemoryAccess

/-! ### Folds -/

/-- What a newer step leaves unchanged. -/
theorem stepSeen_rest (s : State) (step : Nat) :
    (s.stepSeen step).mem = s.mem ∧ (s.stepSeen step).dies = s.dies ∧ (s.stepSeen step).grist.jobs = s.grist.jobs ∧
      (s.stepSeen step).grist.next = s.grist.next ∧ (s.stepSeen step).grist.regions = s.grist.regions := by
  unfold State.stepSeen
  extract_lets new
  clear_value new
  split
  · exact ⟨rfl, rfl, rfl, rfl, rfl⟩
  · split <;> exact ⟨rfl, rfl, rfl, rfl, rfl⟩

theorem deltaRegion_of_regions {s t : State} (h : t.grist.regions = s.grist.regions) (table : Nat) (mirror : Bool) (k : Nat) :
    t.deltaRegion table mirror k = s.deltaRegion table mirror k := by
  rw [State.deltaRegion, State.deltaRegion, h]

theorem deltaRegion_setRegion (s : State) (table : Nat) (mirror : Bool) (k : Nat) (x : Region) :
    (s.setRegion table mirror k x).deltaRegion table mirror k = x := tabGet_tabSet_self ..

theorem fold_of_mem_putJob {s : State} {j k : GJob} (hk : k ∈ (s.putJob j).grist.jobs) (hid : k.id = j.id) : k = j := by
  obtain ⟨i, -, rfl⟩ := List.mem_map.mp hk
  split
  · rfl
  · next hne => rw [if_neg hne] at hid; exact absurd (beq_iff_eq.mpr hid) hne

section
variable {s : State} {cd : Cd} {id : Nat} {o : Op} {b r : List Byte}

theorem beginFold_clean {j : GJob} (hx : (s.deltaRegion (dTable j.b) (dMirror j.b) (dStep j.b % 2)).st = 0) :
    beginFold j s =
      ((s.setRegion (dTable j.b) (dMirror j.b) (dStep j.b % 2) ⟨0, some (dStep j.b)⟩).addJob j).stepSeen (dStep j.b) := by
  simp only [beginFold, hx, if_true]

theorem beginFold_own {j : GJob} (hx : (s.deltaRegion (dTable j.b) (dMirror j.b) (dStep j.b % 2)).st = 1)
    (hstep : (s.deltaRegion (dTable j.b) (dMirror j.b) (dStep j.b % 2)).step = some (dStep j.b)) :
    beginFold j s =
      (s.setRegion (dTable j.b) (dMirror j.b) (dStep j.b % 2) ⟨2, some (dStep j.b)⟩).addJob { j with fold := 1 } := by
  simp only [beginFold, hx, hstep, Nat.one_ne_zero, if_false, ne_eq, not_true_eq_false, if_true]

theorem beginFold_other {j : GJob} (hx : (s.deltaRegion (dTable j.b) (dMirror j.b) (dStep j.b % 2)).st ≠ 0)
    (hstep : (s.deltaRegion (dTable j.b) (dMirror j.b) (dStep j.b % 2)).step ≠ some (dStep j.b)) :
    beginFold j s = s.addJob { j with outcome := 3 } := by
  simp only [beginFold, if_neg hx, if_pos hstep]

end

theorem foldEnd_facts {s : State} {n : Nat} {j : GJob} (hj : s.grist.jobs.find? (fun j => j.id == n && j.fold == 1) = some j) :
    (foldEnd n s).deltaRegion (dTable j.b) (dMirror j.b) (dStep j.b % 2) = ⟨0, some (dStep j.b)⟩ ∧
      (foldEnd n s).mem = (s.foldRegion (dTable j.b) j.r (dStep j.b % 2) (dStep j.b)).1.mem ∧
      ∀ k ∈ (foldEnd n s).grist.jobs, k.id = j.id → k.fold = 0 := by
  unfold foldEnd
  split
  · next hnone => rw [hj] at hnone; cases hnone
  next i hi =>
  obtain rfl := Option.some.inj (hj.symm.trans hi)
  extract_lets step t m x u v g w
  obtain ⟨hmem, -, hjobs, -, hregions⟩ := stepSeen_rest w step
  have hset : (x.1.setRegion t m (step % 2) ⟨0, some step⟩).deltaRegion t m (step % 2) = ⟨0, some step⟩ :=
    deltaRegion_setRegion ..
  have hx : x.1.mem = (s.foldRegion (dTable j.b) j.r (dStep j.b % 2) (dStep j.b)).1.mem := rfl
  clear_value x
  refine ⟨(deltaRegion_of_regions hregions t m (step % 2)).trans hset, hmem.trans hx, ?_⟩
  · rw [hjobs]
    intro k hk hid
    obtain ⟨i, hi, rfl⟩ := List.mem_map.mp hk
    split
    · rfl
    · next hno =>
      rw [if_neg hno] at hid
      have hi : i = _ := fold_of_mem_putJob hi hid
      rw [hi]

/-! ### Versions -/

theorem gActive_lt (r : List Byte) : gActive r < 2 := Completions.fld_lt _ _ 1

theorem dStep_lt (b : List Byte) : dStep b < 256 ^ 4 := ByteFields.fieldB_lt b 4 4

theorem beginSwitch_pending {s : State} {j : GJob} (hp : gPending j.r = true) : beginSwitch j s = s.addJob { j with outcome := 5 } :=
  if_pos hp

/-- What a switch writes. -/
theorem stored_switch {s : State} {j : GJob} {a : Nat} (ha : s.recordAddr (dTable j.b) (dMirror j.b) = a)
    (hc : Clear s a 128) (hp : gPending j.r = false) :
    ∃ t, beginSwitch j s = t.addJob j ∧ (∃ m, t = { s with mem := m }) ∧ t.num (a + 1) 1 = gActive j.r + 2 ∧
      t.num (a + 96) 4 = dStep j.b ∧ ∀ y, y ≠ a + 1 → (y < a + 96 ∨ a + 100 ≤ y) → t.byte y = s.byte y := by
  have hver : Stored s (s.writeRecord j 1 (natLE 1 (gActive j.r + 2))) (a + 1) (natLE 1 (gActive j.r + 2)) := by
    rw [State.writeRecord, ha]
    exact stored_write (hc.sub (by omega) (by rw [length_natLE]; omega))
  obtain ⟨⟨m, hm⟩, -⟩ := id hver
  have hc' : Clear (s.writeRecord j 1 (natLE 1 (gActive j.r + 2))) a 128 := by
    rw [hm]; exact hc
  have ha' : (s.writeRecord j 1 (natLE 1 (gActive j.r + 2))).recordAddr (dTable j.b) (dMirror j.b) = a := by
    rw [hm]; exact ha
  have hstep : Stored (s.writeRecord j 1 (natLE 1 (gActive j.r + 2)))
      ((s.writeRecord j 1 (natLE 1 (gActive j.r + 2))).writeRecord j 96 (natLE 4 (dStep j.b))) (a + 96) (natLE 4 (dStep j.b)) := by
    conv => arg 2; rw [State.writeRecord, ha']
    exact stored_write (hc'.sub (by omega) (by rw [length_natLE]; omega))
  have hlen1 := length_natLE 1 (gActive j.r + 2)
  have hlen4 := length_natLE 4 (dStep j.b)
  refine ⟨_, if_neg (by simp [hp]), ?_, ?_, ?_, ?_⟩
  · obtain ⟨⟨m', hm'⟩, -⟩ := hstep
    exact ⟨m', by rw [hm', hm]⟩
  · rw [num_congr (s := s.writeRecord j 1 (natLE 1 (gActive j.r + 2))) fun x _ _ => hstep.byte_outside (by omega), hver.num_eq]
    exact Nat.mod_eq_of_lt (by have := gActive_lt j.r; omega)
  · rw [hstep.num_eq, Nat.mod_eq_of_lt (dStep_lt _)]
  · intro y hy hout
    rw [hstep.byte_outside (by omega), hver.byte_outside (by omega)]

/-- A region that holds an older step than the switch and is not clean. -/
def Unfolded (s : State) (b r : List Byte) (k : Nat) : Prop :=
  ∃ n, (s.deltaRegion (dTable b) (dMirror b) k).st ≠ 0 ∧ (s.deltaRegion (dTable b) (dMirror b) k).step = some n ∧
    older n (gSwitch r) = true

/-- The engine's own test of a region. -/
def unfoldedB (s : State) (b r : List Byte) (k : Nat) : Bool :=
  decide ((s.deltaRegion (dTable b) (dMirror b) k).st ≠ 0) &&
    (match (s.deltaRegion (dTable b) (dMirror b) k).step with | some st => older st (gSwitch r) | none => false)

theorem unfoldedB_iff (s : State) (b r : List Byte) (k : Nat) : unfoldedB s b r k = true ↔ Unfolded s b r k := by
  unfold unfoldedB Unfolded
  cases (s.deltaRegion (dTable b) (dMirror b) k).step <;> simp

/-- What a release asks. -/
def Releasable (s : State) (b r : List Byte) : Bool :=
  gPending r && !s.olderRequests (gSwitch r) && !unfoldedB s b r 0 && !unfoldedB s b r 1

theorem beginRelease_eq (j : GJob) (s : State) : beginRelease j s =
    if Releasable s j.b j.r then (s.writeRecord j 1 (natLE 1 (1 - gActive j.r))).addJob j else s.addJob { j with outcome := 5 } := rfl

/-- What a release writes. -/
theorem stored_release {s : State} {j : GJob} {a : Nat} (ha : s.recordAddr (dTable j.b) (dMirror j.b) = a) (hc : Clear s a 128)
    (hgo : Releasable s j.b j.r = true) :
    ∃ t, beginRelease j s = t.addJob j ∧ Stored s t (a + 1) (natLE 1 (1 - gActive j.r)) := by
  refine ⟨_, (beginRelease_eq j s).trans (if_pos hgo), ?_⟩
  rw [State.writeRecord, ha]
  exact stored_write (hc.sub (by omega) (by rw [length_natLE]; omega))

theorem releasable_iff (s : State) (b r : List Byte) : Releasable s b r = true ↔
    gPending r = true ∧ s.olderRequests (gSwitch r) = false ∧ ¬Unfolded s b r 0 ∧ ¬Unfolded s b r 1 := by
  simp [Releasable, ← unfoldedB_iff, and_assoc]

/-! ### The statement -/

/-- Settles O36: each command begins from the accepted descriptor, by the branch of its region or its record. -/
theorem gristFoldsAndVersions : Obligations.GristFoldsAndVersions := by
  unfold Obligations.GristFoldsAndVersions
  intro s cd id host o b r a x after
  have hgives {c : Nat} {i : Instr} {f : GJob → State → State} (hi : exec i s = .next (acceptGrist c cd id host f s))
      (h : GristReady s cd id o b r c host) :
      Gives i s (f (newJob s.grist.next cd.val id o.unit b r 0) (gristTaken s cd o b)) :=
    hi.trans (congrArg Host.Outcome.next (acceptGrist_ready f h))
  refine ⟨fun h => ⟨fun hx => ?_, fun hx hs => ?_, fun hx hs => ?_⟩, fun n j hj hb => ?_, fun h hm hp => ⟨fun hv => ?_, fun hv => ?_⟩,
    fun h hm hp => ⟨fun hv ho h0 h1 => ?_, fun hno => ?_⟩⟩
  · obtain ⟨hmem, hdies, hjobs, hnext, hregions⟩ := stepSeen_rest
      (((gristTaken s cd o b).setRegion (dTable b) (dMirror b) (dStep b % 2) ⟨0, some (dStep b)⟩).addJob
        (newJob s.grist.next cd.val id o.unit b r 0)) (dStep b)
    refine ⟨_, newJob s.grist.next cd.val id o.unit b r 0,
      (hgives rfl h).trans (congrArg _ (beginFold_clean (s := gristTaken s cd o b) hx)), ?_, rfl, rfl, ?_, ?_⟩
    · exact ⟨rfl, rfl, rfl, rfl, hjobs, hnext, hdies⟩
    · exact (deltaRegion_of_regions hregions _ _ _).trans (deltaRegion_setRegion ..)
    · exact hmem
  · refine ⟨_, { newJob s.grist.next cd.val id o.unit b r 0 with fold := 1 },
      (hgives rfl h).trans (congrArg _ (beginFold_own (s := gristTaken s cd o b) hx hs)), ?_, rfl, rfl, ?_, rfl⟩
    · exact heldWith_addJob rfl rfl rfl rfl rfl rfl rfl
    · exact deltaRegion_setRegion ..
  · refine ⟨_, { newJob s.grist.next cd.val id o.unit b r 0 with outcome := 3 },
      (hgives rfl h).trans (congrArg _ (beginFold_other (s := gristTaken s cd o b) hx hs)), ?_, rfl, rfl, rfl⟩
    exact heldWith_addJob rfl rfl rfl rfl rfl rfl rfl
  · subst hb
    obtain ⟨hregion, hmem, hjobs⟩ := foldEnd_facts hj
    exact ⟨_, rfl, hregion, hmem, hjobs⟩
  · obtain ⟨t, ht, ⟨m, rfl⟩, hactive, hstep, hrest⟩ := stored_switch (s := gristTaken s cd o b)
      (j := newJob s.grist.next cd.val id o.unit b r 0) (a := a) rfl (clear_of_plain ⟨hm, hp⟩) hv
    refine ⟨_, newJob s.grist.next cd.val id o.unit b r 0, (hgives rfl h).trans (congrArg _ ht), ?_, rfl, hactive, hstep, hrest⟩
    exact heldWith_addJob rfl rfl rfl rfl rfl rfl rfl
  · refine ⟨_, { newJob s.grist.next cd.val id o.unit b r 0 with outcome := 5 },
      (hgives rfl h).trans (congrArg _ (beginSwitch_pending (s := gristTaken s cd o b) hv)), ?_, rfl, rfl⟩
    exact heldWith_addJob rfl rfl rfl rfl rfl rfl rfl
  · have hgo : Releasable (gristTaken s cd o b) b r = true := (releasable_iff ..).mpr ⟨hv, ho, h0, h1⟩
    obtain ⟨t, ht, hst⟩ := stored_release (s := gristTaken s cd o b) (j := newJob s.grist.next cd.val id o.unit b r 0) (a := a) rfl
      (clear_of_plain ⟨hm, hp⟩) hgo
    have honly := hst.onlyBytes
    have hnum := hst.num_eq
    rw [length_natLE] at honly
    obtain ⟨⟨m, rfl⟩, -⟩ := hst
    refine ⟨_, newJob s.grist.next cd.val id o.unit b r 0, (hgives rfl h).trans (congrArg _ ht), ?_, rfl, ?_, honly⟩
    · exact heldWith_addJob rfl rfl rfl rfl rfl rfl rfl
    · exact hnum.trans (Nat.mod_eq_of_lt (lt_of_le_of_lt (Nat.sub_le ..) (by decide)))
  · have hno : ¬Releasable (gristTaken s cd o b) b r = true := by
      rw [releasable_iff]
      rintro ⟨hv, ho, h0, h1⟩
      rcases hno with h | h | h | h
      · exact absurd hv (by simp [h])
      · exact absurd (h.symm.trans ho) (by decide)
      · exact h0 h
      · exact h1 h
    refine ⟨_, { newJob s.grist.next cd.val id o.unit b r 0 with outcome := 5 },
      (hgives rfl h).trans (congrArg _ ((beginRelease_eq _ (gristTaken s cd o b)).trans (if_neg hno))), ?_, rfl, rfl⟩
    exact heldWith_addJob rfl rfl rfl rfl rfl rfl rfl

end Sys2Proof.Proofs.GristFolds
end

section
/-! SUPPORT. Bytes moved and put line by line between ranges of memory that are mapped and not poisoned (R208, R218). -/

namespace Sys2Proof.Proofs.ByteRanges

open Sys2Proof.Machine Sys2Proof.Claims Sys2Proof.Proofs.MemoryAccess Sys2Proof.Proofs.Lines

/-! ### Reading a clear range -/

section
variable {s t : State} {a n : Nat}

theorem Clear.mapped (h : Clear s a n) {x : Nat} (hlo : a ≤ x) (hhi : x < a + n) : s.mapped x = true := by
  obtain ⟨l, hl, -⟩ := h x hlo hhi
  simp [State.mapped, hl]

theorem Clear.rangePoisoned (h : Clear s a n) (hn : 0 < n) : s.rangePoisoned a n = false := by
  rw [State.rangePoisoned, List.any_eq_false]
  intro i hi
  rw [Bool.not_eq_true, ← h.not_poisoned (x := if i = 0 then a else a / 64 * 64 + 64 * i)]
  · split
    · next h0 => rw [h0, Nat.mul_zero, Nat.add_zero, poisoned_line]
    · rfl
  · split <;> omega
  · have := List.mem_range.mp hi
    split <;> omega

theorem Clear.hRead (h : Clear s a n) (host : HostData) : s.hRead host a n = s.bytes a n := by
  refine List.map_congr_left fun i hi => ?_
  rw [State.hByte, if_pos (Clear.mapped h (by omega) (by have := List.mem_range.mp hi; omega))]

theorem Clear.hOk (h : Clear s a n) (host : HostData) : s.hOk host a n = true :=
  List.all_eq_true.mpr fun i hi => by
    rw [Clear.mapped h (by omega) (by have := List.mem_range.mp hi; omega), Bool.true_or]

theorem bytes_add (s : State) (a m n : Nat) : s.bytes a (m + n) = s.bytes a m ++ s.bytes (a + m) n := by
  simp only [State.bytes, List.range_add, List.map_append, List.map_map, Function.comp_def, Nat.add_assoc]

@[simp] theorem length_bytes (s : State) (a n : Nat) : (s.bytes a n).length = n := by simp [State.bytes]

/-- A read of mapped memory has the range's own status. -/
theorem srcStatus_of_clear (h : Clear s a n) (v : HostView) : s.srcStatus v a n = s.rowStatusIn v.wins a n := by
  unfold State.srcStatus
  split
  · rfl
  · next h0 => rw [if_pos (Clear.hOk h v.data), not_not.mp h0]

end

/-! ### Putting -/

section
variable {s : State} {a : Nat} {bs : List Byte} {bads : List Bool}

theorem any_of_unmarked (h : ∀ x ∈ bads, x = false) (n : Nat) : (bads.take n).any id = false :=
  List.any_eq_false.mpr fun x hx => by simp [h x (List.mem_of_mem_take hx)]

theorem putBytesAt_nil (s : State) (wins : List Nat) (a : Nat) (bads : List Bool) (f : Nat) :
    s.putBytesAt wins a [] bads f = (s, false) := by
  cases f <;> rfl

theorem moveBytes_zero (s : State) (v : HostView) (src dst : Nat) (p : Bool) (f : Nat) : s.moveBytes v src dst 0 p f = (s, p) := by
  cases f <;> rfl

theorem stored_putChunk (wins : List Nat) (hc : Clear s a bs.length) (hne : bs ≠ []) (hlen : a % 64 + bs.length ≤ 64) :
    Stored s (s.putChunk wins a bs false).1 a bs ∧ (s.putChunk wins a bs false).2 = false := by
  have hpos := List.length_pos_iff.mpr hne
  have hm : s.mapped a = true := Clear.mapped hc le_rfl (by omega)
  have hp : s.poisoned a = false := hc.not_poisoned le_rfl (by omega)
  rw [State.putChunk, if_pos hm, if_neg Bool.false_ne_true, hp]
  exact ⟨stored_writeLine hc hne hlen, rfl⟩

/-- Bytes put in a clear range, none of which derives from poison, are stored, and no poison is met. -/
theorem stored_putBytesAt (wins : List Nat) (hc : Clear s a bs.length) (hbads : ∀ x ∈ bads, x = false) {f : Nat}
    (hf : a % 64 + bs.length ≤ 64 * f) :
    Stored s (s.putBytesAt wins a bs bads f).1 a bs ∧ (s.putBytesAt wins a bs bads f).2 = false := by
  induction f generalizing s a bs bads with
  | zero =>
    obtain rfl : bs = [] := List.eq_nil_of_length_eq_zero (by omega)
    exact ⟨.nil s a, rfl⟩
  | succ f ih =>
    by_cases hne : bs = []
    · subst hne
      exact ⟨.nil s a, rfl⟩
    have hpos := List.length_pos_iff.mpr hne
    rw [State.putBytesAt, if_neg (by simpa using hne)]
    dsimp only
    rw [any_of_unmarked hbads]
    obtain ⟨hfirst, hflag⟩ := stored_putChunk (bs := bs.take (64 - a % 64)) wins
      (hc.sub le_rfl (by rw [List.length_take]; omega)) (List.ne_nil_of_length_pos (by rw [List.length_take]; omega))
      (by rw [List.length_take]; omega)
    by_cases hfit : bs.length ≤ 64 - a % 64
    · rw [List.take_of_length_le hfit] at hfirst hflag ⊢
      rw [List.drop_eq_nil_of_le hfit, putBytesAt_nil, hflag]
      exact ⟨hfirst, rfl⟩
    · have hlen : (bs.take (64 - a % 64)).length = 64 - a % 64 := List.length_take_of_le (by omega)
      have hdrop : (bs.drop (64 - a % 64)).length = bs.length - (64 - a % 64) := List.length_drop
      obtain ⟨hrest, hno⟩ := ih (bs := bs.drop (64 - a % 64)) (bads := bads.drop (64 - a % 64))
        (hfirst.clear (hc.sub (b := a + (64 - a % 64)) (by omega) (by omega)))
        (fun x hx => hbads x (List.mem_of_mem_drop hx)) (by omega)
      have happend := hfirst.append (by rw [hlen]) hrest
      rw [List.take_append_drop] at happend
      exact ⟨happend, by rw [hflag, hno]; rfl⟩

theorem stored_putBytes (hc : Clear s a bs.length) (hbads : ∀ x ∈ bads, x = false) {f : Nat} (hf : a % 64 + bs.length ≤ 64 * f) :
    Stored s (s.putBytes a bs bads f) a bs :=
  (stored_putBytesAt s.windows hc hbads hf).1

end

/-! ### Moving -/

section
variable {s : State} {src dst n : Nat}

theorem askHost_of_mapped (wins : List Nat) {a : Nat} (n : Nat) (hm : s.mapped a = true) : s.askHost wins a n = s := if_pos hm

/-- A row moved between clear ranges that do not overlap: the source's bytes stand at the destination, and no poison is
met. -/
theorem stored_moveBytes (v : HostView) (hsrc : Clear s src n) (hdst : Clear s dst n) (hapart : src + n ≤ dst ∨ dst + n ≤ src)
    (p : Bool) {f : Nat} (hf : dst % 64 + n ≤ 64 * f) :
    Stored s (s.moveBytes v src dst n p f).1 dst (s.bytes src n) ∧ (s.moveBytes v src dst n p f).2 = p := by
  induction f generalizing s src dst n with
  | zero =>
    obtain rfl : n = 0 := by omega
    exact ⟨.nil s dst, rfl⟩
  | succ f ih =>
    by_cases hn : n = 0
    · subst hn
      exact ⟨.nil s dst, rfl⟩
    rw [State.moveBytes, if_neg hn]
    dsimp only
    obtain ⟨c, hc⟩ : ∃ c, c = min n (64 - dst % 64) := ⟨_, rfl⟩
    have hcsrc : Clear s src c := hsrc.sub le_rfl (by omega)
    rw [← hc, askHost_of_mapped v.wins c (Clear.mapped hsrc le_rfl (by omega)), Clear.hRead hcsrc,
      Clear.rangePoisoned hcsrc (by omega)]
    obtain ⟨hfirst, hflag⟩ := stored_putChunk (bs := s.bytes src c) v.wins (hdst.sub (m := (s.bytes src c).length) le_rfl (by
      rw [length_bytes]; omega)) (List.ne_nil_of_length_pos (by rw [length_bytes]; omega)) (by rw [length_bytes]; omega)
    rw [hflag, Bool.or_false]
    by_cases hfit : n ≤ 64 - dst % 64
    · obtain rfl : c = n := by omega
      rw [Nat.sub_self, moveBytes_zero]
      exact ⟨hfirst, rfl⟩
    obtain ⟨hrest, hpoison⟩ := ih (src := src + c) (dst := dst + c) (n := n - c)
      (hfirst.clear (hsrc.sub (by omega) (by omega))) (hfirst.clear (hdst.sub (by omega) (by omega))) (by omega) (by omega)
    refine ⟨?_, hpoison⟩
    have happend := hfirst.append (by rw [length_bytes]) hrest
    rwa [bytes_congr fun x _ _ => hfirst.byte_outside (by rw [length_bytes]; omega), ← bytes_add,
      Nat.add_sub_cancel' (by omega)] at happend

/-- One row of a transfer whose addresses may be used. -/
theorem moveRows_one (v : HostView) {ss ds : Nat} (hsrc : Clear s src n) (hs : s.rowStatusIn v.wins src n = 0)
    (hd : s.rowStatusIn v.wins dst n = 0) (poison : Bool) (done : Nat) :
    s.moveRows v src dst n ss ds poison done 1 =
      ((s.moveBytes v src dst n poison (n / 64 + 2)).1,
        if (s.moveBytes v src dst n poison (n / 64 + 2)).2 then 5 else 0, done + 1) := by
  have h0 : s.srcStatus v src n = 0 := (srcStatus_of_clear hsrc v).trans hs
  simp only [State.moveRows, h0, hd, ne_eq, not_true_eq_false, if_false, if_true]

end

end Sys2Proof.Proofs.ByteRanges
end

section
/-! SUPPORT. What sending a descriptor's waiting groups leaves: memory, the dies, the registers, and the descriptor but for its
groups (R239). -/

namespace Sys2Proof.Proofs.GristSending

open Sys2Proof.Machine

/-- Two records of one descriptor that differ in the groups alone. -/
def SameJob (k j : GJob) : Prop := k = { j with groups := k.groups }

theorem SameJob.id {k j : GJob} (h : SameJob k j) : k.id = j.id := by rw [h]

/-- A descriptor is in progress, its record but for the groups that of j. -/
def InProgress (s : State) (j : GJob) : Prop :=
  (∃ k ∈ s.grist.jobs, SameJob k j) ∧ ∀ k ∈ s.grist.jobs, k.id = j.id → SameJob k j

theorem inProgress_addJob {s : State} {j : GJob} (h : ∀ k ∈ s.grist.jobs, k.id ≠ j.id) : InProgress (s.addJob j) j := by
  refine ⟨⟨j, by simp [State.addJob], rfl⟩, fun k hk hid => ?_⟩
  rcases List.mem_append.mp hk with hk | hk
  · exact absurd hid (h k hk)
  · rw [List.mem_singleton.mp hk]
    rfl

/-- What sending keeps. -/
structure Pumped (s t : State) : Prop where
  mem : t.mem = s.mem
  dies : t.dies = s.dies
  regs : t.regs = s.regs
  held : ∀ j, InProgress s j → InProgress t j

theorem Pumped.refl (s : State) : Pumped s s := ⟨rfl, rfl, rfl, fun _ => id⟩

theorem Pumped.trans {s t u : State} (h : Pumped s t) (h' : Pumped t u) : Pumped s u :=
  ⟨h'.mem.trans h.mem, h'.dies.trans h.dies, h'.regs.trans h.regs, fun j hj => h'.held j (h.held j hj)⟩

theorem Pumped.foldl {α : Type} {f : State → α → State} (hf : ∀ s x, Pumped s (f s x)) (l : List α) (s : State) :
    Pumped s (l.foldl f s) := by
  induction l generalizing s with
  | nil => exact .refl s
  | cons x l ih => exact (hf s x).trans (ih _)

theorem pumped_sendAll (s : State) (ps : List Packet) (ow : Owner) : Pumped s (s.sendAll ps ow) := by
  obtain ⟨f, h⟩ := s.sendAll_rest ps ow
  rw [h]
  exact ⟨rfl, rfl, rfl, fun _ hj => hj⟩

/-- A record of a descriptor replaced by one that differs in the groups alone. -/
theorem pumped_putJob {s : State} {k k' : GJob} (hk : k ∈ s.grist.jobs) (hsame : SameJob k' k) : Pumped s (s.putJob k') := by
  refine ⟨rfl, rfl, rfl, fun j ⟨⟨i, hi, hij⟩, hall⟩ => ?_⟩
  have hnew (i : GJob) (hi : i ∈ s.grist.jobs) (hid : i.id = j.id) : SameJob (if i.id == k'.id then k' else i) j := by
    split
    · next heq =>
      have hkj : SameJob k j := hall k hk (hsame.id ▸ (beq_iff_eq.mp heq).symm.trans hid)
      rw [SameJob, hsame, hkj]
    · exact hall i hi hid
  refine ⟨⟨_, List.mem_map_of_mem hi, hnew i hi hij.id⟩, fun m hm hid => ?_⟩
  obtain ⟨i', hi', rfl⟩ := List.mem_map.mp hm
  refine hnew i' hi' ?_
  split at hid
  · next heq => rw [beq_iff_eq.mp heq, hid]
  · exact hid

theorem pumped_sendGroup (s : State) (x : GJob × GGroup) : Pumped s (s.sendGroup x) := by
  unfold State.sendGroup
  split
  · next j hj =>
    have hput : Pumped s (s.putJob (j.putGroup { x.2 with st := 1 })) := pumped_putJob (List.mem_of_find?_eq_some hj) (by rfl)
    exact hput.trans (pumped_sendAll ..)
  · exact .refl s

theorem pumped_sendGroups (l : List (GJob × GGroup)) (s : State) : Pumped s (s.sendGroups l) := by
  induction l generalizing s with
  | nil => exact .refl s
  | cons x l ih =>
    rw [State.sendGroups]
    split
    · exact (pumped_sendGroup s x).trans (ih _)
    · exact .refl s

theorem pumped_gristPump (s : State) (bd : Nat) : Pumped s (s.gristPump bd) := pumped_sendGroups ..

/-- An engine none of whose groups waits sends nothing. -/
theorem gristPump_of_none_waits {s : State} (h : ∀ j ∈ s.grist.jobs, ∀ g ∈ j.groups, g.st ≠ 0) (bd : Nat) :
    s.gristPump bd = s := by
  rw [State.gristPump, List.flatMap_eq_nil_iff.mpr]
  · rfl
  · intro j hj
    rw [List.map_eq_nil_iff, List.filter_eq_nil_iff]
    intro g hg
    simp [h j hj g hg]

end Sys2Proof.Proofs.GristSending
end

section
/-! PROOF. Skew reports, migration out and overrides installed (R258, R261–R263). -/

namespace Sys2Proof.Proofs.GristMigration

open Sys2Proof.Machine Sys2Proof.Claims Sys2Proof.Proofs.GristAcceptance Sys2Proof.Proofs.GristSending
open Sys2Proof.Proofs.MemoryAccess Sys2Proof.Proofs.ByteRanges

/-! ### Reports -/

theorem length_insertBy {α : Type} (before : α → α → Bool) (x : α) (l : List α) : (insertBy before x l).length = l.length + 1 := by
  induction l with
  | nil => rfl
  | cons y l ih =>
    rw [insertBy]
    split
    · rfl
    · rw [List.length_cons, ih, List.length_cons]

theorem length_foldl_insertBy {α : Type} (before : α → α → Bool) (l acc : List α) :
    (l.foldl (fun acc x => insertBy before x acc) acc).length = acc.length + l.length := by
  induction l generalizing acc with
  | nil => rfl
  | cons y l ih => rw [List.foldl_cons, ih, length_insertBy, List.length_cons]; omega

theorem length_sortBy {α : Type} (before : α → α → Bool) (l : List α) : (sortBy before l).length = l.length := by
  rw [sortBy, length_foldl_insertBy, List.length_nil, Nat.zero_add]

/-- A report fits in its 4,160 bytes while no list holds more than 256 rows. -/
theorem length_skewBytes {s : State} (htop : ∀ k : Fin 4, s.grist.top[k].length ≤ 256) (bd : Nat) :
    (s.skewBytes bd).length ≤ 4160 := by
  have hrows : (if s.gWarmed then sortBy topBefore s.grist.top[fabBd bd] else []).length ≤ 256 := by
    split
    · rw [length_sortBy]; exact htop _
    · exact Nat.zero_le _
  simp only [State.skewBytes, List.length_append, length_natLE, List.length_flatMap, List.map_const', List.sum_replicate,
    zeroB, List.length_replicate, smul_eq_mul]
  omega

theorem beginSkew_keeps {s : State} {j : GJob} (hno : bitAt (fieldB j.b 1 1) 5 = false) : beginSkew j s =
    (s.putBytes (dIds j.b) (s.skewBytes j.bd) [] ((s.skewBytes j.bd).length / 64 + 2)).addJob
      { j with outcome := if s.gWarmed then 0 else 6 } := by
  simp only [beginSkew, hno, Bool.false_eq_true, if_false]

theorem stored_beginSkew {s : State} {j : GJob} (hno : bitAt (fieldB j.b 1 1) 5 = false)
    (hc : Clear s (dIds j.b) 4160) (htop : ∀ k : Fin 4, s.grist.top[k].length ≤ 256) :
    ∃ t, beginSkew j s = t.addJob { j with outcome := if s.gWarmed then 0 else 6 } ∧
      Stored s t (dIds j.b) (s.skewBytes j.bd) :=
  ⟨_, beginSkew_keeps hno, stored_putBytes (hc.sub le_rfl (Nat.add_le_add_left (length_skewBytes htop _) _)) (by simp) (by omega)⟩

/-! ### Migration out -/

theorem beginMigrate_refused {s : State} {j : GJob} {host : HostData}
    (h : s.migrateRefused (dMirror j.b) (s.plan host j.b) ≠ 0) :
    beginMigrate host j s = s.addJob { j with outcome := s.migrateRefused (dMirror j.b) (s.plan host j.b) } := if_pos h

theorem length_tagGroups (first : Nat) (gs : List GGroup) : (tagGroups first gs).length = gs.length := by
  simp [tagGroups]

/-- A migration that may run: its descriptor is in progress with the rows that the device serves. -/
theorem beginMigrate_runs {s : State} {j : GJob} {host : HostData}
    (h : s.migrateRefused (dMirror j.b) (s.plan host j.b) = 0) (hnew : ∀ k ∈ s.grist.jobs, k.id ≠ j.id) :
    (beginMigrate host j s).mem = s.mem ∧
      InProgress (beginMigrate host j s) { j with rows := ((s.plan host j.b).filterMap (s.planGroup (dMirror j.b))).length } := by
  have hrun : beginMigrate host j s = _ := if_neg (not_not.mpr h)
  rw [hrun]
  have hpump := Pumped.foldl (f := State.gristPump) pumped_gristPump (List.range 4)
  refine ⟨(hpump _).mem, (hpump _).held _ ?_⟩
  obtain ⟨⟨k, hk, hsame⟩, hall⟩ := inProgress_addJob
    (s := { s with grist := { s.grist with nextTag := s.grist.nextTag +
      (tagGroups s.grist.nextTag ((s.plan host j.b).filterMap (s.planGroup (dMirror j.b)))).length } })
    (j := { j with
      groups := tagGroups s.grist.nextTag ((s.plan host j.b).filterMap (s.planGroup (dMirror j.b)))
      rows := (tagGroups s.grist.nextTag ((s.plan host j.b).filterMap (s.planGroup (dMirror j.b)))).length }) hnew
  have hto {k : GJob} (h : SameJob k { j with
      groups := tagGroups s.grist.nextTag ((s.plan host j.b).filterMap (s.planGroup (dMirror j.b)))
      rows := (tagGroups s.grist.nextTag ((s.plan host j.b).filterMap (s.planGroup (dMirror j.b)))).length }) :
      SameJob k { j with rows := ((s.plan host j.b).filterMap (s.planGroup (dMirror j.b))).length } := by
    rwa [SameJob, length_tagGroups] at h
  exact ⟨⟨k, hk, hto hsame⟩, fun k hk hid => hto (hall k hk hid)⟩

/-! ### Overrides -/

theorem dirEpoch_raised (s : State) (v : Nat) : (s.fieldReg 0x601C 0 8 v).dirEpoch = v % 256 := by
  rw [State.dirEpoch, State.fieldReg, State.reg_setReg_self, ByteFields.fld_mod_word _ 0 8 (by decide), BitFields.fld_setFld_self]
  rfl

/-- What raising the directory epoch leaves of what was stored. -/
theorem byte_raised (s : State) (v : Nat) : (s.fieldReg 0x601C 0 8 v).byte = s.byte :=
  byte_setReg s (by unfold HomeLocations.LayoutReg; omega) _

/-- A plan of one entry installed by one write in the override table. -/
theorem beginInstall_one {s t : State} {j : GJob} {host : HostData} {e : PlanEnt} (hplan : s.plan host j.b = [e])
    (htable : (s.record e.table (dMirror j.b)).isSome = true) (hone : s.installOne (dMirror j.b) e = (t, 1, 0)) :
    beginInstall host j s = (t.fieldReg 0x601C 0 8 (t.dirEpoch + 1)).addJob { j with rows := 1, outcome := 0 } := by
  have hbad : ([e].any fun e => (s.record e.table (dMirror j.b)).isNone) = false := by
    simp [Option.isNone_eq_false_iff.mpr htable]
  simp only [beginInstall, hplan, List.foldl_cons, List.foldl_nil, hone, hbad, Nat.zero_add, Bool.false_eq_true, if_false, if_true]

theorem length_ovBytes (e : PlanEnt) : (ovBytes e).length = 16 := by
  simp [ovBytes, length_natLE]

/-- An entry of the override table written, and the epoch raised. -/
theorem installed {s : State} {i : Nat} {bs : List Byte} (hlen : bs.length = 16) (hc : Clear s (s.ovAddr i) 16) :
    ∃ t, s.write (s.ovAddr i) bs = t ∧ (∃ m, t = { s with mem := m }) ∧
      (t.fieldReg 0x601C 0 8 (t.dirEpoch + 1)).bytes (s.ovAddr i) 16 = bs ∧
      OnlyBytes s (t.fieldReg 0x601C 0 8 (t.dirEpoch + 1)) (s.ovAddr i) 16 ∧
      (t.fieldReg 0x601C 0 8 (t.dirEpoch + 1)).dirEpoch = (s.dirEpoch + 1) % 256 := by
  have hst : Stored s (s.write (s.ovAddr i) bs) (s.ovAddr i) bs := stored_write (hlen ▸ hc)
  have hbytes := hst.bytes_eq
  have honly := hst.onlyBytes
  rw [hlen] at hbytes honly
  refine ⟨_, rfl, hst.1, ?_, ?_, ?_⟩
  · rw [bytes_congr fun x _ _ => congrFun (byte_raised _ _) x, hbytes]
  · intro x hx
    rw [byte_raised, honly x hx]
  · rw [dirEpoch_raised, State.dirEpoch, hst.reg]
    rfl

theorem installOne_owner {s : State} {m : Bool} {e : PlanEnt} {r : List Byte} {i : Nat} (hr : s.record e.table m = some r)
    (hhome : e.home = false)
    (hi : (ovWindow e.table (permIndex r e.row)).find? (fun i => !bitAt (s.num (s.ovAddr i) 8) 63) = some i) :
    s.installOne m e = (s.write (s.ovAddr i) (ovBytes e), 1, 0) := by
  unfold State.installOne
  rw [hr]
  dsimp only
  rw [if_neg (by rw [hhome]; exact Bool.false_ne_true), hi]

theorem installOne_home {s : State} {m : Bool} {e : PlanEnt} {r : List Byte} {i : Nat} {x : Nat × Nat}
    (hr : s.record e.table m = some r) (hhome : e.home = true)
    (hi : s.override e.table e.row (permIndex r e.row) = some (i, x)) :
    s.installOne m e = (s.write (s.ovAddr i) (zeroB 16), 1, 0) := by
  unfold State.installOne
  rw [hr]
  dsimp only
  rw [if_pos hhome, hi]

/-! ### The statement -/

/-- Settles O37: each command begins from the accepted descriptor; a report and an entry are stored in clear ranges, and a
migration keeps its descriptor through the sending of its groups. -/
theorem gristSkewAndMigration : Obligations.GristSkewAndMigration := by
  unfold Obligations.GristSkewAndMigration
  intro s cd id o b r got hostOk host
  have hgives {c : Nat} {i : Instr} {f : GJob → State → State} (hi : exec i s = .next (acceptGrist c cd id host f s))
      (h : GristReady s cd id o b r c host) :
      Gives i s (f (newJob s.grist.next cd.val id o.unit b r 0) (gristTaken s cd o b)) :=
    hi.trans (congrArg Host.Outcome.next (acceptGrist_ready f h))
  refine ⟨fun h hno _ hm hp htop => ?_, fun h hno => ?_, fun h hgo => ?_, fun e i h hplan hhome ⟨tr, htr, hi⟩ hm hp => ?_,
    fun e i x h hplan hhome ⟨tr, htr, hi⟩ hm hp => ?_⟩
  · obtain ⟨t, ht, hst⟩ := stored_beginSkew (s := gristTaken s cd o b) (j := newJob s.grist.next cd.val id o.unit b r 0) hno
      (clear_of_plain ⟨hm, hp⟩) htop
    have hbytes := hst.bytes_eq
    have honly := hst.onlyBytes
    obtain ⟨⟨m, rfl⟩, -⟩ := hst
    refine ⟨_, { newJob s.grist.next cd.val id o.unit b r 0 with outcome := if s.gWarmed then 0 else 6 },
      (hgives rfl h).trans (congrArg _ ht), ?_, rfl, hbytes, honly, rfl⟩
    exact heldWith_addJob rfl rfl rfl rfl rfl rfl rfl
  · refine ⟨_, { newJob s.grist.next cd.val id o.unit b r 0 with
        outcome := s.migrateRefused (dMirror b) (s.plan host b) },
      (hgives rfl h).trans (congrArg _ (beginMigrate_refused (s := gristTaken s cd o b) hno)), ?_, rfl, rfl, rfl, rfl⟩
    exact heldWith_addJob rfl rfl rfl rfl rfl rfl rfl
  · obtain ⟨hmem, ⟨k, hk, hsame⟩, -⟩ := beginMigrate_runs (s := gristTaken s cd o b)
      (j := newJob s.grist.next cd.val id o.unit b r 0) hgo (fun k hk => (h.2.2.2.2.2 k hk).ne)
    refine ⟨_, k, hgives rfl h, hk, ?_, ?_, ?_, hmem⟩ <;> rw [hsame] <;> rfl
  · obtain ⟨t, ht, ⟨m, rfl⟩, hbytes, honly, hepoch⟩ := installed (s := gristTaken s cd o b) (length_ovBytes e)
      (clear_of_plain ⟨hm, hp⟩)
    refine ⟨_, { newJob s.grist.next cd.val id o.unit b r 0 with rows := 1, outcome := 0 }, (hgives rfl h).trans (congrArg _
      (beginInstall_one (s := gristTaken s cd o b) hplan (Option.isSome_iff_exists.mpr ⟨tr, htr⟩) ((installOne_owner (s := gristTaken s cd o b) htr hhome hi).trans
        (congrArg (·, 1, 0) ht)))), ?_, rfl, rfl, hbytes, honly, hepoch⟩
    exact heldWith_addJob rfl rfl rfl rfl rfl rfl rfl
  · obtain ⟨t, ht, ⟨m, rfl⟩, hbytes, honly, hepoch⟩ := installed (s := gristTaken s cd o b) (bs := zeroB 16) (by simp [zeroB])
      (clear_of_plain ⟨hm, hp⟩)
    refine ⟨_, { newJob s.grist.next cd.val id o.unit b r 0 with rows := 1, outcome := 0 }, (hgives rfl h).trans (congrArg _
      (beginInstall_one (s := gristTaken s cd o b) hplan (Option.isSome_iff_exists.mpr ⟨tr, htr⟩) ((installOne_home (s := gristTaken s cd o b) htr hhome hi).trans
        (congrArg (·, 1, 0) ht)))), ?_, rfl, rfl, hbytes, honly, hepoch⟩
    exact heldWith_addJob rfl rfl rfl rfl rfl rfl rfl

end Sys2Proof.Proofs.GristMigration
end

section
/-! PROOF. Grist descriptors taken and their ids counted (R163, R229, R236–R239). -/

namespace Sys2Proof.Proofs.GristDescriptors

open Sys2Proof.Machine Sys2Proof.Claims Sys2Proof.Proofs.GristAcceptance Sys2Proof.Proofs.GristSending

/-- Every command is taken the same way, and differs in what it begins. -/
theorem exec_gristRow {r : (Cd → Nat → HostData → Bool → Instr) × Nat × (HostData → GJob → State → State)} (hr : r ∈ gristRows)
    (s : State) (cd : Cd) (id : Nat) (got : HostData) (hostOk : Bool) :
    exec (r.1 cd id got hostOk) s =
      .next (acceptGrist r.2.1 cd id (hostGot hostOk got) (r.2.2 (hostGot hostOk got)) s) := by
  simp only [gristRows, List.mem_cons, List.not_mem_nil, or_false] at hr
  rcases hr with rfl | rfl | rfl | rfl | rfl | rfl | rfl | rfl <;> rfl

theorem gristAccepted : GristAccepted := by
  intro r hr s cd id got hostOk o b host hnext tr rec0
  refine ⟨fun htable hst => ?_, fun htable hst hfree => ?_, fun htable hc hst hfree => ?_⟩
  · exact (exec_gristRow hr ..).trans (congrArg _ (acceptGrist_refused _ hnext htable hst))
  · exact (exec_gristRow hr ..).trans (congrArg _ (acceptGrist_begins _ hnext htable rfl hst hfree))
  · have hzero : rec0 = zeroB 128 := by simp only [rec0, htable, Option.getD_none]
    exact (exec_gristRow hr ..).trans (congrArg _ (acceptGrist_void _ hnext htable hc hst (hzero ▸ hfree)))

/-- The ids of a descriptor's bags. -/
def allIds (s : State) (host : HostData) (b : List Byte) : List (Nat × Nat) :=
  (List.range (dCount b)).flatMap (fun k => s.bagIds host b k)

/-- A look-up or update: the descriptor is in progress with its counts, the invalid ids are counted, and memory and the dies
are as before. -/
theorem beginRequests_counts {s : State} {j : GJob} {host : HostData} (hnew : ∀ k ∈ s.grist.jobs, k.id ≠ j.id) :
    ∃ k ∈ (beginRequests host j s).grist.jobs, k.id = j.id ∧ k.b = j.b ∧
      k.valid = (validIds j.r (allIds s host j.b)).length ∧ k.pads = ((allIds s host j.b).filter isPad).length ∧
      k.invalid = (allIds s host j.b).length - k.valid - k.pads ∧
      (beginRequests host j s).reg 0x602C = satAdd32 (s.reg 0x602C) k.invalid ∧ (beginRequests host j s).mem = s.mem ∧
      (beginRequests host j s).dies = s.dies := by
  unfold beginRequests
  extract_lets b ids valid pads gs j' _ s'
  have hpump := pumped_gristPump ((s'.addJob j').countReg 0x602C j'.invalid) j'.bd
  obtain ⟨⟨k, hk, hsame⟩, -⟩ := hpump.held j' (inProgress_addJob (s := s') (j := j') hnew)
  refine ⟨k, hk, ?_, ?_, ?_, ?_, ?_, ?_, hpump.mem, hpump.dies⟩
  · rw [hsame]
  · rw [hsame]
  · rw [hsame]; rfl
  · rw [hsame]; rfl
  · rw [hsame]; rfl
  · have hinv : k.invalid = j'.invalid := by rw [hsame]
    rw [State.reg_of_regs hpump.regs, Registers.reg_countReg_self, hinv]
    rfl

/-- The ids of a table are below 2^40, as its row count is. -/
theorem validIds_of_record {s : State} {table : Nat} {m : Bool} {r : List Byte} (h : s.record table m = some r)
    (l : List (Nat × Nat)) : validIds r l = l.filter (fun x => decide (x.1 < gRows r)) := by
  have hgood : recordBad r = false := by
    unfold State.record at h
    dsimp only at h
    split at h
    · cases h
    · next hno =>
      rw [← Option.some.inj h]
      exact (Bool.or_eq_false_iff.mp (Bool.eq_false_iff.mpr hno)).1
  have hrows : gRows r ≤ 2 ^ gB r ∧ gB r ≤ 40 := by
    simp only [recordBad, Bool.or_eq_false_iff, decide_eq_false_iff_not] at hgood
    omega
  have hle : gRows r ≤ 2 ^ 40 := hrows.1.trans (Nat.pow_le_pow_right (by omega) hrows.2)
  refine List.filter_congr fun x _ => ?_
  rw [idValid, ← Bool.decide_and]
  exact decide_eq_decide.mpr ⟨And.right, fun hx => ⟨hx.trans_le hle, hx⟩⟩

theorem filter_isPad (l : List (Nat × Nat)) : l.filter isPad = l.filter (fun x => decide (x.1 = 2 ^ 64 - 1)) :=
  List.filter_congr fun _ _ => rfl

theorem gristRequestsCount : GristRequestsCount := by
  intro s cd id got hostOk o b r host c hc hready ids
  have hgives : Gives (c.1 cd id got hostOk) s
      (beginRequests host (newJob s.grist.next cd.val id o.unit b r 0) (gristTaken s cd o b)) := by
    simp only [List.mem_cons, List.not_mem_nil, or_false] at hc
    rcases hc with rfl | rfl <;> exact congrArg Host.Outcome.next (acceptGrist_ready (beginRequests host) hready)
  obtain ⟨-, hr, htable, -, -, hnew⟩ := hready
  have hrec : s.record (dTable b) (dMirror b) = some r := by
    have hc6 : ¬6 ≤ c.2 := by
      simp only [List.mem_cons, List.not_mem_nil, or_false] at hc
      rcases hc with rfl | rfl <;> decide
    obtain ⟨tr, htr⟩ := Option.isSome_iff_exists.mp (htable.resolve_right hc6)
    rw [htr] at hr ⊢
    exact congrArg some hr
  obtain ⟨k, hk, hid, hb, hvalid, hpads, hinvalid, hreg, hmem, hdies⟩ := beginRequests_counts (s := gristTaken s cd o b)
    (j := newJob s.grist.next cd.val id o.unit b r 0) (host := host) (fun k hk => (hnew k hk).ne)
  have hids : allIds (gristTaken s cd o b) host b = ids := rfl
  simp only [newJob, hids, validIds_of_record hrec, filter_isPad] at hvalid hpads hinvalid
  exact ⟨_, k, hgives, hk, hid, hb, hvalid, hpads, hinvalid, hreg, hmem, hdies⟩

/-- Settles O35: every command is taken by the one acceptance, and the requests' counts stand through the sending. -/
theorem gristRequests : Obligations.GristRequests := ⟨gristAccepted, gristRequestsCount⟩

end Sys2Proof.Proofs.GristDescriptors
end

section
/-! SUPPORT. Homes of lines: a request that nothing holds, what a corrected and a newly poisoned line change, and which registers
count them (R194, R197, R206, R210, R218, R221). -/

namespace Sys2Proof.Proofs.Homes

open Sys2Proof.Machine Sys2Proof.Claims Sys2Proof.Proofs.MemoryAccess Sys2Proof.Proofs.TileEntries

/-! ### A free home -/

theorem who_ne_of_not_sbHas {s : State} {who : Nat} (h : s.sbHas who = false) (c : Cd) {e : SbEnt} (he : e ∈ (s.die c).sb) :
    e.who ≠ who := by
  intro heq
  refine Bool.eq_false_iff.mp h (sbHas_of_atEntry (c := c) (List.any_eq_true.mpr ⟨e, he, beq_iff_eq.mpr heq⟩))

theorem sbArrive_of_free {sb : List SbEnt} {tile : Nat} (h : ∀ e ∈ sb, e.tile ≠ tile) (who : Nat) (cls : SbClass) :
    sbArrive sb tile who cls = sb ++ [⟨tile, who, cls, true⟩] := by
  have hnone : sb.any (fun e => e.tile == tile && !e.held) = false := List.any_eq_false.mpr fun e he => by simp [h e he]
  have hholders : sbHolders sb tile = [] := by
    rw [sbHolders, List.map_eq_nil_iff, List.filter_eq_nil_iff]
    exact fun e he => by simp [h e he]
  rw [sbArrive, hnone, hholders]
  rfl

section
variable {s : State} {who : Nat} {cd : Cd} {x : SbEnt}

/-- An operation alone at an entry that holds. -/
theorem sbHeld_arrived (h : s.sbHas who = false) (hx : x.held = true) :
    (s.updDie cd (fun d => { d with sb := d.sb ++ [x] })).sbHeld who = true := by
  refine List.all_eq_true.mpr fun i _ => List.all_eq_true.mpr fun e he => ?_
  by_cases hc : cdOf i = cd
  · rw [hc, State.updDie, State.die_setDie_self] at he
    rcases List.mem_append.mp he with he | he
    · simp [who_ne_of_not_sbHas h cd he]
    · simp [List.mem_singleton.mp he, hx]
  · rw [State.updDie, State.die_setDie_ne _ _ hc] at he
    simp [who_ne_of_not_sbHas h _ he]

/-- Arriving and leaving again changes nothing. -/
theorem sbDrop_arrived (h : s.sbHas who = false) (hx : x.who = who) :
    (s.updDie cd (fun d => { d with sb := d.sb ++ [x] })).sbDrop who = s := by
  have hkeep (c : Cd) : sbRelease (s.die c).sb who = (s.die c).sb :=
    List.filter_eq_self.mpr fun e he => by simp [who_ne_of_not_sbHas h c he]
  have hdies : ((s.updDie cd (fun d => { d with sb := d.sb ++ [x] })).sbDrop who).dies = s.dies := by
    refine Vector.ext fun i hi => ?_
    have hdie := die_sbDrop (s.updDie cd (fun d => { d with sb := d.sb ++ [x] })) who ⟨i, hi⟩
    refine hdie.trans ?_
    by_cases hc : (⟨i, hi⟩ : Cd) = cd
    · subst hc
      rw [State.updDie, State.die_setDie_self]
      simp only [sbRelease, List.filter_append]
      have hlast : [x].filter (fun e => e.who != who) = [] := by simp [hx]
      rw [hlast, List.append_nil]
      exact congrArg (fun sb => ({ s.die ⟨i, hi⟩ with sb := sb } : Die)) (hkeep ⟨i, hi⟩)
    · rw [State.updDie, State.die_setDie_ne _ _ hc, hkeep]
      rfl
  calc _ = { s with dies := ((s.updDie cd (fun d => { d with sb := d.sb ++ [x] })).sbDrop who).dies } := rfl
    _ = s := by rw [hdies]

end

/-- The class in which a request arrives at its tile. -/
def classOf (writes : Bool) : SbClass := if writes then .writer else .reader

theorem sbMove_single (s : State) (who : Nat) (writes : Bool) (x : Nat × Nat) :
    s.sbMove who (if writes then [] else [x]) (if writes then [x] else []) =
      s.updDie (cdOf x.1) (fun d => { d with sb := sbArrive d.sb x.2 who (classOf writes) }) := by
  cases writes <;> rfl

section
variable {s : State} {a l : Nat}

theorem homeStatus_of_answers (h : HomeAnswers s a l) : s.homeStatus a = 0 := by
  obtain ⟨hl, -, -, -, -, hfence⟩ := h
  have hup : s.boot.failed = false := by
    by_contra hfailed
    rw [Bool.not_eq_false] at hfailed
    rw [State.loc, if_pos hfailed] at hl
    cases hl
  have hnot : (winDie a).any s.fenced = false := by
    cases hw : winDie a with
    | none => rfl
    | some i => simpa [State.fenced] using hfence i hw
  rw [State.homeStatus, hup, hnot, Bool.or_false, if_neg Bool.false_ne_true, State.mapped, hl]
  rfl

/-- A request at a home that answers is performed at once. -/
theorem homeArrive_of_answers (h : HomeAnswers s a l) (org : Origin) :
    s.homeArrive a org = s.homeServe ⟨8, a, 0, 0, whoHome s.memc.next, org⟩ := by
  obtain ⟨hl, hready, hheld, hsb, htile, -⟩ := h
  have htest : s.underTest l = false := by
    simp only [State.lineHeld, hl, Bool.or_eq_false_iff] at hheld
    exact hheld.1
  have hopen : s.homeOpen a = true := by simp only [State.homeOpen, hl, hready, htest, Bool.not_false, Bool.and_self]
  unfold State.homeArrive
  dsimp only
  cases htile' : tileOf a with
  | none =>
    simp only [Option.toList_none, if_true, hopen, hheld, GristAcceptance.sbHeld_of_not_sbHas hsb, Bool.not_false, Bool.and_self]
  | some x =>
    have harrive : s.sbMove (whoHome s.memc.next) (if org.writes then [] else [x]) (if org.writes then [x] else []) =
        s.updDie (cdOf x.1) (fun d => { d with sb := d.sb ++ [⟨x.2, whoHome s.memc.next, classOf org.writes, true⟩] }) := by
      rw [sbMove_single, State.updDie, State.updDie, sbArrive_of_free (htile x htile')]
    simp only [Option.toList_some, List.cons_ne_nil, if_false, harrive, hopen, hheld, sbHeld_arrived hsb, sbDrop_arrived hsb,
      Bool.not_false, Bool.and_self, if_true]

end

/-- A request that its home may not perform waits behind those that arrived before. -/
theorem homeArrive_waits {s : State} {a : Nat} (h : s.homeOpen a = false ∨ s.lineHeld a = true) (org : Origin) :
    ∃ t r, s.homeArrive a org = t ∧ t.homeQ = s.homeQ ++ [r] ∧ r.addr = a ∧ r.origin = org ∧ t.mem = s.mem ∧
      t.poison = s.poison ∧ t.out = s.out := by
  have hno (b : Bool) : ¬(s.homeOpen a && !s.lineHeld a && b) = true := by
    rcases h with h | h <;> simp [h]
  obtain ⟨⟨ds, hds⟩, -⟩ := sameButTiles_ite (c := (tileOf a).toList = []) (SameButTiles.refl s)
    (sameButTiles_sbMove s (whoHome s.memc.next) (if org.writes then [] else (tileOf a).toList)
      (if org.writes then (tileOf a).toList else []))
  refine ⟨_, ⟨8, a, 0, 0, whoHome s.memc.next, org⟩, if_neg (hno _), ?_, rfl, rfl, ?_, ?_, ?_⟩ <;> rw [hds]

/-! ### Counting registers -/

theorem quadOf_lt {l : Nat} (h : stackOf l = none) : quadOf l < 4 := by
  unfold quadOf
  rw [h]
  dsimp only
  split
  · next i hi =>
    unfold winDie at hi
    split at hi
    · have := Option.some.inj hi
      omega
    · cases hi
  · omega

theorem stackOf_lt {l j : Nat} (h : stackOf l = some j) : j < 72 := by
  unfold stackOf at h
  split at h
  · have := Option.some.inj h
    omega
  split at h
  · have := Option.some.inj h
    omega
  · cases h

theorem ceReg_bounds (l : Nat) : 0x3100 ≤ ceReg l ∧ ceReg l < 0x3430 := by
  unfold ceReg
  split
  · next j hj =>
    have := stackOf_lt hj
    omega
  · next hnone =>
    have := quadOf_lt hnone
    omega

theorem ueReg_bounds (l : Nat) : 0x3100 ≤ ueReg l ∧ ueReg l < 0x3430 := by
  unfold ueReg
  split
  · next j hj =>
    have := stackOf_lt hj
    omega
  · next hnone =>
    have := quadOf_lt hnone
    omega

/-! ### Corrected and poisoned lines -/

/-- What a corrected line changes: its counter, the log and when it was last logged. -/
theorem corrected_facts (s : State) (l : Nat) :
    (s.corrected l).mem = s.mem ∧ (s.corrected l).poison = s.poison ∧ (s.corrected l).out = s.out ∧
      (s.corrected l).dies = s.dies ∧ (s.corrected l).reg (ceReg l) = satAdd32 (s.reg (ceReg l)) 1 := by
  have hce := ceReg_bounds l
  unfold State.corrected
  extract_lets u k old due n others m ce
  have hcount : u.reg (ceReg l) = satAdd32 (s.reg (ceReg l)) 1 := Registers.reg_countReg_self ..
  split
  · refine ⟨?_, ?_, ?_, ?_, ?_⟩
    iterate 4 · rw [ByteFields.log_eq]; rfl
    · rw [ByteFields.reg_log_ne _ _ _ _ _ _ _ (by omega) (by omega)]
      exact hcount
  · exact ⟨rfl, rfl, rfl, rfl, hcount⟩

/-- Registers that are counted when a line is found uncorrectable, or lost from the log. -/
def PoisonReg (o : Nat) : Prop := o = 0x3058 ∨ o = 0x704C ∨ o = 0x7054

/-- What a newly poisoned line changes: the mark, the count, the log and the event. -/
theorem newPoison_facts (s : State) (l : Nat) :
    (s.newPoison l).poison = setIns s.poison (l / 64) ∧ (s.newPoison l).mem = s.mem ∧ (s.newPoison l).out = s.out ∧
      (s.newPoison l).dies = s.dies ∧ (s.newPoison l).memc = s.memc ∧ (s.newPoison l).boot = s.boot ∧
      ∀ o, ¬PoisonReg o → (s.newPoison l).reg o = s.reg o := by
  unfold State.newPoison
  extract_lets n a u
  refine ⟨?_, ?_, ?_, ?_, ?_, ?_, fun o ho => ?_⟩ <;> rw [ByteFields.event_eq]
  iterate 6 · rw [ByteFields.log_eq]; rfl
  unfold PoisonReg at ho
  exact (ByteFields.reg_log_ne _ _ _ _ _ _ _ (by omega) (by omega)).trans (Registers.reg_countReg_ne _ _ (by omega))

theorem loc_newPoison (s : State) (l : Nat) : (s.newPoison l).loc = s.loc := by
  obtain ⟨-, -, -, -, -, hboot, hreg⟩ := newPoison_facts s l
  refine HomeLocations.loc_congr (fun o ho => hreg o ?_) (by rw [hboot])
  unfold HomeLocations.LayoutReg at ho
  unfold PoisonReg
  omega

theorem contains_setIns (p : List Nat) (k : Nat) : (setIns p k).contains k = true := by
  rw [List.contains_iff_mem, mem_setIns]
  exact .inl rfl

end Sys2Proof.Proofs.Homes
end

section
/-! PROOF. Replies of grist owners, retries, the end of a descriptor, and the grist registers (R203, R238, R241, R243, R265). -/

namespace Sys2Proof.Proofs.GristReplies

open Sys2Proof.Machine Sys2Proof.Claims Sys2Proof.Proofs.GristSending Sys2Proof.Proofs.Arrivals
open Sys2Proof.Proofs.MemoryAccess Sys2Proof.Proofs.ByteRanges

/-! ### Replies -/

theorem takeGristReply_busy {s : State} {p : Packet} {j : GJob} {g : GGroup} (hj : s.jobOf (fieldB p.payload 0 4) = some (j, g))
    (hbusy : bitAt (fieldB p.payload 6 1) 3 = true) : takeGristReply p s = s.putJob (j.putGroup { g with st := 2 }) := by
  simp only [takeGristReply, hj, hbusy, if_true]

/-- A group's record as the last reply leaves it. -/
abbrev answered (p : Packet) (g : GGroup) : GGroup :=
  { g with flags := g.flags ||| fieldB p.payload 6 1, pooled := fieldB p.payload 8 4, st := 3 }

theorem none_waits_putJob {s : State} {j : GJob} {g : GGroup} (h : ∀ k ∈ s.grist.jobs, ∀ h ∈ k.groups, h.st ≠ 0)
    (hj : j ∈ s.grist.jobs) (hg : g.st ≠ 0) :
    ∀ k ∈ (s.putJob (j.putGroup g)).grist.jobs, ∀ h ∈ k.groups, h.st ≠ 0 := by
  intro k hk i hi
  obtain ⟨m, hm, rfl⟩ := List.mem_map.mp hk
  split at hi
  · obtain ⟨n, hn, rfl⟩ := List.mem_map.mp hi
    split
    · exact hg
    · exact h j hj n hn
  · exact h m hm i hi

theorem mem_of_jobOf {s : State} {tag : Nat} {j : GJob} {g : GGroup} (h : s.jobOf tag = some (j, g)) : j ∈ s.grist.jobs := by
  obtain ⟨l, k, r, hl, hk, -⟩ := List.findSome?_eq_some_iff.mp h
  obtain ⟨_, -, heq⟩ := Option.map_eq_some_iff.mp hk
  have hkj : k = j := congrArg Prod.fst heq
  rw [hl, ← hkj]
  simp

theorem takeGristReply_last {s : State} {p : Packet} {j : GJob} {g : GGroup} (hj : s.jobOf (fieldB p.payload 0 4) = some (j, g))
    (hbusy : bitAt (fieldB p.payload 6 1) 3 = false) (hn : fieldB p.payload 5 1 = 0)
    (hwait : ∀ k ∈ s.grist.jobs, ∀ h ∈ k.groups, h.st ≠ 0) :
    takeGristReply p s = s.putJob (j.putGroup (answered p g)) := by
  have hmin : min (fieldB p.payload 5 1) 56 = 0 := by rw [hn]; rfl
  have hpump := gristPump_of_none_waits (none_waits_putJob hwait (mem_of_jobOf hj) (g := answered p g) (fun h => absurd h (by decide : ¬3 = 0))) g.bd
  simp only [takeGristReply, hj, hbusy, hmin, Bool.false_eq_true, if_false, if_true, true_or]
  exact hpump

/-- A reply taken in order that replaces one group of one descriptor. -/
theorem reply_inOrder {s : State} {q : Fin 9} {p : Packet} {f : RxFlow} {k : GJob} (hin : InOrder s q p f) (hty : p.type = 0x0D)
    (hperform : takeGristReply p (fetched s q p f) = (fetched s q p f).putJob k) :
    ((takePacket q (fun p => p.type == 0x0D) takeGristReply s).grist = (s.putJob k).grist ∧
      (takePacket q (fun p => p.type == 0x0D) takeGristReply s).mem = s.mem) ∧
      TookInOrder (takePacket q (fun p => p.type == 0x0D) takeGristReply s) p f := by
  obtain ⟨⟨rx, ej, inj, ht⟩, htook⟩ := takePacket_inOrder hin (sel := fun p => p.type == 0x0D) (by simp [hty])
    (perform := takeGristReply) (by rw [hperform]; rfl)
  refine ⟨?_, htook⟩
  rw [ht, hperform]
  exact ⟨rfl, rfl⟩

/-! ### The end of a descriptor -/

theorem length_summary (j : GJob) : j.summary.length = 64 := by
  simp [GJob.summary, length_natLE, zeroB]

/-- What ends with a descriptor: its record, and its instruction with a status. -/
def finishJob (s : State) (j : GJob) (n status : Nat) : State :=
  ({ s.sbDrop (whoMove j.cd j.op) with grist := { (s.sbDrop (whoMove j.cd j.op)).grist with
    jobs := (s.sbDrop (whoMove j.cd j.op)).grist.jobs.filter (fun k => k.id != n) } }).endHelper j.cd j.op status

theorem endHelper_facts {s : State} {cd id status : Nat} {o : Op} (ho : (s.die (cdOf cd)).op? id = some o) :
    ((s.endHelper cd id status).die (cdOf cd)).ops = ((s.die (cdOf cd)).putOp { o with st := .ended, status := status }).ops ∧
      ∃ d, s.endHelper cd id status = { s with dies := d } := by
  refine ⟨?_, _, rfl⟩
  rw [State.endHelper, State.updDie, State.die_setDie_self]
  simp only [ho]

theorem finishJob_facts {s : State} {j : GJob} {n status : Nat} {o : Op} (ho : (s.die (cdOf j.cd)).op? j.op = some o) :
    ((finishJob s j n status).die (cdOf j.cd)).ops = ((s.die (cdOf j.cd)).putOp { o with st := .ended, status := status }).ops ∧
      (finishJob s j n status).byte = s.byte ∧ (finishJob s j n status).grist.jobs = s.grist.jobs.filter (fun k => k.id != n) := by
  obtain ⟨u, hu⟩ : ∃ u : State, u = { s.sbDrop (whoMove j.cd j.op) with grist := { (s.sbDrop (whoMove j.cd j.op)).grist with
    jobs := (s.sbDrop (whoMove j.cd j.op)).grist.jobs.filter (fun k => k.id != n) } } := ⟨_, rfl⟩
  have hdie : u.die (cdOf j.cd) = { s.die (cdOf j.cd) with sb := sbRelease (s.die (cdOf j.cd)).sb (whoMove j.cd j.op) } := by
    rw [hu]
    exact TileEntries.die_sbDrop s _ _
  obtain ⟨hops, d, hd⟩ := endHelper_facts (s := u) (cd := j.cd) (id := j.op) (status := status) (o := o) (by rw [hdie]; exact ho)
  rw [hdie] at hops
  rw [finishJob, ← hu]
  refine ⟨hops, ?_, ?_⟩
  · rw [hd, hu]; rfl
  · rw [hd, hu]; rfl

/-- The summary stored, and what ends with the descriptor. -/
theorem finishJob_stored {s u : State} {j k : GJob} {n status : Nat} {o : Op} (hu : Stored s u (dSummary j.b) k.summary)
    (ho : (s.die (cdOf j.cd)).op? j.op = some o) :
    (finishJob u j n status).bytes (dSummary j.b) 64 = k.summary ∧
      (finishJob u j n status).grist.jobs = s.grist.jobs.filter (fun k => k.id != n) ∧
      ((finishJob u j n status).die (cdOf j.cd)).ops = (withOp (s.die (cdOf j.cd)) { o with st := .ended, status := status }).ops ∧
      (finishJob u j n status).byte = u.byte := by
  have hbytes := hu.bytes_eq
  rw [length_summary] at hbytes
  obtain ⟨⟨m, rfl⟩, -⟩ := hu
  obtain ⟨hops, hbyte, hjobs⟩ := finishJob_facts (s := { s with mem := m }) (j := j) (n := n) (status := status) (o := o) ho
  refine ⟨?_, hjobs, hops, hbyte⟩
  rw [bytes_congr fun x _ _ => congrFun hbyte x, hbytes]

/-- What a descriptor that may end leaves, from the state after its outputs. -/
theorem gristComplete_eq {s t : State} {n : Nat} {j : GJob} {p : Nat} (hj : s.grist.jobs.find? (fun j => j.id == n) = some j)
    (hfold : j.fold = 0) (hdone : ∀ g ∈ j.groups, g.st = 3)
    (hx : (if dCmd j.b = 0 ∧ j.outcome = 0 then
          (List.range (dCount j.b)).foldl (fun x k => let y := x.1.writeBag j k; (y.1, x.2 + y.2)) (s, 0)
        else (s, j.poisoned + j.poisonedRows)) = (t, p)) :
    gristComplete n s = finishJob (t.putBytes (dSummary j.b) ({ j with poisoned := p } : GJob).summary [] 3) j n
      (if p ≠ 0 then 5 else if j.groups.any (·.unreachable) then 8 else 0) := by
  have hgo : ¬(j.fold ≠ 0 ∨ j.groups.any (fun g => g.st != 3) = true) := by
    rw [List.any_eq_true]
    rintro (h | ⟨g, hg, h⟩)
    · exact h hfold
    · simp [hdone g hg] at h
  simp only [gristComplete, hj, if_neg hgo, hx]
  rfl

/-- The one bag of a look-up whose owners all answered. -/
theorem writeBag_one {s : State} {j : GJob} (hgood : ∀ g ∈ j.groups, g.bag = 0 ∧ g.unreachable = false ∧ g.flags = 0) :
    s.writeBag j 0 = (s.putBytes (dData j.b) ((List.range (gN j.r)).flatMap (fun i => natLE (dElem j.b)
      (poolBag j.r (dPool j.b) (dHalf j.b) ((j.groups.filter (fun g => g.pooled != 0)).foldl (fun x g => x + g.pooled) 0)
        ((j.groups.filter (fun g => g.pooled != 0)).map (fun g => g.elem i))))) []
      (((List.range (gN j.r)).flatMap (fun i => natLE (dElem j.b)
      (poolBag j.r (dPool j.b) (dHalf j.b) ((j.groups.filter (fun g => g.pooled != 0)).foldl (fun x g => x + g.pooled) 0)
        ((j.groups.filter (fun g => g.pooled != 0)).map (fun g => g.elem i))))).length / 64 + 2), 0) := by
  have hall : j.groups.filter (fun g => g.bag == 0) = j.groups :=
    List.filter_eq_self.mpr fun g hg => beq_iff_eq.mpr (hgood g hg).1
  have hlost : j.groups.any (fun g => g.unreachable || bitAt g.flags 1) = false :=
    List.any_eq_false.mpr fun g hg => by simp [(hgood g hg).2.1, (hgood g hg).2.2, bitAt]
  have hbad : j.groups.any (fun g => bitAt g.flags 0) = false :=
    List.any_eq_false.mpr fun g hg => by simp [(hgood g hg).2.2, bitAt]
  simp only [State.writeBag, hall, hlost, hbad, Bool.false_eq_true, if_false, Nat.zero_mul, Nat.add_zero]

theorem length_flatMap_natLE (n w : Nat) (f : Nat → Nat) : ((List.range n).flatMap (fun i => natLE w (f i))).length = n * w := by
  simp [List.length_flatMap, length_natLE]

/-! ### Registers -/

theorem gristCtrlWrite_below {s : State} {off v : Nat} {row : RegRow} (hready : s.ready = true) (hlo : 0x6000 ≤ off)
    (hhi : off < 0x6018) (hrow : regRow? off = some row) :
    gristCtrlWrite off v s = if s.gristBusy then s else s.setReg off (regMerge row off (s.reg off) (v % 2 ^ 32)) := by
  have hgo : ¬(s.ready = false ∨ off < 0x6000 ∨ 0x6018 < off) := by
    simp [hready]
    omega
  have hne : off ≠ 0x6018 := by omega
  unfold gristCtrlWrite
  rw [if_neg hgo]
  simp only [hrow, hne, false_and, if_false]

/-- The row of GRIST_CTRL. -/
abbrev ctrlRow : RegRow := ⟨0x6018, 4, 1, 0x1010, 0xFF3F, 0⟩

theorem regRow_ctrl : regRow? 0x6018 = some ctrlRow := by decide

theorem keepReserved_ctrl {old new : Nat} (h : 1 ≤ fld new 0 6) : keepReserved 0x6018 old new = new := by
  have hone : keepReserved 0x6018 old new =
      if 1 ≤ fld new 0 6 ∧ fld new 0 6 ≤ 63 then new else setFld new 0 6 (fld old 0 6) := rfl
  have hlt : fld new 0 6 < 2 ^ 6 := Completions.fld_lt ..
  rw [hone, if_pos ⟨h, by omega⟩]

/-- The reply store that a write names, where its code is not reserved. -/
theorem fld_regMerge_ctrl {old v : Nat} (h : 1 ≤ fld v 0 6) : fld (regMerge ctrlRow 0x6018 old (v % 2 ^ 32)) 0 6 = fld v 0 6 := by
  have hbits : fld (((old &&& (0xFFFFFFFF ^^^ 0xFF3F)) ||| (v % 2 ^ 32 &&& 0xFF3F)) ^^^
      ((((old &&& (0xFFFFFFFF ^^^ 0xFF3F)) ||| (v % 2 ^ 32 &&& 0xFF3F)) &&& (v % 2 ^ 32)) &&& 0)) 0 6 = fld v 0 6 := by
    refine Nat.eq_of_testBit_eq fun i => ?_
    rw [BitFields.testBit_fld, BitFields.testBit_fld, Nat.zero_add]
    by_cases hi : i < 6
    · have hmask : (0xFFFFFFFF ^^^ 0xFF3F).testBit i = false ∧ (0xFF3F).testBit i = true := by
        interval_cases i <;> decide
      simp only [Nat.testBit_xor, Nat.testBit_or, Nat.testBit_and, hmask, Nat.zero_testBit, Nat.testBit_mod_two_pow,
        show i < 32 by omega, decide_true, Bool.true_and, Bool.and_false, Bool.and_true, Bool.false_or, Bool.xor_false]
    · simp [hi]
  exact (congrArg (fld · 0 6) (keepReserved_ctrl (hbits ▸ h))).trans hbits

theorem gristCtrlWrite_refused {s : State} {v : Nat} (hready : s.ready = true) (hquiet : s.quiet = false)
    (hnew : fld v 0 6 ≠ fld (s.reg 0x6018) 0 6) (h1 : 1 ≤ fld v 0 6) : gristCtrlWrite 0x6018 v s = s.orReg 0x3008 1 := by
  have hgo : ¬(s.ready = false ∨ 0x6018 < 0x6000 ∨ 0x6018 < 0x6018) := by
    simp [hready]
  unfold gristCtrlWrite
  rw [if_neg hgo, regRow_ctrl]
  dsimp only
  rw [if_pos ⟨rfl, by rwa [fld_regMerge_ctrl h1], by rw [hquiet]; rfl⟩]

theorem gristBusy_of {s : State} (h : s.grist.jobs ≠ [] ∨ s.grist.serving ≠ [] ∨ s.helpersLive 2 = true ∨
    ∃ q : Fin 9, ∃ x ∈ s.fab.eject[q], x.1.type = 0x0C) : s.gristBusy = true := by
  simp only [State.gristBusy, Bool.or_eq_true, Bool.not_eq_true', List.isEmpty_eq_false_iff]
  rcases h with h | h | h | ⟨q, x, hx, hty⟩
  · exact .inl (.inl (.inl h))
  · exact .inl (.inl (.inr h))
  · exact .inl (.inr h)
  · refine .inr (List.any_eq_true.mpr ⟨s.fab.eject[q], by simp, List.any_eq_true.mpr ⟨x, hx, beq_iff_eq.mpr hty⟩⟩)

/-! ### The statement -/

/-- Settles O39: by the packet taken in order, the record at the descriptor's end, and the register's row. -/
theorem gristRepliesAndEnd : Obligations.GristRepliesAndEnd := by
  unfold Obligations.GristRepliesAndEnd
  intro s
  refine ⟨fun q p f j g hin hty hj => ⟨fun hbusy => ?_, fun hbusy hn hwait => ?_⟩, fun tag j g hj hst => ?_,
    fun n j o hj hfold hdone ho hm _ hp => ?_,
    fun off v row hready hlo hhi hrow => ⟨fun hb => ?_, fun hb => ?_⟩, gristBusy_of, fun v hready hquiet hnew h1 => ?_⟩
  · obtain ⟨ht, htook⟩ := reply_inOrder hin hty (takeGristReply_busy (s := fetched s q p f) hj hbusy)
    exact ⟨_, rfl, htook, ht⟩
  · obtain ⟨ht, htook⟩ := reply_inOrder hin hty (takeGristReply_last (s := fetched s q p f) hj hbusy hn hwait)
    exact ⟨_, rfl, htook, ht.2, ht.1⟩
  · exact congrArg Host.Outcome.next (by simp only [busyRetry, hj, hst, if_true])
  · have hsum : Clear s (dSummary j.b) 64 := clear_of_plain ⟨hm, hp⟩
    have hput {u : State} (hc : Clear u (dSummary j.b) 64) (k : GJob) :
        Stored u (u.putBytes (dSummary j.b) k.summary [] 3) (dSummary j.b) k.summary :=
      stored_putBytes (by rwa [length_summary]) (by simp) (by rw [length_summary]; omega)
    refine ⟨fun hno => ?_, fun a m hcmd hout hcount ha hma _ hra hpa hapart hgood => ?_⟩
    · have hst := hput hsum { j with poisoned := j.poisoned + j.poisonedRows }
      obtain ⟨hbytes, hjobs, hops, hbyte⟩ := finishJob_stored (n := n)
        (status := if j.poisoned + j.poisonedRows ≠ 0 then 5 else if j.groups.any (·.unreachable) then 8 else 0) hst ho
      refine ⟨_, congrArg Host.Outcome.next (gristComplete_eq hj hfold hdone (if_neg (by omega))), fun x hx => ?_, hbytes, hjobs, hops⟩
      rw [hbyte, hst.byte_outside (by rwa [length_summary])]
    · obtain ⟨out, hout'⟩ : ∃ out, out = (List.range (gN j.r)).flatMap (fun i => natLE (dElem j.b) (poolBag j.r (dPool j.b) (dHalf j.b)
          ((j.groups.filter (fun g => g.pooled != 0)).foldl (fun x g => x + g.pooled) 0)
          ((j.groups.filter (fun g => g.pooled != 0)).map (fun g => g.elem i)))) := ⟨_, rfl⟩
      have hlen : out.length = m := by rw [hout', length_flatMap_natLE, hma]
      have hdata : Stored s (s.putBytes a out [] (out.length / 64 + 2)) a out :=
        stored_putBytes (hlen ▸ clear_of_plain ⟨hra, hpa⟩) (by simp) (by omega)
      have hbag : s.writeBag j 0 = (s.putBytes a out [] (out.length / 64 + 2), 0) := by
        rw [writeBag_one hgood, ← hout', ha]
      have hst := hput (hdata.clear hsum) { j with poisoned := 0 }
      have hdie : (s.putBytes a out [] (out.length / 64 + 2)).die = s.die := by
        obtain ⟨⟨m, h⟩, -⟩ := hdata
        rw [h]
        rfl
      have hgrist : (s.putBytes a out [] (out.length / 64 + 2)).grist = s.grist := by
        obtain ⟨⟨m, h⟩, -⟩ := hdata
        rw [h]
      obtain ⟨hbytes, hjobs, hops, hbyte⟩ := finishJob_stored (n := n)
        (status := if (0 : Nat) ≠ 0 then 5 else if j.groups.any (·.unreachable) then 8 else 0) hst (by rw [hdie]; exact ho)
      rw [hdie] at hops
      rw [hgrist] at hjobs
      refine ⟨_, congrArg Host.Outcome.next (gristComplete_eq hj hfold hdone (t := s.putBytes a out [] (out.length / 64 + 2)) (p := 0) ?_),
        ⟨hbytes, hjobs, hops⟩, ?_⟩
      · rw [if_pos ⟨hcmd, hout⟩, hcount]
        simp only [List.range_one, List.foldl_cons, List.foldl_nil, hbag, Nat.add_zero]
      · rw [← hout', bytes_congr (s := s.putBytes a out [] (out.length / 64 + 2)) fun x _ _ => ?_, ← hlen, hdata.bytes_eq]
        rw [hbyte, hst.byte_outside (by rw [length_summary]; omega)]
  · exact congrArg Host.Outcome.next (by rw [gristCtrlWrite_below hready hlo hhi hrow, hb]; rfl)
  · exact congrArg Host.Outcome.next (by rw [gristCtrlWrite_below hready hlo hhi hrow, hb]; rfl)
  · exact congrArg Host.Outcome.next (gristCtrlWrite_refused hready hquiet hnew h1)

end Sys2Proof.Proofs.GristReplies
end

section
/-! PROOF. Movement engines: what starts, what is sent, and how a movement completes (R162, R164, R165, R208). -/

namespace Sys2Proof.Proofs.Movements

open Sys2Proof.Machine Sys2Proof.Claims Sys2Proof.Proofs.MemoryAccess Sys2Proof.Proofs.ByteRanges
open Sys2Proof.Proofs.TileEntries Sys2Proof.Proofs.GristAcceptance Sys2Proof.Proofs.ByteFields Sys2Proof.Proofs.Payloads

/-! ### Operations replaced -/

theorem withOp_withOp (d : Die) {o o' : Op} (h : o'.id = o.id) : withOp (withOp d o) o' = withOp d o' := by
  simp only [withOp, List.map_map]
  congr 1
  refine List.map_congr_left fun x _ => ?_
  simp only [Function.comp_apply, beq_iff_eq, h]
  split <;> simp_all

theorem updDie_setDie (s : State) (cd : Cd) (d : Die) (f : Die → Die) : (s.setDie cd d).updDie cd f = s.setDie cd (f d) := by
  rw [State.updDie, State.die_setDie_self, State.setDie_setDie]

theorem sbHas_setDie_withOp (s : State) (cd : Cd) (o : Op) (who : Nat) :
    (s.setDie cd (withOp (s.die cd) o)).sbHas who = s.sbHas who := by
  have hsb (c : Cd) : ((s.setDie cd (withOp (s.die cd) o)).die c).sb = (s.die c).sb := by
    by_cases hc : c = cd
    · rw [hc, State.die_setDie_self]
    · rw [State.die_setDie_ne _ _ hc]
  simp only [State.sbHas, hsb]

/-- An operation whose tiles are held and whose lines wait for nothing. -/
theorem moveReady_of {u : State} {cd : Cd} {o : Op} (hsb : u.sbHeld (whoMove cd.val o.id) = true)
    (hsrc : o.code = 2 ∨ u.rowsHeld (mSrc o) (mLen o.w) (mSs o.w) (mRows o.w) = false)
    (hdst : o.code = 1 ∨ u.rowsHeld (mDst o) (mLen o.w) (mDs o.w) (mRows o.w) = false) : u.moveReady cd o = true := by
  have hs : (o.code == 2 || !u.rowsHeld (mSrc o) (mLen o.w) (mSs o.w) (mRows o.w)) = true := by
    rcases hsrc with h | h <;> simp [h]
  have hd : (o.code == 1 || !u.rowsHeld (mDst o) (mLen o.w) (mDs o.w) (mRows o.w)) = true := by
    rcases hdst with h | h <;> simp [h]
  rw [State.moveReady, hsb, hs, hd]
  rfl

/-! ### Status -/

theorem rowStatusIn_setDie_withOp (s : State) (cd : Cd) (o : Op) (wins : List Nat) (a n : Nat) :
    (s.setDie cd (withOp (s.die cd) o)).rowStatusIn wins a n = s.rowStatusIn wins a n := by
  have hfenced (k : Nat) : (s.setDie cd (withOp (s.die cd) o)).fenced k = s.fenced k := by
    unfold State.fenced
    by_cases hc : cdOf k = cd
    · rw [hc, State.die_setDie_self]
    · rw [State.die_setDie_ne _ _ hc]
  unfold State.rowStatusIn
  simp only [hfenced]
  rfl

/-- Lines of this device do not depend on the host windows. -/
theorem rowStatusIn_of_mapped {s : State} {a n : Nat} (h : s.rangeMapped a n = true) (wins : List Nat) :
    s.rowStatusIn wins a n = s.rowStatus a n := by
  refine List.foldl_ext _ _ 0 fun st i hi => ?_
  have hm := List.all_eq_true.mp h i hi
  simp only [hm, if_true]

theorem all_zero_of_foldl {g : Nat → Nat} {l : List Nat} {st : Nat}
    (h : l.foldl (fun st i => if st ≠ 0 then st else g i) st = 0) : st = 0 ∧ ∀ i ∈ l, g i = 0 := by
  induction l generalizing st with
  | nil => exact ⟨h, by simp⟩
  | cons i l ih =>
    obtain ⟨hfirst, hrest⟩ := ih h
    by_cases hst : st = 0
    · have hfirst : g i = 0 := by simpa [hst] using hfirst
      exact ⟨hst, fun j hj => (List.mem_cons.mp hj).elim (fun hj => hj ▸ hfirst) (hrest j)⟩
    · simp [hst] at hfirst

theorem lt_of_mapped {s : State} {a : Nat} (h : s.mapped a = true) : a < 2 ^ 48 := by
  unfold State.mapped State.loc at h
  split at h
  · cases h
  split at h
  · next hlt => exact hlt.trans (by decide)
  split at h
  · omega
  split at h
  · omega
  split at h
  · omega
  · cases h

theorem lt_of_hostAddrIn {wins : List Nat} {a : Nat} (h : (hostAddrIn wins a).isSome = true) : a < 2 ^ 48 := by
  unfold hostAddrIn hostAddrBy at h
  split at h
  · omega
  · cases h

/-- A row that may be used lies below 2^48. -/
theorem lt_of_rowStatus {s : State} {a n : Nat} (hn : 0 < n) (h : s.rowStatus a n = 0) : a < 2 ^ 48 := by
  have hline := (all_zero_of_foldl h).2 0 (List.mem_range.mpr (by omega))
  rw [Nat.mul_zero, Nat.add_zero] at hline
  have hlt : a / 64 * 64 < 2 ^ 48 := by
    by_cases hm : s.mapped (a / 64 * 64) = true
    · exact lt_of_mapped hm
    · rw [if_neg hm] at hline
      split at hline
      · next hh => exact lt_of_hostAddrIn (Bool.and_eq_true_iff.mp hh).2
      · cases hline
  omega

/-! ### The packets of a put -/

section
variable {s : State} {dst type flow addr tag : Nat} {data : List Byte} {poison : Nat → Nat → Bool} {final : Bool}

theorem drop_eq_sliceB_append (data : List Byte) {off c : Nat} (h : off + c ≤ data.length) :
    data.drop off = sliceB data off c ++ data.drop (off + c) := by
  refine List.ext_getElem (by simp; omega) fun i h1 h2 => ?_
  rw [List.getElem_drop]
  by_cases hi : i < c
  · rw [List.getElem_append_left (by simpa using hi)]
    have := List.length_drop ▸ h1
    simp [sliceB, List.getElem?_eq_getElem (show off + i < data.length by omega)]
  · rw [List.getElem_append_right (by simpa using hi)]
    simp only [length_sliceB, List.getElem_drop]
    congr 1
    omega

/-- Packets of data from which no poison derives: of their type, to their flow, without a mark, and with the data in
order. -/
theorem dataPackets_clean (hpoison : ∀ off n, 0 < n → off + n ≤ data.length → poison off n = false) {n off : Nat}
    (hoff : off < data.length) (hn : data.length - off ≤ 240 * n) :
    (∀ p ∈ s.dataPackets dst type flow addr tag data poison final n off,
      p.type = type ∧ p.dst = dst % 2 ^ 20 ∧ p.flow = flow ∧ p.poison = 0) ∧
    (s.dataPackets dst type flow addr tag data poison final n off).flatMap (fun p => sliceB p.payload 16 (p.len - 16)) =
      data.drop off := by
  induction n generalizing off with
  | zero => omega
  | succ n ih =>
    unfold State.dataPackets
    extract_lets c last q
    have hc : c = min 240 (data.length - off) := rfl
    have hq (i : Nat) : q i = 0 := by
      refine if_neg ?_
      rw [Bool.not_eq_true, Bool.and_eq_false_iff]
      by_cases hi : 64 * i < c + 16
      · right
        refine hpoison _ _ ?_ ?_ <;> split <;> omega
      · left
        simpa using hi
    have hpay (x : List Byte) (hx : x.length = 16) : sliceB (sliceB (x ++ sliceB data off c) 0 256) 16 (16 + c - 16) = sliceB data off c := by
      rw [Nat.add_sub_cancel_left, sliceB_payload _ (by omega), sliceB_append_right _ (by omega), hx, Nat.sub_self]
      conv_lhs => rw [← length_sliceB data off c]
      rw [length_sliceB, sliceB_sliceB _ (by omega), Nat.add_zero]
    clear_value c
    simp only [hq, last, List.mem_cons, List.flatMap_cons]
    by_cases hlast : off + c = data.length
    · simp only [hlast, decide_true, if_true, List.not_mem_nil, or_false, List.flatMap_nil, List.append_nil]
      refine ⟨fun p hp => by rw [hp]; exact ⟨rfl, rfl, rfl, rfl⟩, ?_⟩
      rw [drop_eq_sliceB_append data hlast.le, hlast, List.drop_length, List.append_nil]
      exact hpay _ (by simp [length_natLE])
    · simp only [hlast, decide_false, Bool.false_eq_true, if_false]
      obtain ⟨hall, hdata⟩ := ih (off := off + c) (by omega) (by omega)
      refine ⟨fun p hp => hp.elim (fun h => by rw [h]; exact ⟨rfl, rfl, rfl, rfl⟩) (hall p), ?_⟩
      rw [hdata, drop_eq_sliceB_append data (off := off) (c := c) (by omega)]
      exact congrArg (· ++ _) (hpay _ (by simp [length_natLE]))

end

/-! ### Starting -/

section
variable {s : State} {cd : Cd} {o : Op} {e : Fin 4} {host : HostData}

/-- The operation as its engine begins it. -/
abbrev started (s : State) (e : Fin 4) (o : Op) : Op := { o with st := .running, phys := e.val, wins := s.windows }

/-- The tiles that an operation reads and writes. -/
def srcTiles (o : Op) : List (Nat × Nat) := if o.code = 2 then [] else tilesOfRows (mSrc o) (mLen o.w) (mSs o.w) (mRows o.w)
def dstTiles (o : Op) : List (Nat × Nat) := if o.code = 1 then [] else tilesOfRows (mDst o) (mLen o.w) (mDs o.w) (mRows o.w)

theorem movementStart_reserved (hmode : (s.die cd).mode ≠ .fenced) (hidle : (s.die cd).moving e = none)
    (hnext : (s.die cd).ops.find? (fun x => x.cls == 4 && x.st == .queued) = some o) (hres : mReserved o.w = true) :
    movementStart cd e host s = s.setDie cd (withOp (s.die cd) { o with st := .ended, status := 2, phys := e.val }) := by
  simp only [movementStart, hmode, hidle, hnext, hres, if_false, if_true]
  rfl

/-- The state in which an operation has begun and arrived at its tiles. -/
def entered (s : State) (cd : Cd) (e : Fin 4) (o : Op) : State :=
  (s.setDie cd (withOp (s.die cd) (started s e o))).sbMove (whoMove cd.val o.id) (srcTiles o) (dstTiles o)

theorem movementStart_begins (hmode : (s.die cd).mode ≠ .fenced) (hidle : (s.die cd).moving e = none)
    (hnext : (s.die cd).ops.find? (fun x => x.cls == 4 && x.st == .queued) = some o) (hres : mReserved o.w = false) :
    movementStart cd e host s =
      if o.code ≠ 0 ∧ (entered s cd e o).moveReady cd (started s e o) = true then
        sendMove cd (started s e o) host (entered s cd e o)
      else entered s cd e o := by
  simp only [movementStart, hmode, hidle, hnext, hres, if_false, Bool.false_eq_true]
  rfl

theorem entered_facts (s : State) (cd : Cd) (e : Fin 4) (o : Op) :
    ((entered s cd e o).die cd).ops = (withOp (s.die cd) (started s e o)).ops ∧ (entered s cd e o).mem = s.mem ∧
      (entered s cd e o).fab = s.fab := by
  obtain ⟨⟨ds, hds⟩, hsb⟩ := sameButTiles_sbMove (s.setDie cd (withOp (s.die cd) (started s e o))) (whoMove cd.val o.id)
    (srcTiles o) (dstTiles o)
  obtain ⟨sb, hsb⟩ := hsb cd
  have hentered : entered s cd e o = _ := hds
  refine ⟨?_, by rw [hentered]; rfl, by rw [hentered]; rfl⟩
  have hops := congrArg Die.ops hsb
  rw [State.die_setDie_self] at hops
  exact hops

theorem entered_of_no_tiles (hs : srcTiles o = []) (hd : dstTiles o = []) :
    entered s cd e o = s.setDie cd (withOp (s.die cd) (started s e o)) := by
  rw [entered, hs, hd, sbMove_nil]

/-- One side of one row: its address, and whether its line waits. -/
theorem rowAt_zero (a stride : Nat) : rowAt a stride 0 = a % 2 ^ 48 := by rw [rowAt, Nat.zero_mul, Nat.add_zero]

theorem rowsHeld_one (s : State) (a len stride stride' : Nat) : s.rowsHeld a len stride 1 = s.rowsHeld a len stride' 1 := by
  simp [State.rowsHeld]

theorem goodRows_one {status : Nat → Nat} (h : status 0 = 0) : goodRows status 1 0 = (1, 0) := by
  simp [goodRows, h]

/-- The packets of one row of a put. -/
abbrev rowPackets (s : State) (cd : Cd) (e : Fin 4) (o : Op) (host : HostData) : List Packet :=
  s.putPackets cd.val e.val (started s e o) host 1

/-- A put of one row that may be read whole. -/
theorem sendMove_put (hcode : o.code = 1) (hrows : mRows o.w = 1) {u : State} (hc : Clear u (mSrc o) (mLen o.w))
    (hlen : 0 < mLen o.w) (hin : mSrc o + mLen o.w ≤ 2 ^ 48) (hst : u.rowStatusIn s.windows (mSrc o) (mLen o.w) = 0) :
    sendMove cd (started s e o) host u =
      (u.updDie cd (fun d => d.putOp { started s e o with
        decided := true, status := 0, poison := false, packets := (u.putPackets cd.val e.val (started s e o) host 1).length })).sendAll
        (u.putPackets cd.val e.val (started s e o) host 1) (.op cd.val o.id) := by
  have haddr : rowAt (mSrc o) (mSs o.w) 0 = mSrc o := by rw [rowAt_zero, Nat.mod_eq_of_lt (by omega)]
  have hgood : goodRows (fun r => u.srcStatus ((started s e o).view host) (rowAt (mSrc o) (mSs o.w) r) (mLen o.w)) 1 0 = (1, 0) :=
    goodRows_one (by rw [haddr]; exact (srcStatus_of_clear hc _).trans hst)
  have hpoison : u.rangePoisoned (mSrc o) (mLen o.w) = false := Clear.rangePoisoned hc hlen
  have hask : u.askHost s.windows (mSrc o) (mLen o.w) = u := askHost_of_mapped _ _ (Clear.mapped hc le_rfl (by omega))
  have hbad : (List.range 1).any (fun r => u.rangePoisoned (rowAt (mSrc o) (mSs o.w) r) (mLen o.w)) = false := by
    simp [haddr, hpoison]
  have hone : (List.range 1).foldl (fun t r => t.askHost s.windows (rowAt (mSrc o) (mSs o.w) r) (mLen o.w)) u = u := by
    simp [haddr, hask]
  have hgo : sendMove cd (started s e o) host u = _ := if_pos hcode
  rw [hgo]
  dsimp only [mSrc] at hgood hbad hone ⊢
  rw [hrows, hgood]
  dsimp only
  rw [hbad, hone]

theorem rowPackets_clean {u : State} (hc : Clear u (mSrc o) (mLen o.w)) (hlen : 0 < mLen o.w)
    (hin : mSrc o + mLen o.w ≤ 2 ^ 48) :
    (∀ p ∈ u.putPackets cd.val e.val (started s e o) host 1,
      p.type = 0x03 ∧ p.dst = o.sv.getD 1 0 % 2 ^ 20 ∧ p.flow = memFlow cd.val 0 e.val ∧ p.poison = 0) ∧
    (u.putPackets cd.val e.val (started s e o) host 1).flatMap (fun p => sliceB p.payload 16 (p.len - 16)) =
      u.bytes (mSrc o) (mLen o.w) := by
  have haddr : rowAt (mSrc (started s e o)) (mSs o.w) 0 = mSrc o := by
    rw [rowAt_zero]; exact Nat.mod_eq_of_lt (show mSrc o < 2 ^ 48 by omega)
  have hread : u.hRead host (mSrc o) (mLen o.w) = u.bytes (mSrc o) (mLen o.w) := Clear.hRead hc host
  have hput : u.putPackets cd.val e.val (started s e o) host 1 =
      u.dataPackets o.coord 0x03 (memFlow cd.val 0 e.val) (rowAt (mDst (started s e o)) (mDs o.w) 0) (o.id % 2 ^ 32)
        (u.bytes (mSrc o) (mLen o.w)) (fun off n => u.rangePoisoned (mSrc o + off) n) true (mLen o.w / 240 + 1) 0 := by
    simp only [State.putPackets, List.range_one, List.flatMap_cons, List.flatMap_nil, List.append_nil, haddr, hread, decide_true]
    rfl
  rw [hput]
  have h := dataPackets_clean (s := u) (dst := o.coord) (type := 0x03) (flow := memFlow cd.val 0 e.val)
    (addr := rowAt (mDst (started s e o)) (mDs o.w) 0) (tag := o.id % 2 ^ 32) (data := u.bytes (mSrc o) (mLen o.w))
    (poison := fun off n => u.rangePoisoned (mSrc o + off) n) (final := true) (n := mLen o.w / 240 + 1) (off := 0)
    (fun off n hn hle => Clear.rangePoisoned (hc.sub (by omega) (by rw [length_bytes] at hle; omega)) hn)
    (by rw [length_bytes]; exact hlen) (by rw [length_bytes]; omega)
  exact h

/-! ### A get -/

/-- What the request for the first bytes of a row says. -/
theorem getAsk_fields (u : State) (cd eng : Nat) (o : Op) :
    fieldB (u.getAsk cd eng o 0 0).1.payload 0 8 = mSrc o % 2 ^ 48 ∧ fieldB (u.getAsk cd eng o 0 0).1.payload 8 8 = mDst o % 2 ^ 48 ∧
      fieldB (u.getAsk cd eng o 0 0).1.payload 16 4 = min 65536 (mLen o.w) := by
  have hpay : (u.getAsk cd eng o 0 0).1.payload = sliceB (natLE 8 (mSrc o % 2 ^ 48) ++ natLE 8 (mDst o % 2 ^ 48)
      ++ natLE 4 (min 65536 (mLen o.w)) ++ natLE 4 (o.id % 2 ^ 32)) 0 256 := by
    simp only [State.getAsk, State.mkPacket, rowAt_zero, Nat.zero_mul, Nat.add_zero, Nat.mod_mod, Nat.sub_zero]
  rw [hpay]
  refine ⟨?_, ?_, ?_⟩ <;> rw [fieldB_payload _ (by decide)]
  · rw [fieldB_append_left _ (by simp [length_natLE]), fieldB_append_left _ (by simp [length_natLE]),
      fieldB_append_left _ (by simp [length_natLE]), fieldB_natLE]
    omega
  · rw [fieldB_append_left _ (by simp [length_natLE]), fieldB_append_left _ (by simp [length_natLE]),
      fieldB_append_right _ (by simp [length_natLE]), length_natLE, Nat.sub_self, fieldB_natLE]
    omega
  · rw [fieldB_append_left _ (by simp [length_natLE]), fieldB_append_right _ (by simp [length_natLE])]
    simp only [List.length_append, length_natLE, Nat.reduceAdd, Nat.sub_self]
    rw [fieldB_natLE]
    omega

theorem sendMove_get (hcode : o.code = 2) (hrows : mRows o.w = 1) (hasked : o.asked = 0) (hroom : o.room = 0)
    (hlen : 0 < mLen o.w) (hshort : mLen o.w ≤ 240) {u : State} (hst : u.rowStatusIn s.windows (mDst o % 2 ^ 48) (mLen o.w) = 0) :
    sendMove cd (started s e o) host u =
      (u.sendFlow (u.getAsk cd.val e.val (started s e o) 0 0).1 (.op cd.val o.id)).updDie cd (fun d => d.putOp
        { started s e o with decided := true, status := 0, packets := mLen o.w, row := 1, asked := 1, room := 1 }) := by
  have haddr : rowAt (mDst o) (mDs o.w) 0 = mDst o % 2 ^ 48 := rowAt_zero ..
  have hgood : goodRows (fun r => u.rowStatusIn s.windows (rowAt (mDst o) (mDs o.w) r) (mLen o.w)) 1 0 = (1, 0) :=
    goodRows_one (by rw [haddr]; exact hst)
  have hcd : cdOf cd.val = cd := Fin.ext (Nat.mod_eq_of_lt cd.isLt)
  have hper : cdiv (mLen o.w) 65536 = 1 := by rw [cdiv]; omega
  have hreply : cdiv (mLen o.w) 240 = 1 := by rw [cdiv]; omega
  have hmin : min 65536 (mLen o.w) = mLen o.w := by omega
  have hgo : sendMove cd (started s e o) host u = _ := if_neg (by rw [hcode]; decide)
  rw [hgo]
  dsimp only [mDst] at hgood ⊢
  rw [hrows, hgood]
  have hask {v : State} : v.nextAsk cd.val e.val { started s e o with decided := true, status := 0, packets := 1 * mLen o.w, row := 1 } =
      some ((v.getAsk cd.val e.val (started s e o) 0 0).1, 1) := by
    simp only [State.nextAsk, hasked, hper, State.getAsk, hmin, hreply, Nat.mul_one, Nat.zero_lt_one, if_true, Nat.zero_div,
      Nat.zero_mod, Nat.zero_mul, Nat.sub_zero, mSrc, mDst]
    rfl
  have hstop {v : State} : v.nextAsk cd.val e.val { started s e o with
      decided := true, status := 0, packets := 1 * mLen o.w, row := 1, asked := o.asked + 1, room := o.room + 1 } = none := by
    simp only [State.nextAsk, hasked, hper, Nat.mul_one, Nat.zero_add, Nat.lt_irrefl, if_false]
  rw [State.sendGets]
  dsimp only
  rw [hask]
  dsimp only
  rw [if_pos (.inl hroom), State.sendGets, hstop]
  dsimp only
  rw [hcd, hasked, hroom, Nat.one_mul]

/-! ### Completing -/

theorem movementComplete_ended {id : Nat} {remote : Bool} (ho : (s.die cd).op? id = some o) (hcls : o.cls = 4)
    (hst : o.st = .ended) : movementComplete cd id remote host s = s.endMove cd o o.status := by
  simp only [movementComplete, ho, hcls, hst, ne_eq, not_true_eq_false, if_false, if_true]

theorem movementComplete_copy {id : Nat} {remote : Bool} (ho : (s.die cd).op? id = some o) (hcls : o.cls = 4)
    (hst : o.st = .running) (hcode : o.code = 0) (hready : s.moveReady cd o = true) :
    movementComplete cd id remote host s =
      (s.moveRows (o.view host) (mSrc o) (mDst o) (mLen o.w) (mSs o.w) (mDs o.w) false 0 (mRows o.w)).1.endMove cd o
        (s.moveRows (o.view host) (mSrc o) (mDst o) (mLen o.w) (mSs o.w) (mDs o.w) false 0 (mRows o.w)).2.1 := by
  have hne : ¬OpSt.running = OpSt.ended := by decide
  simp only [movementComplete, ho, hcls, hst, hcode, hready, hne, ne_eq, not_true_eq_false, if_false, if_true, Bool.true_eq_false]

theorem die_endMove (s : State) (cd : Cd) (o : Op) (status : Nat) : (s.endMove cd o status).die cd =
    ({ s.die cd with sb := sbRelease (s.die cd).sb (whoMove cd.val o.id) } : Die).finish o status := by
  rw [State.endMove, State.updDie, State.die_setDie_self, die_sbDrop]

theorem cnt_endMove (s : State) (cd : Cd) {o : Op} {c : Fin 16} (hctr : o.ctr = some c.val) :
    ((s.endMove cd o 0).die cd).cnt[c].count = (s.die cd).cnt[c].count + 1 ∧
      ((s.endMove cd o 0).die cd).cnt[c].err = (s.die cd).cnt[c].err := by
  have hcnt : ((s.endMove cd o 0).die cd).cnt[c] = countOne (s.die cd).cnt[c] 0 o.cls o.unit := by
    rw [die_endMove, Completions.finish_cnt_self _ _ hctr]
  rw [hcnt]
  exact ⟨rfl, Completions.countOne_err_of_ok (.inl rfl) ..⟩

/-- A copy of one row between clear ranges that do not overlap. -/
theorem stored_copy {id : Nat} {remote : Bool} (ho : (s.die cd).op? id = some o) (hcls : o.cls = 4) (hst : o.st = .running)
    (hcode : o.code = 0) (hready : s.moveReady cd o = true) (hrows : mRows o.w = 1)
    (hsrc : Plain s (mSrc o) (mLen o.w)) (hdst : Plain s (mDst o) (mLen o.w))
    (hapart : mSrc o + mLen o.w ≤ mDst o ∨ mDst o + mLen o.w ≤ mSrc o) (hs : s.rowStatus (mSrc o) (mLen o.w) = 0)
    (hd : s.rowStatus (mDst o) (mLen o.w) = 0) :
    ∃ t, movementComplete cd id remote host s = t.endMove cd o 0 ∧ Stored s t (mDst o) (s.bytes (mSrc o) (mLen o.w)) := by
  obtain ⟨hstored, hflag⟩ := stored_moveBytes (o.view host) (clear_of_plain hsrc) (clear_of_plain hdst) hapart false
    (f := mLen o.w / 64 + 2) (by omega)
  refine ⟨_, ?_, hstored⟩
  rw [movementComplete_copy ho hcls hst hcode hready, hrows, moveRows_one (o.view host) (clear_of_plain hsrc)
    ((rowStatusIn_of_mapped hsrc.1 _).trans hs) ((rowStatusIn_of_mapped hdst.1 _).trans hd), hflag]
  rfl

theorem helperComplete_ended {id : Nat} (ho : (s.die cd).op? id = some o) (hcls : o.cls = 6) (hst : o.st = .ended) :
    helperComplete cd id s = s.setDie cd ((s.die cd).finish o o.status) := by
  simp only [helperComplete, ho, hcls, hst, and_self, if_true]
  rfl

end

/-! ### The statement -/

theorem mLen_pos {w : Nat} (h : mReserved w = false) : 0 < mLen w := by
  simp only [mReserved, Bool.or_eq_false_iff, decide_eq_false_iff_not] at h
  exact Nat.pos_of_ne_zero h.2

/-- Settles O20: an engine begins, sends one row's packets or request, or ends; a copy completes by one stored row. -/
theorem movementResult : Obligations.MovementResult := by
  unfold Obligations.MovementResult
  intro cd s o host hostOk d src dst len
  refine ⟨?_, fun c ho hcls hcode hst hctr hready hrows hlen hapart hs hd hms hmd hps hpd => ?_,
    fun ho hcls hst => ?_, fun ho hcls hst => ?_⟩
  · intro e hmode hidle hnext begun
    refine ⟨fun hres => ?_, fun hres hcode => ?_, fun hres hcode hrows hsb htiles hheld hin hmap hst hp => ?_,
      fun hres hcode hrows hshort hsb htiles hheld hst hasked hroom => ?_⟩
    · exact congrArg Host.Outcome.next (movementStart_reserved hmode hidle hnext hres)
    · obtain ⟨hops, hmem, hfab⟩ := entered_facts s cd e o
      refine ⟨_, congrArg Host.Outcome.next ((movementStart_begins hmode hidle hnext hres).trans
        (if_neg fun h => h.1 hcode)), hops, hmem, hfab⟩
    · have hent : entered s cd e o = s.setDie cd (withOp d (started s e o)) :=
        entered_of_no_tiles (by rw [srcTiles, hcode, hrows]; exact htiles) (by rw [dstTiles, hcode]; rfl)
      have hready : (s.setDie cd (withOp d (started s e o))).moveReady cd (started s e o) = true :=
        moveReady_of (sbHeld_of_not_sbHas ((sbHas_setDie_withOp s cd (started s e o) _).trans hsb))
          (.inr (by rw [hrows]; exact hheld)) (.inl hcode)
      have hc : Clear (s.setDie cd (withOp d (started s e o))) (mSrc o) (mLen o.w) := clear_of_plain ⟨hmap, hp⟩
      obtain ⟨hall, hdata⟩ := rowPackets_clean (s := s) (cd := cd) (e := e) (host := host) hc (mLen_pos hres) hin
      refine ⟨_, _, ?_, rfl, hall, hdata⟩
      refine congrArg Host.Outcome.next ((movementStart_begins hmode hidle hnext hres).trans ?_)
      rw [hent, if_pos ⟨by rw [hcode]; decide, hready⟩, sendMove_put hcode hrows hc (mLen_pos hres) hin
        ((rowStatusIn_setDie_withOp ..).trans hst), updDie_setDie]
      exact congrArg (fun x => State.sendAll (s.setDie cd x) _ _) (withOp_withOp d rfl)
    · have hent : entered s cd e o = s.setDie cd (withOp d (started s e o)) :=
        entered_of_no_tiles (by rw [srcTiles, hcode]; rfl) (by rw [dstTiles, hcode, hrows]; exact htiles)
      have hready : (s.setDie cd (withOp d (started s e o))).moveReady cd (started s e o) = true :=
        moveReady_of (sbHeld_of_not_sbHas ((sbHas_setDie_withOp s cd (started s e o) _).trans hsb)) (.inl hcode)
          (.inr (by rw [hrows]; exact hheld))
      have hmod : dst % 2 ^ 48 = dst := Nat.mod_eq_of_lt (lt_of_rowStatus (mLen_pos hres) hst)
      have hst' : (s.setDie cd (withOp d (started s e o))).rowStatusIn s.windows (mDst o % 2 ^ 48) (mLen o.w) = 0 :=
        (rowStatusIn_setDie_withOp ..).trans ((congrArg (s.rowStatus · len) hmod).trans hst)
      obtain ⟨hfrom, hto, hbytes⟩ := getAsk_fields (s.setDie cd (withOp d (started s e o))) cd.val e.val (started s e o)
      refine ⟨_, ((s.setDie cd (withOp d (started s e o))).getAsk cd.val e.val (started s e o) 0 0).1, ?_, rfl, rfl, rfl, rfl,
        hfrom, hto, hbytes.trans (min_eq_right (show len ≤ 65536 by omega))⟩
      refine congrArg Host.Outcome.next ((movementStart_begins hmode hidle hnext hres).trans ?_)
      rw [hent, if_pos ⟨by rw [hcode]; decide, hready⟩, sendMove_get hcode hrows hasked hroom (mLen_pos hres) hshort hst']
      rfl
  · obtain ⟨t, ht, hstored⟩ := stored_copy (remote := false) (host := hostGot hostOk host) ho hcls hst hcode hready hrows
      ⟨hms, hps⟩ ⟨hmd, hpd⟩ hapart hs hd
    have hbytes := hstored.bytes_eq
    have honly := hstored.onlyBytes
    rw [length_bytes] at hbytes honly
    obtain ⟨⟨m, rfl⟩, -⟩ := hstored
    obtain ⟨hcount, herr⟩ := cnt_endMove { s with mem := m } cd hctr
    exact ⟨_, congrArg Host.Outcome.next ht, hbytes, honly, hcount, herr, rfl, rfl⟩
  · exact congrArg Host.Outcome.next (movementComplete_ended ho hcls hst)
  · exact congrArg Host.Outcome.next (helperComplete_ended ho hcls hst)

end Sys2Proof.Proofs.Movements
end

section
/-! PROOF. Reads and writes at a home: the line code's outcomes, stored bytes and poison marks, and how they wait (R194, R197,
R210–R221). -/

namespace Sys2Proof.Proofs.HomeAccesses

open Sys2Proof.Machine Sys2Proof.Claims Sys2Proof.Proofs.MemoryAccess Sys2Proof.Proofs.Homes Sys2Proof.Proofs.Lines

section
variable {s : State} {a l : Nat} {err : List Byte}

theorem poisoned_of_loc (h : s.loc a = some l) : s.poisoned a = s.poison.contains (l / 64) := by rw [State.poisoned, h]

/-! ### Decoding a line -/

theorem readHome_plain (deliver : Bool)
    (h : s.poison.contains (l / 64) = true ∨ s.memc.atomBuf.contains (l / 64) = true ∨ symErrors err = 0) :
    s.readHome l err deliver = if deliver then s.deliver l else s := by
  unfold State.readHome
  rcases h with h | h | h
  · rw [h, Bool.true_or, if_pos rfl]
  · rw [h, Bool.or_true, if_pos rfl]
  · dsimp only
    rw [if_pos h, ite_self]

section
variable (hclean : s.poison.contains (l / 64) = false) (hbuf : s.memc.atomBuf.contains (l / 64) = false)
include hclean hbuf

theorem readHome_corrected (h : symErrors err = 1 ∨ symErrors err = 2) :
    s.readHome l err true = (s.corrected l).deliver l := by
  unfold State.readHome
  rw [hclean, hbuf, Bool.or_false, if_neg Bool.false_ne_true, if_neg (by omega), if_pos (by omega)]
  rfl

theorem readHome_poisons (h : 2 < symErrors err) (hsram : stackOf l = none) :
    s.readHome l err true = ((s.countReg (ueReg l) 1).newPoison l).deliver l := by
  unfold State.readHome
  rw [hclean, hbuf, Bool.or_false, if_neg Bool.false_ne_true, if_neg (by omega), if_neg (by omega), hsram]
  rfl

theorem readHome_tests (h : 2 < symErrors err) {j : Nat} (hstack : stackOf l = some j) :
    s.readHome l err true = { s.countReg (ueReg l) 1 with memc := { s.memc with
      tests := s.memc.tests ++ [⟨j, channelOf j l, l, (s.countReg (ueReg l) 1).addrOf l, true⟩] } } := by
  unfold State.readHome
  rw [hclean, hbuf, Bool.or_false, if_neg Bool.false_ne_true, if_neg (by omega), if_neg (by omega), hstack]
  rfl

end

theorem homeRead_of_answers (h : HomeAnswers s a l) : homeRead a err s = s.readHome l err true := by
  rw [homeRead, homeArrive_of_answers h]
  unfold State.homeServe
  simp only [homeStatus_of_answers h, h.1, ne_eq, not_true_eq_false, if_false]

end

theorem homeReadDelivers : HomeReadDelivers := by
  intro a l err s h
  have hl := h.1
  have hread : Gives (.homeRead a err) s (s.readHome l err true) := congrArg Host.Outcome.next (homeRead_of_answers h)
  refine ⟨fun hplain => ?_, fun hbuf => ⟨fun hclean herr => ?_, fun hclean herr hsram => ?_, fun j hclean herr hstack => ?_⟩⟩
  · rw [readHome_plain true (by rwa [← poisoned_of_loc hl])] at hread
    rw [poisoned_of_loc hl]
    exact hread
  · rw [poisoned_of_loc hl] at hclean
    rw [readHome_corrected hclean hbuf herr] at hread
    obtain ⟨hmem, hpoison, hout, hdies, hreg⟩ := corrected_facts s l
    refine ⟨_, hread, ?_, hmem, hpoison, hreg, hdies⟩
    rw [State.deliver, hmem, hpoison, hclean, State.emit, hout]
    rfl
  · rw [poisoned_of_loc hl] at hclean
    rw [readHome_poisons hclean hbuf herr hsram] at hread
    obtain ⟨hpoison, hmem, hout, hdies, -, -, hreg⟩ := newPoison_facts (s.countReg (ueReg l) 1) l
    have hue := ueReg_bounds l
    have hloc : ((s.countReg (ueReg l) 1).newPoison l).loc = s.loc :=
      (loc_newPoison ..).trans (HomeLocations.loc_setReg s (by unfold HomeLocations.LayoutReg; omega) _)
    refine ⟨_, hread, ?_, hmem, ?_, ?_, hdies⟩
    · rw [State.deliver, hmem, hpoison, contains_setIns, State.emit, hout]
      rfl
    · have hpois : ((s.countReg (ueReg l) 1).newPoison l).poisoned a = true := by
        rw [State.poisoned, hloc, hl, hpoison]
        exact contains_setIns ..
      exact hpois
    · exact (hreg _ (by unfold PoisonReg; omega)).trans (Registers.reg_countReg_self ..)
  · rw [poisoned_of_loc hl] at hclean
    rw [readHome_tests hclean hbuf herr hstack] at hread
    refine ⟨_, hread, rfl, rfl, rfl, ?_, Registers.reg_countReg_self ..⟩
    unfold State.underTest
    rw [hstack]
    simp

/-! ### Writes -/

section
variable {s : State} {a l : Nat} {data : List Byte}

theorem homeWrite_of_answers (h : HomeAnswers s a l) (mark : Bool) :
    homeWrite a data mark s = if mark then s.poisonLine a else s.writeLine a (data.take (64 - a % 64)) := by
  rw [homeWrite, homeArrive_of_answers h]
  unfold State.homeServe
  simp only [homeStatus_of_answers h, ne_eq, not_true_eq_false, if_false]

/-- The bytes of one line from a mapped address that is not poisoned. -/
theorem clear_in_line {n : Nat} (hl : s.loc a = some l) (hp : s.poisoned a = false) (hn : a % 64 + n ≤ 64) : Clear s a n := by
  intro x hlo hhi
  have hx := loc_add hl (i := x - a) (by omega)
  rw [Nat.add_sub_cancel' hlo] at hx
  have hmod := HomeLocations.loc_mod_line hl
  rw [poisoned_of_loc hl] at hp
  exact ⟨_, hx, by rwa [show (l + (x - a)) / 64 = l / 64 by omega]⟩

theorem stored_in_line (hl : s.loc a = some l) (hp : s.poisoned a = false) (hn : a % 64 + data.length ≤ 64) :
    Stored s (s.writeLine a data) a data := by
  by_cases hne : data = []
  · have hnil : s.writeLine a [] = s := by
      rw [State.writeLine, hl]
      dsimp only
      rw [← poisoned_of_loc hl, hp]
      rfl
    rw [hne, hnil]
    exact .nil s a
  · exact stored_writeLine (clear_in_line hl hp hn) hne hn

theorem poisonLine_facts (hl : s.loc a = some l) : (s.poisonLine a).poisoned a = true ∧ (s.poisonLine a).mem = s.mem := by
  have hmark : s.poisonLine a = { s with poison := setIns s.poison (l / 64) } := by rw [State.poisonLine, hl]
  rw [hmark]
  refine ⟨(poisoned_of_loc (s := { s with poison := setIns s.poison (l / 64) }) hl).trans (contains_setIns ..), rfl⟩

end

theorem homeWriteStores : HomeWriteStores := by
  intro a l data s h
  have hl := h.1
  have hwrite : Gives (.homeWrite a data false) s (s.writeLine a (data.take (64 - a % 64))) :=
    congrArg Host.Outcome.next (homeWrite_of_answers h false)
  refine ⟨fun hp hn => ?_, fun ha hn => ?_, fun hp hn => ?_, ?_⟩
  · rw [List.take_of_length_le (by omega)] at hwrite
    have hst := stored_in_line hl hp hn
    have hbytes := hst.bytes_eq
    have honly := hst.onlyBytes
    obtain ⟨⟨m, hm⟩, -⟩ := hst
    rw [hm] at hbytes honly hwrite
    exact ⟨_, hwrite, hbytes, honly, rfl, rfl, rfl⟩
  · rw [List.take_of_length_le (by omega)] at hwrite
    have hst := wrote_line (s := s) (by rw [State.mapped, hl]; rfl) ha hn
    have hbytes := hst.bytes_eq
    have honly := hst.onlyBytes
    rw [hn] at hbytes honly
    exact ⟨_, hwrite, hbytes, honly⟩
  · have hkeep : s.writeLine a (data.take (64 - a % 64)) = s := by
      have hshort : (data.take (64 - a % 64)).length ≠ 64 := by rw [List.length_take]; omega
      rw [State.writeLine, hl]
      dsimp only
      rw [← poisoned_of_loc hl, hp, if_pos rfl, if_neg fun h => hshort h.1]
    rwa [hkeep] at hwrite
  · obtain ⟨hpoison, hmem⟩ := poisonLine_facts hl
    exact ⟨_, congrArg Host.Outcome.next (homeWrite_of_answers h true), hpoison, hmem⟩

/-! ### Waiting -/

theorem homeHolds : HomeHolds := by
  intro a l s hl hno x hx bs
  have hwait : s.homeOpen a = false ∨ s.lineHeld a = true := by
    refine hno.imp_left fun h => ?_
    rw [State.homeOpen, hl]
    dsimp only
    rw [h, Bool.false_and]
  have hgive (org : Origin) (i : Instr) (hi : exec i s = .next (s.homeArrive a org)) :
      ∃ t r, Gives i s t ∧ t.homeQ = s.homeQ ++ [r] ∧ r.addr = a ∧ r.origin = org ∧ t.mem = s.mem ∧ t.poison = s.poison ∧
        t.out = s.out := by
    obtain ⟨t, r, ht, hrest⟩ := homeArrive_waits hwait org
    exact ⟨t, r, hi.trans (congrArg _ ht), hrest⟩
  simp only [List.mem_cons, List.not_mem_nil, or_false] at hx
  rcases hx with rfl | rfl | rfl
  · exact hgive (.read bs) _ rfl
  · exact hgive (.write bs false) _ rfl
  · exact hgive (.write bs true) _ rfl

/-- Settles O17: what a home that answers does, by the outcome of the line code and by the line's poison, and what one that does
not answer holds. -/
theorem homeAccess : Obligations.HomeAccess := ⟨homeReadDelivers, homeWriteStores, homeHolds⟩

end Sys2Proof.Proofs.HomeAccesses
end

section
/-! PROOF. Lane tests, the scrub, and the host's window of memory (R195–R198, R214, R217, R222–R225). -/

namespace Sys2Proof.Proofs.MemoryCare

open Sys2Proof.Machine Sys2Proof.Claims Sys2Proof.Proofs.Homes Sys2Proof.Proofs.HomeAccesses

/-! ### Lane tests -/

/-- The state once the only lane test has ended. -/
abbrev testEnded (s : State) : State := { s with memc := { s.memc with tests := [] } }

section
variable {s : State} {x : LaneTest} {lane : Nat}

theorem failing_one (hlane : lane < 136) (hfree : ∀ y ∈ s.memc.spares, y ≠ (x.stack, x.channel / 8, lane)) :
    (List.range 136).filter (fun ln => [lane].contains ln && !s.memc.spares.contains (x.stack, x.channel / 8, ln)) = [lane] := by
  have hnot : s.memc.spares.contains (x.stack, x.channel / 8, lane) = false := by
    rw [← Bool.not_eq_true, List.contains_iff_mem]
    exact fun h => hfree _ h rfl
  have hone : (fun ln => [lane].contains ln && !s.memc.spares.contains (x.stack, x.channel / 8, ln)) = fun ln => ln == lane := by
    funext ln
    by_cases h : ln = lane
    · rw [h, hnot]
      simp
    · simp [h]
  rw [hone, List.filter_beq, List.count_range]
  simp [hlane]

theorem ends_test (htests : s.memc.tests = [x]) :
    s.memc.tests.find? (fun t => t.stack == x.stack && t.channel == x.channel) = some x ∧
      s.memc.tests.filter (fun u => !(u.stack == x.stack && u.channel == x.channel)) = [] := by
  rw [htests]
  simp

/-- A failing lane takes a spare while its group has one. -/
theorem substitute_one {j g : Nat} (h : s.sparesUsed j g < 2) :
    ∃ r q, s.substitute j g [lane] = ({ s with
      memc := { s.memc with spares := s.memc.spares ++ [(j, g, lane)], newSpares := s.memc.newSpares ++ [(j, g, lane)] },
      regs := r, logQ := q }, []) := by
  rw [State.substitute, if_pos h]
  dsimp only
  rw [State.substitute, ByteFields.log_eq]
  exact ⟨_, _, rfl⟩

theorem substitute_none {j g : Nat} (h : 2 ≤ s.sparesUsed j g) : s.substitute j g [lane] = (s, [lane]) := by
  rw [State.substitute, if_neg (by omega)]

theorem laneTestEnd_repairs {err : List Byte} (htests : s.memc.tests = [x]) (hdeliver : x.deliver = true)
    (hlane : lane < 136) (hfree : ∀ y ∈ s.memc.spares, y ≠ (x.stack, x.channel / 8, lane))
    (hspare : s.sparesUsed x.stack (x.channel / 8) < 2) (herr : symErrors err = 0) :
    laneTestEnd x.stack x.channel [lane] err s =
      ((testEnded s).substitute x.stack (x.channel / 8) [lane]).1.deliver x.loc := by
  obtain ⟨hfind, hfilter⟩ := ends_test htests
  obtain ⟨r, q, hsub⟩ := substitute_one (s := testEnded s) (lane := lane) hspare
  unfold laneTestEnd
  rw [hfind]
  dsimp only
  rw [hfilter, failing_one hlane hfree, hsub, hdeliver, herr]
  rfl

theorem laneTestEnd_fails {err : List Byte} (htests : s.memc.tests = [x]) (hdeliver : x.deliver = true)
    (hlane : lane < 136) (hfree : ∀ y ∈ s.memc.spares, y ≠ (x.stack, x.channel / 8, lane))
    (hspare : 2 ≤ s.sparesUsed x.stack (x.channel / 8)) :
    laneTestEnd x.stack x.channel [lane] err s =
      ((((testEnded s).beyondRepair x.stack (x.addr / 64 * 64)).newPoison x.loc).deliver x.loc).deviceFail := by
  obtain ⟨hfind, hfilter⟩ := ends_test htests
  have hsub : (testEnded s).substitute x.stack (x.channel / 8) [lane] = (testEnded s, [lane]) := substitute_none hspare
  unfold laneTestEnd
  rw [hfind]
  dsimp only
  rw [hfilter, failing_one hlane hfree, hsub, hdeliver]
  dsimp only
  rw [if_pos rfl, if_pos rfl]
  exact if_pos rfl

theorem laneTestEnd_none {err : List Byte} (htests : s.memc.tests = [x]) (hdeliver : x.deliver = true) :
    laneTestEnd x.stack x.channel [] err s = ((testEnded s).newPoison x.loc).deliver x.loc := by
  obtain ⟨hfind, hfilter⟩ := ends_test htests
  have hno : (List.range 136).filter (fun ln => ([] : List Nat).contains ln && !s.memc.spares.contains (x.stack, x.channel / 8, ln))
      = [] := List.filter_eq_nil_iff.mpr fun ln _ => by simp
  unfold laneTestEnd
  rw [hfind]
  dsimp only
  rw [hfilter, hno, hdeliver]
  rfl

end

/-- A stack beyond repair: recorded, and flagged. -/
theorem beyondRepair_facts (s : State) (j addr : Nat) :
    (s.beyondRepair j addr).memc = { s.memc with failed := setIns s.memc.failed j } ∧ (s.beyondRepair j addr).mem = s.mem ∧
      bitAt ((s.beyondRepair j addr).reg 0x3008) 1 = true := by
  unfold State.beyondRepair
  extract_lets m u
  refine ⟨?_, ?_, ?_⟩ <;> rw [ByteFields.event_eq, ByteFields.event_eq]
  iterate 2 · rw [ByteFields.log_eq]; rfl
  have hreg := ByteFields.reg_log_ne (u.orReg 0x3008 2) (o := 0x3008) 4 (if j < 48 then 2 else 3) (if j < 48 then j else j - 48) 0xFF 0 0
    (by decide) (by decide)
  refine (congrArg (bitAt · 1) hreg).trans ?_
  rw [Registers.bitAt_eq_testBit, Registers.testBit_orReg _ _ (by decide)]
  exact Bool.or_true _

/-- The line of a stack beyond repair is poisoned. -/
theorem broken (s : State) (j addr l : Nat) : ∃ w, (s.beyondRepair j addr).newPoison l = w ∧
    w.memc = { s.memc with failed := setIns s.memc.failed j } ∧ w.mem = s.mem ∧ l / 64 ∈ w.poison ∧
    bitAt (w.reg 0x3008) 1 = true := by
  obtain ⟨hmemc, hmem, hflag⟩ := beyondRepair_facts s j addr
  obtain ⟨hpoison, hmem', -, -, hmemc', -, hreg⟩ := newPoison_facts (s.beyondRepair j addr) l
  refine ⟨_, rfl, hmemc'.trans hmemc, hmem'.trans hmem, ?_, ?_⟩
  · rw [hpoison]
    exact (mem_setIns ..).mpr (.inl rfl)
  · rw [hreg 0x3008 (by unfold PoisonReg; decide)]
    exact hflag

/-- What the failure of the device leaves of memory, and what it takes. -/
theorem deviceFail_facts (s : State) :
    s.deviceFail.mem = s.mem ∧ s.deviceFail.poison = s.poison ∧ s.deviceFail.regs = s.regs ∧
      s.deviceFail.memc = { s.memc with tests := [] } ∧ s.deviceFail.boot.failed = true ∧
      (∀ c : Cd, (s.deviceFail.die c).mode = .fenced) ∧ ∀ a, s.deviceFail.loc a = none := by
  refine ⟨rfl, rfl, rfl, rfl, rfl, fun c => ?_, fun a => ?_⟩
  · simp [State.die, State.deviceFail, Die.off]
  · simp [State.loc, State.deviceFail]

theorem laneTestRepairs : LaneTestRepairs := by
  rintro j ch lane err s x htests rfl rfl hdeliver - hlane hfree
  refine ⟨fun hspare herr => ?_, fun hspare => ?_, ?_⟩
  · obtain ⟨r, q, hsub⟩ := substitute_one (s := testEnded s) (lane := lane) (j := x.stack) (g := x.channel / 8) hspare
    have hend := laneTestEnd_repairs htests hdeliver hlane hfree hspare herr
    rw [hsub] at hend
    exact ⟨_, congrArg Host.Outcome.next hend, rfl, rfl, rfl, rfl, rfl, _, rfl⟩
  · obtain ⟨w, hw, hmemc, hmem, hpoison, hflag⟩ := broken (testEnded s) x.stack (x.addr / 64 * 64) x.loc
    have hend := laneTestEnd_fails (err := err) htests hdeliver hlane hfree hspare
    rw [hw] at hend
    obtain ⟨hm, hp, hr, hc, hfailed, hdies, hloc⟩ := deviceFail_facts (w.deliver x.loc)
    have hc' : (w.deliver x.loc).deviceFail.memc = { w.memc with tests := [] } := hc
    rw [hmemc] at hc'
    refine ⟨_, congrArg Host.Outcome.next hend, by rw [hc'], by rw [hc'], hm.trans hmem, ?_, ?_, ?_,
      hfailed, hdies, hloc⟩
    · rw [hp]
      exact hpoison
    · rw [hc']
      exact (mem_setIns ..).mpr (.inl rfl)
    · rw [State.reg_of_regs hr]
      exact hflag
  · obtain ⟨hpoison, hmem, -, -, hmemc, -, -⟩ := newPoison_facts (testEnded s) x.loc
    refine ⟨_, congrArg Host.Outcome.next (laneTestEnd_none htests hdeliver), ?_, ?_, hmem, ?_⟩
    · have htests := congrArg MemSt.tests hmemc
      exact htests
    · have hspares := congrArg MemSt.spares hmemc
      exact hspares
    · exact hpoison ▸ (mem_setIns ..).mpr (.inl rfl)

/-! ### The scrub -/

/-- The row of MEM_SCRUB. -/
abbrev scrubRow : RegRow := ⟨0x3004, 4, 1, 0x000A0008, 0x00FF00FF, 0⟩

theorem regRow_scrub : regRow? 0x3004 = some scrubRow := by decide

theorem keepReserved_scrub {old new : Nat} (h : fld new 0 8 ≤ 168) (h' : fld new 16 8 ≤ 240) : keepReserved 0x3004 old new = new := by
  have htwo : keepReserved 0x3004 old new =
      (let v := if 0 ≤ fld new 0 8 ∧ fld new 0 8 ≤ 168 then new else setFld new 0 8 (fld old 0 8)
       if 0 ≤ fld v 16 8 ∧ fld v 16 8 ≤ 240 then v else setFld v 16 8 (fld old 16 8)) := rfl
  have hlow : (if 0 ≤ fld new 0 8 ∧ fld new 0 8 ≤ 168 then new else setFld new 0 8 (fld old 0 8)) = new := if_pos ⟨Nat.zero_le _, h⟩
  rw [htwo, hlow]
  exact if_pos ⟨Nat.zero_le _, h'⟩

/-- The bits that a write of MEM_SCRUB gives, before reserved codes are told. -/
def scrubBits (old v : Nat) : Nat :=
  ((old &&& (0xFFFFFFFF ^^^ 0x00FF00FF)) ||| (v % 2 ^ 32 &&& 0x00FF00FF)) ^^^
    ((((old &&& (0xFFFFFFFF ^^^ 0x00FF00FF)) ||| (v % 2 ^ 32 &&& 0x00FF00FF)) &&& (v % 2 ^ 32)) &&& 0)

theorem fld_scrubBits (old v : Nat) {lo : Nat} (hlo : lo = 0 ∨ lo = 16) : fld (scrubBits old v) lo 8 = fld v lo 8 := by
  refine Nat.eq_of_testBit_eq fun i => ?_
  rw [BitFields.testBit_fld, BitFields.testBit_fld]
  by_cases hi : i < 8
  · have hmask : (0xFFFFFFFF ^^^ 0x00FF00FF).testBit (lo + i) = false ∧ (0x00FF00FF).testBit (lo + i) = true := by
      rcases hlo with rfl | rfl <;> interval_cases i <;> decide
    simp only [scrubBits, Nat.testBit_xor, Nat.testBit_or, Nat.testBit_and, hmask, Nat.zero_testBit, Nat.testBit_mod_two_pow,
      show lo + i < 32 by omega, decide_true, Bool.true_and, Bool.and_false, Bool.and_true, Bool.false_or, Bool.xor_false]
  · simp [hi]

/-- The periods that a write without reserved codes leaves. -/
theorem fld_memScrub (s : State) {v lo : Nat} (h : fld v 0 8 ≤ 168) (h' : fld v 16 8 ≤ 240) (hlo : lo = 0 ∨ lo = 16) :
    fld ((s.setReg 0x3004 (regMerge scrubRow 0x3004 (s.reg 0x3004) (v % 2 ^ 32))).reg 0x3004) lo 8 = fld v lo 8 := by
  have hmerge : regMerge scrubRow 0x3004 (s.reg 0x3004) (v % 2 ^ 32) = scrubBits (s.reg 0x3004) v :=
    keepReserved_scrub ((fld_scrubBits (s.reg 0x3004) v (.inl rfl)).trans_le h) ((fld_scrubBits (s.reg 0x3004) v (.inr rfl)).trans_le h')
  rw [State.reg_setReg_self, ByteFields.fld_mod_word _ lo 8 (by omega), hmerge, fld_scrubBits _ _ hlo]

theorem execMemScrubWrite_ready {s : State} (hready : s.ready = true) (v : Nat) :
    execMemScrubWrite v s = .next (let t := s.setReg 0x3004 (regMerge scrubRow 0x3004 (s.reg 0x3004) (v % 2 ^ 32))
      { t with memc := { t.memc with scrub := t.memc.scrub.filter (fun e =>
        if e.1 < 64 then fld (t.reg 0x3004) 0 8 == fld (s.reg 0x3004) 0 8 else fld (t.reg 0x3004) 16 8 == fld (s.reg 0x3004) 16 8) } }) := by
  unfold execMemScrubWrite
  dsimp only
  rw [if_pos hready, regRow_scrub]

theorem scrubRead_clean {s : State} {u : Nat} (hu : u < 104) (hquad : s.quadReady (scrubQuad u) = true)
    (hperiod : s.scrubPeriod u ≠ 0) (htest : s.underTest (scrubLoc u (tabGet 0 s.memc.scrub u)) = false) :
    scrubRead u [] s = { s with memc := { s.memc with
      scrub := tabSet s.memc.scrub u ((tabGet 0 s.memc.scrub u + 1) % scrubLines u) } } := by
  unfold scrubRead
  rw [if_pos ⟨hu, hquad, hperiod⟩]
  dsimp only
  rw [htest, if_neg Bool.false_ne_true, readHome_plain false (.inr (.inr rfl)), if_neg Bool.false_ne_true]

/-! ### The host's window -/

theorem cxlMemRequest_decoded {s : State} {base off l : Nat} {data : List Byte} {w : Bool} (hhdm : s.host.hdm = some base)
    (hlink : s.host.linkUp = true) (hmem : s.host.mem = true) (hoff : off < s.host.cxlSets * (4 * 2 ^ 30))
    (h : HomeAnswers s (s.windowAddr off) l) :
    cxlMemRequest w (base + off) data s = s.homeServe ⟨8, s.windowAddr off, 0, 0, whoHome s.memc.next, .cxl (if w then some data else none)⟩ := by
  have hup : s.boot.failed = false := by
    by_contra hfailed
    have hl := h.1
    rw [State.loc, if_pos (by simpa using hfailed)] at hl
    cases hl
  unfold cxlMemRequest
  rw [hhdm]
  dsimp only
  rw [Nat.add_sub_cancel_left, if_pos ⟨hup, hlink, hmem, by omega, hoff⟩, homeArrive_of_answers h]

theorem scrubAndWindow : ScrubAndWindow := by
  intro s
  refine ⟨fun a l hl => ?_, fun u hu hquad hperiod htest => ?_, fun v hready hv hv' => ?_, fun x hpa data hno => ?_,
    fun base off data l hhdm hlink hmem hoff h => ⟨?_, fun hn hp => ?_⟩⟩
  · refine congrArg Host.Outcome.next ?_
    rw [hl]
  · exact ⟨_, congrArg Host.Outcome.next (scrubRead_clean hu hquad hperiod htest), rfl, rfl, rfl, tabGet_tabSet_self ..⟩
  · have hv0 : fld v 0 8 = v % 2 ^ 8 := by rw [fld, Nat.shiftRight_zero]
    have hlow := fld_memScrub s (v := v) (lo := 0) (hv0 ▸ hv) hv' (.inl rfl)
    have hhigh := fld_memScrub s (v := v) (lo := 16) (hv0 ▸ hv) hv' (.inr rfl)
    refine ⟨_, execMemScrubWrite_ready hready v, hlow.trans hv0, hhigh, rfl, fun e he => ?_⟩
    obtain ⟨hmem, hkeep⟩ := List.mem_filter.mp he
    refine ⟨hmem, ?_⟩
    split
    · next hlt =>
      rw [if_pos hlt, hlow, hv0] at hkeep
      exact beq_iff_eq.mp hkeep
    · next hge =>
      rw [if_neg hge, hhigh] at hkeep
      exact beq_iff_eq.mp hkeep
  · refine congrArg Host.Outcome.next ?_
    rw [cxlMemRequest, hno]
  · exact congrArg Host.Outcome.next (cxlMemRequest_decoded (w := false) hhdm hlink hmem hoff h)
  · have hwrite : cxlMemRequest true (base + off) data s =
        s.writeLine (s.windowAddr off) (data.take (64 - s.windowAddr off % 64)) :=
      cxlMemRequest_decoded (w := true) hhdm hlink hmem hoff h
    rw [List.take_of_length_le (by omega)] at hwrite
    have hst := stored_in_line h.1 hp hn
    exact ⟨_, congrArg Host.Outcome.next hwrite, hst.bytes_eq, hst.onlyBytes⟩

/-- Settles O19: by the lanes that a test names and the spares left, and by the window's one decoder. -/
theorem memoryUpkeep : Obligations.MemoryUpkeep := ⟨laneTestRepairs, scrubAndWindow⟩

end Sys2Proof.Proofs.MemoryCare
end

section
/-! PROOF. Atomics and semaphore operations at their home: the word, the reply, and the bytes beside it (R171, R172, R210,
R213, R220). -/

namespace Sys2Proof.Proofs.AtomicWords

open Sys2Proof.Machine Sys2Proof.Claims Sys2Proof.Proofs.MemoryAccess Sys2Proof.Proofs.Lines

/-! ### What follows an atomic's effect -/

/-- A state that differs in the line buffer and in who is told. -/
def Told (u t : State) : Prop :=
  ∃ c d r f h o, t = { u with memc := c, dies := d, replies := r, fab := f, haf := h, out := o }

theorem Told.refl (u : State) : Told u u := ⟨_, _, _, _, _, _, rfl⟩

theorem told_bufferLine (u : State) (a : Nat) : Told u (u.bufferLine a) := by
  unfold State.bufferLine
  split
  · exact .refl u
  · exact ⟨_, u.dies, u.replies, u.fab, u.haf, u.out, rfl⟩

theorem sendCompletion_rest (s : State) (key tag status word : Nat) :
    ∃ b o, s.sendCompletion key tag status word none = { s with haf := { s.haf with bundles := b }, out := o } :=
  s.sendFlit_rest _ _

theorem told_atomReply (u : State) (org : Origin) (res : AtomRes) : Told u (u.atomReply org res) := by
  unfold State.atomReply
  split
  · exact ⟨u.memc, _, u.replies, u.fab, u.haf, u.out, rfl⟩
  · exact ⟨u.memc, u.dies, _, u.fab, u.haf, u.out, rfl⟩
  · obtain ⟨f, hf⟩ := u.sendFlow_rest _ .none
    exact ⟨u.memc, u.dies, u.replies, f, u.haf, u.out, hf⟩
  · obtain ⟨b, o, h⟩ := sendCompletion_rest u _ _ _ _
    exact ⟨u.memc, u.dies, u.replies, u.fab, _, o, h⟩
  · exact .refl u

theorem fab_atomReply (u : State) {org : Origin} (res : AtomRes) (h : ∀ src flow tag, org ≠ .remote src flow tag) :
    (u.atomReply org res).fab = u.fab := by
  unfold State.atomReply
  split
  · rfl
  · rfl
  · next src flow tag => exact absurd rfl (h src flow tag)
  · obtain ⟨b, o, h⟩ := sendCompletion_rest u _ _ _ _
    rw [h]
  · rfl

theorem fab_bufferLine (u : State) (a : Nat) : (u.bufferLine a).fab = u.fab ∧ (u.bufferLine a).replies = u.replies := by
  unfold State.bufferLine
  split <;> exact ⟨rfl, rfl⟩

/-! ### The atomic at the head of the queue -/

/-- The state once the head of the homes' queue has left it. -/
abbrev served (s : State) (rest : List HomeReq) : State := { s with homeQ := rest }

section
variable {s u : State} {r : HomeReq} {rest : List HomeReq} {align : Nat} {res : AtomRes}

theorem atomicAt_head {code : Nat} (hq : s.homeQ = r :: rest) (hcode : r.code = code)
    (hready : ∀ l, s.loc r.addr = some l → s.tierReady l = true ∧ s.underTest l = false) :
    atomicAt 0 code s =
      (if ((served s rest).atomic r).2.1 = 4 ∨ ((served s rest).atomic r).2.1 = 5 then ((served s rest).atomic r).1
        else ((served s rest).atomic r).1.bufferLine r.addr).atomReply r.origin ((served s rest).atomic r).2 := by
  have hgo : (match s.loc r.addr with | some l => s.tierReady l && !s.underTest l | none => true) = true := by
    cases hl : s.loc r.addr with
    | none => rfl
    | some l => simp [hready l hl]
  unfold atomicAt
  rw [hq]
  exact if_pos ⟨hcode, rfl, hgo⟩

theorem atomic_of_ready (h : AtomicReady s r rest align) (halign : atomAlign r.code = align) :
    (served s rest).atomic r = (served s rest).atomicEffect r := by
  obtain ⟨-, haddr, hhome, hpoison, -⟩ := h
  have hno : ¬(r.addr % atomAlign r.code ≠ 0 ∨ (served s rest).atomicHome r.addr = false) := by
    rw [halign]
    rintro (h | h)
    · exact h haddr
    · exact absurd (hhome.symm.trans h) (by decide)
  rw [State.atomic, if_neg hno]
  exact if_neg (by rw [show (served s rest).poisoned r.addr = false from hpoison]; exact Bool.false_ne_true)

/-- An atomic that is performed: what it leaves of memory, who is told, and the reply. -/
theorem performed (h : AtomicReady s r rest align) (halign : atomAlign r.code = align)
    (heff : (served s rest).atomicEffect r = (u, res)) (hres : res.1 < 4) :
    Told u (atomicAt 0 r.code s) ∧
      (∀ d k, r.origin = .acq d k → (atomicAt 0 r.code s).replies = u.replies ++ [(d, k, res.1)]) ∧
      ((∀ src flow tag, r.origin ≠ .remote src flow tag) → (atomicAt 0 r.code s).fab = u.fab) := by
  have hat := atomicAt_head h.1 rfl h.2.2.2.2
  rw [atomic_of_ready h halign, heff] at hat
  dsimp only at hat
  rw [if_neg (by omega)] at hat
  obtain ⟨hfab, hreplies⟩ := fab_bufferLine u r.addr
  rw [hat]
  refine ⟨?_, fun d k horg => ?_, fun horg => (fab_atomReply _ res horg).trans hfab⟩
  · obtain ⟨c, d, r', f, x, o, hb⟩ := told_bufferLine u r.addr
    obtain ⟨c', d', r'', f', x', o', ht⟩ := told_atomReply (u.bufferLine r.addr) r.origin res
    exact ⟨c', d', r'', f', x', o', by rw [ht, hb]⟩
  · rw [horg]
    exact congrArg (· ++ _) hreplies

end

/-! ### Words -/

/-- A word set, with nothing else of memory, of the poison marks, of the queue or of the replies. -/
structure WordSet (s u : State) (a v : Nat) : Prop where
  num : u.num a 8 = v
  only : OnlyBytes s u a 8
  poison : u.poison = s.poison
  queue : u.homeQ = s.homeQ
  replies : u.replies = s.replies

theorem num_lt (s : State) (a n : Nat) : s.num a n < 256 ^ n := by
  have h := ByteFields.leNat_lt (s.bytes a n)
  rwa [ByteRanges.length_bytes] at h

section
variable {s u : State} {a v : Nat}

theorem wordSet_write (hc : Clear s a 8) (v : Nat) : WordSet s (s.write a (natLE 8 v)) a (v % 2 ^ 64) := by
  have hst := stored_write (bs := natLE 8 v) (by rwa [length_natLE])
  have honly := hst.onlyBytes
  rw [length_natLE] at honly
  refine ⟨hst.num_eq, honly, hst.poison, ?_, ?_⟩ <;> obtain ⟨⟨m, hm⟩, -⟩ := hst <;> rw [hm]

theorem wordSet_self (s : State) (a : Nat) : WordSet s s a (s.num a 8) := ⟨rfl, fun _ _ => rfl, rfl, rfl, rfl⟩

/-- The counter of saturations is no register of the layout. -/
theorem WordSet.counted (h : WordSet s u a v) : WordSet s (u.countReg 0x3054 1) a v := by
  have hbyte : (u.countReg 0x3054 1).byte = u.byte := byte_setReg u (by unfold HomeLocations.LayoutReg; omega) _
  refine ⟨?_, fun x hx => ?_, h.poison, h.queue, h.replies⟩
  · rw [num_congr fun x _ _ => congrFun hbyte x, h.num]
  · rw [hbyte, h.only x hx]

/-- What an atomic that sets its word leaves. -/
theorem WordSet.told {rest : List HomeReq} {t : State} (h : WordSet (served s rest) u a v) (ht : Told u t) :
    t.homeQ = rest ∧ t.num a 8 = v ∧ OnlyBytes s t a 8 ∧ t.poison = s.poison := by
  obtain ⟨c, d, r', f, x, o, rfl⟩ := ht
  exact ⟨h.queue, h.num, h.only, h.poison⟩

end

theorem ofSigned_lt (z : Int) : ofSigned 64 z < 2 ^ 64 := by
  unfold ofSigned
  have := Int.emod_lt_of_pos z (b := ((2 ^ 64 : Nat) : Int)) (by norm_num)
  omega

theorem atomicEffect_sat {s : State} {r : HomeReq} (h : r.code = 2) : s.atomicEffect r =
    (let x := toSigned 64 (s.num r.addr 8) + toSigned 64 r.op1
     if 2 ^ 63 - 1 < x then ((s.write r.addr (natLE 8 (ofSigned 64 (2 ^ 63 - 1)))).countReg 0x3054 1, (0, 0))
     else if x < -(2 ^ 63) then ((s.write r.addr (natLE 8 (ofSigned 64 (-(2 ^ 63))))).countReg 0x3054 1, (0, 0))
     else (s.write r.addr (natLE 8 (ofSigned 64 x)), (0, 0))) := by
  unfold State.atomicEffect
  rw [h]
  rfl

/-- A saturating sum. -/
theorem wordSet_sat {s : State} {r : HomeReq} (hc : Clear s r.addr 8) (hcode : r.code = 2) :
    ∃ u res, s.atomicEffect r = (u, res) ∧ res.1 = 0 ∧ WordSet s u r.addr
      (ofSigned 64 (max (-2 ^ 63) (min (2 ^ 63 - 1) (toSigned 64 (s.num r.addr 8) + toSigned 64 r.op1)))) := by
  obtain ⟨x, hx⟩ : ∃ x, x = toSigned 64 (s.num r.addr 8) + toSigned 64 r.op1 := ⟨_, rfl⟩
  have hset (z : Int) : WordSet s (s.write r.addr (natLE 8 (ofSigned 64 z))) r.addr (ofSigned 64 z) := by
    have h := wordSet_write hc (ofSigned 64 z)
    rwa [Nat.mod_eq_of_lt (ofSigned_lt z)] at h
  rw [atomicEffect_sat hcode]
  dsimp only
  rw [← hx]
  split
  · rw [min_eq_left (by omega), max_eq_right (by norm_num)]
    exact ⟨_, _, rfl, rfl, (hset _).counted⟩
  split
  · rw [min_eq_right (by omega), max_eq_left (by omega)]
    exact ⟨_, _, rfl, rfl, (hset _).counted⟩
  · rw [min_eq_right (by omega), max_eq_right (by omega)]
    exact ⟨_, _, rfl, rfl, hset x⟩

/-- The word that an atomic of one word leaves (Table 6-5). -/
def wordAfter (w : Nat) (r : HomeReq) : Nat → Nat
  | 0 | 1 => (w + r.op1) % 2 ^ 64
  | 2 => ofSigned 64 (max (-2 ^ 63) (min (2 ^ 63 - 1) (toSigned 64 w + toSigned 64 r.op1)))
  | 3 => r.op1 % 2 ^ 64
  | _ => if w = r.op1 then r.op2 % 2 ^ 64 else w

theorem wordSet_effect {s : State} {r : HomeReq} (hc : Clear s r.addr 8) (hcode : r.code < 5) :
    ∃ u res, s.atomicEffect r = (u, res) ∧ res.1 = 0 ∧ WordSet s u r.addr (wordAfter (s.num r.addr 8) r r.code) := by
  obtain h | h | h | h | h : r.code = 0 ∨ r.code = 1 ∨ r.code = 2 ∨ r.code = 3 ∨ r.code = 4 := by omega
  case inr.inr.inl =>
    rw [h]
    exact wordSet_sat hc h
  all_goals
    unfold State.atomicEffect
    rw [h]
  · exact ⟨_, _, rfl, rfl, wordSet_write hc _⟩
  · exact ⟨_, _, rfl, rfl, wordSet_write hc _⟩
  · exact ⟨_, _, rfl, rfl, wordSet_write hc _⟩
  · refine ⟨_, _, rfl, rfl, ?_⟩
    unfold wordAfter
    split
    · exact wordSet_write hc _
    · exact wordSet_self s _

section
variable {s : State} {r : HomeReq} {rest : List HomeReq} {align : Nat}

theorem clear_of_ready (h : AtomicReady s r rest align) (hn : align ∣ 64) : Clear (served s rest) r.addr align :=
  clear_of_aligned (s := served s rest) hn h.2.1 (Bool.and_eq_true_iff.mp h.2.2.1).1 h.2.2.2.1

end

theorem atomicWordResult : AtomicWordResult := by
  intro s r rest h w x c hc hcode
  have hlt : r.code < 5 := by
    simp only [List.mem_cons, List.not_mem_nil, or_false] at hc
    rcases hc with rfl | rfl | rfl | rfl | rfl <;> dsimp only at hcode <;> omega
  have halign : atomAlign r.code = 8 := if_neg (by omega)
  obtain ⟨u, res, heff, hres, hset⟩ := wordSet_effect (clear_of_ready h (by decide)) hlt
  obtain ⟨htold, hacq, -⟩ := performed h halign heff (by omega)
  obtain ⟨hq, hnum, honly, hpoison⟩ := hset.told htold
  have hexec : Gives c.1 s (atomicAt 0 c.2.1 s) ∧ wordAfter (s.num r.addr 8) r c.2.1 = c.2.2 := by
    simp only [List.mem_cons, List.not_mem_nil, or_false] at hc
    rcases hc with rfl | rfl | rfl | rfl | rfl <;> refine ⟨rfl, ?_⟩ <;> simp only [wordAfter, w, x]
  rw [← hcode] at hexec
  refine ⟨_, hexec.1, hq, hnum.trans hexec.2, honly, hpoison, fun d k horg => ?_⟩
  rw [hacq d k horg, hset.replies, hres]

/-! ### Refusals -/

theorem atomicRefusals : AtomicRefusals := by
  intro s r rest d k hq horg hcode hready
  have halign : atomAlign r.code = 16 := if_pos (.inl hcode)
  have hat := atomicAt_head hq hcode hready
  have hgive {n : Nat} (hn : n = 4 ∨ n = 5) (hatomic : (served s rest).atomic r = (served s rest, (n, 0))) :
      ∃ t, Gives (.semAcquire 0) s t ∧ t.homeQ = rest ∧ t.mem = s.mem ∧ t.replies = s.replies ++ [(d.val, k, n)] := by
    rw [hatomic, if_pos hn, horg] at hat
    exact ⟨_, congrArg Host.Outcome.next hat, rfl, rfl, rfl⟩
  refine ⟨fun hbad => hgive (.inr rfl) ?_, fun haddr hhome hpoison => hgive (.inl rfl) ?_⟩
  · rw [State.atomic, halign]
    exact if_pos hbad
  · rw [State.atomic, halign, if_neg]
    · exact if_pos hpoison
    · rintro (h | h)
      · exact h haddr
      · exact absurd (hhome.symm.trans h) (by decide)

/-! ### Semaphores -/

section
variable {s t u : State} {a : Nat}

/-- Two words stored side by side. -/
theorem nums_of_stored {x y : Nat} (h : Stored s t a (natLE 4 x ++ natLE 4 y)) :
    t.num a 4 = x % 2 ^ 32 ∧ t.num (a + 4) 4 = y % 2 ^ 32 := by
  have hlow := h.bytes_inside (k := 0) (n := 4) (by simp [length_natLE])
  have hhigh := h.bytes_inside (k := 4) (n := 4) (by simp [length_natLE])
  rw [List.drop_zero, List.take_left' (length_natLE 4 x)] at hlow
  rw [List.drop_left' (length_natLE 4 x), List.take_of_length_le (by rw [length_natLE])] at hhigh
  rw [State.num, State.num]
  exact ⟨(congrArg leNat hlow).trans (leNat_natLE 4 x), (congrArg leNat hhigh).trans (leNat_natLE 4 y)⟩

theorem bitAt_top {w : Nat} (h : w < 2 ^ 32) : bitAt w 31 = decide (2 ^ 31 ≤ w) := by
  rw [Registers.bitAt_eq_testBit, Nat.testBit_eq_decide_div_mod_eq]
  exact decide_eq_decide.mpr ⟨fun _ => by omega, fun _ => by omega⟩

/-- Memory after an effect, once who asked is told. -/
theorem Told.memory (h : Told u t) : t.byte = u.byte ∧ t.homeQ = u.homeQ ∧ t.mem = u.mem := by
  obtain ⟨c, d, r', f, x, o, rfl⟩ := h
  exact ⟨rfl, rfl, rfl⟩

theorem Told.num (h : Told u t) (b n : Nat) : t.num b n = u.num b n := num_congr fun x _ _ => congrFun h.memory.1 x

theorem Told.onlyBytes {n : Nat} (h : Told u t) (ho : OnlyBytes s u a n) : OnlyBytes s t a n := fun x hx => by
  rw [h.memory.1, ho x hx]

end

/-- The record of a waiter (R171). -/
theorem waiter_lt (who : Nat) : fld who 0 24 + 2 ^ 31 < 2 ^ 32 := by
  have := Completions.fld_lt who 0 24
  omega

section
variable {s : State} {r : HomeReq} {rest : List HomeReq} {d : Fin 12} {k : Nat}

/-- An acquire of which the effect is known: what memory and who asked see of it. -/
theorem acquired {u : State} {res : AtomRes} (h : AtomicReady s r rest 16) (hcode : r.code = 5) (horg : r.origin = .acq d.val k)
    (heff : (served s rest).semAcquire r = (u, res)) (hres : res.1 < 4) :
    ∃ t, Gives (.semAcquire 0) s t ∧ Told u t ∧ t.replies = u.replies ++ [(d.val, k, res.1)] := by
  have heff' : (served s rest).atomicEffect r = (u, res) := by
    rw [← heff, State.atomicEffect, hcode]
    rfl
  obtain ⟨htold, hacq, -⟩ := performed h (if_pos (.inl hcode)) heff' hres
  rw [hcode] at htold hacq
  exact ⟨_, rfl, htold, hacq _ _ horg⟩

/-- A release, which is told nothing. -/
theorem released {u : State} (h : AtomicReady s r rest 16) (hcode : r.code = 6)
    (heff : (served s rest).semRelease r = (u, (0, 0))) :
    ∃ t, Gives (.semRelease 0) s t ∧ Told u t ∧ ((∀ src flow tag, r.origin ≠ .remote src flow tag) → t.fab = u.fab) := by
  have heff' : (served s rest).atomicEffect r = (u, (0, 0)) := by
    rw [← heff, State.atomicEffect, hcode]
    rfl
  obtain ⟨htold, -, hfab⟩ := performed h (if_pos (.inr hcode)) heff' (by decide)
  rw [hcode] at htold hfab
  exact ⟨_, rfl, htold, hfab⟩

theorem semAcquire_takes (h : toSigned 64 r.op1 ≤ toSigned 64 (s.num r.addr 8)) : s.semAcquire r =
    (s.write r.addr (natLE 8 (ofSigned 64 (toSigned 64 (s.num r.addr 8) - toSigned 64 r.op1))), (1, 0)) := by
  unfold State.semAcquire
  dsimp only
  rw [if_pos h]

theorem semAcquire_waits (hc : Clear s r.addr 16) (hno : toSigned 64 (s.num r.addr 8) < toSigned 64 r.op1)
    (hw : s.num (r.addr + 8) 4 < 2 ^ 31 ∨ fld (s.num (r.addr + 8) 4) 0 24 = fld r.who 0 24) :
    ∃ u, s.semAcquire r = (u, (2, 0)) ∧
      Stored s u (r.addr + 8) (natLE 4 (fld r.who 0 24 + 2 ^ 31) ++ natLE 4 r.op1) := by
  have hgo : (!bitAt (s.num (r.addr + 8) 4) 31 || fld (s.num (r.addr + 8) 4) 0 24 == fld r.who 0 24) = true := by
    rw [bitAt_top (num_lt s _ 4)]
    rcases hw with hw | hw
    · rw [decide_eq_false (by omega), Bool.not_false, Bool.true_or]
    · rw [beq_iff_eq.mpr hw, Bool.or_true]
  refine ⟨_, ?_, stored_write (hc.sub (by omega) (by simp [length_natLE]))⟩
  unfold State.semAcquire
  dsimp only
  rw [if_neg (by omega), if_pos hgo]

theorem semAcquire_retries (hno : toSigned 64 (s.num r.addr 8) < toSigned 64 r.op1)
    (hw : 2 ^ 31 ≤ s.num (r.addr + 8) 4) (hother : fld (s.num (r.addr + 8) 4) 0 24 ≠ fld r.who 0 24) :
    s.semAcquire r = (s, (3, 0)) := by
  have hno' : ¬(!bitAt (s.num (r.addr + 8) 4) 31 || fld (s.num (r.addr + 8) 4) 0 24 == fld r.who 0 24) = true := by
    rw [bitAt_top (num_lt s _ 4)]
    rw [decide_eq_true hw, beq_eq_false_iff_ne.mpr hother]
    decide
  unfold State.semAcquire
  dsimp only
  rw [if_neg (by omega), if_neg hno']

/-- The word beside the semaphore's count, after the count is written. -/
theorem num_beside (hc : Clear s r.addr 16) (v : Nat) {b : Nat} (hb : r.addr + 8 ≤ b) :
    (s.write r.addr (natLE 8 v)).num b 4 = s.num b 4 :=
  num_congr fun x _ _ => (wordSet_write (hc.sub (by omega) (by omega)) v).only x (by omega)

theorem semRelease_quiet (hc : Clear s r.addr 16) (hw : s.num (r.addr + 8) 4 < 2 ^ 31) :
    s.semRelease r = (s.write r.addr (natLE 8 (s.num r.addr 8 + r.op1)), (0, 0)) := by
  unfold State.semRelease
  dsimp only
  rw [num_beside hc _ le_rfl, num_beside hc _ (by omega), bitAt_top (num_lt s _ 4), decide_eq_false (by omega), Bool.false_and,
    if_neg Bool.false_ne_true]

/-- The wake that a release sends (R172). -/
abbrev wakePacket (u : State) (who addr : Nat) : Packet :=
  u.mkPacket (fld who 0 20) 0x08 0 16 false 0 (natLE 8 (fld who 20 4) ++ natLE 8 addr)

theorem wakePacket_fields (u : State) (who : Nat) {addr : Nat} (h : addr < 2 ^ 64) :
    fieldB (wakePacket u who addr).payload 0 8 = fld who 20 4 ∧ fieldB (wakePacket u who addr).payload 8 8 = addr := by
  have hwho := Completions.fld_lt who 20 4
  constructor
  · refine (Payloads.fieldB_payload _ (by decide)).trans ?_
    rw [Payloads.fieldB_append_left _ (by rw [length_natLE]), Payloads.fieldB_natLE]
    omega
  · refine (Payloads.fieldB_payload _ (by decide)).trans ?_
    rw [Payloads.fieldB_append_right _ (by rw [length_natLE]), length_natLE, Nat.sub_self, Payloads.fieldB_natLE]
    exact Nat.mod_eq_of_lt h

theorem sendWake_here {u : State} {who addr : Nat} (h : fld who 0 20 = u.selfCoord) :
    u.sendWake who addr = { u with fab := { u.fab with
      eject := u.fab.eject.set 8 (u.fab.eject[8] ++ [(wakePacket u who addr, false)]) } } := by
  have hlt := Completions.fld_lt who 0 20
  exact if_pos ((Nat.mod_eq_of_lt hlt).trans h)

theorem semRelease_wakes (hc : Clear s r.addr 16) (hw : 2 ^ 31 ≤ s.num (r.addr + 8) 4)
    (hcan : toSigned 32 (s.num (r.addr + 12) 4) ≤ toSigned 64 (s.num r.addr 8 + r.op1)) :
    s.semRelease r = ((((s.write r.addr (natLE 8 (s.num r.addr 8 + r.op1))).write (r.addr + 8)
      (natLE 4 (s.num (r.addr + 8) 4 % 2 ^ 31))).sendWake (s.num (r.addr + 8) 4) r.addr), (0, 0)) := by
  unfold State.semRelease
  dsimp only
  rw [num_beside hc _ le_rfl, num_beside hc _ (by omega), bitAt_top (num_lt s _ 4), decide_eq_true hw, decide_eq_true hcan,
    Bool.and_self, if_pos rfl]

/-- The count and the waiter's word, both written. -/
theorem stored_release (hc : Clear s r.addr 16) (v w : Nat) :
    Stored s ((s.write r.addr (natLE 8 v)).write (r.addr + 8) (natLE 4 w)) r.addr (natLE 8 v ++ natLE 4 w) := by
  have hfirst := stored_write (s := s) (a := r.addr) (bs := natLE 8 v) (hc.sub le_rfl (by rw [length_natLE]; omega))
  exact hfirst.append (by rw [length_natLE]) (stored_write (hfirst.clear (hc.sub (by omega) (by rw [length_natLE]; omega))))

end

theorem semaphoreAtHome : SemaphoreAtHome := by
  intro s r rest h count waiter n
  have hc : Clear (served s rest) r.addr 16 := clear_of_ready h (by decide)
  have hc8 : Clear (served s rest) r.addr 8 := hc.sub le_rfl (by omega)
  have hlt : r.addr < 2 ^ 64 := (Movements.lt_of_mapped (Bool.and_eq_true_iff.mp h.2.2.1).1).trans (by decide)
  refine ⟨fun d k hcode horg => ⟨fun hle => ?_, fun hno hw => ?_, fun hno hw hother => ?_⟩,
    fun hcode => ⟨fun hw => ?_, fun hw hcan horg hself => ?_⟩⟩
  · obtain ⟨t, ht, htold, hreplies⟩ := acquired h hcode horg (semAcquire_takes (s := served s rest) hle) (by decide)
    have hset := wordSet_write hc8 (ofSigned 64 (count - n))
    rw [Nat.mod_eq_of_lt (ofSigned_lt _)] at hset
    obtain ⟨hq, hnum, honly, -⟩ := hset.told htold
    exact ⟨t, ht, hq, hnum, honly, hreplies.trans (congrArg (· ++ _) hset.replies)⟩
  · obtain ⟨u, heff, hst⟩ := semAcquire_waits (s := served s rest) hc hno hw
    obtain ⟨t, ht, htold, hreplies⟩ := acquired h hcode horg heff (by decide)
    obtain ⟨hwho, hcredits⟩ := nums_of_stored hst
    have honly := hst.onlyBytes
    rw [List.length_append, length_natLE, length_natLE] at honly
    rw [Nat.mod_eq_of_lt (waiter_lt _)] at hwho
    refine ⟨t, ht, ?_, (htold.num ..).trans hwho, (htold.num ..).trans hcredits, htold.onlyBytes honly, ?_⟩
    all_goals obtain ⟨⟨m, hm⟩, -⟩ := hst
    · rw [htold.memory.2.1, hm]
    · rw [hreplies, hm]
  · obtain ⟨t, ht, htold, hreplies⟩ := acquired h hcode horg (semAcquire_retries (s := served s rest) hno hw hother) (by decide)
    exact ⟨t, ht, htold.memory.2.1, htold.memory.2.2, hreplies⟩
  · obtain ⟨t, ht, htold, -⟩ := released h hcode (semRelease_quiet (s := served s rest) hc hw)
    obtain ⟨hq, hnum, honly, -⟩ := (wordSet_write hc8 _).told htold
    exact ⟨t, ht, hq, hnum, honly⟩
  · obtain ⟨t, ht, htold, hfab⟩ := released h hcode (semRelease_wakes (s := served s rest) hc hw hcan)
    have hst := stored_release hc (s.num r.addr 8 + r.op1) (waiter % 2 ^ 31)
    have hcount := hst.bytes_inside (k := 0) (n := 8) (by simp [length_natLE])
    have hwaiter := hst.bytes_inside (k := 8) (n := 4) (by simp [length_natLE])
    have honly := hst.onlyBytes
    rw [List.length_append, length_natLE, length_natLE] at honly
    rw [List.drop_zero, List.take_left' (length_natLE 8 _)] at hcount
    rw [List.drop_left' (length_natLE 8 _), List.take_of_length_le (by rw [length_natLE])] at hwaiter
    obtain ⟨⟨m, hm⟩, -⟩ := hst
    have hw' : (served s rest).num (r.addr + 8) 4 = waiter := rfl
    have hn' : (served s rest).num r.addr 8 = s.num r.addr 8 := rfl
    rw [hw', hn', hm, sendWake_here (u := { served s rest with mem := m }) (by exact hself)] at htold hfab
    rw [hm] at hcount hwaiter honly
    obtain ⟨hfrom, hto⟩ := wakePacket_fields { served s rest with mem := m } waiter hlt
    refine ⟨t, _, ht, htold.memory.2.1, ?_, ?_, htold.onlyBytes honly, ?_, rfl, hfrom, hto⟩
    · rw [htold.num]
      exact (congrArg leNat hcount).trans (leNat_natLE 8 _)
    · rw [htold.num]
      refine ((congrArg leNat hwaiter).trans (leNat_natLE 4 _)).trans (Nat.mod_eq_of_lt ?_)
      have := Nat.mod_lt waiter (show 0 < 2 ^ 31 by decide)
      omega
    · rw [hfab horg]
      simp

/-- Settles O18: an atomic at the head of the queue is its effect, which sets one word or records a waiter, and the reply. -/
theorem atomics : Obligations.Atomics := ⟨atomicWordResult, atomicRefusals, semaphoreAtHome⟩

end Sys2Proof.Proofs.AtomicWords
end

section
/-! SUPPORT. Flits: the fields of one that is sent, what sending leaves of the receivers, and what is sent while there is room
(R469, R470, R473). -/

namespace Sys2Proof.Proofs.FlitSending

open Sys2Proof.Machine Sys2Proof.Claims Sys2Proof.Proofs.ByteFields Sys2Proof.Proofs.Payloads Sys2Proof.Proofs.MemoryAccess

/-! ### Fields of a flit -/

section
variable (kind cls : Nat) (poison : Bool) (payload : List Byte) (seq : Nat)

theorem length_flitBody : (flitBody kind cls poison payload).length = 72 := by
  simp [flitBody, length_natLE]

/-- Sealing leaves the byte of kind, class and poison. -/
theorem fieldB_flitSeal_head (body : List Byte) (h : body.length = 72) : fieldB (flitSeal body seq) 0 1 = fieldB body 0 1 := by
  unfold flitSeal
  dsimp only
  rw [fieldB_putB_disjoint (by rw [length_putB (by omega)]; omega) (.inl (by omega)),
    fieldB_putB_disjoint (by omega) (.inl (by omega))]

theorem sliceB_putB_disjoint {bs : List Byte} {off n off' n' : Nat} (h : off + n ≤ bs.length)
    (hd : off' + n' ≤ off ∨ off + n ≤ off') (v : Nat) : sliceB (putB bs off n v) off' n' = sliceB bs off' n' :=
  sliceB_congr fun i hi hi' => by rw [getD_putB h, if_neg (by omega)]

theorem flitPayload_flitSeal (body : List Byte) (h : body.length = 72) : flitPayload (flitSeal body seq) = flitPayload body := by
  unfold flitPayload flitSeal
  dsimp only
  rw [sliceB_putB_disjoint (by rw [length_putB (by omega)]; omega) (.inr (by omega)),
    sliceB_putB_disjoint (by omega) (.inr (by omega))]

theorem flitPayload_flitBody : flitPayload (flitBody kind cls poison payload) = sliceB payload 0 68 := by
  rw [flitPayload, flitBody, sliceB_append_right _ (by rw [length_natLE]), length_natLE, Nat.sub_self, sliceB_sliceB _ (by omega)]

theorem fieldB_flitBody_head :
    fieldB (flitBody kind cls poison payload) 0 1 = (kind + (if poison then 16 else 0) + cls * 32) % 256 := by
  rw [flitBody, fieldB_append_left _ (by rw [length_natLE]; omega)]
  simp [fieldB, sliceB, natLE, leNat]

end

/-- The kind, the poison mark and the payload of a flit as it is sent. -/
theorem flitSeal_fields {kind : Nat} (hkind : kind < 16) (cls : Nat) (poison : Bool) (payload : List Byte) (seq : Nat) :
    flitKind (flitSeal (flitBody kind cls poison payload) seq) = kind ∧
      flitPoison (flitSeal (flitBody kind cls poison payload) seq) = poison ∧
      flitPayload (flitSeal (flitBody kind cls poison payload) seq) = sliceB payload 0 68 := by
  have hlen := length_flitBody kind cls poison payload
  refine ⟨?_, ?_, ?_⟩
  · rw [flitKind, fieldB_flitSeal_head _ _ hlen, fieldB_flitBody_head]
    simp only [fld, Nat.shiftRight_zero]
    split <;> omega
  · rw [flitPoison, fieldB_flitSeal_head _ _ hlen, fieldB_flitBody_head, Registers.bitAt_eq_testBit, Nat.testBit_eq_decide_div_mod_eq]
    cases poison
    · simp only [Bool.false_eq_true, if_false, decide_eq_false_iff_not]
      omega
    · simp only [if_true, decide_eq_true_eq]
      omega
  · rw [flitPayload_flitSeal _ _ hlen, flitPayload_flitBody]

/-! ### Bundles -/

/-- What a bundle's receiver holds. -/
def receives (b : Bundle) : Nat × Bool × Nat × List Nat × Option (List Byte) × Bool :=
  (b.expect, b.discard, b.naks, b.fails, b.want, b.testing)

/-- Flits sent on one bundle: every other bundle stays, and every receiver. -/
structure Sent (s t : State) (k : Nat) : Prop where
  rest : ∃ b o, t = { s with haf := { s.haf with bundles := b }, out := o }
  other : ∀ j, j ≠ k → t.bundle j = s.bundle j
  receiver : receives (t.bundle k) = receives (s.bundle k)

theorem Sent.refl (s : State) (k : Nat) : Sent s s k := ⟨⟨_, _, rfl⟩, fun _ _ => rfl, rfl⟩

theorem Sent.trans {s t u : State} {k : Nat} (h : Sent s t k) (h' : Sent t u k) : Sent s u k := by
  obtain ⟨⟨b, o, rfl⟩, hother, hrec⟩ := h
  obtain ⟨⟨b', o', rfl⟩, hother', hrec'⟩ := h'
  exact ⟨⟨b', o', rfl⟩, fun j hj => (hother' j hj).trans (hother j hj), hrec'.trans hrec⟩

theorem sent_setBundle (s : State) {k : Nat} {b : Bundle} (h : receives b = receives (s.bundle k)) : Sent s (s.setBundle k b) k :=
  ⟨⟨_, s.out, rfl⟩, fun _ hj => State.bundle_setBundle_ne _ _ hj, by rw [State.bundle_setBundle_self, h]⟩

theorem sent_emit (s : State) (k : Nat) (e : Emit) : Sent s (s.emit e) k := ⟨⟨s.haf.bundles, _, rfl⟩, fun _ _ => rfl, rfl⟩

theorem sent_pump (n : Nat) (s : State) (k : Nat) : Sent s (s.pump k n) k := by
  induction n generalizing s with
  | zero => exact .refl s k
  | succ n ih =>
    unfold State.pump
    dsimp only
    split
    · exact .refl s k
    · split
      · exact .refl s k
      · exact ((sent_setBundle s (by rfl)).trans (sent_emit _ k _)).trans (ih _)

theorem sent_sendFlit (s : State) (k : Nat) (body : List Byte) : Sent s (s.sendFlit k body) k :=
  (sent_setBundle s (by rfl)).trans (sent_pump ..)

theorem sent_sendCompletion (s : State) (key tag status word : Nat) (line : Option (List Byte × Bool)) :
    Sent s (s.sendCompletion key tag status word line) (reverseKey key) := by
  unfold State.sendCompletion
  dsimp only
  split
  · exact (sent_sendFlit ..).trans (sent_sendFlit ..)
  · exact sent_sendFlit ..

/-- A bundle with nothing waiting and room for n more flits. -/
def Room (b : Bundle) (n : Nat) : Prop := b.outQ = [] ∧ n ≤ b.credits ∧ b.replay.length + n ≤ 128 ∧ b.testing = false

/-- A flit handed to a bundle with room is sent, and kept until it is acknowledged. -/
theorem sendFlit_room {s : State} {k n : Nat} (h : Room (s.bundle k) (n + 1)) (body : List Byte) :
    ((s.sendFlit k body).bundle k).replay = (s.bundle k).replay ++ [flitSeal body (s.bundle k).next] ∧
      Room ((s.sendFlit k body).bundle k) n := by
  obtain ⟨hout, hcredits, hreplay, htest⟩ := h
  have hno : ¬((s.bundle k).credits = 0 ∨ 128 ≤ (s.bundle k).replay.length ∨ (s.bundle k).testing = true) := by
    rw [htest]
    rintro (h | h | h)
    · omega
    · omega
    · exact absurd h Bool.false_ne_true
  unfold State.sendFlit
  dsimp only
  rw [hout, List.length_nil, List.nil_append, State.pump, State.bundle_setBundle_self]
  dsimp only
  rw [if_neg hno, State.pump]
  have hfinal (b : Bundle) (u : State) (e : Emit) : ((u.setBundle k b).emit e).bundle k = b := State.bundle_setBundle_self ..
  rw [hfinal]
  refine ⟨rfl, rfl, ?_, ?_, htest⟩
  · dsimp only; omega
  · rw [List.length_append, List.length_singleton]; omega

/-! ### Keys -/

theorem dataBundles_lt (die dir : Nat) : dataBundles die dir < 4096 := by
  unfold dataBundles
  repeat' split
  all_goals decide

/-- The bundle that answers lies in the other direction. -/
theorem reverseKey_ne {die dir bundle : Nat} (hdir : dir < 2) (hb : bundle < 4096) :
    reverseKey (bundleKey die dir bundle) ≠ bundleKey die dir bundle := by
  have hdie : bundleKey die dir bundle / 8192 = die := by unfold bundleKey; omega
  have hside : 1 - bundleKey die dir bundle / 4096 % 2 = 1 - dir := by unfold bundleKey; omega
  have hlt : bundleKey die dir bundle % 4096 % max 1 (dataBundles die (1 - dir)) < 4096 :=
    lt_of_le_of_lt (Nat.mod_le _ _) (Nat.mod_lt _ (by decide))
  unfold reverseKey
  dsimp only
  rw [hdie, hside]
  generalize bundleKey die dir bundle % 4096 % max 1 (dataBundles die (1 - dir)) = x at hlt
  unfold bundleKey
  omega

end Sys2Proof.Proofs.FlitSending
end

section
/-! PROOF. Flits taken in sequence, flits that fail, and spare bundles (R206, R210–R218, R469–R475). -/

namespace Sys2Proof.Proofs.Flits

open Sys2Proof.Machine Sys2Proof.Claims Sys2Proof.Proofs.FlitSending Sys2Proof.Proofs.Homes Sys2Proof.Proofs.Lines
open Sys2Proof.Proofs.Payloads Sys2Proof.Proofs.ByteFields

/-! ### The receiver moves on -/

/-- A bundle whose flit has been accepted. -/
abbrev acceptedBy (b : Bundle) : Bundle := { b with expect := (b.expect + 1) % 256, discard := false, naks := 0 }

section
variable {s : State} {die dir bundle kind : Nat} {flit : List Byte}

theorem bundle_lt_of_takes (h : s.takesFlits die dir bundle = true) : bundle < 4096 := by
  simp only [State.takesFlits, Bool.and_eq_true, decide_eq_true_eq] at h
  exact h.1.2.trans (dataBundles_lt die dir)

theorem testing_of_takes (h : s.takesFlits die dir bundle = true) : (s.bundle (bundleKey die dir bundle)).testing = false := by
  simp only [State.takesFlits, Bool.and_eq_true, Bool.not_eq_true'] at h
  exact h.2

/-- A state that differs in the bundles and in what was sent alone. -/
def ButFlits (s t : State) : Prop := ∃ b o, t = { s with haf := { s.haf with bundles := b }, out := o }

theorem ButFlits.trans {s t u : State} (h : ButFlits s t) (h' : ButFlits t u) : ButFlits s u := by
  obtain ⟨b, o, rfl⟩ := h
  obtain ⟨b', o', rfl⟩ := h'
  exact ⟨b', o', rfl⟩

theorem flitOk_facts {key : Nat} (hne : reverseKey key ≠ key) :
    ButFlits s (s.flitOk key) ∧ (s.flitOk key).bundle key = acceptedBy (s.bundle key) ∧
      ∀ j, j ≠ key → j ≠ reverseKey key → (s.flitOk key).bundle j = s.bundle j := by
  have hsent : Sent (s.setBundle key (acceptedBy (s.bundle key))) (s.flitOk key) (reverseKey key) := sent_sendFlit ..
  refine ⟨?_, ?_, fun j hj hj' => ?_⟩
  · obtain ⟨b, o, h⟩ := hsent.rest
    exact ⟨b, o, h⟩
  · rw [hsent.other _ hne.symm, State.bundle_setBundle_self]
  · rw [hsent.other _ hj', State.bundle_setBundle_ne _ _ hj]

theorem takeFlit_next (h : FlitNext s die dir bundle flit kind) (f : Nat → List Byte → State → State) :
    s.takeFlit die dir bundle flit kind f = f (bundleKey die dir bundle) flit (s.flitOk (bundleKey die dir bundle)) := by
  obtain ⟨-, htakes, hgood, hseq, hkind⟩ := h
  unfold State.takeFlit
  simp only [htakes, hgood, hseq, hkind, Bool.true_eq_false, ne_eq, not_true_eq_false, if_false]

theorem key_ne_of_next (h : FlitNext s die dir bundle flit kind) :
    reverseKey (bundleKey die dir bundle) ≠ bundleKey die dir bundle :=
  reverseKey_ne h.1 (bundle_lt_of_takes h.2.1)

/-- The receiver's state once a flit is accepted and the answers are sent elsewhere. -/
theorem flitTaken_of {t : State} (h : (t.bundle (bundleKey die dir bundle)).expect = ((s.bundle (bundleKey die dir bundle)).expect + 1) % 256)
    (hd : (t.bundle (bundleKey die dir bundle)).discard = false) (hn : (t.bundle (bundleKey die dir bundle)).naks = 0) :
    FlitTaken s t die dir bundle := ⟨h, hd, hn⟩

theorem flitTaken_flitOk (h : FlitNext s die dir bundle flit kind) : FlitTaken s (s.flitOk (bundleKey die dir bundle)) die dir bundle := by
  obtain ⟨-, hkey, -⟩ := flitOk_facts (s := s) (key_ne_of_next h)
  exact flitTaken_of (by rw [hkey]) (by rw [hkey]) (by rw [hkey])

theorem FlitTaken.sent {t u : State} {k : Nat} (h : FlitTaken s t die dir bundle) (hs : Sent t u k) : FlitTaken s u die dir bundle := by
  obtain ⟨h1, h2, h3⟩ := h
  by_cases hk : bundleKey die dir bundle = k
  · have hrec := hs.receiver
    rw [← hk] at hrec
    simp only [receives, Prod.mk.injEq] at hrec
    obtain ⟨e1, e2, e3, -⟩ := hrec
    exact ⟨e1.trans h1, e2.trans h2, e3.trans h3⟩
  · have hother := hs.other _ hk
    exact ⟨by rw [hother]; exact h1, by rw [hother]; exact h2, by rw [hother]; exact h3⟩

end

/-! ### Requests -/

section
variable {s : State} {die dir bundle : Nat} {flit : List Byte}

theorem HomeAnswers.butFlits {s u : State} {a l : Nat} (h : HomeAnswers s a l) (hu : ButFlits s u) : HomeAnswers u a l := by
  obtain ⟨b, o, rfl⟩ := hu
  exact h

theorem reqTag_lt (flit : List Byte) : reqTag flit < 256 ^ 4 := fieldB_lt _ 16 4

/-- A read at a home that answers: a completion and the line. -/
theorem takeFlitRead_of_answers {u : State} {key l : Nat} (h : HomeAnswers u (reqAddr flit) l)
    (hp : u.poisoned (reqAddr flit) = false) :
    takeFlitRead key flit u = u.sendCompletion key (reqTag flit) 0 0
      (some (u.bytes (reqAddr flit / 64 * 64) 64, false)) := by
  unfold takeFlitRead
  rw [homeArrive_of_answers h]
  unfold State.homeServe State.flitRead
  simp only [homeStatus_of_answers h, hp, ne_eq, not_true_eq_false, if_false, Bool.false_eq_true]

/-- The payload of a completion of a line, as it is sent. -/
abbrev completionPayload (tag : Nat) : List Byte := natLE 4 tag ++ natLE 1 0 ++ natLE 3 1 ++ natLE 8 0

theorem completion_tag {tag : Nat} (h : tag < 256 ^ 4) : fieldB (sliceB (completionPayload tag) 0 68) 0 4 = tag ∧
    fieldB (sliceB (completionPayload tag) 0 68) 4 1 = 0 := by
  constructor <;> rw [fieldB_sliceB _ (by decide), Nat.zero_add]
  · rw [fieldB_append_left _ (by simp [MemoryAccess.length_natLE]), fieldB_append_left _ (by simp [MemoryAccess.length_natLE]),
      fieldB_append_left _ (by simp [MemoryAccess.length_natLE]), fieldB_natLE]
    exact Nat.mod_eq_of_lt h
  · rw [fieldB_append_left _ (by simp [MemoryAccess.length_natLE]), fieldB_append_left _ (by simp [MemoryAccess.length_natLE]),
      fieldB_append_right _ (by simp [MemoryAccess.length_natLE]), MemoryAccess.length_natLE, Nat.sub_self, fieldB_natLE]
    rfl

/-- The acknowledgement of a flit, on a bundle with room. -/
theorem record_of_flitOk {key n : Nat} (hne : reverseKey key ≠ key) (hroom : Room (s.bundle (reverseKey key)) (n + 1)) :
    ∃ u, ((s.flitOk key).bundle (reverseKey key)).replay = (s.bundle (reverseKey key)).replay ++ [u] ∧ flitKind u = 7 ∧
      Room ((s.flitOk key).bundle (reverseKey key)) n := by
  have hkeep : (s.setBundle key (acceptedBy (s.bundle key))).bundle (reverseKey key) = s.bundle (reverseKey key) :=
    State.bundle_setBundle_ne _ _ hne
  obtain ⟨hrec, hroom'⟩ := sendFlit_room (s := s.setBundle key (acceptedBy (s.bundle key))) (k := reverseKey key) (n := n)
    (by rwa [hkeep]) _
  refine ⟨_, hrec.trans (by rw [hkeep]), (flitSeal_fields (by decide) ..).1, hroom'⟩

/-- The completion of a line that is not poisoned, on a bundle with room. -/
theorem completion_of_line {key tag : Nat} {line : List Byte} (hline : line.length = 64) (htag : tag < 256 ^ 4)
    (hroom : Room (s.bundle (reverseKey key)) 2) :
    ∃ v w, ((s.sendCompletion key tag 0 0 (some (line, false))).bundle (reverseKey key)).replay =
        (s.bundle (reverseKey key)).replay ++ [v, w] ∧ flitKind v = 5 ∧ fieldB (flitPayload v) 0 4 = tag ∧
      fieldB (flitPayload v) 4 1 = 0 ∧ flitKind w = 4 ∧ flitPoison w = false ∧ sliceB (flitPayload w) 0 64 = line := by
  have hwhole : sliceB line 0 64 = line := hline ▸ sliceB_whole line
  obtain ⟨hcomp, hroom1⟩ := sendFlit_room hroom (flitBody 5 1 false (completionPayload tag))
  obtain ⟨hdata, -⟩ := sendFlit_room hroom1 (flitBody 4 1 false (sliceB line 0 64 ++ rsCheck (sliceB line 0 64)))
  refine ⟨_, _, hdata.trans (by rw [hcomp, List.append_assoc]; rfl), (flitSeal_fields (by decide) ..).1, ?_, ?_,
    (flitSeal_fields (by decide) ..).1, (flitSeal_fields (by decide) ..).2.1, ?_⟩ <;> rw [(flitSeal_fields (by decide) ..).2.2]
  · exact (completion_tag htag).1
  · exact (completion_tag htag).2
  · rw [sliceB_sliceB _ (by decide), sliceB_append_left _ (by simp), hwhole, hwhole]

theorem poisoned_butFlits {u : State} (hu : ButFlits s u) (a : Nat) : u.poisoned a = s.poisoned a := by
  obtain ⟨b, o, rfl⟩ := hu
  rfl

theorem bytes_butFlits {u : State} (hu : ButFlits s u) (a n : Nat) : u.bytes a n = s.bytes a n := by
  obtain ⟨b, o, rfl⟩ := hu
  rfl

theorem mem_butFlits {u : State} (hu : ButFlits s u) : u.mem = s.mem := by
  obtain ⟨b, o, rfl⟩ := hu
  rfl

theorem readTaken {l : Nat} (h : FlitNext s die dir bundle flit 1) (hans : HomeAnswers s (reqAddr flit) l)
    (hp : s.poisoned (reqAddr flit) = false) (hroom : AnswerRoom s (bundleKey die dir bundle) 3) :
    ∃ t u v w, Gives (.flitReadRequest die dir bundle flit) s t ∧ FlitTaken s t die dir bundle ∧ t.mem = s.mem ∧
        (t.bundle (reverseKey (bundleKey die dir bundle))).replay =
          (s.bundle (reverseKey (bundleKey die dir bundle))).replay ++ [u, v, w] ∧ flitKind u = 7 ∧ flitKind v = 5 ∧
        fieldB (flitPayload v) 0 4 = reqTag flit ∧ fieldB (flitPayload v) 4 1 = 0 ∧ flitKind w = 4 ∧ flitPoison w = false ∧
        sliceB (flitPayload w) 0 64 = s.bytes (reqAddr flit / 64 * 64) 64 := by
  have hne := key_ne_of_next h
  obtain ⟨hbut, -, -⟩ := flitOk_facts (s := s) hne
  obtain ⟨u, hrec, hu, hroom'⟩ := record_of_flitOk hne hroom
  obtain ⟨v, w, hcomp, hfields⟩ := completion_of_line (key := bundleKey die dir bundle) (ByteRanges.length_bytes s (reqAddr flit / 64 * 64) 64)
    (reqTag_lt flit) hroom'
  have hread : s.takeFlit die dir bundle flit 1 takeFlitRead = (s.flitOk (bundleKey die dir bundle)).sendCompletion
      (bundleKey die dir bundle) (reqTag flit) 0 0 (some (s.bytes (reqAddr flit / 64 * 64) 64, false)) := by
    rw [takeFlit_next h, takeFlitRead_of_answers (HomeAnswers.butFlits hans hbut) ((poisoned_butFlits hbut _).trans hp),
      bytes_butFlits hbut]
  have hsent := sent_sendCompletion (s.flitOk (bundleKey die dir bundle)) (bundleKey die dir bundle) (reqTag flit) 0 0
    (some (s.bytes (reqAddr flit / 64 * 64) 64, false))
  refine ⟨_, u, v, w, ?_, FlitTaken.sent (flitTaken_flitOk h) hsent, mem_butFlits (hbut.trans hsent.rest), ?_, hu, hfields⟩
  · have hdir : dir % 2 = dir := Nat.mod_eq_of_lt h.1
    exact congrArg Host.Outcome.next ((congrArg (fun d => s.takeFlit die d bundle flit 1 takeFlitRead) hdir).trans hread)
  · rw [hcomp, hrec, List.append_assoc]
    rfl

/-! ### A write and its line -/

theorem reqAddr_want (flit : List Byte) : reqAddr (sliceB flit 0 72) = reqAddr flit ∧ reqTag (sliceB flit 0 72) = reqTag flit ∧
    fieldB (flitPayload (sliceB flit 0 72)) 8 8 = fieldB (flitPayload flit) 8 8 := by
  have hpay : flitPayload (sliceB flit 0 72) = flitPayload flit := by
    rw [flitPayload, sliceB_sliceB _ (by decide), Nat.zero_add]
    rfl
  simp only [reqAddr, reqTag, hpay, and_self]

theorem flitKind_want (flit : List Byte) : flitKind (sliceB flit 0 72) = flitKind flit := by
  rw [flitKind, fieldB_sliceB _ (by decide)]
  rfl

/-- The state once a write request is accepted. -/
abbrev wanting (s : State) (key : Nat) (flit : List Byte) : State := keepWant key flit (s.flitOk key)

theorem mergeLine_all (old data : List Byte) : mergeLine old data (2 ^ 64 - 1) = sliceB data 0 64 := by
  refine List.map_congr_left fun i hi => ?_
  have hbit : bitAt (2 ^ 64 - 1) i = true := by
    rw [Registers.bitAt_eq_testBit, Nat.testBit_two_pow_sub_one, decide_eq_true (List.mem_range.mp hi)]
  rw [if_pos hbit, Nat.zero_add]

theorem winDie_line (a : Nat) : winDie (a / 64 * 64) = winDie a := by
  unfold winDie
  by_cases h : 0x050000000000 ≤ a ∧ a < 0x050C00000000
  · rw [if_pos h, if_pos (by omega)]
    exact congrArg some (show (a / 64 * 64 - 0x050000000000) / 2 ^ 32 = (a - 0x050000000000) / 2 ^ 32 by omega)
  · rw [if_neg h, if_neg (by omega)]

/-- A write at a home that answers: one line, merged by the enables. -/
theorem flitWrite_answers {u : State} {key l en : Nat} {req data : List Byte} (h : HomeAnswers u (reqAddr req) l)
    (hen : en = fieldB (flitPayload req) 8 8) (hp : en = 2 ^ 64 - 1 ∨ u.poisoned (reqAddr req) = false) :
    u.flitWrite key req data false = (u.writeLine (reqAddr req / 64 * 64)
      (mergeLine (u.bytes (reqAddr req / 64 * 64) 64) data en)).sendCompletion key (reqTag req) 0 0 none := by
  have hst : u.homeStatus (reqAddr req / 64 * 64) = 0 := by
    have hst := homeStatus_of_answers h
    unfold State.homeStatus at hst ⊢
    rw [mapped_line]
    rw [winDie_line]
    exact hst
  unfold State.flitWrite
  dsimp only
  rw [hst, ← hen, if_neg (by decide), if_neg Bool.false_ne_true]
  split
  · next hall => rw [hall, mergeLine_all]
  · next hpart =>
    rw [poisoned_line, hp.resolve_left hpart, if_neg Bool.false_ne_true]

theorem length_mergeLine (old data : List Byte) (en : Nat) : (mergeLine old data en).length = 64 := by simp [mergeLine]

theorem writeTaken {lineF data : List Byte} {en l : Nat} (h : FlitNext s die dir bundle flit 2)
    (hans : HomeAnswers s (reqAddr flit) l) (hgood : flitGood lineF = true) (hseq : flitSeq lineF = (flitSeq flit + 1) % 256)
    (hkind : flitKind lineF = 4) (hmark : flitPoison lineF = false) (hdata : rsDecode (flitPayload lineF) = some data)
    (hen : en = fieldB (flitPayload flit) 8 8) (hp : en = 2 ^ 64 - 1 ∨ s.poisoned (reqAddr flit) = false) :
    ∃ t, Gives (.flitWriteRequest die dir bundle flit lineF) s t ∧
      t.bytes (reqAddr flit / 64 * 64) 64 = mergeLine (s.bytes (reqAddr flit / 64 * 64) 64) data en ∧
      OnlyBytes s t (reqAddr flit / 64 * 64) 64 ∧ t.homeQ = s.homeQ := by
  have hne := key_ne_of_next h
  obtain ⟨hbut, hkey, -⟩ := flitOk_facts (s := s) hne
  have hfirst : s.takeFlit die dir bundle flit 2 keepWant = wanting s (bundleKey die dir bundle) flit := takeFlit_next h _
  have hbut1 : ButFlits s (wanting s (bundleKey die dir bundle) flit) := hbut.trans ⟨_, _, rfl⟩
  have hbundle : (wanting s (bundleKey die dir bundle) flit).bundle (bundleKey die dir bundle) =
      { acceptedBy (s.bundle (bundleKey die dir bundle)) with want := some (sliceB flit 0 72) } :=
    (State.bundle_setBundle_self ..).trans (by rw [hkey])
  have hnext : FlitNext (wanting s (bundleKey die dir bundle) flit) die dir bundle lineF 4 := by
    obtain ⟨hdir, htakes, -, hexp, -⟩ := h
    refine ⟨hdir, ?_, hgood, ?_, hkind⟩
    · unfold State.takesFlits at htakes ⊢
      rw [hbundle]
      obtain ⟨b, o, hb⟩ := hbut1
      rw [hb]
      exact htakes
    · rw [hbundle, hseq, hexp]
  obtain ⟨hbut2, hkey2, -⟩ := flitOk_facts (s := wanting s (bundleKey die dir bundle) flit) hne
  rw [hbundle] at hkey2
  obtain ⟨u, hu⟩ : ∃ u, u = ((wanting s (bundleKey die dir bundle) flit).flitOk (bundleKey die dir bundle)).setBundle
    (bundleKey die dir bundle) { acceptedBy { acceptedBy (s.bundle (bundleKey die dir bundle)) with want := some (sliceB flit 0 72) } with
      want := none } := ⟨_, rfl⟩
  have hbut3 : ButFlits s u := hu ▸ (hbut1.trans hbut2).trans ⟨_, _, rfl⟩
  have hline : flitLine (bundleKey die dir bundle) lineF ((wanting s (bundleKey die dir bundle) flit).flitOk (bundleKey die dir bundle)) =
      u.homeArrive (reqAddr (sliceB flit 0 72)) (.hafel (bundleKey die dir bundle) (sliceB flit 0 72) (some (data, false))) := by
    have hw2 : flitKind (sliceB flit 0 72) = 2 := (flitKind_want flit).trans h.2.2.2.2
    unfold flitLine
    simp only [hkey2, hdata, hmark, hw2, Option.isNone_some, Bool.or_self, Option.getD_some, if_true]
    rw [hu]
  obtain ⟨haddr, htag, hen'⟩ := reqAddr_want flit
  have hans3 : HomeAnswers u (reqAddr (sliceB flit 0 72)) l := haddr ▸ HomeAnswers.butFlits hans hbut3
  have hserve : u.homeArrive (reqAddr (sliceB flit 0 72)) (.hafel (bundleKey die dir bundle) (sliceB flit 0 72) (some (data, false))) =
      (u.writeLine (reqAddr flit / 64 * 64) (mergeLine (s.bytes (reqAddr flit / 64 * 64) 64) data en)).sendCompletion
        (bundleKey die dir bundle) (reqTag flit) 0 0 none := by
    have hwrite := flitWrite_answers (key := bundleKey die dir bundle) (data := data) hans3 (hen.trans hen'.symm)
      (hp.imp_right fun hp => by rw [haddr, poisoned_butFlits hbut3, hp])
    rw [haddr, htag, bytes_butFlits hbut3] at hwrite
    rw [homeArrive_of_answers hans3]
    exact hwrite
  have hst := wrote_line (s := u) (a := reqAddr flit / 64 * 64)
    (bs := mergeLine (s.bytes (reqAddr flit / 64 * 64) 64) data en)
    (by rw [mapped_line, ← haddr, State.mapped, hans3.1]; rfl) (Nat.mul_mod_left ..) (length_mergeLine ..)
  have hbytes := hst.bytes_eq
  have honly := hst.onlyBytes
  rw [length_mergeLine] at hbytes honly
  obtain ⟨b, o, hsent⟩ := (sent_sendCompletion (u.writeLine (reqAddr flit / 64 * 64)
    (mergeLine (s.bytes (reqAddr flit / 64 * 64) 64) data en)) (bundleKey die dir bundle) (reqTag flit) 0 0 none).rest
  have hdir : dir % 2 = dir := Nat.mod_eq_of_lt h.1
  have hexec : (s.takeFlit die dir bundle flit 2 keepWant).takeFlit die dir bundle lineF 4 flitLine =
      (u.writeLine (reqAddr flit / 64 * 64) (mergeLine (s.bytes (reqAddr flit / 64 * 64) 64) data en)).sendCompletion
        (bundleKey die dir bundle) (reqTag flit) 0 0 none := by
    rw [hfirst, takeFlit_next hnext, hline, hserve]
  refine ⟨_, congrArg Host.Outcome.next ((congrArg (fun d => (s.takeFlit die d bundle flit 2 keepWant).takeFlit die d bundle lineF 4 flitLine)
    hdir).trans hexec), ?_, ?_, ?_⟩
  · rw [hsent]
    exact hbytes
  · intro x hx
    rw [hsent]
    refine (honly x hx).trans ?_
    obtain ⟨b', o', hb'⟩ := hbut3
    rw [hb']
    rfl
  · rw [hsent]
    obtain ⟨⟨m, p, hm⟩, -⟩ := hst
    obtain ⟨b', o', hb'⟩ := hbut3
    rw [hm, hb']

/-! ### Other kinds -/

theorem atomicTaken {code : Nat} (h : FlitNext s die dir bundle flit 3) (hcode : code = fieldB (flitPayload flit) 6 1) (hle : code ≤ 6) :
    ∃ t, Gives (.flitAtomicRequest die dir bundle flit) s t ∧ FlitTaken s t die dir bundle ∧ t.mem = s.mem ∧
      t.homeQ = s.homeQ ++ [⟨code, reqAddr flit, fieldB (flitPayload flit) 24 8, fieldB (flitPayload flit) 32 8,
        s.selfCoord + die % 12 * 2 ^ 20, .flit (bundleKey die dir bundle) (reqTag flit)⟩] := by
  subst hcode
  obtain ⟨b, o, hb⟩ := (flitOk_facts (s := s) (key_ne_of_next h)).1
  have hdir : dir % 2 = dir := Nat.mod_eq_of_lt h.1
  have hnext := takeFlit_next h (flitAtomic die)
  have hatomic : flitAtomic die (bundleKey die dir bundle) flit (s.flitOk (bundleKey die dir bundle)) = _ := if_neg (by omega)
  refine ⟨_, congrArg Host.Outcome.next ((congrArg (fun d => s.takeFlit die d bundle flit 3 (flitAtomic die)) hdir).trans
    (hnext.trans hatomic)), flitTaken_flitOk h, ?_, ?_⟩ <;> rw [hb]
  rfl

theorem completionTaken (h : FlitNext s die dir bundle flit 5) :
    ∃ t, Gives (.flitCompletion die dir bundle flit) s t ∧ FlitTaken s t die dir bundle ∧ t.mem = s.mem ∧
      (bitAt (fieldB (flitPayload flit) 5 1) 0 = false → t.out.head? = some (.done (fieldB (flitPayload flit) 0 4)
        (fieldB (flitPayload flit) 4 1) (fieldB (flitPayload flit) 8 8))) ∧
      (bitAt (fieldB (flitPayload flit) 5 1) 0 = true → (t.bundle (bundleKey die dir bundle)).want = some (sliceB flit 0 72)) := by
  have hbut := (flitOk_facts (s := s) (key_ne_of_next h)).1
  have hdir : dir % 2 = dir := Nat.mod_eq_of_lt h.1
  have hgives : Gives (.flitCompletion die dir bundle flit) s
      (flitCompletion (bundleKey die dir bundle) flit (s.flitOk (bundleKey die dir bundle))) :=
    congrArg Host.Outcome.next ((congrArg (fun d => s.takeFlit die d bundle flit 5 flitCompletion) hdir).trans (takeFlit_next h _))
  obtain ⟨h1, h2, h3⟩ := flitTaken_flitOk h
  by_cases hfollow : bitAt (fieldB (flitPayload flit) 5 1) 0 = true
  · have hkeep : flitCompletion (bundleKey die dir bundle) flit (s.flitOk (bundleKey die dir bundle)) =
        keepWant (bundleKey die dir bundle) flit (s.flitOk (bundleKey die dir bundle)) := if_pos hfollow
    have hself : (keepWant (bundleKey die dir bundle) flit (s.flitOk (bundleKey die dir bundle))).bundle (bundleKey die dir bundle) = _ :=
      State.bundle_setBundle_self ..
    rw [hkeep] at hgives
    refine ⟨_, hgives, flitTaken_of ?_ ?_ ?_, mem_butFlits (hbut.trans ⟨_, _, rfl⟩), fun hno => ?_, fun _ => ?_⟩
    · rw [hself]; exact h1
    · rw [hself]; exact h2
    · rw [hself]; exact h3
    · rw [hfollow] at hno; cases hno
    · rw [hself]
  · have hemit : flitCompletion (bundleKey die dir bundle) flit (s.flitOk (bundleKey die dir bundle)) =
        (s.flitOk (bundleKey die dir bundle)).emit (.done (fieldB (flitPayload flit) 0 4) (fieldB (flitPayload flit) 4 1)
          (fieldB (flitPayload flit) 8 8)) := if_neg hfollow
    rw [hemit] at hgives
    exact ⟨_, hgives, ⟨h1, h2, h3⟩, mem_butFlits (hbut.trans ⟨_, _, rfl⟩), fun _ => rfl, fun hyes => absurd hyes hfollow⟩

theorem lineTaken {w data : List Byte} (h : FlitNext s die dir bundle flit 4)
    (hwant : (s.bundle (bundleKey die dir bundle)).want = some w) (hkind : flitKind w = 5) (hmark : flitPoison flit = false)
    (hdata : rsDecode (flitPayload flit) = some data) :
    ∃ t, Gives (.flitLine die dir bundle flit) s t ∧ FlitTaken s t die dir bundle ∧ t.mem = s.mem ∧
      t.out.head? = some (.line data false) ∧ (t.bundle (bundleKey die dir bundle)).want = none := by
  obtain ⟨hbut, hkey, -⟩ := flitOk_facts (s := s) (key_ne_of_next h)
  have hdir : dir % 2 = dir := Nat.mod_eq_of_lt h.1
  have hline : flitLine (bundleKey die dir bundle) flit (s.flitOk (bundleKey die dir bundle)) =
      (((s.flitOk (bundleKey die dir bundle)).setBundle (bundleKey die dir bundle)
        { acceptedBy (s.bundle (bundleKey die dir bundle)) with want := none }).emit
        (.done (fieldB (flitPayload w) 0 4) (fieldB (flitPayload w) 4 1) (fieldB (flitPayload w) 8 8))).emit (.line data false) := by
    unfold flitLine
    simp only [hkey, hwant, hkind, hdata, hmark, Option.isNone_some, Bool.or_self, Option.getD_some]
    rfl
  have hself (e e' : Emit) (b : Bundle) : ((((s.flitOk (bundleKey die dir bundle)).setBundle (bundleKey die dir bundle) b).emit e).emit e').bundle
      (bundleKey die dir bundle) = b := State.bundle_setBundle_self ..
  refine ⟨_, congrArg Host.Outcome.next ((congrArg (fun d => s.takeFlit die d bundle flit 4 flitLine) hdir).trans
    ((takeFlit_next h _).trans hline)), flitTaken_of ?_ ?_ ?_, mem_butFlits (hbut.trans ⟨_, _, rfl⟩), rfl, ?_⟩ <;> rw [hself]

theorem partTaken {i : Nat} (h : FlitNext s die dir bundle flit 6) (hlo : 80 ≤ die) (hhi : die < 88) (hi : i < 4)
    (hne : i ≠ bundle % 4) (hfree : ∀ y ∈ partsOf s die dir bundle, y.1 ≠ i) :
    ∃ t, Gives (.flitSlotPart die dir bundle flit) s t ∧ FlitTaken s t die dir bundle ∧ t.mem = s.mem ∧
      partsOf t die dir bundle = partsOf s die dir bundle ++ [(bundle % 4, flitPayload flit)] := by
  obtain ⟨hbut, -, -⟩ := flitOk_facts (s := s) (key_ne_of_next h)
  have hdir : dir % 2 = dir := Nat.mod_eq_of_lt h.1
  have hparts : (s.flitOk (bundleKey die dir bundle)).haf.parts = s.haf.parts := by
    obtain ⟨b, o, hb⟩ := hbut
    rw [hb]
  have hnone : (partsOf s die dir bundle ++ [(bundle % 4, flitPayload flit)]).find? (fun x => x.1 == i) = none := by
    rw [List.find?_eq_none]
    intro y hy
    rcases List.mem_append.mp hy with hy | hy
    · simpa using hfree y hy
    · simpa [List.mem_singleton.mp hy] using Ne.symm hne
  have hkeep : flitSlotPart die dir bundle (bundleKey die dir bundle) flit (s.flitOk (bundleKey die dir bundle)) =
      { s.flitOk (bundleKey die dir bundle) with haf := { (s.flitOk (bundleKey die dir bundle)).haf with
        parts := tabSet s.haf.parts ((die * 2 + dir) * 6 + bundle / 4) (partsOf s die dir bundle ++ [(bundle % 4, flitPayload flit)]) } } := by
    unfold flitSlotPart
    dsimp only
    rw [hparts]
    split
    · next a b c d h0 h1 h2 h3 =>
      obtain rfl | rfl | rfl | rfl : i = 0 ∨ i = 1 ∨ i = 2 ∨ i = 3 := by omega
      · rw [h0] at hnone; cases hnone
      · rw [h1] at hnone; cases hnone
      · rw [h2] at hnone; cases hnone
      · rw [h3] at hnone; cases hnone
    · rfl
  have hexec : (if 80 ≤ die ∧ die < 88 then s.takeFlit die dir bundle flit 6 (flitSlotPart die dir bundle) else s) = _ :=
    (if_pos ⟨hlo, hhi⟩).trans ((takeFlit_next h _).trans hkeep)
  refine ⟨_, congrArg Host.Outcome.next ((congrArg (fun d => if 80 ≤ die ∧ die < 88 then
    s.takeFlit die d bundle flit 6 (flitSlotPart die d bundle) else s) hdir).trans hexec), flitTaken_flitOk h, ?_, ?_⟩
  · have hm : (s.flitOk (bundleKey die dir bundle)).mem = s.mem := mem_butFlits hbut
    exact hm
  · exact tabGet_tabSet_self ..

theorem ackTaken {b k r : Nat} (h : FlitNext s die dir bundle flit 7) (hr : r = fieldB (flitPayload flit) 0 4) (hb : b = fld r 0 16)
    (hlt : b < dataBundles die (1 - dir)) (hk : k = bundleKey die (1 - dir) b) (hkr : k ≠ reverseKey (bundleKey die dir bundle))
    (hnak : bitAt r 24 = false) (hout : (s.bundle k).outQ = [])
    (hany : (s.bundle k).replay.any (fun f => flitSeq f == fld r 16 8) = true) :
    ∃ t, Gives (.flitAck die dir bundle 1 flit) s t ∧ FlitTaken s t die dir bundle ∧ t.mem = s.mem ∧
      (t.bundle k).replay = (s.bundle k).replay.dropWhile (fun f => flitSeq f != fld r 16 8) ∧
      (t.bundle k).credits = min 16 ((s.bundle k).credits + fld r 25 7) := by
  obtain ⟨hbut, -, hother⟩ := flitOk_facts (s := s) (key_ne_of_next h)
  have hkk : k ≠ bundleKey die dir bundle := by
    have := dataBundles_lt die (1 - dir)
    have := bundle_lt_of_takes h.2.1
    have := h.1
    rw [hk]
    unfold bundleKey
    omega
  have hdir : dir % 2 = dir := Nat.mod_eq_of_lt h.1
  have hself := hother k hkk hkr
  have hack : flitAck die dir 1 (bundleKey die dir bundle) flit (s.flitOk (bundleKey die dir bundle)) =
      (s.flitOk (bundleKey die dir bundle)).setBundle k { s.bundle k with
        replay := (s.bundle k).replay.dropWhile (fun f => flitSeq f != fld r 16 8)
        credits := min 16 ((s.bundle k).credits + fld r 25 7) } := by
    have hone : flitAck die dir 1 (bundleKey die dir bundle) flit (s.flitOk (bundleKey die dir bundle)) =
        (s.flitOk (bundleKey die dir bundle)).ackRecord die dir r := by rw [hr]; rfl
    have hrel : (if fld r 16 8 = (s.bundle k).next ∨ (s.bundle k).replay.any (fun f => flitSeq f == fld r 16 8) = true then
        (s.bundle k).replay.dropWhile (fun f => flitSeq f != fld r 16 8) else (s.bundle k).replay) =
        (s.bundle k).replay.dropWhile (fun f => flitSeq f != fld r 16 8) := if_pos (.inr hany)
    rw [hone, State.ackRecord, ← hb, ← hk, hself, hnak]
    dsimp only
    rw [if_neg (show ¬dataBundles die (1 - dir) ≤ b by omega), hrel, if_neg Bool.false_ne_true]
    simp only [hout, List.length_nil]
    rfl
  obtain ⟨h1, h2, h3⟩ := flitTaken_flitOk h
  refine ⟨_, congrArg Host.Outcome.next ((congrArg (fun d => s.takeFlit die d bundle flit 7 (flitAck die d 1)) hdir).trans
    ((takeFlit_next h _).trans hack)), flitTaken_of ?_ ?_ ?_, mem_butFlits (hbut.trans ⟨_, _, rfl⟩), ?_, ?_⟩
  iterate 3 · rwa [State.bundle_setBundle_ne _ _ hkk.symm]
  iterate 2 · rw [State.bundle_setBundle_self]

end

theorem flitsTaken : FlitsTaken := by
  intro s die dir bundle flit key rk a x
  exact ⟨fun l h hans hp hroom => readTaken h hans hp hroom,
    fun lineF data en l h hans hgood hseq hkind hmark hdata hen hp => writeTaken h hans hgood hseq hkind hmark hdata hen hp,
    fun code h hcode hle => atomicTaken h hcode hle, fun h => completionTaken h,
    fun w data h hwant hkind hmark hdata => lineTaken h hwant hkind hmark hdata,
    fun i h hlo hhi hi hne hfree => partTaken h hlo hhi hi hne hfree,
    fun b k r h hr hb hlt hk hkr hnak hout hany => ackTaken h hr hb hlt hk hkr hnak hout hany⟩

/-! ### Failures and spares -/

section
variable {s : State} {die dir bundle : Nat} {flit : List Byte}

/-- The bundle and its die once a flit with a bad CRC is refused. -/
abbrev refusedBy (s : State) (b : Bundle) : Bundle := { b with discard := true, naks := b.naks + 1, fails := [s.time] }
abbrev crcCounted (s : State) (die : Nat) : State := s.setHafDie die { s.hafDie die with crc := satAdd32 (s.hafDie die).crc 1 }

/-- The refusal sent, before the bundle is retired. -/
abbrev refusal (s : State) (die key : Nat) : State :=
  ((crcCounted s die).setBundle key (refusedBy s (s.bundle key))).sendRecord key true 0

theorem flitCrcFailure_counts (htakes : s.takesFlits die dir bundle = true) (hbad : flitGood flit = false)
    (hold : ∀ y ∈ (s.bundle (bundleKey die dir bundle)).fails, y + 1000000 ≤ s.time) :
    flitCrcFailure die dir bundle flit s = if 8 ≤ (s.bundle (bundleKey die dir bundle)).naks + 1 then
      (refusal s die (bundleKey die dir bundle)).retire die dir bundle else refusal s die (bundleKey die dir bundle) := by
  have hfails : (s.bundle (bundleKey die dir bundle)).fails.filter (fun t => decide (s.time < t + 1000000)) = [] :=
    List.filter_eq_nil_iff.mpr fun y hy => by have := hold y hy; simpa using this
  have hfail : flitCrcFailure die dir bundle flit s = s.flitFail die dir bundle true := by
    unfold flitCrcFailure
    simp only [htakes, hbad, Bool.true_eq_false, if_false, if_true]
  have htime : (crcCounted s die).time = s.time := rfl
  rw [hfail]
  unfold State.flitFail
  simp only [Bool.not_true, Bool.and_false, Bool.false_eq_true, if_false, if_true, htime, hfails, List.nil_append,
    List.length_singleton, Nat.reduceLeDiff, or_false]

theorem refusal_facts (hdir : dir < 2) (htakes : s.takesFlits die dir bundle = true) :
    (∃ b o d, refusal s die (bundleKey die dir bundle) = { s with haf := { s.haf with bundles := b, dies := d }, out := o }) ∧
      (refusal s die (bundleKey die dir bundle)).bundle (bundleKey die dir bundle) =
        refusedBy s (s.bundle (bundleKey die dir bundle)) ∧
      (refusal s die (bundleKey die dir bundle)).hafDie die = { s.hafDie die with crc := satAdd32 (s.hafDie die).crc 1 } := by
  have hne := reverseKey_ne (die := die) hdir (bundle_lt_of_takes htakes)
  have hsent : Sent ((crcCounted s die).setBundle (bundleKey die dir bundle) (refusedBy s (s.bundle (bundleKey die dir bundle))))
    (refusal s die (bundleKey die dir bundle)) (reverseKey (bundleKey die dir bundle)) := sent_sendFlit ..
  have hother := hsent.other _ hne.symm
  obtain ⟨b, o, hb⟩ := hsent.rest
  refine ⟨⟨b, o, (crcCounted s die).haf.dies, hb⟩, hother.trans (State.bundle_setBundle_self ..), ?_⟩
  rw [hb]
  exact State.hafDie_setHafDie_self s die _

theorem retire_facts {u : State} (hfree : u.freeSpares die dir ≠ 0) :
    u.retire die dir bundle = (u.setHafDie die { u.hafDie die with retired := min ((u.hafDie die).retired + 1) 0xFFFF }).setBundle
      (bundleKey die dir bundle) { u.bundle (bundleKey die dir bundle) with testing := true } := by
  have hsame : (u.setHafDie die { u.hafDie die with retired := min ((u.hafDie die).retired + 1) 0xFFFF }).freeSpares die dir =
      u.freeSpares die dir := by
    unfold State.freeSpares
    rw [State.hafDie_setHafDie_self]
  unfold State.retire
  dsimp only
  rw [hsame, if_neg hfree]
  rfl

/-- What a spare that passes its test takes over. -/
abbrev takesOver (s : State) (die dir key : Nat) : State :=
  (s.setHafDie die { s.hafDie die with used := addSide (s.hafDie die).used dir }).setBundle key
    { s.bundle key with testing := false, naks := 0, fails := [] }

theorem sent_resend (s : State) (k : Nat) : Sent s (s.resend k) k := by
  have hall (l : List (List Byte)) (u : State) : Sent u (l.foldl (fun t f => t.emit (.flit k f)) u) k := by
    induction l generalizing u with
    | nil => exact .refl u k
    | cons f l ih => exact (sent_emit u k _).trans (ih _)
  exact hall _ _

theorem spareTestEnd_passes (htest : (s.bundle (bundleKey die dir bundle)).testing = true) (hstate : (s.hafDie die).state = 3) :
    ∃ t, spareTestEnd die dir bundle true s = t ∧ Sent (takesOver s die dir (bundleKey die dir bundle)) t (bundleKey die dir bundle) := by
  refine ⟨_, rfl, ?_⟩
  unfold spareTestEnd
  dsimp only
  rw [if_neg (by rw [htest, hstate]; simp), if_pos rfl]
  exact (sent_resend ..).trans (sent_pump ..)

theorem spareTestEnd_fails (htest : (s.bundle (bundleKey die dir bundle)).testing = true) (hstate : (s.hafDie die).state = 3)
    (hfree : 2 ≤ s.freeSpares die dir) :
    spareTestEnd die dir bundle false s = s.setHafDie die { s.hafDie die with bad := addSide (s.hafDie die).bad dir } := by
  have hleft : (s.setHafDie die { s.hafDie die with bad := addSide (s.hafDie die).bad dir }).freeSpares die dir ≠ 0 := by
    unfold State.freeSpares at hfree ⊢
    rw [State.hafDie_setHafDie_self]
    dsimp only at hfree ⊢
    have hside : sideOf (addSide (s.hafDie die).bad dir) dir = sideOf (s.hafDie die).bad dir + 1 := by
      unfold sideOf addSide
      split <;> rfl
    rw [hside]
    omega
  unfold spareTestEnd
  dsimp only
  rw [if_neg (by rw [htest, hstate]; simp), if_neg Bool.false_ne_true, if_neg hleft]

end

theorem flitFailuresAndSpares : FlitFailuresAndSpares := by
  intro s die dir bundle flit hdir key b d
  have hmod : dir % 2 = dir := Nat.mod_eq_of_lt hdir
  refine ⟨fun htakes hbad hold => ?_, fun htest hstate => ⟨?_, fun hfree => ?_⟩⟩
  · have hfail : Gives (.flitCrcFailure die dir bundle flit) s _ := congrArg Host.Outcome.next
      ((congrArg (fun d => flitCrcFailure die d bundle flit s) hmod).trans (flitCrcFailure_counts htakes hbad hold))
    obtain ⟨⟨bs, o, ds, hrest⟩, hbundle, hdie⟩ := refusal_facts hdir htakes
    refine ⟨fun hlt => ?_, fun heq hfree => ?_⟩
    · rw [if_neg (show ¬8 ≤ (s.bundle (bundleKey die dir bundle)).naks + 1 by
        have hlt' : (s.bundle (bundleKey die dir bundle)).naks < 7 := hlt
        omega)] at hfail
      refine ⟨_, hfail, by rw [hdie], ?_, ?_, ?_, ?_, by rw [hrest], by rw [hrest]⟩ <;> rw [hbundle]
      exact testing_of_takes htakes
    · rw [if_pos (show 8 ≤ (s.bundle (bundleKey die dir bundle)).naks + 1 by
        have heq' : (s.bundle (bundleKey die dir bundle)).naks = 7 := heq
        omega)] at hfail
      have hfree' : (refusal s die (bundleKey die dir bundle)).freeSpares die dir ≠ 0 := by
        unfold State.freeSpares at hfree ⊢
        rw [hdie]
        exact hfree
      rw [retire_facts hfree'] at hfail
      refine ⟨_, hfail, by rw [State.bundle_setBundle_self], ?_, ?_, ?_⟩
      · have hself (u : State) (d : HafDie) (k : Nat) (b : Bundle) : ((u.setHafDie die d).setBundle k b).hafDie die = d :=
          State.hafDie_setHafDie_self ..
        rw [hself, hdie]
      · have hm := congrArg State.mem hrest
        exact hm
      · have hd := congrArg State.dies hrest
        exact hd
  · obtain ⟨t, ht, hsent⟩ := spareTestEnd_passes htest hstate
    have hrec := hsent.receiver
    rw [State.bundle_setBundle_self] at hrec
    obtain ⟨b', o', hb'⟩ := hsent.rest
    refine ⟨t, congrArg Host.Outcome.next ((congrArg (fun d => spareTestEnd die d bundle true s) hmod).trans ht), ?_, ?_, ?_, ?_⟩
    · rw [hb']
      exact congrArg HafDie.used (State.hafDie_setHafDie_self s die _)
    · simp only [receives, Prod.mk.injEq] at hrec
      exact hrec.2.2.2.2.2
    · rw [hb']; rfl
    · rw [hb']; rfl
  · exact congrArg Host.Outcome.next ((congrArg (fun d => spareTestEnd die d bundle false s) hmod).trans
      (spareTestEnd_fails htest hstate hfree))

/-- Settles O54: by the next flit of each kind, the refusal of a bad one, and the end of a spare's test. -/
theorem flits : Obligations.Flits := ⟨flitsTaken, flitFailuresAndSpares⟩

end Sys2Proof.Proofs.Flits
end

section
/-! PROOF. The collector writes to the host; rings are enabled, disabled and set up. -/

namespace Sys2Proof.Proofs.HostRings

open Sys2Proof.Machine
open Sys2Proof.Claims hiding holding
open Sys2Proof.Proofs.ByteFields

/-! ### Rings of the table -/

@[simp] theorem ring_setRing_self (s : State) (r : Nat) (x : Ring) : (s.setRing r x).ring r = x := tabGet_tabSet_self ..

theorem ring_setRing_ne (s : State) {r k : Nat} (x : Ring) (h : k ≠ r) : (s.setRing r x).ring k = s.ring k :=
  tabGet_tabSet_ne _ _ _ h

/-! ### Commands completed -/

theorem rings_holding (h : HostSt) (e : Entry) : (holding h e).rings = h.rings := by
  unfold holding
  split <;> rfl

theorem cmds_holding (h : HostSt) (e : Entry) : (holding h e).cmds = h.cmds := by
  unfold holding
  split <;> rfl

theorem ring_complete (s : State) (src : Nat) (c : Cmd) (status x1 x2 r : Nat) : (s.complete src c status x1 x2).ring r = s.ring r := by
  rw [complete_eq, State.ring, rings_holding]
  rfl

theorem heldQ_complete {s : State} (h : s.host.resetting = 0) (src : Nat) (c : Cmd) (status x1 x2 : Nat) :
    (s.complete src c status x1 x2).host.heldQ = s.host.heldQ ++ [completion src c status x1 x2] := by
  rw [complete_eq]
  exact holding_heldQ (h := without s.host c) h _

/-- A command that ends in `complete`, with nothing else that it touches changed. -/
theorem completesWith_of {i : Instr} {s u : State} {c : Cmd} {src status x1 : Nat} (h : Gives i s (u.complete src c status x1 0))
    (hreset : s.host.resetting = 0) (hresetting : u.host.resetting = s.host.resetting) (hheld : u.host.heldQ = s.host.heldQ)
    (hmem : u.mem = s.mem) (hdies : u.dies = s.dies) (hregs : u.regs = s.regs) : CompletesWith i s c src status x1 := by
  refine ⟨_, _, h, by rw [heldQ_complete (hresetting.trans hreset), hheld], isCompletion_completion .., ?_⟩
  rw [complete_eq]
  refine ⟨hmem, hdies, hregs, fun d hd => ?_⟩
  rw [cmds_holding] at hd
  have hkeep := (List.mem_filter.mp hd).2
  simpa [-not_and, not_and_or] using hkeep

/-! ### Entries written -/

theorem sliceB_take {bs : List Byte} {n : Nat} (h : n ≤ bs.length) : sliceB bs 0 n = bs.take n := by
  refine List.ext_getElem (by simp [h]) fun i h1 h2 => ?_
  rw [length_sliceB] at h1
  simp [sliceB, show i < bs.length by omega]

theorem sliceB_drop {bs : List Byte} {off n : Nat} (h : bs.length = off + n) : sliceB bs off n = bs.drop off := by
  refine List.ext_getElem (by simp [h]) fun i h1 h2 => ?_
  rw [length_sliceB] at h1
  simp [sliceB, show off + i < bs.length by omega]

/-- An entry's bytes with their phase bit (R355). -/
abbrev phased (x : Ring) (bs : List Byte) : List Byte := putB bs 63 1 ((x.dev / x.size + 1) % 2)

theorem writeEntry_eq (s : State) (r : Nat) {bs : List Byte} (h : bs.length = 64) :
    s.writeEntry r bs = (s.emit (.hostWrite ((s.ring r).entry (s.ring r).dev) ((phased (s.ring r) bs).take 60))).emit
      (.hostWrite ((s.ring r).entry (s.ring r).dev + 60) ((phased (s.ring r) bs).drop 60)) := by
  have hlen : (phased (s.ring r) bs).length = 64 := (length_putB (by omega) _).trans h
  unfold State.writeEntry Ring.phase
  dsimp only
  rw [sliceB_take (by rw [hlen]; decide), sliceB_drop (off := 60) (n := 4) hlen]

theorem ringIrq_of_irq_clear {s : State} {r : Nat} (h : (s.ring r).irq = false) : s.ringIrq r = s := by
  unfold State.ringIrq
  simp only [h, Bool.false_and, Bool.false_eq_true, if_false]

/-! ### The collector -/

section
variable {s : State}

theorem completionAccept_completion {e : Entry} (h : s.host.heldQ.find? (fun x => x.src == e.src) = some e)
    (hevt : e.isEvt = false) (hroom : s.host.staging.length < 512) :
    ∃ t, Gives (.completionAccept e.src) s t ∧ t.host.heldQ = s.host.heldQ.erase e ∧ t.mem = s.mem ∧ t.dies = s.dies ∧
        t.host.staging = s.host.staging ++ [{ e with bytes := putB e.bytes 12 4 (s.ring e.cmdRing).dev }] := by
  refine ⟨_, congrArg Host.Outcome.next (?_ : completionAccept e.src s = State.showStaging { s with host := { s.host with
    heldQ := s.host.heldQ.erase e
    staging := s.host.staging ++ [{ e with bytes := putB e.bytes 12 4 (s.ring e.cmdRing).dev }] } }), rfl, rfl, rfl, rfl⟩
  unfold completionAccept
  rw [h]
  dsimp only
  rw [if_neg (by rw [hevt]; decide), if_pos hroom]

theorem completionAccept_lost {e : Entry} (h : s.host.heldQ.find? (fun x => x.src == e.src) = some e)
    (hevt : e.isEvt = true) (hpost : e.post = none)
    (hring : (s.ring (e.ring.getD (fld (s.reg 0x2010) 0 13))).kind ≠ 2 ∨ (s.ring (e.ring.getD (fld (s.reg 0x2010) 0 13))).state ≠ 1) :
    ∃ t, Gives (.completionAccept e.src) s t ∧ t.host.heldQ = s.host.heldQ.erase e ∧ t.host.staging = s.host.staging ∧
        t.reg 0x2018 = satAdd32 (s.reg 0x2018) 1 := by
  refine ⟨_, congrArg Host.Outcome.next (?_ : completionAccept e.src s =
    State.countReg { s with host := { s.host with heldQ := s.host.heldQ.erase e } } 0x2018 1), rfl, rfl, Registers.reg_countReg_self ..⟩
  unfold completionAccept
  rw [h]
  dsimp only
  rw [if_pos hevt, if_neg (by rintro ⟨h1, h2⟩; exact hring.elim (· h1) (· h2))]
  unfold State.postDone
  rw [hpost]

theorem completionWrite_writes {r : Nat} {e : Entry} (h : s.stagedFor r = some e) (hevt : e.isEvt = false) (hreads : s.hostReads = true)
    (hirq : (s.ring r).irq = false) :
    completionWrite r s = ((s.unstage e).writeEntry r e.bytes).setRing r { s.ring r with
      dev := ((s.ring r).dev + 1) % 2 ^ 32
      reserved := (s.ring r).reserved - 1
      unsig := (s.ring r).unsig + 1
      irqNow := (s.ring r).irqNow || e.irqNow } := by
  unfold completionWrite
  rw [h]
  dsimp only
  rw [if_neg (by rw [hevt, hreads]; simp)]
  exact ringIrq_of_irq_clear (by rw [ring_setRing_self]; exact hirq)

theorem eventWrite_full {r : Nat} {e : Entry} (h : s.stagedFor r = some e) (hevt : e.isEvt = true) (hreads : s.hostReads = true)
    (hpost : e.post = none) (hfull : (s.ring r).size ≤ (s.ring r).fill) :
    eventWrite r s = (s.unstage e).setRing r { s.ring r with
      lost := satAdd32 (s.ring r).lost 1, lostNow := satAdd32 (s.ring r).lostNow 1 } := by
  unfold eventWrite
  rw [h]
  dsimp only
  rw [if_neg (by rw [hevt, hreads]; simp), if_pos hfull, State.postDone, hpost]

theorem eventWrite_writes {r : Nat} {e : Entry} (h : s.stagedFor r = some e) (hevt : e.isEvt = true) (hreads : s.hostReads = true)
    (hpost : e.post = none) (hroom : (s.ring r).fill < (s.ring r).size) (hlost : (s.ring r).lostNow = 0) (hirq : (s.ring r).irq = false) :
    eventWrite r s = ((s.unstage e).writeEntry r e.bytes).setRing r { s.ring r with
      dev := ((s.ring r).dev + 1) % 2 ^ 32, lostNow := 0, unsig := (s.ring r).unsig + 1 } := by
  unfold eventWrite
  rw [h]
  dsimp only
  rw [if_neg (by rw [hevt, hreads]; simp), if_neg (by omega), if_pos hlost, State.postDone, hpost]
  exact ringIrq_of_irq_clear (by rw [ring_setRing_self]; exact hirq)

theorem sendMsix_of_open {v : Nat} (h : s.host.msixOpen.contains v = true) :
    s.sendMsix v = s.emit (.msix v (tabGet (0, 0) s.host.msixTab v).1 (tabGet (0, 0) s.host.msixTab v).2) := if_pos h

theorem sendMsix_of_masked {v : Nat} (h : s.host.msixOpen.contains v = false) :
    s.sendMsix v = { s with host := { s.host with msixPend := setIns s.host.msixPend v } } := if_neg (by rw [h]; decide)

theorem interruptTimer_sends {r : Nat} (hirq : (s.ring r).irq = true) (htime : fld (s.ring r).mod 8 16 ≠ 0) (hunsig : (s.ring r).unsig ≠ 0)
    (hreads : s.hostReads = true) : ∃ t, Gives (.interruptTimer r) s t ∧ (t.ring r).unsig = 0 ∧
        (s.host.msixOpen.contains (s.ring r).vector = true → t.out = .msix (s.ring r).vector
          (tabGet (0, 0) s.host.msixTab (s.ring r).vector).1 (tabGet (0, 0) s.host.msixTab (s.ring r).vector).2 :: s.out) ∧
        (s.host.msixOpen.contains (s.ring r).vector = false → t.out = s.out ∧ (s.ring r).vector ∈ t.host.msixPend) := by
  have hgo : interruptTimer r s = (s.setRing r { s.ring r with unsig := 0, irqNow := false }).sendMsix (s.ring r).vector :=
    if_pos ⟨hirq, htime, hunsig, hreads⟩
  refine ⟨_, congrArg Host.Outcome.next hgo, ?_, fun hopen => ?_, fun hmask => ?_⟩
  · unfold State.sendMsix
    split <;> exact congrArg Ring.unsig (ring_setRing_self s r _)
  · rw [sendMsix_of_open (s := s.setRing r _) hopen]
    rfl
  · rw [sendMsix_of_masked (s := s.setRing r _) hmask]
    exact ⟨rfl, (mem_setIns ..).mpr (.inl rfl)⟩

/-- With none pending for an open vector, no message goes. -/
theorem sendPending_none (h : ∀ x ∈ s.host.msixPend, s.host.msixOpen.contains x = false) : s.sendPending = s := by
  have hnone : s.host.msixPend.filter (fun v => s.host.msixOpen.contains v) = [] :=
    List.filter_eq_nil_iff.mpr fun x hx => by rw [h x hx]; decide
  unfold State.sendPending
  rw [hnone]
  exact ite_self _

/-- With one vector's message pending and open, that message goes. -/
theorem sendPending_one {v : Nat} (hreads : s.hostReads = true) (hnodup : s.host.msixPend.Nodup) (hopen : s.host.msixOpen.contains v = true)
    (hpend : v ∈ s.host.msixPend) (hother : ∀ x ∈ s.host.msixPend, x ≠ v → s.host.msixOpen.contains x = false) :
    s.sendPending = State.emit { s with host := { s.host with msixPend := setDel s.host.msixPend v } }
      (.msix v (tabGet (0, 0) s.host.msixTab v).1 (tabGet (0, 0) s.host.msixTab v).2) := by
  have hone : s.host.msixPend.filter (fun v => s.host.msixOpen.contains v) = [v] := by
    have hkeep : s.host.msixPend.filter (fun v => s.host.msixOpen.contains v) = s.host.msixPend.filter (· == v) :=
      List.filter_congr fun x hx => by
        by_cases hxv : x = v
        · rw [hxv, hopen, beq_self_eq_true]
        · rw [hother x hx hxv, beq_eq_false_iff_ne.mpr hxv]
    rw [hkeep, List.filter_beq, List.count_eq_one_of_mem hnodup hpend]
    rfl
  unfold State.sendPending
  rw [if_pos hreads, hone]
  exact if_pos hopen

/-- The state with a vector's table entry and its mask written. -/
abbrev msixWritten (s : State) (v addr data : Nat) (openSet : List Nat) : State :=
  { s with host := { s.host with msixTab := tabSet s.host.msixTab v (addr % 2 ^ 64, data % 2 ^ 32), msixOpen := openSet } }

theorem msixUnmask_opens {v : Nat} (addr data : Nat) (hv : v < 2048) (hreads : s.hostReads = true) (hnodup : s.host.msixPend.Nodup)
    (hother : ∀ x ∈ s.host.msixPend, x ≠ v → s.host.msixOpen.contains x = false) :
    ∃ t, Gives (.msixUnmask ⟨v, addr, data, false⟩) s t ∧ v ∈ t.host.msixOpen ∧ v ∉ t.host.msixPend ∧
        tabGet (0, 0) t.host.msixTab v = (addr % 2 ^ 64, data % 2 ^ 32) ∧
        t.out = (if s.host.msixPend.contains v then .msix v (addr % 2 ^ 64) (data % 2 ^ 32) :: s.out else s.out) := by
  obtain ⟨u, hu⟩ : ∃ u, u = msixWritten s v addr data (setIns s.host.msixOpen v) := ⟨_, rfl⟩
  have hgo : msixUnmask v addr data false s = u.sendPending := (if_neg (by omega)).trans (by rw [hu]; rfl)
  have hmem : v ∈ setIns s.host.msixOpen v := (mem_setIns ..).mpr (.inl rfl)
  have hrow : tabGet (0, 0) (tabSet s.host.msixTab v (addr % 2 ^ 64, data % 2 ^ 32)) v = (addr % 2 ^ 64, data % 2 ^ 32) :=
    tabGet_tabSet_self ..
  have hother' : ∀ x ∈ s.host.msixPend, x ≠ v → (setIns s.host.msixOpen v).contains x = false := fun x hx hne => by
    have hnot := hother x hx hne
    simp only [List.contains_eq_mem, decide_eq_false_iff_not, mem_setIns] at hnot ⊢
    exact not_or_intro hne hnot
  by_cases hp : v ∈ s.host.msixPend
  · rw [sendPending_one (by rw [hu]; exact hreads) (by rw [hu]; exact hnodup) (by rw [hu]; exact List.contains_iff_mem.mpr hmem) (by rw [hu]; exact hp) (by rw [hu]; exact hother')] at hgo
    refine ⟨_, congrArg Host.Outcome.next hgo, ?_, ?_, ?_, ?_⟩ <;> rw [hu]
    · exact hmem
    · exact fun h => ((mem_setDel ..).mp h).2 rfl
    · exact hrow
    · rw [if_pos (List.contains_iff_mem.mpr hp)]
      simp only [State.emit, hrow]
  · rw [sendPending_none (by rw [hu]; exact fun x hx => hother' x hx fun h => hp (h ▸ hx))] at hgo
    refine ⟨_, congrArg Host.Outcome.next hgo, ?_, ?_, ?_, ?_⟩ <;> rw [hu]
    · exact hmem
    · exact hp
    · exact hrow
    · rw [if_neg fun h => hp (List.contains_iff_mem.mp h)]

theorem msixUnmask_masks {v : Nat} (addr data : Nat) (hv : v < 2048)
    (hother : ∀ x ∈ s.host.msixPend, x ≠ v → s.host.msixOpen.contains x = false) :
    ∃ t, Gives (.msixUnmask ⟨v, addr, data, true⟩) s t ∧ v ∉ t.host.msixOpen ∧ t.out = s.out ∧
        tabGet (0, 0) t.host.msixTab v = (addr % 2 ^ 64, data % 2 ^ 32) := by
  have hgo : msixUnmask v addr data true s = (msixWritten s v addr data (setDel s.host.msixOpen v)).sendPending := if_neg (by omega)
  rw [sendPending_none (s := msixWritten s v addr data (setDel s.host.msixOpen v)) fun x hx => ?_] at hgo
  · exact ⟨_, congrArg Host.Outcome.next hgo, fun h => ((mem_setDel ..).mp h).2 rfl, rfl, tabGet_tabSet_self ..⟩
  · simp only [List.contains_eq_mem, decide_eq_false_iff_not, mem_setDel] at hother ⊢
    exact fun ⟨hin, hne⟩ => hother x hx hne hin

end

theorem collectorResults : CollectorResults := by
  intro s
  refine ⟨fun e => completionAccept_completion, fun e => completionAccept_lost, fun r e h hevt hreads hirq hlen => ?_,
    fun r e h hevt hpost hreads hlen => ⟨fun hfull => ?_, fun hroom hlost hirq => ?_⟩, fun r => interruptTimer_sends,
    fun v addr data hv hreads hnodup hother => ⟨msixUnmask_opens addr data hv hreads hnodup hother, msixUnmask_masks addr data hv hother⟩⟩
  · refine ⟨_, _, congrArg Host.Outcome.next ((completionWrite_writes h hevt hreads hirq).trans
      (congrArg (fun u => State.setRing u r _) (writeEntry_eq (s.unstage e) r hlen))), rfl, rfl, ?_, ?_, rfl, rfl⟩ <;> rw [ring_setRing_self]
  · exact ⟨_, congrArg Host.Outcome.next (eventWrite_full h hevt hreads hpost hfull), rfl, by rw [ring_setRing_self],
      by rw [ring_setRing_self], rfl⟩
  · exact ⟨_, _, congrArg Host.Outcome.next ((eventWrite_writes h hevt hreads hpost hroom hlost hirq).trans
      (congrArg (fun u => State.setRing u r _) (writeEntry_eq (s.unstage e) r hlen))), rfl, rfl, by rw [ring_setRing_self], rfl⟩

/-! ### Ring control -/

section
variable {s : State}

theorem readDoorbell_facts (s : State) (l : Nat) : l ∈ (s.readDoorbell l).host.reads ∧ (s.readDoorbell l).host.rings = s.host.rings ∧
    (s.readDoorbell l).mem = s.mem ∧ (s.readDoorbell l).regs = s.regs := by
  have hmem : l ∈ setIns s.host.reads l := (mem_setIns ..).mpr (.inl rfl)
  unfold State.readDoorbell
  dsimp only
  split <;> exact ⟨hmem, rfl, rfl, rfl⟩

theorem ringEnable_enables (hready : s.ready = true) (h : (s.ring s.ringIndex).state = 0) :
    ∃ t, Gives .ringEnable s t ∧ t.ring s.ringIndex = { s.ring s.ringIndex with
        state := 1, err := 0, dev := 0, host := 0, reserved := 0, lost := 0, lostNow := 0, unsig := 0, irqNow := false,
        abort := false } ∧ s.ringIndex / 16 ∈ t.host.reads ∧ t.mem = s.mem ∧ t.regs = s.regs := by
  obtain ⟨hread, hrings, hmem, hregs⟩ := readDoorbell_facts (s.setRing s.ringIndex { s.ring s.ringIndex with
    state := 1, err := 0, dev := 0, host := 0, reserved := 0, lost := 0, lostNow := 0, unsig := 0, irqNow := false,
    abort := false }) (s.ringIndex / 16)
  refine ⟨_, congrArg Host.Outcome.next (if_neg (by rw [h, hready]; simp)), ?_, hread, hmem, hregs⟩
  rw [State.ring, hrings]
  exact tabGet_tabSet_self ..

theorem abortRing_setRing (r : Nat) (x : Ring) (k : Nat) : (s.setRing r x).abortRing k =
    ((s.inFlight k).filter (fun c => c.st == .ready)).foldl (fun t c => t.complete 0 c 9 0 0) (s.setRing r x) := rfl

/-- An enabled command ring is disabled. -/
theorem ringDisable_disables (hready : s.ready = true) (hstate : (s.ring s.ringIndex).state = 1) (hkind : (s.ring s.ringIndex).kind = 0) (abort : Bool) :
    ringDisable abort s = if abort then
        (s.setRing s.ringIndex { s.ring s.ringIndex with state := 2, abort := abort }).abortRing s.ringIndex
      else s.setRing s.ringIndex { s.ring s.ringIndex with state := 2, abort := abort } := by
  unfold ringDisable
  dsimp only
  rw [if_neg (by rw [hready, hstate]; simp), if_neg (by rw [hkind]; simp), if_neg (by rw [hstate]; decide), hkind]
  simp only [beq_self_eq_true, Bool.and_true]

theorem ringDisable_busy (hready : s.ready = true) (hstate : (s.ring s.ringIndex).state = 1) (hkind : (s.ring s.ringIndex).kind = 1)
    (hbusy : s.ringBusy s.ringIndex = true) (abort : Bool) : ringDisable abort s = s.orReg 0x2014 1 := by
  unfold ringDisable
  dsimp only
  rw [if_neg (by rw [hready, hstate]; simp), if_pos ⟨hkind, hbusy⟩]

theorem ringDisableComplete_ends {k : Nat} (hstate : (s.ring k).state = 2) (hnone : s.inFlight k = []) (hstaged : s.stagedFor k = none)
    (hheld : s.host.heldQ = []) :
    ∃ t, Gives (.ringDisableComplete k) s t ∧ t.ring k = { s.ring k with state := 0 } ∧ t.mem = s.mem := by
  refine ⟨_, congrArg Host.Outcome.next (if_pos ⟨hstate, by rw [hnone]; rfl, by rw [hstaged]; rfl, by rw [hheld]; rfl⟩), ?_, ?_⟩ <;> split
  iterate 2 · exact ring_setRing_self ..
  iterate 2 · rfl

end

theorem ringControl : RingControl := by
  intro s hready r x
  refine ⟨ringEnable_enables hready, fun y hy => ⟨fun hstate hkind hnone => ?_, fun hstate hkind hbusy => ?_⟩,
    fun c hstate hkind hreset hone => ?_, fun k => ringDisableComplete_ends, fun v hv => ⟨fun hstate => ?_, fun hstate => ?_⟩⟩
  · have hab (abort : Bool) : ringDisable abort s = s.setRing r { x with state := 2, abort := abort } := by
      rw [ringDisable_disables hready hstate hkind, abortRing_setRing, hnone]
      exact ite_self _
    simp only [List.mem_cons, List.not_mem_nil, or_false] at hy
    rcases hy with rfl | rfl
    · exact congrArg Host.Outcome.next (hab false)
    · exact congrArg Host.Outcome.next (hab true)
  · simp only [List.mem_cons, List.not_mem_nil, or_false] at hy
    rcases hy with rfl | rfl
    · exact congrArg Host.Outcome.next (ringDisable_busy hready hstate hkind hbusy false)
    · exact congrArg Host.Outcome.next (ringDisable_busy hready hstate hkind hbusy true)
  · have hgo : ringDisable true s = (s.setRing r { x with state := 2, abort := true }).complete 0 c 9 0 0 := by
      rw [ringDisable_disables hready hstate hkind, if_pos rfl, abortRing_setRing, hone]
      rfl
    refine ⟨_, _, congrArg Host.Outcome.next hgo, ?_, heldQ_complete (s := s.setRing r _) hreset .., isCompletion_completion ..⟩
    rw [ring_complete]
    exact congrArg Ring.state (ring_setRing_self ..)
  · have hgo : ringConfigWrite 0x2024 v s = s.setRing r { x with base := setFld x.base 0 32 (v / 1024 * 1024) } := by
      unfold ringConfigWrite
      simp only [Nat.mod_eq_of_lt hv]
      rw [if_neg (by rw [hready]; decide), if_neg (by decide), if_neg (by decide), if_neg (not_not.mpr hstate), if_pos trivial]
    exact ⟨_, congrArg Host.Outcome.next hgo, ring_setRing_self .., rfl⟩
  · have hgo : ringConfigWrite 0x2024 v s = s.orReg 0x2014 1 := by
      unfold ringConfigWrite
      dsimp only
      rw [if_neg (by rw [hready]; decide), if_neg (by decide), if_neg (by decide), if_pos (by rw [hstate]; decide)]
    exact congrArg Host.Outcome.next hgo

/-- Settles O23: by the collector's steps and the steps of ring control. -/
theorem completionsAndRingControl : Obligations.CompletionsAndRingControl := ⟨collectorResults, ringControl⟩

end Sys2Proof.Proofs.HostRings
end

section
/-! PROOF. Bus mastering, resets of the host port, and the loss and return of the host link. -/

namespace Sys2Proof.Proofs.HostLinks

open Sys2Proof.Machine
open Sys2Proof.Claims hiding holding
open Sys2Proof.Proofs.ByteFields Sys2Proof.Proofs.HostRings Sys2Proof.Proofs.Registers

/-! ### Requests raised anew -/

/-- Two states that differ in requests alone: doorbell lines asked for, messages pending, what was sent. -/
def SameButRequests (s t : State) : Prop :=
  ∃ r p q o, t = { s with out := o, host := { s.host with reads := r, msixPend := p, resume := q } }

theorem SameButRequests.refl (s : State) : SameButRequests s s := ⟨_, _, _, _, rfl⟩

theorem SameButRequests.trans {s t u : State} : SameButRequests s t → SameButRequests t u → SameButRequests s u := by
  rintro ⟨_, _, _, _, rfl⟩ ⟨_, _, _, _, rfl⟩
  exact ⟨_, _, _, _, rfl⟩

theorem SameButRequests.foldl {α : Type} {f : State → α → State} (h : ∀ s a, SameButRequests s (f s a)) (l : List α) (s : State) :
    SameButRequests s (l.foldl f s) := by
  induction l generalizing s with
  | nil => exact .refl s
  | cons a l ih => exact (h s a).trans (ih _)

theorem sameButRequests_sendMsix (s : State) (v : Nat) : SameButRequests s (s.sendMsix v) := by
  unfold State.sendMsix
  split <;> exact ⟨_, _, _, _, rfl⟩

theorem sameButRequests_sendPending (s : State) : SameButRequests s s.sendPending := by
  unfold State.sendPending
  split
  · exact .foldl (fun t v => SameButRequests.trans ⟨_, _, _, _, rfl⟩ (sameButRequests_sendMsix ..)) _ _
  · exact .refl s

theorem sameButRequests_readDoorbell (s : State) (l : Nat) : SameButRequests s (s.readDoorbell l) := by
  unfold State.readDoorbell
  dsimp only
  split <;> exact ⟨_, _, _, _, rfl⟩

theorem sameButRequests_readAllDoorbells (s : State) : SameButRequests s s.readAllDoorbells :=
  (SameButRequests.trans ⟨_, _, _, _, rfl⟩ (sameButRequests_sendPending _)).trans (.foldl sameButRequests_readDoorbell _ _)

theorem reads_readDoorbell (s : State) (l : Nat) : (s.readDoorbell l).host.reads = setIns s.host.reads l := by
  unfold State.readDoorbell
  dsimp only
  split <;> rfl

theorem mem_reads_foldl (l : List Nat) (s : State) (k : Nat) :
    k ∈ (l.foldl (fun t i => t.readDoorbell i) s).host.reads ↔ k ∈ l ∨ k ∈ s.host.reads := by
  induction l generalizing s with
  | nil => simp
  | cons a l ih => rw [List.foldl_cons, ih, reads_readDoorbell, mem_setIns, List.mem_cons]; tauto

/-! ### Posts that a reset completes -/

theorem mode_finish_zero (d : Die) (o : Op) : (d.finish o 0).mode = d.mode := by
  have hnone : faultOfStatus o.cls 0 = none := by simp [faultOfStatus]
  unfold Die.finish
  dsimp only
  rw [hnone]
  dsimp only
  split <;> rfl

/-- A die once a post of its own is complete. -/
abbrev posted (d : Die) (id : Nat) : Die := match d.op? id with
  | some o => d.finish o 0
  | none => d

theorem finishOp_zero (s : State) (cd id : Nat) : s.finishOp cd id 0 = s.setDie (cdOf cd) (posted (s.die (cdOf cd)) id) := by
  unfold State.finishOp State.updDie
  refine congrArg (s.setDie (cdOf cd)) ?_
  unfold posted
  dsimp only
  cases (s.die (cdOf cd)).op? id with
  | none => rfl
  | some o => exact if_neg fun h => absurd h.2 (by decide)

theorem mode_posted (d : Die) (id : Nat) : (posted d id).mode = d.mode := by
  unfold posted
  split
  · exact mode_finish_zero ..
  · rfl

theorem ops_posted (d : Die) (id : Nat) : (posted d id).ops = d.ops.filter (fun o => o.id != id) := by
  unfold posted
  split
  · next o ho =>
    have hid : o.id = id := by simpa using List.find?_some ho
    rw [Completions.finish_ops, hid]
  · next hnone =>
    refine (List.filter_eq_self.mpr fun o ho => ?_).symm
    simpa using List.find?_eq_none.mp hnone o ho

/-- What the completion of posts leaves: everything but dies, whose sequencers stay as they were and whose instructions only
leave. -/
structure Posted (s t : State) : Prop where
  rest : ∃ ds, t = { s with dies := ds }
  mode : ∀ c, (t.die c).mode = (s.die c).mode
  ops : ∀ c, ∀ o ∈ (t.die c).ops, o ∈ (s.die c).ops

theorem posted_postDone (s : State) (e : Entry) : Posted s (s.postDone e) := by
  unfold State.postDone
  split
  · next cd id _ =>
    rw [finishOp_zero]
    refine ⟨⟨_, rfl⟩, fun c => ?_, fun c o ho => ?_⟩ <;> by_cases hc : c = cdOf cd
    · rw [hc, State.die_setDie_self, mode_posted]
    · rw [State.die_setDie_ne _ _ hc]
    · rw [hc, State.die_setDie_self, ops_posted] at ho
      exact hc ▸ List.mem_of_mem_filter ho
    · rwa [State.die_setDie_ne _ _ hc] at ho
  · exact ⟨⟨_, rfl⟩, fun _ => rfl, fun _ _ h => h⟩

theorem Posted.trans {s t u : State} (h : Posted s t) (h' : Posted t u) : Posted s u := by
  obtain ⟨ds, hds⟩ := h.rest
  obtain ⟨ds', hds'⟩ := h'.rest
  exact ⟨⟨ds', by rw [hds', hds]⟩, fun c => (h'.mode c).trans (h.mode c), fun c o ho => h.ops c o (h'.ops c o ho)⟩

/-- The posts of the entries complete, one after another. -/
abbrev postsDone (l : List Entry) (s : State) : State := l.foldl (fun t e => t.postDone e) s

theorem posted_postsDone (l : List Entry) (s : State) : Posted s (postsDone l s) := by
  induction l generalizing s with
  | nil => exact ⟨⟨_, rfl⟩, fun _ => rfl, fun _ _ h => h⟩
  | cons e l ih => exact (posted_postDone s e).trans (ih _)

theorem postsDone_none {l : List Entry} (h : ∀ e ∈ l, e.post = none) (s : State) : postsDone l s = s := by
  induction l generalizing s with
  | nil => rfl
  | cons e l ih =>
    have hskip : s.postDone e = s := by rw [State.postDone, h e (.head _)]
    rw [postsDone, List.foldl_cons, hskip]
    exact ih (fun x hx => h x (.tail _ hx)) s

theorem ops_postsDone {l : List Entry} {e : Entry} {cd id : Nat} (he : e ∈ l) (hpost : e.post = some (cd, id)) (s : State) :
    ∀ o ∈ ((postsDone l s).die (cdOf cd)).ops, o.id ≠ id := by
  induction l generalizing s with
  | nil => cases he
  | cons x l ih =>
    rcases List.mem_cons.mp he with rfl | he
    · intro o ho
      have hin := (posted_postsDone l (s.postDone e)).ops _ o ho
      rw [State.postDone, hpost] at hin
      dsimp only at hin
      rw [finishOp_zero, State.die_setDie_self, ops_posted] at hin
      simpa using (List.mem_filter.mp hin).2
    · exact ih he _

/-! ### Resets -/

theorem mode_stop (d : Die) : (d.stop true []).mode = .stopping := rfl

/-- The state as a reset first leaves it: sequencers stopped, what is held and staged discarded (R364). -/
abbrev discarded (kind : Nat) (s : State) : State := State.showStaging { s with
  dies := s.dies.map Die.resetStop
  boot := { s.boot with slots := s.boot.slots.set 6 (zeroB 64) }
  host := { s.host with resetting := max kind s.host.resetting, heldQ := [], staging := [] } }

/-- The state once the posts discarded are complete and only started commands stay. -/
abbrev resetLeft (kind : Nat) (s : State) : State :=
  let t := postsDone (s.host.heldQ ++ s.host.staging) (discarded kind s)
  { t with host := { t.host with cmds := t.host.cmds.filter (fun c => c.st == .started) } }

theorem hostReset_eq (kind : Nat) (s : State) : hostReset kind s = if kind = 2 then
    State.andNotReg { resetLeft kind s with host := { (resetLeft kind s).host with cache := false, mem := false, hdm := none, cxlRst := true } }
      0x2000 6 else resetLeft kind s := rfl

/-- What a reset of either kind leaves. -/
theorem hostReset_facts (kind : Nat) (s : State) :
    ∃ ds rg b c m h x, hostReset kind s = { s with dies := ds, regs := rg, boot := b, host := { s.host with
      resetting := max kind s.host.resetting, heldQ := [], staging := [], cache := c, mem := m, hdm := h, cxlRst := x
      highWater := (discarded kind s).host.highWater
      cmds := s.host.cmds.filter (fun c => c.st == .started) } } ∧ ds = (postsDone (s.host.heldQ ++ s.host.staging) (discarded kind s)).dies ∧
      (kind = 2 → c = false ∧ m = false ∧ h = none) := by
  obtain ⟨ds, hds⟩ := (posted_postsDone (s.host.heldQ ++ s.host.staging) (discarded kind s)).rest
  rw [hostReset_eq, resetLeft, hds]
  split
  · exact ⟨_, _, _, _, _, _, _, rfl, rfl, fun _ => ⟨rfl, rfl, rfl⟩⟩
  · next hk => exact ⟨_, _, _, _, _, _, _, rfl, rfl, fun h => absurd h hk⟩

theorem die_discarded (kind : Nat) (s : State) (c : Cd) : (discarded kind s).die c = (s.die c).resetStop :=
  Vector.getElem_map ..

theorem hostReset_resets {i : Instr} {kind : Nat} {s : State} (hi : ∀ u, exec i u = .next (hostReset kind u))  (hreset : s.host.resetting = 0) : ∃ t, Gives i s t ∧ t.host.resetting = kind ∧ t.host.heldQ = [] ∧ t.host.staging = [] ∧ t.mem = s.mem ∧
        t.poison = s.poison ∧ (∀ c : Cd, (s.die c).mode = .running → (t.die c).mode = .stopping) ∧
        ((∀ e ∈ s.host.heldQ ++ s.host.staging, e.post = none) → ∀ c : Cd, (s.die c).mode = .idle → t.die c = s.die c) ∧
        (∀ e ∈ s.host.heldQ ++ s.host.staging, ∀ cd id, e.post = some (cd, id) → ∀ o ∈ (t.die (cdOf cd)).ops, o.id ≠ id) ∧
        (kind = 2 → t.host.hdm = none ∧ t.host.mem = false ∧ t.host.cache = false) ∧ (∀ c ∈ t.host.cmds, c.st = .started) := by
  obtain ⟨ds, rg, b, c, m, h, x, heq, hdies, hcxl⟩ := hostReset_facts kind s
  have hd (k : Cd) : (hostReset kind s).die k = (postsDone (s.host.heldQ ++ s.host.staging) (discarded kind s)).die k := by
    rw [heq, State.die, State.die, ← hdies]
  refine ⟨_, hi s, by rw [heq, hreset]; exact Nat.max_eq_left (Nat.zero_le _), by rw [heq], by rw [heq], by rw [heq], by rw [heq],
    fun k hk => ?_, fun hnone k hk => ?_, fun e he cd id hp => ?_, fun hk => ?_, fun k hk => ?_⟩
  · rw [hd, (posted_postsDone _ _).mode, die_discarded, Die.resetStop, if_pos (.inl hk), mode_stop]
  · rw [hd, postsDone_none hnone, die_discarded, Die.resetStop, if_neg (by rw [hk]; simp)]
  · rw [hd]
    exact ops_postsDone he hp _
  · obtain ⟨hc, hm, hh⟩ := hcxl hk
    rw [heq]
    exact ⟨hh, hm, hc⟩
  · rw [heq] at hk
    simpa using (List.mem_filter.mp hk).2

/-! ### Registers at the end of a reset -/

theorem tabGet_filter {α : Type} (d : α) (l : List (Nat × α)) (p : Nat → Bool) (i : Nat) :
    tabGet d (l.filter (fun e => p e.1)) i = if p i then tabGet d l i else d := by
  induction l with
  | nil => simp [tabGet]
  | cons e l ih =>
    obtain ⟨k, v⟩ := e
    by_cases hk : k = i
    · subst hk
      by_cases hp : p k
      · simp [hp, tabGet]
      · simp only [List.filter_cons, hp, Bool.false_eq_true, if_false, ih]
    · by_cases hp : p k
      · simp only [List.filter_cons, hp, if_true, tabGet, hk, if_false, ih]
      · simp only [List.filter_cons, hp, Bool.false_eq_true, if_false, tabGet, hk, ih]

theorem reg_hostRegsReset (s : State) (h : HostSt) (o : Nat) : State.reg { s with regs := hostRegsReset s.regs, host := h } o =
    if o < 0x2001 ∨ 0x3000 ≤ o then s.reg o else regReset o := by
  refine (tabGet_filter (regReset o) s.regs (fun i => decide (i < 0x2001) || decide (0x3000 ≤ i)) o).trans ?_
  simp only [Bool.or_eq_true, decide_eq_true_eq]
  rfl

/-! ### The link -/

theorem linkLoss_of_up {s : State} (h : s.host.linkUp = true) : linkLoss s =
    (State.orReg { s with host := { s.host with linkUp := false, lostAt := s.time } } 0x2014 4).setReg 0x2000
      (s.reg 0x2000 ^^^ (s.reg 0x2000 &&& 0x7F7)) := if_pos h

theorem linkLoss_facts (s : State) : (linkLoss s).host.linkUp = false ∧ (linkLoss s).mem = s.mem := by
  unfold linkLoss
  split
  · exact ⟨rfl, rfl⟩
  · next h => exact ⟨by simpa using h, rfl⟩

/-- What the return of the link leaves: its event held and its loss logged. -/
theorem linkBack_facts (s : State) : ∃ e r p q o lq rg, IsEvent e 0x000B 0 s.time ∧
    s.linkBack = { s with
      out := o
      logQ := lq
      regs := rg
      host := holding { s.host with reads := r, msixPend := p, resume := q } e } ∧
    (s.logQ.length < 256 → lq = s.logQ ++ [⟨s.time, 17, 6, 0, 0xFF, (s.time - s.host.lostAt) / 1000, 0⟩]) ∧
    tabGet (regReset 0x2000) rg 0x2000 = s.reg 0x2000 := by
  obtain ⟨r, p, q, o, heq⟩ := sameButRequests_readAllDoorbells s
  have hfits : PayloadFits [(16, 4, (s.time - s.host.lostAt) / 1000)] := by simp [PayloadFits, Apart]
  obtain ⟨u, hu⟩ : ∃ u, u = s.readAllDoorbells.event 0x000B 0 [(16, 4, (s.time - s.host.lostAt) / 1000)] := ⟨_, rfl⟩
  have hback : s.linkBack = u.log 17 6 0 0xFF ((s.time - s.host.lostAt) / 1000) 0 := by rw [hu]; rfl
  rw [event_eq, heq] at hu
  refine ⟨_, r, p, q, o, logAfter u 17 6 0 0xFF ((s.time - s.host.lostAt) / 1000) 0, logRegs u, isEvent_eventBytes hfits _ _ _, ?_,
    fun hroom => ?_, ?_⟩
  · rw [hback, log_eq, hu]
  · rw [logAfter_of_room (by rw [hu]; exact hroom), hu]
  · have hreg := reg_log_ne u (o := 0x2000) 17 6 0 0xFF ((s.time - s.host.lostAt) / 1000) 0 (by decide) (by decide)
    have hkeep : u.reg 0x2000 = s.reg 0x2000 := by rw [hu]; rfl
    rw [log_eq] at hreg
    exact hreg.trans hkeep

/-- The status word of a trained link (Table 10-1). -/
abbrev linkWord (cache mem bme : Bool) (width rate : Nat) : Nat :=
  1 + (if cache then 2 else 0) + (if mem then 4 else 0) + (if bme then 8 else 0) + width * 16 + rate * 512

theorem linkWord_fields {cache mem bme : Bool} {width rate : Nat} (hw : width < 32) :
    bitAt (linkWord cache mem bme width rate % 2 ^ 32) 0 = true ∧ fld (linkWord cache mem bme width rate % 2 ^ 32) 4 5 = width := by
  have hlow : (if cache then 2 else 0) + (if mem then 4 else 0) + (if bme then 8 else 0) < 16 ∧
      ((if cache then 2 else 0) + (if mem then 4 else 0) + (if bme then 8 else 0)) % 2 = 0 := by
    cases cache <;> cases mem <;> cases bme <;> decide
  unfold linkWord
  constructor
  · rw [bitAt, Nat.shiftRight_zero, beq_iff_eq]
    omega
  · rw [fld_mod_word _ _ _ (by decide), fld, Nat.shiftRight_eq_div_pow]
    omega

/-- The state with its link trained. -/
abbrev trained (s : State) (width rate : Nat) (cache mem : Bool) (hdm : Option Nat) : State :=
  let sets := if s.host.cxlRst then fld (s.reg 0x3050) 0 7 else s.host.cxlSets
  State.setReg { s with host := { s.host with
    linkUp := true
    width := width
    rate := rate
    cache := cache
    mem := mem
    hdm := if sets = 0 then none else hdm
    cxlRst := false
    cxlSets := sets } } 0x2000 (linkWord cache mem s.host.bme width rate)

theorem linkTrained_eq {s : State} {width rate : Nat} {cache mem : Bool} {hdm : Option Nat} (hperst : s.host.perst = false)
    (hloaded : s.boot.loaded = true) (hdown : s.host.linkUp = false) (hwidth : width = 4 ∨ width = 8 ∨ width = 16) (h1 : 1 ≤ rate) (h3 : rate ≤ 3) :
    linkTrained width rate cache mem hdm s = if s.host.width = 0 then (trained s width rate cache mem hdm).readAllDoorbells
      else (trained s width rate cache mem hdm).linkBack := by
  have hok : ¬(s.host.perst = true ∨ s.boot.loaded = false ∨ (s.host.linkUp = true ∧ s.host.cxlRst = false)
      ∨ (width ≠ 4 ∧ width ≠ 8 ∧ width ≠ 16) ∨ rate = 0 ∨ 3 < rate) := by
    rw [hperst, hloaded, hdown]
    simp only [Bool.false_eq_true, Bool.true_eq_false, false_or, false_and]
    omega
  unfold linkTrained
  rw [if_neg hok]
  simp only [hdown, Bool.false_eq_true, false_or]

theorem linkTrained_trains {s : State} {width rate : Nat} {cache mem : Bool} {hdm : Option Nat} (hperst : s.host.perst = false)
    (hloaded : s.boot.loaded = true) (hdown : s.host.linkUp = false) (hwidth : width = 4 ∨ width = 8 ∨ width = 16) (h1 : 1 ≤ rate) (h3 : rate ≤ 3) :
    ∃ t, linkTrained width rate cache mem hdm s = t ∧ t.host.linkUp = true ∧ t.host.cache = cache ∧
        t.host.mem = mem ∧
        t.host.cxlSets = (if s.host.cxlRst then fld (s.reg 0x3050) 0 7 else s.host.cxlSets) ∧
        t.host.hdm = (if t.host.cxlSets = 0 then none else hdm) ∧
        (s.host.width ≠ 0 → s.host.resetting = 0 → ∃ e, t.host.heldQ = s.host.heldQ ++ [e] ∧ IsEvent e 0x000B 0 s.time) ∧ bitAt (t.reg 0x2000) 0 = true ∧
        fld (t.reg 0x2000) 4 5 = width ∧ t.mem = s.mem := by
  obtain ⟨u, hu⟩ : ∃ u, u = trained s width rate cache mem hdm := ⟨_, rfl⟩
  obtain ⟨hbit, hfld⟩ := linkWord_fields (cache := cache) (mem := mem) (bme := s.host.bme) (width := width) (rate := rate) (by omega)
  have hreg : u.reg 0x2000 = linkWord cache mem s.host.bme width rate % 2 ^ 32 := by rw [hu]; exact State.reg_setReg_self ..
  rw [← hreg] at hbit hfld
  refine ⟨_, linkTrained_eq hperst hloaded hdown hwidth h1 h3, ?_⟩
  rw [← hu]
  split
  · next hfirst =>
    obtain ⟨_, _, _, _, heq⟩ := sameButRequests_readAllDoorbells u
    rw [heq]
    exact ⟨by rw [hu]; rfl, by rw [hu]; rfl, by rw [hu]; rfl, by rw [hu]; rfl, by rw [hu]; rfl, fun h => absurd hfirst h, hbit, hfld, by rw [hu]; rfl⟩
  · obtain ⟨e, r, p, q, o, lq, rg, hevent, heq, -, hrg⟩ := linkBack_facts u
    have hkeep (h : HostSt) : (holding h e).linkUp = h.linkUp ∧ (holding h e).cache = h.cache ∧ (holding h e).mem = h.mem ∧
        (holding h e).cxlSets = h.cxlSets ∧ (holding h e).hdm = h.hdm := by
      unfold holding
      split <;> exact ⟨rfl, rfl, rfl, rfl, rfl⟩
    obtain ⟨k1, k2, k3, k4, k5⟩ := hkeep { u.host with reads := r, msixPend := p, resume := q }
    rw [heq]
    refine ⟨by rw [k1, hu]; rfl, by rw [k2, hu]; rfl, by rw [k3, hu]; rfl, by rw [k4, hu]; rfl, by rw [k5, k4, hu]; rfl,
      fun _ hreset => ⟨e, ?_, by rw [hu] at hevent; exact hevent⟩, ?_, ?_, by rw [hu]; rfl⟩
    · rw [holding_heldQ (by rw [hu]; exact hreset), hu]
      rfl
    · rw [State.reg, hrg]; exact hbit
    · rw [State.reg, hrg]; exact hfld

theorem doe_type (i : Fin 3) : fieldB (natLE 4 (doeTypes.getD i.val 0 * 2 ^ 16) ++ natLE 4 ((i.val + 1) % 3)) 2 1 = [0, 2, 1].getD i.val 0 := by
  revert i
  decide

/-- Settles O24: by the requests raised anew, what a reset of the host port leaves, and the word of a trained link. -/
theorem hostLinkAndResets : Obligations.HostLinkAndResets := by
  intro s
  refine ⟨fun hb => ?_, fun hb => ?_, fun y hy hreset => ?_, fun hreset hended => ?_, fun hup => ?_, fun hdown hperst hwidth hreset hroom => ?_, ?_,
    fun hperst => ?_, fun width rate cache m mem hdm hm hperst hloaded hdown hw h1 h3 => ?_, fun i hup hdoe => ?_, fun hup hdoe => ?_⟩
  · refine ⟨_, congrArg Host.Outcome.next (if_pos hb), rfl, ?_, ?_, rfl, rfl⟩
    · rw [reg_andNotReg_ne _ _ (by decide)]
      exact Setpoints.bitAt_orReg (by decide) (by decide)
    · rw [State.hostReads]
      simp [State.andNotReg, State.orReg]
  · have hgo : exec .bmeSet s = .next (State.readAllDoorbells (State.orReg { s with host := { s.host with bme := true } } 0x2000 8)) :=
      congrArg Host.Outcome.next (if_neg (by rw [hb]; decide))
    refine ⟨_, hgo, ?_, fun l hl => ?_, ?_⟩
    · obtain ⟨_, _, _, _, heq⟩ := sameButRequests_readAllDoorbells (State.orReg { s with host := { s.host with bme := true } } 0x2000 8)
      rw [heq]
      rfl
    · exact (mem_reads_foldl _ _ _).mpr (.inl hl)
    · obtain ⟨_, _, _, _, heq⟩ := sameButRequests_readAllDoorbells (State.orReg { s with host := { s.host with bme := true } } 0x2000 8)
      rw [heq]
      rfl
  · simp only [List.mem_cons, List.not_mem_nil, or_false] at hy
    rcases hy with rfl | rfl
    · exact hostReset_resets (fun _ => rfl) hreset
    · exact hostReset_resets (fun _ => rfl) hreset
  · refine ⟨_, congrArg Host.Outcome.next (if_pos ⟨hreset, hended⟩), rfl, rfl, rfl, fun o h1 h2 => ?_, fun o ho => ?_, rfl⟩
    · rw [reg_hostRegsReset, if_neg (by omega)]
    · rw [reg_hostRegsReset, if_pos ho]
  · refine ⟨_, congrArg Host.Outcome.next (linkLoss_of_up hup), rfl, rfl, ?_, rfl, rfl, rfl⟩
    rw [State.reg_setReg_ne _ _ (by decide)]
    exact Setpoints.bitAt_orReg (by decide) (by decide)
  · obtain ⟨u, hu⟩ : ∃ u, u = State.setReg { s with host := { s.host with linkUp := true } } 0x2000
      (linkWord s.host.cache s.host.mem s.host.bme s.host.width s.host.rate) := ⟨_, rfl⟩
    have hgo : exec .hostLinkRestore s = .next u.linkBack :=
      congrArg Host.Outcome.next ((if_neg (by rw [hdown, hperst]; simpa)).trans (by rw [hu]))
    obtain ⟨e, r, p, q, o, lq, rg, hevent, heq, hlog, -⟩ := linkBack_facts u
    have hheld : (holding { u.host with reads := r, msixPend := p, resume := q } e).heldQ = u.host.heldQ ++ [e] :=
      holding_heldQ (by rw [hu]; exact hreset) e
    have hup : (holding { u.host with reads := r, msixPend := p, resume := q } e).linkUp = u.host.linkUp := by
      unfold holding
      split <;> rfl
    refine ⟨_, e, hgo, ?_, ?_, ?_, ?_, ?_⟩
    · rw [heq, hup, hu]; rfl
    · rw [heq, hheld, hu]; rfl
    · rw [hu] at hevent; exact hevent
    · rw [heq, hlog (by rw [hu]; exact hroom), hu]; rfl
    · rw [heq, hu]; rfl
  · obtain ⟨hdown, hmem⟩ := linkLoss_facts s
    exact ⟨_, rfl, rfl, hdown, hmem⟩
  · obtain ⟨ds, rg, b, c, m, h, x, heq, -⟩ := hostReset_facts 2 { s with host := { s.host with perst := false } }
    refine ⟨_, congrArg Host.Outcome.next ((if_pos hperst).trans heq), rfl, Nat.le_max_left .., rfl, rfl⟩
  · have hexec : exec (.cxlLinkTrainingDone width rate cache m) s = .next (linkTrained width rate cache mem hdm s) := by
      rcases hm with ⟨rfl, rfl, rfl⟩ | ⟨rfl, rfl⟩ <;> rfl
    obtain ⟨t, ht, hfacts⟩ := linkTrained_trains (cache := cache) (mem := mem) (hdm := hdm) hperst hloaded hdown hw h1 h3
    exact ⟨t, hexec.trans (congrArg Host.Outcome.next ht), hfacts⟩
  · exact ⟨_, congrArg Host.Outcome.next (if_neg (by rw [hup, hdoe]; simp)), doe_type i⟩
  · exact congrArg Host.Outcome.next (if_neg (by rw [hup, hdoe]; simp))

end Sys2Proof.Proofs.HostLinks
end

section
/-! PROOF. Doorbells, the fetch of descriptors, and their return. -/

namespace Sys2Proof.Proofs.Doorbells

open Sys2Proof.Machine
open Sys2Proof.Claims hiding holding
open Sys2Proof.Proofs.ByteFields Sys2Proof.Proofs.HostRings

section
variable {s : State}

/-! ### Doorbell reads -/

theorem readDoorbell_raised (h : s.hostReads = true) (l : Nat) : s.readDoorbell l =
    State.emit { s with host := { s.host with reads := setIns s.host.reads l } } (.hostRead (s.readKind 0) (s.regPair 0x2008 + 64 * l) 64) :=
  if_pos h

theorem doorbellSnoop_reads {l : Nat} (hcache : s.host.cache = true) (hpoll : bitAt (s.reg 0x2004) 16 = false)
    (hline : s.host.lines.contains l = true) (hreads : s.hostReads = true) :
    ∃ t, Gives (.doorbellSnoop l) s t ∧ t.out = .hostRead 0 (s.regPair 0x2008 + 64 * l) 64 :: s.out ∧
        t.host.lines = setDel s.host.lines l ∧ l ∈ t.host.reads ∧ t.host.rings = s.host.rings := by
  have hgo : doorbellSnoop l s = _ := (if_pos ⟨hcache, hpoll, hline⟩).trans
    (readDoorbell_raised (s := { s with host := { s.host with lines := setDel s.host.lines l } }) hreads l)
  refine ⟨_, congrArg Host.Outcome.next hgo, ?_, rfl, (mem_setIns ..).mpr (.inl rfl), rfl⟩
  simp only [State.emit, State.readKind, hcache, if_true]
  rfl

theorem doorbellPoll_reads {l : Nat} (hline : s.doorbellLines.contains l = true) (hcache : s.host.cache = false) (hreads : s.hostReads = true) :
    ∃ t, Gives (.doorbellPoll l) s t ∧ t.out = .hostRead 2 (s.regPair 0x2008 + 64 * l) 64 :: s.out ∧ l ∈ t.host.reads := by
  have hgo : doorbellPoll l s = _ := (if_pos ⟨hline, .inl hcache⟩).trans (readDoorbell_raised hreads l)
  refine ⟨_, congrArg Host.Outcome.next hgo, ?_, (mem_setIns ..).mpr (.inl rfl)⟩
  simp only [State.emit, State.readKind, hcache, Bool.false_eq_true, if_false]

/-! ### Words of a line -/

theorem rings_event (s : State) (ty src : Nat) (p : List (Nat × Nat × Nat)) : (s.event ty src p).host.rings = s.host.rings := by
  rw [event_eq, rings_holding]

theorem ring_ringError_self (s : State) (r code : Nat) : (s.ringError r code).ring r = { s.ring r with state := 3, err := code } := by
  rw [State.ringError, State.ring, rings_event]
  exact tabGet_tabSet_self ..

theorem ring_ringError_ne (s : State) {r k : Nat} (code : Nat) (h : k ≠ r) : (s.ringError r code).ring k = s.ring k := by
  rw [State.ringError, State.ring, rings_event]
  exact tabGet_tabSet_ne _ _ _ h

/-- What a ring's error leaves. -/
theorem ringError_rest (s : State) (r code : Nat) : (s.ringError r code).mem = s.mem ∧ (s.ringError r code).host.lines = s.host.lines ∧
    (s.ringError r code).host.cmds = s.host.cmds := by
  rw [State.ringError, event_eq]
  refine ⟨rfl, ?_, cmds_holding ..⟩
  unfold holding
  split <;> rfl

theorem seeWord_rest (s : State) (r v : Nat) : (s.seeWord r v).mem = s.mem ∧ (s.seeWord r v).host.lines = s.host.lines := by
  unfold State.seeWord
  dsimp only
  split_ifs
  · exact ⟨rfl, rfl⟩
  iterate 2
    · exact ⟨(ringError_rest ..).1, (ringError_rest ..).2.1⟩
    · exact ⟨rfl, rfl⟩

theorem ring_seeWord_ne (s : State) {r k : Nat} (v : Nat) (h : k ≠ r) : (s.seeWord r v).ring k = s.ring k := by
  unfold State.seeWord
  dsimp only
  split_ifs
  · rfl
  iterate 2
    · rw [ring_ringError_ne _ _ h, ring_setRing_ne _ _ h]
    · rw [ring_setRing_ne _ _ h]

/-- An enabled command ring once its doorbell word is seen (R345, R348). -/
def seen (x : Ring) (v : Nat) : Ring :=
  if x.size < (v + 2 ^ 32 - x.dev) % 2 ^ 32 then { x with host := v, state := 3, err := 1 } else { x with host := v }

theorem ring_seeWord {r : Nat} (hstate : (s.ring r).state = 1) (hkind : (s.ring r).kind = 0) (v : Nat) :
    (s.seeWord r v).ring r = seen (s.ring r) v := by
  unfold State.seeWord seen
  dsimp only
  rw [if_neg (not_not.mpr hstate), if_pos hkind]
  split
  · rw [ring_ringError_self, ring_setRing_self]
  · exact ring_setRing_self ..

/-- The first words of a line compared. -/
abbrev compared (s : State) (l : Nat) (data : List Byte) (n : Nat) : State :=
  (List.range n).foldl (fun t i => t.seeWord (16 * l + i) (fieldB data (4 * i) 4)) s

theorem compared_succ (s : State) (l : Nat) (data : List Byte) (n : Nat) :
    compared s l data (n + 1) = (compared s l data n).seeWord (16 * l + n) (fieldB data (4 * n) 4) := by
  rw [compared, List.range_succ, List.foldl_append]
  rfl

theorem compared_rest (s : State) (l : Nat) (data : List Byte) (n : Nat) :
    (compared s l data n).mem = s.mem ∧ (compared s l data n).host.lines = s.host.lines := by
  induction n with
  | zero => exact ⟨rfl, rfl⟩
  | succ n ih =>
    rw [compared_succ, (seeWord_rest ..).1, (seeWord_rest ..).2]
    exact ih

theorem ring_compared_later (s : State) (l : Nat) (data : List Byte) {n i : Nat} (h : n ≤ i) :
    (compared s l data n).ring (16 * l + i) = s.ring (16 * l + i) := by
  induction n with
  | zero => rfl
  | succ n ih => rw [compared_succ, ring_seeWord_ne _ _ (by omega), ih (by omega)]

theorem ring_compared {l i : Nat} (hstate : (s.ring (16 * l + i)).state = 1) (hkind : (s.ring (16 * l + i)).kind = 0) (data : List Byte)
    {n : Nat} (h : i < n) : (compared s l data n).ring (16 * l + i) = seen (s.ring (16 * l + i)) (fieldB data (4 * i) 4) := by
  induction n with
  | zero => omega
  | succ n ih =>
    rw [compared_succ]
    rcases Nat.lt_or_ge i n with hi | hi
    · rw [ring_seeWord_ne _ _ (by omega), ih hi]
    · obtain rfl : i = n := by omega
      have hprev := ring_compared_later s l data (Nat.le_refl i)
      rw [ring_seeWord (by rw [hprev]; exact hstate) (by rw [hprev]; exact hkind), hprev]

theorem doorbellReturn_sees {l r : Nat} {data : List Byte} (hline : s.host.reads.contains l = true) (hreads : s.hostReads = true)
    (hr : r / 16 = l) (hstate : (s.ring r).state = 1) (hkind : (s.ring r).kind = 0) :
    ∃ t, Gives (.doorbellLineReturn l data true) s t ∧ t.ring r = seen (s.ring r) (fieldB data (4 * (r % 16)) 4) ∧
      l ∈ t.host.lines ∧ t.mem = s.mem := by
  obtain ⟨u, hu⟩ : ∃ u : State, u = { s with host := { s.host with
      reads := setDel s.host.reads l, resume := setDel s.host.resume l, lines := setIns s.host.lines l } } := ⟨_, rfl⟩
  have hgo : doorbellReturn l data true s = compared u l data 16 := (if_pos ⟨hline, hreads⟩).trans (by rw [hu]; rfl)
  have hring (k : Nat) : u.ring k = s.ring k := by rw [hu]; rfl
  have hword : 16 * l + r % 16 = r := by omega
  refine ⟨_, congrArg Host.Outcome.next hgo, ?_, ?_, ?_⟩
  · have hcmp := ring_compared (s := u) (l := l) (i := r % 16) (by rw [hword, hring]; exact hstate) (by rw [hword, hring]; exact hkind)
      data (n := 16) (Nat.mod_lt _ (by decide))
    rwa [hword, hring] at hcmp
  · rw [(compared_rest ..).2, hu]
    exact (mem_setIns ..).mpr (.inl rfl)
  · rw [(compared_rest ..).1, hu]

/-! ### Fetch and return of descriptors -/

theorem ringFetch_fetches {r : Nat} (hreads : s.hostReads = true) (hresume : s.host.resume = []) (hfailed : s.boot.failed = false)
    (hnext : s.nextRing = some r) (hbound : (s.ring r).bound ≠ r) :
    ∃ t, Gives .ringFetch s t ∧ (t.ring r).dev = ((s.ring r).dev + 1) % 2 ^ 32 ∧
        (t.ring (s.ring r).bound).reserved = (s.ring (s.ring r).bound).reserved + 1 ∧
        t.host.cmds = s.host.cmds ++ [⟨r, (s.ring r).dev, .fetching, [], (s.ring r).bound⟩] ∧
        t.out = .hostRead (if s.host.cache then 1 else 2) ((s.ring r).base + 64 * ((s.ring r).dev % (s.ring r).size)) 64 :: s.out := by
  obtain ⟨u, hu⟩ : ∃ u, u = (s.setRing (s.ring r).bound { s.ring (s.ring r).bound with reserved := (s.ring (s.ring r).bound).reserved + 1 }).setRing r
    { s.ring r with dev := ((s.ring r).dev + 1) % 2 ^ 32 } := ⟨_, rfl⟩
  have hgo : ringFetch s = State.emit { u with host := { u.host with
      rotation := (r + 1) % 8192, cmds := s.host.cmds ++ [⟨r, (s.ring r).dev, .fetching, [], (s.ring r).bound⟩] } }
      (.hostRead (u.readKind 1) ((s.ring r).entry (s.ring r).dev) 64) := by
    unfold ringFetch
    rw [if_neg (by rw [hreads, hresume, hfailed]; simp), hnext, hu]
    rfl
  have hself : u.ring r = { s.ring r with dev := ((s.ring r).dev + 1) % 2 ^ 32 } := by rw [hu]; exact ring_setRing_self ..
  have hcomp : u.ring (s.ring r).bound = { s.ring (s.ring r).bound with reserved := (s.ring (s.ring r).bound).reserved + 1 } := by
    rw [hu, ring_setRing_ne _ _ hbound, ring_setRing_self]
  refine ⟨_, congrArg Host.Outcome.next hgo, congrArg Ring.dev hself, congrArg Ring.reserved hcomp, rfl, ?_⟩
  rw [hu]
  rfl

variable {r : Nat} {c : Cmd} {data : List Byte}

theorem descriptorReturn_ok (hfind : s.host.cmds.find? (fun d => d.ring == r && d.st == .fetching) = some c) :
    descriptorReturn r data true s =
      if (s.ring r).state = 2 ∧ (s.ring r).abort = true then s.complete 0 { c with bytes := sliceB data 0 64 } 9 0 0
      else if descReserved (sliceB data 0 64) then s.complete 0 { c with bytes := sliceB data 0 64 } 2 0 0
      else { s with host := { s.host with
        cmds := s.host.cmds.map (fun d => if d == c then { c with bytes := sliceB data 0 64, st := .ready } else d) } } := by
  unfold descriptorReturn
  rw [hfind]
  rfl

theorem descriptorReturn_completes {status : Nat} (hreset : s.host.resetting = 0)
    (h : descriptorReturn r data true s = s.complete 0 { c with bytes := sliceB data 0 64 } status 0 0) :
    CompletesWith (.descriptorReturn r data true) s { c with bytes := sliceB data 0 64 } 0 status 0 :=
  completesWith_of (congrArg Host.Outcome.next h) hreset rfl rfl rfl rfl rfl

theorem descriptorReturn_fails (hfind : s.host.cmds.find? (fun d => d.ring == r && d.st == .fetching) = some c)
    (hreset : s.host.resetting = 0) :
    ∃ t, Gives (.descriptorReturn r data false) s t ∧ (t.ring r).state = 3 ∧ (t.ring r).err = 3 ∧
        t.host.heldQ.length = s.host.heldQ.length + 1 ∧ ∀ d ∈ t.host.cmds, d ≠ c := by
  obtain ⟨u, hu⟩ : ∃ u, u = (s.setRing c.cring { s.ring c.cring with reserved := (s.ring c.cring).reserved - 1 }) := ⟨_, rfl⟩
  have hgo : descriptorReturn r data false s =
      State.ringError { u with host := { u.host with cmds := s.host.cmds.filter (fun d => d != c) } } r 3 := by
    unfold descriptorReturn
    rw [hfind, hu]
    rfl
  refine ⟨_, congrArg Host.Outcome.next hgo, by rw [ring_ringError_self], by rw [ring_ringError_self], ?_, fun d hd => ?_⟩
  · rw [State.ringError, event_eq]
    refine (congrArg List.length (holding_heldQ (by rw [hu]; exact hreset) _)).trans ?_
    rw [hu, List.length_append]
    rfl
  · rw [(ringError_rest ..).2.2] at hd
    simpa using (List.mem_filter.mp hd).2

end

/-- Settles O21: by the doorbell lines read and compared, and the descriptors fetched and returned. -/
theorem doorbellsAndFetch : Obligations.DoorbellsAndFetch := by
  intro s
  refine ⟨fun l => doorbellSnoop_reads, fun l => doorbellPoll_reads, fun l data r hline hreads hr hstate hkind => ?_,
    fun r hreads hresume hfailed hnext hbound => ringFetch_fetches hreads hresume hfailed hnext hbound, fun r data c hfind hreset => ⟨fun h2 hab => ?_, fun hopen hok => ?_, fun hopen hres => ?_,
      fun _ => descriptorReturn_fails hfind hreset⟩⟩
  · obtain ⟨t, hgives, hring, hlines, hmem⟩ := doorbellReturn_sees (data := data) hline hreads hr hstate hkind
    refine ⟨t, hgives, ?_, hlines, hmem, ?_, ?_⟩ <;> rw [hring] <;> unfold seen <;> split
    · rfl
    · rfl
    · rfl
    · exact hstate
    · rfl
    · rfl
  · exact descriptorReturn_completes hreset ((descriptorReturn_ok hfind).trans (if_pos ⟨h2, hab⟩))
  · exact congrArg Host.Outcome.next ((descriptorReturn_ok hfind).trans ((if_neg hopen).trans (if_neg (by rw [hok]; decide))))
  · exact descriptorReturn_completes hreset ((descriptorReturn_ok hfind).trans ((if_neg hopen).trans (if_pos hres)))

end Sys2Proof.Proofs.Doorbells
end

section
/-! PROOF. Ring commands, and the rows a DMA moves. -/

namespace Sys2Proof.Proofs.RingCommandsRun

open Sys2Proof.Machine
open Sys2Proof.Claims hiding holding
open Sys2Proof.Proofs.ByteFields Sys2Proof.Proofs.HostRings Sys2Proof.Proofs.MemoryAccess Sys2Proof.Proofs.ByteRanges
open Sys2Proof.Proofs.TileEntries Sys2Proof.Proofs.GristAcceptance Sys2Proof.Proofs.Homes

section
variable {s : State} {r : Nat} {c : Cmd}

theorem startCmd_of_startable {op : Nat} (h : Startable s r c op) :
    s.startCmd r op = some ({ c with st := .started }, begun s c) := by
  rw [State.startCmd, h.1]
  exact if_pos h.2

/-- A command that begins and completes at once. -/
theorem completes_of_begun {i : Instr} {src status : Nat} (hreset : s.host.resetting = 0)
    (h : exec i s = .next ((begun s c).complete src { c with st := .started } status 0 0)) :
    CompletesWith i s { c with st := .started } src status 0 :=
  completesWith_of (u := begun s c) h hreset rfl rfl rfl rfl rfl

theorem ringNop_completes (hreset : s.host.resetting = 0) (h : Startable s r c 0) :
    CompletesWith (.ringNop r) s { c with st := .started } 0 0 0 := by
  refine completes_of_begun hreset ?_
  have hgo : exec (.ringNop r) s = .next (match s.startCmd r 0 with
    | some (c, t) => t.complete 0 c 0 0 0
    | none => s) := rfl
  rw [hgo, startCmd_of_startable h]

/-! ### Writes -/

theorem sbDrop_of_not_sbHas {who : Nat} (h : s.sbHas who = false) : s.sbDrop who = s := by
  have hdies : (s.sbDrop who).dies = s.dies := by
    refine Vector.ext fun i hi => ?_
    have hkeep : sbRelease (s.die ⟨i, hi⟩).sb who = (s.die ⟨i, hi⟩).sb :=
      List.filter_eq_self.mpr fun e he => by simp [who_ne_of_not_sbHas h _ he]
    rw [State.sbDrop, Vector.getElem_map]
    exact congrArg (fun sb => { s.die ⟨i, hi⟩ with sb := sb }) hkeep
  calc s.sbDrop who = { s with dies := (s.sbDrop who).dies } := rfl
    _ = s := by rw [hdies]

/-- A write command that waits for no tile and no line. -/
theorem writeCmd_goes (h : Startable s r c 4) (hfree : WriteFree s (fieldB c.bytes 8 6)) :
    writeCmd r s = (if (begun s c).writeStatus (fieldB c.bytes 8 6) (fieldB c.bytes 16 1) = 0
      then (begun s c).write (fieldB c.bytes 8 6) (sliceB c.bytes 32 (fieldB c.bytes 16 1)) else begun s c).complete 0
        { c with st := .started } ((begun s c).writeStatus (fieldB c.bytes 8 6) (fieldB c.bytes 16 1)) 0 0 := by
  obtain ⟨hhas, htile, hline⟩ := hfree
  have henter : s.sbEnter whoRing [] (tileOf (fieldB c.bytes 8 6)).toList = s := by
    rw [htile, State.sbEnter, if_neg (by rw [hhas]; decide)]
    exact sbMove_nil ..
  have hdrop : (begun s c).sbDrop whoRing = begun s c := sbDrop_of_not_sbHas hhas
  unfold writeCmd
  rw [startCmd_of_startable h]
  dsimp only
  rw [henter, if_neg (by rw [sbHeld_of_not_sbHas hhas, hline]; simp), hdrop]

theorem fenced_begun (i : Nat) : (begun s c).fenced i = s.fenced i := rfl

theorem writeStatus_outside {a n : Nat} (h : 64 < a % 64 + n ∨ s.mapped a = false) : (begun s c).writeStatus a n = 7 := by
  refine if_neg fun ⟨h1, h2⟩ => ?_
  rcases h with h | h
  · omega
  · exact absurd (h.symm.trans h2) (by decide)

theorem writeStatus_inside {a n : Nat} (hn : a % 64 + n ≤ 64) (hm : s.mapped a = true) :
    (begun s c).writeStatus a n = if (winDie a).any s.fenced then 6 else if s.poisoned a then 5 else 0 := if_pos ⟨hn, hm⟩

theorem any_fenced_of_mode {a i : Nat} (hi : winDie a = some i) (h : (s.die (cdOf i)).mode = .fenced) : (winDie a).any s.fenced = true := by
  rw [hi]
  exact beq_iff_eq.mpr h

theorem not_any_fenced {a : Nat} (h : ∀ i, winDie a = some i → (s.die (cdOf i)).mode ≠ .fenced) : ¬(winDie a).any s.fenced = true := by
  cases hw : winDie a with
  | none => exact Bool.false_ne_true
  | some i => exact fun hany => h i hw (beq_iff_eq.mp hany)

theorem writeCmd_stops {status : Nat} (hreset : s.host.resetting = 0) (h : Startable s r c 4) (hfree : WriteFree s (fieldB c.bytes 8 6))
    (hst : (begun s c).writeStatus (fieldB c.bytes 8 6) (fieldB c.bytes 16 1) = status) (hne : status ≠ 0) :
    CompletesWith (.write r) s { c with st := .started } 0 status 0 := by
  refine completes_of_begun hreset (congrArg Host.Outcome.next ?_)
  rw [writeCmd_goes h hfree, hst, if_neg hne]

theorem writeCmd_writes {a n : Nat} (ha : a = fieldB c.bytes 8 6) (hb : n = fieldB c.bytes 16 1) (hreset : s.host.resetting = 0)
    (h : Startable s r c 4) (hfree : WriteFree s a) (hn : a % 64 + n ≤ 64) (hm : s.mapped a = true) (hp : s.poisoned a = false)
    (hf : ∀ i, winDie a = some i → (s.die (cdOf i)).mode ≠ .fenced) :
      ∃ t e, Gives (.write r) s t ∧ t.bytes a n = sliceB c.bytes 32 n ∧ OnlyBytes s t a n ∧
        t.host.heldQ = s.host.heldQ ++ [e] ∧ IsCompletion e { c with st := .started } 0 0 0 0 ∧ t.regs = s.regs ∧ t.dies = s.dies := by
  have hst : (begun s c).writeStatus a n = 0 := by
    rw [writeStatus_inside hn hm, if_neg (not_any_fenced hf), if_neg (by rw [hp]; decide)]
  have hlen : (sliceB c.bytes 32 n).length = n := length_sliceB ..
  obtain ⟨l, hl⟩ : ∃ l, s.loc a = some l := Option.isSome_iff_exists.mp hm
  have hstored : Stored (begun s c) ((begun s c).write a (sliceB c.bytes 32 n)) a (sliceB c.bytes 32 n) :=
    stored_write (by rw [hlen]; exact HomeAccesses.clear_in_line (s := begun s c) hl hp hn)
  have hbytes := hstored.bytes_eq
  have honly := hstored.onlyBytes
  rw [hlen] at hbytes honly
  obtain ⟨⟨m, hmem⟩, -⟩ := hstored
  have hgo : writeCmd r s = State.complete { begun s c with mem := m } 0 { c with st := .started } 0 0 0 := by
    rw [writeCmd_goes h (ha ▸ hfree), ← ha, ← hb, hst, if_pos rfl, hmem]
  rw [hmem] at hbytes honly
  rw [complete_eq] at hgo
  exact ⟨_, _, congrArg Host.Outcome.next hgo, hbytes, honly, holding_heldQ (h := without (begun s c).host _) hreset _,
    isCompletion_completion .., rfl, rfl⟩

/-! ### DMA -/

theorem beginMover_begins {m : Fin 16} {j : MoverJob} {rest : List MoverJob} (hq : s.host.movers[m] = j :: rest)
    (hj : j.cmd.isSome = true ∧ j.wins = []) : s.beginMover m =
      { s with host := { s.host with movers := s.host.movers.set m ({ j with wins := s.windows } :: rest) } } := by
  unfold State.beginMover
  rw [hq]
  exact if_pos hj

theorem beginMover_stays {m : Fin 16} {j : MoverJob} {rest : List MoverJob} (hq : s.host.movers[m] = j :: rest)
    (hj : ¬(j.cmd.isSome = true ∧ j.wins = [])) : s.beginMover m = s := by
  unfold State.beginMover
  rw [hq]
  exact if_neg hj

/-- A mover that begins its next work keeps what its queue asks for. -/
theorem beginMover_facts (s : State) (m : Fin 16) : ∃ q, s.beginMover m = { s with host := { s.host with movers := q } } ∧
    q[m].map (·.desc) = s.host.movers[m].map (·.desc) := by
  cases hq : s.host.movers[m] with
  | nil =>
    refine ⟨s.host.movers, ?_, by rw [hq]⟩
    unfold State.beginMover
    rw [hq]
  | cons j rest =>
    by_cases hj : j.cmd.isSome = true ∧ j.wins = []
    · refine ⟨_, beginMover_begins hq hj, ?_⟩
      rw [Fin.getElem_fin, Vector.getElem_set_self]
      rfl
    · exact ⟨s.host.movers, beginMover_stays hq hj, by rw [hq]⟩

/-- A mover's queue with one more piece of work. -/
abbrev queued (s : State) (m : Fin 16) (x : MoverJob) : State :=
  { s with host := { s.host with movers := s.host.movers.set m (s.host.movers[m] ++ [x]) } }

theorem movers_queued (s : State) (m : Fin 16) (x : MoverJob) : (queued s m x).host.movers[m] = s.host.movers[m] ++ [x] :=
  Vector.getElem_set_self _

theorem queueMover_rest (s : State) (m : Fin 16) (x : MoverJob) :
    ∃ q, s.queueMover m x = { s with host := { s.host with movers := q } } := by
  obtain ⟨q, hq, -⟩ := beginMover_facts (queued s m x) m
  exact ⟨q, hq⟩

theorem queueMover_first {m : Fin 16} {x : MoverJob} (hq : s.host.movers[m] = []) (hx : x.cmd.isSome = true ∧ x.wins = []) :
    (s.queueMover m x).host.movers[m] = [{ x with wins := s.windows }] := by
  have hone : (queued s m x).host.movers[m] = [x] := (movers_queued s m x).trans (by rw [hq]; rfl)
  have hgo : s.queueMover m x = _ := beginMover_begins hone hx
  rw [hgo]
  exact Vector.getElem_set_self _

theorem queueMover_behind {m : Fin 16} {x j : MoverJob} {l : List MoverJob} (hq : s.host.movers[m] = j :: l)
    (hj : j.cmd = none ∨ j.wins ≠ []) : (s.queueMover m x).host.movers[m] = s.host.movers[m] ++ [x] := by
  have hcons : (queued s m x).host.movers[m] = j :: (l ++ [x]) := (movers_queued s m x).trans (by rw [hq]; rfl)
  have hgo : s.queueMover m x = queued s m x := beginMover_stays hcons fun h => by
    rcases hj with hj | hj
    · rw [hj] at h; exact absurd h.1 (by decide)
    · exact hj h.2
  rw [hgo]
  exact movers_queued s m x

/-- The ledger once a mover's base die has admitted a DMA (R416). -/
abbrev dmaDebited (s : State) (m : Fin 16) (b : List Byte) : LedSt :=
  { (s.led.addAdmitted (fabBd (m.val / 4)) (s.estDma (fabBd (m.val / 4)).val b)) with
    bdCredit := s.led.bdCredit.set (fabBd (m.val / 4)) (s.led.bdCredit[fabBd (m.val / 4)]
      - s.corrected12 (fabBd (m.val / 4)).val (s.estDma (fabBd (m.val / 4)).val b)) }

theorem startDma_queues {m : Fin 16} (h : Startable s r c 1)
    (hm : m = s.moverOf (if fieldB c.bytes 2 1 = 4 then [0, 1, 2, 3] else [fieldB c.bytes 2 1]))
    (hcredit : 0 ≤ s.led.bdCredit[fabBd (m.val / 4)]) (hheld : s.led.held[fabBd (m.val / 4)] = false) (hbrake : s.led.brake = false) :
    startDma r s = State.queueMover { begun s c with led := dmaDebited s m c.bytes } m
      ⟨some { c with st := .started }, none, c.bytes, []⟩ := by
  subst hm
  unfold startDma
  rw [startCmd_of_startable h]
  refine if_neg ?_
  rintro ⟨-, hlow | hh | hb⟩
  · exact absurd hcredit (Int.not_le.mpr hlow)
  · exact absurd (hheld.symm.trans hh) (by decide)
  · exact absurd (hbrake.symm.trans hb) (by decide)

/-! ### Starts and stops -/

theorem startProgram_eq (h : Startable s r c 2) : exec (.startProgram r) s = .next
    (let cd := cdOf (fieldB c.bytes 2 1)
     if (s.die cd).mode = .fenced then (begun s c).complete (1 + cd.val) { c with st := .started } 6 0 0
     else if (s.die cd).mode ≠ .idle ∧ (s.die cd).mode ≠ .faulted then
       (begun s c).complete (1 + cd.val) { c with st := .started } 3 0 0
     else if fieldB c.bytes 8 6 % 16 ≠ 0 then (begun s c).complete (1 + cd.val) { c with st := .started } 7 0 0
     else (begun s c).setDie cd ((s.die cd).start (fieldB c.bytes 8 6) (fieldB c.bytes 16 6) { c with st := .started })) := by
  have hgo : exec (.startProgram r) s = .next (match s.startCmd r 2 with
    | some (c, t) =>
      let cd := cdOf (fieldB c.bytes 2 1)
      let m := (t.die cd).mode
      if m = .fenced then t.complete (1 + cd.val) c 6 0 0
      else if m ≠ .idle ∧ m ≠ .faulted then t.complete (1 + cd.val) c 3 0 0
      else if fieldB c.bytes 8 6 % 16 ≠ 0 then t.complete (1 + cd.val) c 7 0 0
      else t.updDie cd (fun d => d.start (fieldB c.bytes 8 6) (fieldB c.bytes 16 6) c)
    | none => s) := rfl
  rw [hgo, startCmd_of_startable h]
  rfl

theorem stopProgram_eq {abort : Bool} (h : Startable s r c 3) (hbit : bitAt (fieldB c.bytes 8 1) 0 = abort) : stopProgram r abort s =
    (let cd := cdOf (fieldB c.bytes 2 1)
     if (s.die cd).mode = .fenced then (begun s c).complete (1 + cd.val) { c with st := .started } 6 0 0
     else if (s.die cd).mode = .idle ∨ (s.die cd).mode = .faulted then
       (begun s c).complete (1 + cd.val) { c with st := .started } 3 0 0
     else (begun s c).setDie cd ((s.die cd).stop abort [{ c with st := .started }])) := by
  unfold stopProgram
  rw [h.1]
  dsimp only
  rw [if_neg (not_not.mpr hbit), startCmd_of_startable h]
  rfl

theorem endWait_eq (d : Die) : d.endWait = { d with stall := d.endWait.stall, semBack := d.endWait.semBack } := by
  unfold Die.endWait
  split <;> rfl

theorem endWait_access {d : Die} {op rd y h} (hs : d.stall = .access op rd y h) : d.endWait.stall = d.stall := by
  unfold Die.endWait
  rw [hs]
  exact hs

theorem endWait_other {d : Die} (hs : ∀ op rd y h, d.stall ≠ .access op rd y h) : d.endWait.stall = .none := by
  unfold Die.endWait
  split
  · next heq => exact absurd heq (hs _ _ _ _)
  · rfl
  · rfl

theorem endWait_semAcq {d : Die} {dev y n k} (hs : d.stall = .semAcq dev y n .sent k) : (k, dev, y, n) ∈ d.endWait.semBack := by
  unfold Die.endWait
  rw [hs]
  exact List.mem_append_right _ (.head _)

theorem stop_eq (d : Die) (abort : Bool) (cs : List Cmd) : ∃ sb, d.stop abort cs = { d with
    mode := .stopping, stall := d.endWait.stall, semBack := d.endWait.semBack, stopCmds := d.stopCmds ++ cs, sb := sb
    dropped := (if d.mode = .stopping then d.dropped else 0) + (d.ops.filter (fun o => abort && o.st == .queued)).length
    ops := d.ops.filter (fun o => !(abort && o.st == .queued)) } := by
  unfold Die.stop
  rw [endWait_eq]
  cases abort with
  | false =>
    refine ⟨d.sb, ?_⟩
    simp
  | true =>
    refine ⟨_, rfl⟩

theorem startProgram_starts (h : Startable s r c 2)
    (hmode : (s.die (cdOf (fieldB c.bytes 2 1))).mode = .idle ∨ (s.die (cdOf (fieldB c.bytes 2 1))).mode = .faulted)
    (ha : fieldB c.bytes 8 6 % 16 = 0) : exec (.startProgram r) s = .next ((begun s c).setDie (cdOf (fieldB c.bytes 2 1))
      ((s.die (cdOf (fieldB c.bytes 2 1))).start (fieldB c.bytes 8 6) (fieldB c.bytes 16 6) { c with st := .started })) := by
  rw [startProgram_eq h]
  dsimp only
  rw [if_neg (by rcases hmode with hm | hm <;> rw [hm] <;> decide), if_neg (by tauto), if_neg (not_not.mpr ha)]

/-- What a started program begins with (R182). -/
theorem start_facts (d : Die) (entry arg : Nat) (c : Cmd) : (d.start entry arg c).mode = .running ∧
    (d.start entry arg c).pc = BitVec.ofNat 48 entry ∧ (d.start entry arg c).fault = 0 ∧ (d.start entry arg c).stall = .none ∧
    (d.start entry arg c).icache = [] ∧ (d.start entry arg c).clk = 0 ∧ (∀ i : Fin 32, (d.start entry arg c).s[i] = 0) ∧
    (∀ i : Fin 16, (d.start entry arg c).cnt[i] = ⟨0, 0⟩) ∧ (d.start entry arg c).a[0] = BitVec.ofNat 48 arg ∧
    (∀ i : Fin 16, i ≠ 0 → (d.start entry arg c).a[i] = 0) ∧ (∀ i : Fin 8, (d.start entry arg c).p[i] = decide (i = 0)) ∧
    (d.start entry arg c).tuns = d.tuns ∧ (d.start entry arg c).startCmd = some c := by
  refine ⟨rfl, rfl, rfl, rfl, rfl, rfl, fun i => ?_, fun i => ?_, Vector.getElem_set_self _, fun i hi => ?_, fun i => ?_, rfl, rfl⟩
  · exact Vector.getElem_replicate _
  · exact Vector.getElem_replicate _
  · refine (Vector.getElem_set_ne (i := 0) (by decide) i.isLt fun h0 => hi (Fin.ext h0.symm)).trans (Vector.getElem_replicate _)
  · have hp : (d.start entry arg c).p = (Vector.replicate 8 false).set 0 true := rfl
    rw [hp]
    revert i
    decide

theorem stop_running {d : Die} (hmode : d.mode = .running) (abort : Bool) (c : Cmd) : (d.stop abort [c]).mode = .stopping ∧
    (∀ op rd y h, d.stall = .access op rd y h → (d.stop abort [c]).stall = d.stall) ∧
    ((∀ op rd y h, d.stall ≠ .access op rd y h) → (d.stop abort [c]).stall = .none) ∧
    (∀ dev y k n, d.stall = .semAcq dev y n .sent k → (k, dev, y, n) ∈ (d.stop abort [c]).semBack) ∧
    (d.stop abort [c]).ops = d.ops.filter (fun o => !(abort && o.st == .queued)) ∧
    (d.stop abort [c]).dropped = (d.ops.filter (fun o => abort && o.st == .queued)).length ∧
    (d.stop abort [c]).cnt = d.cnt ∧ (d.stop abort [c]).s = d.s ∧ (d.stop abort [c]).stopCmds = d.stopCmds ++ [c] := by
  obtain ⟨sb, heq⟩ := stop_eq d abort [c]
  rw [heq, hmode]
  exact ⟨rfl, fun _ _ _ _ h => endWait_access h, fun h => endWait_other h, fun _ _ _ _ h => endWait_semAcq h, rfl, Nat.zero_add _, rfl, rfl, rfl⟩

theorem stopProgram_ends {i : Instr} {abort : Bool} (hi : ∀ u, exec i u = .next (stopProgram r abort u)) (hreset : s.host.resetting = 0)
    (h : Startable s r c 3) (hbit : bitAt (fieldB c.bytes 8 1) 0 = abort) :
    ((s.die (cdOf (fieldB c.bytes 2 1))).mode = .idle ∨ (s.die (cdOf (fieldB c.bytes 2 1))).mode = .faulted →
      CompletesWith i s { c with st := .started } (1 + (cdOf (fieldB c.bytes 2 1)).val) 3 0) ∧
    ((s.die (cdOf (fieldB c.bytes 2 1))).mode = .fenced →
      CompletesWith i s { c with st := .started } (1 + (cdOf (fieldB c.bytes 2 1)).val) 6 0) := by
  refine ⟨fun hm => completes_of_begun hreset ?_, fun hm => completes_of_begun hreset ?_⟩ <;> rw [hi, stopProgram_eq h hbit] <;> dsimp only
  · rw [if_neg (by rcases hm with hm | hm <;> rw [hm] <;> decide), if_pos hm]
  · rw [if_pos hm]

theorem stopProgram_stops {abort : Bool} (h : Startable s r c 3) (hbit : bitAt (fieldB c.bytes 8 1) 0 = abort)
    (hm : (s.die (cdOf (fieldB c.bytes 2 1))).mode = .running ∨ (s.die (cdOf (fieldB c.bytes 2 1))).mode = .stopping) :
    stopProgram r abort s = (begun s c).setDie (cdOf (fieldB c.bytes 2 1))
      ((s.die (cdOf (fieldB c.bytes 2 1))).stop abort [{ c with st := .started }]) := by
  rw [stopProgram_eq h hbit]
  dsimp only
  rw [if_neg (by rcases hm with hm | hm <;> rw [hm] <;> decide), if_neg (by rcases hm with hm | hm <;> rw [hm] <;> decide)]

end

theorem ringCommandResults : RingCommandResults := by
  intro s r c hreset cd a n
  refine ⟨ringNop_completes hreset, fun h hfree hn _ hm hp hf => writeCmd_writes rfl rfl hreset h hfree hn hm hp hf,
    fun h hfree => ⟨fun ho => writeCmd_stops hreset h hfree (writeStatus_outside ho) (by decide), fun hn hm => ⟨fun i hi hf => ?_, fun hf hp => ?_⟩⟩,
    fun m h hm hcredit hheld hbrake => ?_, fun h hmode ha => ?_, fun h hmode ha => ?_, fun h hmode => ?_, fun h hmode => ?_,
    fun x hx h hbit => ?_⟩
  · exact writeCmd_stops hreset h hfree ((writeStatus_inside hn hm).trans (if_pos (any_fenced_of_mode hi hf))) (by decide)
  · exact writeCmd_stops hreset h hfree ((writeStatus_inside hn hm).trans ((if_neg (not_any_fenced hf)).trans (if_pos hp))) (by decide)
  · obtain ⟨u, hu⟩ : ∃ u, u = { begun s c with led := dmaDebited s m c.bytes } := ⟨_, rfl⟩
    have hgo := startDma_queues h hm hcredit hheld hbrake
    rw [← hu] at hgo
    obtain ⟨q, hq⟩ := queueMover_rest u m ⟨some { c with st := .started }, none, c.bytes, []⟩
    refine ⟨_, congrArg Host.Outcome.next hgo, fun hnil => ?_, fun j l hcons hj => ?_, ?_, ?_, ?_⟩
    · rw [queueMover_first (by rw [hu]; exact hnil) ⟨rfl, rfl⟩, hu]
      rfl
    · rw [queueMover_behind (by rw [hu]; exact hcons) hj, hu]
    · rw [hq, hu]
    · rw [hq, hu]
      exact Vector.getElem_set_self _
    · rw [hq, hu]
  · obtain ⟨h1, h2, h3, h4, h5, h6, h7, h8, h9, h10, h11, h12, h13⟩ := start_facts (s.die cd) a (fieldB c.bytes 16 6) { c with st := .started }
    refine ⟨_, startProgram_starts h hmode ha, ?_⟩
    rw [State.die_setDie_self]
    exact ⟨h1, h2, h3, h4, h5, h6, h7, h8, h9, h10, h11, h12, h13, rfl, rfl, fun k hk => State.die_setDie_ne _ _ hk⟩
  · refine completes_of_begun hreset ((startProgram_eq h).trans ?_)
    dsimp only
    rw [if_neg (by rcases hmode with hm | hm <;> rw [hm] <;> decide), if_neg (by tauto), if_pos ha]
  · refine completes_of_begun hreset ((startProgram_eq h).trans ?_)
    dsimp only
    rw [if_neg (by rcases hmode with hm | hm <;> rw [hm] <;> decide), if_pos (by rcases hmode with hm | hm <;> rw [hm] <;> decide)]
  · refine completes_of_begun hreset ((startProgram_eq h).trans ?_)
    dsimp only
    rw [if_pos hmode]
  · obtain ⟨i, abort⟩ := x
    have hi : ∀ u, exec i u = .next (stopProgram r abort u) := by
      simp only [List.mem_cons, List.not_mem_nil, or_false, Prod.mk.injEq] at hx
      rcases hx with ⟨rfl, rfl⟩ | ⟨rfl, rfl⟩ <;> exact fun _ => rfl
    obtain ⟨hended, hfenced⟩ := stopProgram_ends hi hreset h hbit
    refine ⟨fun hm => ?_, fun hm => ?_, hended, hfenced⟩
    · refine ⟨_, (hi s).trans (congrArg Host.Outcome.next (stopProgram_stops h hbit (.inl hm))), ?_⟩
      rw [State.die_setDie_self]
      obtain ⟨h1, h2, h3, h4, h5, h6, h7, h8, h9⟩ := stop_running hm abort { c with st := .started }
      exact ⟨h1, h2, h3, h4, h5, h6, h7, h8, h9, rfl, rfl⟩
    · refine ⟨_, (hi s).trans (congrArg Host.Outcome.next (stopProgram_stops h hbit (.inr hm))), ?_⟩
      rw [State.die_setDie_self]
      obtain ⟨sb, heq⟩ := stop_eq (s.die cd) abort [{ c with st := .started }]
      rw [heq, hm]
      exact ⟨rfl, rfl, rfl, rfl, rfl⟩

/-! ### The rows of a DMA -/

section
variable {s : State} {m : Fin 16} {c : Cmd} {wins : List Nat} {rest : List MoverJob} {host : HostData} {b : List Byte}

/-- Between two addresses outside the windows of dies and closer than they are wide, no address is in one. -/
theorem winDie_none_between {lo hi x : Nat} (hlo : winDie lo = none) (hhi : winDie hi = none) (h1 : lo ≤ x) (h2 : x ≤ hi) (hw : hi < lo + 2 ^ 24) :
    winDie x = none := by
  unfold winDie at *
  refine if_neg fun hx => ?_
  have hl : ¬(0x050000000000 ≤ lo ∧ lo < 0x050C00000000) := fun h => by rw [if_pos h] at hlo; cases hlo
  have hh : ¬(0x050000000000 ≤ hi ∧ hi < 0x050C00000000) := fun h => by rw [if_pos h] at hhi; cases hhi
  omega

/-- One row outside the windows of dies has no tile. -/
theorem tilesOfRows_one_none {a len stride : Nat} (hlen : len < 2 ^ 24) (hlo : winDie a = none) (hhi : winDie (a + (len - 1)) = none) :
    tilesOfRows a len stride 1 = [] := by
  have hnone (i : Nat) : tileOf (min (a + 0 * stride + i * 4096) (a + 0 * stride + (len - 1))) = none := by
    have hw : winDie (min (a + 0 * stride + i * 4096) (a + 0 * stride + (len - 1))) = none :=
      winDie_none_between hlo hhi (by omega) (by omega) (by omega)
    rw [tileOf, hw]
  unfold tilesOfRows
  simp only [List.range_one, List.flatMap_cons, List.flatMap_nil, List.append_nil, hnone]
  rw [List.filterMap_eq_nil_iff.mpr fun _ _ => rfl]
  rfl

/-- One row between clear ranges: the source's bytes stand at the destination. -/
theorem dmaRun_one {v : HostView} (hrows : fieldB b 28 2 = 0) (hflag : fieldB b 40 6 = 0) (hsrc : Plain s (dmaSrc b) (dmaLen b))
    (hdst : Plain s (dmaDst b) (dmaLen b)) (hapart : dmaSrc b + dmaLen b ≤ dmaDst b ∨ dmaDst b + dmaLen b ≤ dmaSrc b)
    (hs : s.rowStatus (dmaSrc b) (dmaLen b) = 0) (hd : s.rowStatus (dmaDst b) (dmaLen b) = 0) :
    ∃ t, s.dmaRun b v = (t, 0, dmaLen b) ∧ Stored s t (dmaDst b) (s.bytes (dmaSrc b) (dmaLen b)) := by
  obtain ⟨hstored, hpoison⟩ := stored_moveBytes v (clear_of_plain hsrc) (clear_of_plain hdst) hapart false (f := dmaLen b / 64 + 2) (by omega)
  refine ⟨_, ?_, hstored⟩
  have hone : dmaRows b = 1 := by rw [dmaRows, hrows]
  unfold State.dmaRun
  dsimp only
  rw [hone, moveRows_one v (clear_of_plain hsrc) ((Movements.rowStatusIn_of_mapped hsrc.1 _).trans hs)
    ((Movements.rowStatusIn_of_mapped hdst.1 _).trans hd), hpoison, if_neg fun h => h.2 hflag, Nat.zero_add, Nat.one_mul]
  rfl

/-- A mover without the work at the head of its queue. -/
def dequeued (s : State) (m : Fin 16) (rest : List MoverJob) : State :=
  { s with host := { s.host with movers := s.host.movers.set m rest } }

/-- The head of a mover whose tiles are free and whose lines do not wait. -/
theorem dmaTransferEnd_goes (hq : s.host.movers[m] = ⟨some c, none, b, wins⟩ :: rest) (hb : b ≠ []) (htiles : s.moverTiles m.val b = s)
    (hhas : s.sbHas (whoMover m.val) = false) (hheld : s.dmaHeld b = false) {t : State} {len : Nat}
    (hrun : s.dmaRun b ⟨wins, host⟩ = (t, 0, len)) : dmaTransferEnd m host s = State.complete
      ((dequeued (t.sbDrop (whoMover m.val)) m rest).beginMover m) (13 + m.val) c 0 len 0 := by
  have haccept : acceptHelperDma m host s = s := by
    unfold acceptHelperDma
    rw [hq]
  unfold dmaTransferEnd
  rw [haccept]
  dsimp only
  rw [hq]
  dsimp only
  rw [if_neg hb, htiles, if_neg (by rw [sbHeld_of_not_sbHas hhas, hheld]; simp), hrun]
  rfl

end

theorem dmaMovesRow : DmaMovesRow := by
  intro s m c wins rest host hostOk b src dst len hq hheld hb hreset hlen hrows hflag hapart hsb hs1 hs2 hd1 hd2 hms hmd hrs hrd hps hpd
  have hshort : len < 2 ^ 24 := fieldB_lt b 24 3
  have hhas (who : Nat) : s.sbHas who = false := List.any_eq_false.mpr fun i _ => by rw [hsb]; exact Bool.false_ne_true
  have hone : dmaRows b = 1 := by rw [dmaRows, hrows]
  have htiles : s.moverTiles m.val b = s := by
    rw [State.moverTiles, hone, tilesOfRows_one_none (a := dmaSrc b) (len := dmaLen b) hshort hs1 hs2,
      tilesOfRows_one_none (a := dmaDst b) (len := dmaLen b) hshort hd1 hd2, State.sbEnter, if_neg (by rw [hhas]; decide)]
    exact sbMove_nil ..
  obtain ⟨t, hrun, hstored⟩ := dmaRun_one (v := ⟨wins, hostGot hostOk host⟩) hrows hflag ⟨hms, hps⟩ ⟨hmd, hpd⟩ hapart hrs hrd
  have hgo := dmaTransferEnd_goes hq hb htiles (hhas _) hheld hrun
  have hbytes := hstored.bytes_eq
  have honly := hstored.onlyBytes
  rw [length_bytes] at hbytes honly
  obtain ⟨⟨mem, rfl⟩, -⟩ := hstored
  obtain ⟨q, hbegin, hdescs⟩ := beginMover_facts (dequeued (State.sbDrop { s with mem := mem } (whoMover m.val)) m rest) m
  rw [hbegin, complete_eq] at hgo
  have hmovers (h : HostSt) (e : Entry) : (holding h e).movers = h.movers := by unfold holding; split <;> rfl
  refine ⟨_, _, congrArg Host.Outcome.next hgo, hbytes, honly, ?_, holding_heldQ (h := without { s.host with movers := q } c) hreset _,
    isCompletion_completion .., rfl⟩
  rw [hmovers]
  refine hdescs.trans ?_
  exact congrArg (List.map _) (Vector.getElem_set_self _)

/-- Settles O22: by the command at the front of its ring, and the row at the head of a mover. -/
theorem ringCommands : Obligations.RingCommands := ⟨ringCommandResults, dmaMovesRow⟩

end Sys2Proof.Proofs.RingCommandsRun
end

section
/-! PROOF. The timers of reliable delivery, and the registers of memory layout and delivery. -/

namespace Sys2Proof.Proofs.DeliveryTimes

open Sys2Proof.Machine
open Sys2Proof.Claims hiding holding
open Sys2Proof.Proofs.ByteFields Sys2Proof.Proofs.Flows Sys2Proof.Proofs.Arrivals Sys2Proof.Proofs.Payloads Sys2Proof.Proofs.Registers

/-! ### Flows refilled -/

theorem txFind_txDrop (l : List TxFlow) (d g : Nat) : txFind (txDrop l d g) d g = none := by
  rw [txFind, List.find?_eq_none]
  intro f hf
  simpa [txDrop, not_and_or, imp_iff_not_or] using (List.mem_filter.mp hf).2

theorem key_of_txFind {l : List TxFlow} {d g : Nat} {f : TxFlow} (h : txFind l d g = some f) : f.dst = d ∧ f.flow = g := by
  simpa using List.find?_some h

/-- What refilling leaves: other fields, the packets ejected but for those to this device, and a flow with none waiting. -/
structure Refilled (s t : State) : Prop where
  rest : ∃ tx inj ej, t = { s with fab := { s.fab with tx := tx, inj := inj, eject := ej } }
  eject : ∀ q : Fin 9, q ≠ 8 → t.fab.eject[q] = s.fab.eject[q]
  flow : ∀ d g, (∀ f, txOf s d g = some f → f.backlog = []) → txOf t d g = txOf s d g

theorem Refilled.refl (s : State) : Refilled s s := ⟨⟨_, _, _, rfl⟩, fun _ _ => rfl, fun _ _ _ => rfl⟩

theorem Refilled.trans {s t u : State} (h : Refilled s t) (h' : Refilled t u) : Refilled s u := by
  refine ⟨?_, fun q hq => (h'.eject q hq).trans (h.eject q hq), fun d g hf => ?_⟩
  · obtain ⟨_, _, _, ht⟩ := h.rest
    obtain ⟨tx, inj, ej, hu⟩ := h'.rest
    exact ⟨tx, inj, ej, by rw [hu, ht]⟩
  · have hst := h.flow d g hf
    exact (h'.flow d g fun f hft => hf f (hst ▸ hft)).trans hst

theorem refilled_inject (s : State) (bd : Fin 4) (p : Packet) : Refilled s (s.inject bd p) := by
  refine ⟨?_, fun q hq => ?_, fun d g _ => by rw [txOf, inject_tx]⟩ <;> unfold State.inject <;> split
  · exact ⟨s.fab.tx, s.fab.inj, _, rfl⟩
  · exact ⟨s.fab.tx, _, s.fab.eject, rfl⟩
  · exact Vector.getElem_set_ne (i := 8) (by decide) q.isLt fun h => hq (Fin.ext h.symm)
  · rfl

/-- A flow with packets waiting put back changes no flow that has none. -/
theorem refilled_put {s : State} {bd : Fin 4} {f g : TxFlow} (h : txFind s.fab.tx[bd] g.dst g.flow = some f) (hbd : flowBd g.flow = bd)
    (hwait : f.backlog ≠ []) :
    Refilled s { s with fab := { s.fab with tx := s.fab.tx.set bd (txPut s.fab.tx[bd] g) } } := by
  refine ⟨⟨_, s.fab.inj, s.fab.eject, rfl⟩, fun _ _ => rfl, fun d k hnone => ?_⟩
  subst hbd
  refine txFind_set_ne s.fab.tx ?_ (flowBd g.flow)
  by_cases hd : d = g.dst
  · refine .inr fun hk => hwait (hnone f ?_)
    rw [hd, hk]
    exact h
  · exact .inl hd

theorem refilled_refill (n : Nat) (s : State) (dst flow : Nat) : Refilled s (s.refill dst flow n) := by
  induction n generalizing s with
  | zero => exact .refl s
  | succ n ih =>
    unfold State.refill
    dsimp only
    cases hf : txFind s.fab.tx[flowBd flow] dst flow with
    | none => exact .refl s
    | some f =>
      obtain ⟨hd, hg⟩ := key_of_txFind hf
      dsimp only
      cases hb : f.backlog with
      | nil => exact .refl s
      | cons t rest =>
        dsimp only
        split
        · exact ((refilled_put (f := f) (by dsimp only; rw [hd, hg]; exact hf) (by dsimp only; rw [hg]) (by rw [hb]; exact List.cons_ne_nil _ _)).trans
            (refilled_inject ..)).trans (ih _)
        · exact .refl s

theorem refilled_refillAll (s : State) (bd : Fin 4) : Refilled s (s.refillAll bd) := by
  have hall (l : List TxFlow) (u : State) : Refilled u (l.foldl (fun t f => t.refill f.dst f.flow 64) u) := by
    induction l generalizing u with
    | nil => exact .refl u
    | cons f l ih => exact (refilled_refill ..).trans (ih _)
  exact hall _ _

/-! ### Acknowledgement -/

section
variable {s : State} {q : Fin 9} {p : Packet} {rest : List (Packet × Bool)} {f : TxFlow} {peer flow : Nat}

theorem takePacket_ack (hq : s.fab.eject[q] = (p, false) :: rest) (hty : p.type = 0x02) (hlen : p.len = 16) :
    takePacket q (fun p => p.type == 0x02) takeAck s = takeAck p (s.popEject q) := by
  have hhead : s.head q = some (p, false) := by rw [State.head, hq, List.head?_cons]
  have hflow : typeOnFlow p.type = false := by rw [hty]; rfl
  have hleast : lenLeast p = 16 := by
    unfold lenLeast
    rw [hty]
    rfl
  have hformat : formatValid p = true := by simp [formatValid, lenValid, hty, hlen, hleast, typeOnFlow]
  unfold takePacket
  rw [hhead]
  dsimp only
  rw [if_neg (by rw [hty]; decide), if_neg Bool.false_ne_true, if_pos (by rw [hflow]; decide), if_pos hformat]

theorem takeAck_one (hlen : p.len = 16) (u : State) : takeAck p u = u.takeRecord p.src (sliceB p.payload 0 16) := by
  unfold takeAck
  rw [hlen]
  rfl

/-- The flow once a record has released the packets that it names. -/
abbrev released (f : TxFlow) (next map : Nat) : TxFlow :=
  { f with opened := true, unacked := f.unacked.filter (fun x => !recordHas next map x.pkt.seq) }

theorem foldl_none {α β : Type} {g : β → α → β} {l : List α} {b : β} (h : ∀ a ∈ l, ∀ b, g b a = b) : l.foldl g b = b := by
  induction l with
  | nil => rfl
  | cons a l ih => rw [List.foldl_cons, h a (.head _)]; exact ih fun x hx => h x (.tail _ hx)

theorem takeRecord_releases {b : List Byte} (hflow : fieldB b 0 2 = flow) (hself : fieldB b 4 4 % 2 ^ 20 = s.selfCoord)
    (hreset : bitAt (fieldB b 2 1) 0 = false) (hf : txOf s peer flow = some f) (hnone : ∀ x ∈ f.unacked, x.owner = .none) :
    s.takeRecord peer b = State.refillAll { s with fab := { s.fab with
      tx := s.fab.tx.set (flowBd flow) (txPut s.fab.tx[flowBd flow] (released f (fieldB b 8 3) (fieldB b 12 4))) } } (flowBd flow) := by
  have hf' : txFind s.fab.tx[flowBd flow] peer flow = some f := hf
  unfold State.takeRecord
  simp only [hself, hflow, hf', hreset, ne_eq, not_true_eq_false, Bool.false_eq_true, if_false]
  refine foldl_none fun x hx u => ?_
  rw [hnone x (List.mem_of_mem_filter hx)]
  rfl

theorem ackPacket_acks (hq : s.fab.eject[q] = (p, false) :: rest) (hty : p.type = 0x02) (hlen : p.len = 16) (hsrc : p.src = peer)
    (hflow : fieldB p.payload 0 2 = flow) (hself : fieldB p.payload 4 4 % 2 ^ 20 = s.selfCoord)
    (hreset : bitAt (fieldB p.payload 2 1) 0 = false) (hf : txOf s peer flow = some f) (hd : f.dst = peer) (hg : f.flow = flow)
    (hback : f.backlog = []) (hnone : ∀ x ∈ f.unacked, x.owner = .none) :
    ∃ t, Gives (.ackPacket q) s t ∧ (q ≠ 8 → t.fab.eject[q] = rest) ∧ t.mem = s.mem ∧ t.dies = s.dies ∧
        txOf t peer flow = some (released f (fieldB p.payload 8 3) (fieldB p.payload 12 4)) := by
  have hfield (m k : Nat) (h : m + k ≤ 16) : fieldB (sliceB p.payload 0 16) m k = fieldB p.payload m k := by
    rw [fieldB_sliceB _ h, Nat.zero_add]
  obtain ⟨u, hu⟩ : ∃ u : State, u = { s.popEject q with fab := { (s.popEject q).fab with
      tx := s.fab.tx.set (flowBd flow) (txPut s.fab.tx[flowBd flow] (released f (fieldB p.payload 8 3) (fieldB p.payload 12 4))) } } := ⟨_, rfl⟩
  have hrec : (s.popEject q).takeRecord p.src (sliceB p.payload 0 16) = u.refillAll (flowBd flow) := by
    rw [hsrc, takeRecord_releases (s := s.popEject q) (peer := peer) (flow := flow) (f := f) ((hfield _ _ (by decide)).trans hflow)
      (by rw [hfield _ _ (by decide)]; exact hself) (by rw [hfield _ _ (by decide)]; exact hreset) hf hnone, hfield _ _ (by decide), hfield _ _ (by decide), hu]
    rfl
  have hgo : exec (.ackPacket q) s = .next (u.refillAll (flowBd flow)) :=
    congrArg Host.Outcome.next ((takePacket_ack hq hty hlen).trans ((takeAck_one hlen _).trans hrec))
  have htx : txOf u peer flow = some (released f (fieldB p.payload 8 3) (fieldB p.payload 12 4)) := by
    have hput := txFind_txPut_self s.fab.tx[flowBd flow] (released f (fieldB p.payload 8 3) (fieldB p.payload 12 4))
    rw [show (released f (fieldB p.payload 8 3) (fieldB p.payload 12 4)).dst = peer from hd,
      show (released f (fieldB p.payload 8 3) (fieldB p.payload 12 4)).flow = flow from hg] at hput
    rw [hu, txOf]
    refine (congrArg (fun l => txFind l peer flow) (Vector.getElem_set_self _)).trans hput
  have hfill := refilled_refillAll u (flowBd flow)
  refine ⟨_, hgo, fun hq8 => ?_, ?_, ?_, ?_⟩
  · rw [hfill.eject q hq8, hu]
    refine (Vector.getElem_set_self _).trans ?_
    rw [hq]
    rfl
  · obtain ⟨_, _, _, hrest⟩ := hfill.rest
    rw [hrest, hu]
    rfl
  · obtain ⟨_, _, _, hrest⟩ := hfill.rest
    rw [hrest, hu]
    rfl
  · rw [hfill.flow _ _ fun g hg' => ?_, htx]
    rw [htx] at hg'
    rw [← Option.some.inj hg']
    exact hback

/-! ### Timers -/

theorem ackRecord_fields (g : RxFlow) (r : Bool) : fieldB (ackRecord g r) 0 2 = g.flow % 2 ^ 16 ∧ fieldB (ackRecord g r) 8 3 = g.next % 2 ^ 24 := by
  unfold ackRecord
  constructor
  · rw [fieldB_append_left _ (by simp [MemoryAccess.length_natLE]), fieldB_append_left _ (by simp [MemoryAccess.length_natLE]),
      fieldB_append_left _ (by simp [MemoryAccess.length_natLE]), fieldB_append_left _ (by simp [MemoryAccess.length_natLE]),
      fieldB_append_left _ (by simp [MemoryAccess.length_natLE]), fieldB_natLE]
    rfl
  · rw [fieldB_append_left _ (by simp [MemoryAccess.length_natLE]), fieldB_append_left _ (by simp [MemoryAccess.length_natLE]),
      fieldB_append_right _ (by simp [MemoryAccess.length_natLE])]
    simp only [List.length_append, MemoryAccess.length_natLE, List.length_cons, List.length_nil, Nat.reduceAdd, Nat.sub_self]
    rw [fieldB_natLE]
    rfl

theorem ackDelayExpire_sends {g : RxFlow} (hg : rxFind s.fab.rx[flowBd flow] peer flow = some g) (hsrc : g.src = peer) (hflow : g.flow = flow)
    (hun : g.unacked ≠ 0) (hself : peer ≠ s.selfCoord) (hpeer : peer < 2 ^ 20) :
      ∃ t p, Gives (.ackDelayExpire peer flow) s t ∧ t.mem = s.mem ∧
        t.fab.inj[flowBd flow] = s.fab.inj[flowBd flow] ++ [p] ∧ p.type = 0x02 ∧ p.dst = peer ∧
        fieldB p.payload 0 2 = g.flow % 2 ^ 16 ∧ fieldB p.payload 8 3 = g.next % 2 ^ 24 ∧
        rxFind t.fab.rx[flowBd flow] peer flow = some { g with unacked := 0 } := by
  subst hsrc hflow
  obtain ⟨u, hu⟩ : ∃ u, u = s.putRx (flowBd g.flow) { g with unacked := 0 } := ⟨_, rfl⟩
  have hgo : ackDelay g.src g.flow s =
      u.inject (flowBd g.flow) (u.mkPacket g.src 0x02 0 16 false 0 (ackRecord { g with unacked := 0 } false)) := by
    unfold ackDelay
    dsimp only
    rw [hg]
    dsimp only
    rw [if_neg hun, hu]
    rfl
  have hdst : (u.mkPacket g.src 0x02 0 16 false 0 (ackRecord { g with unacked := 0 } false)).dst = g.src := Nat.mod_eq_of_lt hpeer
  have hinj := inject_inj (s := u) (p := u.mkPacket g.src 0x02 0 16 false 0 (ackRecord { g with unacked := 0 } false))
    (by rw [hdst, hu]; exact hself) (flowBd g.flow)
  obtain ⟨hf0, hf8⟩ := ackRecord_fields { g with unacked := 0 } false
  refine ⟨_, _, congrArg Host.Outcome.next hgo, by rw [inject_mem, hu]; rfl, ?_, rfl, hdst, (fieldB_payload _ (by decide)).trans hf0,
    (fieldB_payload _ (by decide)).trans hf8, ?_⟩
  · rw [hinj]
    refine (Vector.getElem_set_self _).trans ?_
    rw [hu]
    rfl
  · rw [inject_rx, hu]
    exact rxFind_putRx s (flowBd g.flow) { g with unacked := 0 }

/-- A packet sent again (R297). -/
abbrev again (s : State) (f : TxFlow) (x : TxPkt) : Packet :=
  { (x.pkt : Packet) with age := 0, epoch := fld (s.reg 0x4000) 8 2, opened := !f.opened }

theorem selfCoord_countReg (s : State) {o : Nat} (h : o ≠ 0x4000) (n : Nat) : (s.countReg o n).selfCoord = s.selfCoord := by
  unfold State.selfCoord
  rw [reg_countReg_ne _ _ h.symm]
  rfl

theorem retransmit_sends {x : TxPkt} (hf : txOf s peer flow = some f) (hx : f.unacked.find? (fun y => y.pkt.seq == x.pkt.seq) = some x)
    (htries : x.tries < fld (s.reg 0x4018) 16 4) (hself : x.pkt.dst ≠ s.selfCoord) :
    ∃ t, Gives (.retransmitTimeout peer flow x.pkt.seq) s t ∧ t.reg 0x408C = satAdd32 (s.reg 0x408C) 1 ∧ t.mem = s.mem ∧
      t.fab.inj[flowBd flow] = s.fab.inj[flowBd flow] ++ [again s f x] := by
  have hf' : txFind s.fab.tx[flowBd flow] peer flow = some f := hf
  obtain ⟨u, hu⟩ : ∃ u : State, u = { s with fab := { s.fab with
      tx := s.fab.tx.set (flowBd flow) (txPut s.fab.tx[flowBd flow] { f with
        unacked := f.unacked.map (fun y => if y.pkt.seq = x.pkt.seq then { y with tries := y.tries + 1 } else y) })
      mapRetr := s.fab.mapRetr + 1 } } := ⟨_, rfl⟩
  have hgo : retransmit peer flow x.pkt.seq s = (u.countReg 0x408C 1).inject (flowBd flow) (again s f x) := by
    unfold retransmit
    simp only [hf', hx, htries, if_true]
    rw [hu]
    rfl
  have hinj := inject_inj (s := u.countReg 0x408C 1) (p := again s f x)
    (by rw [selfCoord_countReg _ (by decide), hu]; exact hself) (flowBd flow)
  have hregs : ((u.countReg 0x408C 1).inject (flowBd flow) (again s f x)).regs = (u.countReg 0x408C 1).regs := by
    unfold State.inject
    split <;> rfl
  refine ⟨_, congrArg Host.Outcome.next hgo, ?_, ?_, ?_⟩
  · rw [State.reg_of_regs hregs, reg_countReg_self, hu]
    rfl
  · rw [inject_mem, hu]
    rfl
  · rw [hinj]
    refine (Vector.getElem_set_self _).trans ?_
    rw [hu]
    rfl

theorem retransmit_fails {x : TxPkt} (hf : txOf s peer flow = some f) (hx : f.unacked.find? (fun y => y.pkt.seq == x.pkt.seq) = some x)
    (htries : fld (s.reg 0x4018) 16 4 ≤ x.tries) (hnone : ∀ y ∈ f.unacked ++ f.backlog, y.owner = .none) (hreset : s.host.resetting = 0)
    (hroom : s.logQ.length < 256) :
        ∃ t e, Gives (.retransmitTimeout peer flow x.pkt.seq) s t ∧ t.reg 0x4090 = satAdd32 (s.reg 0x4090) 1 ∧
          txOf t peer flow = none ∧ t.out = .maltster 0x0004 e.bytes :: s.out ∧ t.logQ = s.logQ ++ [⟨s.time, 11, 6, 0, 0xFF, flow, peer⟩] ∧ t.host.heldQ = s.host.heldQ ++ [e] ∧
          IsEvent e 0x0004 29 s.time ∧ bitAt (t.reg 0x4014) 4 = true ∧ t.mem = s.mem := by
  have hf' : txFind s.fab.tx[flowBd flow] peer flow = some f := hf
  obtain ⟨u, hu⟩ : ∃ u : State, u = { s with fab := { s.fab with
      tx := s.fab.tx.set (flowBd flow) (txDrop s.fab.tx[flowBd flow] peer flow), mapFail := s.fab.mapFail + 1 } } := ⟨_, rfl⟩
  obtain ⟨v, hv⟩ : ∃ v, v = ((u.countReg 0x4090 1).log 11 6 0 0xFF flow peer).fabEvent 16 0xFF := ⟨_, rfl⟩
  have hown (o : Owner) (ho : o ∈ (f.unacked ++ f.backlog).map (·.owner)) : o = .none := by
    obtain ⟨y, hy, rfl⟩ := List.mem_map.mp ho
    exact hnone y hy
  have hgo : retransmit peer flow x.pkt.seq s = v.refillAll (flowBd flow) := by
    unfold retransmit
    simp only [hf', hx, Nat.not_lt.mpr htries, if_false]
    unfold State.failFlow
    simp only [hf']
    rw [← hu, ← hv]
    refine foldl_none fun o ho w => ?_
    have hin : o ∈ (f.unacked ++ f.backlog).map (·.owner) := by
      rcases List.mem_append.mp ho with ho | ho
      · exact List.mem_of_mem_filter ho
      · exact List.mem_of_mem_filter (List.mem_eraseDups.mp ho)
    rw [hown o hin]
    rfl
  have hfill := refilled_refillAll v (flowBd flow)
  obtain ⟨tx, inj, ej, hrest⟩ := hfill.rest
  have hlog : (u.countReg 0x4090 1).log 11 6 0 0xFF flow peer = { u.countReg 0x4090 1 with
      logQ := s.logQ ++ [⟨s.time, 11, 6, 0, 0xFF, flow, peer⟩] } := by
    unfold State.log
    rw [if_pos (by rw [hu]; exact hroom), hu]
    rfl
  rw [hlog, fabEvent_eq] at hv
  have hgone : txOf v peer flow = none := by
    rw [hv, hu, txOf]
    exact (congrArg (fun l => txFind l peer flow) (Vector.getElem_set_self _)).trans (txFind_txDrop ..)
  have hfits : PayloadFits (fabPayload 16 0xFF) := by simp [PayloadFits, Apart, fabPayload]
  have htime : v.time = s.time := by rw [hv, hu]; rfl
  refine ⟨_, ⟨29, none, true, eventBytes 4 29 s.time (fabPayload 16 0xFF), false, 0, none⟩, congrArg Host.Outcome.next hgo, ?_, ?_, ?_, ?_, ?_,
    isEvent_eventBytes hfits _ _ _, ?_, ?_⟩
  · rw [hrest, hv]
    refine (State.reg_setReg_ne { u.countReg 0x4090 1 with logQ := s.logQ ++ [⟨s.time, 11, 6, 0, 0xFF, flow, peer⟩] } _ (by decide)).trans ?_
    refine (reg_countReg_self u 1).trans ?_
    rw [hu]
    rfl
  · rw [hfill.flow _ _ fun g hg => ?_, hgone]
    rw [hgone] at hg
    cases hg
  · rw [hrest, hv, hu]
    rfl
  · rw [hrest, hv]
  · rw [hrest, hv, hu]
    exact holding_heldQ hreset _
  · rw [hrest, hv]
    exact Setpoints.bitAt_orReg (s := { u.countReg 0x4090 1 with logQ := s.logQ ++ [⟨s.time, 11, 6, 0, 0xFF, flow, peer⟩] }) (by decide) (by decide)
  · rw [hrest, hv, hu]
    rfl

theorem senderIdle_releases (hf : txOf s peer flow = some f) (hun : f.unacked = []) (hback : f.backlog = []) :
    ∃ t, Gives (.senderFlowIdle peer flow) s t ∧ txOf t peer flow = none ∧ t.mem = s.mem := by
  have hf' : txFind s.fab.tx[flowBd flow] peer flow = some f := hf
  have hgo : senderIdle peer flow s = { s with fab := { s.fab with
      tx := s.fab.tx.set (flowBd flow) (txDrop s.fab.tx[flowBd flow] peer flow) } } := by
    unfold senderIdle
    simp only [hf', hun, hback, List.isEmpty_nil, Bool.and_true, if_true]
  exact ⟨_, congrArg Host.Outcome.next hgo,
    (congrArg (fun l => txFind l peer flow) (Vector.getElem_set_self _)).trans (txFind_txDrop ..), rfl⟩

theorem rxFind_filter_ne (l : List RxFlow) {d g d' g' : Nat} (h : d' ≠ d ∨ g' ≠ g) :
    rxFind (l.filter (fun f => !(f.src == d && f.flow == g))) d' g' = rxFind l d' g' := by
  rw [rxFind, List.find?_filter]
  refine congrArg (List.find? · l) (funext fun f => ?_)
  by_cases hk : f.src = d' ∧ f.flow = g'
  · have hkeep : (f.src == d && f.flow == g) = false := by
      rw [hk.1, hk.2]
      rcases h with h | h <;> simp [h]
    simp only [hkeep, Bool.not_false, true_and, Bool.decide_eq_true]
  · have hno : (f.src == d' && f.flow == g') = false := by simpa using hk
    rw [hno]
    simp

/-- Flows that a layer releases leave the others of every layer. -/
theorem rxFind_set_filter_ne (rx : Vector (List RxFlow) 4) {d g d' g' : Nat} (h : d' ≠ d ∨ g' ≠ g) (bd : Fin 4) :
    rxFind (rx.set bd (rx[bd].filter (fun f => !(f.src == d && f.flow == g))))[flowBd g'] d' g' = rxFind rx[flowBd g'] d' g' := by
  by_cases hb : bd = flowBd g'
  · subst hb
    simpa using rxFind_filter_ne _ h
  · rw [Fin.getElem_fin, Vector.getElem_set_ne _ _ (fun h => hb (Fin.ext h)), Fin.getElem_fin]

theorem receiverIdle_releases (s : State) (peer flow : Nat) :
    ∃ t, Gives (.receiverFlowIdle peer flow) s t ∧ rxFind t.fab.rx[flowBd flow] peer flow = none ∧ t.mem = s.mem ∧
      ∀ p g, (p ≠ peer ∨ g ≠ flow) → rxFind t.fab.rx[flowBd g] p g = rxFind s.fab.rx[flowBd g] p g := by
  refine ⟨_, rfl, ?_, rfl, fun p g hne => ?_⟩
  · refine (congrArg (fun l => rxFind l peer flow) (Vector.getElem_set_self _)).trans ?_
    rw [rxFind, List.find?_eq_none]
    intro f hf
    simpa [not_and_or, imp_iff_not_or] using (List.mem_filter.mp hf).2
  · exact rxFind_set_filter_ne s.fab.rx hne (flowBd flow)

end

theorem deliveryTimers : DeliveryTimers := by
  intro s peer flow
  refine ⟨fun q p rest f hq hty hlen hsrc hflow hself hreset hf hd hg hback hnone =>
      ackPacket_acks hq hty hlen hsrc hflow hself hreset hf hd hg hback hnone,
    fun g hg hsrc hflow hun hself hpeer => ackDelayExpire_sends hg hsrc hflow hun hself hpeer,
    fun f x hf _ _ hx => ⟨fun htries hself => retransmit_sends hf hx htries hself,
      fun htries hnone hreset hroom => retransmit_fails hf hx htries hnone hreset hroom⟩,
    fun f hf hun hback => senderIdle_releases hf hun hback, receiverIdle_releases s peer flow⟩

/-! ### Registers -/

/-- A field of a register word written through a mask that covers it. -/
theorem fld_masked {old v m lo n : Nat} (h : lo + n ≤ 32) (hm : ∀ i, i < n → m.testBit (lo + i) = true) :
    fld (((old &&& (0xFFFFFFFF ^^^ m)) ||| (v % 2 ^ 32 &&& m)) ^^^ ((((old &&& (0xFFFFFFFF ^^^ m)) ||| (v % 2 ^ 32 &&& m)) &&& (v % 2 ^ 32)) &&& 0)) lo n =
      fld v lo n := by
  refine Nat.eq_of_testBit_eq fun i => ?_
  rw [BitFields.testBit_fld, BitFields.testBit_fld]
  by_cases hi : i < n
  · have hall : (0xFFFFFFFF : Nat).testBit (lo + i) = true := by
      rw [show (0xFFFFFFFF : Nat) = 2 ^ 32 - 1 by decide, Nat.testBit_two_pow_sub_one]
      exact decide_eq_true (by omega)
    simp only [Nat.testBit_xor, Nat.testBit_or, Nat.testBit_and, hm i hi, hall, Nat.zero_testBit, Nat.testBit_mod_two_pow,
      show lo + i < 32 by omega, decide_true, Bool.true_and, Bool.and_false, Bool.and_true, Bool.false_or, Bool.xor_false, Bool.xor_self]
  · simp [hi]

/-- A field that keeps its old value where its new code is out of range (R6). -/
def kept (old new lo n least most : Nat) : Nat :=
  if least ≤ fld new lo n ∧ fld new lo n ≤ most then new else setFld new lo n (fld old lo n)

theorem fld_kept_apart (old new : Nat) {lo n lo' n' : Nat} (least most : Nat) (h : lo' + n' ≤ lo ∨ lo + n ≤ lo') :
    fld (kept old new lo n least most) lo' n' = fld new lo' n' := by
  unfold kept
  split
  · rfl
  · exact BitFields.fld_setFld_of_disjoint h _ _

theorem fld_kept_of_same {old new lo n : Nat} (least most : Nat) (h : fld new lo n = fld old lo n) :
    fld (kept old new lo n least most) lo n = fld old lo n := by
  unfold kept
  split
  · exact h
  · rw [BitFields.fld_setFld_self]
    exact Nat.mod_mod ..

theorem keepReserved_rd (old new : Nat) : keepReserved 0x401C old new =
    kept old (kept old (kept old (kept old new 0 7 1 64) 8 8 1 255) 16 8 1 255) 24 6 1 63 := rfl

theorem fabRdCtrl_takes {s : State} {v : Nat} (hready : s.ready = true) (hsame : fld v 24 6 = fld (s.reg 0x401C) 24 6)
    (h1 : 1 ≤ fld v 0 7) (h64 : fld v 0 7 ≤ 64) :
      ∃ t, Gives (.fabRdCtrlWrite v) s t ∧ fld (t.reg 0x401C) 0 7 = fld v 0 7 ∧ t.mem = s.mem ∧ t.fab = s.fab := by
  obtain ⟨new, hnew⟩ : ∃ new, new = regMerge ⟨0x401C, 4, 1, 0x080A0A40, 0x3FFFFF7F, 0⟩ 0x401C (s.reg 0x401C) (v % 2 ^ 32) := ⟨_, rfl⟩
  have hrow : regRow? 0x401C = some ⟨0x401C, 4, 1, 0x080A0A40, 0x3FFFFF7F, 0⟩ := by decide
  have hwin : fld new 0 7 = fld v 0 7 := by
    have hbits := fld_masked (old := s.reg 0x401C) (v := v) (m := 0x3FFFFF7F) (lo := 0) (n := 7) (by decide) (by decide)
    rw [hnew, regMerge, keepReserved_rd, fld_kept_apart _ _ _ _ (.inl (by decide)), fld_kept_apart _ _ _ _ (.inl (by decide)),
      fld_kept_apart _ _ _ _ (.inl (by decide)), kept, if_pos (by rw [hbits]; exact ⟨h1, h64⟩), hbits]
  have hstore : fld new 24 6 = fld (s.reg 0x401C) 24 6 := by
    have hbits := fld_masked (old := s.reg 0x401C) (v := v) (m := 0x3FFFFF7F) (lo := 24) (n := 6) (by decide) (by decide)
    rw [hnew, regMerge, keepReserved_rd, fld_kept_of_same]
    rw [fld_kept_apart _ _ _ _ (.inr (by decide)), fld_kept_apart _ _ _ _ (.inr (by decide)), fld_kept_apart _ _ _ _ (.inr (by decide)), hbits, hsame]
  have hgo : fabRdCtrlWrite v s = s.setReg 0x401C new := by
    unfold fabRdCtrlWrite
    rw [hrow]
    dsimp only
    rw [← hnew, if_neg (by rw [hready]; decide), if_neg fun h => h.1 hstore]
  refine ⟨_, congrArg Host.Outcome.next hgo, ?_, rfl, rfl⟩
  rw [State.reg_setReg_self, fld_mod_word _ _ _ (by decide), hwin]

theorem layoutWrites : LayoutWrites := by
  intro s off v hready hv
  refine ⟨fun hoff => congrArg Host.Outcome.next (if_neg ?_), fabRdCtrl_takes hready⟩
  rw [hready]
  simp only [Bool.true_eq_false, false_or, not_not]
  exact hoff

/-- Settles O27: by the packets of a flow acknowledged, sent again or given up, and the registers' own rules. -/
theorem deliveryTimersAndLayout : Obligations.DeliveryTimersAndLayout := ⟨deliveryTimers, layoutWrites⟩

end Sys2Proof.Proofs.DeliveryTimes
end

section
/-! PROOF. Packets of collectives and of the pace, taken in order. -/

namespace Sys2Proof.Proofs.CollectivePacketsTaken

open Sys2Proof.Machine Sys2Proof.Claims Sys2Proof.Proofs.Flows Sys2Proof.Proofs.Arrivals Sys2Proof.Proofs.Registers
open Sys2Proof.Proofs.MemoryAccess Sys2Proof.Proofs.ByteRanges

/-! ### What sending leaves -/

/-- Two states that differ in what is sent on flows alone. -/
def SameButSent (s t : State) : Prop := ∃ tx ej inj, t = { s with fab := { s.fab with tx := tx, eject := ej, inj := inj } }

theorem SameButSent.refl (s : State) : SameButSent s s := ⟨_, _, _, rfl⟩

theorem SameButSent.trans {s t u : State} : SameButSent s t → SameButSent t u → SameButSent s u := by
  rintro ⟨_, _, _, rfl⟩ ⟨tx, ej, inj, rfl⟩
  exact ⟨tx, ej, inj, rfl⟩

theorem sameButSent_inject (s : State) (bd : Fin 4) (p : Packet) : SameButSent s (s.inject bd p) := by
  unfold State.inject
  split
  · exact ⟨s.fab.tx, _, s.fab.inj, rfl⟩
  · exact ⟨s.fab.tx, s.fab.eject, _, rfl⟩

theorem sameButSent_sendFlow (s : State) (p : Packet) (ow : Owner) : SameButSent s (s.sendFlow p ow) := by
  unfold State.sendFlow
  dsimp only
  split
  · exact .trans ⟨_, s.fab.eject, s.fab.inj, rfl⟩ (sameButSent_inject ..)
  · exact ⟨_, s.fab.eject, s.fab.inj, rfl⟩

theorem sameButSent_foldl {α : Type} {f : State → α → State} (h : ∀ s a, SameButSent s (f s a)) (l : List α) (s : State) :
    SameButSent s (l.foldl f s) := by
  induction l generalizing s with
  | nil => exact .refl s
  | cons a l ih => exact (h s a).trans (ih _)

theorem sameButSent_relayPace (s : State) (body : List Byte) : SameButSent s (s.relayPace body) := by
  unfold State.relayPace
  split
  · exact sameButSent_foldl (fun t n => sameButSent_sendFlow ..) _ _
  · exact .refl s

/-! ### What is written leaves -/

/-- Two states that differ in memory, its poison and what was sent to the host alone. -/
def SameButWritten (s t : State) : Prop := ∃ m p o, t = { s with mem := m, poison := p, out := o }

theorem SameButWritten.refl (s : State) : SameButWritten s s := ⟨_, _, _, rfl⟩

theorem SameButWritten.trans {s t u : State} : SameButWritten s t → SameButWritten t u → SameButWritten s u := by
  rintro ⟨_, _, _, rfl⟩ ⟨m, p, o, rfl⟩
  exact ⟨m, p, o, rfl⟩

theorem sameButWritten_putChunk (s : State) (wins : List Nat) (a : Nat) (bs : List Byte) (mark : Bool) :
    SameButWritten s (s.putChunk wins a bs mark).1 := by
  unfold State.putChunk
  split
  · split
    · unfold State.poisonLine
      split
      · exact .refl s
      · exact ⟨_, _, _, rfl⟩
    · obtain ⟨m, p, h⟩ := s.writeLine_rest a bs
      exact ⟨m, p, s.out, h⟩
  · split
    · exact ⟨_, _, _, rfl⟩
    · exact .refl s

theorem sameButWritten_putBytesAt (f : Nat) (s : State) (wins : List Nat) (a : Nat) (bs : List Byte) (bads : List Bool) :
    SameButWritten s (s.putBytesAt wins a bs bads f).1 := by
  induction f generalizing s a bs bads with
  | zero => exact .refl s
  | succ f ih =>
    unfold State.putBytesAt
    split
    · exact .refl s
    · exact (sameButWritten_putChunk ..).trans (ih ..)

theorem sameButWritten_putBytes (s : State) (a : Nat) (bs : List Byte) (bads : List Bool) (f : Nat) :
    SameButWritten s (s.putBytes a bs bads f) := sameButWritten_putBytesAt ..

/-! ### Packets kept -/

section
variable {s : State} {q : Fin 9} {p : Packet} {f : RxFlow}

/-- No running collective has the tag: none goes on. -/
theorem collWake_quiet {u : State} {tag : Nat} (hq : TagQuiet s tag) (hjobs : u.coll.jobs = s.coll.jobs) : u.collWake tag = u := by
  obtain ⟨hquiet, hnodup⟩ := hq
  have hon (c : Coll) (hc : c ∈ u.coll.jobs) (ht : cTag c.b = tag) : u.collOn c.id = u := by
    have hnone : u.coll.jobs.find? (fun j => j.running && j.id == c.id) = none := by
      rw [List.find?_eq_none]
      intro j hj hcond
      obtain ⟨hrun, hid⟩ := Bool.and_eq_true_iff.mp hcond
      rw [hjobs] at hc hj
      have hjc : j = c := List.inj_on_of_nodup_map hnodup hj hc (beq_iff_eq.mp hid)
      exact hquiet j hj hrun (hjc ▸ ht)
    unfold State.collOn
    rw [hnone]
  have hall (l : List Nat) (h : ∀ i ∈ l, u.collOn i = u) : l.foldl State.collOn u = u := by
    induction l with
    | nil => rfl
    | cons i l ih => rw [List.foldl_cons, h i (.head _)]; exact ih fun j hj => h j (.tail _ hj)
  refine hall _ fun i hi => ?_
  obtain ⟨c, hc, rfl⟩ := List.mem_map.mp hi
  obtain ⟨hin, htag⟩ := List.mem_filter.mp hc
  exact hon c hin (beq_iff_eq.mp htag)

/-- A packet of a tag whose collective does not run yet is kept, as the given one. -/
theorem kept_inOrder {i : Instr} {sel : Packet → Bool} {perform : Packet → State → State} {x : Packet} (h : InOrder s q p f)
    (hi : exec i s = .next (takePacket q sel perform s)) (hsel : sel p = true) (hquiet : TagQuiet s (fld p.flow 8 6)) (hx : x.flow = p.flow)
    (hperform : ∀ u, perform p u = u.keepColl x) :
    ∃ t, Gives i s t ∧ TookInOrder t p f ∧ t.coll.arr = s.coll.arr ++ [x] ∧ t.mem = s.mem ∧ t.dies = s.dies ∧ t.coll.jobs = s.coll.jobs := by
  have hkeep : perform p (fetched s q p f) =
      { fetched s q p f with coll := { (fetched s q p f).coll with arr := (fetched s q p f).coll.arr ++ [x] } } := by
    rw [hperform, State.keepColl, hx]
    exact collWake_quiet hquiet rfl
  obtain ⟨⟨rx, ej, inj, ht⟩, htook⟩ := takePacket_inOrder h (perform := perform) hsel (by rw [hkeep])
  refine ⟨_, hi, htook, ?_⟩
  rw [ht, hkeep]
  exact ⟨rfl, rfl, rfl, rfl⟩

/-! ### A permutation's data -/

theorem cuBytes_packetUnit (hlen : p.len ≤ 256) : cuBytes ((packetUnit p).drop 16) = sliceB p.payload 16 (p.len - 16) := by
  rw [cuBytes, packetUnit, Nat.min_eq_left hlen]
  refine List.ext_getElem (by simp) fun i h1 h2 => ?_
  simp [sliceB]

theorem marks_packetUnit (hpoison : p.poison = 0) : ∀ x ∈ ((packetUnit p).drop 16).map (·.2), x = false := by
  intro x hx
  obtain ⟨y, hy, rfl⟩ := List.mem_map.mp hx
  obtain ⟨i, -, rfl⟩ := List.mem_map.mp (List.mem_of_mem_drop hy)
  rw [hpoison, bitAt_eq_testBit, Nat.zero_testBit]

theorem len_of_formatValid (h : formatValid p = true) : p.len ≤ 256 := by
  simp only [formatValid, lenValid, Bool.and_eq_true, decide_eq_true_eq] at h
  exact h.1.2.2

/-- A put that is not poisoned lands in memory that is neither. -/
theorem landPut_clean {a n : Nat} (ha : a = fieldB p.payload 0 6) (hn : n = p.len - 16) (hlen : p.len ≤ 256) (hpoison : p.poison = 0)
    (hst : s.rowStatus a n = 0) (hplain : Plain s a n) :
    ∃ t, s.landPut p = (t, 0) ∧ Stored s t a (sliceB p.payload 16 n) := by
  have hlen' : (sliceB p.payload 16 n).length = n := ByteFields.length_sliceB ..
  obtain ⟨hstored, hflag⟩ := stored_putBytesAt (s := s) (a := a) (bs := sliceB p.payload 16 n) s.windows
    (by rw [hlen']; exact clear_of_plain hplain) (marks_packetUnit hpoison) (f := 6) (by rw [hlen']; omega)
  refine ⟨_, ?_, hstored⟩
  unfold State.landPut
  dsimp only
  rw [← ha, ← hn, if_pos hst, cuBytes_packetUnit hlen, ← hn, hflag]
  rfl

theorem permutationData_lands {a n : Nat} (h : InOrder s q p f) (hquiet : TagQuiet s (fld p.flow 8 6)) (hty : p.type = 0x09)
    (hphase : fld p.flow 4 2 = 3) (hfree : s.putFree p = true) (ha : a = fieldB p.payload 0 6) (hn : n = p.len - 16) (hpoison : p.poison = 0)
    (hst : s.rowStatus a n = 0) (hm : s.rangeMapped a n = true) (hp : s.rangePoisoned a n = false) :
    ∃ t, Gives (.permutationData q) s t ∧ TookInOrder t p f ∧ t.bytes a n = sliceB p.payload 16 n ∧ OnlyBytes s t a n ∧
          t.permGot (fld p.flow 8 6) = ((s.permGot (fld p.flow 8 6)).1 + n, (s.permGot (fld p.flow 8 6)).2) := by
  have hformat := h.2.2.1
  obtain ⟨t, hland, hstored⟩ := landPut_clean (s := fetched s q p f) ha hn (len_of_formatValid hformat) hpoison hst ⟨hm, hp⟩
  have hbytes := hstored.bytes_eq
  have honly := hstored.onlyBytes
  rw [ByteFields.length_sliceB] at hbytes honly
  obtain ⟨⟨m, rfl⟩, -⟩ := hstored
  have hperform : takePermData p (fetched s q p f) = { fetched s q p f with mem := m, coll := { s.coll with
      permArr := tabSet s.coll.permArr (fld p.flow 8 6) ((s.permGot (fld p.flow 8 6)).1 + n, (s.permGot (fld p.flow 8 6)).2) } } := by
    unfold takePermData
    simp only [hland, ← hn]
    rw [collWake_quiet hquiet]
    · simp only [Nat.reduceBEq, Bool.or_false]
      rfl
    · rfl
  obtain ⟨⟨rx, ej, inj, ht⟩, htook⟩ := takePacket_inOrder h (sel := fun p => collPhase 3 p && s.putFree p) (perform := takePermData)
    (by simp [collPhase, hty, hphase, hfree]) (by rw [hperform])
  rw [hperform] at ht
  refine ⟨_, rfl, htook, ?_, ?_, ?_⟩
  · rw [ht]
    exact hbytes
  · intro x hx
    rw [ht]
    exact honly x hx
  · rw [ht]
    exact tabGet_tabSet_self ..

/-! ### Aborts -/

/-- What an abort leaves beside what it sends and writes. -/
theorem collAbort_facts (s : State) (c : Coll) : (s.collAbort c 1).coll.jobs = s.coll.jobs.filter (fun j => j.id != c.id) ∧
    (s.collAbort c 1).reg 0x5010 = satAdd32 (s.reg 0x5010) 1 ∧ (s.collAbort c 1).fab.rx = s.fab.rx := by
  unfold State.collAbort
  obtain ⟨tx, ej, inj, hsent⟩ : SameButSent s (((s.groupC c).neighbours c.b).foldl (fun t n =>
    t.sendFlow (t.mkPacket n.2.1 0x09 (cFlow c.b n.1 3 n.2.2) 1 true 0 [1]) .none) s) := sameButSent_foldl (fun _ _ => sameButSent_sendFlow ..) _ _
  rw [hsent]
  obtain ⟨u, hu⟩ : ∃ u : State, u = { s with fab := { s.fab with tx := tx, eject := ej, inj := inj } } := ⟨_, rfl⟩
  rw [← hu]
  have hjobs : u.coll = s.coll := by rw [hu]
  have hreg : u.reg 0x5010 = s.reg 0x5010 := by rw [hu]; rfl
  have hrx : u.fab.rx = s.fab.rx := by rw [hu]
  rw [← hjobs, ← hreg, ← hrx]
  clear hu
  unfold State.collEnd
  extract_lets early n fb s1 s2 s3 s4
  have h1 : s1.coll = u.coll ∧ s1.regs = u.regs ∧ s1.fab = u.fab := by
    unfold s1
    split
    · obtain ⟨m, p, o, heq⟩ := sameButWritten_putBytes fb.2 (cDst c.b) fb.1 [] (n / 64 + 2)
      rw [heq]
      exact ⟨rfl, rfl, rfl⟩
    · exact ⟨rfl, rfl, rfl⟩
  have h2 : s2.coll = u.coll ∧ s2.regs = u.regs ∧ s2.fab = u.fab := by
    obtain ⟨m, p, o, heq⟩ := sameButWritten_putBytes s1 (cSummary c.b) (c.summary (s1.groupC c) 1) [] 3
    have heq' : s2 = _ := heq
    rw [heq']
    exact h1
  obtain ⟨hcoll, hregs, hfab⟩ := h2
  have h3 : s3 = s2.countReg 0x5010 1 := if_pos rfl
  refine ⟨?_, ?_, ?_⟩
  · show s3.coll.jobs.filter _ = _
    rw [h3, ← hcoll]
    rfl
  · show s3.reg 0x5010 = _
    rw [h3, reg_countReg_self, State.reg_of_regs hregs]
  · show s3.fab.rx = _
    rw [h3, ← hfab]
    rfl

end

theorem collectivePackets : CollectivePackets := by
  intro s q p f h b tag kept
  refine ⟨fun hquiet => ⟨fun hty hphase hsub => ?_, fun base hty hphase => ?_, fun hty hsub => ?_, fun hty hsub => ?_,
    fun a n hty hphase hfree ha hn hpoison hst hm hp => permutationData_lands h hquiet hty hphase hfree ha hn hpoison hst hm hp⟩,
    fun hty hphase hsub => ⟨fun c hc => ?_, fun hnone => ?_⟩⟩
  · refine kept_inOrder (x := p) h rfl ?_ hquiet rfl fun u => if_pos hsub
    simp only [collPhase, hty, hphase, beq_self_eq_true, Bool.true_and]
    exact bne_iff_ne.mpr (by rw [show fieldB p.payload 0 1 = 0 from hsub]; decide)
  · refine kept_inOrder (x := withBase p base) h rfl ?_ hquiet rfl fun u => rfl
    simp only [hty, beq_self_eq_true, Bool.true_and]
    exact bne_iff_ne.mpr hphase
  · refine kept_inOrder (x := p) h rfl ?_ hquiet rfl fun u => if_pos hsub
    simp only [hty, beq_self_eq_true, Bool.true_and]
    exact bne_iff_ne.mpr (by rw [show fieldB p.payload 0 1 = 0 from hsub]; decide)
  · refine kept_inOrder (x := p) h rfl ?_ hquiet rfl fun u => rfl
    simp only [hty, beq_self_eq_true, Bool.true_and]
    exact beq_iff_eq.mpr hsub
  · have hsel : (collPhase 3 p && fieldB p.payload 0 1 == 1) = true := by
      simp only [collPhase, hty, hphase, beq_self_eq_true, Bool.true_and]
      exact beq_iff_eq.mpr hsub
    have hperform : takeAbort p (fetched s q p f) = (fetched s q p f).collAbort c 1 := by
      have hfind : (fetched s q p f).coll.jobs.find? (fun c => cTag c.b == fld p.flow 8 6 && c.engines.contains (fld p.flow 14 2) && !c.excl.contains p.src) = some c := hc
      unfold takeAbort
      rw [hfind]
    obtain ⟨hjobs, hreg, hrx⟩ := collAbort_facts (fetched s q p f) c
    obtain ⟨⟨rx, ej, inj, ht⟩, htook⟩ := takePacket_inOrder h (sel := fun p => collPhase 3 p && fieldB p.payload 0 1 == 1) (perform := takeAbort) hsel (by rw [hperform, hrx])
    rw [hperform] at ht
    refine ⟨_, rfl, htook, ?_, ?_⟩
    · rw [ht]
      exact hjobs
    · rw [ht]
      exact hreg
  · have hsel : (collPhase 3 p && fieldB p.payload 0 1 == 1) = true := by
      simp only [collPhase, hty, hphase, beq_self_eq_true, Bool.true_and]
      exact beq_iff_eq.mpr hsub
    have hperform : takeAbort p (fetched s q p f) = fetched s q p f := by
      have hfind : (fetched s q p f).coll.jobs.find? (fun c => cTag c.b == fld p.flow 8 6 && c.engines.contains (fld p.flow 14 2) && !c.excl.contains p.src) = none := hnone
      unfold takeAbort
      rw [hfind]
    obtain ⟨⟨rx, ej, inj, ht⟩, htook⟩ := takePacket_inOrder h (sel := fun p => collPhase 3 p && fieldB p.payload 0 1 == 1) (perform := takeAbort) hsel (by rw [hperform])
    rw [hperform] at ht
    refine ⟨_, rfl, htook, ?_⟩
    rw [ht]
    exact ⟨rfl, rfl, rfl⟩

/-! ### The pace -/

section
variable {s : State} {q : Fin 9} {p : Packet} {f : RxFlow} {gb : List Byte} {ge : List Nat}

/-- What a pace taken leaves (R331). -/
theorem takePace_facts (s : State) {pace reason : Nat} (hpace : pace < 2 ^ 11) (hreason : reason < 2 ^ 8) :
    ∃ rg, s.takePace pace reason = { s with led := { s.led with group := pace }, regs := rg } ∧
      (s.takePace pace reason).reg 0x500C = pace + reason * 2 ^ 16 ∧ (s.takePace pace reason).reg 0x501C = s.reg 0x501C := by
  unfold State.takePace
  refine ⟨_, Setpoints.setpoints_eq _, ?_, ?_⟩ <;> rw [Setpoints.reg_setpoints_ne _ fun i => by omega]
  · rw [State.reg_setReg_self]
    exact Nat.mod_eq_of_lt (by omega)
  · exact State.reg_setReg_ne _ _ (by decide)

/-- A packet of the pace whose performing changes nothing. -/
theorem pace_ignored {i : Instr} {sel : Packet → Bool} {perform : Packet → State → State} (h : InOrder s q p f)
    (hi : exec i s = .next (takePacket q sel perform s)) (hsel : sel p = true) (hperform : perform p (fetched s q p f) = fetched s q p f) :
    ∃ t, Gives i s t ∧ TookInOrder t p f ∧ t.coll = s.coll ∧ t.led = s.led ∧ t.regs = s.regs ∧ t.mem = s.mem := by
  obtain ⟨⟨rx, ej, inj, ht⟩, htook⟩ := takePacket_inOrder h (perform := perform) hsel (by rw [hperform])
  refine ⟨_, hi, htook, ?_⟩
  rw [ht, hperform]
  exact ⟨rfl, rfl, rfl, rfl⟩

theorem takePaceRequest_ignored {u : State} (h : u.coll.group = some (gb, ge)) (hno : ge.contains p.src = true ∨
    u.coll.relayed ≤ fld (fieldB p.payload 8 2) 0 11) : takePaceRequest p u = u := by
  unfold takePaceRequest
  rw [h]
  refine if_neg ?_
  rcases hno with hno | hno
  · simp only [hno, Bool.not_true, Bool.and_false, Bool.false_and]
    exact Bool.false_ne_true
  · simp [hno]

/-- The global root relays a pace below the last one, and acts on it. -/
theorem takePaceRequest_relays {u : State} (h : u.coll.group = some (gb, ge))
    (hroot : (u.groupOf gb ge).globalRoot (cRoot gb) = u.selfCoord) (hexcl : ge.contains p.src = false)
    (hlow : fld (fieldB p.payload 8 2) 0 11 < u.coll.relayed) : takePaceRequest p u =
      (State.relayPace { u with coll := { u.coll with relayed := fld (fieldB p.payload 8 2) 0 11 } } (sliceB p.payload 0 20)).takePace
        (fld (fieldB p.payload 8 2) 0 11) (fieldB p.payload 10 1) := by
  have hok : (match u.coll.group with
      | some (b, excl) => (u.groupOf b excl).globalRoot (cRoot b) == u.selfCoord && !excl.contains p.src
      | none => false) = true := by
    rw [h]
    simp only [hroot, hexcl, beq_self_eq_true, Bool.not_false, Bool.and_self]
  exact if_pos (Bool.and_eq_true_iff.mpr ⟨hok, decide_eq_true hlow⟩)

/-- A pace relayed on and acted on. -/
theorem pace_acted {i : Instr} {sel : Packet → Bool} {perform : Packet → State → State} {v : State} {body : List Byte} {pace reason : Nat}
    (h : InOrder s q p f) (hi : exec i s = .next (takePacket q sel perform s)) (hsel : sel p = true)
    (hperform : perform p (fetched s q p f) = (v.relayPace body).takePace pace reason) (hrx : v.fab.rx = (fetched s q p f).fab.rx)
    (hpace : pace < 2 ^ 11) (hreason : reason < 2 ^ 8) :
    ∃ t, Gives i s t ∧ TookInOrder t p f ∧ t.led.group = pace ∧ t.reg 0x500C = pace + reason * 2 ^ 16 ∧ t.reg 0x501C = v.reg 0x501C ∧
      t.coll = v.coll ∧ t.mem = v.mem := by
  obtain ⟨tx, ej, inj, hsent⟩ := sameButSent_relayPace v body
  obtain ⟨rg, htake, h500C, h501C⟩ := takePace_facts (v.relayPace body) hpace hreason
  obtain ⟨⟨rx, ej', inj', ht⟩, htook⟩ := takePacket_inOrder h (sel := sel) (perform := perform) hsel (by rw [hperform, htake, hsent]; exact hrx)
  rw [hperform] at ht
  have hreg : (v.relayPace body).reg 0x501C = v.reg 0x501C := by
    rw [hsent]
    rfl
  refine ⟨_, hi, htook, ?_, ?_, ?_, ?_, ?_⟩
  · rw [ht, htake]
  · rw [ht]
    exact h500C
  · rw [ht]
    exact h501C.trans hreg
  · rw [ht, htake, hsent]
  · rw [ht, htake, hsent]

end

theorem paceRelayed : PaceRelayed := by
  intro s q p f gb ge h b pace hty hgroup
  have hpace : pace < 2 ^ 11 := Completions.fld_lt ..
  have hreason : fieldB b 10 1 < 2 ^ 8 := ByteFields.fieldB_lt b 10 1
  have hreq (hsub : fieldB b 0 1 = 0) : (p.type == 0x0B && fieldB p.payload 0 1 != 1) = true := by
    simp only [hty, beq_self_eq_true, Bool.true_and]
    exact bne_iff_ne.mpr (by rw [show fieldB p.payload 0 1 = 0 from hsub]; decide)
  have hnote (hsub : fieldB b 0 1 = 1) : (p.type == 0x0B && fieldB p.payload 0 1 == 1) = true := by
    simp only [hty, beq_self_eq_true, Bool.true_and]
    exact beq_iff_eq.mpr hsub
  have hex : (fetched s q p f).paceExcludes p.src = ge.contains p.src := by
    have hg : (fetched s q p f).coll.group = some (gb, ge) := hgroup
    unfold State.paceExcludes
    rw [hg]
  refine ⟨fun hexcl r hr hsub => ?_, fun hsub hexcl hroot hlow => ?_, fun hsub hhigh => ?_, fun hsub hexcl => ?_⟩
  · simp only [List.mem_cons, List.not_mem_nil, or_false] at hr
    rcases hr with rfl | rfl
    · exact pace_ignored h rfl (hreq hsub) ((if_pos hsub).trans (takePaceRequest_ignored (u := fetched s q p f) hgroup (.inl hexcl)))
    · exact pace_ignored h rfl (hnote hsub) (if_pos (by rw [hex, hexcl]))
  · obtain ⟨t, hgo, htook, hled, h500C, -, hcoll, hmem⟩ := pace_acted (i := .paceRequest q) h
      (perform := fun p s => if fieldB p.payload 0 1 = 0 then takePaceRequest p s else s) rfl (hreq hsub)
      ((if_pos hsub).trans (takePaceRequest_relays (u := fetched s q p f) hgroup hroot hexcl hlow)) rfl hpace hreason
    exact ⟨t, hgo, htook, by rw [hcoll], hled, h500C, hmem⟩
  · obtain ⟨t, hg, htook, hcoll, hled, -, hmem⟩ := pace_ignored h (i := .paceRequest q)
      (perform := fun p s => if fieldB p.payload 0 1 = 0 then takePaceRequest p s else s) rfl (hreq hsub)
      ((if_pos hsub).trans (takePaceRequest_ignored hgroup (.inr hhigh)))
    exact ⟨t, hg, htook, hcoll, hled, hmem⟩
  · have hperform : takePaceNotice p (fetched s q p f) =
        (((fetched s q p f).countReg 0x501C 1).relayPace (sliceB p.payload 0 20)).takePace pace (fieldB b 10 1) := by
      unfold takePaceNotice
      rw [if_neg (by rw [hex, hexcl]; decide)]
    obtain ⟨t, hgo, htook, hled, h500C, h501C, hcoll, hmem⟩ := pace_acted (i := .paceNotice q) h (perform := takePaceNotice) rfl (hnote hsub)
      hperform rfl hpace hreason
    exact ⟨t, hgo, htook, hled, h501C.trans (reg_countReg_self (fetched s q p f) 1), h500C, hcoll, hmem⟩

/-- Settles O33: by the packet taken in order and what it does to the collectives and to the pace. -/
theorem collectiveTraffic : Obligations.CollectiveTraffic := ⟨collectivePackets, paceRelayed⟩

end Sys2Proof.Proofs.CollectivePacketsTaken
end

section
/-! PROOF. An owner of grist rows serves requests in order. -/

namespace Sys2Proof.Proofs.GristServing

open Sys2Proof.Machine
open Sys2Proof.Claims
open Sys2Proof.Proofs.Flows Sys2Proof.Proofs.Arrivals Sys2Proof.Proofs.Payloads Sys2Proof.Proofs.Registers
open Sys2Proof.Proofs.MemoryAccess Sys2Proof.Proofs.ByteRanges Sys2Proof.Proofs.CollectivePacketsTaken

/-! ### Groups served -/

section
variable {s t : State} {g : GServe} {src flow tag kind : Nat}

theorem key_of_findServe (h : s.findServe src flow tag kind = some g) : g.src = src ∧ g.flow = flow ∧ g.tag = tag ∧ g.kind = kind := by
  simpa [and_assoc] using List.find?_some h

theorem findServe_congr (h : t.grist = s.grist) : t.findServe src flow tag kind = s.findServe src flow tag kind := by
  rw [State.findServe, h, State.findServe]

theorem findServe_dropServe (s : State) (g : GServe) : (s.dropServe g).findServe g.src g.flow g.tag g.kind = none := by
  refine List.find?_eq_none.mpr fun h hh hkey => ?_
  obtain ⟨-, hother⟩ := List.mem_filter.mp hh
  have hsame : sameServe g h = true := by
    simp only [Bool.and_eq_true, beq_iff_eq] at hkey
    obtain ⟨⟨⟨h1, h2⟩, h3⟩, h4⟩ := hkey
    simp [sameServe, h1, h2, h3, h4]
  rw [hsame] at hother
  exact absurd hother (by decide)

theorem findServe_putServe (s : State) (g : GServe) : (s.putServe g).findServe g.src g.flow g.tag g.kind = some g := by
  have hnone := findServe_dropServe s g
  unfold State.findServe at hnone ⊢
  unfold State.putServe
  dsimp only
  rw [List.find?_append, hnone]
  simp

theorem findServe_putServe_of (s : State) (h : g.src = src ∧ g.flow = flow ∧ g.tag = tag ∧ g.kind = kind) :
    (s.putServe g).findServe src flow tag kind = some g := by
  obtain ⟨rfl, rfl, rfl, rfl⟩ := h
  exact findServe_putServe s g

theorem not_serveFull (h : s.grist.serving.length < 4096) (g : GServe) : s.serveFull g = false := by
  have hle := List.length_filter_le (fun h => !h.refused && s.serveBd h == s.serveBd g) s.grist.serving
  exact decide_eq_false (by omega)

end

/-! ### Replies -/

section
variable {s : State} {bd dst tag chunk flags pooled : Nat} {elems : List Nat}

theorem sameButSent_gristReply (s : State) (bd dst tag chunk : Nat) (elems : List Nat) (flags pooled : Nat) :
    SameButSent s (s.gristReply bd dst tag chunk elems flags pooled) := sameButSent_sendFlow ..

theorem sameButSent_rx {s t : State} (h : SameButSent s t) : t.fab.rx = s.fab.rx := by
  obtain ⟨_, _, _, rfl⟩ := h
  rfl

/-- The bytes of a reply (Table 7-8). -/
abbrev replyBody (tag chunk : Nat) (elems : List Nat) (flags pooled : Nat) : List Byte :=
  natLE 4 tag ++ natLE 1 chunk ++ natLE 1 elems.length ++ natLE 1 flags ++ [0] ++ natLE 4 pooled ++ zeroB 20 ++ elems.flatMap (natLE 4)

theorem length_replyHead (tag chunk flags pooled n : Nat) :
    (natLE 4 tag ++ natLE 1 chunk ++ natLE 1 n ++ natLE 1 flags ++ [(0 : Byte)] ++ natLE 4 pooled ++ zeroB 20).length = 32 := by
  simp [length_natLE, ByteFields.length_zeroB]

/-- A word of a list of words. -/
theorem fieldB_words (l : List Nat) {i : Nat} (h : i < l.length) : fieldB (l.flatMap (natLE 4)) (4 * i) 4 = l[i] % 2 ^ 32 := by
  induction l generalizing i with
  | nil => simp at h
  | cons x l ih =>
    rw [List.flatMap_cons]
    cases i with
    | zero =>
      rw [Nat.mul_zero, fieldB_append_left _ (by simp [length_natLE]), fieldB_natLE]
      rfl
    | succ i =>
      rw [fieldB_append_right _ (by rw [length_natLE]; omega), length_natLE, show 4 * (i + 1) - 4 = 4 * i by omega]
      exact ih (by simpa using h)

theorem replyBody_fields (tag chunk flags pooled : Nat) (elems : List Nat) :
    fieldB (replyBody tag chunk elems flags pooled) 0 4 = tag % 2 ^ 32 ∧ fieldB (replyBody tag chunk elems flags pooled) 5 1 = elems.length % 2 ^ 8 ∧
    fieldB (replyBody tag chunk elems flags pooled) 6 1 = flags % 2 ^ 8 ∧ fieldB (replyBody tag chunk elems flags pooled) 8 4 = pooled % 2 ^ 32 := by
  have hl (off n : Nat) (h : off + n ≤ 32) : fieldB (replyBody tag chunk elems flags pooled) off n =
      fieldB (natLE 4 tag ++ natLE 1 chunk ++ natLE 1 elems.length ++ natLE 1 flags ++ [(0 : Byte)] ++ natLE 4 pooled ++ zeroB 20) off n :=
    fieldB_append_left _ (by rw [length_replyHead]; exact h)
  refine ⟨?_, ?_, ?_, ?_⟩ <;> rw [hl _ _ (by decide), fieldB_append_left _ (by simp [length_natLE])]
  · iterate 5 rw [fieldB_append_left _ (by simp [length_natLE])]
    rw [fieldB_natLE]
    rfl
  · iterate 3 rw [fieldB_append_left _ (by simp [length_natLE])]
    rw [fieldB_append_right _ (by simp [length_natLE])]
    simp only [List.length_append, length_natLE, Nat.reduceAdd, Nat.sub_self]
    rw [fieldB_natLE]
    rfl
  · iterate 2 rw [fieldB_append_left _ (by simp [length_natLE])]
    rw [fieldB_append_right _ (by simp [length_natLE])]
    simp only [List.length_append, length_natLE, Nat.reduceAdd, Nat.sub_self]
    rw [fieldB_natLE]
    rfl
  · rw [fieldB_append_right _ (by simp [length_natLE])]
    simp only [List.length_append, length_natLE, List.length_cons, List.length_nil, Nat.reduceAdd, Nat.sub_self]
    rw [fieldB_natLE]
    rfl

theorem replyBody_elem {i : Nat} (h : i < elems.length) : fieldB (replyBody tag chunk elems flags pooled) (32 + 4 * i) 4 = elems[i] % 2 ^ 32 := by
  rw [fieldB_append_right _ (by rw [length_replyHead]; omega), length_replyHead, Nat.add_sub_cancel_left]
  exact fieldB_words elems h

/-- A reply on a new flow is that flow's one packet. -/
theorem gristReply_sent (hroom : ReplyRoom s dst (gristFlow bd 3 tag)) (hlen : elems.length ≤ 56) (htag : tag < 2 ^ 32) (hflags : flags < 2 ^ 8)
    (hpooled : pooled < 2 ^ 32) :
    ∃ g u, txOf (s.gristReply bd dst tag chunk elems flags pooled) dst (gristFlow bd 3 tag) = some g ∧ g.unacked = [u] ∧ u.pkt.type = 0x0D ∧
      fieldB u.pkt.payload 0 4 = tag ∧ fieldB u.pkt.payload 6 1 = flags ∧ fieldB u.pkt.payload 8 4 = pooled ∧
      fieldB u.pkt.payload 5 1 = elems.length ∧
      (List.range elems.length).map (fun i => fieldB u.pkt.payload (32 + 4 * i) 4) = elems.map (· % 2 ^ 32) := by
  obtain ⟨p, hp⟩ : ∃ p, p = s.mkPacket dst 0x0D (gristFlow bd 3 tag) (32 + 4 * elems.length) false
    (if bitAt flags 0 then 2 ^ cdiv (32 + 4 * elems.length) 64 - 1 else 0) (replyBody tag chunk elems flags pooled) := ⟨_, rfl⟩
  have hdst : p.dst = dst := by rw [hp]; exact Nat.mod_eq_of_lt hroom.2.2.2
  have hflow : p.flow = gristFlow bd 3 tag := by rw [hp]; rfl
  have hpay : p.payload = sliceB (replyBody tag chunk elems flags pooled) 0 256 := by rw [hp]; rfl
  have hgo : s.gristReply bd dst tag chunk elems flags pooled = s.sendFlow p .none := by rw [hp]; rfl
  obtain ⟨g, hg, hu⟩ := txOf_sendFlow_of_replyRoom (s := s) (p := p) (by rw [hdst, hflow]; exact hroom) .none
  rw [hdst, hflow] at hg
  obtain ⟨h0, h5, h6, h8⟩ := replyBody_fields tag chunk flags pooled elems
  refine ⟨g, _, by rw [hgo]; exact hg, hu, by rw [hp]; rfl, ?_, ?_, ?_, ?_, ?_⟩ <;> dsimp only [opening] <;> rw [hpay]
  · rw [fieldB_payload _ (by decide), h0, Nat.mod_eq_of_lt htag]
  · rw [fieldB_payload _ (by decide), h6, Nat.mod_eq_of_lt hflags]
  · rw [fieldB_payload _ (by decide), h8, Nat.mod_eq_of_lt hpooled]
  · rw [fieldB_payload _ (by decide), h5, Nat.mod_eq_of_lt (by omega)]
  · refine List.ext_getElem (by simp) fun i h1 h2 => ?_
    simp only [List.length_map, List.length_range] at h1
    simp only [List.getElem_map, List.getElem_range]
    rw [fieldB_payload _ (by omega), replyBody_elem h1]

end

/-! ### What serving changes -/

/-- Two states that differ in memory, its poison, the direct lists and registers other than the partner's. -/
def SameButRows (s t : State) : Prop :=
  ∃ m p rg d, t = { s with mem := m, poison := p, regs := rg, dep := d } ∧ t.reg 0x7008 = s.reg 0x7008

theorem SameButRows.refl (s : State) : SameButRows s s := ⟨_, _, _, _, rfl, rfl⟩

theorem SameButRows.trans {s t u : State} : SameButRows s t → SameButRows t u → SameButRows s u := by
  rintro ⟨_, _, _, _, rfl, ht⟩ ⟨m, p, rg, d, rfl, hu⟩
  exact ⟨m, p, rg, d, rfl, hu.trans ht⟩

theorem SameButRows.foldl {α : Type} {f : State → α → State} (h : ∀ s a, SameButRows s (f s a)) (l : List α) (s : State) :
    SameButRows s (l.foldl f s) := by
  induction l generalizing s with
  | nil => exact .refl s
  | cons a l ih => exact (h s a).trans (ih _)

theorem sameButRows_write (s : State) (a : Nat) (bs : List Byte) : SameButRows s (s.write a bs) := by
  obtain ⟨m, p, h⟩ := s.write_rest a bs
  exact ⟨m, p, s.regs, s.dep, h, by rw [h]; rfl⟩

/-- A store in a pair with an answer: the form in which an atomic's cases stand. -/
theorem sameButRows_write_fst {α : Type} (s : State) (a : Nat) (bs : List Byte) (x : α) : SameButRows s (s.write a bs, x).1 :=
  sameButRows_write s a bs

theorem sameButRows_countReg (s : State) {o : Nat} (h : o ≠ 0x7008) (n : Nat) : SameButRows s (s.countReg o n) :=
  ⟨_, _, _, _, rfl, reg_countReg_ne _ _ h.symm⟩

theorem sameButRows_poisonLine (s : State) (a : Nat) : SameButRows s (s.poisonLine a) := by
  unfold State.poisonLine
  split
  · exact .refl s
  · exact ⟨_, _, s.regs, s.dep, rfl, rfl⟩

theorem sameButRows_atomic (s : State) {r : HomeReq} (h : r.code < 5) : SameButRows s (s.atomic r).1 := by
  unfold State.atomic
  split
  · exact .refl s
  split
  · exact .refl s
  unfold State.atomicEffect
  dsimp only
  split
  · exact sameButRows_write_fst ..
  · exact sameButRows_write_fst ..
  · split
    · exact (sameButRows_write ..).trans (sameButRows_countReg _ (by decide) _)
    split
    · exact (sameButRows_write ..).trans (sameButRows_countReg _ (by decide) _)
    · exact sameButRows_write_fst ..
  · exact sameButRows_write_fst ..
  · split
    · exact sameButRows_write_fst ..
    · exact .refl s
  · next h5 => omega
  · next h0 h1 h2 h3 h4 h5 =>
    simp only [imp_false] at h0 h1 h2 h3 h4
    omega

theorem sameButRows_addDeltas (s : State) (a j : Nat) (qs : List (Int × Bool)) : SameButRows s (s.addDeltas a j qs) := by
  refine .foldl (fun t x => ?_) _ _
  dsimp only
  split
  · exact sameButRows_poisonLine ..
  · exact sameButRows_atomic _ (Nat.lt_of_sub_eq_succ rfl)

theorem sameButRows_foldInto (s : State) (r : List Byte) (p : RowPlace) (ds : List Int) (bad : Bool) :
    SameButRows s (s.foldInto r p ds bad).1 := by
  unfold State.foldInto
  dsimp only
  split
  · exact .refl s
  split
  · have hrange : SameButRows s (s.poisonRange p.slot (gRowBytes r)) := .foldl (fun t i => sameButRows_poisonLine ..) _ _
    split
    · exact hrange.trans (sameButRows_poisonLine ..)
    · exact hrange
  · split
    · exact (sameButRows_write ..).trans (sameButRows_write_fst ..)
    · exact sameButRows_write_fst ..

theorem sameButRows_addDirect (s : State) (eng side step a len : Nat) : SameButRows s (s.addDirect eng side step a len) := by
  unfold State.addDirect
  split
  · exact .refl s
  · dsimp only
    split <;> exact ⟨s.mem, s.poison, s.regs, _, rfl, rfl⟩

theorem sameButRows_applyDirect (s : State) (table : Nat) (mirror : Bool) (r : List Byte) (step row : Nat) (q : List Int) (bad : Bool) :
    SameButRows s (s.applyDirect table mirror r step row q bad).1 := by
  unfold State.applyDirect
  extract_lets p res u
  refine ((sameButRows_foldInto s r p q bad).trans (sameButRows_countReg res.1 (o := 0x6020) (by decide) 1)).trans ?_
  change SameButRows u _
  split
  · split
    · exact (sameButRows_addDirect ..).trans (sameButRows_addDirect ..)
    · exact sameButRows_addDirect ..
  · exact .refl _

theorem sameButRows_findEntry (r : List Byte) (k row h n : Nat) (s : State) : SameButRows s (s.findEntry r k row h n).1 := by
  induction n generalizing s with
  | zero => exact .refl s
  | succ n ih =>
    unfold State.findEntry
    dsimp only
    split_ifs
    · exact ih s
    · exact .refl s
    · exact ih s
    · exact sameButRows_atomic _ (Nat.lt_of_sub_eq_succ rfl)
    · exact ih s

theorem claimAll_facts (r : List Byte) (k : Nat) (l : List (Nat × Nat)) (s : State) :
    SameButRows s (s.claimAll r k l).1 ∧ (s.claimAll r k l).2.map (fun i => (i.1, i.2.1)) = l := by
  induction l generalizing s with
  | nil => exact ⟨.refl s, rfl⟩
  | cons x l ih =>
    obtain ⟨hrest, hids⟩ := ih (s.findEntry r k x.1 (permIndex r x.1) 16).1
    refine ⟨(sameButRows_findEntry ..).trans hrest, ?_⟩
    unfold State.claimAll
    rw [List.map_cons, hids]

/-! ### Look-ups -/

theorem gN_pos (r : List Byte) : 16 ≤ gN r := by
  unfold gN
  omega

theorem length_poolRows (r : List Byte) (pooling : Nat) (rows : List (List Val × Nat)) : (poolRows r pooling rows).length = gN r := by
  simp [poolRows]

/-- The elements that an owner pools for a look-up request. -/
def pooledElems (s : State) (b r : List Byte) : List Nat :=
  poolRows r (fld (rqPooling b) 0 3)
    ((rqIds b).map (fun z => (rowElems r (s.bytes (s.placeOf (rqTable b) r (gVersion r (rqStep b)) z.1).slot (gRowBytes r)), z.2)))

/-- A look-up before warm-up, of clean rows of one chunk, changes nothing but that it is answered. -/
theorem takeLookup_answers {p : Packet} {v : State} {r : List Byte} {y : Nat × Nat} {l : List (Nat × Nat)}
    (hrec : v.record (rqTable p.payload) (rqMirror p.payload) = some r) (hids : rqIds p.payload = y :: l)
    (hepoch : rqEpoch p.payload = v.dirEpoch) (hfold : v.tableFolding (rqTable p.payload) (rqMirror p.payload) = false)
    (hwarm : v.gWarmed = false) (hsize : gN r ≤ 48)
    (hclean : ∀ z ∈ rqIds p.payload,
      v.rangePoisoned (v.placeOf (rqTable p.payload) r (gVersion r (rqStep p.payload)) z.1).slot (gRowBytes r) = false) :
    takeLookup p v = v.gristReply (v.engineAt (v.placeOf (rqTable p.payload) r (gVersion r (rqStep p.payload)) y.1).slot) p.src
      (rqTag p.payload) 0 (pooledElems v p.payload r) 0 (rqIds p.payload).length := by
  have hcount : (rqIds p.payload).foldl (fun t x => t.countId (rqTable p.payload) r
      (v.placeOf (rqTable p.payload) r (gVersion r (rqStep p.payload)) x.1) x.1) v = v :=
    List.foldl_fixed' (fun x => by rw [State.countId, hwarm]; rfl) _
  have hbad : (rqIds p.payload).any (fun x => v.rangePoisoned
      (v.placeOf (rqTable p.payload) r (gVersion r (rqStep p.payload)) x.1).slot (gRowBytes r)) = false :=
    List.any_eq_false.mpr fun z hz => by rw [hclean z hz]; exact Bool.false_ne_true
  have hone : cdiv (gN r) 56 = 1 := by
    have := gN_pos r
    unfold cdiv
    omega
  unfold takeLookup
  simp only [hrec, hepoch, ne_eq, not_true_eq_false, if_false, hfold, Bool.false_eq_true, hcount, hbad, hone]
  rw [show List.range 1 = [0] from rfl, List.foldl_cons, List.foldl_nil, Nat.mul_zero, List.drop_zero,
    List.take_of_length_le (by rw [length_poolRows]; omega)]
  unfold pooledElems
  rw [hids]

theorem length_rqIds (b : List Byte) : (rqIds b).length ≤ 28 := by
  rw [rqIds, List.length_map, List.length_range]
  omega

/-! ### Requests in order -/

section
variable {s : State} {q : Fin 9} {p : Packet} {f : RxFlow}

/-- A request taken in order is performed, and nothing else that an owner reads changes. -/
theorem serves_inOrder (h : InOrder s q p f) {i : Instr} {sel : Packet → Bool} {perform : Packet → State → State}
    (hi : exec i s = .next (takePacket q sel perform s)) (hsel : sel p = true) {u : State} (hperform : perform p (fetched s q p f) = u)
    (hrx : u.fab.rx = (fetched s q p f).fab.rx) : ∃ t, Gives i s t ∧ TookInOrder t p f ∧ Layered u t := by
  obtain ⟨hlay, htook⟩ := takePacket_inOrder h (perform := perform) hsel (by rw [hperform, hrx])
  exact ⟨_, hi, htook, hperform ▸ hlay⟩

theorem lookup_selected (hty : p.type = 0x0C) (hkind : rqKind p.payload = 0) :
    (p.type == 0x0C && (rqKind p.payload == 0 || decide (4 ≤ rqKind p.payload))) = true := by
  rw [hty, hkind]
  rfl

theorem gristIs_of {k : Nat} (hty : p.type = 0x0C) (hkind : rqKind p.payload = k) : gristIs k p = true := by
  rw [gristIs, hty, hkind]
  simp

/-- A look-up of clean rows is answered with what they pool to. -/
theorem lookup_answered {r : List Byte} {y : Nat × Nat} {l : List (Nat × Nat)} {fl : Nat} (h : InOrder s q p f) (hty : p.type = 0x0C)
    (hkind : rqKind p.payload = 0) (hrec : s.record (rqTable p.payload) (rqMirror p.payload) = some r) (hids : rqIds p.payload = y :: l)
    (hepoch : rqEpoch p.payload = s.dirEpoch) (hfold : s.tableFolding (rqTable p.payload) (rqMirror p.payload) = false)
    (hwarm : s.gWarmed = false) (hsize : gN r ≤ 48)
    (hclean : ∀ z ∈ rqIds p.payload,
      s.rangePoisoned (s.placeOf (rqTable p.payload) r (gVersion r (rqStep p.payload)) z.1).slot (gRowBytes r) = false)
    (hfl : fl = gristFlow (s.engineAt (s.placeOf (rqTable p.payload) r (gVersion r (rqStep p.payload)) y.1).slot) 3 (rqTag p.payload))
    (hroom : ReplyRoom s p.src fl) :
    ∃ t g u, Gives (.gristLookupRequest q) s t ∧ TookInOrder t p f ∧ t.mem = s.mem ∧ txOf t p.src fl = some g ∧
      g.unacked = [u] ∧ u.pkt.type = 0x0D ∧ fieldB u.pkt.payload 0 4 = rqTag p.payload ∧ fieldB u.pkt.payload 6 1 = 0 ∧
      fieldB u.pkt.payload 8 4 = (rqIds p.payload).length ∧ fieldB u.pkt.payload 5 1 = gN r ∧
      (List.range (gN r)).map (fun i => fieldB u.pkt.payload (32 + 4 * i) 4) = (pooledElems s p.payload r).map (· % 2 ^ 32) := by
  obtain ⟨bd, hbd⟩ : ∃ bd, bd = s.engineAt (s.placeOf (rqTable p.payload) r (gVersion r (rqStep p.payload)) y.1).slot := ⟨_, rfl⟩
  obtain ⟨elems, hpool⟩ : ∃ elems, elems = pooledElems s p.payload r := ⟨_, rfl⟩
  rw [← hbd] at hfl
  rw [← hpool]
  subst hfl
  have hlen : elems.length = gN r := by rw [hpool, pooledElems, length_poolRows]
  have hshort := length_rqIds p.payload
  obtain ⟨v, hv⟩ : ∃ v, v = fetched s q p f := ⟨_, rfl⟩
  have hroom' : ReplyRoom v p.src (gristFlow bd 3 (rqTag p.payload)) := ReplyRoom.congr hroom (by rw [hv]; rfl) (by rw [hv]; rfl)
  have htag : rqTag p.payload < 2 ^ 32 := ByteFields.fieldB_lt p.payload 12 4
  obtain ⟨g, u, hg, hu, h0D, h0, h6, h8, h5, helems⟩ := gristReply_sent (s := v) (chunk := 0) (flags := 0)
    (pooled := (rqIds p.payload).length) (elems := elems) hroom' (by omega) htag (by decide) (by omega)
  rw [hlen] at h5 helems
  have hanswer : takeLookup p v = v.gristReply bd p.src (rqTag p.payload) 0 elems 0 (rqIds p.payload).length := by
    have hplace (table : Nat) (r : List Byte) (k row : Nat) : v.placeOf table r k row = s.placeOf table r k row := by rw [hv]; rfl
    have hpoisoned (a n : Nat) : v.rangePoisoned a n = s.rangePoisoned a n := by rw [hv]; rfl
    have hbd' : v.engineAt (v.placeOf (rqTable p.payload) r (gVersion r (rqStep p.payload)) y.1).slot = bd := by rw [hbd, hplace, hv]; rfl
    have hpool' : pooledElems v p.payload r = elems := by rw [hpool, hv]; rfl
    rw [← hbd', ← hpool']
    exact takeLookup_answers (by rw [hv]; exact hrec) hids (by rw [hv]; exact hepoch) (by rw [hv]; exact hfold) (by rw [hv]; exact hwarm) hsize
      (fun z hz => by rw [hplace, hpoisoned]; exact hclean z hz)
  obtain ⟨tx, ej', inj', hsent⟩ := sameButSent_gristReply v bd p.src (rqTag p.payload) 0 elems 0 (rqIds p.payload).length
  obtain ⟨t, hgo, htook, rx, ej, inj, ht⟩ := serves_inOrder h (i := .gristLookupRequest q)
    (perform := fun p s => if rqKind p.payload = 0 then takeLookup p s else s) rfl (lookup_selected hty hkind)
    ((if_pos hkind).trans (hv ▸ hanswer)) (by rw [← hv]; exact sameButSent_rx (sameButSent_gristReply ..))
  rw [← hv] at ht
  refine ⟨t, g, u, hgo, htook, ?_, ?_, hu, h0D, h0, h6, h8, h5, helems⟩
  · rw [ht, hsent, hv]
    rfl
  · rw [ht]
    exact hg

/-- A look-up of another directory epoch is counted. -/
theorem lookup_stale {r : List Byte} (h : InOrder s q p f) (hty : p.type = 0x0C) (hkind : rqKind p.payload = 0)
    (hrec : s.record (rqTable p.payload) (rqMirror p.payload) = some r) (hepoch : rqEpoch p.payload ≠ s.dirEpoch) :
    ∃ t, Gives (.gristLookupRequest q) s t ∧ TookInOrder t p f ∧ t.mem = s.mem ∧ t.grist = s.grist ∧
      t.reg 0x6028 = satAdd32 (s.reg 0x6028) 1 := by
  have hstale : ∃ bd, takeLookup p (fetched s q p f) = ((fetched s q p f).countReg 0x6028 1).gristReply bd p.src (rqTag p.payload) 0 [] 2 0 := by
    have hrec' : (fetched s q p f).record (rqTable p.payload) (rqMirror p.payload) = some r := hrec
    have hepoch' : rqEpoch p.payload ≠ (fetched s q p f).dirEpoch := hepoch
    unfold takeLookup
    simp only [hrec', hepoch', ne_eq, not_false_eq_true, if_true]
    exact ⟨_, rfl⟩
  obtain ⟨bd, hstale⟩ := hstale
  obtain ⟨tx, ej', inj', hsent⟩ := sameButSent_gristReply ((fetched s q p f).countReg 0x6028 1) bd p.src (rqTag p.payload) 0 [] 2 0
  obtain ⟨t, hgo, htook, rx, ej, inj, ht⟩ := serves_inOrder h (i := .gristLookupRequest q)
    (perform := fun p s => if rqKind p.payload = 0 then takeLookup p s else s) rfl (lookup_selected hty hkind)
    ((if_pos hkind).trans hstale) (by rw [hsent]; rfl)
  refine ⟨t, hgo, htook, ?_, ?_, ?_⟩ <;> rw [ht, hsent]
  · rfl
  · rfl
  · exact reg_countReg_self (fetched s q p f) 1

/-! ### Update groups -/

/-- The ids of an update that may be performed open its group, and its region where it is clean. -/
theorem takeUpdateIds_performs {v : State} {r : List Byte}
    (hrec : v.record (rqTable p.payload) (rqMirror p.payload) = some r) (hroom : v.grist.serving.length < 4096)
    (hepoch : rqEpoch p.payload = v.dirEpoch)
    (hverdict : regionVerdict (v.deltaRegion (rqTable p.payload) (rqMirror p.payload) (rqStep p.payload % 2)) (rqStep p.payload) = .perform) :
    ∃ w ids, SameButRows (if (v.deltaRegion (rqTable p.payload) (rqMirror p.payload) (rqStep p.payload % 2)).st = 0 then
        v.setRegion (rqTable p.payload) (rqMirror p.payload) (rqStep p.payload % 2) ⟨1, some (rqStep p.payload)⟩ else v) w ∧
      ids.map (fun i => (i.1, i.2.1)) = rqIds p.payload ∧ takeUpdateIds p v = w.putServe { newServe p 1 with ids := ids } := by
  obtain ⟨u, hu⟩ : ∃ u, u = if (v.deltaRegion (rqTable p.payload) (rqMirror p.payload) (rqStep p.payload % 2)).st = 0 then
    v.setRegion (rqTable p.payload) (rqMirror p.payload) (rqStep p.payload % 2) ⟨1, some (rqStep p.payload)⟩ else v := ⟨_, rfl⟩
  obtain ⟨hrows, hids⟩ := claimAll_facts r (rqStep p.payload % 2) (rqIds p.payload) u
  refine ⟨_, _, hu ▸ hrows, hids, ?_⟩
  rw [hu]
  unfold takeUpdateIds
  have hrec' : v.record (newServe p 1).table (newServe p 1).mirror = some r := hrec
  have hverdict' : regionVerdict (v.deltaRegion (newServe p 1).table (newServe p 1).mirror ((newServe p 1).step % 2)) (newServe p 1).step =
    .perform := hverdict
  simp only [hrec', not_serveFull hroom, Bool.false_eq_true, if_false, hepoch, ne_eq, not_true_eq_false, hverdict']
  rfl

theorem takeUpdateIds_late {v : State} {r : List Byte}
    (hrec : v.record (rqTable p.payload) (rqMirror p.payload) = some r) (hroom : v.grist.serving.length < 4096)
    (hepoch : rqEpoch p.payload = v.dirEpoch)
    (hverdict : regionVerdict (v.deltaRegion (rqTable p.payload) (rqMirror p.payload) (rqStep p.payload % 2)) (rqStep p.payload) = .late) :
    ∃ g, takeUpdateIds p v = (v.countReg 0x6024 (rqIds p.payload).length).refuseServe g 4 := by
  refine ⟨{ newServe p 1 with ids := (rqIds p.payload).map (fun x => (x.1, x.2, none)) }, ?_⟩
  unfold takeUpdateIds
  have hrec' : v.record (newServe p 1).table (newServe p 1).mirror = some r := hrec
  have hverdict' : regionVerdict (v.deltaRegion (newServe p 1).table (newServe p 1).mirror ((newServe p 1).step % 2)) (newServe p 1).step =
    .late := hverdict
  simp only [hrec', not_serveFull hroom, Bool.false_eq_true, if_false, hepoch, ne_eq, not_true_eq_false, hverdict', List.length_map]

theorem update_opened {r : List Byte} {x : Region} (h : InOrder s q p f) (hty : p.type = 0x0C) (hkind : rqKind p.payload = 1)
    (hrec : s.record (rqTable p.payload) (rqMirror p.payload) = some r) (hroom : s.grist.serving.length < 4096)
    (hepoch : rqEpoch p.payload = s.dirEpoch)
    (hx : x = s.deltaRegion (rqTable p.payload) (rqMirror p.payload) (rqStep p.payload % 2))
    (hverdict : regionVerdict x (rqStep p.payload) = .perform) :
    ∃ t g, Gives (.gristUpdateIds q) s t ∧ TookInOrder t p f ∧ t.findServe p.src p.flow (rqTag p.payload) 1 = some g ∧
      g.refused = false ∧ g.step = rqStep p.payload ∧ g.ids.map (fun i => (i.1, i.2.1)) = rqIds p.payload ∧ g.chunks = [] ∧
      (x.st = 0 → t.deltaRegion (rqTable p.payload) (rqMirror p.payload) (rqStep p.payload % 2) = ⟨1, some (rqStep p.payload)⟩) := by
  subst hx
  obtain ⟨w, ids, ⟨m, po, rg, d, hw, -⟩, hids, hperform⟩ := takeUpdateIds_performs (v := fetched s q p f) hrec hroom hepoch hverdict
  obtain ⟨t, hgo, htook, rx, ej, inj, ht⟩ := serves_inOrder h (i := .gristUpdateIds q) (sel := gristIs 1) (perform := takeUpdateIds) rfl
    (gristIs_of hty hkind) hperform (by
      change w.fab.rx = _
      rw [hw]
      dsimp only
      split <;> rfl)
  refine ⟨t, { newServe p 1 with ids := ids }, hgo, htook, ?_, rfl, rfl, hids, rfl, fun hst => ?_⟩
  · rw [ht]
    exact findServe_putServe w { newServe p 1 with ids := ids }
  · have hst' : ((fetched s q p f).deltaRegion (rqTable p.payload) (rqMirror p.payload) (rqStep p.payload % 2)).st = 0 := hst
    rw [if_pos hst'] at hw
    have hregions : t.grist.regions = ((fetched s q p f).setRegion (rqTable p.payload) (rqMirror p.payload) (rqStep p.payload % 2)
        ⟨1, some (rqStep p.payload)⟩).grist.regions := by
      rw [ht]
      change w.grist.regions = _
      rw [hw]
    rw [State.deltaRegion, hregions]
    exact tabGet_tabSet_self ..

theorem update_late {r : List Byte} (h : InOrder s q p f) (hty : p.type = 0x0C) (hkind : rqKind p.payload = 1)
    (hrec : s.record (rqTable p.payload) (rqMirror p.payload) = some r) (hroom : s.grist.serving.length < 4096)
    (hepoch : rqEpoch p.payload = s.dirEpoch)
    (hverdict : regionVerdict (s.deltaRegion (rqTable p.payload) (rqMirror p.payload) (rqStep p.payload % 2)) (rqStep p.payload) = .late) :
    ∃ t, Gives (.gristUpdateIds q) s t ∧ TookInOrder t p f ∧ t.reg 0x6024 = satAdd32 (s.reg 0x6024) (rqIds p.payload).length ∧
      t.grist.regions = s.grist.regions ∧ t.mem = s.mem := by
  obtain ⟨g, hlate⟩ := takeUpdateIds_late (v := fetched s q p f) hrec hroom hepoch hverdict
  obtain ⟨c, hc⟩ : ∃ c, c = (fetched s q p f).countReg 0x6024 (rqIds p.payload).length := ⟨_, rfl⟩
  obtain ⟨tx, ej', inj', hsent⟩ := sameButSent_gristReply c (c.serveBd g) g.src g.tag 0 [] 4 0
  have hput : takeUpdateIds p (fetched s q p f) =
      State.putServe { c with fab := { c.fab with tx := tx, eject := ej', inj := inj' } } { g with refused := true } := by
    rw [hlate, ← hc, State.refuseServe, hsent]
  obtain ⟨t, hgo, htook, rx, ej, inj, ht⟩ := serves_inOrder h (i := .gristUpdateIds q) (sel := gristIs 1) (perform := takeUpdateIds) rfl
    (gristIs_of hty hkind) hput (by rw [hc]; rfl)
  refine ⟨t, hgo, htook, ?_, ?_, ?_⟩ <;> rw [ht, hc]
  · exact reg_countReg_self (fetched s q p f) _
  · rfl
  · rfl

/-! ### Gradient chunks -/

/-- A group whose owner has no partner is answered and forgotten. -/
theorem closeServe_alone (hpartner : s.partner = none) (r : List Byte) (g : GServe) : s.closeServe r g = s.ackServe g := by
  rw [State.closeServe, hpartner]

theorem ackServe_facts (s : State) (g : GServe) : (s.ackServe g).findServe g.src g.flow g.tag g.kind = none ∧
    (s.ackServe g).fab.rx = s.fab.rx ∧ (s.ackServe g).mem = s.mem ∧ (s.ackServe g).byte = s.byte := by
  obtain ⟨tx, ej, inj, hsent⟩ := sameButSent_gristReply s (s.serveBd g) g.src g.tag 0 [] g.flags (g.ids.length - g.direct)
  refine ⟨findServe_dropServe .., ?_, ?_, ?_⟩ <;> rw [State.ackServe, hsent] <;> rfl

theorem partner_congr {t : State} (h : t.reg 0x7008 = s.reg 0x7008) : t.partner = s.partner := by
  rw [State.partner, h, State.partner]

/-- A group of which the last chunk has come, where no copy is forwarded. -/
theorem finishUpdate_alone {g : GServe} {src flow tag kind : Nat} (hpartner : s.partner = none) (r : List Byte)
    (hkey : g.src = src ∧ g.flow = flow ∧ g.tag = tag ∧ g.kind = kind) :
    (s.finishUpdate r g).findServe src flow tag kind = none ∧ (s.finishUpdate r g).fab.rx = s.fab.rx := by
  obtain ⟨rfl, rfl, rfl, rfl⟩ := hkey
  unfold State.finishUpdate
  extract_lets pool y n
  obtain ⟨m, po, rg, d, hy, hreg⟩ : SameButRows s y.1 := by
    refine List.foldlRecOn g.ids _ (motive := fun y : State × Bool => SameButRows s y.1) (SameButRows.refl s) fun t ht x _ => ?_
    split
    · exact ht.trans (sameButRows_atomic _ (Nat.lt_of_sub_eq_succ rfl))
    · exact ht.trans (sameButRows_applyDirect ..)
  rw [closeServe_alone ((partner_congr hreg).trans hpartner)]
  obtain ⟨hfind, hrx, -, -⟩ := ackServe_facts y.1 { g with direct := n, flags := (if n = 0 then 0 else 16) + (if y.2 then 1 else 0) }
  exact ⟨hfind, hrx.trans (by rw [hy])⟩

/-- A chunk of a group that was not refused: its contributions are added, and the group waits or is performed. -/
theorem takeChunk_adds {v : State} {g : GServe} (hg : v.findServe p.src p.flow (rqTag p.payload) 1 = some g) (hok : g.refused = false) :
    ∃ w, SameButRows v w ∧ takeChunk p v =
      if 4 * gN (v.bytes (v.recordAddr g.table g.mirror) 128) ≤ (g.chunks ++ (packetUnit p).drop 32).length then
        w.finishUpdate (v.bytes (v.recordAddr g.table g.mirror) 128)
          { g with chunks := g.chunks ++ (packetUnit p).drop 32, chunkNo := g.chunkNo + 1 }
      else w.putServe { g with chunks := g.chunks ++ (packetUnit p).drop 32, chunkNo := g.chunkNo + 1 } := by
  refine ⟨_, .foldl (f := fun (t : State) (x : Nat × Nat × Option Nat) => match x.2.2 with
      | some a => t.addDeltas a (g.chunks.length / 4) (deltasOf (v.bytes (v.recordAddr g.table g.mirror) 128) (fld g.pooling 0 3) g.count
          x.2.1 ((packetUnit p).drop 32))
      | none => t) (fun t x => ?_) g.ids v, ?_⟩
  · split
    · exact sameButRows_addDeltas ..
    · exact .refl t
  · unfold takeChunk
    simp only [hg, hok, Bool.false_eq_true, if_false, decide_eq_true_eq] <;> rfl

theorem chunk_waits {g : GServe} (h : InOrder s q p f) (hty : p.type = 0x0C) (hkind : rqKind p.payload = 2)
    (hg : s.findServe p.src p.flow (rqTag p.payload) 1 = some g) (hok : g.refused = false)
    (hmore : (g.chunks ++ (packetUnit p).drop 32).length < 4 * gN (s.bytes (s.recordAddr g.table g.mirror) 128)) :
    ∃ t, Gives (.gristGradientChunk q) s t ∧ TookInOrder t p f ∧ t.findServe p.src p.flow (rqTag p.payload) 1 =
      some { g with chunks := g.chunks ++ (packetUnit p).drop 32, chunkNo := g.chunkNo + 1 } := by
  obtain ⟨w, ⟨m, po, rg, d, hw, -⟩, hperform⟩ := takeChunk_adds (p := p) (v := fetched s q p f) hg hok
  replace hperform := hperform.trans (if_neg (Nat.not_le.mpr hmore))
  have hkey := key_of_findServe hg
  obtain ⟨t, hgo, htook, rx, ej, inj, ht⟩ := serves_inOrder h (i := .gristGradientChunk q) (sel := gristIs 2) (perform := takeChunk) rfl
    (gristIs_of hty hkind) hperform (by
      change w.fab.rx = _
      rw [hw])
  refine ⟨t, hgo, htook, ?_⟩
  rw [ht]
  exact findServe_putServe_of (g := { g with chunks := g.chunks ++ (packetUnit p).drop 32, chunkNo := g.chunkNo + 1 }) w hkey

theorem chunk_closes {g : GServe} (h : InOrder s q p f) (hty : p.type = 0x0C) (hkind : rqKind p.payload = 2)
    (hg : s.findServe p.src p.flow (rqTag p.payload) 1 = some g) (hok : g.refused = false)
    (hlast : 4 * gN (s.bytes (s.recordAddr g.table g.mirror) 128) ≤ (g.chunks ++ (packetUnit p).drop 32).length) (hpartner : s.partner = none) :
    ∃ t, Gives (.gristGradientChunk q) s t ∧ TookInOrder t p f ∧ t.findServe p.src p.flow (rqTag p.payload) 1 = none := by
  obtain ⟨w, ⟨m, po, rg, d, hw, hreg⟩, hperform⟩ := takeChunk_adds (p := p) (v := fetched s q p f) hg hok
  replace hperform := hperform.trans (if_pos hlast)
  have hkey := key_of_findServe hg
  obtain ⟨hnone, hrx⟩ := finishUpdate_alone (s := w) (g := { g with chunks := g.chunks ++ (packetUnit p).drop 32, chunkNo := g.chunkNo + 1 })
    ((partner_congr hreg).trans hpartner) ((fetched s q p f).bytes ((fetched s q p f).recordAddr g.table g.mirror) 128)
    hkey
  obtain ⟨t, hgo, htook, rx, ej, inj, ht⟩ := serves_inOrder h (i := .gristGradientChunk q) (sel := gristIs 2) (perform := takeChunk) rfl
    (gristIs_of hty hkind) hperform (hrx.trans (by rw [hw]))
  refine ⟨t, hgo, htook, ?_⟩
  rw [ht]
  exact hnone

/-! ### Migrated rows -/

theorem cuBytes_take_unit {n : Nat} (hlen : p.len ≤ 256) (hn : n ≤ p.len - 32) :
    cuBytes (((packetUnit p).drop 32).take n) = sliceB p.payload 32 n := by
  rw [cuBytes, packetUnit, Nat.min_eq_left hlen]
  refine List.ext_getElem (by simp; omega) fun i h1 h2 => ?_
  simp [sliceB]

theorem unmarked_take_unit (hpoison : p.poison = 0) (n : Nat) : ∀ x ∈ (((packetUnit p).drop 32).take n).map (·.2), x = false := by
  intro x hx
  obtain ⟨y, hy, rfl⟩ := List.mem_map.mp hx
  obtain ⟨i, -, rfl⟩ := List.mem_map.mp (List.mem_of_mem_drop (List.mem_of_mem_take hy))
  rw [hpoison, bitAt_eq_testBit, Nat.zero_testBit]

theorem length_unit (hlen : p.len ≤ 256) : ((packetUnit p).drop 32).length = p.len - 32 := by
  simp [packetUnit, Nat.min_eq_left hlen]

/-- A migrated row that comes in one packet is put at its home slot, and its group closes. -/
theorem takeMigrated_writes {v : State} {r : List Byte} {row : Nat}
    (hrec : v.record (rqTable p.payload) (rqMirror p.payload) = some r) (hnew : v.findServe p.src p.flow (rqTag p.payload) 3 = none)
    (hroom : v.grist.serving.length < 4096) (hepoch : rqEpoch p.payload = v.dirEpoch)
    (hall : gSlot r + 4 ≤ ((packetUnit p).drop 32).length) (hplain : gAdagrad r = false) :
    ∃ g, takeMigrated row none p v = (v.putBytesAt v.windows (v.homePlace r (gActive r) row).slot
      (cuBytes (((packetUnit p).drop 32).take (gSlot r))) ((((packetUnit p).drop 32).take (gSlot r)).map (·.2)) (gSlot r / 64 + 2)).1.closeServe r g := by
  unfold takeMigrated
  have hrec' : v.record (newServe p 3).table (newServe p 3).mirror = some r := hrec
  have hno : (newServe p 3).refused = false := rfl
  have hchunks : (newServe p 3).chunks = [] := rfl
  simp only [hnew, Option.getD_none, hrec', hno, hchunks, List.nil_append, not_serveFull hroom, Bool.false_eq_true, and_false, if_false, hepoch,
    ne_eq, not_true_eq_false, decide_eq_true hall, if_true, hplain, List.headD_cons]
  exact ⟨_, rfl⟩

theorem migrated_written {r : List Byte} {row a : Nat} (h : InOrder s q p f) (hty : p.type = 0x0C) (hkind : rqKind p.payload = 3)
    (hrec : s.record (rqTable p.payload) (rqMirror p.payload) = some r) (hnew : s.findServe p.src p.flow (rqTag p.payload) 3 = none)
    (hroom : s.grist.serving.length < 4096) (hepoch : rqEpoch p.payload = s.dirEpoch) (hall : gSlot r + 4 ≤ p.len - 32)
    (hplain : gAdagrad r = false) (hpoison : p.poison = 0) (hpartner : s.partner = none) (ha : a = (s.homePlace r (gActive r) row).slot)
    (hm : s.rangeMapped a (gSlot r) = true) (hp : s.rangePoisoned a (gSlot r) = false) :
    ∃ t, Gives (.gristMigratedRow q row none) s t ∧ TookInOrder t p f ∧ t.bytes a (gSlot r) = sliceB p.payload 32 (gSlot r) ∧
      OnlyBytes s t a (gSlot r) := by
  subst ha
  have hlen := len_of_formatValid h.2.2.1
  obtain ⟨g, hperform⟩ := takeMigrated_writes (p := p) (v := fetched s q p f) (row := row) hrec hnew hroom hepoch
    (by rw [length_unit hlen]; exact hall) hplain
  rw [cuBytes_take_unit hlen (by omega)] at hperform
  have hslice : (sliceB p.payload 32 (gSlot r)).length = gSlot r := ByteFields.length_sliceB ..
  obtain ⟨hstored, -⟩ := stored_putBytesAt (s := fetched s q p f) (a := (s.homePlace r (gActive r) row).slot)
    (bs := sliceB p.payload 32 (gSlot r)) (fetched s q p f).windows (by rw [hslice]; exact clear_of_plain ⟨hm, hp⟩)
    (unmarked_take_unit hpoison (gSlot r)) (f := gSlot r / 64 + 2) (by rw [hslice]; omega)
  obtain ⟨x, hx⟩ : ∃ x, x = ((fetched s q p f).putBytesAt (fetched s q p f).windows (s.homePlace r (gActive r) row).slot
    (sliceB p.payload 32 (gSlot r)) ((((packetUnit p).drop 32).take (gSlot r)).map (·.2)) (gSlot r / 64 + 2)).1 := ⟨_, rfl⟩
  rw [← hx] at hstored
  have hclose : takeMigrated row none p (fetched s q p f) = x.ackServe g := by
    rw [hperform]
    refine (congrArg (fun y => State.closeServe y r g) hx.symm).trans ?_
    exact closeServe_alone ((partner_congr (hstored.reg _)).trans hpartner) r g
  obtain ⟨-, hrx, -, hbyte⟩ := ackServe_facts x g
  have hbytes := hstored.bytes_eq
  have honly := hstored.onlyBytes
  rw [hslice] at hbytes honly
  obtain ⟨⟨m, hxm⟩, -⟩ := hstored
  obtain ⟨t, hgo, htook, rx, ej, inj, ht⟩ := serves_inOrder h (i := .gristMigratedRow q row none) (sel := gristIs 3)
    (perform := takeMigrated row none) rfl (gristIs_of hty hkind) hclose (hrx.trans (by rw [hxm]))
  have hsame (y : Nat) : t.byte y = x.byte y := by
    rw [ht]
    exact congrFun hbyte y
  refine ⟨t, hgo, htook, ?_, fun y hy => (hsame y).trans (honly y hy)⟩
  rw [← hbytes]
  exact List.map_congr_left fun i _ => hsame _

end

/-- Settles O38: by the packet taken in order and what serving it does, its replies and its group's region. -/
theorem gristOwnerServes : Obligations.GristOwnerServes := by
  intro s q p f h hty b rec? x
  refine ⟨fun r y l hkind hrec hids hepoch hfold hwarm hsize => ?_, fun r hkind hrec hepoch => lookup_stale h hty hkind hrec hepoch,
    fun r hkind hrec hroom hepoch hverdict => update_opened h hty hkind hrec hroom hepoch rfl hverdict,
    fun r hkind hrec hroom hepoch hverdict => update_late h hty hkind hrec hroom hepoch hverdict, fun g hkind hg hok => ?_,
    fun r row a hkind hrec hnew hroom hepoch hall hplain hpoison hpartner ha hm hp =>
      migrated_written h hty hkind hrec hnew hroom hepoch hall hplain hpoison hpartner ha hm hp⟩
  · intro place hclean fl hroom
    exact lookup_answered h hty hkind hrec hids hepoch hfold hwarm hsize hclean rfl hroom
  · intro r n
    have hn : (g.chunks ++ (packetUnit p).drop 32).length = n := List.length_append
    exact ⟨fun hmore => chunk_waits h hty hkind hg hok (hn ▸ hmore), fun hlast hpartner => chunk_closes h hty hkind hg hok (hn ▸ hlast) hpartner⟩

end Sys2Proof.Proofs.GristServing
end

section
/-! PROOF. Flags, posts and credit semaphores of a sequencer (R168–R173, R184). -/

namespace Sys2Proof.Proofs.SemaphoresOfSequencers

open Sys2Proof.Machine Sys2Proof.Claims Sys2Proof.Proofs.Issue Sys2Proof.Proofs.Branches Sys2Proof.Proofs.SequencerFaults
open Sys2Proof.Proofs.Registers Sys2Proof.Proofs.Waits Sys2Proof.Proofs.Payloads Sys2Proof.Proofs.Movements

section
variable {s : State} {cd : Cd} {w : IWord} {op align : Nat}

/-! ### Issue -/

/-- The operation that a synchronisation instruction becomes. -/
def syncOf (d : Die) (w : IWord) : Op := { d.syncOp w.toNat with id := d.nextId }

/-- The die once such an instruction is issued in a state. -/
def issuedIn (d : Die) (w : IWord) (st : OpSt) : Die :=
  { d with pc := d.pc + 16, ops := d.ops ++ [{ syncOf d w with st := st }], nextId := d.nextId + 1 }

theorem issueSync_full (h : Ready s cd w 5 op) (hfull : ¬((s.die cd).ops.filter (fun o => o.cls == 5)).length < 64) :
    issueSync cd w op align s = s.setDie cd { s.die cd with stall := .queueFull } := by
  rw [issueSync, issueAll_ready h]
  exact if_pos (Nat.not_lt.mp hfull)

theorem issueSync_faults (h : Ready s cd w 5 op) (hop : op ≠ 6) (hfew : ((s.die cd).ops.filter (fun o => o.cls == 5)).length < 64)
    (hbad : (aReg (s.die cd) (fld w.toNat 20 4)).toNat % align ≠ 0 ∨
      w.getLsbD 34 = false ∧ s.atomicHome (aReg (s.die cd) (fld w.toNat 20 4)).toNat = false) :
    issueSync cd w op align s = s.setDie cd (faulted (s.die cd) 8 5 op 0 0) := by
  rw [issueSync, issueAll_ready h, ← ready_fail h]
  refine (if_neg (Nat.not_le.mpr hfew)).trans (if_pos ⟨hop, hbad.imp id fun ⟨hlocal, hhome⟩ => ?_⟩)
  exact ⟨(bitAt_toNat w 34).trans hlocal, Bool.and_eq_false_iff.mpr (.inr hhome)⟩

theorem issueSync_ready (h : Ready s cd w 5 op) (hfew : ((s.die cd).ops.filter (fun o => o.cls == 5)).length < 64)
    (hok : op = 6 ∨ (aReg (s.die cd) (fld w.toNat 20 4)).toNat % align = 0 ∧
      (w.getLsbD 34 = true ∨ s.atomicHome (aReg (s.die cd) (fld w.toNat 20 4)).toNat = true)) :
    issueSync cd w op align s = if s.syncReady cd (syncOf (s.die cd) w) = false then s.setDie cd (issuedIn (s.die cd) w .queued)
      else (s.setDie cd (issuedIn (s.die cd) w .flight)).syncEffect cd (syncOf (s.die cd) w) := by
  rw [issueSync, issueAll_ready h]
  refine (if_neg (Nat.not_le.mpr hfew)).trans (if_neg fun ⟨hop, hbad⟩ => ?_)
  obtain rfl | ⟨halign, hhome⟩ := hok
  · exact hop rfl
  obtain hbad | ⟨hlocal, hbad⟩ := hbad
  · exact hbad halign
  · have hlocal : w.getLsbD 34 = false := (bitAt_toNat w 34).symm.trans hlocal
    have hbad : (decide ((aReg (s.die cd) (fld w.toNat 20 4)).toNat % align = 0) &&
      s.atomicHome (aReg (s.die cd) (fld w.toNat 20 4)).toNat) = false := hbad
    rw [decide_eq_true halign, hhome.resolve_left (by rw [hlocal]; decide)] at hbad
    exact absurd hbad (by decide)

theorem syncReady_of_room (hord : w.getLsbD 35 = false ∨ ∀ o ∈ (s.die cd).ops, o.ctr ≠ some (fld w.toNat 16 4))
    (hroom : s.replyRoom cd (syncOf (s.die cd) w) = true) : s.syncReady cd (syncOf (s.die cd) w) = true := by
  have hwait : ((syncOf (s.die cd) w).isOrdered && (s.die cd).earlierBusy (syncOf (s.die cd) w)) = false := by
    obtain hord | hord := hord
    · rw [show (syncOf (s.die cd) w).isOrdered = false from (bitAt_toNat w 35).trans hord]
      rfl
    · refine Bool.and_eq_false_iff.mpr (.inr (List.any_eq_false.mpr fun o ho => ?_))
      have hctr : (o.ctr == (syncOf (s.die cd) w).ctr) = false := beq_false_of_ne (hord o ho)
      rw [hctr, Bool.and_false]
      exact Bool.false_ne_true
  rw [State.syncReady, hwait, hroom]
  rfl

theorem not_syncReady (hord : w.getLsbD 35 = true) (hbusy : ∃ o ∈ (s.die cd).ops, o.ctr = some (fld w.toNat 16 4) ∧ o.id < (s.die cd).nextId) :
    s.syncReady cd (syncOf (s.die cd) w) = false := by
  obtain ⟨o, ho, hctr, hid⟩ := hbusy
  have hearlier : (s.die cd).earlierBusy (syncOf (s.die cd) w) = true := by
    refine List.any_eq_true.mpr ⟨o, ho, Bool.and_eq_true_iff.mpr ⟨decide_eq_true hid, ?_⟩⟩
    rw [hctr]
    exact beq_self_eq_true _
  rw [State.syncReady, hearlier, show (syncOf (s.die cd) w).isOrdered = true from (bitAt_toNat w 35).trans hord]
  rfl

/-- A local operation, or a post, needs no room for a reply. -/
theorem replyRoom_local {o : Op} (h : o.remote = false ∨ o.code = 6) : s.replyRoom cd o = true := by
  obtain h | h := h <;> simp [State.replyRoom, h]

theorem replyRoom_none {o : Op} (h : ∀ o ∈ (s.die cd).ops, o.cls ≠ 5) (hwin : 0 < fld (s.reg 0x401C) 0 7) : s.replyRoom cd o = true := by
  have hnone : (s.die cd).ops.filter (fun x => x.cls == 5 && x.st == .flight && x.remote && x.coord == o.coord) = [] :=
    List.filter_eq_nil_iff.mpr fun x hx => by simp [h x hx]
  rw [State.replyRoom, hnone, List.length_nil, decide_eq_true hwin, Bool.or_true]

/-- The code of an operation that is ready is its command's. -/
theorem syncOf_code (h : Ready s cd w 5 op) : (syncOf (s.die cd) w).code = op := (issues_decoded h.1).2.2

/-! ### Effects -/

/-- A local flag_add or sem_rel waits at its home with its sign-extended value. -/
theorem syncEffect_local {o : Op} (hcode : o.code ≠ 6) (hlocal : o.remote = false) (u : State) : u.syncEffect cd o =
    { u with homeQ := u.homeQ ++ [⟨if o.code = 1 then 0 else 6, o.addr, sext64 o.val, 0, u.selfCoord + cd.val * 2 ^ 20, .instr cd.val o.id⟩] } := by
  rw [State.syncEffect, if_neg hcode, hlocal]
  rfl

/-- A flag_add or sem_rel to its home here: command, op, alignment, code at the home. -/
theorem sync_local {i : Instr} (hi : exec i s = .next (issueSync cd w op align s)) (hop : op ≠ 6) (h : Ready s cd w 5 op)
    (hfew : ((s.die cd).ops.filter (fun o => o.cls == 5)).length < 64) (hlocal : w.getLsbD 34 = false)
    (halign : (aReg (s.die cd) (fld w.toNat 20 4)).toNat % align = 0)
    (hhome : s.atomicHome (aReg (s.die cd) (fld w.toNat 20 4)).toNat = true)
    (hord : w.getLsbD 35 = false ∨ ∀ o ∈ (s.die cd).ops, o.ctr ≠ some (fld w.toNat 16 4)) :
    ∃ t o, Gives i s t ∧ (t.die cd).ops = (s.die cd).ops ++ [o] ∧ o.id = (s.die cd).nextId ∧ o.st = .flight ∧
      o.ctr = some (fld w.toNat 16 4) ∧ (t.die cd).pc = (s.die cd).pc + 16 ∧ (t.die cd).cnt = (s.die cd).cnt ∧
      t.homeQ = s.homeQ ++ [⟨if op = 1 then 0 else 6, (aReg (s.die cd) (fld w.toNat 20 4)).toNat,
        ((sReg (s.die cd) (fld w.toNat 24 5)).signExtend 64).toNat, 0, s.selfCoord + cd.val * 2 ^ 20, .instr cd.val (s.die cd).nextId⟩] ∧
      t.mem = s.mem ∧ t.host = s.host ∧ t.fab = s.fab := by
  have hremote : (syncOf (s.die cd) w).remote = false := (bitAt_toNat w 34).trans hlocal
  have hcode := syncOf_code h
  have hstep := issueSync_ready (align := align) h hfew (.inr ⟨halign, .inr hhome⟩)
  rw [if_neg (by rw [syncReady_of_room hord (replyRoom_local (.inl hremote))]; decide),
    syncEffect_local (by rw [hcode]; exact hop) hremote, hcode] at hstep
  obtain ⟨u, hu⟩ : ∃ u, u = s.setDie cd (issuedIn (s.die cd) w .flight) := ⟨_, rfl⟩
  have hdie : u.die cd = issuedIn (s.die cd) w .flight := by rw [hu, State.die_setDie_self]
  rw [← hu] at hstep
  refine ⟨_, { syncOf (s.die cd) w with st := .flight }, hi.trans (congrArg Host.Outcome.next hstep), ?_, rfl, rfl, rfl, ?_, ?_, ?_, ?_, ?_, ?_⟩
  · have hops := congrArg Die.ops hdie
    exact hops
  · have hpc := congrArg Die.pc hdie
    exact hpc
  · have hcnt := congrArg Die.cnt hdie
    exact hcnt
  · rw [← sext64_toNat, hu]
    rfl
  all_goals rw [hu]; rfl

/-- An ordered operation behind an earlier one on its counter waits. -/
theorem sync_waits {i : Instr} (hi : exec i s = .next (issueSync cd w op align s)) (h : Ready s cd w 5 op)
    (hfew : ((s.die cd).ops.filter (fun o => o.cls == 5)).length < 64) (hord : w.getLsbD 35 = true)
    (hbusy : ∃ o ∈ (s.die cd).ops, o.ctr = some (fld w.toNat 16 4) ∧ o.id < (s.die cd).nextId)
    (hok : op = 6 ∨ (aReg (s.die cd) (fld w.toNat 20 4)).toNat % align = 0 ∧
      (w.getLsbD 34 = true ∨ s.atomicHome (aReg (s.die cd) (fld w.toNat 20 4)).toNat = true)) :
    ∃ t o, Gives i s t ∧ (t.die cd).ops = (s.die cd).ops ++ [o] ∧ o.st = .queued ∧ (t.die cd).pc = (s.die cd).pc + 16 ∧
      (t.die cd).cnt = (s.die cd).cnt ∧ t.homeQ = s.homeQ ∧ t.host = s.host ∧ t.mem = s.mem := by
  have hstep := issueSync_ready (align := align) h hfew hok
  rw [if_pos (not_syncReady hord hbusy)] at hstep
  refine ⟨_, { syncOf (s.die cd) w with st := .queued }, hi.trans (congrArg Host.Outcome.next hstep), ?_, rfl, ?_, ?_, rfl, rfl, rfl⟩ <;>
    rw [State.die_setDie_self] <;> rfl

/-- A post holds its event for the ring it names. -/
theorem post_holds (h : Ready s cd w 5 6) (hfew : ((s.die cd).ops.filter (fun o => o.cls == 5)).length < 64)
    (hord : w.getLsbD 35 = false ∨ ∀ o ∈ (s.die cd).ops, o.ctr ≠ some (fld w.toNat 16 4)) (hreset : s.host.resetting = 0) :
    ∃ t e, Gives (.post cd w) s t ∧ t.host.heldQ = s.host.heldQ ++ [e] ∧ e.isEvt = true ∧
      e.ring = some (fld w.toNat 36 13) ∧ e.src = 1 + cd.val ∧ e.post = some (cd.val, (s.die cd).nextId) ∧
      fieldB e.bytes 0 2 = 1 ∧ fieldB e.bytes 16 4 = (sReg (s.die cd) (fld w.toNat 24 5)).toNat ∧ fieldB e.bytes 20 1 = cd.val ∧
      (t.die cd).pc = (s.die cd).pc + 16 ∧ (t.die cd).cnt = (s.die cd).cnt ∧ t.mem = s.mem ∧ t.homeQ = s.homeQ := by
  have hstep := issueSync_ready (align := 1) h hfew (.inl rfl)
  have hcode := syncOf_code h
  rw [if_neg (by rw [syncReady_of_room hord (replyRoom_local (.inr hcode))]; decide)] at hstep
  obtain ⟨u, hu⟩ : ∃ u, u = s.setDie cd (issuedIn (s.die cd) w .flight) := ⟨_, rfl⟩
  have hdie : u.die cd = issuedIn (s.die cd) w .flight := by rw [hu, State.die_setDie_self]
  have hur : u.host.resetting = 0 := by rw [hu]; exact hreset
  obtain ⟨e, he⟩ : ∃ e : Entry, e = ⟨1 + cd.val, some (fld w.toNat 36 13), true, eventBytes 0x0001 (1 + cd.val) u.time
    [(16, 4, (sReg (s.die cd) (fld w.toNat 24 5)).toNat), (20, 1, cd.val)], false, 0, some (cd.val, (s.die cd).nextId)⟩ := ⟨_, rfl⟩
  have heffect : u.syncEffect cd (syncOf (s.die cd) w) = { u with host := { u.host with heldQ := u.host.heldQ ++ [e] } } := by
    rw [State.syncEffect, if_pos hcode, if_pos hur, he]
    exact if_pos hur
  have hfits : ByteFields.PayloadFits [(16, 4, (sReg (s.die cd) (fld w.toNat 24 5)).toNat), (20, 1, cd.val)] := by
    simp [ByteFields.PayloadFits, ByteFields.Apart]
  have hpc := congrArg Die.pc hdie
  have hcnt := congrArg Die.cnt hdie
  refine ⟨_, e, congrArg Host.Outcome.next (hstep.trans (hu ▸ heffect)), ?_, by rw [he], by rw [he], by rw [he], by rw [he], ?_, ?_, ?_, ?_, ?_, ?_, ?_⟩
  · rfl
  · rw [he]
    exact ByteFields.fieldB_eventBytes (off := 0) (n := 2) (v := 1) hfits _ _ _ (by simp [ByteFields.eventFields])
  · rw [he]
    exact (ByteFields.fieldB_eventBytes hfits _ _ _ (by simp [ByteFields.eventFields])).trans (Nat.mod_eq_of_lt (BitVec.isLt _))
  · rw [he]
    exact (ByteFields.fieldB_eventBytes hfits _ _ _ (by simp [ByteFields.eventFields])).trans (Nat.mod_eq_of_lt (by omega))
  · rw [← hu]
    exact hpc
  · rw [← hu]
    exact hcnt
  · rfl
  · rfl

/-! ### Atomics for other devices -/

/-- The packet of an atomic for another device (Table 8-6). -/
def atomicPacket (s : State) (cd : Cd) (dev code addr v tag : Nat) : Packet :=
  s.mkPacket dev 0x06 (memFlow cd.val 1 0) 36 false 0
    (natLE 8 addr ++ natLE 4 code ++ natLE 4 tag ++ natLE 8 v ++ natLE 8 0 ++ natLE 4 (s.selfCoord + cd.val * 2 ^ 20))

theorem sendAtomic_away (s : State) (cd : Cd) (dev code addr v tag : Nat) (org : Origin) (ow : Owner) :
    s.sendAtomic cd (some dev) code addr v tag org ow = s.sendFlow (atomicPacket s cd dev code addr v tag) ow := rfl

theorem atomicPacket_fields {dev code addr v tag : Nat} (haddr : addr < 2 ^ 64) (hcode : code < 2 ^ 32) (htag : tag < 2 ^ 32)
    (hv : v < 2 ^ 64) : fieldB (atomicPacket s cd dev code addr v tag).payload 0 8 = addr ∧
      fieldB (atomicPacket s cd dev code addr v tag).payload 8 4 = code ∧ fieldB (atomicPacket s cd dev code addr v tag).payload 12 4 = tag ∧
      fieldB (atomicPacket s cd dev code addr v tag).payload 16 8 = v := by
  refine ⟨?_, ?_, ?_, ?_⟩ <;> unfold atomicPacket State.mkPacket <;> dsimp only <;> rw [fieldB_payload _ (by decide)]
  · iterate 5 rw [fieldB_append_left _ (by simp [MemoryAccess.length_natLE])]
    rw [fieldB_natLE]
    exact Nat.mod_eq_of_lt haddr
  · iterate 4 rw [fieldB_append_left _ (by simp [MemoryAccess.length_natLE])]
    rw [fieldB_append_right _ (by simp [MemoryAccess.length_natLE])]
    simp only [MemoryAccess.length_natLE, Nat.sub_self]
    rw [fieldB_natLE]
    exact Nat.mod_eq_of_lt hcode
  · iterate 3 rw [fieldB_append_left _ (by simp [MemoryAccess.length_natLE])]
    rw [fieldB_append_right _ (by simp [MemoryAccess.length_natLE])]
    simp only [List.length_append, MemoryAccess.length_natLE, Nat.reduceAdd, Nat.sub_self]
    rw [fieldB_natLE]
    exact Nat.mod_eq_of_lt htag
  · iterate 2 rw [fieldB_append_left _ (by simp [MemoryAccess.length_natLE])]
    rw [fieldB_append_right _ (by simp [MemoryAccess.length_natLE])]
    simp only [List.length_append, MemoryAccess.length_natLE, Nat.reduceAdd, Nat.sub_self]
    rw [fieldB_natLE]
    exact Nat.mod_eq_of_lt hv

/-- A flag_add or sem_rel for another device goes as an atomic request packet. -/
theorem sync_away {i : Instr} (hi : exec i s = .next (issueSync cd w op align s)) (hop : op ≠ 6) (h : Ready s cd w 5 op)
    (hfew : ((s.die cd).ops.filter (fun o => o.cls == 5)).length < 64) (hremote : w.getLsbD 34 = true)
    (halign : (aReg (s.die cd) (fld w.toNat 20 4)).toNat % align = 0)
    (hord : w.getLsbD 35 = false ∨ ∀ o ∈ (s.die cd).ops, o.ctr ≠ some (fld w.toNat 16 4))
    (hnone : ∀ o ∈ (s.die cd).ops, o.cls ≠ 5) (hwin : 0 < fld (s.reg 0x401C) 0 7) :
    ∃ u o p, Gives i s (u.sendFlow p (.op cd.val (s.die cd).nextId)) ∧
      u = s.setDie cd { s.die cd with pc := (s.die cd).pc + 16, ops := (s.die cd).ops ++ [o], nextId := (s.die cd).nextId + 1 } ∧
      o.st = .flight ∧ o.ctr = some (fld w.toNat 16 4) ∧ p.type = 0x06 ∧
      p.dst = (sReg (s.die cd) (fld w.toNat 29 5)).toNat % 2 ^ 20 ∧
      fieldB p.payload 0 8 = (aReg (s.die cd) (fld w.toNat 20 4)).toNat ∧ fieldB p.payload 8 4 = (if op = 1 then 0 else 6) ∧
      fieldB p.payload 16 8 = ((sReg (s.die cd) (fld w.toNat 24 5)).signExtend 64).toNat := by
  have hremote' : (syncOf (s.die cd) w).remote = true := (bitAt_toNat w 34).trans hremote
  have hcode := syncOf_code h
  have hstep := issueSync_ready (align := align) h hfew (.inr ⟨halign, .inl hremote⟩)
  rw [if_neg (by rw [syncReady_of_room hord (replyRoom_none hnone hwin)]; decide)] at hstep
  obtain ⟨u, hu⟩ : ∃ u, u = s.setDie cd (issuedIn (s.die cd) w .flight) := ⟨_, rfl⟩
  rw [← hu] at hstep
  have heffect : u.syncEffect cd (syncOf (s.die cd) w) = u.sendFlow (atomicPacket u cd ((sReg (s.die cd) (fld w.toNat 29 5)).toNat % 2 ^ 20)
      (if op = 1 then 0 else 6) (aReg (s.die cd) (fld w.toNat 20 4)).toNat (sext64 (sReg (s.die cd) (fld w.toNat 24 5)).toNat)
      ((s.die cd).nextId % 2 ^ 32)) (.op cd.val (s.die cd).nextId) := by
    rw [State.syncEffect, if_neg (by rw [hcode]; exact hop), hremote', hcode]
    rfl
  have haddr : (aReg (s.die cd) (fld w.toNat 20 4)).toNat < 2 ^ 64 := lt_trans (BitVec.isLt _) (by decide)
  obtain ⟨h0, h8, -, h16⟩ := atomicPacket_fields (s := u) (cd := cd) (dev := (sReg (s.die cd) (fld w.toNat 29 5)).toNat % 2 ^ 20)
    (code := if op = 1 then 0 else 6) (tag := (s.die cd).nextId % 2 ^ 32) haddr (by split <;> decide) (Nat.mod_lt _ (by decide))
    (v := sext64 (sReg (s.die cd) (fld w.toNat 24 5)).toNat) (by rw [sext64_toNat]; exact BitVec.isLt _)
  refine ⟨u, { syncOf (s.die cd) w with st := .flight }, _, hi.trans (congrArg Host.Outcome.next (hstep.trans heffect)), hu, rfl, rfl, rfl, ?_, h0, h8, ?_⟩
  · exact Nat.mod_mod _ _
  · rw [h16, sext64_toNat]

/-- A waiting flag_add whose turn has come goes to its home. -/
theorem orderedRelease_sends {o : Op} (ho : (s.die cd).ops.find? (fun x => x.id == o.id) = some o) (hcls : o.cls = 5) (hcode : o.code = 1)
    (hst : o.st = .queued) (hfree : (s.die cd).ops.any (fun x => decide (x.id < o.id) && x.ctr == o.ctr) = false)
    (hlocal : bitAt o.w 34 = false) :
    ∃ t, Gives (.orderedRelease cd o.id) s t ∧ t.homeQ.length = s.homeQ.length + 1 ∧
      (t.homeQ.getLast?).map (fun q => (q.code, q.addr, q.op1)) =
        some (0, o.av.getD 0 0, ofSigned 64 (toSigned 32 (o.sv.getD 0 0))) ∧
      t.mem = s.mem ∧ t.host = s.host := by
  have hfind : (s.die cd).op? o.id = some o := ho
  have hready : s.syncReady cd o = true := by
    rw [State.syncReady, show (s.die cd).earlierBusy o = false from hfree, replyRoom_local (.inl hlocal), Bool.and_false]
    rfl
  have hstep : orderedRelease cd o.id s = (s.updDie cd (fun d => d.putOp { o with st := .flight })).syncEffect cd o := by
    unfold orderedRelease
    rw [hfind]
    dsimp only
    rw [if_pos (by rw [hcls, hst, hready]; rfl)]
  rw [syncEffect_local (by rw [hcode]; decide) hlocal, hcode] at hstep
  refine ⟨_, congrArg Host.Outcome.next hstep, ?_, ?_, rfl, rfl⟩
  · exact List.length_append
  · dsimp only
    rw [List.getLast?_concat]
    rfl

end

theorem flagSemaphorePost : FlagSemaphorePost := by
  intro cd w s d a v few
  refine ⟨fun r hr => ?_, fun h hfew hord hreset => post_holds h hfew hord hreset, fun r hr => ?_, fun r hr => ?_, fun r hr => ?_, fun r hr => ?_,
    fun o ho hcls hcode hst hfree hlocal => orderedRelease_sends ho hcls hcode hst hfree hlocal⟩ <;>
    simp only [List.mem_cons, List.not_mem_nil, or_false] at hr
  · rcases hr with rfl | rfl
    · exact fun h hfew hlocal halign hhome hord => sync_local (align := 8) rfl (by decide) h hfew hlocal halign hhome hord
    · exact fun h hfew hlocal halign hhome hord => sync_local (align := 16) rfl (by decide) h hfew hlocal halign hhome hord
  · rcases hr with rfl | rfl
    · exact fun h hfew hremote halign hord hnone hwin => sync_away (align := 8) rfl (by decide) h hfew hremote halign hord hnone hwin
    · exact fun h hfew hremote halign hord hnone hwin => sync_away (align := 16) rfl (by decide) h hfew hremote halign hord hnone hwin
  · rcases hr with rfl | rfl
    · exact fun h hfew hbad => congrArg Host.Outcome.next (issueSync_faults (align := 8) h (by decide) hfew hbad)
    · exact fun h hfew hbad => congrArg Host.Outcome.next (issueSync_faults (align := 16) h (by decide) hfew hbad)
  · rcases hr with rfl | rfl | rfl
    · exact fun h hfull => congrArg Host.Outcome.next (issueSync_full (align := 8) h hfull)
    · exact fun h hfull => congrArg Host.Outcome.next (issueSync_full (align := 16) h hfull)
    · exact fun h hfull => congrArg Host.Outcome.next (issueSync_full (align := 1) h hfull)
  · rcases hr with rfl | rfl | rfl
    · exact fun h hfew hord hbusy hok => sync_waits (align := 8) rfl h hfew hord hbusy hok
    · exact fun h hfew hord hbusy hok => sync_waits (align := 16) rfl h hfew hord hbusy hok
    · exact fun h hfew hord hbusy hok => sync_waits (align := 1) rfl h hfew hord hbusy hok

/-! ### Acquiring -/

section
variable {s : State} {cd : Cd} {w : IWord}

/-- A count that a word can hold as a positive signed number. -/
theorem toSigned_of_lt {n : Nat} (hlt : n < 2 ^ 31) : toSigned 32 n = n := by
  unfold toSigned
  rw [Nat.mod_eq_of_lt (by omega)]
  exact if_pos (by omega)

theorem sext64_of_lt {n : Nat} (hlt : n < 2 ^ 31) : sext64 n = n := by
  rw [sext64, toSigned_of_lt hlt]
  unfold ofSigned
  omega

/-- The die as its request, under a number of its own, is on its way. -/
def asking (d : Die) (dev : Option Nat) (a n : Nat) : Die :=
  { d with stall := .semAcq dev a n .sent (d.nextId % 2 ^ 32), nextId := d.nextId + 1 }

theorem sendAcquire_here {a n : Nat} (hlt : n < 2 ^ 31) (s : State) : s.sendAcquire cd none a n =
    { s.setDie cd (asking (s.die cd) none a n) with
      homeQ := s.homeQ ++ [⟨5, a, n, 0, s.selfCoord + cd.val * 2 ^ 20, .acq cd.val ((s.die cd).nextId % 2 ^ 32)⟩] } := by
  unfold State.sendAcquire
  rw [sext64_of_lt hlt]
  rfl

theorem sendAcquire_away {a n dev : Nat} (hlt : n < 2 ^ 31) (s : State) : s.sendAcquire cd (some dev) a n =
    (s.setDie cd (asking (s.die cd) (some dev) a n)).sendFlow
      (atomicPacket (s.setDie cd (asking (s.die cd) (some dev) a n)) cd dev 5 a n ((s.die cd).nextId % 2 ^ 32))
      (.op cd.val ((s.die cd).nextId % 2 ^ 32)) := by
  unfold State.sendAcquire
  rw [sext64_of_lt hlt]
  rfl

theorem execSemAcq_asks (h : Ready s cd w 5 3) (hpos : 0 < (sReg (s.die cd) (fld w.toNat 24 5)).toNat)
    (hlt : (sReg (s.die cd) (fld w.toNat 24 5)).toNat < 2 ^ 31) (halign : (aReg (s.die cd) (fld w.toNat 20 4)).toNat % 16 = 0)
    (hhome : w.getLsbD 34 = true ∨ s.atomicHome (aReg (s.die cd) (fld w.toNat 20 4)).toNat = true) :
    execSemAcq cd w s = .next (s.sendAcquire cd
      (if w.getLsbD 34 then some ((sReg (s.die cd) (fld w.toNat 29 5)).toNat % 2 ^ 20) else none)
      (aReg (s.die cd) (fld w.toNat 20 4)).toNat (sReg (s.die cd) (fld w.toNat 24 5)).toNat) := by
  rw [execSemAcq, issueAll_ready h]
  refine congrArg Host.Outcome.next ?_
  dsimp only
  rw [if_neg (by rw [toSigned_of_lt hlt]; omega), if_neg, bitAt_toNat]
  rw [bitAt_toNat]
  rintro (hbad | ⟨hlocal, hbad⟩)
  · exact hbad halign
  · have hok := (syncAddrOk_iff s _ 16).mpr ⟨halign, hhome.resolve_left (by rw [hlocal]; decide)⟩
    rw [hok] at hbad
    exact absurd hbad (by decide)

theorem execSemAcq_badAddress (h : Ready s cd w 5 3) (hpos : 0 < (sReg (s.die cd) (fld w.toNat 24 5)).toNat)
    (hlt : (sReg (s.die cd) (fld w.toNat 24 5)).toNat < 2 ^ 31)
    (hbad : (aReg (s.die cd) (fld w.toNat 20 4)).toNat % 16 ≠ 0 ∨
      w.getLsbD 34 = false ∧ s.atomicHome (aReg (s.die cd) (fld w.toNat 20 4)).toNat = false) :
    execSemAcq cd w s = .next (s.setDie cd (faulted (s.die cd) 8 5 3 0 0)) := by
  rw [execSemAcq, issueAll_ready h, ← ready_fail h]
  refine congrArg Host.Outcome.next ?_
  dsimp only
  rw [if_neg (by rw [toSigned_of_lt hlt]; omega), if_pos]
  exact hbad.imp id fun ⟨hlocal, hhome⟩ => ⟨(bitAt_toNat w 34).trans hlocal, Bool.and_eq_false_iff.mpr (.inr hhome)⟩

theorem execSemAcq_noCredit (h : Ready s cd w 5 3)
    (hn : (sReg (s.die cd) (fld w.toNat 24 5)).toNat = 0 ∨ 2 ^ 31 ≤ (sReg (s.die cd) (fld w.toNat 24 5)).toNat) :
    execSemAcq cd w s = .next (s.setDie cd (faulted (s.die cd) 1 5 3 0 0)) := by
  rw [execSemAcq, issueAll_ready h, ← ready_fail h]
  refine congrArg Host.Outcome.next (if_pos ?_)
  have hword : (sReg (s.die cd) (fld w.toNat 24 5)).toNat < 2 ^ 32 := BitVec.isLt _
  change toSigned 32 (sReg (s.die cd) (fld w.toNat 24 5)).toNat < 1
  unfold toSigned
  rw [Nat.mod_eq_of_lt hword]
  dsimp only
  split <;> omega

/-! ### Replies -/

theorem takeReply_head (k r : Nat) (l : List (Nat × Nat × Nat)) (c : Nat) : takeReply ((c, k, r) :: l) c = some ((k, r), l) := if_pos rfl

theorem semAcqReply_waiting {dev : Option Nat} {k r b m : Nat} {l : List (Nat × Nat × Nat)} (hreply : s.replies = (cd.val, k, r) :: l)
    (hback : (s.die cd).semBack = []) (hstall : (s.die cd).stall = .semAcq dev b m .sent k) (hmode : (s.die cd).mode = .running)
    (hfault : (s.die cd).fault = 0) :
    semAcqReply cd s = (({ s with replies := l } : State).setDie cd
      (if r = 1 then { s.die cd with pc := (s.die cd).pc + 16, stall := .none }
       else if r = 2 then { s.die cd with stall := .semAcq dev b m .wake k }
       else if r = 3 then { s.die cd with stall := .semAcq dev b m .retry k }
       else faulted (s.die cd) 8 5 3 0 (if r = 8 then 8 else 0))) := by
  unfold semAcqReply
  rw [hreply, takeReply_head]
  have hdie : ({ s with replies := l } : State).die cd = s.die cd := rfl
  have hnone : (s.die cd).semBack.find? (fun x => x.1 == k) = none := by
    rw [hback]
    rfl
  simp only [hdie, hnone, hstall, ne_eq, not_true_eq_false, if_false]
  split_ifs
  · rfl
  · rfl
  · rfl
  all_goals
    refine congrArg (State.setDie _ cd) ?_
    unfold Die.fail
    rw [if_pos ⟨.inl hmode, hfault⟩]
    rfl

theorem semAcqReply_abandoned {k r b m : Nat} {l : List (Nat × Nat × Nat)} (hreply : s.replies = (cd.val, k, r) :: l)
    (hback : (s.die cd).semBack = [(k, none, b, m)]) (hlt : m < 2 ^ 31) :
    semAcqReply cd s = { s.setDie cd { s.die cd with semBack := [] } with
      replies := l
      homeQ := if r = 1 then s.homeQ ++ [⟨6, b, m, 0, s.selfCoord + cd.val * 2 ^ 20, .nobody⟩] else s.homeQ } := by
  unfold semAcqReply
  rw [hreply, takeReply_head]
  have hdie : ({ s with replies := l } : State).die cd = s.die cd := rfl
  simp only [hdie, hback, List.find?_cons, beq_self_eq_true, List.filter_cons, bne_self_eq_false, Bool.false_eq_true, if_false,
    List.filter_nil]
  split_ifs
  · unfold State.sendAtomic
    rw [sext64_of_lt hlt]
    rfl
  · rfl

/-! ### Asking again -/

theorem semResend_asks {ph : SemPhase} {b m k : Nat} (hlt : m < 2 ^ 31) (hstall : (s.die cd).stall = .semAcq none b m ph k) :
    semResend cd ph s = { s.setDie cd (asking (s.die cd) none b m) with
      homeQ := s.homeQ ++ [⟨5, b, m, 0, s.selfCoord + cd.val * 2 ^ 20, .acq cd.val ((s.die cd).nextId % 2 ^ 32)⟩] } := by
  unfold semResend
  rw [hstall]
  exact (if_pos rfl).trans (sendAcquire_here hlt s)

/-- A wake travels on no flow: it leaves its queue and its die asks again. -/
theorem wake_asks {b m k : Nat} {q : Fin 9} {p : Packet} {rest : List (Packet × Bool)} (hq : s.fab.eject[q] = (p, false) :: rest)
    (hty : p.type = 0x08) (hleast : 16 ≤ p.len) (hmost : p.len ≤ 256) (hdie : fld (fieldB p.payload 0 1) 0 4 = cd.val) (hlt : m < 2 ^ 31)
    (hstall : (s.die cd).stall = .semAcq none b m .wake k) :
    ∃ t, Gives (.wake q) s t ∧ t.fab.eject[q] = rest ∧ (t.die cd).stall = .semAcq none b m .sent ((s.die cd).nextId % 2 ^ 32) ∧
      t.homeQ = s.homeQ ++ [⟨5, b, m, 0, t.selfCoord + cd.val * 2 ^ 20, .acq cd.val ((s.die cd).nextId % 2 ^ 32)⟩] ∧ t.mem = s.mem := by
  have hhead : s.head q = some (p, false) := by rw [State.head, hq, List.head?_cons]
  have hformat : formatValid p = true := by
    have hl : lenLeast p = 16 := by
      unfold lenLeast
      rw [hty]
      rfl
    simp [formatValid, lenValid, hty, hl, hleast, hmost, typeOnFlow]
  have hcd : cdOf cd.val = cd := Fin.ext (Nat.mod_eq_of_lt cd.isLt)
  obtain ⟨u, hu⟩ : ∃ u, u = s.popEject q := ⟨_, rfl⟩
  have hudie : u.die cd = s.die cd := by rw [hu]; rfl
  have hstep : execWake q s = .next (semResend cd .wake u) := by
    unfold execWake takePacket
    rw [hhead]
    simp only [hty, beq_self_eq_true, Bool.not_true, Bool.false_eq_true, if_false, hformat, if_true, hdie, cd.isLt, hcd, ← hu]
    rfl
  rw [semResend_asks hlt (hudie ▸ hstall), hudie] at hstep
  refine ⟨_, hstep, ?_, ?_, ?_, ?_⟩
  · rw [hu]
    change (s.fab.eject.set q s.fab.eject[q].tail)[q] = rest
    rw [hq]
    simp
  · change ((u.setDie cd (asking (s.die cd) none b m)).die cd).stall = _
    rw [State.die_setDie_self]
    rfl
  · rw [hu]
    rfl
  · rw [hu]
    rfl

end

theorem semaphoreAcquire : SemaphoreAcquire := by
  intro cd w s d a n c who tag
  refine ⟨fun h hpos hlt hlocal halign hhome => ?_, fun h hpos hlt hremote halign => ?_, fun h hpos hlt hbad => execSemAcq_badAddress h hpos hlt hbad,
    fun h hn => execSemAcq_noCredit h hn, fun dev k r b m l hreply hback hstall hmode hfault => ?_, fun k r b m l hreply hback hlt => ?_,
    fun b m k i ph hi hlt hstall => ?_, fun b m k q p rest hq hty hleast hmost hdie hlt hstall => wake_asks hq hty hleast hmost hdie hlt hstall⟩
  · refine (execSemAcq_asks h hpos hlt halign (.inr hhome)).trans ?_
    rw [hlocal, if_neg Bool.false_ne_true, sendAcquire_here hlt]
    rfl
  · have haddr : a < 2 ^ 64 := lt_trans (BitVec.isLt _) (by decide)
    obtain ⟨h0, h8, h12, h16⟩ := atomicPacket_fields (s := s.setDie cd (asking d (some c) a n)) (cd := cd) (dev := c) (code := 5) haddr
      (by decide) (Nat.mod_lt d.nextId (by decide : 0 < 2 ^ 32)) (show n < 2 ^ 64 by omega)
    refine ⟨_, atomicPacket (s.setDie cd (asking d (some c) a n)) cd c 5 a n tag, (execSemAcq_asks h hpos hlt halign (.inl hremote)).trans ?_,
      rfl, rfl, rfl, rfl, h0, h8, h12, h16⟩
    rw [hremote, if_pos rfl, sendAcquire_away hlt]
    rfl
  · exact congrArg Host.Outcome.next (semAcqReply_waiting hreply hback hstall hmode hfault)
  · exact congrArg Host.Outcome.next (semAcqReply_abandoned hreply hback hlt)
  · simp only [List.mem_cons, List.not_mem_nil, or_false, Prod.mk.injEq] at hi
    rcases hi with ⟨rfl, rfl⟩ | ⟨rfl, rfl⟩
    · exact congrArg Host.Outcome.next (semResend_asks hlt hstall)
    · exact congrArg Host.Outcome.next (semResend_asks hlt hstall)

/-- Settles O8: by the equation of an operation that issues and by that of an acquire request sent. -/
theorem semaphoresAndFlags : Obligations.SemaphoresAndFlags := ⟨flagSemaphorePost, semaphoreAcquire⟩

end Sys2Proof.Proofs.SemaphoresOfSequencers
end

section
/-! PROOF. Instructions for the units: issued under admission, or held (R147, R163, R175, R416). -/

namespace Sys2Proof.Proofs.UnitIssue

open Sys2Proof.Machine Sys2Proof.Claims Sys2Proof.Proofs.Issue Sys2Proof.Proofs.SequencerFaults Sys2Proof.Proofs.Movements

section
variable {s : State} {cd : Cd} {w : IWord} {cls op : Nat}

/-! ### Admission -/

theorem issueAdm_admitted (h : Ready s cd w cls op) (hadm : (s.die cd).admitted = false)
    (hok : s.admits cd cls (s.estOf cd w.toNat) = true) (f : Nat → State → State) :
    issueAdm cd w cls op f s = (f w.toNat (s.debit cd (s.estOf cd w.toNat))).updDie cd
      (fun d => { d with admitted := decide (d.stall = .queueFull) }) := by
  rw [issueAdm, issueAll_ready h]
  exact (if_neg (by rw [hadm]; decide)).trans (if_pos hok)

theorem issueAdm_held (h : Ready s cd w cls op) (hadm : (s.die cd).admitted = false)
    (hno : s.admits cd cls (s.estOf cd w.toNat) = false) (f : Nat → State → State) :
    issueAdm cd w cls op f s = s.setDie cd { s.die cd with stall := .admission } := by
  rw [issueAdm, issueAll_ready h]
  exact (if_neg (by rw [hadm]; decide)).trans (if_neg (by rw [hno]; decide))

theorem issueAdmDie_admitted (h : Ready s cd w cls op) (hadm : (s.die cd).admitted = false)
    (hok : s.admits cd cls (s.estOf cd w.toNat) = true) (f : Nat → Die → Die) :
    issueAdmDie cd w cls op f s = (s.debit cd (s.estOf cd w.toNat)).setDie cd
      { f w.toNat (s.die cd) with admitted := decide ((f w.toNat (s.die cd)).stall = .queueFull) } := by
  rw [issueAdmDie, issueAdm_admitted h hadm hok]
  exact updDie_setDie ..

/-- Nothing with an estimate is admitted on a die in debt. -/
theorem not_admits (hest : s.estOf cd w.toNat ≠ 0) (hdebt : s.led.credit[cd] < 0) (cls : Nat) : s.admits cd cls (s.estOf cd w.toNat) = false := by
  rw [State.admits, beq_false_of_ne hest, decide_eq_false (Int.not_le.mpr hdebt)]
  rfl

/-! ### What issue leaves -/

/-- A die with one operation more. -/
def joinedBy (d : Die) (o : Op) : Die := { d with pc := d.pc + 16, ops := d.ops ++ [o], nextId := d.nextId + 1, admitted := false }

/-- What a state in which an instruction has been issued shows. -/
def IssuedIn (s t : State) (cd : Cd) (w : IWord) (cls op : Nat) : Prop :=
  ∃ o, (t.die cd).ops = (s.die cd).ops ++ [o] ∧ IssuedAs o (s.die cd) w cls op ∧
    (t.die cd).pc = (s.die cd).pc + 16 ∧ (t.die cd).cnt = (s.die cd).cnt ∧ (t.die cd).s = (s.die cd).s ∧ (t.die cd).a = (s.die cd).a ∧
    (t.die cd).p = (s.die cd).p ∧ (t.die cd).nextId = (s.die cd).nextId + 1 ∧ (t.die cd).stall = .none ∧ (t.die cd).admitted = false ∧
    t.led.credit[cd] = s.led.credit[cd] - s.corrected12 (cd.val / 3) (s.estOf cd w.toNat) ∧ t.mem = s.mem ∧
    t.regs = s.regs ∧ t.fab = s.fab ∧ ∀ c : Cd, c ≠ cd → t.die c = s.die c

/-- The estimate debited and the operation joined, whatever the host block has to do beside. -/
theorem issuedIn_joined {o : Op} {host : HostSt} (h : Ready s cd w cls op) (ho : IssuedAs o (s.die cd) w cls op) :
    IssuedIn s (({ s.debit cd (s.estOf cd w.toNat) with host := host } : State).setDie cd (joinedBy (s.die cd) o)) cd w cls op := by
  obtain ⟨-, -, hstall⟩ := issues_running h.1
  refine ⟨o, ?_, ho, ?_, ?_, ?_, ?_, ?_, ?_, ?_, ?_, ?_, rfl, rfl, rfl, fun c hc => ?_⟩
  iterate 6 · rw [State.die_setDie_self]; rfl
  · rw [State.die_setDie_self]; rfl
  · rw [State.die_setDie_self]; exact hstall
  · rw [State.die_setDie_self]; rfl
  · exact Vector.getElem_set_self ..
  · rw [State.die_setDie_ne _ _ hc]; rfl

/-- A die-local issue that joins its operation. -/
theorem issuedIn_of_die {f : Nat → Die → Die} {o : Op} (h : Ready s cd w cls op) (hadm : (s.die cd).admitted = false)
    (hok : s.admits cd cls (s.estOf cd w.toNat) = true) (ho : IssuedAs o (s.die cd) w cls op)
    (hf : f w.toNat (s.die cd) = { s.die cd with pc := (s.die cd).pc + 16, ops := (s.die cd).ops ++ [o], nextId := (s.die cd).nextId + 1 }) :
    IssuedIn s (issueAdmDie cd w cls op f s) cd w cls op := by
  have hjoin := issuedIn_joined (host := (s.debit cd (s.estOf cd w.toNat)).host) h ho
  obtain ⟨-, -, hstall⟩ := issues_running h.1
  rw [issueAdmDie_admitted h hadm hok, hf, show decide ((s.die cd).stall = .queueFull) = false by rw [hstall]; rfl]
  exact hjoin

/-- The operation of a unit instruction as it joins. -/
theorem issuedAs_unitOp (h : Ready s cd w cls op) (rcd : List Byte) (av sv : List Nat) :
    IssuedAs ((s.die cd).unitOp w.toNat rcd av sv) (s.die cd) w cls op := by
  obtain ⟨-, hcls, hop⟩ := issues_decoded h.1
  exact ⟨rfl, hcls, hop, rfl, rfl, rfl, rfl, rfl, rfl⟩

/-! ### Each kind of instruction -/

theorem issueTile_issued (h : Ready s cd w 2 op) (hadm : (s.die cd).admitted = false)
    (hok : s.admits cd 2 (s.estOf cd w.toNat) = true) (hroom : (s.die cd).queued 2 (fld w.toNat 20 4) < 8) (av : Nat → Die → List Nat) :
    IssuedIn s (issueTile cd w op av s) cd w 2 op :=
  issuedIn_of_die h hadm hok (issuedAs_unitOp h [] (av w.toNat (s.die cd)) []) (if_neg (Nat.not_le.mpr hroom))

theorem execElementWisePass_issued (h : Ready s cd w 2 2) (hadm : (s.die cd).admitted = false)
    (hok : s.admits cd 2 (s.estOf cd w.toNat) = true) (hroom : (s.die cd).queued 2 (fld w.toNat 20 4) < 8)
    (hrecord : s.recordOk cd (fld w.toNat 102 20 * 32) 32 = true) :
    ∃ t, Gives (.elementWisePass cd w) s t ∧ IssuedIn s t cd w 2 2 :=
  ⟨_, rfl, issuedIn_of_die h hadm hok (issuedAs_unitOp h ..)
    ((if_neg (Nat.not_le.mpr hroom)).trans (if_neg (by rw [hrecord]; decide)))⟩

theorem issueVec_issued (h : Ready s cd w 3 op) (hadm : (s.die cd).admitted = false)
    (hok : s.admits cd 3 (s.estOf cd w.toNat) = true) (hroom : (s.die cd).queued 3 (fld w.toNat 20 4) < 8)
    (hrecord : s.recordOk cd (vRecord w.toNat) 64 = true) : IssuedIn s (issueVec cd w op s) cd w 3 op :=
  issuedIn_of_die h hadm hok (issuedAs_unitOp h ..) ((if_neg (Nat.not_le.mpr hroom)).trans (if_neg (by rw [hrecord]; decide)))

theorem issueMove_issued (h : Ready s cd w 4 op) (hadm : (s.die cd).admitted = false)
    (hok : s.admits cd 4 (s.estOf cd w.toNat) = true)
    (hroom : ((s.die cd).ops.filter (fun o => o.cls == 4 && o.st == .queued)).length < 32) :
    IssuedIn s (issueMove cd w op s) cd w 4 op :=
  issuedIn_of_die h hadm hok
    (o := { (s.die cd).unitOp w.toNat [] [((s.die cd).getA (fld w.toNat 20 4)).toNat, ((s.die cd).getA (fld w.toNat 24 4)).toNat]
      [0, ((s.die cd).getS (fld w.toNat 28 5)).toNat % 2 ^ 20] with unit := 0 })
    (issuedAs_unitOp h [] [((s.die cd).getA (fld w.toNat 20 4)).toNat, ((s.die cd).getA (fld w.toNat 24 4)).toNat]
      [0, ((s.die cd).getS (fld w.toNat 28 5)).toNat % 2 ^ 20]) (if_neg (Nat.not_le.mpr hroom))

/-- Where no helper operation is queued, a helper instruction joins; what it is handed to is the host block's. -/
theorem issueHelper_issued (h : Ready s cd w 6 op) (hadm : (s.die cd).admitted = false)
    (hok : s.admits cd 6 (s.estOf cd w.toNat) = true) (hidle : ∀ c : Cd, (s.die c).ops.all (fun o => o.cls != 6) = true)
    {hand : Nat → State → State} (hhand : ∀ id u, ∃ host, hand id u = { u with host := host }) :
    IssuedIn s (issueHelper cd w op hand s) cd w 6 op := by
  obtain ⟨v, hv⟩ : ∃ v, v = s.debit cd (s.estOf cd w.toNat) := ⟨_, rfl⟩
  have hdie (c : Cd) : v.die c = s.die c := by rw [hv]; rfl
  have hnone : ((List.range 12).flatMap (fun i => (v.die (cdOf i)).ops)).filter (fun o =>
      o.cls == 6 && o.code == op && o.unit == fld w.toNat 20 2 && o.st == .queued) = [] := by
    refine List.filter_eq_nil_iff.mpr fun o ho => ?_
    obtain ⟨i, -, hi⟩ := List.mem_flatMap.mp ho
    rw [hdie] at hi
    have hcls := List.all_eq_true.mp (hidle (cdOf i)) o hi
    simp only [bne_iff_ne] at hcls
    simp [hcls]
  obtain ⟨o, ho⟩ : ∃ o, o = { (s.die cd).unitOp w.toNat [] [((s.die cd).getA (fld w.toNat 22 4)).toNat] [] with unit := fld w.toNat 20 2 } :=
    ⟨_, rfl⟩
  have hissued : IssuedAs o (s.die cd) w 6 op := ho ▸ issuedAs_unitOp h [] [((s.die cd).getA (fld w.toNat 22 4)).toNat] []
  obtain ⟨host, hhost⟩ := hhand (s.die cd).nextId
    (v.setDie cd { s.die cd with pc := (s.die cd).pc + 16, ops := (s.die cd).ops ++ [o], nextId := (s.die cd).nextId + 1 })
  obtain ⟨-, -, hstall⟩ := issues_running h.1
  have hstep : issueHelper cd w op hand s = ({ v with host := host } : State).setDie cd (joinedBy (s.die cd) o) := by
    rw [issueHelper, issueAdm_admitted h hadm hok, ← hv]
    dsimp only
    rw [hnone, if_neg (by decide), hdie]
    have hpush : (s.die cd).advance.push
        { (s.die cd).unitOp w.toNat [] [((s.die cd).getA (fld w.toNat 22 4)).toNat] [] with unit := fld w.toNat 20 2 } =
        { s.die cd with pc := (s.die cd).pc + 16, ops := (s.die cd).ops ++ [o], nextId := (s.die cd).nextId + 1 } := by
      rw [ho]
      rfl
    rw [hpush, hhost]
    refine (updDie_setDie ({ v with host := host } : State) cd _ _).trans ?_
    dsimp only
    rw [show decide ((s.die cd).stall = .queueFull) = false by rw [hstall]; rfl]
    rfl
  rw [hstep, hv]
  exact issuedIn_joined h hissued

theorem queueMover_host (u : State) (m : Fin 16) (j : MoverJob) : ∃ host, u.queueMover m j = { u with host := host } := by
  obtain ⟨q, hq, -⟩ := RingCommandsRun.beginMover_facts { u with host := { u.host with movers := u.host.movers.set m (u.host.movers[m] ++ [j]) } } m
  exact ⟨_, hq⟩

end

theorem unitInstructionIssues : UnitInstructionIssues := by
  intro r hr cd w s d h hadm hok hroom hpass hvec hmove hidle
  suffices hissued : ∃ t, Gives (r.1 cd w) s t ∧ IssuedIn s t cd w r.2.1 r.2.2 by
    obtain ⟨t, hgo, o, hfacts⟩ := hissued
    exact ⟨t, o, hgo, hfacts⟩
  simp only [List.mem_append] at hr
  obtain (((hr | hr) | hr) | hr) | hr := hr
  · simp only [tileRows, List.mem_cons, List.not_mem_nil, or_false] at hr
    rcases hr with rfl | rfl | rfl | rfl | rfl
    case inr.inr.inl => exact execElementWisePass_issued h hadm hok (hroom (.inl rfl)) (hpass rfl rfl)
    all_goals exact ⟨_, rfl, issueTile_issued h hadm hok (hroom (.inl rfl)) _⟩
  · simp only [vecRows, List.mem_cons, List.not_mem_nil, or_false] at hr
    rcases hr with rfl | rfl | rfl | rfl | rfl | rfl | rfl | rfl | rfl | rfl | rfl | rfl | rfl | rfl | rfl | rfl | rfl | rfl |
      rfl | rfl | rfl | rfl <;> exact ⟨_, rfl, issueVec_issued h hadm hok (hroom (.inr rfl)) (hvec rfl)⟩
  · simp only [fnRows, List.mem_cons, List.not_mem_nil, or_false] at hr
    rcases hr with rfl | rfl | rfl | rfl | rfl | rfl | rfl | rfl | rfl | rfl | rfl | rfl | rfl | rfl | rfl | rfl | rfl | rfl |
      rfl <;> exact ⟨_, rfl, issueVec_issued h hadm hok (hroom (.inr rfl)) (hvec rfl)⟩
  · simp only [moveRows, List.mem_cons, List.not_mem_nil, or_false] at hr
    rcases hr with rfl | rfl | rfl <;> exact ⟨_, rfl, issueMove_issued h hadm hok (hmove rfl)⟩
  · simp only [helperRows, List.mem_cons, List.not_mem_nil, or_false] at hr
    rcases hr with rfl | rfl | rfl
    · exact ⟨_, rfl, issueHelper_issued h hadm hok (hidle rfl) (fun id u => queueMover_host ..)⟩
    · exact ⟨_, rfl, issueHelper_issued h hadm hok (hidle rfl) (fun id u => ⟨u.host, rfl⟩)⟩
    · exact ⟨_, rfl, issueHelper_issued h hadm hok (hidle rfl) (fun id u => ⟨u.host, rfl⟩)⟩

/-! ### Held -/

/-- A command whose meaning is an issue under admission. -/
def IssuesUnder (i : Cd → IWord → Instr) (cls op : Nat) : Prop :=
  ∀ cd w s, ∃ f, exec (i cd w) s = .next (issueAdm cd w cls op f s)

theorem issueVec_under {i : Instr} {cd : Cd} {w : IWord} {op : Nat} {s : State} (hi : exec i s = .next (issueVec cd w op s)) :
    ∃ f, exec i s = .next (issueAdm cd w 3 op f s) := by
  rw [hi, issueVec, issueAdmDie]
  exact ⟨_, rfl⟩

theorem issueTile_under {i : Instr} {cd : Cd} {w : IWord} {op : Nat} {s : State} {av : Nat → Die → List Nat}
    (hi : exec i s = .next (issueTile cd w op av s)) : ∃ f, exec i s = .next (issueAdm cd w 2 op f s) := by
  rw [hi, issueTile, issueAdmDie]
  exact ⟨_, rfl⟩

theorem issueMove_under {i : Instr} {cd : Cd} {w : IWord} {op : Nat} {s : State} (hi : exec i s = .next (issueMove cd w op s)) :
    ∃ f, exec i s = .next (issueAdm cd w 4 op f s) := by
  rw [hi, issueMove, issueAdmDie]
  exact ⟨_, rfl⟩

theorem unitRows_issueUnder {r : (Cd → IWord → Instr) × Nat × Nat} (hr : r ∈ tileRows ++ vecRows ++ fnRows ++ moveRows ++ helperRows) :
    IssuesUnder r.1 r.2.1 r.2.2 := by
  intro cd w s
  simp only [List.mem_append] at hr
  obtain (((hr | hr) | hr) | hr) | hr := hr
  · simp only [tileRows, List.mem_cons, List.not_mem_nil, or_false] at hr
    rcases hr with rfl | rfl | rfl | rfl | rfl
    case inr.inr.inl => exact ⟨_, rfl⟩
    all_goals exact issueTile_under rfl
  · simp only [vecRows, List.mem_cons, List.not_mem_nil, or_false] at hr
    rcases hr with rfl | rfl | rfl | rfl | rfl | rfl | rfl | rfl | rfl | rfl | rfl | rfl | rfl | rfl | rfl | rfl | rfl | rfl |
      rfl | rfl | rfl | rfl <;> exact issueVec_under rfl
  · simp only [fnRows, List.mem_cons, List.not_mem_nil, or_false] at hr
    rcases hr with rfl | rfl | rfl | rfl | rfl | rfl | rfl | rfl | rfl | rfl | rfl | rfl | rfl | rfl | rfl | rfl | rfl | rfl |
      rfl <;> exact issueVec_under rfl
  · simp only [moveRows, List.mem_cons, List.not_mem_nil, or_false] at hr
    rcases hr with rfl | rfl | rfl <;> exact issueMove_under rfl
  · simp only [helperRows, List.mem_cons, List.not_mem_nil, or_false] at hr
    rcases hr with rfl | rfl | rfl <;> exact ⟨_, rfl⟩

/-- A full queue: the estimate is debited, and issue stalls. -/
theorem issueAdmDie_full {s : State} {cd : Cd} {w : IWord} {cls op : Nat} (h : Ready s cd w cls op) (hadm : (s.die cd).admitted = false)
    (hok : s.admits cd cls (s.estOf cd w.toNat) = true) {f : Nat → Die → Die}
    (hf : f w.toNat (s.die cd) = { s.die cd with stall := .queueFull }) :
    ∃ t, Host.Outcome.next (issueAdmDie cd w cls op f s) = (.next t : Out) ∧ t.die cd = { s.die cd with stall := .queueFull, admitted := true } ∧
      t.mem = s.mem := by
  refine ⟨_, congrArg Host.Outcome.next (issueAdmDie_admitted h hadm hok f), ?_, rfl⟩
  rw [State.die_setDie_self, hf]
  rfl

theorem issueTile_full {s : State} {cd : Cd} {w : IWord} {op : Nat} (h : Ready s cd w 2 op) (hadm : (s.die cd).admitted = false)
    (hok : s.admits cd 2 (s.estOf cd w.toNat) = true) (hfull : 8 ≤ (s.die cd).queued 2 (fld w.toNat 20 4)) (av : Nat → Die → List Nat) :
    ∃ t, Host.Outcome.next (issueTile cd w op av s) = (.next t : Out) ∧ t.die cd = { s.die cd with stall := .queueFull, admitted := true } ∧
      t.mem = s.mem := issueAdmDie_full h hadm hok (if_pos hfull)

theorem issueVec_full {s : State} {cd : Cd} {w : IWord} {op : Nat} (h : Ready s cd w 3 op) (hadm : (s.die cd).admitted = false)
    (hok : s.admits cd 3 (s.estOf cd w.toNat) = true) (hfull : 8 ≤ (s.die cd).queued 3 (fld w.toNat 20 4)) :
    ∃ t, Host.Outcome.next (issueVec cd w op s) = (.next t : Out) ∧ t.die cd = { s.die cd with stall := .queueFull, admitted := true } ∧
      t.mem = s.mem := issueAdmDie_full h hadm hok (if_pos hfull)

theorem unitInstructionHeld : UnitInstructionHeld := by
  intro r hr cd w s d h hadm
  refine ⟨fun hest hdebt => ?_, fun hok hcls hfull => ?_⟩
  · obtain ⟨f, hf⟩ := unitRows_issueUnder hr cd w s
    exact hf.trans (congrArg Host.Outcome.next (issueAdm_held h hadm (not_admits hest hdebt _) f))
  · simp only [List.mem_append] at hr
    obtain (((hr | hr) | hr) | hr) | hr := hr
    · simp only [tileRows, List.mem_cons, List.not_mem_nil, or_false] at hr
      rcases hr with rfl | rfl | rfl | rfl | rfl
      case inr.inr.inl => exact issueAdmDie_full h hadm hok (if_pos hfull)
      all_goals exact issueTile_full h hadm hok hfull _
    · simp only [vecRows, List.mem_cons, List.not_mem_nil, or_false] at hr
      rcases hr with rfl | rfl | rfl | rfl | rfl | rfl | rfl | rfl | rfl | rfl | rfl | rfl | rfl | rfl | rfl | rfl | rfl | rfl |
        rfl | rfl | rfl | rfl <;> exact issueVec_full h hadm hok hfull
    · simp only [fnRows, List.mem_cons, List.not_mem_nil, or_false] at hr
      rcases hr with rfl | rfl | rfl | rfl | rfl | rfl | rfl | rfl | rfl | rfl | rfl | rfl | rfl | rfl | rfl | rfl | rfl | rfl |
        rfl <;> exact issueVec_full h hadm hok hfull
    · simp only [moveRows, List.mem_cons, List.not_mem_nil, or_false] at hr
      rcases hr with rfl | rfl | rfl <;> exact absurd hcls (by decide)
    · simp only [helperRows, List.mem_cons, List.not_mem_nil, or_false] at hr
      rcases hr with rfl | rfl | rfl <;> exact absurd hcls (by decide)

/-- Settles O9: by the state that an issue under admission leaves, one lemma for each kind of instruction. -/
theorem unitInstructions : Obligations.UnitInstructions := ⟨unitInstructionIssues, unitInstructionHeld⟩

end Sys2Proof.Proofs.UnitIssue
end

section
/-! PROOF. A Tun takes its next operation, completes its charge, and goes cold (R77–R81, R86, R91, R92, R104, R111, R179). -/

namespace Sys2Proof.Proofs.TunStarts

open Sys2Proof.Machine Sys2Proof.Claims Sys2Proof.Proofs.TileEntries Sys2Proof.Proofs.Movements Sys2Proof.Proofs.GristAcceptance

section
variable {s : State} {cd : Cd} {j : Fin 12} {o : Op}

@[simp] theorem tuns_setTun_self (d : Die) (j : Fin 12) (t : Tun) : (d.setTun j t).tuns[j] = t := by
  rw [Die.setTun, Fin.getElem_fin, Vector.getElem_set_self]

theorem tuns_setTun_ne (d : Die) {j k : Fin 12} (t : Tun) (h : k ≠ j) : (d.setTun j t).tuns[k] = d.tuns[k] := by
  simp only [Die.setTun, Fin.getElem_fin]
  exact Vector.getElem_set_ne _ _ (fun e => h (Fin.ext e.symm))

/-! ### The scoreboard -/

theorem takeTile_free {d : Die} (h : TileFree d o) : d.takeTile o = Claims.holding d o := by
  have hwho : d.sb.any (fun e => e.who == o.id) = false := List.any_eq_false.mpr fun e he => by simp [(h e he).2]
  have hwait : d.sb.any (fun e => e.tile == tTile o.w && !e.held) = false :=
    List.any_eq_false.mpr fun e he => by
      have hne : (e.tile == tTile o.w) = false := beq_false_of_ne (h e he).1
      simp [hne]
  have hholders : sbHolders d.sb (tTile o.w) = [] := by
    unfold sbHolders
    rw [List.filter_eq_nil_iff.mpr fun e he => ?_, List.map_nil]
    have hne : (e.tile == tTile o.w) = false := beq_false_of_ne (h e he).1
    simp [hne]
  unfold Die.takeTile
  rw [hwho, sbArrive, hwait, hholders]
  rfl

theorem hasTile_holding (d : Die) (o : Op) : (Claims.holding d o).hasTile o = true := by
  simp [Die.hasTile]

/-- An operation's own identity is not the one under which its image is read. -/
theorem id_ne_whoMove (c id : Nat) : id ≠ whoMove c id := by
  unfold whoMove
  omega

/-- Taking its tile does not bring an operation's image to the scoreboard. -/
theorem not_sbHas_takeTile (h : s.sbHas (whoMove cd.val o.id) = false) :
    (s.setDie cd ((s.die cd).takeTile o)).sbHas (whoMove cd.val o.id) = false := by
  simp only [State.sbHas, List.any_eq_false] at h ⊢
  intro i hi
  have hno := Bool.eq_false_iff.mpr (h i hi)
  refine (Bool.not_eq_true _).mpr ?_
  by_cases hc : cdOf i = cd
  · rw [hc] at hno ⊢
    rw [State.die_setDie_self]
    unfold Die.takeTile
    split
    · exact hno
    · rw [sbArrive, List.any_append, hno]
      simp [id_ne_whoMove]
  · rw [State.die_setDie_ne _ _ hc]
    exact hno

/-- A state in which a reader is at the entry of a tile. -/
def ReaderAt (s : State) (who tile : Nat) (c : Cd) : Prop := ∃ e ∈ (s.die c).sb, e.tile = tile ∧ e.cls = .reader ∧ e.who = who

theorem readerAt_arrive (s : State) (cd : Cd) (tile who : Nat) :
    ReaderAt (s.updDie cd (fun d => { d with sb := sbArrive d.sb tile who .reader })) who tile cd := by
  rw [ReaderAt, State.updDie, State.die_setDie_self]
  exact ⟨_, List.mem_append_right _ (List.mem_singleton.mpr rfl), rfl, rfl, rfl⟩

theorem readerAt_updDie {who tile : Nat} {c : Cd} (h : ReaderAt s who tile c) (cd : Cd) (tile' who' : Nat) (cls : SbClass) :
    ReaderAt (s.updDie cd (fun d => { d with sb := sbArrive d.sb tile' who' cls })) who tile c := by
  obtain ⟨e, he, hfacts⟩ := h
  refine ⟨e, ?_, hfacts⟩
  by_cases hc : c = cd
  · rw [hc] at he ⊢
    rw [State.updDie, State.die_setDie_self]
    exact List.mem_append_left _ he
  · rwa [State.updDie, State.die_setDie_ne _ _ hc]

/-- What is read arrives at the entry of each of its tiles. -/
theorem readerAt_sbMove {who : Nat} {x : Nat × Nat} {src : List (Nat × Nat)} (hx : x ∈ src) :
    ReaderAt (s.sbMove who src []) who x.2 (cdOf x.1) := by
  have hkeep (l : List (Nat × Nat)) {t : State} (h : ReaderAt t who x.2 (cdOf x.1)) : ReaderAt (t.sbMove who l []) who x.2 (cdOf x.1) := by
    induction l generalizing t with
    | nil => exact h
    | cons y l ih => exact ih (readerAt_updDie h ..)
  induction src generalizing s with
  | nil => exact absurd hx List.not_mem_nil
  | cons y src ih =>
    obtain rfl | hx := List.mem_cons.mp hx
    · exact hkeep src (readerAt_arrive s (cdOf x.1) x.2 who)
    · exact ih hx

/-! ### Starts -/

variable (hmode : (s.die cd).mode ≠ .fenced) (hnext : (s.die cd).nextTunOp j = some o)
include hmode hnext

theorem tunStart_retired (hup : (s.die cd).tunUp[j] = false) :
    tunStart cd j s = s.setDie cd (withOp (s.die cd) { o with st := .stopped, status := 4, phys := j.val }) := by
  unfold tunStart
  simp only [hmode, if_false, hnext, hup, if_true]
  rfl

theorem tunStart_loads (hup : (s.die cd).tunUp[j] = true) (hdec : o.decided = false) (hcode : o.code = 0) (hok : loadCheck o.w o.addr = 0) :
    ∃ t, Gives (.tunOpStart cd j) s t ∧ (t.die cd).tuns[j].charge = (s.die cd).tuns[j].charge ∧
      (t.die cd).tuns[j].second = s.loadCharge cd o.w o.addr o.id ∧ (t.die cd).tuns[j].pend = 1 ∧
      (t.die cd).logical[unitOf o.unit].pend = some o.id ∧ (t.die cd).cnt = (s.die cd).cnt ∧ t.mem = s.mem := by
  obtain ⟨e, he⟩ : ∃ e : Die, e = ((s.die cd).setTun j { (s.die cd).tun j with second := s.loadCharge cd o.w o.addr o.id, pend := 1 }).putOp
    { o with st := .running, phys := j.val, poison := (s.loadCharge cd o.w o.addr o.id).poison } := ⟨_, rfl⟩
  have hstep : tunStart cd j s = s.setDie cd { e with
      loads := tabSet e.loads o.id ⟨o.id, o.w, o.av⟩
      logical := e.logical.set (unitOf o.unit) { e.logical[unitOf o.unit] with pend := some o.id } } := by
    unfold tunStart
    simp only [hmode, if_false, hnext, hup, hcode, hdec, Bool.false_eq_true, false_and, decide_false, hok, ne_eq, not_true_eq_false,
      if_true, he, Bool.true_eq_false]
  have htun : e.tuns[j] = { (s.die cd).tun j with second := s.loadCharge cd o.w o.addr o.id, pend := 1 } := by
    rw [he]
    exact tuns_setTun_self ..
  refine ⟨_, congrArg Host.Outcome.next hstep, ?_, ?_, ?_, ?_, ?_, rfl⟩ <;> rw [State.die_setDie_self]
  · change e.tuns[j].charge = _
    rw [htun]
    rfl
  · change e.tuns[j].second = _
    rw [htun]
  · change e.tuns[j].pend = _
    rw [htun]
  · dsimp only
    rw [Fin.getElem_fin, Vector.getElem_set_self]
  · rw [he]
    rfl

theorem tunStart_loadRefused (hup : (s.die cd).tunUp[j] = true) (hdec : o.decided = false) (hcode : o.code = 0) (hbad : loadCheck o.w o.addr ≠ 0) :
    tunStart cd j s = s.setDie cd (withOp (s.die cd) { o with st := .ended, status := loadCheck o.w o.addr, phys := j.val }) := by
  unfold tunStart
  simp only [hmode, if_false, hnext, hup, hcode, hdec, Bool.false_eq_true, false_and, decide_false, hbad, ne_eq, not_false_eq_true,
    if_true, Bool.true_eq_false]
  rfl

theorem tunStart_refused (hup : (s.die cd).tunUp[j] = true) (hcode : 2 ≤ o.code) (hbad : s.tileCheck o 128 ≠ 0) :
    tunStart cd j s = s.setDie cd (withOp (s.die cd) { o with st := .ended, status := s.tileCheck o 128, phys := j.val }) := by
  unfold tunStart
  simp only [hmode, if_false, hnext, hup, show o.code ≠ 0 by omega, show o.code ≠ 1 by omega, hbad, ne_eq, not_false_eq_true,
    if_true, Bool.true_eq_false]
  rfl

/-- An operation on a tile that no check forbids: it takes its tile and its image, and starts where it has both. -/
theorem tunStart_takes (hup : (s.die cd).tunUp[j] = true) (hcode : 2 ≤ o.code) (hok : s.tileCheck o 128 = 0) {t : State}
    (ht : t = (s.setDie cd ((s.die cd).takeTile o)).takeImage cd o) :
    tunStart cd j s = if (t.die cd).hasTile o && t.sbHeld (whoMove cd.val o.id) then
      t.updDie cd (fun d => d.putOp { o with st := .running, phys := j.val }) else t := by
  unfold tunStart
  simp only [hmode, if_false, hnext, hup, show o.code ≠ 0 by omega, show o.code ≠ 1 by omega, hok, ne_eq, not_true_eq_false,
    Bool.true_eq_false, ht]

theorem tunStart_starts (hup : (s.die cd).tunUp[j] = true) (hcode : 2 ≤ o.code) (hok : s.tileCheck o 128 = 0) (hfree : TileFree (s.die cd) o)
    (hnone : s.sbHas (whoMove cd.val o.id) = false) (hplain : o.code = 3 → tilesOfRows o.addr 0x40000 0 1 = []) :
    tunStart cd j s = s.setDie cd (withOp (Claims.holding (s.die cd) o) { o with st := .running, phys := j.val }) := by
  have hhas := not_sbHas_takeTile (cd := cd) hnone
  have himage : (s.setDie cd ((s.die cd).takeTile o)).takeImage cd o = s.setDie cd ((s.die cd).takeTile o) := by
    unfold State.takeImage
    by_cases h3 : o.code = 3
    · dsimp only
      rw [hplain h3, hhas]
      exact if_neg (by simp [h3])
    · exact if_pos (.inl h3)
  rw [tunStart_takes hmode hnext hup hcode hok himage.symm, sbHeld_of_not_sbHas hhas, takeTile_free hfree, State.die_setDie_self,
    hasTile_holding]
  exact (if_pos rfl).trans (updDie_setDie ..)

/-- A tile add whose image lies in other tiles arrives at their entries. -/
theorem tunStart_reads (hup : (s.die cd).tunUp[j] = true) (hcode : o.code = 3) (hok : s.tileCheck o 128 = 0)
    (hnone : s.sbHas (whoMove cd.val o.id) = false) {x : Nat × Nat} (hx : x ∈ tilesOfRows o.addr 0x40000 0 1) (hne : x ≠ (cd.val, fld o.w 46 8)) :
    ∃ t, Gives (.tunOpStart cd j) s t ∧ t.mem = s.mem ∧
      ∃ e ∈ (t.die (cdOf x.1)).sb, e.tile = x.2 ∧ e.cls = .reader ∧ e.who = whoMove cd.val o.id := by
  obtain ⟨u, hu⟩ : ∃ u, u = s.setDie cd ((s.die cd).takeTile o) := ⟨_, rfl⟩
  obtain ⟨t, ht⟩ : ∃ t, t = u.takeImage cd o := ⟨_, rfl⟩
  have himage : t = u.sbMove (whoMove cd.val o.id) ((tilesOfRows o.addr 0x40000 0 1).filter (fun t => t != (cd.val, tTile o.w))) [] := by
    rw [ht]
    exact if_neg (by rw [hu, not_sbHas_takeTile hnone]; simp [hcode])
  have hread : ReaderAt t (whoMove cd.val o.id) x.2 (cdOf x.1) := by
    rw [himage]
    exact readerAt_sbMove (List.mem_filter.mpr ⟨hx, bne_iff_ne.mpr hne⟩)
  have hmem : t.mem = s.mem := by
    obtain ⟨⟨dies, hdies⟩, -⟩ := sameButTiles_sbMove u (whoMove cd.val o.id)
      ((tilesOfRows o.addr 0x40000 0 1).filter (fun t => t != (cd.val, tTile o.w))) []
    rw [himage, hdies, hu]
    rfl
  have hstep := tunStart_takes hmode hnext hup (by omega) hok (ht.trans (by rw [hu]))
  split at hstep
  · refine ⟨_, congrArg Host.Outcome.next hstep, hmem, ?_⟩
    obtain ⟨e, he, hfacts⟩ := hread
    refine ⟨e, ?_, hfacts⟩
    by_cases hc : cdOf x.1 = cd
    · rw [hc] at he ⊢
      rw [State.updDie, State.die_setDie_self]
      exact he
    · rw [State.updDie, State.die_setDie_ne _ _ hc]
      exact he
  · exact ⟨_, congrArg Host.Outcome.next hstep, hmem, hread⟩

/-- A pass whose charge waits in the second exchanges the two. -/
theorem tunStart_exchanges {id : Nat} (hup : (s.die cd).tunUp[j] = true) (hcode : o.code = 1) (hmeets : (s.die cd).meets o = some id)
    (hok : s.tileCheck o ((s.die cd).loadK id) = 0)
    (hwide : (s.die cd).loadWide id = none ∨ (s.die cd).loadWide id = some (decide (fld o.w 24 3 = 1 ∨ fld o.w 24 3 = 2)))
    (hfree : TileFree (s.die cd) o) (hfirst : (s.die cd).tuns[j].charge.src ≠ id) (hsecond : (s.die cd).tuns[j].second.src = id)
    (hpend : (s.die cd).tuns[j].pend ≠ 0) :
    ∃ t, Gives (.tunOpStart cd j) s t ∧ (t.die cd).tuns[j].charge = (s.die cd).tuns[j].second ∧
      (t.die cd).tuns[j].second = (s.die cd).tuns[j].charge ∧ (t.die cd).tuns[j].pend = 0 ∧ t.mem = s.mem ∧
      ∀ k : Fin 12, k ≠ j → (t.die cd).tuns[k] = (s.die cd).tuns[k] := by
  have hwide' : ((s.die cd).loadWide id).isSome = true → (s.die cd).loadWide id = some (decide (tMode o.w = 1 ∨ tMode o.w = 2)) := by
    intro hsome
    obtain hnone | hwide := hwide
    · rw [hnone] at hsome
      exact absurd hsome (by decide)
    · exact hwide
  have hstep : tunStart cd j s = s.setDie cd ((Claims.holding (s.die cd) o).beginPass o j id true) := by
    unfold tunStart
    simp only [hmode, if_false, hnext, hup, hcode, hmeets, Option.map_some, Option.getD_some, hok, ne_eq, not_true_eq_false,
      Bool.true_eq_false, takeTile_free hfree,
      hasTile_holding, one_ne_zero, if_true]
    rw [if_neg (by simpa using hwide'), if_neg, if_pos]
    · exact ⟨hsecond, hpend⟩
    · exact hfirst
  obtain ⟨e, he⟩ : ∃ e, e = (Claims.holding (s.die cd) o).setTun j
    { (s.die cd).tun j with charge := ((s.die cd).tun j).second, second := ((s.die cd).tun j).charge, pend := 0 } := ⟨_, rfl⟩
  have htuns : ((Claims.holding (s.die cd) o).beginPass o j id true).tuns = e.tuns := by rw [he]; rfl
  have hself : e.tuns[j] = { (s.die cd).tun j with charge := ((s.die cd).tun j).second, second := ((s.die cd).tun j).charge, pend := 0 } := by
    rw [he, tuns_setTun_self]
  refine ⟨_, congrArg Host.Outcome.next hstep, ?_, ?_, ?_, rfl, fun k hk => ?_⟩ <;> rw [State.die_setDie_self, htuns]
  · rw [hself]
    rfl
  · rw [hself]
    rfl
  · rw [hself]
  · rw [he, tuns_setTun_ne _ _ hk]

end

theorem tunTakesOperation : TunTakesOperation := by
  intro cd j s o d hmode hnext
  refine ⟨fun hup => congrArg Host.Outcome.next (tunStart_retired hmode hnext hup), fun hup hdec => ⟨?_, ?_, ?_, ?_, ?_, ?_⟩⟩
  · exact fun hcode hok => tunStart_loads hmode hnext hup hdec hcode hok
  · exact fun hcode hbad => congrArg Host.Outcome.next (tunStart_loadRefused hmode hnext hup hdec hcode hbad)
  · exact fun hcode hbad => congrArg Host.Outcome.next (tunStart_refused hmode hnext hup hcode hbad)
  · exact fun hcode hok hfree hnone hplain => congrArg Host.Outcome.next (tunStart_starts hmode hnext hup hcode hok hfree hnone hplain)
  · exact fun hcode hok hnone x hx hne => tunStart_reads hmode hnext hup hcode hok hnone hx hne
  · exact fun id hcode hmeets hok hwide hfree hfirst hsecond hpend =>
      tunStart_exchanges hmode hnext hup hcode hmeets hok hwide hfree hfirst hsecond hpend

theorem tunChargeAndCold : TunChargeAndCold := by
  intro cd j s d setT
  refine ⟨fun o hrun hcode => congrArg Host.Outcome.next ?_, rfl, fun hcold => congrArg Host.Outcome.next ?_⟩
  · unfold loadComplete
    dsimp only
    rw [show (s.die cd).runningTun j = some o from hrun]
    exact if_pos hcode
  · exact congrArg (s.setDie cd) (if_pos hcold)

/-- Settles O11: by what each operation does as its Tun takes it. -/
theorem tunOperations : Obligations.TunOperations := ⟨tunTakesOperation, tunChargeAndCold⟩

end Sys2Proof.Proofs.TunStarts
end

section
/-! PROOF. What a Tun's rows store, how a failing check acts, how operations complete and move (R87, R91, R96–R105, R178,
R181). -/

namespace Sys2Proof.Proofs.TunRows

open Sys2Proof.Machine Sys2Proof.Claims Sys2Proof.Proofs.MemoryAccess Sys2Proof.Proofs.Lines Sys2Proof.Proofs.TunStarts

/-! ### The rows of a tile in memory -/

section
variable {s : State} {cd : Cd} {tile row : Nat}

theorem loc_tile (hfailed : s.boot.failed = false) (htile : tile < 192) (hrow : row < 128) {x : Nat}
    (hlo : tileAddr cd tile row 0 ≤ x) (hhi : x < tileAddr cd tile row 0 + 2048) : s.loc x = some x := by
  have hcd := cd.isLt
  unfold tileAddr at hlo hhi
  have hwin : winMapped ((x - 0x050000000000) % 2 ^ 32) = true := by
    have hoff : (x - 0x050000000000) % 2 ^ 32 = x - 0x050000000000 - cd.val * 2 ^ 32 := by omega
    rw [hoff, winMapped]
    simp only [Bool.or_eq_true, Bool.and_eq_true, decide_eq_true_eq]
    omega
  unfold State.loc
  rw [hfailed, if_neg Bool.false_ne_true, if_neg (by unfold gib; omega), if_neg (by omega), if_neg (by omega), if_pos (by omega), hwin]
  rfl

theorem tileAddr_col (cd : Cd) (tile row col : Nat) : tileAddr cd tile row col = tileAddr cd tile row 0 + 16 * col := by
  unfold tileAddr
  omega

theorem tileAddr_mod (cd : Cd) (tile row : Nat) : tileAddr cd tile row 0 % 64 = 0 := by
  unfold tileAddr
  omega

/-- A row of a tile of which no line is poisoned. -/
theorem clear_tile (hfailed : s.boot.failed = false) (htile : tile < 192) (hrow : row < 128)
    (hp : ∀ c : Fin 128, s.poisoned (tileAddr cd tile row c) = false) : Clear s (tileAddr cd tile row 0) 2048 := by
  intro x hlo hhi
  have hmod := tileAddr_mod cd tile row
  refine ⟨x, loc_tile hfailed htile hrow hlo hhi, ?_⟩
  have hidx : (x - tileAddr cd tile row 0) / 16 < 128 := by omega
  have hc := hp ⟨(x - tileAddr cd tile row 0) / 16, hidx⟩
  have haddr := tileAddr_col cd tile row ((x - tileAddr cd tile row 0) / 16)
  have hloc := loc_tile (s := s) (cd := cd) hfailed htile hrow (x := tileAddr cd tile row ((x - tileAddr cd tile row 0) / 16)) (by omega) (by omega)
  simp only [State.poisoned, hloc] at hc
  rwa [show x / 64 = tileAddr cd tile row ((x - tileAddr cd tile row 0) / 16) / 64 by omega]

/-- Whole lines written, poisoned or not. -/
theorem wrote_writeN {a : Nat} (n : Nat) {k : Nat} {bs : List Byte} (ha : a % 64 = 0) (hlen : bs.length = 64 * k) (hk : k ≤ n)
    (hm : ∀ x, a ≤ x → x < a + bs.length → s.mapped x = true) : Wrote s (s.writeN a bs n) a bs := by
  induction n generalizing s a bs k with
  | zero =>
    obtain rfl : bs = [] := List.eq_nil_of_length_eq_zero (by omega)
    exact .nil s a
  | succ n ih =>
    by_cases hne : bs = []
    · subst hne
      exact .nil s a
    have hpos := List.length_pos_iff.mpr hne
    rw [State.writeN, if_neg (by simpa using hne)]
    dsimp only
    rw [ha, Nat.sub_zero]
    have htake : (bs.take 64).length = 64 := List.length_take_of_le (by omega)
    have hdrop : (bs.drop 64).length = bs.length - 64 := List.length_drop
    have hfirst := wrote_line (hm a le_rfl (by omega)) ha htake
    have hrest := ih (s := s.writeLine a (bs.take 64)) (a := a + 64) (k := k - 1) (bs := bs.drop 64) (by omega) (by omega) (by omega)
      (fun x hlo hhi => by
        rw [State.mapped, hfirst.loc]
        exact hm x (by omega) (by omega))
    have happend := hfirst.append (by rw [htake]) hrest
    rwa [List.take_append_drop] at happend

/-! ### Elements of a row -/

/-- The bytes of the elements of a row below a column. -/
def elemBytes (elems : Nat → X128) (n : Nat) : List Byte := (List.range n).flatMap (fun c => natLE 16 (xEncode (elems c)))

theorem elemBytes_add (elems : Nat → X128) (n m : Nat) :
    elemBytes elems (n + m) = elemBytes elems n ++ (List.range m).flatMap (fun i => natLE 16 (xEncode (elems (n + i)))) := by
  rw [elemBytes, List.range_add, List.flatMap_append, List.flatMap_map]
  rfl

theorem length_elemBytes (elems : Nat → X128) (n : Nat) : (elemBytes elems n).length = 16 * n := by
  simp [elemBytes, List.length_flatMap, length_natLE, Nat.mul_comm]

/-- One element among them. -/
theorem elemBytes_inside (elems : Nat → X128) {c n : Nat} (h : c < n) : ((elemBytes elems n).drop (16 * c)).take 16 = natLE 16 (xEncode (elems c)) := by
  obtain ⟨m, rfl⟩ := Nat.exists_eq_add_of_lt h
  rw [show c + m + 1 = c + 1 + m by omega, elemBytes_add elems (c + 1) m, elemBytes_add elems c 1, List.append_assoc, List.drop_append_of_le_length (by
    rw [length_elemBytes]), List.drop_eq_nil_of_le (by rw [length_elemBytes]), List.nil_append]
  exact List.take_left' (by simp [length_natLE])

theorem filter_below (m hi : Nat) : (List.range 4).filter (fun i => decide (0 ≤ m + i) && decide (m + i < hi)) = List.range (min 4 (hi - m)) := by
  have hsimple : (List.range 4).filter (fun i => decide (0 ≤ m + i) && decide (m + i < hi)) = (List.range 4).filter (fun i => decide (i < hi - m)) :=
    List.filter_congr fun i _ => by
      simp only [Nat.zero_le, decide_true, Bool.true_and, decide_eq_decide]
      omega
  rw [hsimple]
  generalize hi - m = k
  obtain hk | hk | hk | hk | hk : k = 0 ∨ k = 1 ∨ k = 2 ∨ k = 3 ∨ 4 ≤ k := by omega
  iterate 4 · subst hk; rfl
  · rw [Nat.min_eq_left hk]
    exact List.filter_eq_self.mpr fun i hi => decide_eq_true (by have := List.mem_range.mp hi; omega)

/-- A clean row written line by line. -/
theorem stored_lines {hi : Nat} (hc : Clear s (tileAddr cd tile row 0) 2048) (elems : Nat → X128) {k : Nat} (hk : k ≤ 32) :
    Stored s ((List.range k).foldl (fun x i =>
      if 0 < 4 * i + 4 ∧ 4 * i < hi then x.tileLine cd tile row (4 * i) 0 hi elems false else x) s)
      (tileAddr cd tile row 0) (elemBytes elems (min (4 * k) hi)) := by
  induction k with
  | zero => exact .nil s _
  | succ k ih =>
    have hih := ih (by omega)
    rw [List.range_succ, List.foldl_append, List.foldl_cons, List.foldl_nil]
    by_cases hin : 4 * k < hi
    · rw [if_pos ⟨by omega, hin⟩]
      rw [Nat.min_eq_left (by omega)] at hih
      have hmin : min (4 * (k + 1)) hi = 4 * k + min 4 (hi - 4 * k) := by omega
      have hhead : (List.range (min 4 (hi - 4 * k))).headD 0 = 0 := by
        cases min 4 (hi - 4 * k) with
        | zero => rfl
        | succ n => rw [List.range_succ_eq_map]; rfl
      rw [hmin, elemBytes_add]
      unfold State.tileLine
      dsimp only
      rw [if_neg Bool.false_ne_true, filter_below, hhead]
      have hlen : ((List.range (min 4 (hi - 4 * k))).flatMap (fun i => natLE 16 (xEncode (elems (4 * k + i))))).length = 16 * min 4 (hi - 4 * k) := by
        simp [List.length_flatMap, length_natLE, Nat.mul_comm]
      refine hih.append ?_ (stored_write (hih.clear (hc.sub ?_ ?_)))
      · rw [length_elemBytes]
        exact tileAddr_col ..
      · rw [tileAddr_col cd tile row (4 * k + 0)]
        omega
      · rw [tileAddr_col cd tile row (4 * k + 0), hlen]
        omega
    · rw [if_neg (by omega)]
      rw [show min (4 * (k + 1)) hi = min (4 * k) hi by omega]
      exact hih

/-- A row written whose lines and operands are clean. -/
theorem stored_tileRow {hi : Nat} (hfailed : s.boot.failed = false) (htile : tile < 192) (hrow : row < 128)
    (hp : ∀ c : Fin 128, s.poisoned (tileAddr cd tile row c) = false) (hhi : hi ≤ 128) (elems : Nat → X128) (acc : Bool) :
    Stored s (s.tileRow cd tile row 0 hi elems false acc) (tileAddr cd tile row 0) (elemBytes elems hi) := by
  have hclean : s.tileRowPoisoned cd tile row 0 hi = false :=
    List.any_eq_false.mpr fun i hi' => by
      have hi32 := List.mem_range.mp hi'
      rw [hp ⟨4 * i, by omega⟩, Bool.and_false]
      exact Bool.false_ne_true
  unfold State.tileRow
  rw [hclean, Bool.and_false, Bool.or_false]
  have hlines := stored_lines (hi := hi) (clear_tile hfailed htile hrow hp) elems (k := 32) le_rfl
  rwa [Nat.min_eq_right (by omega)] at hlines

end

/-! ### Rows performed -/

section
variable {s : State} {cd : Cd} {j : Fin 12} {o : Op} {fault : TunFault}

/-- What a row that is done changes: its die's operations. -/
theorem rowDone_facts (s : State) (cd : Cd) (o : Op) (rows : Nat) (bad : Bool) :
    ∃ ops dies, s.rowDone cd o rows bad = { s with dies := dies } ∧ (s.rowDone cd o rows bad).die cd = { s.die cd with ops := ops } := by
  unfold State.rowDone
  dsimp only
  split
  · exact ⟨_, _, rfl, State.die_setDie_self ..⟩
  · exact ⟨_, _, rfl, State.die_setDie_self ..⟩

/-- A tile zero stores zero in a row, whatever was poisoned there. -/
theorem rowVerdict_zero (hrun : (s.die cd).runningTun j = some o) (htile : fld o.w 46 8 < 192) (hfailed : s.boot.failed = false)
    (hcode : o.code = 4) (hrow : o.row < 128) :
    ∃ t, Gives (.tunRowVerdict cd j fault) s t ∧ t.bytes (tileAddr cd (fld o.w 46 8) o.row 0) 2048 = zeroB 2048 ∧
      (∀ x, (x < tileAddr cd (fld o.w 46 8) o.row 0 ∨ tileAddr cd (fld o.w 46 8) o.row 0 + 2048 ≤ x) → t.byte x = s.byte x) ∧
      (t.die cd).cnt = (s.die cd).cnt ∧ t.regs = s.regs := by
  have hlen : (zeroB 2048).length = 2048 := ByteFields.length_zeroB 2048
  have hwrote : Wrote s (s.write (tileAddr cd (fld o.w 46 8) o.row 0) (zeroB 2048)) (tileAddr cd (fld o.w 46 8) o.row 0) (zeroB 2048) :=
    wrote_writeN _ (tileAddr_mod ..) (k := 32) hlen (by rw [hlen]; decide) fun x hlo hhi => by
      rw [State.mapped, loc_tile hfailed htile hrow hlo (by rw [hlen] at hhi; exact hhi)]
      rfl
  obtain ⟨u, hu⟩ : ∃ u, u = s.write (tileAddr cd (fld o.w 46 8) o.row 0) (zeroB 2048) := ⟨_, rfl⟩
  rw [← hu] at hwrote
  obtain ⟨ops, dies, hdone, hdie⟩ := rowDone_facts u cd o 128 false
  have hstep : rowVerdict cd j fault s = u.rowDone cd o 128 false := by
    unfold rowVerdict
    dsimp only
    rw [hrun, hu]
    dsimp only
    rw [if_neg (by rw [hcode]; decide), if_neg (by rw [hcode]; decide), if_pos hcode]
    rfl
  have hbytes := hwrote.bytes_eq
  have honly := hwrote.onlyBytes
  rw [hlen] at hbytes honly
  obtain ⟨⟨m, q, rfl⟩, -⟩ := hwrote
  refine ⟨_, congrArg Host.Outcome.next hstep, ?_, fun x hx => ?_, ?_, ?_⟩
  · rw [hdone]
    exact hbytes
  · rw [hdone]
    exact honly x hx
  · rw [hdie]
    rfl
  · rw [hdone]

/-- A Tun that has presented a moving row to its charge, with the fault of the row. -/
def presented (t : Tun) (mode : Nat) (fault : TunFault) : Tun :=
  { t with
    charge := t.charge.flip mode fault
    cold := if t.cold = .ramp ∧ t.ramp + 1 < 64 then .ramp else .warm
    ramp := t.ramp + 1 }

/-- A Tun whose row the check has passed, or leaves unchecked. -/
def judged (t : Tun) (v : Verdict) : Tun :=
  if v = .passed then { t with checks := satAdd32 t.checks 1 } else { t with unchecked := satAdd32 t.unchecked 1 }

/-- The state in which a row that is not refused is written. -/
def rowTaken (s : State) (cd : Cd) (j : Fin 12) (o : Op) (fault : TunFault) : State :=
  (s.setDie cd ((s.die cd).setTun j (presented ((s.die cd).tun j) (tMode o.w) fault))).updDie cd
    (fun d => d.setTun j (judged (presented ((s.die cd).tun j) (tMode o.w) fault) (s.rowResult cd j o o.row fault).1))

theorem rowVerdict_refused (hrun : (s.die cd).runningTun j = some o) (hcode : o.code = 1) (hcold : (s.die cd).tuns[j].cold ≠ .idle)
    (hfail : (s.rowResult cd j o o.row fault).1 = .failed) : rowVerdict cd j fault s =
      (s.setDie cd ((s.die cd).setTun j (presented ((s.die cd).tun j) (tMode o.w) fault))).rowFailed cd j o := by
  unfold rowVerdict
  dsimp only
  rw [hrun]
  dsimp only
  rw [if_neg (by rw [hcode]; decide), if_neg (by rw [hcode]; decide), if_neg (by rw [hcode]; decide),
    if_neg (show ((s.die cd).tun j).cold ≠ .idle from hcold), if_pos hfail, if_pos hcode]
  rfl

theorem rowVerdict_accepted (hrun : (s.die cd).runningTun j = some o) (hcode : o.code = 1) (hcold : (s.die cd).tuns[j].cold ≠ .idle)
    (hpass : (s.rowResult cd j o o.row fault).1 ≠ .failed) (hfinal : tFinal o.w = false) {v : State}
    (hv : v = (rowTaken s cd j o fault).tileRow cd (tTile o.w) (tRowBase o.w + o.row) (passCols o.w).1 (passCols o.w).2
      (s.rowResult cd j o o.row fault).2.1 (s.rowResult cd j o o.row fault).2.2 (tAcc o.w)) :
    ∃ bad, rowVerdict cd j fault s = v.rowDone cd o (tM o.w) bad := by
  refine ⟨v.tileRowPoisoned cd (tTile o.w) (tRowBase o.w + o.row) (passCols o.w).1 (passCols o.w).2, ?_⟩
  rw [hv]
  unfold rowVerdict
  dsimp only
  rw [hrun]
  dsimp only
  rw [if_neg (by rw [hcode]; decide), if_neg (by rw [hcode]; decide), if_neg (by rw [hcode]; decide),
    if_neg (show ((s.die cd).tun j).cold ≠ .idle from hcold), if_neg hpass, hfinal, if_neg Bool.false_ne_true, if_pos hcode]
  rfl

/-- A row of a pass that the check does not refuse. -/
theorem rowVerdict_stores (hrun : (s.die cd).runningTun j = some o) (htile : fld o.w 46 8 < 192) (hfailed : s.boot.failed = false)
    (hcode : o.code = 1) (hcold : (s.die cd).tuns[j].cold ≠ .idle) (hfinal : fld o.w 29 1 = 0) (hmode : fld o.w 24 3 = 0)
    (hpass : (s.rowResult cd j o o.row fault).1 ≠ .failed) (hclean : (s.rowResult cd j o o.row fault).2.2 = false)
    (hrow : fld o.w 54 7 + o.row < 128) (hp : ∀ c : Fin 128, s.poisoned (tileAddr cd (fld o.w 46 8) (fld o.w 54 7 + o.row) c) = false) :
    ∃ t, Gives (.tunRowVerdict cd j fault) s t ∧
      (∀ c, c < fld o.w 39 7 + 1 → t.bytes (tileAddr cd (fld o.w 46 8) (fld o.w 54 7 + o.row) c) 16
        = natLE 16 (xEncode ((s.rowResult cd j o o.row fault).2.1 c))) ∧
      (∀ x, (x < tileAddr cd (fld o.w 46 8) (fld o.w 54 7 + o.row) 0 ∨
          tileAddr cd (fld o.w 46 8) (fld o.w 54 7 + o.row) 0 + 16 * (fld o.w 39 7 + 1) ≤ x) → t.byte x = s.byte x) := by
  have hcols : fld o.w 39 7 < 128 := Completions.fld_lt ..
  have hpassCols : passCols o.w = (0, 0 + (fld o.w 39 7 + 1)) := by
    unfold passCols tMode tCols
    rw [hmode]
    rfl
  have hnotFinal : tFinal o.w = false := by
    have hbit : (o.w >>> 29) % 2 = 0 := hfinal
    rw [tFinal, bitAt, hbit]
    rfl
  obtain ⟨elems, helems⟩ : ∃ elems, elems = (s.rowResult cd j o o.row fault).2.1 := ⟨_, rfl⟩
  obtain ⟨dies, hdies⟩ : ∃ dies, rowTaken s cd j o fault = { s with dies := dies } := ⟨_, rfl⟩
  obtain ⟨v, hv⟩ : ∃ v, v = ({ s with dies := dies } : State).tileRow cd (tTile o.w) (tRowBase o.w + o.row) 0 (0 + (fld o.w 39 7 + 1)) elems false
    (tAcc o.w) := ⟨_, rfl⟩
  obtain ⟨bad, hstep⟩ := rowVerdict_accepted hrun hcode hcold hpass hnotFinal (v := v) (by rw [hv, hdies, hpassCols, hclean, ← helems])
  have hstored := stored_tileRow (s := { s with dies := dies }) (cd := cd) (hi := 0 + (fld o.w 39 7 + 1)) hfailed htile hrow hp (by omega) elems
    (tAcc o.w)
  rw [show tileAddr cd (fld o.w 46 8) (fld o.w 54 7 + o.row) 0 = tileAddr cd (tTile o.w) (tRowBase o.w + o.row) 0 from rfl,
    show ({ s with dies := dies } : State).tileRow cd (fld o.w 46 8) (fld o.w 54 7 + o.row) 0 (0 + (fld o.w 39 7 + 1)) elems false
      (tAcc o.w) = v from hv.symm, Nat.zero_add] at hstored
  obtain ⟨ops, dies', hdone, -⟩ := rowDone_facts v cd o (tM o.w) bad
  refine ⟨_, congrArg Host.Outcome.next hstep, fun c hc => ?_, fun x hx => ?_⟩
  · rw [hdone, ← helems, tileAddr_col]
    have hin := hstored.bytes_inside (k := 16 * c) (n := 16) (by rw [length_elemBytes]; omega)
    rw [elemBytes_inside elems hc] at hin
    exact hin
  · rw [hdone]
    exact hstored.byte_outside (by rw [length_elemBytes]; exact hx)

/-! ### Rows refused -/

/-- The first operation of a kind, replaced by another of that kind and its identity, is still the first. -/
theorem find?_replaced {kind : Op → Bool} {l : List Op} {o' : Op} (h : l.find? kind = some o) (hid : o'.id = o.id) (hkind : kind o' = true) :
    (l.map (fun x => if x.id == o'.id then o' else x)).find? kind = some o' := by
  induction l with
  | nil => exact absurd h (by simp)
  | cons x l ih =>
    rw [List.map_cons]
    by_cases hx : x.id = o'.id
    · rw [if_pos (beq_iff_eq.mpr hx), List.find?_cons_of_pos hkind]
    · rw [if_neg (by simpa using hx)]
      by_cases hkx : kind x = true
      · rw [List.find?_cons_of_pos hkx] at h
        exact absurd (Option.some.inj h ▸ hid.symm) hx
      · rw [List.find?_cons_of_neg hkx] at h ⊢
        exact ih h

theorem kind_of_runningTun {d : Die} (h : d.runningTun j = some o) : (o.cls == 2 && o.st == .running && o.phys == j.val) = true :=
  List.find?_some (p := fun o : Op => o.cls == 2 && o.st == .running && o.phys == j.val) h

/-- A charge filled again from its own loads, whatever else a die has done. -/
theorem recharge_congr {dies : Vector Die 12} {c c' : Charge} (hloads : (({ s with dies := dies } : State).die cd).loads = (s.die cd).loads)
    (hsrc : c'.src = c.src) : ({ s with dies := dies } : State).recharge cd c' = s.recharge cd c := by
  unfold State.recharge
  rw [hsrc, hloads]
  rfl

theorem src_flip (c : Charge) (mode : Nat) (fault : TunFault) : (c.flip mode fault).src = c.src := by
  cases fault <;> rfl

/-- The Tun after a failed check of a pass, which is executed again or not. -/
def mismatched (s : State) (cd : Cd) (t : Tun) (o : Op) (now : Nat) (again : Nat) : Tun :=
  { t with
    checks := satAdd32 t.checks 1
    mismatch := satAdd32 t.mismatch 1
    failAt := recentFails t.failAt now ++ (if o.fails.isEmpty then [now] else [])
    reexec := satAdd32 t.reexec again
    charge := s.recharge cd t.charge
    second := s.recharge cd t.second }

/-- The die in which a pass row is to be performed again. -/
def refusedDie (s : State) (cd : Cd) (j : Fin 12) (o : Op) (again : Nat) : Die :=
  ((s.die cd).setTun j (mismatched s cd ((s.die cd).tun j) o (s.die cd).clkUp again)).putOp { o with fails := o.fails ++ [o.row], reexec := true }

theorem rowFailed_again (hcode : o.code = 1) (hfails : o.fails.length < 2)
    (hrecent : (recentFails ((s.die cd).tun j).failAt (s.die cd).clkUp).length + 1 < 8) :
    s.rowFailed cd j o = (s.setDie cd (refusedDie s cd j o 1)).log 5 0 cd.val j.val o.row 0 := by
  have hretire : decide (2 ≤ o.fails.length ∨ 8 ≤ (recentFails ((s.die cd).tun j).failAt (s.die cd).clkUp ++
      (if o.fails.isEmpty then [(s.die cd).clkUp] else [])).length) = false := by
    refine decide_eq_false (not_or.mpr ⟨by omega, ?_⟩)
    rw [List.length_append]
    split <;> simp only [List.length_cons, List.length_nil] <;> omega
  unfold State.rowFailed
  dsimp only
  rw [hretire, if_neg Bool.false_ne_true, if_neg Bool.false_ne_true, if_pos hcode]
  rfl

theorem rowFailed_retires (hcode : o.code = 1) (hfails : o.fails.length = 2) :
    s.rowFailed cd j o = (s.setDie cd (refusedDie s cd j o 0)).retireTun cd j o.row := by
  have hretire : decide (2 ≤ o.fails.length ∨ 8 ≤ (recentFails ((s.die cd).tun j).failAt (s.die cd).clkUp ++
      (if o.fails.isEmpty then [(s.die cd).clkUp] else [])).length) = true := decide_eq_true (.inl (by omega))
  unfold State.rowFailed
  dsimp only
  rw [hretire, if_pos rfl, if_pos rfl, if_pos hcode]
  rfl

/-- A row of a pass that fails its check is counted, logged, and performed again on charges filled again. -/
theorem rowVerdict_again (hrun : (s.die cd).runningTun j = some o) (hcode : o.code = 1) (hcold : (s.die cd).tuns[j].cold ≠ .idle)
    (hfail : (s.rowResult cd j o o.row fault).1 = .failed) (hfails : o.fails.length < 2)
    (hrecent : (recentFails (s.die cd).tuns[j].failAt (s.die cd).clkUp).length + 1 < 8) (hroom : s.logQ.length < 256) :
    ∃ t, Gives (.tunRowVerdict cd j fault) s t ∧ t.mem = s.mem ∧ (t.die cd).tunUp = (s.die cd).tunUp ∧
      (t.die cd).tuns[j].mismatch = satAdd32 (s.die cd).tuns[j].mismatch 1 ∧
      (t.die cd).tuns[j].checks = satAdd32 (s.die cd).tuns[j].checks 1 ∧
      (t.die cd).tuns[j].reexec = satAdd32 (s.die cd).tuns[j].reexec 1 ∧
      (t.die cd).tuns[j].charge = s.recharge cd (s.die cd).tuns[j].charge ∧
      (t.die cd).tuns[j].second = s.recharge cd (s.die cd).tuns[j].second ∧
      (t.die cd).runningTun j = some { o with fails := o.fails ++ [o.row], reexec := true } ∧
      t.logQ = s.logQ ++ [⟨s.time, 5, 0, cd.val, j.val, o.row, 0⟩] := by
  obtain ⟨p, hp⟩ : ∃ p, p = presented ((s.die cd).tun j) (tMode o.w) fault := ⟨_, rfl⟩
  obtain ⟨u, hu⟩ : ∃ u, u = s.setDie cd ((s.die cd).setTun j p) := ⟨_, rfl⟩
  have hudie : u.die cd = (s.die cd).setTun j p := by rw [hu, State.die_setDie_self]
  have hutun : (u.die cd).tun j = p := by rw [Die.tun, hudie, tuns_setTun_self]
  have hcharge (c c' : Charge) (hsrc : c'.src = c.src) : u.recharge cd c' = s.recharge cd c := by
    have hloads : (({ s with dies := s.dies.set cd ((s.die cd).setTun j p) } : State).die cd).loads = (s.die cd).loads := by
      have h := congrArg Die.loads hudie
      rw [hu] at h
      exact h
    rw [hu]
    exact recharge_congr (dies := s.dies.set cd ((s.die cd).setTun j p)) hloads hsrc
  have hstep : rowVerdict cd j fault s = (u.setDie cd (refusedDie u cd j o 1)).log 5 0 cd.val j.val o.row 0 := by
    rw [rowVerdict_refused hrun hcode hcold hfail, ← hp, ← hu]
    refine rowFailed_again hcode hfails ?_
    rw [hutun, hudie, hp]
    exact hrecent
  rw [ByteFields.log_eq, ByteFields.logAfter_of_room (by rw [hu]; exact hroom)] at hstep
  obtain ⟨t, ht⟩ : ∃ t : State, t = { u.setDie cd (refusedDie u cd j o 1) with
    logQ := (u.setDie cd (refusedDie u cd j o 1)).logQ ++ [⟨(u.setDie cd (refusedDie u cd j o 1)).time, 5, 0, cd.val, j.val, o.row, 0⟩]
    regs := ByteFields.logRegs (u.setDie cd (refusedDie u cd j o 1)) } := ⟨_, rfl⟩
  have hdie : t.die cd = refusedDie u cd j o 1 := by
    rw [ht]
    exact State.die_setDie_self ..
  have htun : (t.die cd).tuns[j] = mismatched u cd p o (u.die cd).clkUp 1 := by
    rw [hdie, refusedDie, hutun]
    exact tuns_setTun_self ..
  refine ⟨t, congrArg Host.Outcome.next (hstep.trans ht.symm), ?_, ?_, ?_, ?_, ?_, ?_, ?_, ?_, ?_⟩
  · rw [ht, hu]
    rfl
  · have hup := congrArg Die.tunUp hudie
    rw [hdie]
    exact hup
  · rw [htun, hp]
    rfl
  · rw [htun, hp]
    rfl
  · rw [htun, hp]
    rfl
  · rw [htun]
    exact hcharge _ _ (by rw [hp]; exact src_flip ..)
  · rw [htun]
    exact hcharge _ _ (by rw [hp]; rfl)
  · have hops := congrArg Die.ops hudie
    have hkind := kind_of_runningTun hrun
    rw [hdie, Die.runningTun]
    change ((u.die cd).ops.map _).find? _ = _
    rw [hops]
    exact find?_replaced (o' := { o with fails := o.fails ++ [o.row], reexec := true }) hrun rfl hkind
  · rw [ht, hu]
    rfl

/-! ### Retirement -/

theorem retireTun_facts (s : State) (cd : Cd) (j : Fin 12) (row : Nat) :
    (s.retireTun cd j row).mem = s.mem ∧ ((s.retireTun cd j row).die cd).tunUp = (s.die cd).tunUp.set j false ∧
      ∀ x ∈ ((s.retireTun cd j row).die cd).ops, x.cls = 2 → x.st = .running → x.phys ≠ j.val := by
  obtain ⟨e, he⟩ : ∃ e : Die, e = { s.die cd with
    tunUp := (s.die cd).tunUp.set j false
    ops := (s.die cd).ops.map (fun o =>
      if o.cls = 2 ∧ (o.st = .running ∧ o.phys = j.val ∨ o.st = .queued ∧ (s.die cd).tunMap[unitOf o.unit] = j) then
        { o with st := .stopped, phys := j.val, status := 4, fails := [] } else o) } := ⟨_, rfl⟩
  obtain ⟨h, q, rg, hstep⟩ : ∃ h q rg, s.retireTun cd j row = { s.setDie cd e with host := h, logQ := q, regs := rg } := by
    unfold State.retireTun
    rw [ByteFields.depStatus_eq, ByteFields.event_eq, ByteFields.log_eq, he]
    exact ⟨_, _, _, rfl⟩
  have hdie : (s.retireTun cd j row).die cd = e := by
    rw [hstep]
    exact State.die_setDie_self ..
  refine ⟨by rw [hstep]; rfl, by rw [hdie, he], fun x hx hcls hst hphys => ?_⟩
  rw [hdie, he] at hx
  obtain ⟨y, -, rfl⟩ := List.mem_map.mp hx
  split at hst
  · exact absurd hst (by simp)
  · next hno =>
    rw [if_neg hno] at hcls hphys
    exact hno ⟨hcls, .inl ⟨hst, hphys⟩⟩

/-- The third failure of a pass retires its Tun. -/
theorem rowVerdict_retires (hrun : (s.die cd).runningTun j = some o) (hcode : o.code = 1) (hcold : (s.die cd).tuns[j].cold ≠ .idle)
    (hfail : (s.rowResult cd j o o.row fault).1 = .failed) (hfails : o.fails.length = 2) :
    ∃ t, Gives (.tunRowVerdict cd j fault) s t ∧ t.mem = s.mem ∧ (t.die cd).tunUp = (s.die cd).tunUp.set j false ∧
      ∀ x ∈ (t.die cd).ops, x.cls = 2 → x.st = .running → x.phys ≠ j.val := by
  obtain ⟨p, hp⟩ : ∃ p, p = presented ((s.die cd).tun j) (tMode o.w) fault := ⟨_, rfl⟩
  obtain ⟨u, hu⟩ : ∃ u, u = s.setDie cd ((s.die cd).setTun j p) := ⟨_, rfl⟩
  have hudie : u.die cd = (s.die cd).setTun j p := by rw [hu, State.die_setDie_self]
  have hstep : rowVerdict cd j fault s = (u.setDie cd (refusedDie u cd j o 0)).retireTun cd j o.row := by
    rw [rowVerdict_refused hrun hcode hcold hfail, ← hp, ← hu]
    exact rowFailed_retires hcode hfails
  obtain ⟨hmem, hup, hops⟩ := retireTun_facts (u.setDie cd (refusedDie u cd j o 0)) cd j o.row
  refine ⟨_, congrArg Host.Outcome.next hstep, hmem.trans (by rw [hu]; rfl), hup.trans ?_, hops⟩
  have hkeep := congrArg Die.tunUp hudie
  rw [State.die_setDie_self]
  exact congrArg (fun v : Vector Bool 12 => v.set j false) hkeep

end

theorem tunRowStores : TunRowStores := by
  intro cd j s o fault d tile hrun htile hfailed
  refine ⟨fun hcode hrow => rowVerdict_zero hrun htile hfailed hcode hrow, ?_, ?_, ?_⟩
  · exact fun hcode hcold hfinal hmode hpass hclean hrow hp =>
      rowVerdict_stores hrun htile hfailed hcode hcold hfinal hmode hpass hclean hrow hp
  · exact fun hcode hcold hfail hfails hrecent hroom => rowVerdict_again hrun hcode hcold hfail hfails hrecent hroom
  · exact fun hcode hcold hfail hfails => rowVerdict_retires hrun hcode hcold hfail hfails

/-! ### Completion and remapping -/

section
variable {s : State} {cd : Cd} {j : Fin 12} {o : Op}

/-- The operations that a retired Tun leaves behind. -/
abbrev stoppedAt (j : Nat) (x : Op) : Bool := x.cls == 2 && x.st == .stopped && x.phys == j

theorem stoppedAt_iff {j : Nat} {x : Op} : stoppedAt j x = true ↔ x.cls = 2 ∧ x.st = .stopped ∧ x.phys = j := by
  simp [stoppedAt, and_assoc]

theorem remapTun_moves {k : Fin 12} (hfirst : (s.die cd).ops.find? (stoppedAt j.val) = some o) (hk : nextUp (s.die cd).tunUp j.val = some k) :
    ∃ t, Gives (.seqRemapTun cd j) s t ∧ (t.die cd).cnt = (s.die cd).cnt ∧ (t.die cd).fault = (s.die cd).fault ∧
      (∀ u : Fin 12, (t.die cd).tunMap[u] = if (s.die cd).tunMap[u] = j then k else (s.die cd).tunMap[u]) ∧
      (∀ x ∈ (t.die cd).ops, ¬(x.cls = 2 ∧ x.st = .stopped ∧ x.phys = j.val)) ∧ t.mem = s.mem := by
  have hstep : remapTun cd j s = s.setDie cd { s.die cd with
      tunMap := (s.die cd).tunMap.map (fun x => if x = j then k else x)
      ops := ((s.die cd).ops.filter (fun o => !(stoppedAt j.val o && o.ctr.isNone))).map (fun o =>
        if stoppedAt j.val o then { o with st := .queued, phys := k.val, status := 0 } else o) } := by
    unfold remapTun
    dsimp only
    rw [hfirst]
    dsimp only
    rw [hk]
  refine ⟨_, congrArg Host.Outcome.next hstep, ?_, ?_, fun u => ?_, fun x hx => ?_, rfl⟩
  · rw [State.die_setDie_self]
  · rw [State.die_setDie_self]
  · rw [State.die_setDie_self]
    simp
  · rw [State.die_setDie_self] at hx
    obtain ⟨y, -, rfl⟩ := List.mem_map.mp hx
    split
    · simp
    · next hno => rwa [← stoppedAt_iff]

/-- Operations finished leave the issued ones, and a status of 4 faults nothing. -/
theorem finishAll_facts (l : List Op) (d : Die) : (l.foldl (fun e o => e.finish o 4) d).fault = d.fault ∧
    (l.foldl (fun e o => e.finish o 4) d).faultPc = d.faultPc ∧
    ∀ x ∈ (l.foldl (fun e o => e.finish o 4) d).ops, x ∈ d.ops ∧ ∀ o ∈ l, x.id ≠ o.id := by
  induction l generalizing d with
  | nil => exact ⟨rfl, rfl, fun x hx => ⟨hx, fun o ho => absurd ho List.not_mem_nil⟩⟩
  | cons o l ih =>
    obtain ⟨hfault, hpc, hops⟩ := ih (d.finish o 4)
    have hone : (d.finish o 4).fault = d.fault ∧ (d.finish o 4).faultPc = d.faultPc := by
      unfold Die.finish
      have hnone : faultOfStatus o.cls 4 = none := by simp [faultOfStatus]
      rw [hnone]
      dsimp only
      split <;> exact ⟨rfl, rfl⟩
    refine ⟨hfault.trans hone.1, hpc.trans hone.2, fun x hx => ?_⟩
    obtain ⟨hin, hne⟩ := hops x hx
    rw [Completions.finish_ops, List.mem_filter, bne_iff_ne] at hin
    exact ⟨hin.1, fun y hy => (List.mem_cons.mp hy).elim (fun e => e ▸ hin.2) (hne y)⟩

/-- Leaving the scoreboards changes nothing else. -/
theorem sbDropAll_facts (l : List Op) (s : State) (cd : Cd) :
    (l.foldl (fun t o => t.sbDrop (whoMove cd.val o.id)) s).mem = s.mem ∧
      ∃ sb, (l.foldl (fun t o => t.sbDrop (whoMove cd.val o.id)) s).die cd = { s.die cd with sb := sb } := by
  induction l generalizing s with
  | nil => exact ⟨rfl, _, rfl⟩
  | cons o l ih =>
    obtain ⟨hmem, sb, hdie⟩ := ih (s.sbDrop (whoMove cd.val o.id))
    rw [TileEntries.die_sbDrop] at hdie
    exact ⟨hmem, sb, hdie⟩

theorem nextUp_none {up : Vector Bool 12} (h : ∀ k : Fin 12, up[k] = false) (j : Nat) : nextUp up j = none :=
  List.find?_eq_none.mpr fun k _ => by
    rw [h k]
    exact Bool.false_ne_true

theorem fail_facts {d : Die} (hmode : d.mode = .running) (hfault : d.fault = 0) (code pc cls op unit status : Nat) :
    (d.fail code pc cls op unit status).fault = code ∧ (d.fail code pc cls op unit status).faultPc = BitVec.ofNat 48 pc ∧
      (d.fail code pc cls op unit status).ops = d.ops := by
  unfold Die.fail
  rw [if_pos ⟨.inl hmode, hfault⟩]
  refine ⟨rfl, rfl, ?_⟩
  dsimp only
  unfold Die.endWait
  split <;> rfl

theorem remapTun_faults (hmode : (s.die cd).mode = .running) (hfault : (s.die cd).fault = 0)
    (hdown : ∀ k : Fin 12, (s.die cd).tunUp[k] = false) (hfirst : (s.die cd).ops.find? (stoppedAt j.val) = some o) :
    ∃ t, Gives (.seqRemapTun cd j) s t ∧ (t.die cd).fault = 7 ∧ (t.die cd).faultPc = BitVec.ofNat 48 o.pc ∧
      (∀ x ∈ (t.die cd).ops, ¬(x.cls = 2 ∧ x.st = .stopped ∧ x.phys = j.val)) ∧ t.mem = s.mem := by
  obtain ⟨e, he⟩ : ∃ e, e = (s.die cd).fail 7 o.pc 2 o.code o.unit 4 := ⟨_, rfl⟩
  obtain ⟨hcode, hpc, hops⟩ := fail_facts hmode hfault 7 o.pc 2 o.code o.unit 4
  rw [← he] at hcode hpc hops
  obtain ⟨l, hl⟩ : ∃ l, l = e.ops.filter (stoppedAt j.val) := ⟨_, rfl⟩
  have hstep : remapTun cd j s = l.foldl (fun t o => t.sbDrop (whoMove cd.val o.id)) (s.setDie cd (l.foldl (fun e o => e.finish o 4) e)) := by
    unfold remapTun
    dsimp only
    rw [hfirst]
    dsimp only
    rw [nextUp_none hdown, hl, he]
  obtain ⟨hfault', hpc', hleft⟩ := finishAll_facts l e
  obtain ⟨hmem, sb, hdie⟩ := sbDropAll_facts l (s.setDie cd (l.foldl (fun e o => e.finish o 4) e)) cd
  rw [State.die_setDie_self] at hdie
  refine ⟨_, congrArg Host.Outcome.next hstep, ?_, ?_, fun x hx hstopped => ?_, hmem⟩
  · rw [hdie]
    exact hfault'.trans hcode
  · rw [hdie]
    exact hpc'.trans hpc
  · rw [hdie] at hx
    obtain ⟨hin, hne⟩ := hleft x hx
    exact hne x (by rw [hl]; exact List.mem_filter.mpr ⟨hin, stoppedAt_iff.mpr hstopped⟩) rfl

end

theorem tunCompletionAndRemap : TunCompletionAndRemap := by
  intro cd j s o d
  refine ⟨fun hended => congrArg Host.Outcome.next ?_, fun k hfirst hk => remapTun_moves hfirst hk,
    fun hmode hfault hdown hfirst => remapTun_faults hmode hfault hdown hfirst⟩
  unfold tunComplete
  dsimp only
  rw [hended]

/-- Settles O12: by what a row stores, what a refused row leaves, and what completion and remapping do to the die. -/
theorem tunResults : Obligations.TunResults := ⟨tunRowStores, tunCompletionAndRemap⟩

end Sys2Proof.Proofs.TunRows
end

section
/-! PROOF. A Sparge unit's instructions, its failing checks, and what its lanes compute (R124, R125, R127, R128, R136–R145, R178,
R180, R181). -/

namespace Sys2Proof.Proofs.SpargeUnits

open Sys2Proof.Machine Sys2Proof.Claims Sys2Proof.Proofs.TunRows Sys2Proof.Proofs.CollectivePacketsTaken

/-! ### What performing lane-rows changes -/

section
variable {s : State} {k : Work}

theorem sameButWritten_putPiece (s : State) (cd : Cd) (o : Op) (r : Nat) (p : Piece) : SameButWritten s (s.putPiece cd o r p) := by
  unfold State.putPiece
  split
  · exact .refl s
  · exact sameButWritten_putBytes ..

theorem sameButWritten_fold {α : Type} {step : Work → α → Work} (hstep : ∀ k r, SameButWritten s k.st → SameButWritten s (step k r).st)
    (h : SameButWritten s k.st) (l : List α) : SameButWritten s (l.foldl step k).st := by
  induction l generalizing k with
  | nil => exact h
  | cons r l ih => exact ih (hstep k r h)

theorem put_cons (k : Work) (cd : Cd) (o : Op) (r : Nat) (p : Piece) (ps : List Piece) :
    k.put cd o r (p :: ps) = Work.put { k with
      st := k.st.putPiece cd o r p
      sum := sumPiece (vPred o.w) (ffDecode ffF32 (o.sv.getD 4 0)) k.sum p
      bad := k.bad || decide (piecePoison p ≠ 0)
      lanes := k.lanes + piecePoison p } cd o r ps := by
  unfold Work.put
  exact List.foldl_cons ..

theorem sameButWritten_put (h : SameButWritten s k.st) (cd : Cd) (o : Op) (r : Nat) (ps : List Piece) :
    SameButWritten s (k.put cd o r ps).st := by
  induction ps generalizing k with
  | nil => exact h
  | cons p ps ih =>
    have hp := h.trans (sameButWritten_putPiece k.st cd o r p)
    rw [put_cons]
    generalize k.st.putPiece cd o r p = t at hp ⊢
    exact ih hp

theorem sameButWritten_take (h : SameButWritten s k.st) (cd : Cd) (o : Op) (r : Nat) (ps : Option (List Piece)) (f : List Piece → List Piece) :
    SameButWritten s (k.take cd o r ps f).st := by
  unfold Work.take
  split
  · exact h
  cases ps with
  | none => exact h
  | some l => exact sameButWritten_put h ..

/-- Lane-rows performed write, and change nothing else. -/
theorem sameButWritten_vecRun (s : State) (cd : Cd) (o : Op) (sum : Summary) (upto : Nat) : SameButWritten s (s.vecRun cd o sum upto).st := by
  have h0 : SameButWritten s (⟨s, sum, o.poison, 0, false⟩ : Work).st := .refl s
  unfold State.vecRun
  dsimp only
  split
  · split
    · exact sameButWritten_take h0 ..
    · exact h0
  split
  · split
    · split
      · exact sameButWritten_take h0 ..
      · exact h0
    · exact sameButWritten_fold (fun k r h => sameButWritten_take h ..) h0 _
  · refine sameButWritten_fold (fun k r h => ?_) h0 _
    split
    · exact sameButWritten_take h ..
    · exact h

end

section
variable {s : State} {cd : Cd} {u : Fin 12} {o : Op}

/-! ### Start -/

theorem spargeStart_refused (hup : (s.die cd).sparUp[u] = true) (hmode : (s.die cd).mode ≠ .fenced) (hnext : (s.die cd).nextVec u = some o)
    (hbad : vCheck o ≠ 0) : spargeStart cd u s =
      s.setDie cd (withOp (s.die cd) { o with st := .ended, status := vCheck o, phys := u.val, decided := true }) := by
  unfold spargeStart
  dsimp only
  rw [if_neg (not_or.mpr ⟨by rw [hup]; decide, hmode⟩), hnext]
  exact if_pos hbad

/-- An instruction that names no tile takes none. -/
theorem takeTiles_none {d : Die} (hsb : d.sb = []) (htiles : ∀ i ∈ vUses o, vTiles o i = []) : d.takeTiles o = d := by
  have hout : vTiles o 3 = [] := htiles 3 (List.mem_append_right _ (List.mem_singleton.mpr rfl))
  have hin : (List.range (vArity o.code)).flatMap (vTiles o) = [] :=
    List.flatMap_eq_nil_iff.mpr fun i hi => htiles i (List.mem_append_left _ hi)
  unfold Die.takeTiles
  rw [hsb, hout, hin]
  refine (if_neg (by simp)).trans ?_
  change { d with sb := [] } = d
  rw [← hsb]

theorem spargeStart_starts (hup : (s.die cd).sparUp[u] = true) (hmode : (s.die cd).mode ≠ .fenced) (hnext : (s.die cd).nextVec u = some o)
    (hok : vCheck o = 0) (hsb : (s.die cd).sb = []) (htiles : ∀ i ∈ vUses o, vTiles o i = []) :
    ∃ t, Gives (.spargeStart cd u) s t ∧ (t.die cd).ops = (withOp (s.die cd) { o with st := .running, phys := u.val }).ops ∧
      t.mem = s.mem ∧ (t.die cd).cnt = (s.die cd).cnt := by
  have hstep : spargeStart cd u s = s.setDie cd { (s.die cd).putOp { o with st := .running, phys := u.val } with
      slotQ := if (s.die cd).slotQ.any (fun p => p.1 == o.id) then (s.die cd).slotQ else tabSet (s.die cd).slotQ o.id .reset } := by
    unfold spargeStart
    dsimp only
    rw [if_neg (not_or.mpr ⟨by rw [hup]; decide, hmode⟩), hnext]
    dsimp only
    rw [if_neg (by rw [hok]; decide), takeTiles_none hsb htiles]
    exact if_pos (by rw [hsb]; rfl)
  refine ⟨_, congrArg Host.Outcome.next hstep, ?_, rfl, ?_⟩ <;> rw [State.die_setDie_self] <;> rfl

/-! ### Completion -/

theorem spargeComplete_ends {k : Work} (hk : k = s.vecRun cd o (tabGet .reset (s.die cd).slotQ o.id) (vTotal o))
    (hfind : (s.die cd).ops.find? (fun x => x.cls == 3 && x.phys == u.val && (x.st == .running || (x.st == .ended && x.decided))) = some o)
    (hst : o.st = .running) (hplain : vSummary o.w = false) :
    ∃ t, Gives (.spargeComplete cd u) s t ∧ t.mem = k.st.mem ∧ t.poison = k.st.poison ∧
      (∀ x ∈ (t.die cd).ops, x.id ≠ o.id) ∧
      (∀ c : Fin 16, o.ctr = some c.val → k.fault = false → k.bad = false →
        (t.die cd).cnt[c].count = (k.st.die cd).cnt[c].count + 1 ∧ (t.die cd).cnt[c].err = (k.st.die cd).cnt[c].err) := by
  obtain ⟨st, hstatus⟩ : ∃ st, st = if k.fault then 7 else if k.bad then 5 else if o.reexec then 1 else 0 := ⟨_, rfl⟩
  obtain ⟨o', ho'⟩ : ∃ o', o' = { o with st := .ended, status := st, poison := k.bad } := ⟨_, rfl⟩
  obtain ⟨e, he⟩ : ∃ e : Die, e = { ((k.st.die cd).setSpu u { (k.st.die cd).spu u with
    poisonRows := satAdd32 ((k.st.die cd).spu u).poisonRows k.lanes }).putOp o' with slotQ := tabSet (k.st.die cd).slotQ o'.id k.sum } := ⟨_, rfl⟩
  have hstep : spargeComplete cd u s = k.st.setDie cd { e.finish o' st with slotQ := tabDel e.slotQ o.id } := by
    have hkeep : State.vecKeep k cd u o' = k.st.setDie cd e := by rw [he]; rfl
    unfold spargeComplete
    dsimp only
    rw [hfind]
    dsimp only
    rw [if_neg (by rw [hst]; decide), hplain, if_neg Bool.false_ne_true, ← hk, ← hstatus, ← ho', hkeep]
    exact Movements.updDie_setDie ..
  have hid : o'.id = o.id := by rw [ho']
  have hcnt : e.cnt = (k.st.die cd).cnt := by rw [he]; rfl
  refine ⟨_, congrArg Host.Outcome.next hstep, rfl, rfl, fun x hx => ?_, fun c hc hfault hbad => ?_⟩
  · rw [State.die_setDie_self] at hx
    have hx : x ∈ (e.finish o' st).ops := hx
    rw [Completions.finish_ops, List.mem_filter, bne_iff_ne, hid] at hx
    exact hx.2
  · rw [State.die_setDie_self]
    change ((e.finish o' st).cnt[c]).count = _ ∧ ((e.finish o' st).cnt[c]).err = _
    rw [Completions.finish_cnt_self e st (show o'.ctr = some c.val by rw [ho']; exact hc), hcnt]
    refine ⟨rfl, if_pos ?_⟩
    rw [hstatus, hfault, hbad]
    cases o.reexec
    · exact .inl rfl
    · exact .inr rfl

theorem slotUpdate_publishes (hfind : (s.die cd).ops.find? (fun x => x.cls == 3 && x.phys == u.val && x.st == .ended && !x.decided) = some o)
    (halone : vCombine o.w = false) :
    ∃ t, Gives (.summarySlotUpdate cd u) s t ∧ t.mem = s.mem ∧
      (t.die cd).slot o.unit (fld o.w 54 3) = sumFinal (vPred o.w) (tabGet .reset (s.die cd).slotQ o.id) ∧
      (∀ c : Fin 16, o.ctr = some c.val → (t.die cd).cnt[c].count = (s.die cd).cnt[c].count + 1) := by
  have hstep : slotUpdate cd u s = s.setDie cd { (s.die cd).finish o o.status with
      slots := tabSet (s.die cd).slots (o.unit * 8 + vSlot o.w) (sumFinal (vPred o.w) (tabGet .reset (s.die cd).slotQ o.id))
      slotQ := tabDel (s.die cd).slotQ o.id } := by
    unfold slotUpdate
    dsimp only
    rw [hfind]
    dsimp only
    rw [halone, if_neg Bool.false_ne_true]
  refine ⟨_, congrArg Host.Outcome.next hstep, rfl, ?_, fun c hc => ?_⟩
  · rw [State.die_setDie_self]
    exact tabGet_tabSet_self ..
  · rw [State.die_setDie_self]
    change (((s.die cd).finish o o.status).cnt[c]).count = _
    rw [Completions.finish_cnt_self _ _ hc]
    rfl

/-! ### Failing checks -/

/-- The die after a failed lane check, once what was done before it is kept. -/
def laneFailed (d : Die) (u : Fin 12) (o' : Op) (sum : Summary) (lanes again : Nat) (recent : List Nat) : Die :=
  { d with
    spar := d.spar.set u { d.spar[u] with
      poisonRows := satAdd32 d.spar[u].poisonRows lanes
      failures := satAdd32 d.spar[u].failures 1
      reexec := satAdd32 d.spar[u].reexec again
      failAt := recent }
    ops := d.ops.map (fun x => if x.id == o'.id then o' else x)
    slotQ := tabSet d.slotQ o'.id sum }

theorem laneFailed_eq {k : Work} {o' : Op} (again : Nat) (recent : List Nat) :
    (State.vecKeep k cd u o').updDie cd (fun d => d.setSpu u { d.spu u with
      failures := satAdd32 (d.spu u).failures 1, reexec := satAdd32 (d.spu u).reexec again, failAt := recent }) =
    k.st.setDie cd (laneFailed (k.st.die cd) u o' k.sum k.lanes again recent) := by
  refine (Movements.updDie_setDie ..).trans (congrArg (k.st.setDie cd) ?_)
  simp only [laneFailed, Die.setSpu, Die.spu, Die.putOp, Fin.getElem_fin, Vector.getElem_set_self, Vector.set_set]

theorem kind_of_runningVec (h : (s.die cd).runningVec u = some o) : (o.cls == 3 && o.st == .running && o.phys == u.val) = true :=
  List.find?_some (p := fun o : Op => o.cls == 3 && o.st == .running && o.phys == u.val) h

/-- The instruction that goes on from the lane-row the check names. -/
def goingOn (o : Op) (row : Nat) (bad : Bool) : Op :=
  { o with row := vRestart o row, fails := o.fails ++ [row], reexec := true, poison := bad }

/-- The state of a unit whose lane-row failed, once it is known whether the unit is retired. -/
def failedState (k : Work) (cd : Cd) (u : Fin 12) (o : Op) (row again : Nat) (recent : List Nat) : State :=
  k.st.setDie cd (laneFailed (k.st.die cd) u (goingOn o row k.bad) k.sum k.lanes again recent)

/-- The failures of a unit that still count, with one at this clock where the instruction had none. -/
def failTimes (d : Die) (u : Fin 12) (o : Op) : List Nat :=
  recentFails (d.spu u).failAt d.clkUp ++ (if o.fails.isEmpty then [d.clkUp] else [])

section
variable {k : Work} {row : Nat}

theorem spargeFail_again (hk : k = s.vecRun cd o (tabGet .reset (s.die cd).slotQ o.id) (vRestart o row))
    (hrun : (s.die cd).runningVec u = some o) (hlo : o.row ≤ row) (hhi : row < vTotal o) (hfault : k.fault = false)
    (hfails : (o.fails.filter (fun f => decide (row ≤ f))).length < 2) (hrecent : (failTimes (s.die cd) u o).length < 8) :
    spargeFail cd u row s = (failedState k cd u o row 1 (failTimes (s.die cd) u o)).log 7 0 cd.val u.val row 0 := by
  unfold spargeFail
  dsimp only
  rw [hrun]
  dsimp only
  rw [if_neg (by omega), ← hk, if_neg (by rw [hfault]; exact Bool.false_ne_true)]
  have hretire : decide (2 ≤ (o.fails.filter (fun f => decide (row ≤ f))).length ∨ 8 ≤ (failTimes (s.die cd) u o).length) = false :=
    decide_eq_false (by omega)
  unfold failTimes at hretire
  rw [hretire, if_neg Bool.false_ne_true, if_neg Bool.false_ne_true]
  exact congrArg (fun t : State => t.log 7 0 cd.val u.val row 0) (laneFailed_eq ..)

theorem spargeFail_retires (hk : k = s.vecRun cd o (tabGet .reset (s.die cd).slotQ o.id) (vRestart o row))
    (hrun : (s.die cd).runningVec u = some o) (hlo : o.row ≤ row) (hhi : row < vTotal o) (hfault : k.fault = false)
    (hfails : 2 ≤ (o.fails.filter (fun f => decide (row ≤ f))).length) :
    spargeFail cd u row s = (failedState k cd u o row 0 (failTimes (s.die cd) u o)).retireVec cd u row := by
  unfold spargeFail
  dsimp only
  rw [hrun]
  dsimp only
  rw [if_neg (by omega), ← hk, if_neg (by rw [hfault]; exact Bool.false_ne_true)]
  have hretire : decide (2 ≤ (o.fails.filter (fun f => decide (row ≤ f))).length ∨ 8 ≤ (failTimes (s.die cd) u o).length) = true :=
    decide_eq_true (.inl hfails)
  unfold failTimes at hretire
  rw [hretire, if_pos rfl, if_pos rfl]
  exact congrArg (fun t : State => t.retireVec cd u row) (laneFailed_eq ..)

/-- What is written before a failed lane-row stands, and the die is otherwise the one the instruction ran on. -/
theorem failedState_facts (hk : SameButWritten s k.st) (cd : Cd) (u : Fin 12) (o : Op) (row again : Nat) (recent : List Nat) :
    (failedState k cd u o row again recent).mem = k.st.mem ∧ (failedState k cd u o row again recent).logQ = s.logQ ∧
      (failedState k cd u o row again recent).time = s.time ∧
      (failedState k cd u o row again recent).die cd =
        laneFailed (s.die cd) u (goingOn o row k.bad) k.sum k.lanes again recent := by
  obtain ⟨m, p, q, hst⟩ := hk
  refine ⟨rfl, ?_, ?_, ?_⟩
  · have hlogQ := congrArg State.logQ hst
    exact hlogQ
  · have htime := congrArg State.time hst
    exact htime
  · rw [failedState, State.die_setDie_self, State.die_of_dies (congrArg State.dies hst)]
    rfl

/-- A failed lane-row is counted and logged, and the instruction goes on from where the check says. -/
theorem spargeFail_goesOn (hk : k = s.vecRun cd o (tabGet .reset (s.die cd).slotQ o.id) (vRestart o row))
    (hrun : (s.die cd).runningVec u = some o) (hlo : o.row ≤ row) (hhi : row < vTotal o) (hfault : k.fault = false)
    (hroom : s.logQ.length < 256) (hfails : (o.fails.filter (fun f => decide (row ≤ f))).length < 2)
    (hrecent : (recentFails (s.die cd).spar[u].failAt (s.die cd).clkUp).length + 1 < 8) :
    ∃ t, Gives (.spargeCheckFail cd u row) s t ∧ t.mem = k.st.mem ∧
      (t.die cd).spar[u].failures = satAdd32 (s.die cd).spar[u].failures 1 ∧
      (t.die cd).spar[u].reexec = satAdd32 (s.die cd).spar[u].reexec 1 ∧
      (∃ x, (t.die cd).runningVec u = some x ∧ x.id = o.id ∧ x.row = vRestart o row ∧ x.fails = o.fails ++ [row]) ∧
      t.logQ = s.logQ ++ [⟨s.time, 7, 0, cd.val, u.val, row, 0⟩] ∧ (t.die cd).sparUp = (s.die cd).sparUp := by
  have hcount : (failTimes (s.die cd) u o).length < 8 := by
    have hrecent : (recentFails ((s.die cd).spu u).failAt (s.die cd).clkUp).length + 1 < 8 := hrecent
    rw [failTimes, List.length_append]
    split <;> simp only [List.length_cons, List.length_nil] <;> omega
  obtain ⟨v, hv⟩ : ∃ v, v = failedState k cd u o row 1 (failTimes (s.die cd) u o) := ⟨_, rfl⟩
  obtain ⟨hmem, hlogQ, htime, hdie⟩ := failedState_facts (hk ▸ sameButWritten_vecRun ..) cd u o row 1 (failTimes (s.die cd) u o)
  rw [← hv] at hmem hlogQ htime hdie
  have hstep : spargeFail cd u row s = { v with logQ := v.logQ ++ [⟨v.time, 7, 0, cd.val, u.val, row, 0⟩], regs := ByteFields.logRegs v } := by
    rw [spargeFail_again hk hrun hlo hhi hfault hfails hcount, ← hv, ByteFields.log_eq,
      ByteFields.logAfter_of_room (by rw [hlogQ]; exact hroom)]
  obtain ⟨t, ht⟩ : ∃ t : State, t = { v with
    logQ := v.logQ ++ [⟨v.time, 7, 0, cd.val, u.val, row, 0⟩]
    regs := ByteFields.logRegs v } := ⟨_, rfl⟩
  have htdie : t.die cd = laneFailed (s.die cd) u (goingOn o row k.bad) k.sum k.lanes 1 (failTimes (s.die cd) u o) := by
    rw [← hdie, ht]
    rfl
  have hspar : (t.die cd).spar[u] = { (s.die cd).spar[u] with
      poisonRows := satAdd32 (s.die cd).spar[u].poisonRows k.lanes
      failures := satAdd32 (s.die cd).spar[u].failures 1
      reexec := satAdd32 (s.die cd).spar[u].reexec 1
      failAt := failTimes (s.die cd) u o } := by
    rw [htdie, laneFailed, Fin.getElem_fin, Vector.getElem_set_self]
  refine ⟨t, congrArg Host.Outcome.next (hstep.trans ht.symm), ?_, ?_, ?_, ⟨goingOn o row k.bad, ?_, rfl, rfl, rfl⟩, ?_, ?_⟩
  · rw [ht]
    exact hmem
  · rw [hspar]
  · rw [hspar]
  · have hkind := kind_of_runningVec hrun
    rw [htdie]
    exact find?_replaced (o' := goingOn o row k.bad) hrun rfl hkind
  · rw [ht]
    exact (congrArg₂ (fun l time => l ++ [(⟨time, 7, 0, cd.val, u.val, row, 0⟩ : LogRec)]) hlogQ htime)
  · rw [htdie]
    rfl

theorem retireVec_facts (v : State) (cd : Cd) (u : Fin 12) (row : Nat) (hroom : v.logQ.length < 256) :
    (v.retireVec cd u row).mem = v.mem ∧ ((v.retireVec cd u row).die cd).sparUp = (v.die cd).sparUp.set u false ∧
      (∀ x ∈ ((v.retireVec cd u row).die cd).ops, x.cls = 3 → x.st = .running → x.phys ≠ u.val) ∧
      (v.retireVec cd u row).logQ = v.logQ ++ [⟨v.time, 8, 0, cd.val, u.val, row, 0⟩] := by
  obtain ⟨e, he⟩ : ∃ e : Die, e = { v.die cd with
    sparUp := (v.die cd).sparUp.set u false
    ops := (v.die cd).ops.map (fun o =>
      if o.cls = 3 ∧ (o.st = .running ∧ o.phys = u.val ∨ o.st = .queued ∧ (v.die cd).sparMap[unitOf o.unit] = u) then
        { o with st := .stopped, phys := u.val, status := 4, fails := [] } else o) } := ⟨_, rfl⟩
  obtain ⟨h, rg, hstep⟩ : ∃ h rg, v.retireVec cd u row = { v.setDie cd e with
      host := h, regs := rg, logQ := v.logQ ++ [⟨v.time, 8, 0, cd.val, u.val, row, 0⟩] } := by
    have hlog := ByteFields.logAfter_of_room (s := v.setDie cd e) hroom 8 0 cd.val u.val row 0
    unfold State.retireVec
    rw [ByteFields.depStatus_eq, ByteFields.event_eq, ByteFields.log_eq]
    dsimp only [State.updDie]
    rw [← he, hlog]
    exact ⟨_, _, rfl⟩
  have hdie : (v.retireVec cd u row).die cd = e := by
    rw [hstep]
    exact State.die_setDie_self ..
  refine ⟨by rw [hstep]; rfl, by rw [hdie, he], fun x hx hcls hst hphys => ?_, by rw [hstep]⟩
  rw [hdie, he] at hx
  obtain ⟨y, -, rfl⟩ := List.mem_map.mp hx
  split at hst
  · exact absurd hst (by simp)
  · next hno =>
    rw [if_neg hno] at hcls hphys
    exact hno ⟨hcls, .inl ⟨hst, hphys⟩⟩

/-- A third execution that fails retires the unit. -/
theorem spargeFail_third (hk : k = s.vecRun cd o (tabGet .reset (s.die cd).slotQ o.id) (vRestart o row))
    (hrun : (s.die cd).runningVec u = some o) (hlo : o.row ≤ row) (hhi : row < vTotal o) (hfault : k.fault = false)
    (hroom : s.logQ.length < 256) (hfails : 2 ≤ (o.fails.filter (fun f => decide (row ≤ f))).length) :
    ∃ t, Gives (.spargeCheckFail cd u row) s t ∧ t.mem = k.st.mem ∧ (t.die cd).sparUp = (s.die cd).sparUp.set u false ∧
      (∀ x ∈ (t.die cd).ops, x.cls = 3 → x.st = .running → x.phys ≠ u.val) ∧
      t.logQ = s.logQ ++ [⟨s.time, 8, 0, cd.val, u.val, row, 0⟩] := by
  obtain ⟨v, hv⟩ : ∃ v, v = failedState k cd u o row 0 (failTimes (s.die cd) u o) := ⟨_, rfl⟩
  obtain ⟨hmem, hlogQ, htime, hdie⟩ := failedState_facts (hk ▸ sameButWritten_vecRun ..) cd u o row 0 (failTimes (s.die cd) u o)
  rw [← hv] at hmem hlogQ htime hdie
  have hstep : spargeFail cd u row s = v.retireVec cd u row := by
    rw [spargeFail_retires hk hrun hlo hhi hfault hfails, ← hv]
  obtain ⟨hmem', hup, hops, hlog⟩ := retireVec_facts v cd u row (by rw [hlogQ]; exact hroom)
  refine ⟨_, congrArg Host.Outcome.next hstep, hmem'.trans hmem, hup.trans ?_, hops, hlog.trans ?_⟩
  · rw [hdie]
    rfl
  · rw [hlogQ, htime]

end

/-! ### Remapping -/

/-- The instructions that a retired unit leaves behind. -/
abbrev leftAt (u : Nat) (x : Op) : Bool := x.cls == 3 && x.st == .stopped && x.phys == u

theorem leftAt_iff {u : Nat} {x : Op} : leftAt u x = true ↔ x.cls = 3 ∧ x.st = .stopped ∧ x.phys = u := by
  simp [leftAt, and_assoc]

theorem remapVec_moves {k : Fin 12} (hfirst : (s.die cd).ops.find? (leftAt u.val) = some o) (hk : nextUp (s.die cd).sparUp u.val = some k) :
    ∃ t, Gives (.seqRemapSparge cd u) s t ∧ (t.die cd).cnt = (s.die cd).cnt ∧
      (∀ v : Fin 12, (t.die cd).sparMap[v] = if (s.die cd).sparMap[v] = u then k else (s.die cd).sparMap[v]) ∧
      (∀ x ∈ (t.die cd).ops, ¬(x.cls = 3 ∧ x.st = .stopped ∧ x.phys = u.val)) ∧ t.mem = s.mem := by
  have hstep : remapVec cd u s = s.setDie cd { s.die cd with
      sparMap := (s.die cd).sparMap.map (fun x => if x = u then k else x)
      ops := (s.die cd).ops.map (fun o => if leftAt u.val o then
        { o with st := .queued, phys := k.val, status := 0, row := vReissue o } else o) } := by
    unfold remapVec
    dsimp only
    rw [hfirst]
    dsimp only
    rw [hk]
  refine ⟨_, congrArg Host.Outcome.next hstep, ?_, fun v => ?_, fun x hx => ?_, rfl⟩
  · rw [State.die_setDie_self]
  · rw [State.die_setDie_self]
    simp
  · rw [State.die_setDie_self] at hx
    obtain ⟨y, -, rfl⟩ := List.mem_map.mp hx
    split
    · simp
    · next hno => rwa [← leftAt_iff]

end

theorem spargeUnitWork : SpargeUnitWork := by
  intro cd u s o d
  refine ⟨?_, ?_, ?_, ?_, ?_, ?_⟩
  · exact fun hup hmode hnext hbad => congrArg Host.Outcome.next (spargeStart_refused hup hmode hnext hbad)
  · exact fun hup hmode hnext hok hsb htiles => spargeStart_starts hup hmode hnext hok hsb htiles
  · exact fun hfind hst hplain => spargeComplete_ends rfl hfind hst hplain
  · exact fun hfind halone => slotUpdate_publishes hfind halone
  · intro row hrun hlo hhi k hfault hroom
    refine ⟨fun hfails hrecent => ?_, fun hfails => ?_⟩
    · exact spargeFail_goesOn rfl hrun hlo hhi hfault hroom hfails hrecent
    · exact spargeFail_third rfl hrun hlo hhi hfault hroom hfails
  · exact fun k hfirst hk => remapVec_moves hfirst hk

/-! ### Lane arithmetic -/

/-- A value held to the I32 range, and whether it left it. -/
theorem saturated (v : Int) :
    (if v < -(2 ^ 31 : Int) then (-(2 ^ 31), true) else if (2 ^ 31 - 1 : Int) < v then (2 ^ 31 - 1, true) else (v, false)) =
      (max (-2 ^ 31) (min (2 ^ 31 - 1) v), decide (v < -2 ^ 31 ∨ 2 ^ 31 - 1 < v)) := by
  split
  · next h => exact Prod.ext (by dsimp only; omega) (decide_eq_true (.inl h)).symm
  split
  · next h => exact Prod.ext (by dsimp only; omega) (decide_eq_true (.inr h)).symm
  · next hlo hhi => exact Prod.ext (by dsimp only; omega) (decide_eq_false (not_or.mpr ⟨hlo, hhi⟩)).symm

theorem toSigned_mod (x : Nat) : toSigned 32 x = (BitVec.ofNat 32 x).toInt := by
  rw [← Waits.toSigned_toNat, BitVec.toNat_ofNat]
  simp only [toSigned, Nat.mod_mod]

theorem intOp_saturates (a b : Word) :
    intOp 0x10 a.toNat b.toNat = (max (-2 ^ 31) (min (2 ^ 31 - 1) (a.toInt + b.toInt)),
      decide (a.toInt + b.toInt < -2 ^ 31 ∨ 2 ^ 31 - 1 < a.toInt + b.toInt)) ∧
    intOp 0x11 a.toNat b.toNat = (max (-2 ^ 31) (min (2 ^ 31 - 1) (a.toInt - b.toInt)),
      decide (a.toInt - b.toInt < -2 ^ 31 ∨ 2 ^ 31 - 1 < a.toInt - b.toInt)) ∧
    intOp 0x12 a.toNat b.toNat = (max (-2 ^ 31) (min (2 ^ 31 - 1) (a.toInt * b.toInt)),
      decide (a.toInt * b.toInt < -2 ^ 31 ∨ 2 ^ 31 - 1 < a.toInt * b.toInt)) := by
  rw [← saturated, ← saturated, ← saturated, ← Waits.toSigned_toNat, ← Waits.toSigned_toNat]
  exact ⟨rfl, rfl, rfl⟩

theorem intOp_bits (a b : Word) :
    intOp 0x13 a.toNat b.toNat = ((a &&& b).toInt, false) ∧ intOp 0x14 a.toNat b.toNat = ((a ||| b).toInt, false) ∧
      intOp 0x15 a.toNat b.toNat = ((a ^^^ b).toInt, false) := by
  simp only [← Waits.toSigned_toNat, BitVec.toNat_and, BitVec.toNat_or, BitVec.toNat_xor]
  exact ⟨rfl, rfl, rfl⟩

theorem intOp_shifts (a b : Word) :
    intOp 0x16 a.toNat b.toNat = ((a <<< (b.toNat % 32)).toInt, false) ∧
      intOp 0x17 a.toNat b.toNat = (a.toInt / 2 ^ (b.toNat % 32), false) := by
  have hleft : toSigned 32 (a.toNat * 2 ^ (b.toNat % 32)) = (a <<< (b.toNat % 32)).toInt := by
    rw [toSigned_mod, ← Nat.shiftLeft_eq]
    rfl
  have hright : toSigned 32 a.toNat / ((2 ^ (b.toNat % 32) : Nat) : Int) = a.toInt / 2 ^ (b.toNat % 32) := by
    rw [Waits.toSigned_toNat]
    push_cast
    rfl
  exact ⟨congrArg (fun v => (v, false)) hleft, congrArg (fun v => (v, false)) hright⟩

/-- A division by zero is a pole: the largest finite value in fast mode, an infinity in strict mode. -/
theorem pole (dir : Dir) (n : Bool) {p q : Nat} (hp : 0 < p) :
    (floatOp 0x21 false dir (.fin n p q) .zero .zero).1 = ffDecode ffF32 (ffInf ffF32 - 1 + ffSign ffF32 n) ∧
      (floatOp 0x21 false dir (.fin n p q) .zero .zero).2.sat = true ∧
      (floatOp 0x21 true dir (.fin n p q) .zero .zero).1 = .inf n := by
  have hdiv : vDiv (.fin n p q) .zero = .inf n := by
    simp [vDiv, firstNan, Val.zero, hp.ne']
  have hpole (strict : Bool) : floatOp 0x21 strict dir (.fin n p q) .zero .zero =
      roundF32 strict (if strict then dir else .nearest) (.inf n) [.fin n p q, .zero] := by
    rw [← hdiv]
    rfl
  have hfinite : [Val.fin n p q, .zero].any valIsInf = false := rfl
  rw [hpole, hpole]
  unfold roundF32
  dsimp only
  rw [hfinite]
  exact ⟨congrArg (ffDecode ffF32) (Nat.add_comm ..), rfl, rfl⟩

theorem spargeLaneArithmetic : SpargeLaneArithmetic := by
  refine ⟨fun a b => ?_, fun dir n p q hp hq => pole dir n hp⟩
  obtain ⟨hadd, hsub, hmul⟩ := intOp_saturates a b
  obtain ⟨hand, hor, hxor⟩ := intOp_bits a b
  obtain ⟨hshl, hshr⟩ := intOp_shifts a b
  exact ⟨hadd, hsub, hmul, hand, hor, hxor, hshl, hshr⟩

/-- Settles O14: by what a unit's start, completion, failed check and remapping do to the die, and by the arithmetic of its lanes. -/
theorem spargeOperations : Obligations.SpargeOperations := ⟨spargeUnitWork, spargeLaneArithmetic⟩

end Sys2Proof.Proofs.SpargeUnits
end
